-- ==== Sys2Proof/Word.lean ====
section
/-! DEFINITION. Words of the ORL1536: registers of 32 bits (R7), Yard words of 64 (R352), accumulators of 72 (R5). -/

namespace Sys2Proof

/-- A register or local-memory word (R7, R112). -/
abbrev W32 := BitVec 32

/-- A Yard word (R348, R352). -/
abbrev W64 := BitVec 64

/-- A Scarab address register (R111). -/
abbrev W16 := BitVec 16

/-- An A72 accumulator (R5). -/
abbrev W72 := BitVec 72

/-- A sparse table: key and value pairs, keys strictly rising, no entry equal to the table's default. -/
abbrev Tbl (α : Type) := List (Nat × α)

end Sys2Proof
end

