-- ==== Sys2Proof/Syntax.lean ====
section
/-! DEFINITION. The commands of the block: one constructor of `Instr` for each row of spec/opcode_table.json, with the
operands the rules of spec/ give it, and the operand records they share. -/

namespace Sys2Proof

/-! ### Scarab instruction formats (R123)

Each record holds every bit of its format but the opcode; the bits that R123 or R124 want zero are fields too, so that
R125 can be judged. -/

/-- Format R: D, S, T and the bits that must be zero. -/
structure RFmt where
  d : BitVec 5
  s : BitVec 5
  t : BitVec 5
  z : BitVec 11
  deriving DecidableEq, Repr

/-- Format I: D, S, IMM. -/
structure IFmt where
  d : BitVec 5
  s : BitVec 5
  imm : BitVec 16
  deriving DecidableEq, Repr

/-- Format M: D, A, MODE, OFS. -/
structure MFmt where
  d : BitVec 5
  a : BitVec 3
  mode : BitVec 2
  ofs : BitVec 16
  deriving DecidableEq, Repr

/-- Format X: ACC, ACC2, S, T and the bits that must be zero. -/
structure XFmt where
  acc : BitVec 2
  acc2 : BitVec 2
  z1 : BitVec 1
  s : BitVec 5
  t : BitVec 5
  z : BitVec 11
  deriving DecidableEq, Repr

/-- Format N: D, ACC, CLR, XB, SH and the bits that must be zero. -/
structure NFmt where
  d : BitVec 5
  acc : BitVec 2
  clr : BitVec 1
  xb : BitVec 1
  z1 : BitVec 1
  sh : BitVec 6
  z : BitVec 10
  deriving DecidableEq, Repr

/-- Format F: PAIR, KA, AX, AY, CX, CY, INCX, INCY. -/
structure FFmt where
  pair : BitVec 1
  ka : BitVec 1
  ax : BitVec 3
  ay : BitVec 3
  cx : BitVec 1
  cy : BitVec 1
  incx : BitVec 8
  incy : BitVec 8
  deriving DecidableEq, Repr

/-- Format B: S, COND and the 18 bits of OFS. -/
structure BFmt where
  s : BitVec 5
  cond : BitVec 3
  ofs : BitVec 18
  deriving DecidableEq, Repr

/-- Format P: LEN - 1, CR, the bits that must be zero, COUNT. -/
structure PFmt where
  len1 : BitVec 6
  cr : BitVec 1
  z1 : BitVec 3
  count : BitVec 16
  deriving DecidableEq, Repr

/-- Format V: D, S, KIND and the bits that must be zero. -/
structure VFmt where
  d : BitVec 5
  s : BitVec 5
  kind : BitVec 3
  z : BitVec 13
  deriving DecidableEq, Repr

/-- Format L: CLASS, N, CIRC, the bits that must be zero, IMM. -/
structure LFmt where
  cls : BitVec 2
  n : BitVec 3
  circ : BitVec 1
  z1 : BitVec 4
  imm : BitVec 16
  deriving DecidableEq, Repr

/-- Format G: AX, SIZE, INV, KEEP and the bits that must be zero. -/
structure GFmt where
  ax : BitVec 3
  size : BitVec 4
  inv : BitVec 1
  keep : BitVec 1
  z1 : BitVec 1
  z : BitVec 16
  deriving DecidableEq, Repr

/-- What the error checks of a local read found (R114): nothing, one bit, two bits, or a register file's parity. -/
inductive MemCheck
  | clean
  | single
  | double
  | parity
  deriving DecidableEq, Repr

/-! ### Host commands (R387) and other records -/

/-- The part of a command entry that every command has: FLAGS, TAG, QUEUE, and whether a reserved byte or an unused
operand is nonzero (R387, R391). -/
structure CmdHdr where
  flags : BitVec 8
  tag : W16
  queue : BitVec 8
  reserved : Bool
  deriving DecidableEq, Repr

/-- A parameter-write entry (R394); `reserved` tells whether a reserved bit or byte is nonzero. -/
structure PwEntry where
  slot : Nat
  notify : Bool
  indirect : Bool
  reserved : Bool
  count : Nat
  pset : Nat
  first : Nat
  addr : W64
  data : List W32
  deriving DecidableEq, Repr

/-- An entry for the event ring: KIND and payload words (R396). -/
structure Event where
  kind : Nat
  payload : List Nat
  deriving DecidableEq, Repr

/-- What an estimator's result record says of a zone (R161), and the level N where one was formed (R164). -/
structure EstResult where
  conf : Nat
  cells : Nat
  sti : Nat
  noise : Option Int
  micFault : Bool
  noRef : Bool
  clipped : Bool
  valid : Bool
  delay : Nat
  speech : Int
  mti : List Nat
  deriving DecidableEq, Repr

/-- A word of NOP's row: its opcode, which R124 does not list where it is not NOP's (R125), and its fields. -/
structure OpWord where
  op : BitVec 6
  f : RFmt
  deriving DecidableEq, Repr

/-- The start of a core's next task: the core, and what error checks of instruction fetches, register files and the loop buffer
find as the task runs, by cycle (R114). -/
structure TaskStart where
  core : Nat
  upsets : List (Nat × MemCheck)
  deriving DecidableEq, Repr

/-- The end of an FFT job: what the error checks of its points found (R114), and its cycle. -/
structure JobEnd where
  chk : MemCheck
  cycle : Nat
  deriving DecidableEq, Repr

/-- The end of a mover transfer: how many doublewords were answered without an error response, what the error checks of its
local reads found (R114), and its cycle. -/
structure MoveEnd where
  done : Nat
  chk : MemCheck
  cycle : Nat
  deriving DecidableEq, Repr

/-- A core, and a cycle of its tick. -/
structure CoreCycle where
  core : Nat
  cycle : Nat
  deriving DecidableEq, Repr

/-- A task of a program: the slot, and the task's index. -/
structure TaskRef where
  slot : Nat
  task : Nat
  deriving DecidableEq, Repr

/-- The straps at power-on: the strap code (R424), and how I2C_A1 and I2C_A0 are tied (R458). -/
structure Straps where
  code : Nat
  i2c : BitVec 2
  deriving DecidableEq, Repr

/-- An adaptive write as firmware sends it (R176): GAIN with a value, or band b with an entry e. -/
structure AdaptW where
  zone : Nat
  eq : Bool
  band : Nat
  entry : Nat
  value : W32
  tick : W32
  deriving DecidableEq, Repr

/-- What one analysis of the feedback suppressor finds strongest in a channel's spectrum (R170): the component's frequency in Hz
times 16, and its level above the average spectrum, LV32. -/
structure HowlObs where
  freq : Nat
  level : Int
  deriving DecidableEq, Repr

/-- A fade by what it acts on (R76): a sink or voice node, a port slot, a microphone, a channel of a host stream ring,
an RTP stream, a lane stream, or the outputs as a whole (R420). -/
inductive FadeId
  | node (slot node : Nat)
  | portSlot (port : Nat) (tx : Bool) (slot : Nat)
  | mic (n : Nat)
  | hostRing (ring : Nat)
  | rtp (stream : Nat)
  | laneStream (port stream : Nat)
  | outputs
  deriving DecidableEq, Repr

/-- What reaches the block from outside in one tick: the levels at GPIO16 to GPIO31, the nodes whose bulk reads are late or
whose bulk writes find no room (R370), the bits of each microphone (R225), what the error checks find as the exchange reads the
output windows of a core's task, by core, slot and index (R114), and the spare cores that Weevil tests (R150). -/
structure TickIn where
  gpio : BitVec 16
  bulkLate : List (Nat × Nat)
  bulkFull : List (Nat × Nat)
  pdm : List (Nat × Nat)
  exch : List (Nat × (Nat × Nat) × MemCheck)
  test : BitVec 32
  deriving DecidableEq, Repr


/-- One beat of a Yard transaction (R348): data of a write, byte enables, what the error check of the word finds
(R352, R367), and whether an engine write meets it in its cycle (R355). -/
structure YardBeat where
  data : BitVec 64
  strobe : BitVec 8
  chk : MemCheck
  meets : Bool
  deriving DecidableEq, Repr

/-- A Yard transaction (R345, R348, R349, R351): master, RID, host queue, kind (0 read, 1 write, 2 atomic), byte address,
beats, EXCL, EXCL_END, the QoS that a mover asks for, cycles waited. -/
structure YardTx where
  master : Nat
  rid : Nat
  queue : Nat
  kind : Nat
  addr : Nat
  beats : List YardBeat
  excl : Bool
  exclEnd : Bool
  qos : Nat
  waited : Nat
  deriving DecidableEq, Repr

/-- What a self-test group found (R449 to R451): failing bits as address and bit, failing units as number and signature,
and the results of the analogue checks (0 not run, 1 pass, 2 fail, 3 skipped). -/
structure GroupObs where
  bits : List (Nat × Nat)
  units : List (Nat × Nat)
  checks : List Nat
  deriving DecidableEq, Repr

/-- A register access: Yard master, host queue, BAR0 offset, and bytes (R7, R12, R345). -/
structure BusAccess where
  master : Nat
  queue : Nat
  off : Nat
  size : Nat
  deriving DecidableEq, Repr
/-- The commands of the ORL1536: one constructor for each row of spec/opcode_table.json, in the table's order. -/
inductive Instr
  /-- TICK (R19). A tick boundary opens the boundary window: blocks swap, committed parameter sets become active, schedules are fetched, and the compute window then runs the tick's work. -/
  | tick (inp : TickIn)
  /-- STAGE_OVERRUN (R20). A stage that has not finished by cycle 25,599 raises a fatal local fault, and its unwritten outputs hold zero. -/
  | stageOverrun (stage : Nat) (unwritten : List Nat)
  /-- TASK_DISPATCH (R120). The core's sequencer dispatches its next task: it sets the entry state, forms the merges, and starts the task at ENTRY. -/
  | taskDispatch (start : TaskStart)
  /-- TASK_OVERRUN (R147). A core that has not completed its last TEND by cycle 25,599 stops the running task and zeroes its outputs. -/
  | taskOverrun (core : Nat)
  /-- NOP (R124). No operation. `op` is 00h, or an opcode that R124 does not list (R125). -/
  | nop (core : Nat) (w : OpWord)
  /-- ADD (R124). Adds two registers modulo 2^32. -/
  | add (core : Nat) (f : RFmt)
  /-- SUB (R124). Subtracts two registers modulo 2^32. -/
  | sub (core : Nat) (f : RFmt)
  /-- ADDS (R124). Adds two registers with saturation. -/
  | adds (core : Nat) (f : RFmt)
  /-- SUBS (R124). Subtracts two registers with saturation. -/
  | subs (core : Nat) (f : RFmt)
  /-- AND (R124). Bitwise AND. -/
  | and (core : Nat) (f : RFmt)
  /-- OR (R124). Bitwise OR. -/
  | or (core : Nat) (f : RFmt)
  /-- XOR (R124). Bitwise XOR. -/
  | xor (core : Nat) (f : RFmt)
  /-- SHL (R124). Logical left shift. -/
  | shl (core : Nat) (f : RFmt)
  /-- SHR (R124). Logical right shift. -/
  | shr (core : Nat) (f : RFmt)
  /-- SRA (R124). Arithmetic right shift. -/
  | sra (core : Nat) (f : RFmt)
  /-- RSR (R124). Rounding right shift with saturation. -/
  | rsr (core : Nat) (f : RFmt)
  /-- MIN (R124). Signed minimum. -/
  | min (core : Nat) (f : RFmt)
  /-- MAX (R124). Signed maximum. -/
  | max (core : Nat) (f : RFmt)
  /-- ABS (R124). Magnitude, limited to 2^31 − 1. -/
  | abs (core : Nat) (f : RFmt)
  /-- NEG (R124). Saturated negation. -/
  | neg (core : Nat) (f : RFmt)
  /-- SLT (R124). Signed less-than test. -/
  | slt (core : Nat) (f : RFmt)
  /-- SEQ (R124). Equality test. -/
  | seq (core : Nat) (f : RFmt)
  /-- ADDI (R124). Adds a sign-extended immediate. -/
  | addi (core : Nat) (f : IFmt)
  /-- ANDI (R124). ANDs with a zero-extended immediate. -/
  | andi (core : Nat) (f : IFmt)
  /-- ORI (R124). ORs with a zero-extended immediate. -/
  | ori (core : Nat) (f : IFmt)
  /-- LUI (R124). Loads the immediate into the upper half. -/
  | lui (core : Nat) (f : IFmt)
  /-- SHI (R124). Shifts by an immediate amount of a selected kind. -/
  | shi (core : Nat) (f : IFmt)
  /-- MULC (R124). A32 times C32 gain with one narrowing. -/
  | mulc (core : Nat) (f : RFmt)
  /-- MULA (R124). A32 times A32 with one narrowing. -/
  | mula (core : Nat) (f : RFmt)
  /-- LVL (R124). Converts a magnitude to an LV32 level by log2lv. -/
  | lvl (core : Nat) (f : RFmt)
  /-- EXPC (R124). Converts an LV32 level to a C32 gain by exp2c. -/
  | expc (core : Nat) (f : RFmt)
  /-- MAC (R127). Accumulates an A32 × C32 product. -/
  | mac (core : Nat) (f : XFmt)
  /-- MSU (R127). Subtracts an A32 × C32 product from the accumulator. -/
  | msu (core : Nat) (f : XFmt)
  /-- MACA (R127). Accumulates an A32 × A32 product. -/
  | maca (core : Nat) (f : XFmt)
  /-- MSUA (R127). Subtracts an A32 × A32 product from the accumulator. -/
  | msua (core : Nat) (f : XFmt)
  /-- MAC2 (R127). Dual MAC from register pairs into an accumulator pair. -/
  | mac2 (core : Nat) (f : XFmt)
  /-- FMAC (R127). Dual MAC from memory with address post-update. -/
  | fmac (core : Nat) (f : FFmt) (chk : MemCheck)
  /-- ACCADD (R124). Adds one accumulator into another. -/
  | accadd (core : Nat) (f : XFmt)
  /-- LDACC (R124). Loads an accumulator from a data register. -/
  | ldacc (core : Nat) (f : XFmt)
  /-- RNDA (R127). Narrows an accumulator to a data register, with an optional block exponent and clear. -/
  | rnda (core : Nat) (f : NFmt)
  /-- CLRA (R124). Clears an accumulator. -/
  | clra (core : Nat) (f : XFmt)
  /-- REPEAT (R133). Runs a hardware loop over the following body COUNT times. -/
  | hwRepeat (core : Nat) (f : PFmt)
  /-- TEND (R122). Ends the task for the tick after its FFT job and mover transfer finish. -/
  | tend (core : Nat) (f : BFmt)
  /-- CSRR (R141). Reads a control and status register. -/
  | csrr (core : Nat) (f : IFmt)
  /-- CSRW (R141). Writes a control and status register. -/
  | csrw (core : Nat) (f : IFmt)
  /-- MBPOST (R145). Posts four words to the core's outbound queue, or counts the loss. -/
  | mbpost (core : Nat) (f : RFmt)
  /-- FFT (R138). Submits an FFT job to the core's FFT unit. -/
  | fft (core : Nat) (f : GFmt)
  /-- LD (R124). Loads a word from local memory. -/
  | ld (core : Nat) (f : MFmt) (chk : MemCheck)
  /-- ST (R124). Stores a word to local memory. -/
  | st (core : Nat) (f : MFmt)
  /-- LD2 (R124). Loads a doubleword into a register pair. -/
  | ld2 (core : Nat) (f : MFmt) (chk : MemCheck)
  /-- ST2 (R124). Stores a register pair as a doubleword. -/
  | st2 (core : Nat) (f : MFmt)
  /-- FWAIT (R131). Waits for the core's FFT job. -/
  | fwait (core : Nat) (f : RFmt)
  /-- MV (R123). Moves a value between register classes. -/
  | mv (core : Nat) (f : VFmt)
  /-- LIA (R124). Loads an immediate into an address, base or length register. -/
  | lia (core : Nat) (f : LFmt)
  /-- ADDA (R126). Updates an address register, circularly or linearly. -/
  | adda (core : Nat) (f : LFmt)
  /-- BR (R124). Conditional branch with two delay slots. -/
  | br (core : Nat) (f : BFmt)
  /-- CALL (R124). Call, saving the return address in d31. -/
  | call (core : Nat) (f : BFmt)
  /-- JR (R124). Jumps to a register address. -/
  | jr (core : Nat) (f : BFmt)
  /-- RETI (R136). Returns from a handler, restoring PC, loop state and IEN. -/
  | reti (core : Nat) (f : BFmt)
  /-- MBPOP (R141). A CSR write that removes the oldest released message. -/
  | mbpop (core : Nat) (f : IFmt)
  /-- MV_GO (R142). A CSR write that starts a mover transfer between the region and the Yard. -/
  | mvGo (core : Nat) (f : IFmt)
  /-- MOVER_DONE (R142). A mover transfer ends, successfully or with MOVER set in ERRST. -/
  | moverDone (core : Nat) (e : MoveEnd)
  /-- LK_REQ (R143). A CSR write that requests a Stall lock for the core. -/
  | lkReq (core : Nat) (f : IFmt)
  /-- LK_REL (R143). A CSR write that releases a lock or withdraws the core's request. -/
  | lkRel (core : Nat) (f : IFmt)
  /-- FFT_JOB_START (R138). An FFT unit takes the next waiting job in submission order. -/
  | fftJobStart (unit : Nat)
  /-- FFT_JOB_DONE (R139). An FFT job completes, and BEXP is set at the next FWAIT or TEND. -/
  | fftJobDone (unit : Nat) (e : JobEnd)
  /-- MBOX_INTERRUPT (R136). A pending MBOX interrupt is taken at an interrupt point. -/
  | mboxInterrupt (point : CoreCycle)
  /-- ERR_INTERRUPT (R136). A pending ERR interrupt is taken at an interrupt point. -/
  | errInterrupt (point : CoreCycle)
  /-- MBIN_ENQUEUE (R144). A write of SCB_MBIN_CTRL enqueues the staged message, or counts it as dropped. -/
  | mbinEnqueue (core : Nat) (value : W32)
  /-- MBOUT_POP (R151). A write of SCB_MBOUT_POP removes the oldest outbound message. -/
  | mboutPop (core : Nat) (value : W32)
  /-- LOAD (R60). A program-load command copies an image into an EMPTY slot for validation. -/
  | load (cmd : CmdHdr) (slot : W32) (addrLo : W32) (addrHi : W32) (len : W32) (readOk : Bool)
  /-- LOAD_DONE (R61). Validation of a loaded image ends, and the slot becomes LOADED or EMPTY. -/
  | loadDone
  /-- UNLOAD (R61). Returns a LOADED slot to EMPTY. -/
  | unload (cmd : CmdHdr) (slot : W32)
  /-- ACTIVATE (R195). Asks for a LOADED slot to become active at a target tick. -/
  | activate (cmd : CmdHdr) (slot : W32) (target : W32)
  /-- ACTIVATE_XF (R197). Asks for a topology crossfade to a LOADED slot, with warm-up W and length L. -/
  | activateXf (cmd : CmdHdr) (slot : W32) (target : W32) (len : W32)
  /-- STOP (R195). Asks for an ACTIVE slot to fade out and stop at a target tick. -/
  | stopSlot (cmd : CmdHdr) (slot : W32) (target : W32)
  /-- ACTIVATION_TAKES_EFFECT (R61). At the target tick the slot becomes ACTIVE from cleared state, and its sinks fade in. -/
  | activationTakesEffect
  /-- STOP_TAKES_EFFECT (R195). At the target tick the slot becomes STOPPING, and its sinks fade out. -/
  | stopTakesEffect
  /-- STOP_COMPLETE (R61). 64 ticks after a stop, the slot returns to LOADED with every output zero. -/
  | stopComplete
  /-- XF_WARMUP_START (R198). At T − W the XF_SCHEDULE runs and changed nodes start from cleared state. -/
  | xfWarmupStart
  /-- XF_FADE_START (R198). At T the new slot becomes ACTIVE and the old slot RETIRING, and the merges fade. -/
  | xfFadeStart
  /-- XF_RETIRE (R198). At T + L the old slot becomes EMPTY and the new SCHEDULE runs. -/
  | xfRetire
  /-- COMMIT (R183). A commit command for a group enters the fence wait. -/
  | commit (cmd : CmdHdr) (slot : W32) (group : W32) (target : W32) (fence : W32)
  /-- COMMIT_ARRIVAL (R185). A commit leaves the fence wait and is tested against its target and state. -/
  | commitArrival
  /-- COMMIT_LAND (R187). At cycle 0 of the target tick, the group's shadow words become active. -/
  | commitLand (slot : Nat) (group : Nat)
  /-- ZC_TIMEOUT (R191). A gain parameter with no crossing in Z ticks starts a 64-sample fallback ramp. -/
  | zcTimeout (slot : Nat) (pset : Nat) (word : Nat)
  /-- GAIN_RAMP_END (R191). The 64th ramp sample returns the parameter to STEADY. -/
  | gainRampEnd (slot : Nat) (pset : Nat) (word : Nat)
  /-- FADE_COMPLETE (R76). A fade reaches its last sample, after which the signal passes unchanged or is silent. -/
  | fadeComplete (id : FadeId)
  /-- TASK_RESTART (R388). A command that schedules a task reload at a target tick. -/
  | taskRestart (cmd : CmdHdr) (slot : W32) (task : W32) (target : W32)
  /-- TASK_RESTART_LAND (R148). At its tick the task's code is reloaded, its data cleared and FIRST set. -/
  | taskRestartLand (slot : Nat) (task : Nat)
  /-- PARAMETER_WRITE (R181). The hardware consumes a parameter-write entry and checks it against the whole shadow set. -/
  | parameterWrite (e : PwEntry)
  /-- PW_INDIRECT_FETCH (R395). The words of an INDIRECT parameter write arrive from host memory, or their read fails. -/
  | pwIndirectFetch (readOk : Bool)
  /-- PROG_BASE_WRITE (R67). A write of ENG_PROG_BASE sets the program region unless locked or a slot is in use. -/
  | progBaseWrite (value : W32)
  /-- VOICE_ENDED (R108). A playing voice outputs its last sample and loops or ends. -/
  | voiceEnded (slot : Nat) (node : Nat)
  /-- RECORDER_FULL (R109). A recorder reaches LENGTH, then wraps or becomes FULL. -/
  | recorderFull (slot : Nat) (node : Nat)
  /-- SILENCE_HOLD_EXPIRY (R103). A detector becomes SILENT after HOLD quiet ticks, driving GPIO, reporting and gating. -/
  | silenceHoldExpiry (slot : Nat) (node : Nat)
  /-- PRIO_HOLD_EXPIRY (R95). A priority input's hold count ends, so it becomes inactive and lower ranks ramp back. -/
  | prioHoldExpiry (slot : Nat) (node : Nat) (input : Nat)
  /-- ESTIMATOR_PERIOD_END (R160). An estimator period ends, and the zone's result record is written by T_end + LEAD. -/
  | estimatorPeriodEnd (zone : Nat) (ref : TaskRef)
  /-- NOISE_DELIVERY (R165). The measured noise level N applies to the zone from tick T_end + LEAD + 1. -/
  | noiseDelivery (zone : Nat) (late : Bool)
  /-- ADAPTIVE_STEP (R178). Firmware takes one adaptive gain and equaliser step from a qualifying result record. -/
  | adaptiveStep (zone : Nat)
  /-- ADAPTIVE_WRITE (R176). The clamp unit accepts or refuses an adaptive write from firmware. -/
  | adaptiveWrite (w : AdaptW)
  /-- ADAPTIVE_WRITE_APPLY (R176). An accepted adaptive write applies at its apply tick. -/
  | adaptiveWriteApply (zone : Nat)
  /-- ANA_LOCK (R172). Setting ANA_CTRL.LOCK locks the limits and checks the active words. -/
  | anaLock (value : W32)
  /-- ADAPT_EN_WRITE (R179). A write of ANA_CTRL.ADAPT_EN enables adaptation when LOCK is 1. -/
  | adaptEnWrite (value : W32)
  /-- HOWL_ANALYSIS (R170). Every 256 samples the feedback suppressor looks for howl and places or deepens notches. -/
  | howlAnalysis (slot : Nat) (task : Nat) (chan : Nat) (h : HowlObs)
  /-- PORT_RUN (R219). RUN written 1 starts a STOPPED port, or refuses an invalid configuration. -/
  | portRun (port : Nat)
  /-- PORT_STOP (R219). RUN written 0 makes a RUNNING port STOPPING. -/
  | portStop (port : Nat)
  /-- PORT_RUNNING (R219). A STARTING port reaches RUNNING at its first frame, two good frames, or ASRC lock. -/
  | portRunning (port : Nat)
  /-- PORT_STOPPED (R219). Two frames after every slot is silent, the port becomes STOPPED. -/
  | portStopped (port : Nat)
  /-- MASK_COMMIT (R215). COMMIT written 1 arms a slot-mask commit. -/
  | maskCommit (port : Nat)
  /-- MASK_LATCH (R215). At the latch point the shadow masks become pending, or are refused. -/
  | maskLatch (port : Nat)
  /-- PORT_FRAME_RECEIVED (R211). A received port frame enters the crossing queue. -/
  | portFrameReceived (port : Nat) (bits : List Bool)
  /-- PORT_FRAME_TRANSMIT (R214). The port launches a frame from its queue. -/
  | portFrameTransmit (port : Nat)
  /-- PORT_REFILL (R222). After an underrun, once the queue holds enough, each slot fades in. -/
  | portRefill (port : Nat)
  /-- SLOT_ZC_TIMEOUT (R220). A slot without a zero crossing in TIMEOUT ticks fades in or out. -/
  | slotZcTimeout (port : Nat) (tx : Bool) (slot : Nat)
  /-- PORT_CLOCK_LOST (R219). No bit clock for 4 frames, or a wrong frame length, returns the port to STARTING. -/
  | portClockLost (port : Nat)
  /-- ASRC_LOCK (R212). The ASRC reports lock on a stable input. -/
  | asrcLock (port : Nat) (ratio : Nat)
  /-- PORT_CFG_WRITE (R223). A write of APT_PORTn_CFG or FOFS is taken only while STOPPED and unbound. -/
  | portCfgWrite (port : Nat) (fofs : Bool) (value : W32)
  /-- PDM_MASK_WRITE (R226). A write of APT_PDM_MASK enables microphones or fades them out. -/
  | pdmMaskWrite (value : W32)
  /-- PDM_CTRL_WRITE (R226). A write of PDM_RATE is taken only while the mask is zero, otherwise it is recorded as PDM_CFG_REJ. -/
  | pdmCtrlWrite (value : W32)
  /-- PDM_SETTLE_END (R226). SETTLE ticks after enabling, a microphone fades in. -/
  | pdmSettleEnd (mic : Nat)
  /-- LANE_SIGNAL_CHANGE (R236). SIG_DET or CDR lock changes, moving the lane between DOWN and HUNT. -/
  | laneSignalChange (lane : Nat) (sig : Bool) (cdr : Bool)
  /-- BLOCK_RECEIVED (R236). A 66-bit block arrives and drives block lock, HI_BER and decoding. -/
  | blockReceived (lane : Nat) (hdr : BitVec 2) (payload : W64)
  /-- ADAPT_DONE (R241). Receiver equalisation converges, and the lane may become LANE_UP. -/
  | adaptDone (lane : Nat)
  /-- BRINGUP_FAIL (R239). 20 ms without LANE_UP restarts adaptation. -/
  | bringupFail (lane : Nat)
  /-- LANE_RESTART (R252). RESTART written 1 restarts adaptation and returns the lane to DOWN. -/
  | laneRestart (lane : Nat)
  /-- LANE_CTRL_WRITE (R242). A write of LOOP, TX_OFF or polarity changes the lane path, and a loop change takes it DOWN. -/
  | laneCtrlWrite (lane : Nat) (value : W32)
  /-- TXEQ_WRITE (R240). A write of LNP_TXEQ applies at the next block boundary, or is refused. -/
  | txeqWrite (lane : Nat) (value : W32)
  /-- RXEQ_WRITE (R241). A write of LNP_RXEQ applies at once when RX_FIXED is 1. -/
  | rxeqWrite (lane : Nat) (value : W32)
  /-- PRBS_TEST_WRITE (R243). A write of LNP_TEST starts or stops the pattern generator and checker. -/
  | prbsTestWrite (lane : Nat) (value : W32)
  /-- PORT_MODE_WRITE (R230). A write of LNP_PORTp_CFG sets MODE and ENABLE, or refuses a mode change while enabled. -/
  | portModeWrite (port : Nat) (value : W32)
  /-- ETH_FRAME_RECEIVED (R245). An Ethernet frame is accepted and routed to an RTP stream, the time unit or the host ring. -/
  | ethFrameReceived (lane : Nat) (bytes : List Nat) (at_ : Nat)
  /-- RTP_REFILL (R247). Once enough samples are held after an underrun, the channels fade in. -/
  | rtpRefill (stream : Nat)
  /-- RTP_PACKET_LAUNCH (R248). A transmit stream launches its packet after cycle 0 of the following tick. -/
  | rtpPacketLaunch (stream : Nat)
  /-- RTP_RX_ENTRY_WRITE (R249). A write of a receive stream entry is taken or refused by EN and bindings. -/
  | rtpRxEntryWrite (stream : Nat) (word : Nat) (value : W32)
  /-- RTP_TX_ENTRY_WRITE (R249). A write of a transmit stream entry is taken or refused by EN and bindings. -/
  | rtpTxEntryWrite (stream : Nat) (word : Nat) (value : W32)
  /-- THETEX_FRAME_SEND (R273). An origin, standalone or gateway device launches its frame at cycle 256 of the tick. -/
  | thetexFrameSend (port : Nat)
  /-- RELAY_FRAME_LAUNCH (R273). A relay launches its frame 512 cycles after the incoming header completes. -/
  | relayFrameLaunch (port : Nat)
  /-- RELAY_FRAME_TIMEOUT (R273). With no incoming header by the offset plus 1,024, the relay sends only its own sections. -/
  | relayFrameTimeout (port : Nat)
  /-- THETEX_FRAME_RECEIVED (R270). A frame header arrives and is checked for CRC and age. -/
  | thetexFrameReceived (lane : Nat) (bytes : List Nat) (cycle : Nat) (at_ : Nat)
  /-- SECTION_RECEIVED (R272). A complete section copy is checked, de-duplicated, taken, forwarded or dropped. -/
  | sectionReceived (lane : Nat) (bytes : List Nat) (errored : Bool)
  /-- SECOND_COPY_TIMEOUT (R273). A bad first copy not followed by a good copy within LNK_SKEW is dropped. -/
  | secondCopyTimeout (port : Nat)
  /-- LINK_LOST (R271). Four ticks without an accepted frame return an UP lane to CHECK. -/
  | linkLost (lane : Nat)
  /-- LANE_STREAM_REFILL (R262). Returning lane stream samples fade in over 64 samples. -/
  | laneStreamRefill (port : Nat) (stream : Nat)
  /-- BULK_SECTION_SEND (R275). A BULK section is sent once credit covers it. -/
  | bulkSectionSend (port : Nat)
  /-- MGMT_ASSIGN (R283). An ASSIGN operation sets the address of an unassigned device whose UID matches. -/
  | mgmtAssign
  /-- MGMT_READ (R283). A READ operation returns a register value. -/
  | mgmtRead
  /-- MGMT_WRITE (R283). A WRITE operation writes a register. -/
  | mgmtWrite
  /-- MGMT_RESET (R283). A RESET operation asserts LINKCMD when enabled. -/
  | mgmtReset
  /-- MGMT_HOSTMSG (R283). A HOSTMSG operation passes four words to the host's event ring. -/
  | mgmtHostmsg
  /-- MGMT_RESPONSE (R283). A RESPONSE to an earlier request is received. -/
  | mgmtResponse
  /-- ADDR_WRITE (R255). A write of LNK_ADDR.ADDR sets the device address and VALID. -/
  | addrWrite (value : W32)
  /-- SPAN_EN_WRITE (R277). A write of LNK_SPAN_EN enables or removes spanning buses. -/
  | spanEnWrite (j : Nat) (value : W32)
  /-- PORTMAP_WRITE (R253). A write of LNK_PORTMAP sets port roles, or is ignored if it names two EAST or two WEST ports. -/
  | portmapWrite (value : W32)
  /-- LANE_STREAM_ENTRY_WRITE (R287). A write of a Thetex stream entry is taken or refused by EN and bindings. -/
  | laneStreamEntryWrite (tx : Bool) (port : Nat) (stream : Nat) (word : Nat) (value : W32)
  /-- FREQUENCY_READING (R290). Once per second the monitor reads every present input's deviation. -/
  | frequencyReading (readings : List (Nat × Int))
  /-- INPUT_PRESENCE_CHANGE (R289). An input becomes present or absent, which may trigger reselection. -/
  | inputPresenceChange (input : Nat) (present : Bool) (mult : Nat)
  /-- PHASE_COMPARISON (R296). The loop compares an input edge or tick with the DCO and updates the DCO word. -/
  | phaseComparison (input : Nat) (err : Int)
  /-- CLK_MODE_WRITE (R294). A write of CLK_CTRL.MODE selects automatic, manual or forced holdover. -/
  | clkModeWrite (value : W32)
  /-- FSYNC_OUT_PULSE (R301). An FSYNC output places a pulse at its reference instant plus OFFSET. -/
  | fsyncOutPulse (out : Nat) (cycle : Nat) (predicted : Bool)
  /-- FSYNC_OUT_LOST (R301). After 8 missed reference edges the output stops and LOST is set. -/
  | fsyncOutLost (out : Nat)
  /-- TS_INC_WRITE (R302). A write of INC_HI applies the new increment from the next XO cycle. -/
  | tsIncWrite (ts : Nat) (value : W32)
  /-- TS_SET_GO (R302). SET_GO loads seconds and nanoseconds into the timescale as a step. -/
  | tsSetGo (ts : Nat) (value : W32)
  /-- TS_ADJ (R302). ADJ adds signed nanoseconds to the timescale as a step. -/
  | tsAdj (ts : Nat) (value : W32)
  /-- TS_LOSS_TIMEOUT (R303). A timescale without measurements for TS_LOSS seconds enters HOLD. -/
  | tsLossTimeout (ts : Nat)
  /-- MAIN_RETURN (R304). After MAIN has tracked for TS_LOSS seconds, main time returns to it. -/
  | mainReturn
  /-- SCNT_ALIGN (R305). A command that loads SCNT and the tick phase from main time while ENG is held in reset. -/
  | scntAlign
  /-- SECOND_CHECK (R306). At each whole second, SCNT is compared with main time to set TICK_ALIGNED or TICK_MISALIGN. -/
  | secondCheck
  /-- TIME_REQUEST_SEND (R310). Every TX_INT ticks the slave sends a time request. -/
  | timeRequestSend (ts : Nat)
  /-- TIME_REQUEST_RECEIVED (R310). A master timestamps a request and answers in its next frame. -/
  | timeRequestReceived
  /-- TIME_RESPONSE_RECEIVED (R310). The slave accepts a response and computes MOFS and MDLY as a measurement. -/
  | timeResponseReceived
  /-- PTP_EVENT_MESSAGE (R313). An IEEE 1588 event message is timestamped and handled. -/
  | ptpEventMessage (lane : Nat) (tx : Bool) (kind : Nat) (domain : Nat) (seq : Nat) (at_ : Nat) (offset : Option Int)
  /-- PTP_CFG (R388). A command that configures IEEE 1588 on a lane. -/
  | ptpCfg (cmd : CmdHdr) (lane : W32) (role : W32) (prio : W32) (intervals : W32)
  /-- FIREFLY_ARM (R314). ARM written 1 arms a Firefly, or sets CFG_REJ or LATE. -/
  | fireflyArm (ff : Nat) (value : W32)
  /-- FIREFLY_DISARM (R314). ARM written 0 disarms the Firefly. -/
  | fireflyDisarm (ff : Nat) (value : W32)
  /-- FIREFLY_PULSE (R314). A Firefly fires at its main-time occurrence. -/
  | fireflyPulse (ff : Nat)
  /-- TIMED_FRAME_LAUNCH (R315). A frame from the timed queue leaves at its launch time, or is discarded as late. -/
  | timedFrameLaunch (lane : Nat) (at_ : Nat)
  /-- CRICKET_RECEIVED (R322). A partner's Cricket drives the pair state table. -/
  | cricketReceived
  /-- CRICKET_MISSED (R325). A Cricket not arrived within 12 ticks is missed. -/
  | cricketMissed
  /-- FATAL_FAULT_FAILED (R327). After a fatal local fault, the member enters FAILED at the next boundary and is fail-silent. -/
  | fatalFaultFailed
  /-- SEEK_TIMEOUT (R322). A secondary without partner Crickets for 2 s becomes ALONE. -/
  | seekTimeout
  /-- AUTO_REJOIN (R322). After 1 s without a further fault, a FAILED member returns to SEEK. -/
  | autoRejoin
  /-- PAIR_FAIL (R344). RED_CTRL.FAIL puts the device in FAILED with reason 2. -/
  | pairFail
  /-- PAIR_REJOIN (R322). RED_CTRL.REJOIN returns a FAILED device to SEEK. -/
  | pairRejoin
  /-- HANDBACK (R322). RED_CTRL.HANDBACK asks to make the partner leader. -/
  | handback
  /-- HANDBACK_TAKES_EFFECT (R322). Leadership changes at the next Cricket tick. -/
  | handbackTakesEffect
  /-- HASH_COMPARE (R330). At t + HLAT a member compares its hash with the partner's. -/
  | hashCompare
  /-- JOIN_TIMEOUT (R339). A join not complete in TIMEOUT seconds puts the follower in FAILED. -/
  | joinTimeout
  /-- INPUT_RECORD (R333). A follower presents the leader's mirrored input samples. -/
  | inputRecord
  /-- NOISE_RECORD (R334). A follower takes the leader's noise level N for application. -/
  | noiseRecord
  /-- ADAPT_RECORD (R334). A follower passes the leader's adaptive write to its clamp unit. -/
  | adaptRecord
  /-- TASKMSG_RECORD (R334). A follower enqueues the leader's mode-0 task message. -/
  | taskmsgRecord (core : Nat) (task : Nat) (tick : W32) (words : List W32)
  /-- JOIN_RECORD (R338). Both members issue the twin activation with crossfade at T. -/
  | joinRecord (target : W32)
  /-- REGION_RECORD (R338). A follower writes the leader's task region words into its own region. -/
  | regionRecord (core : Nat) (task : Nat) (first : Nat) (count : Nat)
  /-- LANE_ERRORS_SUMMARY (R342). Errors gathered over 60 s are recorded in one LANE_ERRORS event. -/
  | laneErrorsSummary (lane : Nat)
  /-- YARD_TRANSACTION (R348). A master's read, write or atomic is arbitrated and answered beat by beat. -/
  | yardTransaction (txs : List YardTx)
  /-- STALL_HANDOVER (R354). A write of a Stall's OWNER starts a handover. -/
  | stallHandover (stall : Nat) (owner : Nat)
  /-- HANDOVER_COMPLETE (R354). The outgoing owner's transactions drain, and the new owner takes effect. -/
  | handoverComplete (stall : Nat)
  /-- LOCK_REQUEST (R358). A lock request is granted, pended or refused. -/
  | lockRequest (rid : Nat) (queue : Nat) (lock : Nat)
  /-- LOCK_RELEASE (R358). A release frees a lock for its oldest waiter, or withdraws a request. -/
  | lockRelease (rid : Nat) (queue : Nat) (lock : Nat)
  /-- LOCK_TIMEOUT (R360). A lock held beyond MEM_LK_TMO is released with BROKEN. -/
  | lockTimeout (lock : Nat)
  /-- WEEVIL_REGION_DONE (R361). Weevil finishes save, march and restore of a region, or holds it on failure. -/
  | weevilRegionDone (paddock : Nat) (fail : Option (Nat × Nat))
  /-- WEEVIL_SHARE_WINDOW (R363). A 1,000-cycle window ends, and Weevil's QoS share is reset. -/
  | weevilShareWindow (paddock : Nat)
  /-- WEEVIL_PASS_DONE (R364). A Weevil pass over Stalls, bulk and spare cores completes. -/
  | weevilPassDone
  /-- COVERAGE_LATE (R364). A pass longer than MEM_WV_PERIOD raises COVERAGE_LATE. -/
  | coverageLate
  /-- BLK_CFG_WRITE (R366). A write that changes SIZE or RATE clears READY and asks for new training. -/
  | blkCfgWrite (value : W32)
  /-- BLK_DLY_BASE_WRITE (R368). A write of the delay region base is taken only while no slot holds a BULKDLY node. -/
  | blkDlyBaseWrite (value : W32)
  /-- BULK_TRAINING_START (R366). Firmware trains the channel whenever READY and TRAIN_FAIL are 0. -/
  | bulkTrainingStart (density : Nat)
  /-- BULK_TRAINING_DONE (R365). Training ends, setting READY or TRAIN_FAIL. -/
  | bulkTrainingDone (pass : Bool)
  /-- BULK_REQUEST (R371). A requester presents a bulk-port request with its deadline. -/
  | bulkRequest (r : Nat) (deadline : Nat) (beats : Nat) (cycle : Nat)
  /-- BULK_BURST_DONE (R372). The owner's last beat completes, and a contest is decided. -/
  | bulkBurstDone (cycle : Nat)
  /-- BACKOFF_EXPIRY (R374). A loser's back-off ends, and it presents its request again. -/
  | backoffExpiry (r : Nat) (cycle : Nat)
  /-- ARB_WINDOW (R375). A 1,000-cycle arbiter window ends, and the scrub share is reset. -/
  | arbWindow
  /-- ARB_BIAS_WRITE (R372). A BIAS write applies from the next cycle's evaluation. -/
  | arbBiasWrite (r : Nat) (value : W32) (cycle : Nat)
  /-- BULK_REFILL (R370). With 8 ticks held ahead after an underrun, the output fades in. -/
  | bulkRefill (slot : Nat) (node : Nat)
  /-- CONTROL_RING_DOORBELL (R384). A doorbell write moves a control ring's host-side index, or sets RING_ERR. -/
  | controlRingDoorbell (ring : Nat) (value : W32)
  /-- STREAM_RING_DOORBELL (R384). A doorbell write moves a stream ring's host-side index. -/
  | streamRingDoorbell (ring : Nat) (value : W32)
  /-- HEARTBEAT (R402). A host queue's heartbeat restarts its timer and clears a lapse. -/
  | heartbeat (queue : Nat)
  /-- HEARTBEAT_LAPSE (R402). A missed heartbeat releases the queue's locks, sets LAPSED and fires vector 0. -/
  | heartbeatLapse (queue : Nat)
  /-- STATUS_BLOCK_ARM (R385). A write of HIF_SB_LO arms the status block at its address. -/
  | statusBlockArm (value : W32)
  /-- RING_ENABLE (R411). A write of HIF_RINGk_CFG enables a ring and returns its indices to 0. -/
  | ringEnable (ring : Nat) (value : W32)
  /-- STREAM_RING_CFG_WRITE (R399). A write of a stream ring's CFG or START is taken or refused by EN and bindings. -/
  | streamRingCfgWrite (ring : Nat) (start : Bool) (value : W32)
  /-- ECHO (R388). A command that returns its operand. -/
  | echo (cmd : CmdHdr) (arg : W32)
  /-- STATUS (R388). A command that returns a voice's or recorder's state and position. -/
  | status (cmd : CmdHdr) (cls : W32) (index : W32)
  /-- EVENT_CFG (R396). A command that sets the event-kind mask. -/
  | eventCfg (cmd : CmdHdr) (mask : W32)
  /-- HOST_RESET (R393). A command that completes with OK and then asserts HOSTCMD. -/
  | hostReset (cmd : CmdHdr) (arg : W32)
  /-- BAD_OPCODE (R391). A command entry with an unlisted opcode, or an unreadable entry, completes with an error. -/
  | badOpcode (cmd : CmdHdr) (opcode : Nat) (readable : Bool)
  /-- COMPLETION_WRITE (R392). A queued completion is written once the ring has room. -/
  | completionWrite
  /-- EVENT_RING_POST (R397). An event is posted to the event ring, or lost and counted. -/
  | eventRingPost (ev : Event)
  /-- FRAME_SEND (R398). The hardware consumes a frame-send entry as an Ethernet frame, timed frame or bulk section. -/
  | frameSend (readOk : Bool) (at_ : Nat)
  /-- STREAM_SLOT_FETCH (R400). The engine fetches a host-to-engine slot once its doorbell covers it. -/
  | streamSlotFetch (ring : Nat)
  /-- STREAM_RING_REFILL (R400). Once nine slots are held, the channels fade in. -/
  | streamRingRefill (ring : Nat)
  /-- STREAM_SLOT_WRITE (R401). Egress writes an engine-to-host slot after the following tick begins. -/
  | streamSlotWrite (ring : Nat)
  /-- FW_GO (R405). Writing GO resets CTL through SOFT to reload firmware. -/
  | fwGo (value : W32)
  /-- FIRMWARE_CHECK (R404). The boot loader checks an offered image and starts the Groom cores or takes the next image. -/
  | firmwareCheck (readOk : Bool)
  /-- FIRMWARE_READY (R406). The firmware reaches READY and starts consuming commands. -/
  | firmwareReady
  /-- WATCHDOG_EXPIRY (R407). A watchdog not restarted for TMO asserts WDOG. -/
  | watchdogExpiry
  /-- NEIGHBOUR_BOOT_TIMEOUT (R426). Without a neighbour image in 30 s, the loader offers the flash images. -/
  | neighbourBootTimeout
  /-- POR (R413). Low core or I/O supply asserts POR on every domain. -/
  | por (straps : Straps)
  /-- SUPPLY_RESET (R413). A rail below its reset level asserts SUPPLY. -/
  | supplyReset (low : Bool)
  /-- RESET_N (R413). The RESET_N pin held low resets CLK to APT. -/
  | resetN (low : Bool)
  /-- THERM (R413). Tj above 135 °C resets CLK to APT until it falls below 115 °C. -/
  | therm (hot : Bool)
  /-- TJ_HIGH (R466). A median Tj outside the range records TJ_HIGH and sets the Cricket fault bit. -/
  | tjHigh (t0 : Int) (t1 : Int) (t2 : Int) (t3 : Int)
  /-- CLKLOSS (R416). A lost gating clock asserts CLKLOSS on every domain that it gates. -/
  | clkloss (clock : Nat)
  /-- CLOCK_GOOD (R416). A gating clock becomes good and its domains become eligible. -/
  | clockGood (clock : Nat)
  /-- BULK_CLOCK_LOSS (R416). The loss of the bulk-memory clock resets the bulk controller and clears READY. -/
  | bulkClockLoss
  /-- SOFT_PULSE (R413). A PULSE bit written 1 in RST_SOFT pulses the SOFT source. -/
  | softPulse (value : W32)
  /-- SOFT_HOLD (R414). A write of the HOLD bits in RST_SOFT holds or releases domains. -/
  | softHold (value : W32)
  /-- PCIE_RESET (R382). PERST_N, a hot reset, a link down or an FLR resets HIF. -/
  | pcieReset (kind : Nat)
  /-- QUIESCE_DONE (R418). The quiesce handshake ends by drain or by timeout, and the source asserts. -/
  | quiesceDone (timedOut : Bool)
  /-- DOMAIN_RELEASE (R415). The sequencer releases the earliest eligible domain after the gap. -/
  | domainRelease
  /-- SUPPLY_WARNING (R420). A rail below its warning level, or PFAIL_N low, starts a warning, a flush and the optional mute. -/
  | supplyWarning (below : Nat) (pfail : Bool)
  /-- SUPPLY_RECOVERY (R420). 10 ms of good rails end the warning and fade the outputs in. -/
  | supplyRecovery
  /-- TACK_SEAL (R428). Writing SEAL stores the CRC and sets TACK_VALID. -/
  | tackSeal (value : W32)
  /-- TACK_DATA_ACCESS (R433). An access to RST_TACK_DATA reads or writes a word and advances the pointer. -/
  | tackDataAccess (write : Bool) (value : W32)
  /-- BACKUP_WRITE (R429). A write of a backup register sets its valid bit and its check bits. -/
  | backupWrite (n : Nat) (value : W32)
  /-- EVENT_RECORD (R435). The Loft accepts or suppresses an event record and numbers it. -/
  | eventRecord (code : Nat) (inst : Nat) (params : List Nat)
  /-- TOKEN_REFILL (R436). XO adds one token to the admission bucket every 1/1,024 s. -/
  | tokenRefill
  /-- TIME_MARK (R437). Every 4,096 s of operating time a TIME_MARK record is written. -/
  | timeMark
  /-- LOFT_FLUSH (R440). A flush starts and writes the unflushed records to the flash ring. -/
  | loftFlush
  /-- FLASH_PROGRAM_DONE (R442). A flash page program completes, and the flush continues or ends. -/
  | flashProgramDone (ok : Bool)
  /-- EVENT_POST_WRITE (R456). A write of TST_EVT_POST_CODE posts a record. -/
  | eventPostWrite (value : W32)
  /-- COUNTER_LOAD (R445). Writing LOAD loads the operating-time and power-cycle counters. -/
  | counterLoad (value : W32)
  /-- SELFTEST_START (R448). Writing START runs the selected self-test groups in order. -/
  | selftestStart (value : W32)
  /-- SELFTEST_GROUP_DONE (R449). A group ends with its result and a SELFTEST record. -/
  | selftestGroupDone (obs : GroupObs)
  /-- REPAIR_ADD (R454). A write of TST_RPR_ADD maps a spare row. -/
  | repairAdd (entry : W32)
  /-- REPAIR_COPY_DONE (R454). A row copy completes, and the map is appended and resealed. -/
  | repairCopyDone
  /-- EXTEST (R469). A JTAG instruction that makes the boundary register drive the pins. -/
  | extest (cells : List Bool)
  /-- SAMPLE_PRELOAD (R469). A JTAG instruction that samples or preloads the boundary register. -/
  | samplePreload (cells : List Bool)
  /-- IDCODE (R469). A JTAG instruction that selects the identification register. -/
  | idcode
  /-- HIGHZ (R469). A JTAG instruction that sets the pins to high impedance. -/
  | highz
  /-- CLAMP (R469). A JTAG instruction that clamps the pins from the boundary register. -/
  | clamp
  /-- EXTEST_PULSE (R469). An IEEE 1149.6 pulse test of the AC-coupled pairs. -/
  | extestPulse (cells : List Bool)
  /-- EXTEST_TRAIN (R469). An IEEE 1149.6 train test of the AC-coupled pairs. -/
  | extestTrain (cells : List Bool)
  /-- BYPASS (R469). A JTAG instruction that selects the bypass register. -/
  | bypass (opcode : Nat)
  /-- TEST_LOGIC_RESET (R470). Entering Test-Logic-Reset returns every pin to its functional state. -/
  | testLogicReset
  /-- REGISTER_WRITE (R9). A write to a register without a row of its own acts by its access type and locks. -/
  | registerWrite (acc : BusAccess) (value : W32)
  /-- READ_CLEAR (R10). A read of an RC register returns its value and clears it. -/
  | readClear (acc : BusAccess)
  /-- SNAPSHOT_READ (R12). A read of the lowest word of a wide value snapshots its upper words for the reading master. -/
  | snapshotRead (acc : BusAccess)
  /-- CHK_SYNC (R243). With RX_CHK = 1, the lane's pattern checker synchronises to the incoming PRBS pattern on its own, sets CHK_SYNC, and from then counts bit errors in LNP_PRBS_ERR. -/
  | chkSync (lane : Nat) (seed : Nat)
  deriving DecidableEq, Repr

end Sys2Proof
end

