-- ==== Sys2Proof/WellFormed.lean ====
section
/-! DEFINITION. Well-formed commands: operands name things that the block has, and a Scarab instruction that stands for a
CSRW of one CSR has that CSR's index. Generated from the operands of Syntax.lean. -/

namespace Sys2Proof

/-- The operands of a command that a limit binds, with their limits: core numbers, lanes, ports, rings, bytes and the like. -/
def Instr.bounds : Instr → List (Nat × Nat)
  | .tick _ => []
  | .stageOverrun stage _ => [(stage, 5)]
  | .taskDispatch start => [(start.core, 32)]
  | .taskOverrun core => [(core, 32)]
  | .nop core _ => [(core, 32)]
  | .add core _ => [(core, 32)]
  | .sub core _ => [(core, 32)]
  | .adds core _ => [(core, 32)]
  | .subs core _ => [(core, 32)]
  | .and core _ => [(core, 32)]
  | .or core _ => [(core, 32)]
  | .xor core _ => [(core, 32)]
  | .shl core _ => [(core, 32)]
  | .shr core _ => [(core, 32)]
  | .sra core _ => [(core, 32)]
  | .rsr core _ => [(core, 32)]
  | .min core _ => [(core, 32)]
  | .max core _ => [(core, 32)]
  | .abs core _ => [(core, 32)]
  | .neg core _ => [(core, 32)]
  | .slt core _ => [(core, 32)]
  | .seq core _ => [(core, 32)]
  | .addi core _ => [(core, 32)]
  | .andi core _ => [(core, 32)]
  | .ori core _ => [(core, 32)]
  | .lui core _ => [(core, 32)]
  | .shi core _ => [(core, 32)]
  | .mulc core _ => [(core, 32)]
  | .mula core _ => [(core, 32)]
  | .lvl core _ => [(core, 32)]
  | .expc core _ => [(core, 32)]
  | .mac core _ => [(core, 32)]
  | .msu core _ => [(core, 32)]
  | .maca core _ => [(core, 32)]
  | .msua core _ => [(core, 32)]
  | .mac2 core _ => [(core, 32)]
  | .fmac core _ _ => [(core, 32)]
  | .accadd core _ => [(core, 32)]
  | .ldacc core _ => [(core, 32)]
  | .rnda core _ => [(core, 32)]
  | .clra core _ => [(core, 32)]
  | .hwRepeat core _ => [(core, 32)]
  | .tend core _ => [(core, 32)]
  | .csrr core _ => [(core, 32)]
  | .csrw core _ => [(core, 32)]
  | .mbpost core _ => [(core, 32)]
  | .fft core _ => [(core, 32)]
  | .ld core _ _ => [(core, 32)]
  | .st core _ => [(core, 32)]
  | .ld2 core _ _ => [(core, 32)]
  | .st2 core _ => [(core, 32)]
  | .fwait core _ => [(core, 32)]
  | .mv core _ => [(core, 32)]
  | .lia core _ => [(core, 32)]
  | .adda core _ => [(core, 32)]
  | .br core _ => [(core, 32)]
  | .call core _ => [(core, 32)]
  | .jr core _ => [(core, 32)]
  | .reti core _ => [(core, 32)]
  | .mbpop core _ => [(core, 32)]
  | .mvGo core _ => [(core, 32)]
  | .moverDone core e => [(core, 32), (e.cycle, 25600)]
  | .lkReq core _ => [(core, 32)]
  | .lkRel core _ => [(core, 32)]
  | .fftJobStart unit => [(unit, 4)]
  | .fftJobDone unit e => [(unit, 4), (e.cycle, 25600)]
  | .mboxInterrupt point => [(point.core, 32), (point.cycle, 25600)]
  | .errInterrupt point => [(point.core, 32), (point.cycle, 25600)]
  | .mbinEnqueue core _ => [(core, 32)]
  | .mboutPop core _ => [(core, 32)]
  | .load _ _ _ _ _ _ => []
  | .loadDone => []
  | .unload _ _ => []
  | .activate _ _ _ => []
  | .activateXf _ _ _ _ => []
  | .stopSlot _ _ _ => []
  | .activationTakesEffect => []
  | .stopTakesEffect => []
  | .stopComplete => []
  | .xfWarmupStart => []
  | .xfFadeStart => []
  | .xfRetire => []
  | .commit _ _ _ _ _ => []
  | .commitArrival => []
  | .commitLand slot group => [(slot, 2), (group, 65536)]
  | .zcTimeout slot pset word => [(slot, 2), (pset, 65536), (word, 64)]
  | .gainRampEnd slot pset word => [(slot, 2), (pset, 65536), (word, 64)]
  | .fadeComplete _ => []
  | .taskRestart _ _ _ _ => []
  | .taskRestartLand slot task => [(slot, 2), (task, 65536)]
  | .parameterWrite _ => []
  | .pwIndirectFetch _ => []
  | .progBaseWrite _ => []
  | .voiceEnded slot node => [(slot, 2), (node, 65536)]
  | .recorderFull slot node => [(slot, 2), (node, 65536)]
  | .silenceHoldExpiry slot node => [(slot, 2), (node, 65536)]
  | .prioHoldExpiry slot node input => [(slot, 2), (node, 65536), (input, 16)]
  | .estimatorPeriodEnd zone ref => [(zone, 512), (ref.slot, 2), (ref.task, 65536)]
  | .noiseDelivery zone _ => [(zone, 512)]
  | .adaptiveStep zone => [(zone, 512)]
  | .adaptiveWrite w => [(w.zone, 512), (w.band, 7), (w.entry, 16)]
  | .adaptiveWriteApply zone => [(zone, 512)]
  | .anaLock _ => []
  | .adaptEnWrite _ => []
  | .howlAnalysis slot task chan _ => [(slot, 2), (task, 65536), (chan, 16)]
  | .portRun port => [(port, 16)]
  | .portStop port => [(port, 16)]
  | .portRunning port => [(port, 16)]
  | .portStopped port => [(port, 16)]
  | .maskCommit port => [(port, 16)]
  | .maskLatch port => [(port, 16)]
  | .portFrameReceived port _ => [(port, 16)]
  | .portFrameTransmit port => [(port, 16)]
  | .portRefill port => [(port, 16)]
  | .slotZcTimeout port _ slot => [(port, 16), (slot, 32)]
  | .portClockLost port => [(port, 16)]
  | .asrcLock port _ => [(port, 16)]
  | .portCfgWrite port _ _ => [(port, 16)]
  | .pdmMaskWrite _ => []
  | .pdmCtrlWrite _ => []
  | .pdmSettleEnd mic => [(mic, 32)]
  | .laneSignalChange lane _ _ => [(lane, 8)]
  | .blockReceived lane _ _ => [(lane, 8)]
  | .adaptDone lane => [(lane, 8)]
  | .bringupFail lane => [(lane, 8)]
  | .laneRestart lane => [(lane, 8)]
  | .laneCtrlWrite lane _ => [(lane, 8)]
  | .txeqWrite lane _ => [(lane, 8)]
  | .rxeqWrite lane _ => [(lane, 8)]
  | .prbsTestWrite lane _ => [(lane, 8)]
  | .portModeWrite port _ => [(port, 4)]
  | .ethFrameReceived lane bytes _ => [(lane, 8)] ++ bytes.map (fun b => (b, 256))
  | .rtpRefill stream => [(stream, 64)]
  | .rtpPacketLaunch stream => [(stream, 64)]
  | .rtpRxEntryWrite stream word _ => [(stream, 64), (word, 16)]
  | .rtpTxEntryWrite stream word _ => [(stream, 64), (word, 16)]
  | .thetexFrameSend port => [(port, 4)]
  | .relayFrameLaunch port => [(port, 4)]
  | .relayFrameTimeout port => [(port, 4)]
  | .thetexFrameReceived lane bytes cycle _ => [(lane, 8), (cycle, 25600)] ++ bytes.map (fun b => (b, 256))
  | .sectionReceived lane bytes _ => [(lane, 8)] ++ bytes.map (fun b => (b, 256))
  | .secondCopyTimeout port => [(port, 4)]
  | .linkLost lane => [(lane, 8)]
  | .laneStreamRefill port stream => [(port, 4), (stream, 256)]
  | .bulkSectionSend port => [(port, 4)]
  | .mgmtAssign => []
  | .mgmtRead => []
  | .mgmtWrite => []
  | .mgmtReset => []
  | .mgmtHostmsg => []
  | .mgmtResponse => []
  | .addrWrite _ => []
  | .spanEnWrite j _ => [(j, 4)]
  | .portmapWrite _ => []
  | .laneStreamEntryWrite _ port stream word _ => [(port, 4), (stream, 256), (word, 4)]
  | .frequencyReading _ => []
  | .inputPresenceChange input _ _ => [(input, 16)]
  | .phaseComparison input _ => [(input, 16)]
  | .clkModeWrite _ => []
  | .fsyncOutPulse out cycle _ => [(out, 4), (cycle, 25600)]
  | .fsyncOutLost out => [(out, 4)]
  | .tsIncWrite ts _ => [(ts, 2)]
  | .tsSetGo ts _ => [(ts, 2)]
  | .tsAdj ts _ => [(ts, 2)]
  | .tsLossTimeout ts => [(ts, 2)]
  | .mainReturn => []
  | .scntAlign => []
  | .secondCheck => []
  | .timeRequestSend ts => [(ts, 2)]
  | .timeRequestReceived => []
  | .timeResponseReceived => []
  | .ptpEventMessage lane _ kind domain sequence _ _ => [(lane, 8), (kind, 16), (domain, 256), (sequence, 65536)]
  | .ptpCfg _ _ _ _ _ => []
  | .fireflyArm ff _ => [(ff, 8)]
  | .fireflyDisarm ff _ => [(ff, 8)]
  | .fireflyPulse ff => [(ff, 8)]
  | .timedFrameLaunch lane _ => [(lane, 8)]
  | .cricketReceived => []
  | .cricketMissed => []
  | .fatalFaultFailed => []
  | .seekTimeout => []
  | .autoRejoin => []
  | .pairFail => []
  | .pairRejoin => []
  | .handback => []
  | .handbackTakesEffect => []
  | .hashCompare => []
  | .joinTimeout => []
  | .inputRecord => []
  | .noiseRecord => []
  | .adaptRecord => []
  | .taskmsgRecord core task _ _ => [(core, 32), (task, 65536)]
  | .joinRecord _ => []
  | .regionRecord core task _ _ => [(core, 32), (task, 65536)]
  | .laneErrorsSummary lane => [(lane, 8)]
  | .yardTransaction txs => txs.map (fun t => (t.master, 24))
  | .stallHandover stall owner => [(stall, 96), (owner, 32)]
  | .handoverComplete stall => [(stall, 96)]
  | .lockRequest rid queue lock => [(rid, 52), (queue, 16), (lock, 256)]
  | .lockRelease rid queue lock => [(rid, 52), (queue, 16), (lock, 256)]
  | .lockTimeout lock => [(lock, 256)]
  | .weevilRegionDone paddock _ => [(paddock, 12)]
  | .weevilShareWindow paddock => [(paddock, 12)]
  | .weevilPassDone => []
  | .coverageLate => []
  | .blkCfgWrite _ => []
  | .blkDlyBaseWrite _ => []
  | .bulkTrainingStart _ => []
  | .bulkTrainingDone _ => []
  | .bulkRequest r _ _ cycle => [(r, 8), (cycle, 25600)]
  | .bulkBurstDone cycle => [(cycle, 25600)]
  | .backoffExpiry r cycle => [(r, 8), (cycle, 25600)]
  | .arbWindow => []
  | .arbBiasWrite r _ cycle => [(r, 8), (cycle, 25600)]
  | .bulkRefill slot node => [(slot, 2), (node, 65536)]
  | .controlRingDoorbell ring _ => [(ring, 6)]
  | .streamRingDoorbell ring _ => [(ring, 32)]
  | .heartbeat queue => [(queue, 16)]
  | .heartbeatLapse queue => [(queue, 16)]
  | .statusBlockArm _ => []
  | .ringEnable ring _ => [(ring, 6)]
  | .streamRingCfgWrite ring _ _ => [(ring, 32)]
  | .echo _ _ => []
  | .status _ _ _ => []
  | .eventCfg _ _ => []
  | .hostReset _ _ => []
  | .badOpcode _ opcode _ => [(opcode, 256)]
  | .completionWrite => []
  | .eventRingPost _ => []
  | .frameSend _ _ => []
  | .streamSlotFetch ring => [(ring, 32)]
  | .streamRingRefill ring => [(ring, 32)]
  | .streamSlotWrite ring => [(ring, 32)]
  | .fwGo _ => []
  | .firmwareCheck _ => []
  | .firmwareReady => []
  | .watchdogExpiry => []
  | .neighbourBootTimeout => []
  | .por straps => [(straps.code, 64)]
  | .supplyReset _ => []
  | .resetN _ => []
  | .therm _ => []
  | .tjHigh _ _ _ _ => []
  | .clkloss clock => [(clock, 4)]
  | .clockGood clock => [(clock, 4)]
  | .bulkClockLoss => []
  | .softPulse _ => []
  | .softHold _ => []
  | .pcieReset kind => [(kind, 3)]
  | .quiesceDone _ => []
  | .domainRelease => []
  | .supplyWarning below _ => [(below, 256)]
  | .supplyRecovery => []
  | .tackSeal _ => []
  | .tackDataAccess _ _ => []
  | .backupWrite n _ => [(n, 8)]
  | .eventRecord code inst params => [(code, 65536), (inst, 4096)] ++ params.map (fun p => (p, 2 ^ 32))
  | .tokenRefill => []
  | .timeMark => []
  | .loftFlush => []
  | .flashProgramDone _ => []
  | .eventPostWrite _ => []
  | .counterLoad _ => []
  | .selftestStart _ => []
  | .selftestGroupDone _ => []
  | .repairAdd _ => []
  | .repairCopyDone => []
  | .extest _ => []
  | .samplePreload _ => []
  | .idcode => []
  | .highz => []
  | .clamp => []
  | .extestPulse _ => []
  | .extestTrain _ => []
  | .bypass opcode => [(opcode, 256)]
  | .testLogicReset => []
  | .registerWrite acc _ => [(acc.master, 24), (acc.queue, 16)]
  | .readClear acc => [(acc.master, 24), (acc.queue, 16)]
  | .snapshotRead acc => [(acc.master, 24), (acc.queue, 16)]
  | .chkSync lane _ => [(lane, 8)]

/-- The CSR indices that have rows of their own (R141): MBPOP, MV_GO, LK_REQ, LK_REL. -/
def ownCsrs : List (BitVec 16) := [0x00D, 0x013, 0x018, 0x01A]

/-- Whether an instruction that writes a CSR is the row's own: CSRW writes none of `ownCsrs`, the four rows theirs. -/
def Instr.csrOk (i : Instr) : Bool :=
  match i with
  | .csrw _ f => !ownCsrs.contains f.imm
  | .mbpop _ f => f.imm = 0x00D
  | .mvGo _ f => f.imm = 0x013
  | .lkReq _ f => f.imm = 0x018
  | .lkRel _ f => f.imm = 0x01A
  | _ => true

/-- The opcodes that R124 does not list. -/
def freeOpcodes : List (BitVec 6) := [0x17, 0x1C, 0x1D, 0x1E, 0x1F, 0x35, 0x36, 0x37, 0x3B]

/-- Whether the opcode in NOP's row is NOP's or one that no row has (R125). -/
def Instr.opcodeOk (i : Instr) : Bool :=
  match i with
  | .nop _ w => decide (w.op = 0) || freeOpcodes.contains w.op
  | _ => true

/-- A well-formed command. -/
def Instr.wf (i : Instr) : Bool := i.bounds.all (fun b => decide (b.1 < b.2)) && i.csrOk && i.opcodeOk

end Sys2Proof
end

