-- ==== Sys2Proof/Decode.lean ====
section
/-! DEFINITION. Decoding. The opcode table gives no row any bits, so no word spells a command; a Scarab core's instruction
words do have an encoding (R123, R124), and their decoder and encoder stand here. -/

namespace Sys2Proof

/-- The command that a word spells by the opcode table's bits: the table gives none to any row. -/
def decodeTableWord (_nbits _w : Nat) : Option Instr := none

/-! ### The formats of R123: fields of a word, and the word of an opcode and fields -/

/-- Format R of a word. -/
def RFmt.ofWord (w : W32) : RFmt :=
  let f : RFmt := { d := w.extractLsb' 21 5, s := w.extractLsb' 16 5, t := w.extractLsb' 11 5, z := w.extractLsb' 0 11 }
  f

/-- The word of an opcode and a format R. -/
def RFmt.word (op : BitVec 6) (f : RFmt) : W32 := op ++ f.d ++ f.s ++ f.t ++ f.z

/-- Format I of a word. -/
def IFmt.ofWord (w : W32) : IFmt :=
  let f : IFmt := { d := w.extractLsb' 21 5, s := w.extractLsb' 16 5, imm := w.extractLsb' 0 16 }
  f

/-- The word of an opcode and a format I. -/
def IFmt.word (op : BitVec 6) (f : IFmt) : W32 := op ++ f.d ++ f.s ++ f.imm

/-- Format M of a word. -/
def MFmt.ofWord (w : W32) : MFmt :=
  let f : MFmt := { d := w.extractLsb' 21 5, a := w.extractLsb' 18 3, mode := w.extractLsb' 16 2, ofs := w.extractLsb' 0 16 }
  f

/-- The word of an opcode and a format M. -/
def MFmt.word (op : BitVec 6) (f : MFmt) : W32 := op ++ f.d ++ f.a ++ f.mode ++ f.ofs

/-- Format X of a word. -/
def XFmt.ofWord (w : W32) : XFmt :=
  let f : XFmt := { acc := w.extractLsb' 24 2, acc2 := w.extractLsb' 22 2, z1 := w.extractLsb' 21 1, s := w.extractLsb' 16 5, t := w.extractLsb' 11 5, z := w.extractLsb' 0 11 }
  f

/-- The word of an opcode and a format X. -/
def XFmt.word (op : BitVec 6) (f : XFmt) : W32 := op ++ f.acc ++ f.acc2 ++ f.z1 ++ f.s ++ f.t ++ f.z

/-- Format N of a word. -/
def NFmt.ofWord (w : W32) : NFmt :=
  let f : NFmt := { d := w.extractLsb' 21 5, acc := w.extractLsb' 19 2, clr := w.extractLsb' 18 1, xb := w.extractLsb' 17 1, z1 := w.extractLsb' 16 1, sh := w.extractLsb' 10 6, z := w.extractLsb' 0 10 }
  f

/-- The word of an opcode and a format N. -/
def NFmt.word (op : BitVec 6) (f : NFmt) : W32 := op ++ f.d ++ f.acc ++ f.clr ++ f.xb ++ f.z1 ++ f.sh ++ f.z

/-- Format F of a word. -/
def FFmt.ofWord (w : W32) : FFmt :=
  let f : FFmt := { pair := w.extractLsb' 25 1, ka := w.extractLsb' 24 1, ax := w.extractLsb' 21 3, ay := w.extractLsb' 18 3, cx := w.extractLsb' 17 1, cy := w.extractLsb' 16 1, incx := w.extractLsb' 8 8, incy := w.extractLsb' 0 8 }
  f

/-- The word of an opcode and a format F. -/
def FFmt.word (op : BitVec 6) (f : FFmt) : W32 := op ++ f.pair ++ f.ka ++ f.ax ++ f.ay ++ f.cx ++ f.cy ++ f.incx ++ f.incy

/-- Format B of a word. -/
def BFmt.ofWord (w : W32) : BFmt :=
  let f : BFmt := { s := w.extractLsb' 21 5, cond := w.extractLsb' 18 3, ofs := w.extractLsb' 0 18 }
  f

/-- The word of an opcode and a format B. -/
def BFmt.word (op : BitVec 6) (f : BFmt) : W32 := op ++ f.s ++ f.cond ++ f.ofs

/-- Format P of a word. -/
def PFmt.ofWord (w : W32) : PFmt :=
  let f : PFmt := { len1 := w.extractLsb' 20 6, cr := w.extractLsb' 19 1, z1 := w.extractLsb' 16 3, count := w.extractLsb' 0 16 }
  f

/-- The word of an opcode and a format P. -/
def PFmt.word (op : BitVec 6) (f : PFmt) : W32 := op ++ f.len1 ++ f.cr ++ f.z1 ++ f.count

/-- Format V of a word. -/
def VFmt.ofWord (w : W32) : VFmt :=
  let f : VFmt := { d := w.extractLsb' 21 5, s := w.extractLsb' 16 5, kind := w.extractLsb' 13 3, z := w.extractLsb' 0 13 }
  f

/-- The word of an opcode and a format V. -/
def VFmt.word (op : BitVec 6) (f : VFmt) : W32 := op ++ f.d ++ f.s ++ f.kind ++ f.z

/-- Format L of a word. -/
def LFmt.ofWord (w : W32) : LFmt :=
  let f : LFmt := { cls := w.extractLsb' 24 2, n := w.extractLsb' 21 3, circ := w.extractLsb' 20 1, z1 := w.extractLsb' 16 4, imm := w.extractLsb' 0 16 }
  f

/-- The word of an opcode and a format L. -/
def LFmt.word (op : BitVec 6) (f : LFmt) : W32 := op ++ f.cls ++ f.n ++ f.circ ++ f.z1 ++ f.imm

/-- Format G of a word. -/
def GFmt.ofWord (w : W32) : GFmt :=
  let f : GFmt := { ax := w.extractLsb' 23 3, size := w.extractLsb' 19 4, inv := w.extractLsb' 18 1, keep := w.extractLsb' 17 1, z1 := w.extractLsb' 16 1, z := w.extractLsb' 0 16 }
  f

/-- The word of an opcode and a format G. -/
def GFmt.word (op : BitVec 6) (f : GFmt) : W32 := op ++ f.ax ++ f.size ++ f.inv ++ f.keep ++ f.z1 ++ f.z

/-- What a CSRW word stands for (R141): four CSRs have rows of their own. -/
def csrwOf (core : Nat) (f : IFmt) : Instr :=
  if f.imm = 0x00D then .mbpop core f
  else if f.imm = 0x013 then .mvGo core f
  else if f.imm = 0x018 then .lkReq core f
  else if f.imm = 0x01A then .lkRel core f
  else .csrw core f

/-- The instruction that a word spells for core `core` (R123, R124). A word whose opcode R124 does not list stands in NOP's row
under that opcode: it issues, and is ILLEGAL (R125). Reads of memory find no error. -/
def decodeScarab (core : Nat) (w : W32) : Option Instr :=
  match (w.extractLsb' 26 6).toNat with
  | 0x00 => some (.nop core ⟨0, RFmt.ofWord w⟩)
  | 0x01 => some (.add core (RFmt.ofWord w))
  | 0x02 => some (.sub core (RFmt.ofWord w))
  | 0x03 => some (.adds core (RFmt.ofWord w))
  | 0x04 => some (.subs core (RFmt.ofWord w))
  | 0x05 => some (.and core (RFmt.ofWord w))
  | 0x06 => some (.or core (RFmt.ofWord w))
  | 0x07 => some (.xor core (RFmt.ofWord w))
  | 0x08 => some (.shl core (RFmt.ofWord w))
  | 0x09 => some (.shr core (RFmt.ofWord w))
  | 0x0A => some (.sra core (RFmt.ofWord w))
  | 0x0B => some (.rsr core (RFmt.ofWord w))
  | 0x0C => some (.min core (RFmt.ofWord w))
  | 0x0D => some (.max core (RFmt.ofWord w))
  | 0x0E => some (.abs core (RFmt.ofWord w))
  | 0x0F => some (.neg core (RFmt.ofWord w))
  | 0x10 => some (.slt core (RFmt.ofWord w))
  | 0x11 => some (.seq core (RFmt.ofWord w))
  | 0x12 => some (.addi core (IFmt.ofWord w))
  | 0x13 => some (.andi core (IFmt.ofWord w))
  | 0x14 => some (.ori core (IFmt.ofWord w))
  | 0x15 => some (.lui core (IFmt.ofWord w))
  | 0x16 => some (.shi core (IFmt.ofWord w))
  | 0x18 => some (.mulc core (RFmt.ofWord w))
  | 0x19 => some (.mula core (RFmt.ofWord w))
  | 0x1A => some (.lvl core (RFmt.ofWord w))
  | 0x1B => some (.expc core (RFmt.ofWord w))
  | 0x20 => some (.mac core (XFmt.ofWord w))
  | 0x21 => some (.msu core (XFmt.ofWord w))
  | 0x22 => some (.maca core (XFmt.ofWord w))
  | 0x23 => some (.msua core (XFmt.ofWord w))
  | 0x24 => some (.mac2 core (XFmt.ofWord w))
  | 0x25 => some (.fmac core (FFmt.ofWord w) .clean)
  | 0x26 => some (.accadd core (XFmt.ofWord w))
  | 0x27 => some (.ldacc core (XFmt.ofWord w))
  | 0x28 => some (.rnda core (NFmt.ofWord w))
  | 0x29 => some (.clra core (XFmt.ofWord w))
  | 0x2A => some (.hwRepeat core (PFmt.ofWord w))
  | 0x2B => some (.tend core (BFmt.ofWord w))
  | 0x2C => some (.csrr core (IFmt.ofWord w))
  | 0x2D => some (csrwOf core (IFmt.ofWord w))
  | 0x2E => some (.mbpost core (RFmt.ofWord w))
  | 0x2F => some (.fft core (GFmt.ofWord w))
  | 0x30 => some (.ld core (MFmt.ofWord w) .clean)
  | 0x31 => some (.st core (MFmt.ofWord w))
  | 0x32 => some (.ld2 core (MFmt.ofWord w) .clean)
  | 0x33 => some (.st2 core (MFmt.ofWord w))
  | 0x34 => some (.fwait core (RFmt.ofWord w))
  | 0x38 => some (.mv core (VFmt.ofWord w))
  | 0x39 => some (.lia core (LFmt.ofWord w))
  | 0x3A => some (.adda core (LFmt.ofWord w))
  | 0x3C => some (.br core (BFmt.ofWord w))
  | 0x3D => some (.call core (BFmt.ofWord w))
  | 0x3E => some (.jr core (BFmt.ofWord w))
  | 0x3F => some (.reti core (BFmt.ofWord w))
  | _ => some (.nop core ⟨w.extractLsb' 26 6, RFmt.ofWord w⟩)

/-- The core of a Scarab instruction and its word (R123, R124); none for every other command. -/
def encodeScarab (i : Instr) : Option (Nat × W32) :=
  match i with
  | .nop core w => some (core, RFmt.word w.op w.f)
  | .add core f => some (core, RFmt.word 0x01 f)
  | .sub core f => some (core, RFmt.word 0x02 f)
  | .adds core f => some (core, RFmt.word 0x03 f)
  | .subs core f => some (core, RFmt.word 0x04 f)
  | .and core f => some (core, RFmt.word 0x05 f)
  | .or core f => some (core, RFmt.word 0x06 f)
  | .xor core f => some (core, RFmt.word 0x07 f)
  | .shl core f => some (core, RFmt.word 0x08 f)
  | .shr core f => some (core, RFmt.word 0x09 f)
  | .sra core f => some (core, RFmt.word 0x0A f)
  | .rsr core f => some (core, RFmt.word 0x0B f)
  | .min core f => some (core, RFmt.word 0x0C f)
  | .max core f => some (core, RFmt.word 0x0D f)
  | .abs core f => some (core, RFmt.word 0x0E f)
  | .neg core f => some (core, RFmt.word 0x0F f)
  | .slt core f => some (core, RFmt.word 0x10 f)
  | .seq core f => some (core, RFmt.word 0x11 f)
  | .addi core f => some (core, IFmt.word 0x12 f)
  | .andi core f => some (core, IFmt.word 0x13 f)
  | .ori core f => some (core, IFmt.word 0x14 f)
  | .lui core f => some (core, IFmt.word 0x15 f)
  | .shi core f => some (core, IFmt.word 0x16 f)
  | .mulc core f => some (core, RFmt.word 0x18 f)
  | .mula core f => some (core, RFmt.word 0x19 f)
  | .lvl core f => some (core, RFmt.word 0x1A f)
  | .expc core f => some (core, RFmt.word 0x1B f)
  | .mac core f => some (core, XFmt.word 0x20 f)
  | .msu core f => some (core, XFmt.word 0x21 f)
  | .maca core f => some (core, XFmt.word 0x22 f)
  | .msua core f => some (core, XFmt.word 0x23 f)
  | .mac2 core f => some (core, XFmt.word 0x24 f)
  | .fmac core f _ => some (core, FFmt.word 0x25 f)
  | .accadd core f => some (core, XFmt.word 0x26 f)
  | .ldacc core f => some (core, XFmt.word 0x27 f)
  | .rnda core f => some (core, NFmt.word 0x28 f)
  | .clra core f => some (core, XFmt.word 0x29 f)
  | .hwRepeat core f => some (core, PFmt.word 0x2A f)
  | .tend core f => some (core, BFmt.word 0x2B f)
  | .csrr core f => some (core, IFmt.word 0x2C f)
  | .csrw core f => some (core, IFmt.word 0x2D f)
  | .mbpost core f => some (core, RFmt.word 0x2E f)
  | .fft core f => some (core, GFmt.word 0x2F f)
  | .ld core f _ => some (core, MFmt.word 0x30 f)
  | .st core f => some (core, MFmt.word 0x31 f)
  | .ld2 core f _ => some (core, MFmt.word 0x32 f)
  | .st2 core f => some (core, MFmt.word 0x33 f)
  | .fwait core f => some (core, RFmt.word 0x34 f)
  | .mv core f => some (core, VFmt.word 0x38 f)
  | .lia core f => some (core, LFmt.word 0x39 f)
  | .adda core f => some (core, LFmt.word 0x3A f)
  | .br core f => some (core, BFmt.word 0x3C f)
  | .call core f => some (core, BFmt.word 0x3D f)
  | .jr core f => some (core, BFmt.word 0x3E f)
  | .reti core f => some (core, BFmt.word 0x3F f)
  | .mbpop core f => some (core, IFmt.word 0x2D f)
  | .mvGo core f => some (core, IFmt.word 0x2D f)
  | .lkReq core f => some (core, IFmt.word 0x2D f)
  | .lkRel core f => some (core, IFmt.word 0x2D f)
  | _ => none

/-- The instruction with no error found by its reads of memory, which its word does not spell. -/
def Instr.clean (i : Instr) : Instr :=
  match i with
  | .fmac core f _ => .fmac core f .clean
  | .ld core f _ => .ld core f .clean
  | .ld2 core f _ => .ld2 core f .clean
  | _ => i

end Sys2Proof
end

