-- ==== Sys2Proof/Config.lean ====
section
/-! DEFINITION. What an implementation fixes and what the spec leaves open: constants without a body, so that nothing
can be proved of their values. -/

namespace Sys2Proof

/-- The values the spec leaves open, in the order in which a run draws them (`State.freeCtr`). -/
opaque Config.free : Nat → Nat

/-- What the fuses of a die say (R14). -/
opaque Config.die : Nat

/-- The unique die identifier (R14, R15): any value but 0 and all ones, which it never reads as. -/
def Config.uid : W64 := BitVec.ofNat 64 (1 + Config.die % (2 ^ 64 - 2))

/-- Whether a signature over a digest verifies under the boot ROM's key of that index (R404). -/
opaque Config.ecdsaOk : Nat → List Nat → List Nat → Bool

/-- The calculations of the Ivquin library's analysis tasks that chapter 5 names and does not give bit by bit (R152): of the
canceller the filter's output, a tap's change, a level, the residual suppression and the ERLE; of the estimator a cell's four
spectra, a band's intensities, the reference's modulation index, a band's level, the index of a microphone, a band's MTI, the
program level, the delay's search and its refinement, a gap sample's power, the mean of a power, the level of a mean of powers,
and the mean where a band has no valid cell; of the suppressor a notch's output and state, and the depth it starts with. -/
inductive LibFn
  | fir | nlms | level | suppress | erle
  | cell | band | modIndex | bandLevel | sti | mti | speech | coarse | fine | gapPower | meanPower | powerMean | noCell
  | notch | notchState | notchDepth
  deriving DecidableEq, Repr

/-- What a calculation of the library gives for its arguments. -/
opaque Config.library : LibFn → List Int → Int

/-- A byte of a Stall whose contents a self-test left undefined (R447), by what names the contents and the address. -/
opaque Config.stallByte : Nat → Nat → BitVec 8

end Sys2Proof
end

