-- ==== Sys2Proof/Machine/Arith.lean ====
section
/-! DEFINITION. Exact integer arithmetic of the engine: narrowing, ramps, levels, biquads, rate filters, twiddles,
storage formats and checksums (R5, R6, R38, R68, R75 to R86, R100, R106, R139, R328). -/

namespace Sys2Proof.Arith

/-! ### Narrowing (R6, R68) -/

/-- R68 rnd: half an output step is added, then truncation toward minus infinity. -/
def rnd (v : Int) (s : Nat) : Int :=
  match s with
  | 0 => v
  | s + 1 => (v + 2 ^ s) / 2 ^ (s + 1)

/-- Limit `v` to a two's-complement number of `n` bits. -/
def satN (n : Nat) (v : Int) : Int := max (-(2 ^ (n - 1))) (min v (2 ^ (n - 1) - 1))

/-- R68 sat32. -/
def sat32 (v : Int) : Int := satN 32 v

/-- R68 gain: an A32 sample times a C32 gain, narrowed once. -/
def gain (x c : Int) : Int := sat32 (rnd (x * c) 28)

/-- R68 magnitude of an A32 sample, limited to 2^31 - 1. -/
def mag (x : Int) : Int := min (if x < 0 then -x else x) (2 ^ 31 - 1)

/-- The signed reading of a word. -/
def sInt (w : W32) : Int := w.toInt

/-- The word that holds `v`. -/
def toW (v : Int) : W32 := BitVec.ofInt 32 v

/-- Unity gain, C32 (R73). -/
def unity : Int := 2 ^ 28

/-! ### Ramps, fades and merges (R75 to R77) -/

/-- R75: step `k` of `n` of the linear ramp from `g0` to `g1`. -/
def ramp (g0 g1 : Int) (k n : Nat) : Int := g0 + (2 * (g1 - g0) * k + n) / (2 * n)

/-- R77: old and new sample blended at step `k` of `l`; step 0 gives the old sample (R199). -/
def mergeW (k l : Nat) : Int := if k = 0 then 0 else ramp 0 unity k l

/-- R77. -/
def merge (xo xn : Int) (k l : Nat) : Int :=
  let w := mergeW k l
  sat32 (rnd (xo * (unity - w) + xn * w) 28)

/-- R85 div': division rounded half up. -/
def divHalfUp (a d : Int) : Int := (a + d / 2) / d

/-- R280, R336: the j-th concealed sample after `y`. -/
def conceal (y : Int) (j : Nat) : Int := if j ≤ 3 then rnd y j else 0

/-! ### Level arithmetic (R81, R82) -/

/-- Position of the most significant 1. -/
def msb (m : Nat) : Nat := Nat.log2 m

/-- R81. -/
def log2lv (m : Int) : Int :=
  if m ≤ 0 then -2031616
  else
    let e := msb m.toNat
    let f := rnd (m * 2 ^ (30 - e) - 2 ^ 30) 14
    let e' : Int := if f = 65536 then (e : Int) + 1 else e
    let f' : Int := if f = 65536 then 0 else f
    (e' - 31) * 65536 + f' + rnd (11 * f' * (65536 - f')) 21

/-- R82. -/
def exp2c (g : Int) : Int :=
  let i := g / 65536
  let f := g - i * 65536
  if i ≥ 3 then 2 ^ 31 - 1
  else if i < -29 then 0
  else
    let m := 65536 + f - rnd (11 * f * (65536 - f)) 21
    if i ≥ -12 then m * 2 ^ (i + 12).toNat
    else rnd m (-(i + 12)).toNat

/-! ### Biquads (R78, R79) -/

/-- Biquad history. -/
structure Bq where
  x1 : Int := 0
  x2 : Int := 0
  y1 : Int := 0
  y2 : Int := 0
  deriving DecidableEq, Repr

/-- The coefficients B0, B1, B2, A1, A2, in that order. -/
structure Coef where
  b0 : Int
  b1 : Int
  b2 : Int
  a1 : Int
  a2 : Int
  deriving DecidableEq, Repr

/-- R78: one sample through a biquad. -/
def biquad (c : Coef) (h : Bq) (x : Int) : Int × Bq :=
  let y := sat32 (rnd (c.b0 * x + c.b1 * h.x1 + c.b2 * h.x2 - c.a1 * h.y1 - c.a2 * h.y2) 28)
  (y, { x1 := x, x2 := h.x1, y1 := y, y2 := h.y1 })

/-- R79: the two stability tests. -/
def Coef.ok (c : Coef) : Bool :=
  decide (-unity < c.a2) && decide (c.a2 < unity) && decide (-(unity + c.a2) < c.a1) && decide (c.a1 < unity + c.a2)

/-! ### Dynamics (R84 to R86, R90, R92) -/

/-- State of a dynamics stage or limiter (R70). -/
structure Dyn where
  s : Int := 0
  hc : Nat := 0
  e : Int := 0
  deriving DecidableEq, Repr

/-- R84: the detector. -/
def detect (det msShift : Nat) (e x : Int) : Int × Int :=
  if det = 0 then (log2lv (mag x), e)
  else
    let e' := e + rnd (sat32 (rnd (x * x) 31) - e) msShift
    (rnd (log2lv e') 1, e')

/-- R85, R110: the gain computer's reduction. DEDUCED (log entry 107): in the knee the minus stands outside div', whose
rounding half up then applies to the positive quotient. -/
def gainComputer (func : Nat) (l t s w : Int) : Int :=
  if func = 1 then
    let v := l - t
    if w = 0 ∨ 2 * v ≥ w then -(max (rnd (v * s) 16) 0)
    else if 2 * v ≤ -w then 0
    else -(divHalfUp (s * (2 * v + w) * (2 * v + w)) (8 * w * 65536))
  else if func = 2 then
    let v := t - l
    if v ≤ 0 then 0 else -(min (rnd (v * s) 16) w)
  else 0

/-- R86: the smoother with its 32 extra fraction bits. -/
def smooth (d : Dyn) (gr attack release : Int) (hold : Nat) : Dyn :=
  let t := gr * 2 ^ 32
  if t < d.s then { d with s := d.s + rnd ((t - d.s) * attack) 31, hc := hold }
  else if d.hc > 0 then { d with hc := d.hc - 1 }
  else { d with s := d.s + rnd ((t - d.s) * release) 31 }

/-- R90: one step of the noise-tracking boost. -/
def boostStep (b bt step : Int) : Int :=
  if b < bt then min (b + step) bt else if b > bt then max (b - step) bt else b

/-- R90: the boost target. -/
def boostTarget (n ref slope mx limit : Int) : Int := min (min (max (rnd ((n - ref) * slope) 16) 0) mx) limit

/-! ### Rate conversion (R99 to R101) -/

/-- R100: Lagrange points of ratio `m`. -/
def ratePoints (m : Nat) : Nat := if m = 2 then 16 else if m = 3 then 10 else 8

/-- R100: Δ of ratio `m`. -/
def rateDelta (m : Nat) : Nat := ratePoints m * m / 2 - 1

/-- R100: numerator and denominator of K(n / m), as a product over the Lagrange points. -/
def lagrange (m : Nat) (n : Int) : Int × Int :=
  let p : Int := ratePoints m
  let q0 := n / m - p / 2 + 1
  (List.range (ratePoints m)).foldl (fun acc (i : Nat) =>
    let q := q0 + i
    if q = 0 then acc else (acc.1 * (n - q * m), acc.2 * (-(q * m)))) (1, 1)

/-- floor (2^28 num / den + 1/2) for a nonzero denominator. -/
def roundRat (num den : Int) : Int :=
  let a := if den < 0 then -num else num
  let b := if den < 0 then -den else den
  (2 ^ 29 * a + b) / (2 * b)

/-- R100: interpolator coefficient hq[n]. -/
def rateHq (m : Nat) (n : Int) : Int :=
  if n < -(rateDelta m : Int) ∨ n > rateDelta m then 0
  else if n = 0 then unity
  else if n % m = 0 then 0
  else let k := lagrange m n; roundRat k.1 k.2

/-- R100: decimator coefficient hd[n]. -/
def rateHd (m : Nat) (n : Int) : Int :=
  if n < -(rateDelta m : Int) ∨ n > rateDelta m then 0
  else if n = 0 then roundRat 1 m
  else if n % m = 0 then 0
  else let k := lagrange m n; roundRat k.1 (k.2 * m)

/-- R101: output `k` of the interpolator; `lx` newest first. -/
def interpolate (m k : Nat) (lx : List Int) : Int :=
  sat32 (rnd ((List.range (ratePoints m)).foldl
    (fun (acc : Int) (j : Nat) => acc + rateHq m ((k : Int) - rateDelta m + m * j) * lx.getD j 0) 0) 28)

/-- R101: one output of the decimator; `hx` newest first. -/
def decimate (m : Nat) (hx : List Int) : Int :=
  sat32 (rnd ((List.range (2 * rateDelta m + 1)).foldl
    (fun (acc : Int) (i : Nat) => acc + rateHd m ((i : Int) - rateDelta m) * hx.getD i 0) 0) 28)

/-! ### FFT twiddle factors (R139) -/

/-- π in units of 2^-96. -/
def piFix : Int := 248902613312231085230521944622

/-- Sine and cosine of `x` (units of 2^-96, 0 to π/4) by their series, in units of 2^-96. -/
def sinCosFix (x : Int) : Int × Int :=
  let one : Int := 2 ^ 96
  let step := fun (acc : Int × Int × Int) (i : Nat) =>
    -- (sum of sine terms, sum of cosine terms, current term x^i / i!)
    let t := acc.2.2
    let sgn : Int := if i / 2 % 2 = 0 then 1 else -1
    let next := t * x / (one * (i + 1))
    if i % 2 = 0 then (acc.1, acc.2.1 + sgn * t, next) else (acc.1 + sgn * t, acc.2.1, next)
  let r := (List.range 30).foldl step (0, 0, one)
  (r.1, r.2.1)

/-- floor (2^28 v / 2^96 + 1/2). -/
def round28 (v : Int) : Int := (v + 2 ^ 67) / 2 ^ 68

/-- R139: cosine and sine of 2πk/n, each times 2^28 and not yet rounded (units of 2^-96), n a power of two from 8. -/
def cosSin (k n : Nat) : Int × Int :=
  let k := k % n
  let o := 8 * k / n
  let ang := fun (j : Nat) => 2 * piFix * j / n
  match o with
  | 0 => let r := sinCosFix (ang k); (r.2, r.1)
  | 1 => let r := sinCosFix (ang (n / 4 - k)); (r.1, r.2)
  | 2 => let r := sinCosFix (ang (k - n / 4)); (-r.1, r.2)
  | 3 => let r := sinCosFix (ang (n / 2 - k)); (-r.2, r.1)
  | 4 => let r := sinCosFix (ang (k - n / 2)); (-r.2, -r.1)
  | 5 => let r := sinCosFix (ang (3 * n / 4 - k)); (-r.1, -r.2)
  | 6 => let r := sinCosFix (ang (k - 3 * n / 4)); (r.1, -r.2)
  | _ => let r := sinCosFix (ang (n - k)); (r.2, -r.1)

/-- R139 W(k): minus the sine forward, plus the sine inverse, each rounded half up. -/
def twiddle (inv : Bool) (k n : Nat) : Int × Int :=
  let cs := cosSin k n
  (round28 cs.1, round28 (if inv then cs.2 else -cs.2))

/-- One complex point. -/
abbrev Cpx := Int × Int

/-- Reverse the lowest `bits` bits of `i`. -/
def bitRev : Nat → Nat → Nat
  | 0, _ => 0
  | b + 1, i => (i % 2) * 2 ^ b + bitRev b (i / 2)

/-- R139: one stage of the transform over points in a list, `s` from 1. -/
def fftStage (inv : Bool) (s : Nat) (z : List Cpx) : List Cpx × Nat :=
  let m := z.foldl (fun acc p => max acc (max (mag p.1) (mag p.2))) 0
  let sh := if m ≥ 2 ^ 30 then 2 else if m ≥ 2 ^ 29 then 1 else 0
  let h := 2 ^ (s - 1)
  let out := (List.range z.length).map (fun i =>
    let j := i % h
    let top := i % (2 * h) < h
    let ia := if top then i else i - h
    let a := z.getD ia (0, 0)
    let b := z.getD (ia + h) (0, 0)
    let w := twiddle inv (j * (z.length / (2 * h))) z.length
    let tr := rnd (w.1 * b.1 - w.2 * b.2) 28
    let ti := rnd (w.1 * b.2 + w.2 * b.1) 28
    if top then (sat32 (rnd (a.1 + tr) sh), sat32 (rnd (a.2 + ti) sh))
    else (sat32 (rnd (a.1 - tr) sh), sat32 (rnd (a.2 - ti) sh)))
  (out, sh)

/-- R139: the whole job over 2^lg points; the second result is the exponent e. -/
def fftRun (inv : Bool) (lg : Nat) (z : List Cpx) : List Cpx × Nat :=
  let z0 := (List.range (2 ^ lg)).map (fun i => z.getD (bitRev lg i) (0, 0))
  (List.range lg).foldl (fun acc i =>
    let r := fftStage inv (i + 1) acc.1
    (r.1, acc.2 + r.2)) (z0, 0)

/-! ### Storage formats (R106) -/

/-- Index of the first bound not below `v`. -/
def lawSegment (bounds : List Nat) (v : Nat) : Nat := (bounds.takeWhile (fun b => decide (b < v))).length

/-- ITU-T G.711 µ-law expansion to 16-bit linear. -/
def ulawDecode (c : Nat) : Int :=
  let u := 255 - c % 256
  let t : Int := ((u % 16) * 8 + 132) * 2 ^ (u / 16 % 8)
  if u / 128 = 1 then 132 - t else t - 132

/-- G.711 µ-law encoding of a 14-bit linear value. -/
def ulawEncode (v : Int) : Nat :=
  let neg := v < 0
  let p := min (if neg then -v else v).toNat 8159 + 33
  let seg := lawSegment [63, 127, 255, 511, 1023, 2047, 4095, 8191] p
  let u := if seg ≥ 8 then 127 else seg * 16 + p / 2 ^ (seg + 1) % 16
  if neg then 127 - u else 255 - u

/-- ITU-T G.711 A-law expansion to 16-bit linear. -/
def alawDecode (c : Nat) : Int :=
  let a := (c % 256) ^^^ 85
  let seg := a / 16 % 8
  let t : Int := (a % 16) * 16
  let m : Int := if seg = 0 then t + 8 else (t + 264) * 2 ^ (seg - 1)
  if a / 128 = 1 then m else -m

/-- G.711 A-law encoding of a 13-bit linear value. -/
def alawEncode (v : Int) : Nat :=
  let mask := if v ≥ 0 then 213 else 85
  let p := (if v ≥ 0 then v else -v - 1).toNat
  let seg := lawSegment [31, 63, 127, 255, 511, 1023, 2047, 4095] p
  let a := if seg ≥ 8 then 127 else seg * 16 + (if seg < 2 then p / 2 % 16 else p / 2 ^ seg % 16)
  a ^^^ mask

/-- Bytes per stored sample in FORMAT 0 to 4. -/
def fmtBytes (fmt : Nat) : Nat := if fmt = 0 then 2 else if fmt ≤ 2 then 4 else 1

/-- The stored bytes of `len` samples, whole words (R106). -/
def fmtSize (fmt len : Nat) : Nat := (len * fmtBytes fmt + 3) / 4 * 4

/-- Stored code to A32. -/
def fmtToA32 (fmt code : Nat) : Int :=
  let s32 := fun (n : Nat) => (BitVec.ofNat 32 n).toInt
  if fmt = 0 then (BitVec.ofNat 16 code).toInt * 2 ^ 16
  else if fmt = 1 then s32 (code / 256 * 256)
  else if fmt = 2 then s32 code
  else if fmt = 3 then ulawDecode code * 2 ^ 16
  else alawDecode code * 2 ^ 16

/-- A32 to stored code. -/
def fmtFromA32 (fmt : Nat) (x : Int) : Nat :=
  let l16 := satN 16 (rnd x 16)
  if fmt = 0 then (BitVec.ofInt 16 l16).toNat
  else if fmt = 1 then (BitVec.ofInt 32 (satN 24 (rnd x 8) * 256)).toNat
  else if fmt = 2 then (BitVec.ofInt 32 x).toNat
  else if fmt = 3 then ulawEncode (l16 / 4)
  else alawEncode (l16 / 8)

/-! ### Checksums (R38, R328) -/

/-- One bit of the reflected CRC-32C. -/
def crc32cBit (c : Nat) : Nat := if c % 2 = 1 then (c / 2) ^^^ 0x82F63B78 else c / 2

/-- One byte of the CRC-32C. -/
def crc32cByte (c b : Nat) : Nat := (List.range 8).foldl (fun c _ => crc32cBit c) (c ^^^ (b % 256))

/-- R38: CRC-32C of a byte string. -/
def crc32c (bs : List Nat) : Nat := (bs.foldl crc32cByte 0xFFFFFFFF) ^^^ 0xFFFFFFFF

/-- One byte of the CRC-64, most significant bit first. -/
def crc64Byte (c b : Nat) : Nat :=
  (List.range 8).foldl (fun c _ => if c / 2 ^ 63 = 1 then (c * 2 % 2 ^ 64) ^^^ 0x42F0E1EBA9EA3693 else c * 2)
    (c ^^^ ((b % 256) * 2 ^ 56))

/-- R328: CRC-64 (ECMA-182) of a byte string; no bytes give 0. -/
def crc64 (bs : List Nat) : Nat := (bs.foldl crc64Byte 0xFFFFFFFFFFFFFFFF) ^^^ 0xFFFFFFFFFFFFFFFF

/-! ### Bytes and fields -/

/-- `n` bytes of `v`, least significant first. -/
def leBytes : Nat → Nat → List Nat
  | 0, _ => []
  | n + 1, v => v % 256 :: leBytes n (v / 256)

/-- The number that bytes spell, least significant first. -/
def leNat : List Nat → Nat
  | [] => 0
  | b :: rest => b + 256 * leNat rest

/-- Bits `hi` to `lo` of a number. -/
def bits (n hi lo : Nat) : Nat := n / 2 ^ lo % 2 ^ (hi + 1 - lo)

/-- Bit `i` of a number. -/
def bit (n i : Nat) : Bool := n / 2 ^ i % 2 = 1

/-- Signed difference a - b over 32 bits (R384 and others). -/
def sdiff (a b : Nat) : Int := (BitVec.ofNat 32 (a + 2 ^ 32 - b % 2 ^ 32)).toInt

/-- Signed difference over `n` bits. -/
def sdiffN (n a b : Nat) : Int := (BitVec.ofNat n (a + 2 ^ n - b % 2 ^ n)).toInt

/-- 1 for true. -/
def b2n (b : Bool) : Nat := if b then 1 else 0

end Sys2Proof.Arith
end

