-- ==== Sys2Proof/Machine/RegMap.lean ====
section
/-! DEFINITION. The register map: every register of BAR0 with its offset, its instances, its reset domain, its lock and
its fields with access type and reset value, from the register tables of spec/ (R7 to R14 and each chapter's own tables);
then the offset of every register (A.) and the place of every field (F.) by name. -/

namespace Sys2Proof.Machine

/-- Reset domains (R412, R413). -/
inductive Dom
  | aon | clk | mem | ctl | hif | lnk | eng | apt
  deriving DecidableEq, Repr

/-- Access types (R9). -/
inductive Acc
  | rw | ro | wo | w1c | rc | rwl
  deriving DecidableEq, Repr

/-- A field of a register table: bits, access type, reset value. -/
structure FieldDef where
  hi : Nat
  lo : Nat
  acc : Acc
  reset : Nat
  deriving DecidableEq, Repr

/-- A register, or an array of registers of n1 by n2 members with strides s1 and s2. -/
structure RegDef where
  base : Nat
  n1 : Nat
  s1 : Nat
  n2 : Nat
  s2 : Nat
  dom : Dom
  lock : Option (Nat × Nat)
  fields : List FieldDef
  deriving DecidableEq, Repr

/-- The place of a named field. -/
structure Field where
  off : Nat
  hi : Nat
  lo : Nat
  deriving DecidableEq, Repr

/-- Block GLB, BAR0 offsets 00000h and up. -/
def regGLB : List RegDef := [
  ⟨0x00000, 1, 0x0, 1, 0x0, .aon, none, [⟨31, 16, .ro, 0x5E7A⟩, ⟨15, 0, .ro, 0x600⟩]⟩, -- GLB_ID, R14
  ⟨0x00004, 1, 0x0, 1, 0x0, .aon, none, [⟨15, 8, .ro, 0x42⟩, ⟨7, 0, .ro, 0⟩]⟩, -- GLB_STEP, R14
  ⟨0x00008, 1, 0x0, 1, 0x0, .aon, none, [⟨31, 0, .ro, 0⟩]⟩, -- GLB_UID_LO, R14
  ⟨0x0000C, 1, 0x0, 1, 0x0, .aon, none, [⟨31, 0, .ro, 0⟩]⟩, -- GLB_UID_HI, R14
  ⟨0x00010, 1, 0x0, 1, 0x0, .aon, none, [⟨31, 0, .rw, 0⟩]⟩ -- GLB_SCRATCH, R14
  ]

/-- Block RST, BAR0 offsets 10000h and up. -/
def regRST : List RegDef := [
  ⟨0x10000, 1, 0x0, 1, 0x0, .aon, none, [⟨23, 16, .w1c, 0⟩, ⟨9, 0, .w1c, 1⟩]⟩, -- RST_CAUSE, R433
  ⟨0x10004, 1, 0x0, 1, 0x0, .aon, none, [⟨15, 8, .ro, 0⟩, ⟨7, 0, .ro, 0xFE⟩]⟩, -- RST_DOMAIN, R433
  ⟨0x10008, 1, 0x0, 1, 0x0, .aon, none, [⟨15, 8, .rw, 0x40⟩, ⟨7, 0, .wo, 0⟩]⟩, -- RST_SOFT, R433
  ⟨0x1000C, 1, 0x0, 1, 0x0, .aon, some (0x1000C, 31), [⟨31, 31, .rwl, 0⟩, ⟨23, 16, .rwl, 8⟩, ⟨15, 0, .rwl, 0x1000⟩]⟩, -- RST_CFG, R433
  ⟨0x10010, 1, 0x0, 1, 0x0, .aon, some (0x1000C, 31), [⟨31, 24, .rc, 0⟩, ⟨13, 0, .rwl, 0x3E8⟩]⟩, -- RST_QTMO, R433
  ⟨0x10014, 1, 0x0, 1, 0x0, .aon, none, [⟨21, 16, .ro, 0x3F⟩, ⟨15, 12, .ro, 0xF⟩, ⟨11, 10, .ro, 0⟩, ⟨9, 8, .ro, 0⟩, ⟨7, 7, .ro, 0⟩, ⟨6, 6, .ro, 0⟩, ⟨5, 5, .ro, 1⟩]⟩, -- RST_STRAP, R433
  ⟨0x10018, 1, 0x0, 1, 0x0, .aon, none, [⟨18, 18, .ro, 0⟩, ⟨17, 17, .w1c, 0⟩, ⟨16, 16, .ro, 0⟩, ⟨15, 8, .ro, 0⟩, ⟨7, 0, .w1c, 0⟩]⟩, -- RST_SUP_STAT, R433
  ⟨0x1001C, 1, 0x0, 1, 0x0, .aon, none, [⟨1, 1, .rw, 1⟩, ⟨0, 0, .rw, 0⟩]⟩, -- RST_SUP_CTRL, R433
  ⟨0x10020, 1, 0x0, 1, 0x0, .aon, none, [⟨15, 8, .ro, 0⟩, ⟨2, 2, .w1c, 0⟩, ⟨1, 1, .w1c, 0⟩, ⟨0, 0, .ro, 0⟩]⟩, -- RST_TACK_STAT, R433
  ⟨0x10024, 1, 0x0, 1, 0x0, .aon, none, [⟨0, 0, .wo, 0⟩]⟩, -- RST_TACK_SEAL, R433
  ⟨0x10028, 1, 0x0, 1, 0x0, .aon, none, [⟨11, 0, .rw, 0⟩]⟩, -- RST_TACK_PTR, R433
  ⟨0x1002C, 1, 0x0, 1, 0x0, .aon, none, [⟨31, 0, .rw, 0⟩]⟩, -- RST_TACK_DATA, R433
  ⟨0x10040, 8, 0x4, 1, 0x0, .aon, none, [⟨31, 0, .rw, 0⟩]⟩ -- RST_BKP, R433
  ]

/-- Block CLK, BAR0 offsets 20000h and up. -/
def regCLK : List RegDef := [
  ⟨0x20000, 1, 0x0, 1, 0x0, .clk, none, [⟨23, 16, .rw, 0xA⟩, ⟨15, 8, .rw, 0xC8⟩, ⟨5, 4, .rw, 0⟩, ⟨3, 3, .rw, 0⟩, ⟨2, 2, .rw, 1⟩, ⟨1, 0, .rw, 0⟩]⟩, -- CLK_CTRL, R318
  ⟨0x20004, 1, 0x0, 1, 0x0, .clk, none, [⟨15, 15, .ro, 0⟩, ⟨14, 14, .ro, 0⟩, ⟨13, 13, .ro, 0⟩, ⟨12, 12, .w1c, 0⟩, ⟨11, 11, .w1c, 0⟩, ⟨10, 10, .w1c, 0⟩, ⟨9, 9, .ro, 0⟩, ⟨7, 4, .ro, 0xF⟩, ⟨2, 0, .ro, 0⟩]⟩, -- CLK_STAT, R318
  ⟨0x20008, 1, 0x0, 1, 0x0, .clk, none, [⟨31, 16, .rw, 0x1388⟩, ⟨15, 0, .rw, 0x7D0⟩]⟩, -- CLK_LIMITS, R318
  ⟨0x2000C, 1, 0x0, 1, 0x0, .clk, none, [⟨31, 24, .rw, 0xA⟩, ⟨21, 16, .rw, 0x3C⟩, ⟨9, 0, .rw, 0x384⟩]⟩, -- CLK_TIMING, R318
  ⟨0x20010, 1, 0x0, 1, 0x0, .clk, none, [⟨31, 16, .rw, 0x3E8⟩, ⟨15, 0, .rw, 0x7D0⟩]⟩, -- CLK_TOL, R318
  ⟨0x20014, 1, 0x0, 1, 0x0, .clk, none, [⟨31, 0, .rw, 0⟩]⟩, -- CLK_XO_CAL, R318
  ⟨0x20018, 1, 0x0, 1, 0x0, .clk, none, [⟨31, 0, .rw, 0⟩]⟩, -- CLK_DCO_MAN, R318
  ⟨0x2001C, 1, 0x0, 1, 0x0, .clk, none, [⟨31, 0, .ro, 0⟩]⟩, -- CLK_DCO_WORD, R318
  ⟨0x20020, 1, 0x0, 1, 0x0, .clk, none, [⟨31, 0, .ro, 0⟩]⟩, -- CLK_HO_WORD, R318
  ⟨0x20024, 1, 0x0, 1, 0x0, .clk, none, [⟨31, 0, .rc, 0⟩]⟩, -- CLK_SWITCH_CNT, R318
  ⟨0x20100, 16, 0x20, 1, 0x0, .clk, none, [⟨29, 8, .rw, 0⟩, ⟨3, 3, .rw, 0⟩, ⟨2, 0, .rw, 7⟩]⟩, -- CLK_IN_CFG, R318
  ⟨0x20104, 16, 0x20, 1, 0x0, .clk, none, [⟨6, 5, .ro, 0⟩, ⟨4, 4, .ro, 0⟩, ⟨3, 3, .ro, 0⟩, ⟨2, 0, .ro, 0⟩]⟩, -- CLK_IN_STAT, R318
  ⟨0x20108, 16, 0x20, 1, 0x0, .clk, none, [⟨31, 0, .ro, 0⟩]⟩, -- CLK_IN_DEV, R318
  ⟨0x2010C, 16, 0x20, 1, 0x0, .clk, none, [⟨31, 0, .rw, 0⟩]⟩, -- CLK_IN_PHOFS, R318
  ⟨0x20110, 16, 0x20, 1, 0x0, .clk, none, [⟨31, 0, .ro, 0⟩]⟩, -- CLK_IN_PHERR, R318
  ⟨0x20400, 4, 0x10, 1, 0x0, .clk, none, [⟨10, 10, .w1c, 0⟩, ⟨9, 9, .ro, 0⟩, ⟨8, 8, .rw, 0⟩, ⟨2, 0, .rw, 0⟩]⟩, -- CLK_FS_CFG, R318
  ⟨0x20404, 4, 0x10, 1, 0x0, .clk, none, [⟨15, 0, .rw, 1⟩]⟩, -- CLK_FS_PERIOD, R318
  ⟨0x20408, 4, 0x10, 1, 0x0, .clk, none, [⟨31, 0, .rw, 0⟩]⟩, -- CLK_FS_OFFSET, R318
  ⟨0x2040C, 4, 0x10, 1, 0x0, .clk, none, [⟨23, 0, .rw, 1⟩]⟩ -- CLK_FS_WIDTH, R318
  ]

/-- Block TIM, BAR0 offsets 30000h and up. -/
def regTIM : List RegDef := [
  ⟨0x30000, 1, 0x0, 1, 0x0, .clk, none, [⟨31, 16, .rw, 0x3E8⟩, ⟨2, 2, .rw, 1⟩, ⟨1, 1, .rw, 1⟩, ⟨0, 0, .rw, 0⟩]⟩, -- TIM_CTRL, R319
  ⟨0x30004, 1, 0x0, 1, 0x0, .clk, none, [⟨8, 8, .w1c, 0⟩, ⟨7, 7, .w1c, 0⟩, ⟨6, 6, .w1c, 0⟩, ⟨5, 5, .ro, 0⟩, ⟨4, 4, .ro, 0⟩, ⟨3, 3, .ro, 0⟩]⟩, -- TIM_STAT, R319
  ⟨0x30008, 1, 0x0, 1, 0x0, .clk, none, [⟨0, 0, .wo, 0⟩]⟩, -- TIM_CMD, R319
  ⟨0x3000C, 1, 0x0, 1, 0x0, .clk, none, [⟨31, 0, .ro, 0⟩]⟩, -- TIM_SCNT, R319
  ⟨0x30010, 1, 0x0, 1, 0x0, .clk, none, [⟨2, 0, .ro, 0⟩]⟩, -- TIM_TPHASE, R319
  ⟨0x30018, 1, 0x0, 1, 0x0, .clk, none, [⟨31, 0, .ro, 0⟩]⟩, -- TIM_ECNT_LO, R319
  ⟨0x3001C, 1, 0x0, 1, 0x0, .clk, none, [⟨31, 0, .ro, 0⟩]⟩, -- TIM_ECNT_HI, R319
  ⟨0x30020, 1, 0x0, 1, 0x0, .clk, none, [⟨31, 0, .ro, 0⟩]⟩, -- TIM_MAIN_FRAC, R319
  ⟨0x30100, 2, 0x80, 1, 0x0, .clk, none, [⟨31, 0, .ro, 0⟩]⟩, -- TIM_TS_FRAC, R319
  ⟨0x30024, 1, 0x0, 1, 0x0, .clk, none, [⟨31, 0, .ro, 0⟩]⟩, -- TIM_MAIN_NS, R319
  ⟨0x30104, 2, 0x80, 1, 0x0, .clk, none, [⟨31, 0, .ro, 0⟩]⟩, -- TIM_TS_NS, R319
  ⟨0x30028, 1, 0x0, 1, 0x0, .clk, none, [⟨31, 0, .ro, 0⟩]⟩, -- TIM_MAIN_SLO, R319
  ⟨0x30108, 2, 0x80, 1, 0x0, .clk, none, [⟨31, 0, .ro, 0⟩]⟩, -- TIM_TS_SLO, R319
  ⟨0x3002C, 1, 0x0, 1, 0x0, .clk, none, [⟨15, 0, .ro, 0⟩]⟩, -- TIM_MAIN_SHI, R319
  ⟨0x3010C, 2, 0x80, 1, 0x0, .clk, none, [⟨15, 0, .ro, 0⟩]⟩, -- TIM_TS_SHI, R319
  ⟨0x30030, 1, 0x0, 1, 0x0, .clk, none, [⟨31, 0, .ro, 0⟩]⟩, -- TIM_MAIN_OFS, R319
  ⟨0x30110, 2, 0x80, 1, 0x0, .clk, none, [⟨31, 0, .rw, 0⟩]⟩, -- TIM_TS_SET_NS, R319
  ⟨0x30114, 2, 0x80, 1, 0x0, .clk, none, [⟨31, 0, .rw, 0⟩]⟩, -- TIM_TS_SET_SLO, R319
  ⟨0x30118, 2, 0x80, 1, 0x0, .clk, none, [⟨15, 0, .rw, 0⟩]⟩, -- TIM_TS_SET_SHI, R319
  ⟨0x3011C, 2, 0x80, 1, 0x0, .clk, none, [⟨0, 0, .wo, 0⟩]⟩, -- TIM_TS_SET_GO, R319
  ⟨0x30120, 2, 0x80, 1, 0x0, .clk, none, [⟨31, 0, .rw, 0x58555555⟩]⟩, -- TIM_TS_INC_LO, R319
  ⟨0x30124, 2, 0x80, 1, 0x0, .clk, none, [⟨31, 0, .rw, 0x14⟩]⟩, -- TIM_TS_INC_HI, R319
  ⟨0x30128, 2, 0x80, 1, 0x0, .clk, none, [⟨31, 0, .wo, 0⟩]⟩, -- TIM_TS_ADJ, R319
  ⟨0x3012C, 2, 0x80, 1, 0x0, .clk, none, [⟨31, 24, .rw, 3⟩, ⟨23, 12, .rw, 0x1E0⟩, ⟨11, 8, .rw, 0⟩, ⟨7, 6, .rw, 0⟩, ⟨5, 5, .rw, 1⟩, ⟨4, 4, .rw, 0⟩, ⟨1, 0, .rw, 0⟩]⟩, -- TIM_TS_CTRL, R319
  ⟨0x30130, 2, 0x80, 1, 0x0, .clk, none, [⟨2, 2, .ro, 0⟩, ⟨1, 0, .ro, 0⟩]⟩, -- TIM_TS_STAT, R319
  ⟨0x30134, 2, 0x80, 1, 0x0, .clk, none, [⟨31, 0, .ro, 0⟩]⟩, -- TIM_TS_MOFS_LO, R319
  ⟨0x30138, 2, 0x80, 1, 0x0, .clk, none, [⟨31, 0, .ro, 0⟩]⟩, -- TIM_TS_MOFS_HI, R319
  ⟨0x3013C, 2, 0x80, 1, 0x0, .clk, none, [⟨31, 0, .ro, 0⟩]⟩, -- TIM_TS_MDLY, R319
  ⟨0x30140, 2, 0x80, 1, 0x0, .clk, none, [⟨31, 0, .ro, 0⟩]⟩, -- TIM_TS_MTICK, R319
  ⟨0x30200, 1, 0x0, 1, 0x0, .clk, none, [⟨31, 24, .rw, 0⟩, ⟨15, 8, .rw, 1⟩, ⟨7, 0, .rw, 0⟩]⟩, -- TIM_PTP, R319
  ⟨0x30300, 8, 0x8, 1, 0x0, .clk, none, [⟨31, 0, .rw, 0⟩]⟩, -- TIM_LANE_EGLAT, R319
  ⟨0x30304, 8, 0x8, 1, 0x0, .clk, none, [⟨31, 0, .rw, 0⟩]⟩, -- TIM_LANE_INLAT, R319
  ⟨0x30340, 4, 0x4, 1, 0x0, .clk, none, [⟨31, 0, .ro, 0⟩]⟩, -- TIM_PORT_SKEW, R319
  ⟨0x30400, 8, 0x20, 1, 0x0, .clk, none, [⟨5, 5, .w1c, 0⟩, ⟨4, 4, .w1c, 0⟩, ⟨3, 3, .w1c, 0⟩, ⟨2, 2, .ro, 0⟩, ⟨1, 1, .rw, 0⟩, ⟨0, 0, .rw, 0⟩]⟩, -- TIM_FF_CTRL, R319
  ⟨0x30404, 8, 0x20, 1, 0x0, .clk, none, [⟨31, 0, .rw, 0⟩]⟩, -- TIM_FF_START_NS, R319
  ⟨0x30408, 8, 0x20, 1, 0x0, .clk, none, [⟨31, 0, .rw, 0⟩]⟩, -- TIM_FF_START_SLO, R319
  ⟨0x3040C, 8, 0x20, 1, 0x0, .clk, none, [⟨15, 0, .rw, 0⟩]⟩, -- TIM_FF_START_SHI, R319
  ⟨0x30410, 8, 0x20, 1, 0x0, .clk, none, [⟨31, 0, .rw, 0⟩]⟩, -- TIM_FF_PER_NS, R319
  ⟨0x30414, 8, 0x20, 1, 0x0, .clk, none, [⟨31, 0, .rw, 0⟩]⟩, -- TIM_FF_PER_S, R319
  ⟨0x30418, 8, 0x20, 1, 0x0, .clk, none, [⟨31, 0, .rw, 0⟩]⟩, -- TIM_FF_WIDTH, R319
  ⟨0x3041C, 8, 0x20, 1, 0x0, .clk, none, [⟨31, 0, .ro, 0⟩]⟩, -- TIM_FF_COUNT, R319
  ⟨0x30500, 1, 0x0, 1, 0x0, .clk, none, [⟨15, 0, .rw, 0xA⟩]⟩, -- TIM_LAUNCH, R319
  ⟨0x30504, 1, 0x0, 1, 0x0, .clk, none, [⟨31, 0, .rc, 0⟩]⟩ -- TIM_LAUNCH_LATE, R319
  ]

/-- Block HIF, BAR0 offsets 40000h and up. -/
def regHIF : List RegDef := [
  ⟨0x40000, 1, 0x0, 1, 0x0, .hif, none, [⟨31, 16, .ro, 0⟩, ⟨8, 8, .w1c, 0⟩, ⟨5, 0, .ro, 0⟩]⟩, -- HIF_STAT, R411
  ⟨0x40004, 1, 0x0, 1, 0x0, .hif, none, [⟨31, 0, .rw, 0⟩]⟩, -- HIF_SB_LO, R411
  ⟨0x40008, 1, 0x0, 1, 0x0, .hif, none, [⟨31, 0, .rw, 0⟩]⟩, -- HIF_SB_HI, R411
  ⟨0x4000C, 1, 0x0, 1, 0x0, .hif, none, [⟨31, 0, .rw, 0⟩]⟩, -- HIF_HMW, R411
  ⟨0x40010, 1, 0x0, 1, 0x0, .hif, none, [⟨31, 16, .rw, 0⟩, ⟨9, 0, .rw, 0x64⟩]⟩, -- HIF_HB, R411
  ⟨0x40014, 1, 0x0, 1, 0x0, .hif, none, [⟨15, 0, .ro, 0⟩]⟩, -- HIF_HQ_STAT, R411
  ⟨0x40018, 1, 0x0, 1, 0x0, .hif, none, [⟨31, 0, .rc, 0⟩]⟩, -- HIF_EVT_DROP, R411
  ⟨0x4001C, 1, 0x0, 1, 0x0, .hif, none, [⟨31, 0, .rc, 0⟩]⟩, -- HIF_PW_REFUSED, R411
  ⟨0x40020, 1, 0x0, 1, 0x0, .hif, none, [⟨31, 0, .rw, 0⟩]⟩, -- HIF_FW_ADDR_LO, R411
  ⟨0x40024, 1, 0x0, 1, 0x0, .hif, none, [⟨31, 0, .rw, 0⟩]⟩, -- HIF_FW_ADDR_HI, R411
  ⟨0x40028, 1, 0x0, 1, 0x0, .hif, none, [⟨22, 0, .rw, 0⟩]⟩, -- HIF_FW_LEN, R411
  ⟨0x4002C, 1, 0x0, 1, 0x0, .aon, some (0x4002C, 31), [⟨31, 31, .rwl, 0⟩, ⟨15, 8, .rwl, 0⟩, ⟨1, 1, .wo, 0⟩, ⟨0, 0, .rwl, 0⟩]⟩, -- HIF_FW_CTRL, R411
  ⟨0x40030, 1, 0x0, 1, 0x0, .hif, none, [⟨6, 4, .ro, 0⟩, ⟨2, 0, .ro, 0⟩]⟩, -- HIF_FW_STAT, R411
  ⟨0x40034, 1, 0x0, 1, 0x0, .hif, none, [⟨31, 0, .ro, 0⟩]⟩, -- HIF_FW_VER, R411
  ⟨0x40038, 1, 0x0, 1, 0x0, .aon, some (0x40038, 31), [⟨31, 31, .rwl, 0⟩, ⟨23, 16, .ro, 0⟩, ⟨15, 0, .rwl, 0x3E8⟩]⟩, -- HIF_WDOG, R411
  ⟨0x40100, 6, 0x20, 1, 0x0, .hif, none, [⟨31, 0, .rw, 0⟩]⟩, -- HIF_RING_BASE_LO, R411
  ⟨0x40104, 6, 0x20, 1, 0x0, .hif, none, [⟨31, 0, .rw, 0⟩]⟩, -- HIF_RING_BASE_HI, R411
  ⟨0x40108, 6, 0x20, 1, 0x0, .hif, none, [⟨31, 31, .rw, 0⟩, ⟨15, 8, .rw, 0⟩, ⟨4, 0, .rw, 4⟩]⟩, -- HIF_RING_CFG, R411
  ⟨0x4010C, 6, 0x20, 1, 0x0, .hif, none, [⟨31, 0, .ro, 0⟩]⟩, -- HIF_RING_HOST, R411
  ⟨0x40110, 6, 0x20, 1, 0x0, .hif, none, [⟨31, 0, .ro, 0⟩]⟩, -- HIF_RING_ENG, R411
  ⟨0x40400, 32, 0x20, 1, 0x0, .hif, none, [⟨31, 0, .rw, 0⟩]⟩, -- HIF_SR_BASE_LO, R411
  ⟨0x40404, 32, 0x20, 1, 0x0, .hif, none, [⟨31, 0, .rw, 0⟩]⟩, -- HIF_SR_BASE_HI, R411
  ⟨0x40408, 32, 0x20, 1, 0x0, .hif, none, [⟨31, 31, .rw, 0⟩, ⟨30, 30, .rw, 0⟩, ⟨29, 28, .rw, 0⟩, ⟨27, 22, .rw, 0⟩, ⟨21, 21, .w1c, 0⟩, ⟨15, 8, .rw, 0⟩, ⟨4, 0, .rw, 4⟩]⟩, -- HIF_SR_CFG, R411
  ⟨0x4040C, 32, 0x20, 1, 0x0, .hif, none, [⟨31, 0, .rw, 0⟩]⟩, -- HIF_SR_START, R411
  ⟨0x40410, 32, 0x20, 1, 0x0, .hif, none, [⟨31, 0, .ro, 0⟩]⟩, -- HIF_SR_HOST, R411
  ⟨0x40414, 32, 0x20, 1, 0x0, .hif, none, [⟨31, 0, .rc, 0⟩]⟩, -- HIF_SR_UNDER, R411
  ⟨0x40418, 32, 0x20, 1, 0x0, .hif, none, [⟨31, 0, .rc, 0⟩]⟩, -- HIF_SR_OVER, R411
  ⟨0x4041C, 32, 0x20, 1, 0x0, .hif, none, [⟨31, 0, .rc, 0⟩]⟩ -- HIF_SR_LATE, R411
  ]

/-- Block YRD, BAR0 offsets 50000h and up. -/
def regYRD : List RegDef := [
  ⟨0x50000, 1, 0x0, 1, 0x0, .mem, none, [⟨15, 0, .rw, 0x1000⟩]⟩, -- YRD_CTRL, R377
  ⟨0x50004, 1, 0x0, 1, 0x0, .mem, none, [⟨31, 0, .ro, 0⟩]⟩, -- YRD_ERR_ADDR, R377
  ⟨0x50008, 1, 0x0, 1, 0x0, .mem, none, [⟨31, 31, .w1c, 0⟩, ⟨12, 11, .ro, 0⟩, ⟨10, 9, .ro, 0⟩, ⟨8, 5, .ro, 0⟩, ⟨4, 0, .ro, 0⟩]⟩, -- YRD_ERR_INFO, R377
  ⟨0x5000C, 1, 0x0, 1, 0x0, .mem, none, [⟨31, 0, .rc, 0⟩]⟩, -- YRD_ERR_CNT, R377
  ⟨0x50100, 24, 0x4, 1, 0x0, .mem, none, [⟨5, 4, .rw, 0⟩, ⟨3, 0, .rw, 0xF⟩]⟩, -- YRD_MST, R377
  ⟨0x50200, 24, 0x4, 1, 0x0, .mem, none, [⟨31, 0, .rc, 0⟩]⟩, -- YRD_CONF, R377
  ⟨0x50400, 1, 0x0, 1, 0x0, .mem, none, [⟨19, 0, .rw, 0x40⟩]⟩, -- YRD_ARB_CTRL, R377
  ⟨0x50404, 1, 0x0, 1, 0x0, .mem, none, [⟨31, 0, .rc, 0⟩]⟩, -- YRD_ARB_REVOKE, R377
  ⟨0x50408, 1, 0x0, 1, 0x0, .mem, none, [⟨3, 3, .ro, 1⟩, ⟨2, 0, .ro, 0⟩]⟩, -- YRD_ARB_GRANT, R377
  ⟨0x50480, 8, 0x10, 1, 0x0, .mem, none, [⟨31, 0, .rw, 0⟩]⟩, -- YRD_ARB_BIAS, R377
  ⟨0x50484, 8, 0x10, 1, 0x0, .mem, none, [⟨19, 0, .rw, 0⟩]⟩, -- YRD_ARB_AGE, R377
  ⟨0x50488, 8, 0x10, 1, 0x0, .mem, none, [⟨12, 0, .ro, 0x10⟩]⟩, -- YRD_ARB_STAT, R377
  ⟨0x5048C, 8, 0x10, 1, 0x0, .mem, none, [⟨31, 0, .rc, 0⟩]⟩ -- YRD_ARB_LOSS, R377
  ]

/-- Block MEM, BAR0 offsets 60000h and up. -/
def regMEM : List RegDef := [
  ⟨0x60000, 1, 0x0, 1, 0x0, .mem, none, [⟨31, 30, .wo, 0⟩, ⟨13, 10, .wo, 0⟩, ⟨7, 0, .wo, 0⟩]⟩, -- MEM_LK_CMD, R378
  ⟨0x60004, 1, 0x0, 1, 0x0, .mem, none, [⟨31, 30, .ro, 0⟩, ⟨29, 28, .ro, 0⟩, ⟨27, 27, .ro, 0⟩, ⟨7, 0, .ro, 0⟩]⟩, -- MEM_LK_STAT, R378
  ⟨0x60008, 1, 0x0, 1, 0x0, .mem, none, [⟨13, 0, .rw, 0x3E8⟩]⟩, -- MEM_LK_TMO, R378
  ⟨0x6000C, 1, 0x0, 1, 0x0, .mem, some (0x6000C, 31), [⟨31, 31, .rwl, 0⟩, ⟨16, 16, .rwl, 1⟩, ⟨6, 0, .rwl, 0xA⟩]⟩, -- MEM_WV_CTRL, R378
  ⟨0x60010, 1, 0x0, 1, 0x0, .mem, none, [⟨3, 3, .w1c, 0⟩, ⟨2, 2, .ro, 0⟩, ⟨1, 1, .w1c, 0⟩, ⟨0, 0, .ro, 0⟩]⟩, -- MEM_WV_STAT, R378
  ⟨0x60014, 1, 0x0, 1, 0x0, .mem, some (0x6000C, 31), [⟨15, 0, .rwl, 0x258⟩]⟩, -- MEM_WV_PERIOD, R378
  ⟨0x60018, 1, 0x0, 1, 0x0, .mem, none, [⟨31, 16, .ro, 0⟩, ⟨15, 0, .ro, 0⟩]⟩, -- MEM_WV_PASS, R378
  ⟨0x6001C, 1, 0x0, 1, 0x0, .mem, none, [⟨31, 0, .ro, 0⟩]⟩, -- MEM_ECC_ADDR, R378
  ⟨0x60020, 1, 0x0, 1, 0x0, .mem, none, [⟨31, 0, .rc, 0⟩]⟩, -- MEM_ECC_CE, R378
  ⟨0x60024, 1, 0x0, 1, 0x0, .mem, none, [⟨31, 0, .rc, 0⟩]⟩, -- MEM_ECC_UE, R378
  ⟨0x60028, 1, 0x0, 1, 0x0, .mem, none, [⟨31, 0, .rc, 0⟩]⟩, -- MEM_BROKEN_CNT, R378
  ⟨0x60040, 16, 0x4, 1, 0x0, .mem, none, [⟨31, 30, .ro, 0⟩, ⟨29, 28, .ro, 0⟩, ⟨27, 27, .ro, 0⟩, ⟨7, 0, .ro, 0⟩]⟩, -- MEM_LK_HQ_STAT, R378
  ⟨0x60100, 64, 0x4, 1, 0x0, .mem, none, [⟨7, 7, .w1c, 0⟩, ⟨6, 6, .ro, 0⟩, ⟨5, 5, .ro, 0⟩, ⟨4, 0, .ro, 0x1E⟩]⟩, -- MEM_STALL, R378, Stalls 0 to 63
  ⟨0x60200, 32, 0x4, 1, 0x0, .mem, none, [⟨7, 7, .w1c, 0⟩, ⟨6, 6, .ro, 0⟩, ⟨5, 5, .ro, 0⟩, ⟨4, 0, .rw, 0x1D⟩]⟩, -- MEM_STALL, R378, Stalls 64 to 95
  ⟨0x60400, 256, 0x4, 1, 0x0, .mem, none, [⟨31, 30, .ro, 0⟩, ⟨29, 29, .ro, 0⟩, ⟨22, 16, .ro, 0⟩, ⟨12, 0, .ro, 0⟩]⟩ -- MEM_LOCK, R378
  ]

/-- Block BLK, BAR0 offsets 70000h and up. -/
def regBLK : List RegDef := [
  ⟨0x70000, 1, 0x0, 1, 0x0, .mem, some (0x70000, 31), [⟨31, 31, .rwl, 0⟩, ⟨11, 4, .rwl, 0x40⟩, ⟨3, 2, .rwl, 2⟩, ⟨1, 0, .rwl, 0⟩]⟩, -- BLK_CFG, R379
  ⟨0x70004, 1, 0x0, 1, 0x0, .mem, none, [⟨2, 2, .w1c, 0⟩, ⟨1, 1, .ro, 0⟩, ⟨0, 0, .ro, 0⟩]⟩, -- BLK_STAT, R379
  ⟨0x70008, 1, 0x0, 1, 0x0, .mem, some (0x70000, 31), [⟨6, 0, .rwl, 0⟩]⟩, -- BLK_DLY_BASE, R379
  ⟨0x7000C, 1, 0x0, 1, 0x0, .mem, none, [⟨31, 0, .ro, 0⟩]⟩, -- BLK_ECC_ADDR_LO, R379
  ⟨0x70010, 1, 0x0, 1, 0x0, .mem, none, [⟨0, 0, .ro, 0⟩]⟩, -- BLK_ECC_ADDR_HI, R379
  ⟨0x70014, 1, 0x0, 1, 0x0, .mem, none, [⟨31, 0, .rc, 0⟩]⟩, -- BLK_ECC_CE, R379
  ⟨0x70018, 1, 0x0, 1, 0x0, .mem, none, [⟨31, 0, .rc, 0⟩]⟩, -- BLK_ECC_UE, R379
  ⟨0x7001C, 1, 0x0, 1, 0x0, .mem, none, [⟨31, 0, .rc, 0⟩]⟩, -- BLK_UNDER, R379
  ⟨0x70020, 1, 0x0, 1, 0x0, .mem, none, [⟨31, 0, .rc, 0⟩]⟩, -- BLK_WR_GAP, R379
  ⟨0x70024, 1, 0x0, 1, 0x0, .mem, none, [⟨16, 0, .ro, 0⟩]⟩ -- BLK_LOAD, R379
  ]

/-- Block LNP, BAR0 offsets 80000h and up. -/
def regLNP : List RegDef := [
  ⟨0x80000, 8, 0x1000, 1, 0x0, .lnk, none, [⟨8, 8, .wo, 0⟩, ⟨7, 6, .rw, 0⟩, ⟨3, 3, .rw, 0⟩, ⟨2, 2, .rw, 0⟩, ⟨1, 1, .rw, 0⟩, ⟨0, 0, .rw, 0⟩]⟩, -- LNP_CTRL, R252
  ⟨0x80004, 8, 0x1000, 1, 0x0, .lnk, none, [⟨12, 12, .w1c, 0⟩, ⟨11, 11, .w1c, 0⟩, ⟨10, 10, .w1c, 0⟩, ⟨9, 9, .w1c, 0⟩, ⟨8, 8, .ro, 0⟩, ⟨7, 7, .ro, 0⟩, ⟨6, 6, .ro, 0⟩, ⟨5, 5, .ro, 0⟩, ⟨4, 2, .ro, 0⟩, ⟨1, 1, .ro, 0⟩, ⟨0, 0, .ro, 0⟩]⟩, -- LNP_STAT, R252
  ⟨0x80008, 8, 0x1000, 1, 0x0, .lnk, none, [⟨17, 12, .rw, 0x28⟩, ⟨11, 8, .rw, 0⟩, ⟨4, 0, .rw, 6⟩]⟩, -- LNP_TXEQ, R252
  ⟨0x8000C, 8, 0x1000, 1, 0x0, .lnk, none, [⟨9, 9, .rw, 1⟩, ⟨8, 4, .rw, 0x10⟩, ⟨3, 0, .rw, 8⟩]⟩, -- LNP_RXEQ, R252
  ⟨0x80010, 8, 0x1000, 1, 0x0, .lnk, none, [⟨4, 4, .ro, 0⟩, ⟨3, 3, .rw, 0⟩, ⟨2, 2, .rw, 0⟩, ⟨1, 0, .rw, 0⟩]⟩, -- LNP_TEST, R252
  ⟨0x80018, 8, 0x1000, 1, 0x0, .lnk, none, [⟨31, 0, .ro, 0⟩]⟩, -- LNP_RXBLK_LO, R252
  ⟨0x8001C, 8, 0x1000, 1, 0x0, .lnk, none, [⟨15, 0, .ro, 0⟩]⟩, -- LNP_RXBLK_HI, R252
  ⟨0x80020, 8, 0x1000, 1, 0x0, .lnk, none, [⟨31, 0, .ro, 0⟩]⟩, -- LNP_TXBLK_LO, R252
  ⟨0x80024, 8, 0x1000, 1, 0x0, .lnk, none, [⟨15, 0, .ro, 0⟩]⟩, -- LNP_TXBLK_HI, R252
  ⟨0x80028, 8, 0x1000, 1, 0x0, .lnk, none, [⟨31, 0, .rc, 0⟩]⟩, -- LNP_HDR_ERR, R252
  ⟨0x8002C, 8, 0x1000, 1, 0x0, .lnk, none, [⟨31, 0, .rc, 0⟩]⟩, -- LNP_BLK_ERR, R252
  ⟨0x80030, 8, 0x1000, 1, 0x0, .lnk, none, [⟨31, 0, .rc, 0⟩]⟩, -- LNP_LOCK_LOSS, R252
  ⟨0x80034, 8, 0x1000, 1, 0x0, .lnk, none, [⟨31, 0, .rc, 0⟩]⟩, -- LNP_HIBER_CNT, R252
  ⟨0x80038, 8, 0x1000, 1, 0x0, .lnk, none, [⟨31, 0, .rc, 0⟩]⟩, -- LNP_PRBS_ERR, R252
  ⟨0x80040, 8, 0x1000, 1, 0x0, .lnk, none, [⟨31, 0, .rc, 0⟩]⟩, -- LNP_ETH_RXF, R252
  ⟨0x80044, 8, 0x1000, 1, 0x0, .lnk, none, [⟨31, 0, .rc, 0⟩]⟩, -- LNP_ETH_TXF, R252
  ⟨0x80048, 8, 0x1000, 1, 0x0, .lnk, none, [⟨31, 0, .rc, 0⟩]⟩, -- LNP_ETH_FCS, R252
  ⟨0x8004C, 8, 0x1000, 1, 0x0, .lnk, none, [⟨31, 0, .rc, 0⟩]⟩, -- LNP_ETH_DROP, R252
  ⟨0x8003C, 8, 0x1000, 1, 0x0, .lnk, none, [⟨16, 14, .ro, 0⟩, ⟨13, 0, .ro, 0⟩]⟩, -- LNP_PEER, R252
  ⟨0x88000, 4, 0x100, 1, 0x0, .lnk, none, [⟨1, 1, .rw, 0⟩, ⟨0, 0, .rw, 0⟩]⟩, -- LNP_PORT_CFG, R252
  ⟨0x88004, 4, 0x100, 1, 0x0, .lnk, none, [⟨1, 1, .ro, 0⟩, ⟨0, 0, .w1c, 0⟩]⟩, -- LNP_PORT_STAT, R252
  ⟨0x88008, 4, 0x100, 1, 0x0, .lnk, none, [⟨31, 0, .rw, 0⟩]⟩, -- LNP_PORT_MACA_LO, R252
  ⟨0x8800C, 4, 0x100, 1, 0x0, .lnk, none, [⟨15, 0, .rw, 0⟩]⟩, -- LNP_PORT_MACA_HI, R252
  ⟨0x88010, 4, 0x100, 1, 0x0, .lnk, none, [⟨31, 0, .rw, 0⟩]⟩, -- LNP_PORT_MACB_LO, R252
  ⟨0x88014, 4, 0x100, 1, 0x0, .lnk, none, [⟨15, 0, .rw, 0⟩]⟩, -- LNP_PORT_MACB_HI, R252
  ⟨0x88018, 4, 0x100, 1, 0x0, .lnk, none, [⟨31, 0, .rw, 0⟩]⟩, -- LNP_PORT_IPA, R252
  ⟨0x8801C, 4, 0x100, 1, 0x0, .lnk, none, [⟨31, 0, .rw, 0⟩]⟩, -- LNP_PORT_IPB, R252
  ⟨0x8C000, 64, 0x40, 1, 0x0, .lnk, none, [⟨19, 13, .rw, 0⟩, ⟨12, 7, .rw, 0⟩, ⟨6, 6, .rw, 0⟩, ⟨5, 5, .rw, 0⟩, ⟨4, 3, .rw, 0⟩, ⟨2, 1, .rw, 1⟩, ⟨0, 0, .rw, 0⟩]⟩, -- RTP_RX_W0, R252
  ⟨0x8C004, 64, 0x40, 1, 0x0, .lnk, none, [⟨9, 0, .rw, 0x30⟩]⟩, -- RTP_RX_W1, R252
  ⟨0x8C008, 64, 0x40, 1, 0x0, .lnk, none, [⟨31, 0, .rw, 0⟩]⟩, -- RTP_RX_W2, R252
  ⟨0x8C00C, 64, 0x40, 1, 0x0, .lnk, none, [⟨31, 0, .rw, 0⟩]⟩, -- RTP_RX_W3, R252
  ⟨0x8C010, 64, 0x40, 1, 0x0, .lnk, none, [⟨27, 16, .rw, 0⟩, ⟨15, 0, .rw, 0⟩]⟩, -- RTP_RX_W4, R252
  ⟨0x8C014, 64, 0x40, 1, 0x0, .lnk, none, [⟨2, 2, .w1c, 0⟩, ⟨1, 1, .ro, 0⟩, ⟨0, 0, .ro, 0⟩]⟩, -- RTP_RX_W5, R252
  ⟨0x8C018, 64, 0x40, 1, 0x0, .lnk, none, [⟨31, 0, .rc, 0⟩]⟩, -- RTP_RX_UNDER, R252
  ⟨0x8C01C, 64, 0x40, 1, 0x0, .lnk, none, [⟨31, 0, .rc, 0⟩]⟩, -- RTP_RX_OVER, R252
  ⟨0x8C020, 64, 0x40, 1, 0x0, .lnk, none, [⟨31, 0, .rc, 0⟩]⟩, -- RTP_RX_LATE, R252
  ⟨0x8C024, 64, 0x40, 1, 0x0, .lnk, none, [⟨31, 0, .rc, 0⟩]⟩, -- RTP_RX_DUP, R252
  ⟨0x8C028, 64, 0x40, 6, 0x4, .lnk, none, []⟩, -- RTP_RX_RSV, R252
  ⟨0x8D000, 64, 0x40, 1, 0x0, .lnk, none, [⟨19, 13, .rw, 0⟩, ⟨12, 7, .rw, 0⟩, ⟨6, 6, .rw, 0⟩, ⟨5, 5, .rw, 0⟩, ⟨4, 3, .rw, 0⟩, ⟨2, 1, .rw, 1⟩, ⟨0, 0, .rw, 0⟩]⟩, -- RTP_TX_W0, R252
  ⟨0x8D004, 64, 0x40, 1, 0x0, .lnk, none, [⟨23, 16, .rw, 0x10⟩, ⟨13, 8, .rw, 0x2E⟩, ⟨5, 0, .rw, 0x30⟩]⟩, -- RTP_TX_W1, R252
  ⟨0x8D008, 64, 0x40, 1, 0x0, .lnk, none, [⟨31, 0, .rw, 0⟩]⟩, -- RTP_TX_W2, R252
  ⟨0x8D00C, 64, 0x40, 1, 0x0, .lnk, none, [⟨31, 16, .rw, 0⟩, ⟨15, 0, .rw, 0⟩]⟩, -- RTP_TX_W3, R252
  ⟨0x8D010, 64, 0x40, 1, 0x0, .lnk, none, [⟨31, 0, .rw, 0⟩]⟩, -- RTP_TX_W4, R252
  ⟨0x8D014, 64, 0x40, 1, 0x0, .lnk, none, [⟨30, 28, .rw, 0⟩, ⟨27, 16, .rw, 0⟩, ⟨15, 0, .rw, 0⟩]⟩, -- RTP_TX_W5, R252
  ⟨0x8D018, 64, 0x40, 1, 0x0, .lnk, none, [⟨31, 0, .rw, 0⟩]⟩, -- RTP_TX_W6, R252
  ⟨0x8D01C, 64, 0x40, 1, 0x0, .lnk, none, [⟨0, 0, .w1c, 0⟩]⟩, -- RTP_TX_W7, R252
  ⟨0x8D020, 64, 0x40, 1, 0x0, .lnk, none, [⟨31, 0, .rc, 0⟩]⟩, -- RTP_TX_W8, R252
  ⟨0x8D024, 64, 0x40, 7, 0x4, .lnk, none, []⟩ -- RTP_TX_RSV, R252
  ]

/-- Block LNK, BAR0 offsets 90000h and up. -/
def regLNK : List RegDef := [
  ⟨0x90000, 1, 0x0, 1, 0x0, .lnk, none, [⟨15, 15, .w1c, 0⟩, ⟨14, 14, .ro, 0⟩, ⟨13, 0, .rw, 0⟩]⟩, -- LNK_ADDR, R287
  ⟨0x90004, 1, 0x0, 1, 0x0, .lnk, none, [⟨21, 8, .rw, 0⟩, ⟨7, 0, .rw, 1⟩]⟩, -- LNK_SEG, R287
  ⟨0x90008, 1, 0x0, 1, 0x0, .lnk, none, [⟨11, 8, .rw, 0⟩, ⟨7, 0, .rw, 0⟩]⟩, -- LNK_PORTMAP, R287
  ⟨0x9000C, 1, 0x0, 1, 0x0, .lnk, none, [⟨8, 8, .rw, 0⟩, ⟨4, 0, .rw, 4⟩]⟩, -- LNK_SPAN_CFG, R287
  ⟨0x90010, 4, 0x4, 1, 0x0, .lnk, none, [⟨31, 0, .rw, 0⟩]⟩, -- LNK_SPAN_EN, R287
  ⟨0x90020, 1, 0x0, 1, 0x0, .lnk, none, [⟨15, 0, .rw, 0x400⟩]⟩, -- LNK_SKEW, R287
  ⟨0x90024, 1, 0x0, 1, 0x0, .lnk, some (0x90024, 31), [⟨31, 31, .rwl, 0⟩, ⟨2, 2, .rwl, 1⟩, ⟨1, 1, .rwl, 1⟩, ⟨0, 0, .rwl, 0⟩]⟩, -- LNK_MGMT, R287
  ⟨0x90040, 8, 0x4, 1, 0x0, .lnk, some (0x90024, 31), [⟨31, 0, .wo, 0⟩]⟩, -- LNK_KEY, R287
  ⟨0x90100, 8, 0x4, 1, 0x0, .lnk, none, [⟨4, 4, .w1c, 0⟩, ⟨3, 3, .w1c, 0⟩, ⟨2, 2, .ro, 0⟩, ⟨1, 0, .ro, 0⟩]⟩, -- LNK_LANE_STAT, R287
  ⟨0x90120, 1, 0x0, 1, 0x0, .lnk, none, [⟨31, 24, .ro, 0⟩, ⟨23, 16, .ro, 0⟩, ⟨3, 3, .ro, 0⟩, ⟨2, 2, .ro, 0⟩, ⟨1, 1, .ro, 0⟩, ⟨0, 0, .ro, 0⟩]⟩, -- LNK_CHAIN, R287
  ⟨0x90200, 4, 0x40, 1, 0x0, .lnk, none, [⟨31, 0, .rc, 0⟩]⟩, -- LNK_PORT_HDR_CRC, R287
  ⟨0x90204, 4, 0x40, 1, 0x0, .lnk, none, [⟨31, 0, .rc, 0⟩]⟩, -- LNK_PORT_SECT_CRC, R287
  ⟨0x90208, 4, 0x40, 1, 0x0, .lnk, none, [⟨31, 0, .rc, 0⟩]⟩, -- LNK_PORT_STOMPED, R287
  ⟨0x9020C, 4, 0x40, 1, 0x0, .lnk, none, [⟨31, 0, .rc, 0⟩]⟩, -- LNK_PORT_STALE, R287
  ⟨0x90210, 4, 0x40, 1, 0x0, .lnk, none, [⟨31, 0, .rc, 0⟩]⟩, -- LNK_PORT_MISSING, R287
  ⟨0x90214, 4, 0x40, 1, 0x0, .lnk, none, [⟨31, 0, .rc, 0⟩]⟩, -- LNK_PORT_RXQ_OVER, R287
  ⟨0x90218, 4, 0x40, 1, 0x0, .lnk, none, [⟨31, 0, .rc, 0⟩]⟩, -- LNK_PORT_FRAME_FULL, R287
  ⟨0x9021C, 4, 0x40, 1, 0x0, .lnk, none, [⟨31, 0, .rc, 0⟩]⟩, -- LNK_PORT_AB_MISMATCH, R287
  ⟨0x90220, 4, 0x40, 1, 0x0, .lnk, none, [⟨31, 0, .rc, 0⟩]⟩, -- LNK_PORT_BULK_DISC, R287
  ⟨0x90224, 4, 0x40, 1, 0x0, .lnk, none, [⟨31, 0, .rc, 0⟩]⟩, -- LNK_PORT_NO_ROUTE, R287
  ⟨0x90228, 4, 0x40, 1, 0x0, .lnk, none, [⟨31, 0, .rc, 0⟩]⟩, -- LNK_PORT_SEQ_GAP, R287
  ⟨0x90300, 1, 0x0, 1, 0x0, .lnk, none, [⟨31, 0, .rc, 0⟩]⟩, -- LNK_SPAN_MISS, R287
  ⟨0x90304, 1, 0x0, 1, 0x0, .lnk, none, [⟨31, 0, .rc, 0⟩]⟩, -- LNK_SPAN_PARTIAL, R287
  ⟨0x90308, 1, 0x0, 1, 0x0, .lnk, none, [⟨31, 0, .rc, 0⟩]⟩, -- LNK_AUTH_FAIL, R287
  ⟨0x9030C, 1, 0x0, 1, 0x0, .lnk, none, [⟨31, 0, .rc, 0⟩]⟩, -- LNK_LATE, R287
  ⟨0x90400, 16, 0x4, 1, 0x0, .lnk, none, [⟨31, 0, .rw, 0⟩]⟩, -- LNK_ROUTE, R287
  ⟨0x94000, 4, 0x1000, 256, 0x10, .lnk, none, [⟨31, 24, .rw, 1⟩, ⟨17, 16, .rw, 1⟩, ⟨12, 7, .rw, 0⟩, ⟨6, 4, .rw, 0⟩, ⟨3, 1, .rw, 2⟩, ⟨0, 0, .rw, 0⟩]⟩, -- LNK_TX_W0, R287
  ⟨0x94004, 4, 0x1000, 256, 0x10, .lnk, none, [⟨13, 0, .rw, 0⟩]⟩, -- LNK_TX_W1, R287
  ⟨0x94008, 4, 0x1000, 256, 0x10, .lnk, none, [⟨0, 0, .w1c, 0⟩]⟩, -- LNK_TX_W2, R287
  ⟨0x9400C, 4, 0x1000, 256, 0x10, .lnk, none, []⟩, -- LNK_TX_W3, R287
  ⟨0x98000, 4, 0x1000, 256, 0x10, .lnk, none, [⟨31, 24, .rw, 0⟩, ⟨12, 7, .rw, 0⟩, ⟨6, 4, .rw, 0⟩, ⟨3, 1, .rw, 2⟩, ⟨0, 0, .rw, 0⟩]⟩, -- LNK_RX_W0, R287
  ⟨0x98004, 4, 0x1000, 256, 0x10, .lnk, none, [⟨20, 16, .rw, 4⟩, ⟨13, 0, .rw, 0⟩]⟩, -- LNK_RX_W1, R287
  ⟨0x98008, 4, 0x1000, 256, 0x10, .lnk, none, [⟨31, 0, .rc, 0⟩]⟩, -- LNK_RX_W2, R287
  ⟨0x9800C, 4, 0x1000, 256, 0x10, .lnk, none, [⟨0, 0, .w1c, 0⟩]⟩ -- LNK_RX_W3, R287
  ]

/-- Block RED, BAR0 offsets A0000h and up. -/
def regRED : List RegDef := [
  ⟨0xA0000, 1, 0x0, 1, 0x0, .lnk, some (0xA0000, 29), [⟨31, 30, .rwl, 0⟩, ⟨29, 29, .rwl, 0⟩, ⟨28, 28, .rwl, 1⟩, ⟨27, 14, .rwl, 0⟩, ⟨13, 7, .rwl, 1⟩]⟩, -- RED_CFG, R344
  ⟨0xA0004, 1, 0x0, 1, 0x0, .lnk, none, [⟨2, 2, .wo, 0⟩, ⟨1, 1, .wo, 0⟩, ⟨0, 0, .wo, 0⟩]⟩, -- RED_CTRL, R344
  ⟨0xA0008, 1, 0x0, 1, 0x0, .lnk, none, [⟨31, 16, .ro, 0⟩, ⟨15, 15, .ro, 0⟩, ⟨14, 14, .ro, 0⟩, ⟨13, 13, .ro, 0⟩, ⟨12, 12, .w1c, 0⟩, ⟨11, 11, .w1c, 0⟩, ⟨10, 10, .w1c, 0⟩, ⟨9, 7, .ro, 0⟩, ⟨6, 4, .ro, 0⟩, ⟨2, 0, .ro, 0⟩]⟩, -- RED_STAT, R344
  ⟨0xA000C, 1, 0x0, 1, 0x0, .lnk, none, [⟨31, 27, .rw, 4⟩, ⟨26, 22, .rw, 4⟩, ⟨15, 0, .rw, 0x12C0⟩]⟩, -- RED_TIMING, R344
  ⟨0xA0010, 1, 0x0, 1, 0x0, .lnk, none, [⟨31, 24, .rw, 0x3C⟩, ⟨14, 0, .rw, 0x1000⟩]⟩, -- RED_LIMITS, R344
  ⟨0xA0014, 1, 0x0, 1, 0x0, .lnk, none, [⟨31, 31, .rw, 0⟩, ⟨12, 0, .rw, 0x1000⟩]⟩, -- RED_TWIN, R344
  ⟨0xA0018, 1, 0x0, 1, 0x0, .lnk, none, [⟨22, 22, .rw, 0⟩, ⟨21, 16, .rw, 0⟩, ⟨15, 0, .rw, 0⟩]⟩, -- RED_OUTCTL, R344
  ⟨0xA0020, 1, 0x0, 1, 0x0, .lnk, none, [⟨31, 0, .ro, 0⟩]⟩, -- RED_HASH_TICK, R344
  ⟨0xA0024, 1, 0x0, 1, 0x0, .lnk, none, [⟨31, 0, .ro, 0⟩]⟩, -- RED_HASH_LO, R344
  ⟨0xA0028, 1, 0x0, 1, 0x0, .lnk, none, [⟨31, 0, .ro, 0⟩]⟩, -- RED_HASH_HI, R344
  ⟨0xA0030, 1, 0x0, 1, 0x0, .lnk, none, [⟨31, 0, .rc, 0⟩]⟩, -- RED_CRICKET_MISS, R344
  ⟨0xA0034, 1, 0x0, 1, 0x0, .lnk, none, [⟨31, 0, .rc, 0⟩]⟩, -- RED_HASH_MISS, R344
  ⟨0xA0038, 1, 0x0, 1, 0x0, .lnk, none, [⟨31, 0, .rc, 0⟩]⟩, -- RED_DIVERGE_CNT, R344
  ⟨0xA003C, 1, 0x0, 1, 0x0, .lnk, none, [⟨31, 0, .rc, 0⟩]⟩, -- RED_FAILOVER_CNT, R344
  ⟨0xA0040, 1, 0x0, 1, 0x0, .lnk, none, [⟨31, 0, .rc, 0⟩]⟩, -- RED_MIRROR_LATE, R344
  ⟨0xA0044, 1, 0x0, 1, 0x0, .lnk, none, [⟨31, 0, .rc, 0⟩]⟩, -- RED_RX_SWITCH, R344
  ⟨0xA0100, 64, 0x4, 1, 0x0, .lnk, none, [⟨31, 31, .rw, 0⟩, ⟨28, 28, .rw, 0⟩, ⟨8, 0, .rw, 0⟩]⟩, -- RED_INMIR, R344
  ⟨0xA0200, 64, 0x4, 1, 0x0, .lnk, none, [⟨31, 31, .rw, 0⟩, ⟨30, 30, .rw, 0⟩, ⟨29, 28, .rw, 0⟩, ⟨15, 8, .rw, 0⟩, ⟨7, 0, .rw, 0⟩]⟩ -- RED_RXPAIR, R344
  ]

/-- Block ENG, BAR0 offsets B0000h and up. -/
def regENG : List RegDef := [
  ⟨0xB0000, 1, 0x0, 1, 0x0, .eng, some (0xB0000, 31), [⟨31, 31, .rwl, 0⟩, ⟨6, 0, .rwl, 0⟩]⟩, -- ENG_PROG_BASE, R67
  ⟨0xB0010, 2, 0x4, 1, 0x0, .eng, none, [⟨31, 16, .ro, 0⟩, ⟨2, 0, .ro, 0⟩]⟩, -- ENG_SLOT_STAT, R67
  ⟨0xB0018, 2, 0x4, 1, 0x0, .eng, none, [⟨31, 0, .ro, 0⟩]⟩, -- ENG_SLOT_PID, R67
  ⟨0xB0020, 1, 0x0, 1, 0x0, .eng, none, [⟨24, 22, .ro, 0⟩, ⟨21, 16, .ro, 0⟩, ⟨15, 0, .ro, 0⟩]⟩, -- ENG_ERR_INFO, R67
  ⟨0xB0024, 1, 0x0, 1, 0x0, .eng, none, [⟨31, 0, .ro, 0xFFFFFFFF⟩]⟩, -- ENG_ERR_INDEX, R67
  ⟨0xB0030, 4, 0x4, 1, 0x0, .eng, none, [⟨19, 17, .ro, 0⟩, ⟨16, 0, .ro, 0⟩]⟩, -- ENG_LOAD_STAGE, R67
  ⟨0xB0040, 1, 0x0, 1, 0x0, .eng, none, [⟨24, 20, .ro, 0⟩, ⟨19, 17, .ro, 0⟩, ⟨16, 0, .ro, 0⟩]⟩, -- ENG_LOAD_SCARAB, R67
  ⟨0xB0050, 1, 0x0, 1, 0x0, .eng, none, [⟨31, 0, .rc, 0⟩]⟩, -- ENG_OVERRUN_CNT, R67
  ⟨0xB0054, 1, 0x0, 1, 0x0, .eng, none, [⟨2, 0, .ro, 0⟩]⟩, -- ENG_OVERRUN_SRC, R67
  ⟨0xB0100, 1, 0x0, 1, 0x0, .eng, none, [⟨15, 0, .rw, 0x3C0⟩]⟩, -- ENG_ZC_DEFAULT, R205
  ⟨0xB0104, 1, 0x0, 1, 0x0, .eng, none, [⟨31, 30, .ro, 0⟩, ⟨29, 26, .ro, 0⟩, ⟨25, 13, .ro, 0⟩, ⟨12, 0, .ro, 0⟩]⟩, -- ENG_XF_STAT, R205
  ⟨0xB0108, 1, 0x0, 1, 0x0, .eng, none, [⟨31, 0, .ro, 0⟩]⟩, -- ENG_XF_TICK, R205
  ⟨0xB010C, 1, 0x0, 1, 0x0, .eng, none, [⟨31, 0, .rc, 0⟩]⟩, -- ENG_COMMIT_LATE_CNT, R205
  ⟨0xB0110, 1, 0x0, 1, 0x0, .eng, none, [⟨31, 0, .rc, 0⟩]⟩, -- ENG_ZC_FALLBACK_CNT, R205
  ⟨0xB0114, 1, 0x0, 1, 0x0, .eng, none, [⟨22, 16, .ro, 0⟩, ⟨12, 0, .ro, 0⟩]⟩, -- ENG_COMMIT_PEND, R205
  ⟨0xB0118, 1, 0x0, 1, 0x0, .eng, none, [⟨20, 0, .ro, 0⟩]⟩ -- ENG_ZC_BUSY, R205
  ]

/-- Block SCB, BAR0 offsets C0000h and up. -/
def regSCB : List RegDef := [
  ⟨0xC0000, 32, 0x800, 1, 0x0, .eng, none, [⟨31, 16, .ro, 0xFFFF⟩, ⟨15, 8, .ro, 0⟩, ⟨3, 3, .ro, 0⟩, ⟨2, 0, .ro, 0⟩]⟩, -- SCB_STAT, R151
  ⟨0xC0004, 32, 0x800, 1, 0x0, .eng, none, [⟨18, 16, .ro, 0⟩, ⟨14, 0, .ro, 0⟩]⟩, -- SCB_CYC, R151
  ⟨0xC0008, 32, 0x800, 1, 0x0, .eng, none, [⟨31, 16, .rc, 0⟩, ⟨2, 0, .rc, 0⟩]⟩, -- SCB_FAULT, R151
  ⟨0xC000C, 32, 0x800, 1, 0x0, .eng, none, [⟨13, 0, .ro, 0⟩]⟩, -- SCB_FAULT_PC, R151
  ⟨0xC0010, 32, 0x800, 1, 0x0, .eng, none, [⟨31, 0, .ro, 0⟩]⟩, -- SCB_FAULT_TICK, R151
  ⟨0xC0014, 32, 0x800, 1, 0x0, .eng, none, [⟨31, 0, .rc, 0⟩]⟩, -- SCB_ECC_CNT, R151
  ⟨0xC0018, 32, 0x800, 1, 0x0, .eng, none, [⟨31, 0, .rc, 0⟩]⟩, -- SCB_BUDGET_CNT, R151
  ⟨0xC001C, 32, 0x800, 1, 0x0, .eng, none, [⟨31, 0, .rc, 0⟩]⟩, -- SCB_OVERRUN_CNT, R151
  ⟨0xC0020, 32, 0x800, 4, 0x4, .eng, none, [⟨31, 0, .rw, 0⟩]⟩, -- SCB_MBIN_W, R151
  ⟨0xC0030, 32, 0x800, 1, 0x0, .eng, none, [⟨31, 0, .rw, 0⟩]⟩, -- SCB_MBIN_TICK, R151
  ⟨0xC0034, 32, 0x800, 1, 0x0, .eng, none, [⟨31, 31, .wo, 0⟩, ⟨15, 0, .wo, 0⟩]⟩, -- SCB_MBIN_CTRL, R151
  ⟨0xC0038, 32, 0x800, 1, 0x0, .eng, none, [⟨31, 16, .rc, 0⟩, ⟨4, 0, .ro, 0x10⟩]⟩, -- SCB_MBIN_STAT, R151
  ⟨0xC0040, 32, 0x800, 1, 0x0, .eng, none, [⟨31, 16, .ro, 0⟩, ⟨0, 0, .ro, 0⟩]⟩, -- SCB_MBOUT_HDR, R151
  ⟨0xC0044, 32, 0x800, 1, 0x0, .eng, none, [⟨31, 0, .ro, 0⟩]⟩, -- SCB_MBOUT_TICK, R151
  ⟨0xC0048, 32, 0x800, 4, 0x4, .eng, none, [⟨31, 0, .ro, 0⟩]⟩, -- SCB_MBOUT_W, R151
  ⟨0xC0058, 32, 0x800, 1, 0x0, .eng, none, [⟨31, 16, .rc, 0⟩, ⟨4, 0, .ro, 0⟩]⟩, -- SCB_MBOUT_STAT, R151
  ⟨0xC005C, 32, 0x800, 1, 0x0, .eng, none, [⟨0, 0, .wo, 0⟩]⟩ -- SCB_MBOUT_POP, R151
  ]

/-- Block ANA, BAR0 offsets D0000h and up. -/
def regANA : List RegDef := [
  ⟨0xD1000, 512, 0x20, 1, 0x0, .eng, none, [⟨31, 0, .ro, 0⟩]⟩, -- ANA_RES_W0, R161
  ⟨0xD1004, 512, 0x20, 1, 0x0, .eng, none, [⟨31, 24, .ro, 0⟩, ⟨23, 16, .ro, 0⟩, ⟨9, 0, .ro, 0⟩]⟩, -- ANA_RES_W1, R161
  ⟨0xD1008, 512, 0x20, 1, 0x0, .eng, none, [⟨31, 0, .ro, 0⟩]⟩, -- ANA_RES_W2, R161
  ⟨0xD100C, 512, 0x20, 1, 0x0, .eng, none, [⟨28, 28, .ro, 0⟩, ⟨27, 27, .ro, 0⟩, ⟨26, 26, .ro, 0⟩, ⟨25, 25, .ro, 0⟩, ⟨24, 24, .ro, 0⟩, ⟨23, 0, .ro, 0⟩]⟩, -- ANA_RES_W3, R161
  ⟨0xD1010, 512, 0x20, 1, 0x0, .eng, none, [⟨31, 0, .ro, 0⟩]⟩, -- ANA_RES_W4, R161
  ⟨0xD1014, 512, 0x20, 1, 0x0, .eng, none, [⟨31, 0, .ro, 0⟩]⟩, -- ANA_RES_W5, R161
  ⟨0xD1018, 512, 0x20, 1, 0x0, .eng, none, [⟨31, 0, .ro, 0⟩]⟩, -- ANA_RES_W6, R161
  ⟨0xD101C, 512, 0x20, 1, 0x0, .eng, none, [⟨31, 24, .ro, 0⟩, ⟨23, 0, .ro, 0⟩]⟩, -- ANA_RES_W7, R161
  ⟨0xD0000, 1, 0x0, 1, 0x0, .ctl, some (0xD0000, 0), [⟨31, 16, .rwl, 0x1E0⟩, ⟨1, 1, .rw, 0⟩, ⟨0, 0, .rwl, 0⟩]⟩, -- ANA_CTRL, R179
  ⟨0xD0004, 1, 0x0, 1, 0x0, .ctl, none, [⟨1, 1, .w1c, 0⟩, ⟨0, 0, .ro, 0⟩]⟩, -- ANA_STAT, R179
  ⟨0xD0008, 1, 0x0, 1, 0x0, .ctl, none, [⟨31, 0, .rc, 0⟩]⟩, -- ANA_CLAMP_CNT, R179
  ⟨0xD000C, 1, 0x0, 1, 0x0, .eng, none, [⟨31, 0, .rc, 0⟩]⟩, -- ANA_LATE_CNT, R179
  ⟨0xD0010, 1, 0x0, 1, 0x0, .ctl, none, [⟨14, 12, .ro, 0⟩, ⟨11, 9, .ro, 0⟩, ⟨8, 0, .ro, 0⟩]⟩, -- ANA_LAST_REFUSE, R179
  ⟨0xD0014, 1, 0x0, 1, 0x0, .aon, none, [⟨16, 0, .ro, 0x17700⟩]⟩, -- ANA_PERIOD, R179
  ⟨0xD5000, 512, 0x20, 1, 0x0, .ctl, some (0xD0000, 0), [⟨31, 0, .rwl, 0⟩]⟩, -- ANA_LIM_W0, R179
  ⟨0xD5004, 512, 0x20, 1, 0x0, .ctl, some (0xD0000, 0), [⟨31, 0, .rwl, 0x10000000⟩]⟩, -- ANA_LIM_W1, R179
  ⟨0xD5008, 512, 0x20, 1, 0x0, .ctl, some (0xD0000, 0), [⟨31, 0, .rwl, 0⟩]⟩, -- ANA_LIM_W2, R179
  ⟨0xD500C, 512, 0x20, 1, 0x0, .ctl, some (0xD0000, 0), [⟨31, 0, .rwl, 0⟩]⟩, -- ANA_LIM_W3, R179
  ⟨0xD5010, 512, 0x20, 1, 0x0, .ctl, some (0xD0000, 0), [⟨31, 0, .rwl, 0x7FFFFFFF⟩]⟩, -- ANA_LIM_W4, R179
  ⟨0xD5014, 512, 0x20, 1, 0x0, .ctl, some (0xD0000, 0), [⟨14, 8, .rwl, 0⟩, ⟨3, 0, .rwl, 0⟩]⟩, -- ANA_LIM_W5, R179
  ⟨0xD5018, 512, 0x20, 1, 0x0, .ctl, some (0xD0000, 0), [⟨27, 0, .rwl, 0⟩]⟩, -- ANA_LIM_W6, R179
  ⟨0xD501C, 512, 0x20, 1, 0x0, .ctl, some (0xD0000, 0), [⟨27, 0, .rwl, 0⟩]⟩, -- ANA_LIM_W7, R179
  ⟨0xD9000, 512, 0x20, 1, 0x0, .ctl, none, [⟨31, 16, .rw, 1⟩, ⟨15, 8, .rw, 0x80⟩, ⟨3, 3, .rw, 0⟩, ⟨2, 2, .rw, 0⟩, ⟨1, 1, .rw, 0⟩, ⟨0, 0, .rw, 0⟩]⟩, -- ANA_POL_W0, R179
  ⟨0xD9004, 512, 0x20, 1, 0x0, .ctl, none, [⟨25, 16, .rw, 0x14⟩, ⟨9, 0, .rw, 0x1F4⟩]⟩, -- ANA_POL_W1, R179
  ⟨0xD9008, 512, 0x20, 1, 0x0, .ctl, none, [⟨31, 0, .rw, 0x2A85⟩]⟩, -- ANA_POL_W2, R179
  ⟨0xD900C, 512, 0x20, 1, 0x0, .ctl, none, [⟨7, 0, .rw, 0xD⟩]⟩, -- ANA_POL_W3, R179
  ⟨0xD9010, 512, 0x20, 1, 0x0, .ctl, none, [⟨31, 0, .rw, 0xFFE10000⟩]⟩, -- ANA_POL_W4, R179
  ⟨0xD9014, 512, 0x20, 1, 0x0, .ctl, none, []⟩, -- ANA_POL_W5, R179
  ⟨0xD9018, 512, 0x20, 1, 0x0, .ctl, none, []⟩, -- ANA_POL_W6, R179
  ⟨0xD901C, 512, 0x20, 1, 0x0, .ctl, none, []⟩, -- ANA_POL_W7, R179
  ⟨0xDD000, 7, 0x200, 16, 0x20, .ctl, some (0xD0000, 0), [⟨31, 0, .rwl, 0x10000000⟩]⟩, -- ANA_EQ_W0, R179
  ⟨0xDD004, 7, 0x200, 16, 0x20, .ctl, some (0xD0000, 0), [⟨31, 0, .rwl, 0⟩]⟩, -- ANA_EQ_W1, R179
  ⟨0xDD008, 7, 0x200, 16, 0x20, .ctl, some (0xD0000, 0), [⟨31, 0, .rwl, 0⟩]⟩, -- ANA_EQ_W2, R179
  ⟨0xDD00C, 7, 0x200, 16, 0x20, .ctl, some (0xD0000, 0), [⟨31, 0, .rwl, 0⟩]⟩, -- ANA_EQ_W3, R179
  ⟨0xDD010, 7, 0x200, 16, 0x20, .ctl, some (0xD0000, 0), [⟨31, 0, .rwl, 0⟩]⟩, -- ANA_EQ_W4, R179
  ⟨0xDD014, 7, 0x200, 16, 0x20, .ctl, some (0xD0000, 0), []⟩, -- ANA_EQ_W5, R179
  ⟨0xDD018, 7, 0x200, 16, 0x20, .ctl, some (0xD0000, 0), []⟩, -- ANA_EQ_W6, R179
  ⟨0xDD01C, 7, 0x200, 16, 0x20, .ctl, some (0xD0000, 0), []⟩ -- ANA_EQ_W7, R179
  ]

/-- Block APT, BAR0 offsets E0000h and up. -/
def regAPT : List RegDef := [
  ⟨0xE0000, 16, 0x100, 1, 0x0, .apt, none, [⟨28, 28, .rw, 0⟩, ⟨27, 27, .rw, 0⟩, ⟨26, 26, .rw, 0⟩, ⟨25, 25, .rw, 0⟩, ⟨24, 24, .rw, 1⟩, ⟨23, 22, .rw, 0⟩, ⟨21, 20, .rw, 2⟩, ⟨19, 18, .rw, 2⟩, ⟨17, 13, .rw, 1⟩, ⟨12, 11, .rw, 0⟩, ⟨10, 9, .rw, 0⟩]⟩, -- APT_PORT_CFG, R227
  ⟨0xE0004, 16, 0x100, 1, 0x0, .apt, none, [⟨1, 1, .wo, 0⟩, ⟨0, 0, .rw, 0⟩]⟩, -- APT_PORT_CTRL, R227
  ⟨0xE0008, 16, 0x100, 1, 0x0, .apt, none, [⟨31, 0, .rw, 0⟩]⟩, -- APT_PORT_RXMASK, R227
  ⟨0xE000C, 16, 0x100, 1, 0x0, .apt, none, [⟨31, 0, .rw, 0⟩]⟩, -- APT_PORT_TXMASK, R227
  ⟨0xE0010, 16, 0x100, 1, 0x0, .apt, none, [⟨31, 0, .ro, 0⟩]⟩, -- APT_PORT_RXACT, R227
  ⟨0xE0014, 16, 0x100, 1, 0x0, .apt, none, [⟨31, 0, .ro, 0⟩]⟩, -- APT_PORT_TXACT, R227
  ⟨0xE0018, 16, 0x100, 1, 0x0, .apt, none, [⟨15, 0, .rw, 0x1E0⟩]⟩, -- APT_PORT_ZC, R227
  ⟨0xE001C, 16, 0x100, 1, 0x0, .apt, none, [⟨14, 0, .rw, 0⟩]⟩, -- APT_PORT_FOFS, R227
  ⟨0xE0020, 16, 0x100, 1, 0x0, .apt, none, [⟨10, 8, .ro, 0⟩, ⟨7, 7, .w1c, 0⟩, ⟨6, 6, .w1c, 0⟩, ⟨5, 5, .w1c, 0⟩, ⟨4, 4, .w1c, 0⟩, ⟨3, 3, .ro, 0⟩, ⟨2, 2, .ro, 0⟩, ⟨1, 0, .ro, 0⟩]⟩, -- APT_PORT_STAT, R227
  ⟨0xE0024, 16, 0x100, 1, 0x0, .apt, none, [⟨31, 0, .rc, 0⟩]⟩, -- APT_PORT_RX_UNDER, R227
  ⟨0xE0028, 16, 0x100, 1, 0x0, .apt, none, [⟨31, 0, .rc, 0⟩]⟩, -- APT_PORT_RX_OVER, R227
  ⟨0xE002C, 16, 0x100, 1, 0x0, .apt, none, [⟨31, 0, .rc, 0⟩]⟩, -- APT_PORT_TX_UNDER, R227
  ⟨0xE0030, 16, 0x100, 1, 0x0, .apt, none, [⟨31, 0, .rc, 0⟩]⟩, -- APT_PORT_TX_OVER, R227
  ⟨0xE0034, 16, 0x100, 1, 0x0, .apt, none, [⟨31, 0, .rc, 0⟩]⟩, -- APT_PORT_LATE_CNT, R227
  ⟨0xE0038, 16, 0x100, 1, 0x0, .apt, none, [⟨31, 0, .ro, 0⟩]⟩, -- APT_PORT_ASRC, R227
  ⟨0xE1000, 1, 0x0, 1, 0x0, .apt, none, [⟨16, 16, .rw, 0⟩, ⟨15, 0, .rw, 0x960⟩]⟩, -- APT_PDM_CTRL, R227
  ⟨0xE1004, 1, 0x0, 1, 0x0, .apt, none, [⟨31, 0, .rw, 0⟩]⟩, -- APT_PDM_MASK, R227
  ⟨0xE1008, 1, 0x0, 1, 0x0, .apt, none, [⟨31, 0, .w1c, 0⟩]⟩ -- APT_PDM_STAT, R227
  ]

/-- Block TST, BAR0 offsets F0000h and up. -/
def regTST : List RegDef := [
  ⟨0xF0000, 1, 0x0, 1, 0x0, .mem, none, [⟨6, 6, .rw, 1⟩, ⟨5, 5, .rw, 0⟩, ⟨4, 4, .wo, 0⟩, ⟨3, 0, .rw, 0⟩]⟩, -- TST_CTRL, R456
  ⟨0xF0004, 1, 0x0, 1, 0x0, .mem, none, [⟨18, 15, .rw, 0⟩, ⟨14, 0, .rw, 1⟩]⟩, -- TST_CFG, R456
  ⟨0xF0008, 1, 0x0, 1, 0x0, .mem, none, [⟨16, 16, .ro, 0⟩, ⟨15, 0, .ro, 0⟩]⟩, -- TST_STAT, R456
  ⟨0xF000C, 1, 0x0, 1, 0x0, .mem, none, [⟨31, 0, .rc, 0⟩]⟩, -- TST_FAIL_CNT, R456
  ⟨0xF0010, 1, 0x0, 1, 0x0, .mem, none, [⟨9, 0, .ro, 0⟩]⟩, -- TST_ANA, R456
  ⟨0xF0020, 4, 0x8, 1, 0x0, .mem, none, [⟨31, 0, .ro, 0⟩]⟩, -- TST_SIG_LO, R456
  ⟨0xF0024, 4, 0x8, 1, 0x0, .mem, none, [⟨31, 0, .ro, 0⟩]⟩, -- TST_SIG_HI, R456
  ⟨0xF0040, 16, 0x8, 1, 0x0, .mem, none, [⟨31, 0, .ro, 0⟩]⟩, -- TST_FAIL_ADDR, R456
  ⟨0xF0044, 16, 0x8, 1, 0x0, .mem, none, [⟨6, 0, .ro, 0⟩]⟩, -- TST_FAIL_BIT, R456
  ⟨0xF0100, 1, 0x0, 1, 0x0, .mem, none, [⟨31, 0, .wo, 0⟩]⟩, -- TST_RPR_ADD, R456
  ⟨0xF0104, 1, 0x0, 1, 0x0, .mem, none, [⟨31, 16, .rc, 0⟩, ⟨8, 8, .ro, 0⟩, ⟨6, 0, .ro, 0⟩]⟩, -- TST_RPR_STAT, R456
  ⟨0xF0200, 1, 0x0, 1, 0x0, .aon, none, [⟨31, 0, .ro, 0xFFFFFFFF⟩]⟩, -- TST_LOFT_HEAD, R456
  ⟨0xF0204, 1, 0x0, 1, 0x0, .aon, none, [⟨31, 0, .ro, 0xFFFFFFFF⟩]⟩, -- TST_LOFT_FLUSHED, R456
  ⟨0xF0208, 1, 0x0, 1, 0x0, .aon, none, [⟨31, 0, .rc, 0⟩]⟩, -- TST_LOFT_LOST, R456
  ⟨0xF020C, 1, 0x0, 1, 0x0, .aon, none, [⟨31, 0, .rc, 0⟩]⟩, -- TST_EVT_SUPPR, R456
  ⟨0xF0210, 1, 0x0, 1, 0x0, .mem, none, [⟨31, 31, .rw, 0⟩, ⟨30, 16, .rw, 0⟩, ⟨8, 0, .rw, 2⟩]⟩, -- TST_EVF_CFG, R456
  ⟨0xF0214, 1, 0x0, 1, 0x0, .mem, none, [⟨31, 0, .rw, 0⟩]⟩, -- TST_EVF_ERASED, R456
  ⟨0xF0218, 1, 0x0, 1, 0x0, .mem, none, [⟨31, 0, .rw, 0⟩]⟩, -- TST_EVF_WPTR, R456
  ⟨0xF021C, 1, 0x0, 1, 0x0, .mem, none, [⟨2, 2, .w1c, 0⟩, ⟨1, 1, .w1c, 0⟩, ⟨0, 0, .ro, 0⟩]⟩, -- TST_EVF_STAT, R456
  ⟨0xF0240, 4, 0x4, 1, 0x0, .mem, none, [⟨31, 0, .rw, 0⟩]⟩, -- TST_EVT_POST_W, R456
  ⟨0xF0250, 1, 0x0, 1, 0x0, .mem, none, [⟨31, 0, .wo, 0⟩]⟩, -- TST_EVT_POST_CODE, R456
  ⟨0xF0300, 1, 0x0, 1, 0x0, .aon, none, [⟨31, 0, .rw, 0⟩]⟩, -- TST_OPTIME_LO, R456
  ⟨0xF0304, 1, 0x0, 1, 0x0, .aon, none, [⟨7, 0, .rw, 0⟩]⟩, -- TST_OPTIME_HI, R456
  ⟨0xF0308, 1, 0x0, 1, 0x0, .aon, none, [⟨23, 0, .rw, 0xFFFFFF⟩]⟩, -- TST_PCYC, R456
  ⟨0xF030C, 1, 0x0, 1, 0x0, .aon, none, [⟨1, 1, .ro, 0⟩, ⟨0, 0, .wo, 0⟩]⟩ -- TST_PERSIST, R456
  ]

/-- The registers of the block that holds offset `off` (R8). -/
def regBlock (off : Nat) : List RegDef :=
  match off / 0x10000 with
  | 0 => regGLB
  | 1 => regRST
  | 2 => regCLK
  | 3 => regTIM
  | 4 => regHIF
  | 5 => regYRD
  | 6 => regMEM
  | 7 => regBLK
  | 8 => regLNP
  | 9 => regLNK
  | 10 => regRED
  | 11 => regENG
  | 12 => regSCB
  | 13 => regANA
  | 14 => regAPT
  | 15 => regTST
  | _ => []

/-! ### Offsets -/

def A.GLB_ID : Nat := 0x00000
def A.GLB_STEP : Nat := 0x00004
def A.GLB_UID_LO : Nat := 0x00008
def A.GLB_UID_HI : Nat := 0x0000C
def A.GLB_SCRATCH : Nat := 0x00010
def A.ENG_PROG_BASE : Nat := 0xB0000
def A.ENG_SLOT_STAT (i : Nat) : Nat := 0xB0010 + i * 0x4
def A.ENG_SLOT_PID (i : Nat) : Nat := 0xB0018 + i * 0x4
def A.ENG_ERR_INFO : Nat := 0xB0020
def A.ENG_ERR_INDEX : Nat := 0xB0024
def A.ENG_LOAD_STAGE (i : Nat) : Nat := 0xB0030 + i * 0x4
def A.ENG_LOAD_SCARAB : Nat := 0xB0040
def A.ENG_OVERRUN_CNT : Nat := 0xB0050
def A.ENG_OVERRUN_SRC : Nat := 0xB0054
def A.SCB_STAT (i : Nat) : Nat := 0xC0000 + i * 0x800
def A.SCB_CYC (i : Nat) : Nat := 0xC0004 + i * 0x800
def A.SCB_FAULT (i : Nat) : Nat := 0xC0008 + i * 0x800
def A.SCB_FAULT_PC (i : Nat) : Nat := 0xC000C + i * 0x800
def A.SCB_FAULT_TICK (i : Nat) : Nat := 0xC0010 + i * 0x800
def A.SCB_ECC_CNT (i : Nat) : Nat := 0xC0014 + i * 0x800
def A.SCB_BUDGET_CNT (i : Nat) : Nat := 0xC0018 + i * 0x800
def A.SCB_OVERRUN_CNT (i : Nat) : Nat := 0xC001C + i * 0x800
def A.SCB_MBIN_W (i : Nat) (j : Nat) : Nat := 0xC0020 + i * 0x800 + j * 0x4
def A.SCB_MBIN_TICK (i : Nat) : Nat := 0xC0030 + i * 0x800
def A.SCB_MBIN_CTRL (i : Nat) : Nat := 0xC0034 + i * 0x800
def A.SCB_MBIN_STAT (i : Nat) : Nat := 0xC0038 + i * 0x800
def A.SCB_MBOUT_HDR (i : Nat) : Nat := 0xC0040 + i * 0x800
def A.SCB_MBOUT_TICK (i : Nat) : Nat := 0xC0044 + i * 0x800
def A.SCB_MBOUT_W (i : Nat) (j : Nat) : Nat := 0xC0048 + i * 0x800 + j * 0x4
def A.SCB_MBOUT_STAT (i : Nat) : Nat := 0xC0058 + i * 0x800
def A.SCB_MBOUT_POP (i : Nat) : Nat := 0xC005C + i * 0x800
def A.ANA_RES_W0 (i : Nat) : Nat := 0xD1000 + i * 0x20
def A.ANA_RES_W1 (i : Nat) : Nat := 0xD1004 + i * 0x20
def A.ANA_RES_W2 (i : Nat) : Nat := 0xD1008 + i * 0x20
def A.ANA_RES_W3 (i : Nat) : Nat := 0xD100C + i * 0x20
def A.ANA_RES_W4 (i : Nat) : Nat := 0xD1010 + i * 0x20
def A.ANA_RES_W5 (i : Nat) : Nat := 0xD1014 + i * 0x20
def A.ANA_RES_W6 (i : Nat) : Nat := 0xD1018 + i * 0x20
def A.ANA_RES_W7 (i : Nat) : Nat := 0xD101C + i * 0x20
def A.ANA_CTRL : Nat := 0xD0000
def A.ANA_STAT : Nat := 0xD0004
def A.ANA_CLAMP_CNT : Nat := 0xD0008
def A.ANA_LATE_CNT : Nat := 0xD000C
def A.ANA_LAST_REFUSE : Nat := 0xD0010
def A.ANA_PERIOD : Nat := 0xD0014
def A.ANA_LIM_W0 (i : Nat) : Nat := 0xD5000 + i * 0x20
def A.ANA_LIM_W1 (i : Nat) : Nat := 0xD5004 + i * 0x20
def A.ANA_LIM_W2 (i : Nat) : Nat := 0xD5008 + i * 0x20
def A.ANA_LIM_W3 (i : Nat) : Nat := 0xD500C + i * 0x20
def A.ANA_LIM_W4 (i : Nat) : Nat := 0xD5010 + i * 0x20
def A.ANA_LIM_W5 (i : Nat) : Nat := 0xD5014 + i * 0x20
def A.ANA_LIM_W6 (i : Nat) : Nat := 0xD5018 + i * 0x20
def A.ANA_LIM_W7 (i : Nat) : Nat := 0xD501C + i * 0x20
def A.ANA_POL_W0 (i : Nat) : Nat := 0xD9000 + i * 0x20
def A.ANA_POL_W1 (i : Nat) : Nat := 0xD9004 + i * 0x20
def A.ANA_POL_W2 (i : Nat) : Nat := 0xD9008 + i * 0x20
def A.ANA_POL_W3 (i : Nat) : Nat := 0xD900C + i * 0x20
def A.ANA_POL_W4 (i : Nat) : Nat := 0xD9010 + i * 0x20
def A.ANA_POL_W5 (i : Nat) : Nat := 0xD9014 + i * 0x20
def A.ANA_POL_W6 (i : Nat) : Nat := 0xD9018 + i * 0x20
def A.ANA_POL_W7 (i : Nat) : Nat := 0xD901C + i * 0x20
def A.ANA_EQ_W0 (i : Nat) (j : Nat) : Nat := 0xDD000 + i * 0x200 + j * 0x20
def A.ANA_EQ_W1 (i : Nat) (j : Nat) : Nat := 0xDD004 + i * 0x200 + j * 0x20
def A.ANA_EQ_W2 (i : Nat) (j : Nat) : Nat := 0xDD008 + i * 0x200 + j * 0x20
def A.ANA_EQ_W3 (i : Nat) (j : Nat) : Nat := 0xDD00C + i * 0x200 + j * 0x20
def A.ANA_EQ_W4 (i : Nat) (j : Nat) : Nat := 0xDD010 + i * 0x200 + j * 0x20
def A.ANA_EQ_W5 (i : Nat) (j : Nat) : Nat := 0xDD014 + i * 0x200 + j * 0x20
def A.ANA_EQ_W6 (i : Nat) (j : Nat) : Nat := 0xDD018 + i * 0x200 + j * 0x20
def A.ANA_EQ_W7 (i : Nat) (j : Nat) : Nat := 0xDD01C + i * 0x200 + j * 0x20
def A.ENG_ZC_DEFAULT : Nat := 0xB0100
def A.ENG_XF_STAT : Nat := 0xB0104
def A.ENG_XF_TICK : Nat := 0xB0108
def A.ENG_COMMIT_LATE_CNT : Nat := 0xB010C
def A.ENG_ZC_FALLBACK_CNT : Nat := 0xB0110
def A.ENG_COMMIT_PEND : Nat := 0xB0114
def A.ENG_ZC_BUSY : Nat := 0xB0118
def A.APT_PORT_CFG (i : Nat) : Nat := 0xE0000 + i * 0x100
def A.APT_PORT_CTRL (i : Nat) : Nat := 0xE0004 + i * 0x100
def A.APT_PORT_RXMASK (i : Nat) : Nat := 0xE0008 + i * 0x100
def A.APT_PORT_TXMASK (i : Nat) : Nat := 0xE000C + i * 0x100
def A.APT_PORT_RXACT (i : Nat) : Nat := 0xE0010 + i * 0x100
def A.APT_PORT_TXACT (i : Nat) : Nat := 0xE0014 + i * 0x100
def A.APT_PORT_ZC (i : Nat) : Nat := 0xE0018 + i * 0x100
def A.APT_PORT_FOFS (i : Nat) : Nat := 0xE001C + i * 0x100
def A.APT_PORT_STAT (i : Nat) : Nat := 0xE0020 + i * 0x100
def A.APT_PORT_RX_UNDER (i : Nat) : Nat := 0xE0024 + i * 0x100
def A.APT_PORT_RX_OVER (i : Nat) : Nat := 0xE0028 + i * 0x100
def A.APT_PORT_TX_UNDER (i : Nat) : Nat := 0xE002C + i * 0x100
def A.APT_PORT_TX_OVER (i : Nat) : Nat := 0xE0030 + i * 0x100
def A.APT_PORT_LATE_CNT (i : Nat) : Nat := 0xE0034 + i * 0x100
def A.APT_PORT_ASRC (i : Nat) : Nat := 0xE0038 + i * 0x100
def A.APT_PDM_CTRL : Nat := 0xE1000
def A.APT_PDM_MASK : Nat := 0xE1004
def A.APT_PDM_STAT : Nat := 0xE1008
def A.LNP_CTRL (i : Nat) : Nat := 0x80000 + i * 0x1000
def A.LNP_STAT (i : Nat) : Nat := 0x80004 + i * 0x1000
def A.LNP_TXEQ (i : Nat) : Nat := 0x80008 + i * 0x1000
def A.LNP_RXEQ (i : Nat) : Nat := 0x8000C + i * 0x1000
def A.LNP_TEST (i : Nat) : Nat := 0x80010 + i * 0x1000
def A.LNP_RXBLK_LO (i : Nat) : Nat := 0x80018 + i * 0x1000
def A.LNP_RXBLK_HI (i : Nat) : Nat := 0x8001C + i * 0x1000
def A.LNP_TXBLK_LO (i : Nat) : Nat := 0x80020 + i * 0x1000
def A.LNP_TXBLK_HI (i : Nat) : Nat := 0x80024 + i * 0x1000
def A.LNP_HDR_ERR (i : Nat) : Nat := 0x80028 + i * 0x1000
def A.LNP_BLK_ERR (i : Nat) : Nat := 0x8002C + i * 0x1000
def A.LNP_LOCK_LOSS (i : Nat) : Nat := 0x80030 + i * 0x1000
def A.LNP_HIBER_CNT (i : Nat) : Nat := 0x80034 + i * 0x1000
def A.LNP_PRBS_ERR (i : Nat) : Nat := 0x80038 + i * 0x1000
def A.LNP_ETH_RXF (i : Nat) : Nat := 0x80040 + i * 0x1000
def A.LNP_ETH_TXF (i : Nat) : Nat := 0x80044 + i * 0x1000
def A.LNP_ETH_FCS (i : Nat) : Nat := 0x80048 + i * 0x1000
def A.LNP_ETH_DROP (i : Nat) : Nat := 0x8004C + i * 0x1000
def A.LNP_PEER (i : Nat) : Nat := 0x8003C + i * 0x1000
def A.LNP_PORT_CFG (i : Nat) : Nat := 0x88000 + i * 0x100
def A.LNP_PORT_STAT (i : Nat) : Nat := 0x88004 + i * 0x100
def A.LNP_PORT_MACA_LO (i : Nat) : Nat := 0x88008 + i * 0x100
def A.LNP_PORT_MACA_HI (i : Nat) : Nat := 0x8800C + i * 0x100
def A.LNP_PORT_MACB_LO (i : Nat) : Nat := 0x88010 + i * 0x100
def A.LNP_PORT_MACB_HI (i : Nat) : Nat := 0x88014 + i * 0x100
def A.LNP_PORT_IPA (i : Nat) : Nat := 0x88018 + i * 0x100
def A.LNP_PORT_IPB (i : Nat) : Nat := 0x8801C + i * 0x100
def A.RTP_RX_W0 (i : Nat) : Nat := 0x8C000 + i * 0x40
def A.RTP_RX_W1 (i : Nat) : Nat := 0x8C004 + i * 0x40
def A.RTP_RX_W2 (i : Nat) : Nat := 0x8C008 + i * 0x40
def A.RTP_RX_W3 (i : Nat) : Nat := 0x8C00C + i * 0x40
def A.RTP_RX_W4 (i : Nat) : Nat := 0x8C010 + i * 0x40
def A.RTP_RX_W5 (i : Nat) : Nat := 0x8C014 + i * 0x40
def A.RTP_RX_UNDER (i : Nat) : Nat := 0x8C018 + i * 0x40
def A.RTP_RX_OVER (i : Nat) : Nat := 0x8C01C + i * 0x40
def A.RTP_RX_LATE (i : Nat) : Nat := 0x8C020 + i * 0x40
def A.RTP_RX_DUP (i : Nat) : Nat := 0x8C024 + i * 0x40
def A.RTP_RX_RSV (i : Nat) (j : Nat) : Nat := 0x8C028 + i * 0x40 + j * 0x4
def A.RTP_TX_W0 (i : Nat) : Nat := 0x8D000 + i * 0x40
def A.RTP_TX_W1 (i : Nat) : Nat := 0x8D004 + i * 0x40
def A.RTP_TX_W2 (i : Nat) : Nat := 0x8D008 + i * 0x40
def A.RTP_TX_W3 (i : Nat) : Nat := 0x8D00C + i * 0x40
def A.RTP_TX_W4 (i : Nat) : Nat := 0x8D010 + i * 0x40
def A.RTP_TX_W5 (i : Nat) : Nat := 0x8D014 + i * 0x40
def A.RTP_TX_W6 (i : Nat) : Nat := 0x8D018 + i * 0x40
def A.RTP_TX_W7 (i : Nat) : Nat := 0x8D01C + i * 0x40
def A.RTP_TX_W8 (i : Nat) : Nat := 0x8D020 + i * 0x40
def A.RTP_TX_RSV (i : Nat) (j : Nat) : Nat := 0x8D024 + i * 0x40 + j * 0x4
def A.LNK_ADDR : Nat := 0x90000
def A.LNK_SEG : Nat := 0x90004
def A.LNK_PORTMAP : Nat := 0x90008
def A.LNK_SPAN_CFG : Nat := 0x9000C
def A.LNK_SPAN_EN (i : Nat) : Nat := 0x90010 + i * 0x4
def A.LNK_SKEW : Nat := 0x90020
def A.LNK_MGMT : Nat := 0x90024
def A.LNK_KEY (i : Nat) : Nat := 0x90040 + i * 0x4
def A.LNK_LANE_STAT (i : Nat) : Nat := 0x90100 + i * 0x4
def A.LNK_CHAIN : Nat := 0x90120
def A.LNK_PORT_HDR_CRC (i : Nat) : Nat := 0x90200 + i * 0x40
def A.LNK_PORT_SECT_CRC (i : Nat) : Nat := 0x90204 + i * 0x40
def A.LNK_PORT_STOMPED (i : Nat) : Nat := 0x90208 + i * 0x40
def A.LNK_PORT_STALE (i : Nat) : Nat := 0x9020C + i * 0x40
def A.LNK_PORT_MISSING (i : Nat) : Nat := 0x90210 + i * 0x40
def A.LNK_PORT_RXQ_OVER (i : Nat) : Nat := 0x90214 + i * 0x40
def A.LNK_PORT_FRAME_FULL (i : Nat) : Nat := 0x90218 + i * 0x40
def A.LNK_PORT_AB_MISMATCH (i : Nat) : Nat := 0x9021C + i * 0x40
def A.LNK_PORT_BULK_DISC (i : Nat) : Nat := 0x90220 + i * 0x40
def A.LNK_PORT_NO_ROUTE (i : Nat) : Nat := 0x90224 + i * 0x40
def A.LNK_PORT_SEQ_GAP (i : Nat) : Nat := 0x90228 + i * 0x40
def A.LNK_SPAN_MISS : Nat := 0x90300
def A.LNK_SPAN_PARTIAL : Nat := 0x90304
def A.LNK_AUTH_FAIL : Nat := 0x90308
def A.LNK_LATE : Nat := 0x9030C
def A.LNK_ROUTE (i : Nat) : Nat := 0x90400 + i * 0x4
def A.LNK_TX_W0 (i : Nat) (j : Nat) : Nat := 0x94000 + i * 0x1000 + j * 0x10
def A.LNK_TX_W1 (i : Nat) (j : Nat) : Nat := 0x94004 + i * 0x1000 + j * 0x10
def A.LNK_TX_W2 (i : Nat) (j : Nat) : Nat := 0x94008 + i * 0x1000 + j * 0x10
def A.LNK_TX_W3 (i : Nat) (j : Nat) : Nat := 0x9400C + i * 0x1000 + j * 0x10
def A.LNK_RX_W0 (i : Nat) (j : Nat) : Nat := 0x98000 + i * 0x1000 + j * 0x10
def A.LNK_RX_W1 (i : Nat) (j : Nat) : Nat := 0x98004 + i * 0x1000 + j * 0x10
def A.LNK_RX_W2 (i : Nat) (j : Nat) : Nat := 0x98008 + i * 0x1000 + j * 0x10
def A.LNK_RX_W3 (i : Nat) (j : Nat) : Nat := 0x9800C + i * 0x1000 + j * 0x10
def A.CLK_CTRL : Nat := 0x20000
def A.CLK_STAT : Nat := 0x20004
def A.CLK_LIMITS : Nat := 0x20008
def A.CLK_TIMING : Nat := 0x2000C
def A.CLK_TOL : Nat := 0x20010
def A.CLK_XO_CAL : Nat := 0x20014
def A.CLK_DCO_MAN : Nat := 0x20018
def A.CLK_DCO_WORD : Nat := 0x2001C
def A.CLK_HO_WORD : Nat := 0x20020
def A.CLK_SWITCH_CNT : Nat := 0x20024
def A.CLK_IN_CFG (i : Nat) : Nat := 0x20100 + i * 0x20
def A.CLK_IN_STAT (i : Nat) : Nat := 0x20104 + i * 0x20
def A.CLK_IN_DEV (i : Nat) : Nat := 0x20108 + i * 0x20
def A.CLK_IN_PHOFS (i : Nat) : Nat := 0x2010C + i * 0x20
def A.CLK_IN_PHERR (i : Nat) : Nat := 0x20110 + i * 0x20
def A.CLK_FS_CFG (i : Nat) : Nat := 0x20400 + i * 0x10
def A.CLK_FS_PERIOD (i : Nat) : Nat := 0x20404 + i * 0x10
def A.CLK_FS_OFFSET (i : Nat) : Nat := 0x20408 + i * 0x10
def A.CLK_FS_WIDTH (i : Nat) : Nat := 0x2040C + i * 0x10
def A.TIM_CTRL : Nat := 0x30000
def A.TIM_STAT : Nat := 0x30004
def A.TIM_CMD : Nat := 0x30008
def A.TIM_SCNT : Nat := 0x3000C
def A.TIM_TPHASE : Nat := 0x30010
def A.TIM_ECNT_LO : Nat := 0x30018
def A.TIM_ECNT_HI : Nat := 0x3001C
def A.TIM_MAIN_FRAC : Nat := 0x30020
def A.TIM_TS_FRAC (i : Nat) : Nat := 0x30100 + i * 0x80
def A.TIM_MAIN_NS : Nat := 0x30024
def A.TIM_TS_NS (i : Nat) : Nat := 0x30104 + i * 0x80
def A.TIM_MAIN_SLO : Nat := 0x30028
def A.TIM_TS_SLO (i : Nat) : Nat := 0x30108 + i * 0x80
def A.TIM_MAIN_SHI : Nat := 0x3002C
def A.TIM_TS_SHI (i : Nat) : Nat := 0x3010C + i * 0x80
def A.TIM_MAIN_OFS : Nat := 0x30030
def A.TIM_TS_SET_NS (i : Nat) : Nat := 0x30110 + i * 0x80
def A.TIM_TS_SET_SLO (i : Nat) : Nat := 0x30114 + i * 0x80
def A.TIM_TS_SET_SHI (i : Nat) : Nat := 0x30118 + i * 0x80
def A.TIM_TS_SET_GO (i : Nat) : Nat := 0x3011C + i * 0x80
def A.TIM_TS_INC_LO (i : Nat) : Nat := 0x30120 + i * 0x80
def A.TIM_TS_INC_HI (i : Nat) : Nat := 0x30124 + i * 0x80
def A.TIM_TS_ADJ (i : Nat) : Nat := 0x30128 + i * 0x80
def A.TIM_TS_CTRL (i : Nat) : Nat := 0x3012C + i * 0x80
def A.TIM_TS_STAT (i : Nat) : Nat := 0x30130 + i * 0x80
def A.TIM_TS_MOFS_LO (i : Nat) : Nat := 0x30134 + i * 0x80
def A.TIM_TS_MOFS_HI (i : Nat) : Nat := 0x30138 + i * 0x80
def A.TIM_TS_MDLY (i : Nat) : Nat := 0x3013C + i * 0x80
def A.TIM_TS_MTICK (i : Nat) : Nat := 0x30140 + i * 0x80
def A.TIM_PTP : Nat := 0x30200
def A.TIM_LANE_EGLAT (i : Nat) : Nat := 0x30300 + i * 0x8
def A.TIM_LANE_INLAT (i : Nat) : Nat := 0x30304 + i * 0x8
def A.TIM_PORT_SKEW (i : Nat) : Nat := 0x30340 + i * 0x4
def A.TIM_FF_CTRL (i : Nat) : Nat := 0x30400 + i * 0x20
def A.TIM_FF_START_NS (i : Nat) : Nat := 0x30404 + i * 0x20
def A.TIM_FF_START_SLO (i : Nat) : Nat := 0x30408 + i * 0x20
def A.TIM_FF_START_SHI (i : Nat) : Nat := 0x3040C + i * 0x20
def A.TIM_FF_PER_NS (i : Nat) : Nat := 0x30410 + i * 0x20
def A.TIM_FF_PER_S (i : Nat) : Nat := 0x30414 + i * 0x20
def A.TIM_FF_WIDTH (i : Nat) : Nat := 0x30418 + i * 0x20
def A.TIM_FF_COUNT (i : Nat) : Nat := 0x3041C + i * 0x20
def A.TIM_LAUNCH : Nat := 0x30500
def A.TIM_LAUNCH_LATE : Nat := 0x30504
def A.RED_CFG : Nat := 0xA0000
def A.RED_CTRL : Nat := 0xA0004
def A.RED_STAT : Nat := 0xA0008
def A.RED_TIMING : Nat := 0xA000C
def A.RED_LIMITS : Nat := 0xA0010
def A.RED_TWIN : Nat := 0xA0014
def A.RED_OUTCTL : Nat := 0xA0018
def A.RED_HASH_TICK : Nat := 0xA0020
def A.RED_HASH_LO : Nat := 0xA0024
def A.RED_HASH_HI : Nat := 0xA0028
def A.RED_CRICKET_MISS : Nat := 0xA0030
def A.RED_HASH_MISS : Nat := 0xA0034
def A.RED_DIVERGE_CNT : Nat := 0xA0038
def A.RED_FAILOVER_CNT : Nat := 0xA003C
def A.RED_MIRROR_LATE : Nat := 0xA0040
def A.RED_RX_SWITCH : Nat := 0xA0044
def A.RED_INMIR (i : Nat) : Nat := 0xA0100 + i * 0x4
def A.RED_RXPAIR (i : Nat) : Nat := 0xA0200 + i * 0x4
def A.YRD_CTRL : Nat := 0x50000
def A.YRD_ERR_ADDR : Nat := 0x50004
def A.YRD_ERR_INFO : Nat := 0x50008
def A.YRD_ERR_CNT : Nat := 0x5000C
def A.YRD_MST (i : Nat) : Nat := 0x50100 + i * 0x4
def A.YRD_CONF (i : Nat) : Nat := 0x50200 + i * 0x4
def A.YRD_ARB_CTRL : Nat := 0x50400
def A.YRD_ARB_REVOKE : Nat := 0x50404
def A.YRD_ARB_GRANT : Nat := 0x50408
def A.YRD_ARB_BIAS (i : Nat) : Nat := 0x50480 + i * 0x10
def A.YRD_ARB_AGE (i : Nat) : Nat := 0x50484 + i * 0x10
def A.YRD_ARB_STAT (i : Nat) : Nat := 0x50488 + i * 0x10
def A.YRD_ARB_LOSS (i : Nat) : Nat := 0x5048C + i * 0x10
def A.MEM_LK_CMD : Nat := 0x60000
def A.MEM_LK_STAT : Nat := 0x60004
def A.MEM_LK_TMO : Nat := 0x60008
def A.MEM_WV_CTRL : Nat := 0x6000C
def A.MEM_WV_STAT : Nat := 0x60010
def A.MEM_WV_PERIOD : Nat := 0x60014
def A.MEM_WV_PASS : Nat := 0x60018
def A.MEM_ECC_ADDR : Nat := 0x6001C
def A.MEM_ECC_CE : Nat := 0x60020
def A.MEM_ECC_UE : Nat := 0x60024
def A.MEM_BROKEN_CNT : Nat := 0x60028
def A.MEM_LK_HQ_STAT (i : Nat) : Nat := 0x60040 + i * 0x4
def A.MEM_STALL (i : Nat) : Nat := 0x60100 + i * 0x4
def A.MEM_LOCK (i : Nat) : Nat := 0x60400 + i * 0x4
def A.BLK_CFG : Nat := 0x70000
def A.BLK_STAT : Nat := 0x70004
def A.BLK_DLY_BASE : Nat := 0x70008
def A.BLK_ECC_ADDR_LO : Nat := 0x7000C
def A.BLK_ECC_ADDR_HI : Nat := 0x70010
def A.BLK_ECC_CE : Nat := 0x70014
def A.BLK_ECC_UE : Nat := 0x70018
def A.BLK_UNDER : Nat := 0x7001C
def A.BLK_WR_GAP : Nat := 0x70020
def A.BLK_LOAD : Nat := 0x70024
def A.HIF_STAT : Nat := 0x40000
def A.HIF_SB_LO : Nat := 0x40004
def A.HIF_SB_HI : Nat := 0x40008
def A.HIF_HMW : Nat := 0x4000C
def A.HIF_HB : Nat := 0x40010
def A.HIF_HQ_STAT : Nat := 0x40014
def A.HIF_EVT_DROP : Nat := 0x40018
def A.HIF_PW_REFUSED : Nat := 0x4001C
def A.HIF_FW_ADDR_LO : Nat := 0x40020
def A.HIF_FW_ADDR_HI : Nat := 0x40024
def A.HIF_FW_LEN : Nat := 0x40028
def A.HIF_FW_CTRL : Nat := 0x4002C
def A.HIF_FW_STAT : Nat := 0x40030
def A.HIF_FW_VER : Nat := 0x40034
def A.HIF_WDOG : Nat := 0x40038
def A.HIF_RING_BASE_LO (i : Nat) : Nat := 0x40100 + i * 0x20
def A.HIF_RING_BASE_HI (i : Nat) : Nat := 0x40104 + i * 0x20
def A.HIF_RING_CFG (i : Nat) : Nat := 0x40108 + i * 0x20
def A.HIF_RING_HOST (i : Nat) : Nat := 0x4010C + i * 0x20
def A.HIF_RING_ENG (i : Nat) : Nat := 0x40110 + i * 0x20
def A.HIF_SR_BASE_LO (i : Nat) : Nat := 0x40400 + i * 0x20
def A.HIF_SR_BASE_HI (i : Nat) : Nat := 0x40404 + i * 0x20
def A.HIF_SR_CFG (i : Nat) : Nat := 0x40408 + i * 0x20
def A.HIF_SR_START (i : Nat) : Nat := 0x4040C + i * 0x20
def A.HIF_SR_HOST (i : Nat) : Nat := 0x40410 + i * 0x20
def A.HIF_SR_UNDER (i : Nat) : Nat := 0x40414 + i * 0x20
def A.HIF_SR_OVER (i : Nat) : Nat := 0x40418 + i * 0x20
def A.HIF_SR_LATE (i : Nat) : Nat := 0x4041C + i * 0x20
def A.RST_CAUSE : Nat := 0x10000
def A.RST_DOMAIN : Nat := 0x10004
def A.RST_SOFT : Nat := 0x10008
def A.RST_CFG : Nat := 0x1000C
def A.RST_QTMO : Nat := 0x10010
def A.RST_STRAP : Nat := 0x10014
def A.RST_SUP_STAT : Nat := 0x10018
def A.RST_SUP_CTRL : Nat := 0x1001C
def A.RST_TACK_STAT : Nat := 0x10020
def A.RST_TACK_SEAL : Nat := 0x10024
def A.RST_TACK_PTR : Nat := 0x10028
def A.RST_TACK_DATA : Nat := 0x1002C
def A.RST_BKP (i : Nat) : Nat := 0x10040 + i * 0x4
def A.TST_CTRL : Nat := 0xF0000
def A.TST_CFG : Nat := 0xF0004
def A.TST_STAT : Nat := 0xF0008
def A.TST_FAIL_CNT : Nat := 0xF000C
def A.TST_ANA : Nat := 0xF0010
def A.TST_SIG_LO (i : Nat) : Nat := 0xF0020 + i * 0x8
def A.TST_SIG_HI (i : Nat) : Nat := 0xF0024 + i * 0x8
def A.TST_FAIL_ADDR (i : Nat) : Nat := 0xF0040 + i * 0x8
def A.TST_FAIL_BIT (i : Nat) : Nat := 0xF0044 + i * 0x8
def A.TST_RPR_ADD : Nat := 0xF0100
def A.TST_RPR_STAT : Nat := 0xF0104
def A.TST_LOFT_HEAD : Nat := 0xF0200
def A.TST_LOFT_FLUSHED : Nat := 0xF0204
def A.TST_LOFT_LOST : Nat := 0xF0208
def A.TST_EVT_SUPPR : Nat := 0xF020C
def A.TST_EVF_CFG : Nat := 0xF0210
def A.TST_EVF_ERASED : Nat := 0xF0214
def A.TST_EVF_WPTR : Nat := 0xF0218
def A.TST_EVF_STAT : Nat := 0xF021C
def A.TST_EVT_POST_W (i : Nat) : Nat := 0xF0240 + i * 0x4
def A.TST_EVT_POST_CODE : Nat := 0xF0250
def A.TST_OPTIME_LO : Nat := 0xF0300
def A.TST_OPTIME_HI : Nat := 0xF0304
def A.TST_PCYC : Nat := 0xF0308
def A.TST_PERSIST : Nat := 0xF030C

/-! ### Fields -/

def F.GLB_ID_VENDOR : Field := ⟨A.GLB_ID, 31, 16⟩
def F.GLB_ID_PART : Field := ⟨A.GLB_ID, 15, 0⟩
def F.GLB_STEP_STEP_LETTER : Field := ⟨A.GLB_STEP, 15, 8⟩
def F.GLB_STEP_STEP_NUM : Field := ⟨A.GLB_STEP, 7, 0⟩
def F.GLB_UID_LO_UID_LO : Field := ⟨A.GLB_UID_LO, 31, 0⟩
def F.GLB_UID_HI_UID_HI : Field := ⟨A.GLB_UID_HI, 31, 0⟩
def F.GLB_SCRATCH_SCRATCH : Field := ⟨A.GLB_SCRATCH, 31, 0⟩
def F.ENG_PROG_BASE_LOCK : Field := ⟨A.ENG_PROG_BASE, 31, 31⟩
def F.ENG_PROG_BASE_BASE : Field := ⟨A.ENG_PROG_BASE, 6, 0⟩
def F.ENG_SLOT_STAT_LAST_ERR (i : Nat) : Field := ⟨A.ENG_SLOT_STAT i, 31, 16⟩
def F.ENG_SLOT_STAT_STATE (i : Nat) : Field := ⟨A.ENG_SLOT_STAT i, 2, 0⟩
def F.ENG_SLOT_PID_PID (i : Nat) : Field := ⟨A.ENG_SLOT_PID i, 31, 0⟩
def F.ENG_ERR_INFO_PHASE : Field := ⟨A.ENG_ERR_INFO, 24, 22⟩
def F.ENG_ERR_INFO_UNIT : Field := ⟨A.ENG_ERR_INFO, 21, 16⟩
def F.ENG_ERR_INFO_SECTION : Field := ⟨A.ENG_ERR_INFO, 15, 0⟩
def F.ENG_ERR_INDEX_INDEX : Field := ⟨A.ENG_ERR_INDEX, 31, 0⟩
def F.ENG_LOAD_STAGE_PHASE (i : Nat) : Field := ⟨A.ENG_LOAD_STAGE i, 19, 17⟩
def F.ENG_LOAD_STAGE_LOAD (i : Nat) : Field := ⟨A.ENG_LOAD_STAGE i, 16, 0⟩
def F.ENG_LOAD_SCARAB_CORE : Field := ⟨A.ENG_LOAD_SCARAB, 24, 20⟩
def F.ENG_LOAD_SCARAB_PHASE : Field := ⟨A.ENG_LOAD_SCARAB, 19, 17⟩
def F.ENG_LOAD_SCARAB_LOAD : Field := ⟨A.ENG_LOAD_SCARAB, 16, 0⟩
def F.ENG_OVERRUN_CNT_COUNT : Field := ⟨A.ENG_OVERRUN_CNT, 31, 0⟩
def F.ENG_OVERRUN_SRC_STAGE : Field := ⟨A.ENG_OVERRUN_SRC, 2, 0⟩
def F.SCB_STAT_CUR (i : Nat) : Field := ⟨A.SCB_STAT i, 31, 16⟩
def F.SCB_STAT_TASKS (i : Nat) : Field := ⟨A.SCB_STAT i, 15, 8⟩
def F.SCB_STAT_FAULTED (i : Nat) : Field := ⟨A.SCB_STAT i, 3, 3⟩
def F.SCB_STAT_STATE (i : Nat) : Field := ⟨A.SCB_STAT i, 2, 0⟩
def F.SCB_CYC_PHASE (i : Nat) : Field := ⟨A.SCB_CYC i, 18, 16⟩
def F.SCB_CYC_CYCLES (i : Nat) : Field := ⟨A.SCB_CYC i, 14, 0⟩
def F.SCB_FAULT_TASK (i : Nat) : Field := ⟨A.SCB_FAULT i, 31, 16⟩
def F.SCB_FAULT_CODE (i : Nat) : Field := ⟨A.SCB_FAULT i, 2, 0⟩
def F.SCB_FAULT_PC_PC (i : Nat) : Field := ⟨A.SCB_FAULT_PC i, 13, 0⟩
def F.SCB_FAULT_TICK_TICK (i : Nat) : Field := ⟨A.SCB_FAULT_TICK i, 31, 0⟩
def F.SCB_ECC_CNT_COUNT (i : Nat) : Field := ⟨A.SCB_ECC_CNT i, 31, 0⟩
def F.SCB_BUDGET_CNT_COUNT (i : Nat) : Field := ⟨A.SCB_BUDGET_CNT i, 31, 0⟩
def F.SCB_OVERRUN_CNT_COUNT (i : Nat) : Field := ⟨A.SCB_OVERRUN_CNT i, 31, 0⟩
def F.SCB_MBIN_W_DATA (i : Nat) (j : Nat) : Field := ⟨A.SCB_MBIN_W i j, 31, 0⟩
def F.SCB_MBIN_TICK_DATA (i : Nat) : Field := ⟨A.SCB_MBIN_TICK i, 31, 0⟩
def F.SCB_MBIN_CTRL_MODE (i : Nat) : Field := ⟨A.SCB_MBIN_CTRL i, 31, 31⟩
def F.SCB_MBIN_CTRL_TASK (i : Nat) : Field := ⟨A.SCB_MBIN_CTRL i, 15, 0⟩
def F.SCB_MBIN_STAT_DROP (i : Nat) : Field := ⟨A.SCB_MBIN_STAT i, 31, 16⟩
def F.SCB_MBIN_STAT_FREE (i : Nat) : Field := ⟨A.SCB_MBIN_STAT i, 4, 0⟩
def F.SCB_MBOUT_HDR_TASK (i : Nat) : Field := ⟨A.SCB_MBOUT_HDR i, 31, 16⟩
def F.SCB_MBOUT_HDR_VALID (i : Nat) : Field := ⟨A.SCB_MBOUT_HDR i, 0, 0⟩
def F.SCB_MBOUT_TICK_DATA (i : Nat) : Field := ⟨A.SCB_MBOUT_TICK i, 31, 0⟩
def F.SCB_MBOUT_W_DATA (i : Nat) (j : Nat) : Field := ⟨A.SCB_MBOUT_W i j, 31, 0⟩
def F.SCB_MBOUT_STAT_DROP (i : Nat) : Field := ⟨A.SCB_MBOUT_STAT i, 31, 16⟩
def F.SCB_MBOUT_STAT_COUNT (i : Nat) : Field := ⟨A.SCB_MBOUT_STAT i, 4, 0⟩
def F.SCB_MBOUT_POP_POP (i : Nat) : Field := ⟨A.SCB_MBOUT_POP i, 0, 0⟩
def F.ANA_RES_W0_SEQ_A (i : Nat) : Field := ⟨A.ANA_RES_W0 i, 31, 0⟩
def F.ANA_RES_W1_CONF (i : Nat) : Field := ⟨A.ANA_RES_W1 i, 31, 24⟩
def F.ANA_RES_W1_CELLS (i : Nat) : Field := ⟨A.ANA_RES_W1 i, 23, 16⟩
def F.ANA_RES_W1_STI (i : Nat) : Field := ⟨A.ANA_RES_W1 i, 9, 0⟩
def F.ANA_RES_W2_NOISE (i : Nat) : Field := ⟨A.ANA_RES_W2 i, 31, 0⟩
def F.ANA_RES_W3_MIC_FAULT (i : Nat) : Field := ⟨A.ANA_RES_W3 i, 28, 28⟩
def F.ANA_RES_W3_NO_REF (i : Nat) : Field := ⟨A.ANA_RES_W3 i, 27, 27⟩
def F.ANA_RES_W3_CLIPPED (i : Nat) : Field := ⟨A.ANA_RES_W3 i, 26, 26⟩
def F.ANA_RES_W3_NOISE_STALE (i : Nat) : Field := ⟨A.ANA_RES_W3 i, 25, 25⟩
def F.ANA_RES_W3_VALID (i : Nat) : Field := ⟨A.ANA_RES_W3 i, 24, 24⟩
def F.ANA_RES_W3_DELAY (i : Nat) : Field := ⟨A.ANA_RES_W3 i, 23, 0⟩
def F.ANA_RES_W4_SPEECH (i : Nat) : Field := ⟨A.ANA_RES_W4 i, 31, 0⟩
def F.ANA_RES_W5_TICK (i : Nat) : Field := ⟨A.ANA_RES_W5 i, 31, 0⟩
def F.ANA_RES_W6_MTI0_3 (i : Nat) : Field := ⟨A.ANA_RES_W6 i, 31, 0⟩
def F.ANA_RES_W7_SEQ_B (i : Nat) : Field := ⟨A.ANA_RES_W7 i, 31, 24⟩
def F.ANA_RES_W7_MTI4_6 (i : Nat) : Field := ⟨A.ANA_RES_W7 i, 23, 0⟩
def F.ANA_CTRL_LEAD : Field := ⟨A.ANA_CTRL, 31, 16⟩
def F.ANA_CTRL_ADAPT_EN : Field := ⟨A.ANA_CTRL, 1, 1⟩
def F.ANA_CTRL_LOCK : Field := ⟨A.ANA_CTRL, 0, 0⟩
def F.ANA_STAT_VIOL_AT_LOCK : Field := ⟨A.ANA_STAT, 1, 1⟩
def F.ANA_STAT_LOCKED : Field := ⟨A.ANA_STAT, 0, 0⟩
def F.ANA_CLAMP_CNT_COUNT : Field := ⟨A.ANA_CLAMP_CNT, 31, 0⟩
def F.ANA_LATE_CNT_COUNT : Field := ⟨A.ANA_LATE_CNT, 31, 0⟩
def F.ANA_LAST_REFUSE_REASON : Field := ⟨A.ANA_LAST_REFUSE, 14, 12⟩
def F.ANA_LAST_REFUSE_WORD : Field := ⟨A.ANA_LAST_REFUSE, 11, 9⟩
def F.ANA_LAST_REFUSE_ZONE : Field := ⟨A.ANA_LAST_REFUSE, 8, 0⟩
def F.ANA_PERIOD_TICKS : Field := ⟨A.ANA_PERIOD, 16, 0⟩
def F.ANA_LIM_W0_LIM_GAIN_MIN (i : Nat) : Field := ⟨A.ANA_LIM_W0 i, 31, 0⟩
def F.ANA_LIM_W1_LIM_GAIN_MAX (i : Nat) : Field := ⟨A.ANA_LIM_W1 i, 31, 0⟩
def F.ANA_LIM_W2_LIM_NT (i : Nat) : Field := ⟨A.ANA_LIM_W2 i, 31, 0⟩
def F.ANA_LIM_W3_LIM_LTHR (i : Nat) : Field := ⟨A.ANA_LIM_W3 i, 31, 0⟩
def F.ANA_LIM_W4_LIM_LCEIL (i : Nat) : Field := ⟨A.ANA_LIM_W4 i, 31, 0⟩
def F.ANA_LIM_W5_BAND_MASK (i : Nat) : Field := ⟨A.ANA_LIM_W5 i, 14, 8⟩
def F.ANA_LIM_W5_BQ_FIRST (i : Nat) : Field := ⟨A.ANA_LIM_W5 i, 3, 0⟩
def F.ANA_LIM_W6_EQ_LO (i : Nat) : Field := ⟨A.ANA_LIM_W6 i, 27, 0⟩
def F.ANA_LIM_W7_EQ_HI (i : Nat) : Field := ⟨A.ANA_LIM_W7 i, 27, 0⟩
def F.ANA_POL_W0_INTERVAL (i : Nat) : Field := ⟨A.ANA_POL_W0 i, 31, 16⟩
def F.ANA_POL_W0_CONF_MIN (i : Nat) : Field := ⟨A.ANA_POL_W0 i, 15, 8⟩
def F.ANA_POL_W0_FORCE_N (i : Nat) : Field := ⟨A.ANA_POL_W0 i, 3, 3⟩
def F.ANA_POL_W0_POST (i : Nat) : Field := ⟨A.ANA_POL_W0 i, 2, 2⟩
def F.ANA_POL_W0_ADAPT_EQ (i : Nat) : Field := ⟨A.ANA_POL_W0 i, 1, 1⟩
def F.ANA_POL_W0_ADAPT_GAIN (i : Nat) : Field := ⟨A.ANA_POL_W0 i, 0, 0⟩
def F.ANA_POL_W1_HYST (i : Nat) : Field := ⟨A.ANA_POL_W1 i, 25, 16⟩
def F.ANA_POL_W1_TARGET (i : Nat) : Field := ⟨A.ANA_POL_W1 i, 9, 0⟩
def F.ANA_POL_W2_GSTEP (i : Nat) : Field := ⟨A.ANA_POL_W2 i, 31, 0⟩
def F.ANA_POL_W3_EQ_DIFF (i : Nat) : Field := ⟨A.ANA_POL_W3 i, 7, 0⟩
def F.ANA_POL_W4_POL_NFORCE (i : Nat) : Field := ⟨A.ANA_POL_W4 i, 31, 0⟩
def F.ANA_EQ_W0_B0 (i : Nat) (j : Nat) : Field := ⟨A.ANA_EQ_W0 i j, 31, 0⟩
def F.ANA_EQ_W1_B1 (i : Nat) (j : Nat) : Field := ⟨A.ANA_EQ_W1 i j, 31, 0⟩
def F.ANA_EQ_W2_B2 (i : Nat) (j : Nat) : Field := ⟨A.ANA_EQ_W2 i j, 31, 0⟩
def F.ANA_EQ_W3_A1 (i : Nat) (j : Nat) : Field := ⟨A.ANA_EQ_W3 i j, 31, 0⟩
def F.ANA_EQ_W4_A2 (i : Nat) (j : Nat) : Field := ⟨A.ANA_EQ_W4 i j, 31, 0⟩
def F.ENG_ZC_DEFAULT_TIMEOUT : Field := ⟨A.ENG_ZC_DEFAULT, 15, 0⟩
def F.ENG_XF_STAT_PHASE : Field := ⟨A.ENG_XF_STAT, 31, 30⟩
def F.ENG_XF_STAT_WARM : Field := ⟨A.ENG_XF_STAT, 29, 26⟩
def F.ENG_XF_STAT_LEN : Field := ⟨A.ENG_XF_STAT, 25, 13⟩
def F.ENG_XF_STAT_K : Field := ⟨A.ENG_XF_STAT, 12, 0⟩
def F.ENG_XF_TICK_TARGET : Field := ⟨A.ENG_XF_TICK, 31, 0⟩
def F.ENG_COMMIT_LATE_CNT_COUNT : Field := ⟨A.ENG_COMMIT_LATE_CNT, 31, 0⟩
def F.ENG_ZC_FALLBACK_CNT_COUNT : Field := ⟨A.ENG_ZC_FALLBACK_CNT, 31, 0⟩
def F.ENG_COMMIT_PEND_FENCE_WAIT : Field := ⟨A.ENG_COMMIT_PEND, 22, 16⟩
def F.ENG_COMMIT_PEND_PENDING : Field := ⟨A.ENG_COMMIT_PEND, 12, 0⟩
def F.ENG_ZC_BUSY_COUNT : Field := ⟨A.ENG_ZC_BUSY, 20, 0⟩
def F.APT_PORT_CFG_TX_IDLE (i : Nat) : Field := ⟨A.APT_PORT_CFG i, 28, 28⟩
def F.APT_PORT_CFG_BCLK_INV (i : Nat) : Field := ⟨A.APT_PORT_CFG i, 27, 27⟩
def F.APT_PORT_CFG_FS_WIDTH (i : Nat) : Field := ⟨A.APT_PORT_CFG i, 26, 26⟩
def F.APT_PORT_CFG_FS_POL (i : Nat) : Field := ⟨A.APT_PORT_CFG i, 25, 25⟩
def F.APT_PORT_CFG_DELAY (i : Nat) : Field := ⟨A.APT_PORT_CFG i, 24, 24⟩
def F.APT_PORT_CFG_RATE (i : Nat) : Field := ⟨A.APT_PORT_CFG i, 23, 22⟩
def F.APT_PORT_CFG_WORD_BITS (i : Nat) : Field := ⟨A.APT_PORT_CFG i, 21, 20⟩
def F.APT_PORT_CFG_SLOT_BITS (i : Nat) : Field := ⟨A.APT_PORT_CFG i, 19, 18⟩
def F.APT_PORT_CFG_SLOTS (i : Nat) : Field := ⟨A.APT_PORT_CFG i, 17, 13⟩
def F.APT_PORT_CFG_FORMAT (i : Nat) : Field := ⟨A.APT_PORT_CFG i, 12, 11⟩
def F.APT_PORT_CFG_MODE (i : Nat) : Field := ⟨A.APT_PORT_CFG i, 10, 9⟩
def F.APT_PORT_CTRL_COMMIT (i : Nat) : Field := ⟨A.APT_PORT_CTRL i, 1, 1⟩
def F.APT_PORT_CTRL_RUN (i : Nat) : Field := ⟨A.APT_PORT_CTRL i, 0, 0⟩
def F.APT_PORT_RXMASK_MASK (i : Nat) : Field := ⟨A.APT_PORT_RXMASK i, 31, 0⟩
def F.APT_PORT_TXMASK_MASK (i : Nat) : Field := ⟨A.APT_PORT_TXMASK i, 31, 0⟩
def F.APT_PORT_RXACT_MASK (i : Nat) : Field := ⟨A.APT_PORT_RXACT i, 31, 0⟩
def F.APT_PORT_TXACT_MASK (i : Nat) : Field := ⟨A.APT_PORT_TXACT i, 31, 0⟩
def F.APT_PORT_ZC_TIMEOUT (i : Nat) : Field := ⟨A.APT_PORT_ZC i, 15, 0⟩
def F.APT_PORT_FOFS_FOFS (i : Nat) : Field := ⟨A.APT_PORT_FOFS i, 14, 0⟩
def F.APT_PORT_STAT_CFG_REASON (i : Nat) : Field := ⟨A.APT_PORT_STAT i, 10, 8⟩
def F.APT_PORT_STAT_CFG_REJ (i : Nat) : Field := ⟨A.APT_PORT_STAT i, 7, 7⟩
def F.APT_PORT_STAT_MASK_REJ (i : Nat) : Field := ⟨A.APT_PORT_STAT i, 6, 6⟩
def F.APT_PORT_STAT_LATE (i : Nat) : Field := ⟨A.APT_PORT_STAT i, 5, 5⟩
def F.APT_PORT_STAT_CLK_LOST (i : Nat) : Field := ⟨A.APT_PORT_STAT i, 4, 4⟩
def F.APT_PORT_STAT_ASRC_LOCK (i : Nat) : Field := ⟨A.APT_PORT_STAT i, 3, 3⟩
def F.APT_PORT_STAT_ARMED (i : Nat) : Field := ⟨A.APT_PORT_STAT i, 2, 2⟩
def F.APT_PORT_STAT_STATE (i : Nat) : Field := ⟨A.APT_PORT_STAT i, 1, 0⟩
def F.APT_PORT_RX_UNDER_COUNT (i : Nat) : Field := ⟨A.APT_PORT_RX_UNDER i, 31, 0⟩
def F.APT_PORT_RX_OVER_COUNT (i : Nat) : Field := ⟨A.APT_PORT_RX_OVER i, 31, 0⟩
def F.APT_PORT_TX_UNDER_COUNT (i : Nat) : Field := ⟨A.APT_PORT_TX_UNDER i, 31, 0⟩
def F.APT_PORT_TX_OVER_COUNT (i : Nat) : Field := ⟨A.APT_PORT_TX_OVER i, 31, 0⟩
def F.APT_PORT_LATE_CNT_COUNT (i : Nat) : Field := ⟨A.APT_PORT_LATE_CNT i, 31, 0⟩
def F.APT_PORT_ASRC_RATIO (i : Nat) : Field := ⟨A.APT_PORT_ASRC i, 31, 0⟩
def F.APT_PDM_CTRL_PDM_RATE : Field := ⟨A.APT_PDM_CTRL, 16, 16⟩
def F.APT_PDM_CTRL_SETTLE : Field := ⟨A.APT_PDM_CTRL, 15, 0⟩
def F.APT_PDM_MASK_EN : Field := ⟨A.APT_PDM_MASK, 31, 0⟩
def F.APT_PDM_STAT_STUCK : Field := ⟨A.APT_PDM_STAT, 31, 0⟩
def F.LNP_CTRL_RESTART (i : Nat) : Field := ⟨A.LNP_CTRL i, 8, 8⟩
def F.LNP_CTRL_LOOP (i : Nat) : Field := ⟨A.LNP_CTRL i, 7, 6⟩
def F.LNP_CTRL_RX_FIXED (i : Nat) : Field := ⟨A.LNP_CTRL i, 3, 3⟩
def F.LNP_CTRL_POL_RX (i : Nat) : Field := ⟨A.LNP_CTRL i, 2, 2⟩
def F.LNP_CTRL_POL_TX (i : Nat) : Field := ⟨A.LNP_CTRL i, 1, 1⟩
def F.LNP_CTRL_TX_OFF (i : Nat) : Field := ⟨A.LNP_CTRL i, 0, 0⟩
def F.LNP_STAT_EQ_REJ (i : Nat) : Field := ⟨A.LNP_STAT i, 12, 12⟩
def F.LNP_STAT_BRINGUP_FAIL (i : Nat) : Field := ⟨A.LNP_STAT i, 11, 11⟩
def F.LNP_STAT_HI_BER_SEEN (i : Nat) : Field := ⟨A.LNP_STAT i, 10, 10⟩
def F.LNP_STAT_LOCK_LOST (i : Nat) : Field := ⟨A.LNP_STAT i, 9, 9⟩
def F.LNP_STAT_PEER_VALID (i : Nat) : Field := ⟨A.LNP_STAT i, 8, 8⟩
def F.LNP_STAT_LANE_UP (i : Nat) : Field := ⟨A.LNP_STAT i, 7, 7⟩
def F.LNP_STAT_ADAPT_DONE (i : Nat) : Field := ⟨A.LNP_STAT i, 6, 6⟩
def F.LNP_STAT_HI_BER (i : Nat) : Field := ⟨A.LNP_STAT i, 5, 5⟩
def F.LNP_STAT_BLK_STATE (i : Nat) : Field := ⟨A.LNP_STAT i, 4, 2⟩
def F.LNP_STAT_CDR_LOCK (i : Nat) : Field := ⟨A.LNP_STAT i, 1, 1⟩
def F.LNP_STAT_SIG_DET (i : Nat) : Field := ⟨A.LNP_STAT i, 0, 0⟩
def F.LNP_TXEQ_MAIN (i : Nat) : Field := ⟨A.LNP_TXEQ i, 17, 12⟩
def F.LNP_TXEQ_PRE (i : Nat) : Field := ⟨A.LNP_TXEQ i, 11, 8⟩
def F.LNP_TXEQ_POST (i : Nat) : Field := ⟨A.LNP_TXEQ i, 4, 0⟩
def F.LNP_RXEQ_DFE_EN (i : Nat) : Field := ⟨A.LNP_RXEQ i, 9, 9⟩
def F.LNP_RXEQ_VGA (i : Nat) : Field := ⟨A.LNP_RXEQ i, 8, 4⟩
def F.LNP_RXEQ_CTLE (i : Nat) : Field := ⟨A.LNP_RXEQ i, 3, 0⟩
def F.LNP_TEST_CHK_SYNC (i : Nat) : Field := ⟨A.LNP_TEST i, 4, 4⟩
def F.LNP_TEST_RX_CHK (i : Nat) : Field := ⟨A.LNP_TEST i, 3, 3⟩
def F.LNP_TEST_TX_GEN (i : Nat) : Field := ⟨A.LNP_TEST i, 2, 2⟩
def F.LNP_TEST_PATTERN (i : Nat) : Field := ⟨A.LNP_TEST i, 1, 0⟩
def F.LNP_RXBLK_LO_COUNT (i : Nat) : Field := ⟨A.LNP_RXBLK_LO i, 31, 0⟩
def F.LNP_RXBLK_HI_COUNT (i : Nat) : Field := ⟨A.LNP_RXBLK_HI i, 15, 0⟩
def F.LNP_TXBLK_LO_COUNT (i : Nat) : Field := ⟨A.LNP_TXBLK_LO i, 31, 0⟩
def F.LNP_TXBLK_HI_COUNT (i : Nat) : Field := ⟨A.LNP_TXBLK_HI i, 15, 0⟩
def F.LNP_HDR_ERR_COUNT (i : Nat) : Field := ⟨A.LNP_HDR_ERR i, 31, 0⟩
def F.LNP_BLK_ERR_COUNT (i : Nat) : Field := ⟨A.LNP_BLK_ERR i, 31, 0⟩
def F.LNP_LOCK_LOSS_COUNT (i : Nat) : Field := ⟨A.LNP_LOCK_LOSS i, 31, 0⟩
def F.LNP_HIBER_CNT_COUNT (i : Nat) : Field := ⟨A.LNP_HIBER_CNT i, 31, 0⟩
def F.LNP_PRBS_ERR_COUNT (i : Nat) : Field := ⟨A.LNP_PRBS_ERR i, 31, 0⟩
def F.LNP_ETH_RXF_COUNT (i : Nat) : Field := ⟨A.LNP_ETH_RXF i, 31, 0⟩
def F.LNP_ETH_TXF_COUNT (i : Nat) : Field := ⟨A.LNP_ETH_TXF i, 31, 0⟩
def F.LNP_ETH_FCS_COUNT (i : Nat) : Field := ⟨A.LNP_ETH_FCS i, 31, 0⟩
def F.LNP_ETH_DROP_COUNT (i : Nat) : Field := ⟨A.LNP_ETH_DROP i, 31, 0⟩
def F.LNP_PEER_LANE (i : Nat) : Field := ⟨A.LNP_PEER i, 16, 14⟩
def F.LNP_PEER_ADDR (i : Nat) : Field := ⟨A.LNP_PEER i, 13, 0⟩
def F.LNP_PORT_CFG_MODE (i : Nat) : Field := ⟨A.LNP_PORT_CFG i, 1, 1⟩
def F.LNP_PORT_CFG_ENABLE (i : Nat) : Field := ⟨A.LNP_PORT_CFG i, 0, 0⟩
def F.LNP_PORT_STAT_PPM_OOR (i : Nat) : Field := ⟨A.LNP_PORT_STAT i, 1, 1⟩
def F.LNP_PORT_STAT_CFG_REJ (i : Nat) : Field := ⟨A.LNP_PORT_STAT i, 0, 0⟩
def F.LNP_PORT_MACA_LO_VALUE (i : Nat) : Field := ⟨A.LNP_PORT_MACA_LO i, 31, 0⟩
def F.LNP_PORT_MACA_HI_VALUE (i : Nat) : Field := ⟨A.LNP_PORT_MACA_HI i, 15, 0⟩
def F.LNP_PORT_MACB_LO_VALUE (i : Nat) : Field := ⟨A.LNP_PORT_MACB_LO i, 31, 0⟩
def F.LNP_PORT_MACB_HI_VALUE (i : Nat) : Field := ⟨A.LNP_PORT_MACB_HI i, 15, 0⟩
def F.LNP_PORT_IPA_VALUE (i : Nat) : Field := ⟨A.LNP_PORT_IPA i, 31, 0⟩
def F.LNP_PORT_IPB_VALUE (i : Nat) : Field := ⟨A.LNP_PORT_IPB i, 31, 0⟩
def F.RTP_RX_W0_PT (i : Nat) : Field := ⟨A.RTP_RX_W0 i, 19, 13⟩
def F.RTP_RX_W0_CHANNELS (i : Nat) : Field := ⟨A.RTP_RX_W0 i, 12, 7⟩
def F.RTP_RX_W0_RATE (i : Nat) : Field := ⟨A.RTP_RX_W0 i, 6, 6⟩
def F.RTP_RX_W0_FORMAT (i : Nat) : Field := ⟨A.RTP_RX_W0 i, 5, 5⟩
def F.RTP_RX_W0_PORT (i : Nat) : Field := ⟨A.RTP_RX_W0 i, 4, 3⟩
def F.RTP_RX_W0_LANES (i : Nat) : Field := ⟨A.RTP_RX_W0 i, 2, 1⟩
def F.RTP_RX_W0_EN (i : Nat) : Field := ⟨A.RTP_RX_W0 i, 0, 0⟩
def F.RTP_RX_W1_DEPTH (i : Nat) : Field := ⟨A.RTP_RX_W1 i, 9, 0⟩
def F.RTP_RX_W2_DST_IP (i : Nat) : Field := ⟨A.RTP_RX_W2 i, 31, 0⟩
def F.RTP_RX_W3_SRC_IP (i : Nat) : Field := ⟨A.RTP_RX_W3 i, 31, 0⟩
def F.RTP_RX_W4_VLAN (i : Nat) : Field := ⟨A.RTP_RX_W4 i, 27, 16⟩
def F.RTP_RX_W4_DST_UDP (i : Nat) : Field := ⟨A.RTP_RX_W4 i, 15, 0⟩
def F.RTP_RX_W5_CFG_REJ (i : Nat) : Field := ⟨A.RTP_RX_W5 i, 2, 2⟩
def F.RTP_RX_W5_PLAYING (i : Nat) : Field := ⟨A.RTP_RX_W5 i, 1, 1⟩
def F.RTP_RX_W5_ACTIVE (i : Nat) : Field := ⟨A.RTP_RX_W5 i, 0, 0⟩
def F.RTP_RX_UNDER_COUNT (i : Nat) : Field := ⟨A.RTP_RX_UNDER i, 31, 0⟩
def F.RTP_RX_OVER_COUNT (i : Nat) : Field := ⟨A.RTP_RX_OVER i, 31, 0⟩
def F.RTP_RX_LATE_COUNT (i : Nat) : Field := ⟨A.RTP_RX_LATE i, 31, 0⟩
def F.RTP_RX_DUP_COUNT (i : Nat) : Field := ⟨A.RTP_RX_DUP i, 31, 0⟩
def F.RTP_TX_W0_PT (i : Nat) : Field := ⟨A.RTP_TX_W0 i, 19, 13⟩
def F.RTP_TX_W0_CHANNELS (i : Nat) : Field := ⟨A.RTP_TX_W0 i, 12, 7⟩
def F.RTP_TX_W0_RATE (i : Nat) : Field := ⟨A.RTP_TX_W0 i, 6, 6⟩
def F.RTP_TX_W0_FORMAT (i : Nat) : Field := ⟨A.RTP_TX_W0 i, 5, 5⟩
def F.RTP_TX_W0_PORT (i : Nat) : Field := ⟨A.RTP_TX_W0 i, 4, 3⟩
def F.RTP_TX_W0_LANES (i : Nat) : Field := ⟨A.RTP_TX_W0 i, 2, 1⟩
def F.RTP_TX_W0_EN (i : Nat) : Field := ⟨A.RTP_TX_W0 i, 0, 0⟩
def F.RTP_TX_W1_TTL (i : Nat) : Field := ⟨A.RTP_TX_W1 i, 23, 16⟩
def F.RTP_TX_W1_DSCP (i : Nat) : Field := ⟨A.RTP_TX_W1 i, 13, 8⟩
def F.RTP_TX_W1_PTIME (i : Nat) : Field := ⟨A.RTP_TX_W1 i, 5, 0⟩
def F.RTP_TX_W2_DST_IP (i : Nat) : Field := ⟨A.RTP_TX_W2 i, 31, 0⟩
def F.RTP_TX_W3_DST_UDP (i : Nat) : Field := ⟨A.RTP_TX_W3 i, 31, 16⟩
def F.RTP_TX_W3_SRC_UDP (i : Nat) : Field := ⟨A.RTP_TX_W3 i, 15, 0⟩
def F.RTP_TX_W4_DST_MAC_LO (i : Nat) : Field := ⟨A.RTP_TX_W4 i, 31, 0⟩
def F.RTP_TX_W5_PCP (i : Nat) : Field := ⟨A.RTP_TX_W5 i, 30, 28⟩
def F.RTP_TX_W5_VLAN (i : Nat) : Field := ⟨A.RTP_TX_W5 i, 27, 16⟩
def F.RTP_TX_W5_DST_MAC_HI (i : Nat) : Field := ⟨A.RTP_TX_W5 i, 15, 0⟩
def F.RTP_TX_W6_SSRC (i : Nat) : Field := ⟨A.RTP_TX_W6 i, 31, 0⟩
def F.RTP_TX_W7_CFG_REJ (i : Nat) : Field := ⟨A.RTP_TX_W7 i, 0, 0⟩
def F.RTP_TX_W8_PKTS (i : Nat) : Field := ⟨A.RTP_TX_W8 i, 31, 0⟩
def F.LNK_ADDR_CONFLICT : Field := ⟨A.LNK_ADDR, 15, 15⟩
def F.LNK_ADDR_VALID : Field := ⟨A.LNK_ADDR, 14, 14⟩
def F.LNK_ADDR_ADDR : Field := ⟨A.LNK_ADDR, 13, 0⟩
def F.LNK_SEG_HEAD : Field := ⟨A.LNK_SEG, 21, 8⟩
def F.LNK_SEG_SIZE : Field := ⟨A.LNK_SEG, 7, 0⟩
def F.LNK_PORTMAP_INTER : Field := ⟨A.LNK_PORTMAP, 11, 8⟩
def F.LNK_PORTMAP_ROLE : Field := ⟨A.LNK_PORTMAP, 7, 0⟩
def F.LNK_SPAN_CFG_ACCEPT_PARTIAL : Field := ⟨A.LNK_SPAN_CFG, 8, 8⟩
def F.LNK_SPAN_CFG_DELAY : Field := ⟨A.LNK_SPAN_CFG, 4, 0⟩
def F.LNK_SPAN_EN_EN (i : Nat) : Field := ⟨A.LNK_SPAN_EN i, 31, 0⟩
def F.LNK_SKEW_CYCLES : Field := ⟨A.LNK_SKEW, 15, 0⟩
def F.LNK_MGMT_LOCK : Field := ⟨A.LNK_MGMT, 31, 31⟩
def F.LNK_MGMT_ASSIGN_EN : Field := ⟨A.LNK_MGMT, 2, 2⟩
def F.LNK_MGMT_AUTH_READ : Field := ⟨A.LNK_MGMT, 1, 1⟩
def F.LNK_MGMT_RESET_EN : Field := ⟨A.LNK_MGMT, 0, 0⟩
def F.LNK_KEY_KEY (i : Nat) : Field := ⟨A.LNK_KEY i, 31, 0⟩
def F.LNK_LANE_STAT_PEER_CHANGED (i : Nat) : Field := ⟨A.LNK_LANE_STAT i, 4, 4⟩
def F.LNK_LANE_STAT_LINK_LOST (i : Nat) : Field := ⟨A.LNK_LANE_STAT i, 3, 3⟩
def F.LNK_LANE_STAT_CROSSED (i : Nat) : Field := ⟨A.LNK_LANE_STAT i, 2, 2⟩
def F.LNK_LANE_STAT_STATE (i : Nat) : Field := ⟨A.LNK_LANE_STAT i, 1, 0⟩
def F.LNK_CHAIN_NCONT_W : Field := ⟨A.LNK_CHAIN, 31, 24⟩
def F.LNK_CHAIN_NCONT_E : Field := ⟨A.LNK_CHAIN, 23, 16⟩
def F.LNK_CHAIN_WEST_BREAK : Field := ⟨A.LNK_CHAIN, 3, 3⟩
def F.LNK_CHAIN_WEST_ORIGIN : Field := ⟨A.LNK_CHAIN, 2, 2⟩
def F.LNK_CHAIN_EAST_BREAK : Field := ⟨A.LNK_CHAIN, 1, 1⟩
def F.LNK_CHAIN_EAST_ORIGIN : Field := ⟨A.LNK_CHAIN, 0, 0⟩
def F.LNK_PORT_HDR_CRC_COUNT (i : Nat) : Field := ⟨A.LNK_PORT_HDR_CRC i, 31, 0⟩
def F.LNK_PORT_SECT_CRC_COUNT (i : Nat) : Field := ⟨A.LNK_PORT_SECT_CRC i, 31, 0⟩
def F.LNK_PORT_STOMPED_COUNT (i : Nat) : Field := ⟨A.LNK_PORT_STOMPED i, 31, 0⟩
def F.LNK_PORT_STALE_COUNT (i : Nat) : Field := ⟨A.LNK_PORT_STALE i, 31, 0⟩
def F.LNK_PORT_MISSING_COUNT (i : Nat) : Field := ⟨A.LNK_PORT_MISSING i, 31, 0⟩
def F.LNK_PORT_RXQ_OVER_COUNT (i : Nat) : Field := ⟨A.LNK_PORT_RXQ_OVER i, 31, 0⟩
def F.LNK_PORT_FRAME_FULL_COUNT (i : Nat) : Field := ⟨A.LNK_PORT_FRAME_FULL i, 31, 0⟩
def F.LNK_PORT_AB_MISMATCH_COUNT (i : Nat) : Field := ⟨A.LNK_PORT_AB_MISMATCH i, 31, 0⟩
def F.LNK_PORT_BULK_DISC_COUNT (i : Nat) : Field := ⟨A.LNK_PORT_BULK_DISC i, 31, 0⟩
def F.LNK_PORT_NO_ROUTE_COUNT (i : Nat) : Field := ⟨A.LNK_PORT_NO_ROUTE i, 31, 0⟩
def F.LNK_PORT_SEQ_GAP_COUNT (i : Nat) : Field := ⟨A.LNK_PORT_SEQ_GAP i, 31, 0⟩
def F.LNK_SPAN_MISS_COUNT : Field := ⟨A.LNK_SPAN_MISS, 31, 0⟩
def F.LNK_SPAN_PARTIAL_COUNT : Field := ⟨A.LNK_SPAN_PARTIAL, 31, 0⟩
def F.LNK_AUTH_FAIL_COUNT : Field := ⟨A.LNK_AUTH_FAIL, 31, 0⟩
def F.LNK_LATE_COUNT : Field := ⟨A.LNK_LATE, 31, 0⟩
def F.LNK_ROUTE_ENTRY (i : Nat) : Field := ⟨A.LNK_ROUTE i, 31, 0⟩
def F.LNK_TX_W0_HOPS (i : Nat) (j : Nat) : Field := ⟨A.LNK_TX_W0 i j, 31, 24⟩
def F.LNK_TX_W0_DMODE (i : Nat) (j : Nat) : Field := ⟨A.LNK_TX_W0 i j, 17, 16⟩
def F.LNK_TX_W0_CHANNELS (i : Nat) (j : Nat) : Field := ⟨A.LNK_TX_W0 i j, 12, 7⟩
def F.LNK_TX_W0_PHASE (i : Nat) (j : Nat) : Field := ⟨A.LNK_TX_W0 i j, 6, 4⟩
def F.LNK_TX_W0_RATE (i : Nat) (j : Nat) : Field := ⟨A.LNK_TX_W0 i j, 3, 1⟩
def F.LNK_TX_W0_EN (i : Nat) (j : Nat) : Field := ⟨A.LNK_TX_W0 i j, 0, 0⟩
def F.LNK_TX_W1_DEST (i : Nat) (j : Nat) : Field := ⟨A.LNK_TX_W1 i j, 13, 0⟩
def F.LNK_TX_W2_CFG_REJ (i : Nat) (j : Nat) : Field := ⟨A.LNK_TX_W2 i j, 0, 0⟩
def F.LNK_RX_W0_OSTREAM (i : Nat) (j : Nat) : Field := ⟨A.LNK_RX_W0 i j, 31, 24⟩
def F.LNK_RX_W0_CHANNELS (i : Nat) (j : Nat) : Field := ⟨A.LNK_RX_W0 i j, 12, 7⟩
def F.LNK_RX_W0_PHASE (i : Nat) (j : Nat) : Field := ⟨A.LNK_RX_W0 i j, 6, 4⟩
def F.LNK_RX_W0_RATE (i : Nat) (j : Nat) : Field := ⟨A.LNK_RX_W0 i j, 3, 1⟩
def F.LNK_RX_W0_EN (i : Nat) (j : Nat) : Field := ⟨A.LNK_RX_W0 i j, 0, 0⟩
def F.LNK_RX_W1_LAT (i : Nat) (j : Nat) : Field := ⟨A.LNK_RX_W1 i j, 20, 16⟩
def F.LNK_RX_W1_ORIGIN (i : Nat) (j : Nat) : Field := ⟨A.LNK_RX_W1 i j, 13, 0⟩
def F.LNK_RX_W2_LATE (i : Nat) (j : Nat) : Field := ⟨A.LNK_RX_W2 i j, 31, 0⟩
def F.LNK_RX_W3_CFG_REJ (i : Nat) (j : Nat) : Field := ⟨A.LNK_RX_W3 i j, 0, 0⟩
def F.CLK_CTRL_WTR : Field := ⟨A.CLK_CTRL, 23, 16⟩
def F.CLK_CTRL_DCO_LIM : Field := ⟨A.CLK_CTRL, 15, 8⟩
def F.CLK_CTRL_REFCLK_SEL : Field := ⟨A.CLK_CTRL, 5, 4⟩
def F.CLK_CTRL_XO_REFEREE : Field := ⟨A.CLK_CTRL, 3, 3⟩
def F.CLK_CTRL_REVERTIVE : Field := ⟨A.CLK_CTRL, 2, 2⟩
def F.CLK_CTRL_MODE : Field := ⟨A.CLK_CTRL, 1, 0⟩
def F.CLK_STAT_DCO_LIMIT : Field := ⟨A.CLK_STAT, 15, 15⟩
def F.CLK_STAT_ALIGNED : Field := ⟨A.CLK_STAT, 14, 14⟩
def F.CLK_STAT_HO_VALID : Field := ⟨A.CLK_STAT, 13, 13⟩
def F.CLK_STAT_REF_DISAGREE : Field := ⟨A.CLK_STAT, 12, 12⟩
def F.CLK_STAT_SUSPECT_SEEN : Field := ⟨A.CLK_STAT, 11, 11⟩
def F.CLK_STAT_SWITCHED : Field := ⟨A.CLK_STAT, 10, 10⟩
def F.CLK_STAT_DISAGREE : Field := ⟨A.CLK_STAT, 9, 9⟩
def F.CLK_STAT_SELECTED : Field := ⟨A.CLK_STAT, 7, 4⟩
def F.CLK_STAT_STATE : Field := ⟨A.CLK_STAT, 2, 0⟩
def F.CLK_LIMITS_HARD : Field := ⟨A.CLK_LIMITS, 31, 16⟩
def F.CLK_LIMITS_SOFT : Field := ⟨A.CLK_LIMITS, 15, 0⟩
def F.CLK_TIMING_QWIN : Field := ⟨A.CLK_TIMING, 31, 24⟩
def F.CLK_TIMING_HO_GAP : Field := ⟨A.CLK_TIMING, 21, 16⟩
def F.CLK_TIMING_HO_WIN : Field := ⟨A.CLK_TIMING, 9, 0⟩
def F.CLK_TOL_SLEW : Field := ⟨A.CLK_TOL, 31, 16⟩
def F.CLK_TOL_TOL : Field := ⟨A.CLK_TOL, 15, 0⟩
def F.CLK_XO_CAL_PPT : Field := ⟨A.CLK_XO_CAL, 31, 0⟩
def F.CLK_DCO_MAN_PPT : Field := ⟨A.CLK_DCO_MAN, 31, 0⟩
def F.CLK_DCO_WORD_PPT : Field := ⟨A.CLK_DCO_WORD, 31, 0⟩
def F.CLK_HO_WORD_PPT : Field := ⟨A.CLK_HO_WORD, 31, 0⟩
def F.CLK_SWITCH_CNT_COUNT : Field := ⟨A.CLK_SWITCH_CNT, 31, 0⟩
def F.CLK_IN_CFG_BW (i : Nat) : Field := ⟨A.CLK_IN_CFG i, 29, 8⟩
def F.CLK_IN_CFG_ALIGN (i : Nat) : Field := ⟨A.CLK_IN_CFG i, 3, 3⟩
def F.CLK_IN_CFG_RANK (i : Nat) : Field := ⟨A.CLK_IN_CFG i, 2, 0⟩
def F.CLK_IN_STAT_MULT (i : Nat) : Field := ⟨A.CLK_IN_STAT i, 6, 5⟩
def F.CLK_IN_STAT_REFEREE (i : Nat) : Field := ⟨A.CLK_IN_STAT i, 4, 4⟩
def F.CLK_IN_STAT_MEAS_VALID (i : Nat) : Field := ⟨A.CLK_IN_STAT i, 3, 3⟩
def F.CLK_IN_STAT_STATE (i : Nat) : Field := ⟨A.CLK_IN_STAT i, 2, 0⟩
def F.CLK_IN_DEV_VALUE (i : Nat) : Field := ⟨A.CLK_IN_DEV i, 31, 0⟩
def F.CLK_IN_PHOFS_VALUE (i : Nat) : Field := ⟨A.CLK_IN_PHOFS i, 31, 0⟩
def F.CLK_IN_PHERR_VALUE (i : Nat) : Field := ⟨A.CLK_IN_PHERR i, 31, 0⟩
def F.CLK_FS_CFG_LOST (i : Nat) : Field := ⟨A.CLK_FS_CFG i, 10, 10⟩
def F.CLK_FS_CFG_FLY (i : Nat) : Field := ⟨A.CLK_FS_CFG i, 9, 9⟩
def F.CLK_FS_CFG_POL (i : Nat) : Field := ⟨A.CLK_FS_CFG i, 8, 8⟩
def F.CLK_FS_CFG_SOURCE (i : Nat) : Field := ⟨A.CLK_FS_CFG i, 2, 0⟩
def F.CLK_FS_PERIOD_VALUE (i : Nat) : Field := ⟨A.CLK_FS_PERIOD i, 15, 0⟩
def F.CLK_FS_OFFSET_VALUE (i : Nat) : Field := ⟨A.CLK_FS_OFFSET i, 31, 0⟩
def F.CLK_FS_WIDTH_VALUE (i : Nat) : Field := ⟨A.CLK_FS_WIDTH i, 23, 0⟩
def F.TIM_CTRL_MSLEW : Field := ⟨A.TIM_CTRL, 31, 16⟩
def F.TIM_CTRL_FW_SERVO : Field := ⟨A.TIM_CTRL, 2, 2⟩
def F.TIM_CTRL_AUTO_FB : Field := ⟨A.TIM_CTRL, 1, 1⟩
def F.TIM_CTRL_MAIN : Field := ⟨A.TIM_CTRL, 0, 0⟩
def F.TIM_STAT_FALLBACK : Field := ⟨A.TIM_STAT, 8, 8⟩
def F.TIM_STAT_ALIGN_REJ : Field := ⟨A.TIM_STAT, 7, 7⟩
def F.TIM_STAT_TICK_MISALIGN : Field := ⟨A.TIM_STAT, 6, 6⟩
def F.TIM_STAT_TICK_ALIGNED : Field := ⟨A.TIM_STAT, 5, 5⟩
def F.TIM_STAT_MAIN_SET : Field := ⟨A.TIM_STAT, 4, 4⟩
def F.TIM_STAT_IN_USE : Field := ⟨A.TIM_STAT, 3, 3⟩
def F.TIM_CMD_SCNT_ALIGN : Field := ⟨A.TIM_CMD, 0, 0⟩
def F.TIM_SCNT_VALUE : Field := ⟨A.TIM_SCNT, 31, 0⟩
def F.TIM_TPHASE_VALUE : Field := ⟨A.TIM_TPHASE, 2, 0⟩
def F.TIM_ECNT_LO_VALUE : Field := ⟨A.TIM_ECNT_LO, 31, 0⟩
def F.TIM_ECNT_HI_VALUE : Field := ⟨A.TIM_ECNT_HI, 31, 0⟩
def F.TIM_MAIN_FRAC_VALUE : Field := ⟨A.TIM_MAIN_FRAC, 31, 0⟩
def F.TIM_TS_FRAC_VALUE (i : Nat) : Field := ⟨A.TIM_TS_FRAC i, 31, 0⟩
def F.TIM_MAIN_NS_VALUE : Field := ⟨A.TIM_MAIN_NS, 31, 0⟩
def F.TIM_TS_NS_VALUE (i : Nat) : Field := ⟨A.TIM_TS_NS i, 31, 0⟩
def F.TIM_MAIN_SLO_VALUE : Field := ⟨A.TIM_MAIN_SLO, 31, 0⟩
def F.TIM_TS_SLO_VALUE (i : Nat) : Field := ⟨A.TIM_TS_SLO i, 31, 0⟩
def F.TIM_MAIN_SHI_VALUE : Field := ⟨A.TIM_MAIN_SHI, 15, 0⟩
def F.TIM_TS_SHI_VALUE (i : Nat) : Field := ⟨A.TIM_TS_SHI i, 15, 0⟩
def F.TIM_MAIN_OFS_OFS : Field := ⟨A.TIM_MAIN_OFS, 31, 0⟩
def F.TIM_TS_SET_NS_VALUE (i : Nat) : Field := ⟨A.TIM_TS_SET_NS i, 31, 0⟩
def F.TIM_TS_SET_SLO_VALUE (i : Nat) : Field := ⟨A.TIM_TS_SET_SLO i, 31, 0⟩
def F.TIM_TS_SET_SHI_VALUE (i : Nat) : Field := ⟨A.TIM_TS_SET_SHI i, 15, 0⟩
def F.TIM_TS_SET_GO_VALUE (i : Nat) : Field := ⟨A.TIM_TS_SET_GO i, 0, 0⟩
def F.TIM_TS_INC_LO_VALUE (i : Nat) : Field := ⟨A.TIM_TS_INC_LO i, 31, 0⟩
def F.TIM_TS_INC_HI_VALUE (i : Nat) : Field := ⟨A.TIM_TS_INC_HI i, 31, 0⟩
def F.TIM_TS_ADJ_VALUE (i : Nat) : Field := ⟨A.TIM_TS_ADJ i, 31, 0⟩
def F.TIM_TS_CTRL_TS_LOSS (i : Nat) : Field := ⟨A.TIM_TS_CTRL i, 31, 24⟩
def F.TIM_TS_CTRL_TX_INT (i : Nat) : Field := ⟨A.TIM_TS_CTRL i, 23, 12⟩
def F.TIM_TS_CTRL_SERVE (i : Nat) : Field := ⟨A.TIM_TS_CTRL i, 11, 8⟩
def F.TIM_TS_CTRL_UPORT (i : Nat) : Field := ⟨A.TIM_TS_CTRL i, 7, 6⟩
def F.TIM_TS_CTRL_CORR_EN (i : Nat) : Field := ⟨A.TIM_TS_CTRL i, 5, 5⟩
def F.TIM_TS_CTRL_FORCE_HOLD (i : Nat) : Field := ⟨A.TIM_TS_CTRL i, 4, 4⟩
def F.TIM_TS_CTRL_SOURCE (i : Nat) : Field := ⟨A.TIM_TS_CTRL i, 1, 0⟩
def F.TIM_TS_STAT_SET (i : Nat) : Field := ⟨A.TIM_TS_STAT i, 2, 2⟩
def F.TIM_TS_STAT_STATE (i : Nat) : Field := ⟨A.TIM_TS_STAT i, 1, 0⟩
def F.TIM_TS_MOFS_LO_VALUE (i : Nat) : Field := ⟨A.TIM_TS_MOFS_LO i, 31, 0⟩
def F.TIM_TS_MOFS_HI_VALUE (i : Nat) : Field := ⟨A.TIM_TS_MOFS_HI i, 31, 0⟩
def F.TIM_TS_MDLY_VALUE (i : Nat) : Field := ⟨A.TIM_TS_MDLY i, 31, 0⟩
def F.TIM_TS_MTICK_VALUE (i : Nat) : Field := ⟨A.TIM_TS_MTICK i, 31, 0⟩
def F.TIM_PTP_LANE_EN : Field := ⟨A.TIM_PTP, 31, 24⟩
def F.TIM_PTP_DOMAIN1 : Field := ⟨A.TIM_PTP, 15, 8⟩
def F.TIM_PTP_DOMAIN0 : Field := ⟨A.TIM_PTP, 7, 0⟩
def F.TIM_LANE_EGLAT_VALUE (i : Nat) : Field := ⟨A.TIM_LANE_EGLAT i, 31, 0⟩
def F.TIM_LANE_INLAT_VALUE (i : Nat) : Field := ⟨A.TIM_LANE_INLAT i, 31, 0⟩
def F.TIM_PORT_SKEW_VALUE (i : Nat) : Field := ⟨A.TIM_PORT_SKEW i, 31, 0⟩
def F.TIM_FF_CTRL_CFG_REJ (i : Nat) : Field := ⟨A.TIM_FF_CTRL i, 5, 5⟩
def F.TIM_FF_CTRL_SKIPPED (i : Nat) : Field := ⟨A.TIM_FF_CTRL i, 4, 4⟩
def F.TIM_FF_CTRL_LATE (i : Nat) : Field := ⟨A.TIM_FF_CTRL i, 3, 3⟩
def F.TIM_FF_CTRL_ARMED (i : Nat) : Field := ⟨A.TIM_FF_CTRL i, 2, 2⟩
def F.TIM_FF_CTRL_POL (i : Nat) : Field := ⟨A.TIM_FF_CTRL i, 1, 1⟩
def F.TIM_FF_CTRL_ARM (i : Nat) : Field := ⟨A.TIM_FF_CTRL i, 0, 0⟩
def F.TIM_FF_START_NS_VALUE (i : Nat) : Field := ⟨A.TIM_FF_START_NS i, 31, 0⟩
def F.TIM_FF_START_SLO_VALUE (i : Nat) : Field := ⟨A.TIM_FF_START_SLO i, 31, 0⟩
def F.TIM_FF_START_SHI_VALUE (i : Nat) : Field := ⟨A.TIM_FF_START_SHI i, 15, 0⟩
def F.TIM_FF_PER_NS_VALUE (i : Nat) : Field := ⟨A.TIM_FF_PER_NS i, 31, 0⟩
def F.TIM_FF_PER_S_VALUE (i : Nat) : Field := ⟨A.TIM_FF_PER_S i, 31, 0⟩
def F.TIM_FF_WIDTH_VALUE (i : Nat) : Field := ⟨A.TIM_FF_WIDTH i, 31, 0⟩
def F.TIM_FF_COUNT_VALUE (i : Nat) : Field := ⟨A.TIM_FF_COUNT i, 31, 0⟩
def F.TIM_LAUNCH_VALUE : Field := ⟨A.TIM_LAUNCH, 15, 0⟩
def F.TIM_LAUNCH_LATE_VALUE : Field := ⟨A.TIM_LAUNCH_LATE, 31, 0⟩
def F.RED_CFG_ROLE : Field := ⟨A.RED_CFG, 31, 30⟩
def F.RED_CFG_LOCK : Field := ⟨A.RED_CFG, 29, 29⟩
def F.RED_CFG_AUTO_REJOIN : Field := ⟨A.RED_CFG, 28, 28⟩
def F.RED_CFG_PARTNER : Field := ⟨A.RED_CFG, 27, 14⟩
def F.RED_CFG_HOPS : Field := ⟨A.RED_CFG, 13, 7⟩
def F.RED_CTRL_HANDBACK : Field := ⟨A.RED_CTRL, 2, 2⟩
def F.RED_CTRL_REJOIN : Field := ⟨A.RED_CTRL, 1, 1⟩
def F.RED_CTRL_FAIL : Field := ⟨A.RED_CTRL, 0, 0⟩
def F.RED_STAT_FAULTS : Field := ⟨A.RED_STAT, 31, 16⟩
def F.RED_STAT_LEADER : Field := ⟨A.RED_STAT, 15, 15⟩
def F.RED_STAT_DRIVING : Field := ⟨A.RED_STAT, 14, 14⟩
def F.RED_STAT_PARTNER_SEEN : Field := ⟨A.RED_STAT, 13, 13⟩
def F.RED_STAT_PAIR_DIVERGE : Field := ⟨A.RED_STAT, 12, 12⟩
def F.RED_STAT_FAILOVER : Field := ⟨A.RED_STAT, 11, 11⟩
def F.RED_STAT_SPLIT : Field := ⟨A.RED_STAT, 10, 10⟩
def F.RED_STAT_REASON : Field := ⟨A.RED_STAT, 9, 7⟩
def F.RED_STAT_PSTATE : Field := ⟨A.RED_STAT, 6, 4⟩
def F.RED_STAT_STATE : Field := ⟨A.RED_STAT, 2, 0⟩
def F.RED_TIMING_MLAT : Field := ⟨A.RED_TIMING, 31, 27⟩
def F.RED_TIMING_HLAT : Field := ⟨A.RED_TIMING, 26, 22⟩
def F.RED_TIMING_JOIN_RUN : Field := ⟨A.RED_TIMING, 15, 0⟩
def F.RED_LIMITS_TIMEOUT : Field := ⟨A.RED_LIMITS, 31, 24⟩
def F.RED_LIMITS_MBUDGET : Field := ⟨A.RED_LIMITS, 14, 0⟩
def F.RED_TWIN_READY : Field := ⟨A.RED_TWIN, 31, 31⟩
def F.RED_TWIN_LEN : Field := ⟨A.RED_TWIN, 12, 0⟩
def F.RED_OUTCTL_ACT_EN : Field := ⟨A.RED_OUTCTL, 22, 22⟩
def F.RED_OUTCTL_ACT_LINE : Field := ⟨A.RED_OUTCTL, 21, 16⟩
def F.RED_OUTCTL_PORTMASK : Field := ⟨A.RED_OUTCTL, 15, 0⟩
def F.RED_HASH_TICK_VALUE : Field := ⟨A.RED_HASH_TICK, 31, 0⟩
def F.RED_HASH_LO_VALUE : Field := ⟨A.RED_HASH_LO, 31, 0⟩
def F.RED_HASH_HI_VALUE : Field := ⟨A.RED_HASH_HI, 31, 0⟩
def F.RED_CRICKET_MISS_COUNT : Field := ⟨A.RED_CRICKET_MISS, 31, 0⟩
def F.RED_HASH_MISS_COUNT : Field := ⟨A.RED_HASH_MISS, 31, 0⟩
def F.RED_DIVERGE_CNT_COUNT : Field := ⟨A.RED_DIVERGE_CNT, 31, 0⟩
def F.RED_FAILOVER_CNT_COUNT : Field := ⟨A.RED_FAILOVER_CNT, 31, 0⟩
def F.RED_MIRROR_LATE_COUNT : Field := ⟨A.RED_MIRROR_LATE, 31, 0⟩
def F.RED_RX_SWITCH_COUNT : Field := ⟨A.RED_RX_SWITCH, 31, 0⟩
def F.RED_INMIR_EN (i : Nat) : Field := ⟨A.RED_INMIR i, 31, 31⟩
def F.RED_INMIR_CLASS (i : Nat) : Field := ⟨A.RED_INMIR i, 28, 28⟩
def F.RED_INMIR_BIND (i : Nat) : Field := ⟨A.RED_INMIR i, 8, 0⟩
def F.RED_RXPAIR_EN (i : Nat) : Field := ⟨A.RED_RXPAIR i, 31, 31⟩
def F.RED_RXPAIR_CLASS (i : Nat) : Field := ⟨A.RED_RXPAIR i, 30, 30⟩
def F.RED_RXPAIR_PORT (i : Nat) : Field := ⟨A.RED_RXPAIR i, 29, 28⟩
def F.RED_RXPAIR_X (i : Nat) : Field := ⟨A.RED_RXPAIR i, 15, 8⟩
def F.RED_RXPAIR_Y (i : Nat) : Field := ⟨A.RED_RXPAIR i, 7, 0⟩
def F.YRD_CTRL_AGE : Field := ⟨A.YRD_CTRL, 15, 0⟩
def F.YRD_ERR_ADDR_ADDR : Field := ⟨A.YRD_ERR_ADDR, 31, 0⟩
def F.YRD_ERR_INFO_VALID : Field := ⟨A.YRD_ERR_INFO, 31, 31⟩
def F.YRD_ERR_INFO_CAUSE : Field := ⟨A.YRD_ERR_INFO, 12, 11⟩
def F.YRD_ERR_INFO_TYPE : Field := ⟨A.YRD_ERR_INFO, 10, 9⟩
def F.YRD_ERR_INFO_QUEUE : Field := ⟨A.YRD_ERR_INFO, 8, 5⟩
def F.YRD_ERR_INFO_MASTER : Field := ⟨A.YRD_ERR_INFO, 4, 0⟩
def F.YRD_ERR_CNT_COUNT : Field := ⟨A.YRD_ERR_CNT, 31, 0⟩
def F.YRD_MST_BWIN (i : Nat) : Field := ⟨A.YRD_MST i, 5, 4⟩
def F.YRD_MST_QOS (i : Nat) : Field := ⟨A.YRD_MST i, 3, 0⟩
def F.YRD_CONF_COUNT (i : Nat) : Field := ⟨A.YRD_CONF i, 31, 0⟩
def F.YRD_ARB_CTRL_PREEMPT_MARGIN : Field := ⟨A.YRD_ARB_CTRL, 19, 0⟩
def F.YRD_ARB_REVOKE_COUNT : Field := ⟨A.YRD_ARB_REVOKE, 31, 0⟩
def F.YRD_ARB_GRANT_IDLE : Field := ⟨A.YRD_ARB_GRANT, 3, 3⟩
def F.YRD_ARB_GRANT_OWNER : Field := ⟨A.YRD_ARB_GRANT, 2, 0⟩
def F.YRD_ARB_BIAS_VALUE (i : Nat) : Field := ⟨A.YRD_ARB_BIAS i, 31, 0⟩
def F.YRD_ARB_AGE_VALUE (i : Nat) : Field := ⟨A.YRD_ARB_AGE i, 19, 0⟩
def F.YRD_ARB_STAT_BACKOFF (i : Nat) : Field := ⟨A.YRD_ARB_STAT i, 12, 0⟩
def F.YRD_ARB_LOSS_COUNT (i : Nat) : Field := ⟨A.YRD_ARB_LOSS i, 31, 0⟩
def F.MEM_LK_CMD_OP : Field := ⟨A.MEM_LK_CMD, 31, 30⟩
def F.MEM_LK_CMD_QUEUE : Field := ⟨A.MEM_LK_CMD, 13, 10⟩
def F.MEM_LK_CMD_LOCK : Field := ⟨A.MEM_LK_CMD, 7, 0⟩
def F.MEM_LK_STAT_RESULT : Field := ⟨A.MEM_LK_STAT, 31, 30⟩
def F.MEM_LK_STAT_REASON : Field := ⟨A.MEM_LK_STAT, 29, 28⟩
def F.MEM_LK_STAT_BROKEN : Field := ⟨A.MEM_LK_STAT, 27, 27⟩
def F.MEM_LK_STAT_LOCK : Field := ⟨A.MEM_LK_STAT, 7, 0⟩
def F.MEM_LK_TMO_TMO : Field := ⟨A.MEM_LK_TMO, 13, 0⟩
def F.MEM_WV_CTRL_LOCK : Field := ⟨A.MEM_WV_CTRL, 31, 31⟩
def F.MEM_WV_CTRL_EN : Field := ⟨A.MEM_WV_CTRL, 16, 16⟩
def F.MEM_WV_CTRL_SHARE : Field := ⟨A.MEM_WV_CTRL, 6, 0⟩
def F.MEM_WV_STAT_COVERAGE_LATE : Field := ⟨A.MEM_WV_STAT, 3, 3⟩
def F.MEM_WV_STAT_HELD : Field := ⟨A.MEM_WV_STAT, 2, 2⟩
def F.MEM_WV_STAT_FAIL : Field := ⟨A.MEM_WV_STAT, 1, 1⟩
def F.MEM_WV_STAT_RUN : Field := ⟨A.MEM_WV_STAT, 0, 0⟩
def F.MEM_WV_PERIOD_SECONDS : Field := ⟨A.MEM_WV_PERIOD, 15, 0⟩
def F.MEM_WV_PASS_COUNT : Field := ⟨A.MEM_WV_PASS, 31, 16⟩
def F.MEM_WV_PASS_LAST : Field := ⟨A.MEM_WV_PASS, 15, 0⟩
def F.MEM_ECC_ADDR_ADDR : Field := ⟨A.MEM_ECC_ADDR, 31, 0⟩
def F.MEM_ECC_CE_COUNT : Field := ⟨A.MEM_ECC_CE, 31, 0⟩
def F.MEM_ECC_UE_COUNT : Field := ⟨A.MEM_ECC_UE, 31, 0⟩
def F.MEM_BROKEN_CNT_COUNT : Field := ⟨A.MEM_BROKEN_CNT, 31, 0⟩
def F.MEM_LK_HQ_STAT_RESULT (i : Nat) : Field := ⟨A.MEM_LK_HQ_STAT i, 31, 30⟩
def F.MEM_LK_HQ_STAT_REASON (i : Nat) : Field := ⟨A.MEM_LK_HQ_STAT i, 29, 28⟩
def F.MEM_LK_HQ_STAT_BROKEN (i : Nat) : Field := ⟨A.MEM_LK_HQ_STAT i, 27, 27⟩
def F.MEM_LK_HQ_STAT_LOCK (i : Nat) : Field := ⟨A.MEM_LK_HQ_STAT i, 7, 0⟩
def F.MEM_STALL_BUSY (i : Nat) : Field := ⟨A.MEM_STALL i, 7, 7⟩
def F.MEM_STALL_TEST (i : Nat) : Field := ⟨A.MEM_STALL i, 6, 6⟩
def F.MEM_STALL_PEND (i : Nat) : Field := ⟨A.MEM_STALL i, 5, 5⟩
def F.MEM_STALL_OWNER (i : Nat) : Field := ⟨A.MEM_STALL i, 4, 0⟩
def F.MEM_LOCK_STATE (i : Nat) : Field := ⟨A.MEM_LOCK i, 31, 30⟩
def F.MEM_LOCK_BROKEN (i : Nat) : Field := ⟨A.MEM_LOCK i, 29, 29⟩
def F.MEM_LOCK_WAITERS (i : Nat) : Field := ⟨A.MEM_LOCK i, 22, 16⟩
def F.MEM_LOCK_OWNER (i : Nat) : Field := ⟨A.MEM_LOCK i, 12, 0⟩
def F.BLK_CFG_LOCK : Field := ⟨A.BLK_CFG, 31, 31⟩
def F.BLK_CFG_BUDGET : Field := ⟨A.BLK_CFG, 11, 4⟩
def F.BLK_CFG_RATE : Field := ⟨A.BLK_CFG, 3, 2⟩
def F.BLK_CFG_SIZE : Field := ⟨A.BLK_CFG, 1, 0⟩
def F.BLK_STAT_UE_SEEN : Field := ⟨A.BLK_STAT, 2, 2⟩
def F.BLK_STAT_TRAIN_FAIL : Field := ⟨A.BLK_STAT, 1, 1⟩
def F.BLK_STAT_READY : Field := ⟨A.BLK_STAT, 0, 0⟩
def F.BLK_DLY_BASE_BASE : Field := ⟨A.BLK_DLY_BASE, 6, 0⟩
def F.BLK_ECC_ADDR_LO_ADDR : Field := ⟨A.BLK_ECC_ADDR_LO, 31, 0⟩
def F.BLK_ECC_ADDR_HI_ADDR : Field := ⟨A.BLK_ECC_ADDR_HI, 0, 0⟩
def F.BLK_ECC_CE_COUNT : Field := ⟨A.BLK_ECC_CE, 31, 0⟩
def F.BLK_ECC_UE_COUNT : Field := ⟨A.BLK_ECC_UE, 31, 0⟩
def F.BLK_UNDER_COUNT : Field := ⟨A.BLK_UNDER, 31, 0⟩
def F.BLK_WR_GAP_COUNT : Field := ⟨A.BLK_WR_GAP, 31, 0⟩
def F.BLK_LOAD_BYTES : Field := ⟨A.BLK_LOAD, 16, 0⟩
def F.HIF_STAT_CTL_EPOCH : Field := ⟨A.HIF_STAT, 31, 16⟩
def F.HIF_STAT_RING_ERR : Field := ⟨A.HIF_STAT, 8, 8⟩
def F.HIF_STAT_RING_ERR_ID : Field := ⟨A.HIF_STAT, 5, 0⟩
def F.HIF_SB_LO_ADDR : Field := ⟨A.HIF_SB_LO, 31, 0⟩
def F.HIF_SB_HI_ADDR : Field := ⟨A.HIF_SB_HI, 31, 0⟩
def F.HIF_HMW_BASE : Field := ⟨A.HIF_HMW, 31, 0⟩
def F.HIF_HB_EN : Field := ⟨A.HIF_HB, 31, 16⟩
def F.HIF_HB_TMO : Field := ⟨A.HIF_HB, 9, 0⟩
def F.HIF_HQ_STAT_LAPSED : Field := ⟨A.HIF_HQ_STAT, 15, 0⟩
def F.HIF_EVT_DROP_COUNT : Field := ⟨A.HIF_EVT_DROP, 31, 0⟩
def F.HIF_PW_REFUSED_COUNT : Field := ⟨A.HIF_PW_REFUSED, 31, 0⟩
def F.HIF_FW_ADDR_LO_ADDR : Field := ⟨A.HIF_FW_ADDR_LO, 31, 0⟩
def F.HIF_FW_ADDR_HI_ADDR : Field := ⟨A.HIF_FW_ADDR_HI, 31, 0⟩
def F.HIF_FW_LEN_BYTES : Field := ⟨A.HIF_FW_LEN, 22, 0⟩
def F.HIF_FW_CTRL_LOCK : Field := ⟨A.HIF_FW_CTRL, 31, 31⟩
def F.HIF_FW_CTRL_FLOOR : Field := ⟨A.HIF_FW_CTRL, 15, 8⟩
def F.HIF_FW_CTRL_GO : Field := ⟨A.HIF_FW_CTRL, 1, 1⟩
def F.HIF_FW_CTRL_SRC : Field := ⟨A.HIF_FW_CTRL, 0, 0⟩
def F.HIF_FW_STAT_REASON : Field := ⟨A.HIF_FW_STAT, 6, 4⟩
def F.HIF_FW_STAT_STATE : Field := ⟨A.HIF_FW_STAT, 2, 0⟩
def F.HIF_FW_VER_VERSION : Field := ⟨A.HIF_FW_VER, 31, 0⟩
def F.HIF_WDOG_LOCK : Field := ⟨A.HIF_WDOG, 31, 31⟩
def F.HIF_WDOG_EXPIRED : Field := ⟨A.HIF_WDOG, 23, 16⟩
def F.HIF_WDOG_TMO : Field := ⟨A.HIF_WDOG, 15, 0⟩
def F.HIF_RING_BASE_LO_ADDR (i : Nat) : Field := ⟨A.HIF_RING_BASE_LO i, 31, 0⟩
def F.HIF_RING_BASE_HI_ADDR (i : Nat) : Field := ⟨A.HIF_RING_BASE_HI i, 31, 0⟩
def F.HIF_RING_CFG_EN (i : Nat) : Field := ⟨A.HIF_RING_CFG i, 31, 31⟩
def F.HIF_RING_CFG_IRQ_N (i : Nat) : Field := ⟨A.HIF_RING_CFG i, 15, 8⟩
def F.HIF_RING_CFG_LOG2SIZE (i : Nat) : Field := ⟨A.HIF_RING_CFG i, 4, 0⟩
def F.HIF_RING_HOST_INDEX (i : Nat) : Field := ⟨A.HIF_RING_HOST i, 31, 0⟩
def F.HIF_RING_ENG_INDEX (i : Nat) : Field := ⟨A.HIF_RING_ENG i, 31, 0⟩
def F.HIF_SR_BASE_LO_ADDR (i : Nat) : Field := ⟨A.HIF_SR_BASE_LO i, 31, 0⟩
def F.HIF_SR_BASE_HI_ADDR (i : Nat) : Field := ⟨A.HIF_SR_BASE_HI i, 31, 0⟩
def F.HIF_SR_CFG_EN (i : Nat) : Field := ⟨A.HIF_SR_CFG i, 31, 31⟩
def F.HIF_SR_CFG_DIR (i : Nat) : Field := ⟨A.HIF_SR_CFG i, 30, 30⟩
def F.HIF_SR_CFG_RATE (i : Nat) : Field := ⟨A.HIF_SR_CFG i, 29, 28⟩
def F.HIF_SR_CFG_CHANNELS (i : Nat) : Field := ⟨A.HIF_SR_CFG i, 27, 22⟩
def F.HIF_SR_CFG_CFG_REJ (i : Nat) : Field := ⟨A.HIF_SR_CFG i, 21, 21⟩
def F.HIF_SR_CFG_IRQ_TICKS (i : Nat) : Field := ⟨A.HIF_SR_CFG i, 15, 8⟩
def F.HIF_SR_CFG_LOG2SIZE (i : Nat) : Field := ⟨A.HIF_SR_CFG i, 4, 0⟩
def F.HIF_SR_START_TICK (i : Nat) : Field := ⟨A.HIF_SR_START i, 31, 0⟩
def F.HIF_SR_HOST_INDEX (i : Nat) : Field := ⟨A.HIF_SR_HOST i, 31, 0⟩
def F.HIF_SR_UNDER_COUNT (i : Nat) : Field := ⟨A.HIF_SR_UNDER i, 31, 0⟩
def F.HIF_SR_OVER_COUNT (i : Nat) : Field := ⟨A.HIF_SR_OVER i, 31, 0⟩
def F.HIF_SR_LATE_COUNT (i : Nat) : Field := ⟨A.HIF_SR_LATE i, 31, 0⟩
def F.RST_CAUSE_CLKLOSS_DOM : Field := ⟨A.RST_CAUSE, 23, 16⟩
def F.RST_CAUSE_SOURCE : Field := ⟨A.RST_CAUSE, 9, 0⟩
def F.RST_DOMAIN_CLK_GOOD : Field := ⟨A.RST_DOMAIN, 15, 8⟩
def F.RST_DOMAIN_HELD : Field := ⟨A.RST_DOMAIN, 7, 0⟩
def F.RST_SOFT_HOLD : Field := ⟨A.RST_SOFT, 15, 8⟩
def F.RST_SOFT_PULSE : Field := ⟨A.RST_SOFT, 7, 0⟩
def F.RST_CFG_LOCK : Field := ⟨A.RST_CFG, 31, 31⟩
def F.RST_CFG_WDOG_REACH : Field := ⟨A.RST_CFG, 23, 16⟩
def F.RST_CFG_GAP : Field := ⟨A.RST_CFG, 15, 0⟩
def F.RST_QTMO_TIMEOUTS : Field := ⟨A.RST_QTMO, 31, 24⟩
def F.RST_QTMO_TMO : Field := ⟨A.RST_QTMO, 13, 0⟩
def F.RST_STRAP_CODE : Field := ⟨A.RST_STRAP, 21, 16⟩
def F.RST_STRAP_BAND : Field := ⟨A.RST_STRAP, 15, 12⟩
def F.RST_STRAP_BOOT : Field := ⟨A.RST_STRAP, 11, 10⟩
def F.RST_STRAP_ROLE : Field := ⟨A.RST_STRAP, 9, 8⟩
def F.RST_STRAP_FAMILY : Field := ⟨A.RST_STRAP, 7, 7⟩
def F.RST_STRAP_PORT0 : Field := ⟨A.RST_STRAP, 6, 6⟩
def F.RST_STRAP_OPEN : Field := ⟨A.RST_STRAP, 5, 5⟩
def F.RST_SUP_STAT_MUTED : Field := ⟨A.RST_SUP_STAT, 18, 18⟩
def F.RST_SUP_STAT_PFAIL_SEEN : Field := ⟨A.RST_SUP_STAT, 17, 17⟩
def F.RST_SUP_STAT_PFAIL : Field := ⟨A.RST_SUP_STAT, 16, 16⟩
def F.RST_SUP_STAT_BELOW : Field := ⟨A.RST_SUP_STAT, 15, 8⟩
def F.RST_SUP_STAT_WARN_SEEN : Field := ⟨A.RST_SUP_STAT, 7, 0⟩
def F.RST_SUP_CTRL_PFAIL_EN : Field := ⟨A.RST_SUP_CTRL, 1, 1⟩
def F.RST_SUP_CTRL_WARN_MUTE : Field := ⟨A.RST_SUP_CTRL, 0, 0⟩
def F.RST_TACK_STAT_BKP_VALID : Field := ⟨A.RST_TACK_STAT, 15, 8⟩
def F.RST_TACK_STAT_BKP_BAD : Field := ⟨A.RST_TACK_STAT, 2, 2⟩
def F.RST_TACK_STAT_TACK_BAD : Field := ⟨A.RST_TACK_STAT, 1, 1⟩
def F.RST_TACK_STAT_TACK_VALID : Field := ⟨A.RST_TACK_STAT, 0, 0⟩
def F.RST_TACK_SEAL_SEAL : Field := ⟨A.RST_TACK_SEAL, 0, 0⟩
def F.RST_TACK_PTR_OFFSET : Field := ⟨A.RST_TACK_PTR, 11, 0⟩
def F.RST_TACK_DATA_DATA : Field := ⟨A.RST_TACK_DATA, 31, 0⟩
def F.RST_BKP_DATA (i : Nat) : Field := ⟨A.RST_BKP i, 31, 0⟩
def F.TST_CTRL_AUTO_REPAIR : Field := ⟨A.TST_CTRL, 6, 6⟩
def F.TST_CTRL_FORCE_ADDR : Field := ⟨A.TST_CTRL, 5, 5⟩
def F.TST_CTRL_START : Field := ⟨A.TST_CTRL, 4, 4⟩
def F.TST_CTRL_GROUPS : Field := ⟨A.TST_CTRL, 3, 0⟩
def F.TST_CFG_FAR : Field := ⟨A.TST_CFG, 18, 15⟩
def F.TST_CFG_SYS_SIZE : Field := ⟨A.TST_CFG, 14, 0⟩
def F.TST_STAT_RUN : Field := ⟨A.TST_STAT, 16, 16⟩
def F.TST_STAT_RESULT : Field := ⟨A.TST_STAT, 15, 0⟩
def F.TST_FAIL_CNT_COUNT : Field := ⟨A.TST_FAIL_CNT, 31, 0⟩
def F.TST_ANA_CHECK : Field := ⟨A.TST_ANA, 9, 0⟩
def F.TST_SIG_LO_SIG (i : Nat) : Field := ⟨A.TST_SIG_LO i, 31, 0⟩
def F.TST_SIG_HI_SIG (i : Nat) : Field := ⟨A.TST_SIG_HI i, 31, 0⟩
def F.TST_FAIL_ADDR_VALUE (i : Nat) : Field := ⟨A.TST_FAIL_ADDR i, 31, 0⟩
def F.TST_FAIL_BIT_VALUE (i : Nat) : Field := ⟨A.TST_FAIL_BIT i, 6, 0⟩
def F.TST_RPR_ADD_ENTRY : Field := ⟨A.TST_RPR_ADD, 31, 0⟩
def F.TST_RPR_STAT_BAD : Field := ⟨A.TST_RPR_STAT, 31, 16⟩
def F.TST_RPR_STAT_BUSY : Field := ⟨A.TST_RPR_STAT, 8, 8⟩
def F.TST_RPR_STAT_COUNT : Field := ⟨A.TST_RPR_STAT, 6, 0⟩
def F.TST_LOFT_HEAD_VALUE : Field := ⟨A.TST_LOFT_HEAD, 31, 0⟩
def F.TST_LOFT_FLUSHED_VALUE : Field := ⟨A.TST_LOFT_FLUSHED, 31, 0⟩
def F.TST_LOFT_LOST_VALUE : Field := ⟨A.TST_LOFT_LOST, 31, 0⟩
def F.TST_EVT_SUPPR_VALUE : Field := ⟨A.TST_EVT_SUPPR, 31, 0⟩
def F.TST_EVF_CFG_EN : Field := ⟨A.TST_EVF_CFG, 31, 31⟩
def F.TST_EVF_CFG_BASE : Field := ⟨A.TST_EVF_CFG, 30, 16⟩
def F.TST_EVF_CFG_SECTORS : Field := ⟨A.TST_EVF_CFG, 8, 0⟩
def F.TST_EVF_ERASED_OFFSET : Field := ⟨A.TST_EVF_ERASED, 31, 0⟩
def F.TST_EVF_WPTR_OFFSET : Field := ⟨A.TST_EVF_WPTR, 31, 0⟩
def F.TST_EVF_STAT_FLASH_ERR : Field := ⟨A.TST_EVF_STAT, 2, 2⟩
def F.TST_EVF_STAT_FLASH_STALL : Field := ⟨A.TST_EVF_STAT, 1, 1⟩
def F.TST_EVF_STAT_FLUSHING : Field := ⟨A.TST_EVF_STAT, 0, 0⟩
def F.TST_EVT_POST_W_VALUE (i : Nat) : Field := ⟨A.TST_EVT_POST_W i, 31, 0⟩
def F.TST_EVT_POST_CODE_VALUE : Field := ⟨A.TST_EVT_POST_CODE, 31, 0⟩
def F.TST_OPTIME_LO_VALUE : Field := ⟨A.TST_OPTIME_LO, 31, 0⟩
def F.TST_OPTIME_HI_VALUE : Field := ⟨A.TST_OPTIME_HI, 7, 0⟩
def F.TST_PCYC_VALUE : Field := ⟨A.TST_PCYC, 23, 0⟩
def F.TST_PERSIST_LOADED : Field := ⟨A.TST_PERSIST, 1, 1⟩
def F.TST_PERSIST_LOAD : Field := ⟨A.TST_PERSIST, 0, 0⟩

end Sys2Proof.Machine
end

