-- ==== Sys2Proof/Machine/Tbl.lean ====
section
/-! DEFINITION. Sparse tables in canonical form: one reading and one writing operation for every array of the block. -/

namespace Sys2Proof

/-- The value at key `k`, or the table's default `d`. -/
def Tbl.get {α : Type} (t : Tbl α) (d : α) (k : Nat) : α :=
  match t with
  | [] => d
  | (k', v) :: rest => if k' = k then v else if k < k' then d else Tbl.get rest d k

/-- The listed value at key `k`. -/
def Tbl.find {α : Type} (t : Tbl α) (k : Nat) : Option α := (List.find? (fun e => decide (e.1 = k)) t).map (·.2)

/-- Put `v` at `k` in a rising list. -/
def Tbl.put {α : Type} (t : Tbl α) (k : Nat) (v : α) : Tbl α :=
  match t with
  | [] => [(k, v)]
  | (k', v') :: rest =>
    if k < k' then (k, v) :: (k', v') :: rest
    else if k = k' then (k, v) :: rest
    else (k', v') :: Tbl.put rest k v

/-- Drop key `k` from a rising list. -/
def Tbl.del {α : Type} (t : Tbl α) (k : Nat) : Tbl α :=
  match t with
  | [] => []
  | (k', v') :: rest =>
    if k < k' then (k', v') :: rest
    else if k = k' then rest
    else (k', v') :: Tbl.del rest k

/-- Write `v` at `k`: an entry equal to the default `d` is not listed. -/
def Tbl.set {α : Type} [DecidableEq α] (t : Tbl α) (d : α) (k : Nat) (v : α) : Tbl α :=
  if v = d then Tbl.del t k else Tbl.put t k v

/-- Keys strictly rise. -/
def Tbl.rising {α : Type} : Tbl α → Bool
  | [] => true
  | [_] => true
  | (a, _) :: (b, v) :: rest => decide (a < b) && Tbl.rising ((b, v) :: rest)

/-- The canonical form over the default function `d`. -/
def Tbl.wf {α : Type} [DecidableEq α] (d : Nat → α) (t : Tbl α) : Bool :=
  Tbl.rising t && t.all (fun p => decide (p.2 ≠ d p.1))

/-- Apply `f` to every listed value; the caller keeps values off the default. -/
def Tbl.mapVals {α : Type} [DecidableEq α] (d : α) (f : Nat → α → α) : Tbl α → Tbl α
  | [] => []
  | (k, v) :: rest =>
    if f k v = d then Tbl.mapVals d f rest else (k, f k v) :: Tbl.mapVals d f rest

/-- Keep the entries whose key and value satisfy `p`. -/
def Tbl.keep {α : Type} (p : Nat → α → Bool) (t : Tbl α) : Tbl α := t.filter (fun e => p e.1 e.2)

end Sys2Proof
end

