-- ==== Sys2Proof/Machine/State.lean ====
section
/-! DEFINITION. The state of the block as plain data, its reset value, and the ways a step can end other than in a next
state. Sparse arrays are tables in canonical form, memories are lists of address and byte pairs in canonical form. -/

namespace Sys2Proof.Machine

open Sys2Proof.Arith

/-- The faults of this block. The spec describes an effect for every command (R9 to R470), so no meaning raises one;
the type stands for the host's interface. Safe. -/
inductive Fault
  | none
  deriving DecidableEq, Repr

/-- The refusals of this block. `notModelled` is raised by `exec` alone, for a command without a meaning yet. Safe. -/
inductive Refusal
  | notModelled (mnemonic : String)
  deriving DecidableEq, Repr

/-! ### Scarab cores (R111 to R151) -/

/-- What a result in flight writes (R128, R130): a register, the value RNDA and ACCADD see of an accumulator, or a word
of local memory. -/
inductive Dst
  | d (n : Nat)
  | a (n : Nat)
  | b (n : Nat)
  | l (n : Nat)
  | accR (n : Nat)
  | mem (addr : Nat)
  deriving DecidableEq, Repr

/-- A result in flight and the first cycle whose instructions see it (R128). -/
structure Inflight where
  ready : Nat
  dst : Dst
  val : W72
  deriving DecidableEq, Repr

/-- One level of REPEAT (R133): first body address, length, iterations left. -/
structure LoopFrame where
  start : Nat
  len : Nat
  left : Nat
  deriving DecidableEq, Repr

/-- What a control transfer does after its delay slots (R132). -/
inductive Transfer
  | goto (target : Nat)
  | endTask
  | ret
  deriving DecidableEq, Repr

/-- A control transfer whose delay slots are still to run. -/
structure Delay where
  xfer : Transfer
  left : Nat
  deriving DecidableEq, Repr

/-- Why a core issues nothing (R131, R122): FWAIT, an FFT behind a running job, or TEND's wait. -/
inductive Stall
  | fwait
  | fft (f : GFmt)
  | tend
  deriving DecidableEq, Repr

/-- What an interrupt saved (R136). -/
structure Saved where
  pc : Nat := 0
  loops : List LoopFrame := []
  delay : Option Delay := none
  stall : Option Stall := none
  ien : Nat := 0
  deriving DecidableEq, Repr

/-- A message waiting in an inbound queue (R144), for task `task` of slot `slot`. -/
structure InMsg where
  words : List W32
  slot : Nat
  task : Nat
  mode : Nat
  tick : W32
  released : Bool
  deriving DecidableEq, Repr

/-- A message waiting in an outbound queue (R145). -/
structure OutMsg where
  words : List W32
  task : Nat
  tick : W32
  deriving DecidableEq, Repr

/-- A mover transfer (R142); `base` and `size` are the region of the task that started it. -/
structure MoverJob where
  base : Nat
  size : Nat
  toYard : Bool
  qos : Nat
  loc : Nat
  rem : Nat
  len : Nat
  deriving DecidableEq, Repr

/-- An FFT job (R138): the word address of point 0 in the core's local memory, log2 of the points, INV, KEEP. `spoiled`
marks a write to the points while the job ran (R140). -/
structure FftJob where
  core : Nat
  base : Nat
  lg : Nat
  inv : Bool
  keep : Bool
  spoiled : Bool
  deriving DecidableEq, Repr

/-- What a task did at its last scheduled dispatch: it waits for it, ended by TEND, was skipped, or was stopped by a fault or an
overrun. -/
inductive TaskRun
  | waiting
  | ended
  | skipped
  | stopped
  deriving DecidableEq, Repr

/-- A task on a core (R115 to R121, R148). Addresses and sizes are in words. -/
structure Task where
  slot : Nat
  idx : Nat
  node : Nat
  kind : Nat
  base : Nat
  size : Nat
  codeWords : Nat
  entry : Nat
  mbHandler : Nat
  errHandler : Nat
  xb : Nat
  nin : Nat
  yb : Nat
  nout : Nat
  cycles : List Nat
  faulted : Bool := false
  first : Bool := true
  wasIdle : Bool := false
  run : TaskRun := .waiting
  period : Option Nat := none
  deriving DecidableEq, Repr

/-- A Scarab core. `running` is the slot and index of the task it runs, dispatched in cycle `dispatched`; `endAt` the cycle at
which the second delay slot of its TEND ended (R120); `gated` whether the core is power-gated in this tick (R122); `upsets`
what the error checks of instruction fetches, register files and the loop buffer find in this run, by the cycle from which it
shows (R114, R148); `holds` the task that asked for a lock: lock, slot, index (R143); `fftDone` the exponents of finished
jobs and their KEEP, oldest first (R139). -/
structure Core where
  d : Tbl W32 := []
  a : Tbl W16 := []
  b : Tbl W16 := []
  l : Tbl W16 := []
  acc : Tbl W72 := []
  accR : Tbl W72 := []
  bexp : Nat := 0
  pc : Nat := 0
  ien : Nat := 0
  flags : Nat := 0
  errst : Nat := 0
  retPc : Nat := 0
  cycle : Nat := 0
  inflight : List Inflight := []
  loops : List LoopFrame := []
  delay : Option Delay := none
  stall : Option Stall := none
  atPoint : Bool := true
  saved : Saved := {}
  inHandler : Bool := false
  mboxReq : Bool := false
  errReq : Bool := false
  tasks : List Task := []
  running : Option (Nat × Nat) := none
  dispatched : Nat := 0
  endAt : Option Nat := none
  gated : Bool := false
  upsets : List (Nat × MemCheck) := []
  holds : List (Nat × Nat × Nat) := []
  mbin : List InMsg := []
  mbout : List OutMsg := []
  xin : Tbl W32 := []
  xout : Tbl W32 := []
  xinAlt : Tbl W32 := []
  xoutAlt : Tbl W32 := []
  mvLoc : Nat := 0
  mvRem : Nat := 0
  mvLen : Nat := 0
  mover : Option MoverJob := none
  mvErr : Bool := false
  lkState : Nat := 0
  lkBroken : Bool := false
  lkLock : Nat := 0
  fftDone : List (Nat × Bool) := []
  test : Bool := false
  faultRead : Bool := true
  deriving DecidableEq, Repr

/-- An FFT unit (R138): the job it runs and the jobs waiting, oldest first. -/
structure FftUnit where
  job : Option FftJob := none
  waiting : List FftJob := []
  deriving DecidableEq, Repr

/-! ### Programs (R39 to R53) -/

/-- A node table entry (R42). -/
structure Node where
  key : Nat
  type : Nat
  stage : Nat
  rate : Nat
  phase : Nat
  position : Nat
  pset : Nat
  edgeFirst : Nat
  edgeCount : Nat
  config : Nat
  bind : Nat
  cost : Nat
  mxIn : Nat
  deriving DecidableEq, Repr

/-- An edge entry (R43). -/
structure Edge where
  src : Nat
  dst : Nat
  srcPort : Nat
  dstPort : Nat
  reference : Bool
  deriving DecidableEq, Repr

/-- A parameter-set entry (R47). -/
structure PSet where
  off : Nat
  size : Nat
  node : Nat
  group : Nat
  deriving DecidableEq, Repr

/-- A commit-group entry (R48). -/
structure Group where
  group : Nat
  zc : Nat
  stepping : Bool
  deriving DecidableEq, Repr

/-- A schedule entry (R50), with its index in its section. -/
structure SEntry where
  index : Nat
  node : Nat
  lane : Nat
  kind : Nat
  xfirst : Nat
  xcount : Nat
  deriving DecidableEq, Repr

/-- A task table entry (R53). -/
structure TaskEntry where
  node : Nat
  core : Nat
  kind : Nat
  codeOff : Nat
  codeSize : Nat
  dataSize : Nat
  cycles : List Nat
  entry : Nat
  deriving DecidableEq, Repr

/-- A program image, parsed. Schedules are 24 lists, in descriptor order (R49). -/
structure Prog where
  pid : Nat := 0
  pred : Nat := 0
  family : Nat := 0
  nodes : List Node := []
  edges : List Edge := []
  xps : List Nat := []
  psets : List PSet := []
  pdata : List Nat := []
  groups : List Group := []
  sched : List (List SEntry) := []
  xf : Option (List (List SEntry)) := none
  tasks : List TaskEntry := []
  code : List Nat := []
  deriving DecidableEq, Repr

/-! ### Node state (R70) and gains (R191) -/

/-- A fade: step k of n from factor g0 to g1 (R76). -/
structure Fade where
  g0 : Int
  g1 : Int
  k : Nat
  n : Nat
  deriving DecidableEq, Repr

/-- A gain parameter in WAIT or RAMP (R191); a parameter without an entry is STEADY. -/
structure GainSt where
  ramp : Bool
  g : Int
  g1 : Int
  tick : Nat
  z : Nat
  k : Nat
  deriving DecidableEq, Repr

/-- One input of a PRIO node (R95). -/
structure PrioIn where
  g : Int := 2 ^ 28
  goal : Int := 2 ^ 28
  start : Int := 2 ^ 28
  k : Nat := 1
  n : Nat := 1
  act : Bool := false
  hc : Nat := 0
  deriving DecidableEq, Repr

/-- Voice states (R108). -/
inductive VoiceSt
  | idle
  | playing
  | fading
  | ended
  deriving DecidableEq, Repr

/-- Recorder states (R109). -/
inductive RecSt
  | idle
  | recording
  | full
  deriving DecidableEq, Repr

/-- The state of one node; a node uses the fields its type needs, and the defaults are the cleared values (R70). -/
structure NodeSt where
  bqs : Tbl Bq := []
  dyns : Tbl Dyn := []
  boost : Int := 0
  noise : Int := -2031616
  noiseDue : Option Int := none
  prio : Tbl PrioIn := []
  line : List Int := []
  hist : List Int := []
  due : List (Nat × Int) := []
  prev : Tbl Int := []
  active : Bool := false
  quiet : Nat := 0
  voice : VoiceSt := .idle
  recd : RecSt := .idle
  pos : Nat := 0
  run : Bool := false
  fade : Option Fade := none
  last : Int := 0
  starved : Bool := false
  deriving DecidableEq, Repr

/-- The samples a node put out in one tick, port by port, in time order (R17, R119), and a MIX node's exact sums
(R277). -/
structure Blk where
  tick : Nat
  ports : List (List Int)
  exact : List Int := []
  deriving DecidableEq, Repr

/-- A program slot's contents (R60, R180). Its STATE, LAST_ERR and PID are ENG registers. -/
structure Slot where
  prog : Prog := {}
  xfOk : Bool := true
  checked : Option Prog := none
  act : Tbl W32 := []
  shadow : Tbl W32 := []
  gains : Tbl GainSt := []
  nodes : Tbl NodeSt := []
  outs : Tbl (List Blk) := []
  deriving DecidableEq, Repr

/-! ### Scene changes (R183 to R198) -/

/-- The host command a later completion answers (R389). -/
structure CmdRef where
  op : Nat
  tag : Nat
  index : Nat
  late : Bool
  deriving DecidableEq, Repr

/-- A completion entry (R389). -/
structure Completion where
  op : Nat
  late : Bool
  tag : Nat
  code : Nat
  tick : W32
  index : Nat
  res : List W32
  deriving DecidableEq, Repr

/-- A commit waiting for its fence (R184). -/
structure FenceWait where
  slot : Nat
  group : Nat
  target : W32
  fence : W32
  lateOk : Bool
  ack : Bool
  ref : CmdRef
  deriving DecidableEq, Repr

/-- A pending commit (R186); `due` counts engine ticks. -/
structure PendCommit where
  slot : Nat
  group : Nat
  due : Nat
  ref : CmdRef
  deriving DecidableEq, Repr

/-- A slot command's kind. -/
inductive SlotOp
  | activate
  | stop
  | crossfade (len warm : Nat)
  deriving DecidableEq, Repr

/-- A slot command accepted and not yet in effect (R196). -/
structure SlotCmd where
  op : SlotOp
  slot : Nat
  due : Nat
  ref : CmdRef
  deriving DecidableEq, Repr

/-- A crossfade from its warm-up on (R198). -/
structure XfRun where
  old : Nat
  new : Nat
  t : Nat
  len : Nat
  warm : Nat
  ref : CmdRef
  deriving DecidableEq, Repr

/-- A task restart waiting for its tick (R388). -/
structure Restart where
  slot : Nat
  task : Nat
  due : Nat
  ref : CmdRef
  deriving DecidableEq, Repr

/-- A load in progress (R60, R61). -/
structure LoadJob where
  slot : Nat
  len : Nat
  ref : CmdRef
  deriving DecidableEq, Repr

/-- An accepted adaptive write (R176). -/
structure AdaptPend where
  w : AdaptW
  due : Nat
  deriving DecidableEq, Repr

/-- What a zone position's analysis and adaptation hold (R165, R166, R175 to R178). -/
structure ZoneSt where
  lastN : Option Int := none
  missing : Nat := 0
  queued : List (Nat × Option Int) := []
  gainOwned : Bool := false
  gainBase : Int := 0
  offset : Int := 0
  eqOwned : List (Nat × Nat × Nat) := []
  stepAt : Option Nat := none
  lastEnd : Option Nat := none
  result : Option (EstResult × Nat) := none
  deriving DecidableEq, Repr

/-- A notch of the feedback suppressor (R170): frequency in Hz times 16, depth in LV32, samples without howl, filter state. -/
structure Notch where
  freq : Nat
  depth : Int
  quiet : Nat
  st : List Int := [0, 0, 0, 0]
  deriving DecidableEq, Repr

/-- A channel of a feedback suppressor (R169, R170): notches, oldest first, samples since the last analysis, and what the last
analyses found strongest (frequency, level above the average spectrum), newest first. -/
structure HowlCh where
  notches : List Notch := []
  count : Nat := 0
  seen : List (Nat × Int) := []
  deriving DecidableEq, Repr

/-- A channel of an echo canceller (R168): taps, TAIL in force, the quarter whose turn it is, the levels of reference,
microphone and echo estimate, and of this period double talk, freeze and silence seen and what the ERLE is formed from. -/
structure EchoCh where
  taps : Tbl Int := []
  tail : Nat := 0
  turn : Nat := 0
  refLv : Int := -2031616
  micLv : Int := -2031616
  echoLv : Int := -2031616
  double : Bool := false
  frozen : Bool := false
  silent : Bool := false
  erle : Int := 0
  deriving DecidableEq, Repr

/-- One period of an estimator's microphone (R156, R161, R163, R164): by cell G_xx, G_yy and both parts of G_xy, by band Ix and
Iy, gap samples, their power, whether a sample was at either end of the range, its first sample, and whether another came. -/
structure MicPeriod where
  cells : Tbl (List Int) := []
  bands : Tbl (List Int) := []
  gaps : Nat := 0
  power : Int := 0
  clipped : Bool := false
  first : Option Int := none
  moved : Bool := false
  deriving DecidableEq, Repr

/-- A microphone of an estimator: the period that runs, the periods before it, newest first, and the delay last reported. -/
structure EstMic where
  now : MicPeriod := {}
  past : List MicPeriod := []
  delay : Option Nat := none
  deriving DecidableEq, Repr

/-- A zone of an estimator: the reference's samples, newest first, the runs of engine ticks in which it was not below GAP_THR
(first and last, newest first), whether it was so in this period and in the last one, and the microphones. -/
structure EstZone where
  hist : List Int := []
  loud : List (Nat × Nat) := []
  heard : Bool := false
  heardBefore : Bool := false
  mics : Tbl EstMic := []
  deriving DecidableEq, Repr

/-- What a task of the library keeps in its region (R152): an estimator's zones, a canceller's reference samples (newest first)
and channels, a suppressor's channels. -/
structure VendorSt where
  zones : Tbl EstZone := []
  hist : List Int := []
  echo : Tbl EchoCh := []
  howl : Tbl HowlCh := []
  deriving DecidableEq, Repr

/-- The engine beside its registers: `tick` counts ticks; `hashes` holds egress hashes by SCNT (R328); `portOut` and
`recOut` hold what egress of this tick gave serial ports and recorders (tick, bulk address, bytes); `vendor` holds what the library's tasks keep, by 16,384 times the core plus the region's base; `fatal` the tick of a
fatal local fault not yet acted on (R327), `overAt` the last tick in which a stage did not finish (R67), `amp` the GPIO lines that SILENCE nodes hold low since the
last boundary (R104). -/
structure Eng where
  tick : Nat := 0
  slots : Tbl Slot := []
  fences : List FenceWait := []
  pend : List PendCommit := []
  cmd : Option SlotCmd := none
  xf : Option XfRun := none
  restarts : List Restart := []
  loads : List LoadJob := []
  stopping : Option (Nat × Nat) := none
  adapts : List AdaptPend := []
  zones : Tbl ZoneSt := []
  vendor : Tbl VendorSt := []
  portOut : Tbl (List (List Int)) := []
  recOut : List (Nat × Nat × List Nat) := []
  hashes : List (Nat × Nat) := []
  fatal : Option Nat := none
  overAt : Option Nat := none
  amp : Nat := 0
  deriving DecidableEq, Repr

/-! ### Host interface (R380 to R411) -/

/-- A stream ring's state beside its registers (R399 to R401). -/
structure StreamSt where
  eng : W32 := 0
  held : List (Nat × List W32) := []
  queued : List (Nat × List W32) := []
  last : Tbl Int := []
  fade : Option Fade := none
  starved : Bool := false
  sinceIrq : Nat := 0
  deriving DecidableEq, Repr

/-- The host interface beside its registers: internal indices, completions and events that wait, events lost, the event
sequence number and mask, the status block's address and whether a value in it changed, MSI-X messages sent, table and
pending bits, entries since a ring's last message, stream rings, heartbeats by time base, whether the watchdog runs, an
indirect parameter write in progress, images tried, whether the loader waits for a neighbour's image and what it has of it
(offset, length, XFLAGS). -/
structure Hif where
  eng : Tbl W32 := []
  comps : List Completion := []
  events : List (Nat × Event) := []
  dropped : Nat := 0
  evSeq : Nat := 0
  mask : Nat := 31
  sb : Option Nat := none
  sbDirty : Bool := false
  msix : Tbl Nat := []
  msixTbl : Tbl W32 := []
  msixPend : Tbl Bool := []
  sinceIrq : Tbl Nat := []
  streams : Tbl StreamSt := []
  hbAge : Tbl Nat := []
  wdogRun : Bool := false
  indirect : Option PwEntry := none
  tried : List Nat := []
  neighbour : Bool := false
  nb : List (Nat × Nat × Nat) := []
  deriving DecidableEq, Repr

/-! ### Event records (R434 to R440) -/

/-- The Loft beside its registers and its record memory (Yard 1300_0000h): tokens (R436), records suppressed since the
last accepted one, units of 1/1,024 s since the last unit of 1/16 s and since POR, the operating time of the next TIME_MARK
(R437), and the counter values written before LOAD (R445). -/
structure Loft where
  tokens : Nat := 256
  suppressed : Nat := 0
  frac : Nat := 0
  sincePor : Nat := 0
  nextMark : Nat := 65536
  lo : Option W32 := none
  hi : Option W32 := none
  pcyc : Option W32 := none
  deriving DecidableEq, Repr

/-! ### Serial audio ports and microphones (R206 to R226) -/

/-- What a slot of a port does with its samples (R218, R220). -/
inductive SlotPh
  | silent
  | waitIn
  | pass
  | fadeIn
  | waitOut
  | fadeOut
  deriving DecidableEq, Repr

/-- A slot of one direction of a port: its phase, the tick a wait began, its mask, start or stop fade, its sample before,
and whether the fade is that of the port's start. -/
structure SlotSt where
  ph : SlotPh := .silent
  since : Nat := 0
  fade : Option Fade := none
  prev : Int := 0
  start : Bool := false
  deriving DecidableEq, Repr

/-- What befalls the slots of a direction at a frame (R218 to R220): an active mask that takes the place of another while the
port runs or not; the port's stop and its start, for the slots of a mask, in a tick, and whether the direction had faded out on
a lost clock. -/
inductive SlotAct where
  | mask (old new : Nat) (live : Bool)
  | stop (act t : Nat)
  | start (act t : Nat) (dry : Bool)
  deriving DecidableEq, Repr

/-- A frame in a crossing queue, and what its slots meet before it. -/
structure QFrame where
  acts : List SlotAct := []
  xs : List Int := []
  deriving DecidableEq, Repr

/-- One direction of a port's crossing (R27, R222): frames waiting, oldest first; whether the queue has started; the
last frame; an underrun and its fade; the ASRC's position in units of 2^-24 external samples. `ready` holds the frames of the
tick that the engine's side of the queue has read, or has yet to hand in; `line` what the ASRC's 2 ticks of delay hold (R212);
`acts` what the slots meet at the next frame to arrive. -/
structure PortDir where
  queue : List QFrame := []
  ready : List (List Int) := []
  line : List QFrame := []
  acts : List SlotAct := []
  primed : Bool := false
  last : List Int := []
  starved : Bool := false
  fade : Option Fade := none
  pos : Nat := 0
  slots : Tbl SlotSt := []
  mask : Option Nat := none
  deriving DecidableEq, Repr

/-- A port beside its registers: both directions (`mask` holds a mask that was latched), the frames ingest gathers in
this tick, the levels of SDO in the present frame by bit position (none is high impedance), frames of correct length in a row,
frames since every slot was silent, whether the latch point of the present frame is past, whether a mode 0 port drives its
clocks, and the frames launched in the present tick (R210). -/
structure PortSt where
  rx : PortDir := {}
  tx : PortDir := {}
  now : List (List Int) := []
  out : List (Option Bool) := []
  good : Nat := 0
  quiet : Nat := 0
  latched : Bool := false
  clk : Bool := false
  sent : Nat := 0
  deriving DecidableEq, Repr

/-- A microphone (R225, R226): integrators, differentiators' earlier values, samples at 4·Fb newest first, its sample at
Fb and what ingest gathers of it, the tick its settling ends, its fade, and whether it runs. -/
structure MicSt where
  i : List Nat := [0, 0, 0, 0]
  c : List Nat := [0, 0, 0, 0]
  hist : List Int := []
  y : Int := 0
  now : Int := 0
  run : Bool := false
  settle : Option Nat := none
  fade : Option Fade := none
  deriving DecidableEq, Repr

/-! ### Reference, clock and time (R288 to R316) -/

/-- A reference input beside its registers (R289, R291, R293): its presence as the detectors last reported it, good and
hard counts, and consecutive readings as QUALIFIED. -/
structure RefIn where
  here : Bool := false
  good : Nat := 0
  hard : Nat := 0
  run : Nat := 0
  deriving DecidableEq, Repr

/-- An FSYNC output (R301): reference edges counted, edges missed in a row, whether it has stopped, the last 16 reference
instants (newest first), and its last two pulses (newest first), each as the ECLK cycles of its edges. -/
structure FsOut where
  edges : Nat := 0
  missed : Nat := 0
  stopped : Bool := false
  refs : List Int := []
  pulses : List (Int × Int) := []
  deriving DecidableEq, Repr

/-- The reference and clock unit beside its registers: inputs, the history of mean DCO words (newest first, R298), the
words of this second, whether every phase error of it was within 256 cycles, whether the second so far counts as valid,
whether the build-out is set, the build-out in units of 10^-9 cycles (R297), the FSYNC outputs, and the word last asked
for, before its limit (R299). -/
structure ClkSt where
  inputs : Tbl RefIn := []
  hist : List (Option Int) := []
  words : List Int := []
  calm : Bool := true
  steady : Bool := false
  built : Bool := false
  b : Int := 0
  fs : Tbl FsOut := []
  ask : Int := 0
  deriving DecidableEq, Repr

/-- A timescale (R302, R303, R310): its time in units of 2^-32 ns, its increment in use, XO cycles since the last
measurement and as TRACKING, whether a request waits for a frame, the last request's T1 and tick, the requests to answer
by port (T1, T2), the tick of the last measurement, and the time at the last frequency reading with the XO cycles since
(R290). -/
structure Timescale where
  t : Nat := 0
  inc : Nat := 0x1458555555
  quiet : Nat := 0
  track : Nat := 0
  want : Bool := false
  due : Nat := 0
  sent : Option (Nat × Nat) := none
  owed : Tbl (Option (Nat × Nat)) := []
  last : Option Nat := none
  seen : Nat := 0
  passed : Nat := 0
  deriving DecidableEq, Repr

/-- A Firefly (R314): the main time of its next occurrence and of its pulse's two edges, in ns. -/
structure Firefly where
  next : Option Nat := none
  start : Nat := 0
  stop : Nat := 0
  deriving DecidableEq, Repr

/-- A frame or bulk unit the host sends (R315, R398): KIND, lane or port, launch time in ns, whether a completion is
asked for, FLOW, XFLAGS, PEER, OFFSET, ring index, data. -/
structure SendEntry where
  kind : Nat
  place : Nat
  launch : Nat
  report : Bool
  flow : Nat
  xflags : Nat
  peer : Nat
  offset : Nat
  index : Nat
  data : List Nat
  deriving DecidableEq, Repr

/-- What a lane's IEEE 1588 port is configured to (R388). -/
structure PtpCfg where
  role : Nat := 0
  prio : Nat := 0
  intervals : Nat := 0
  deriving DecidableEq, Repr

/-- A timestamp of an IEEE 1588 event message (R308, R313): lane, direction, messageType, domainNumber, sequenceId, both
timescales in units of 2^-16 ns. -/
structure PtpStamp where
  lane : Nat
  tx : Bool
  kind : Nat
  domain : Nat
  seq : Nat
  ts0 : Int
  ts1 : Int
  deriving DecidableEq, Repr

/-- The time unit beside its registers: XO cycles in units of 2^-32 left over, timescales, MAIN_OFS in units of
2^-32 ns, whether the other timescale stands in for MAIN, Fireflies, the last second checked (R306), the timed queues of
the lanes, scheduled sections by port, skew measurements by port (newest first), IEEE 1588 ports, messages and stamps. -/
structure TimSt where
  xo : Nat := 0
  ts : Tbl Timescale := []
  ofs : Int := 0
  fall : Bool := false
  ff : Tbl Firefly := []
  checked : Option Nat := none
  timed : Tbl (List SendEntry) := []
  sched : Tbl (List SendEntry) := []
  skews : Tbl (List Int) := []
  ptp : Tbl PtpCfg := []
  stamps : List PtpStamp := []
  deriving DecidableEq, Repr

/-! ### Serial lanes (R229 to R249) -/

/-- A lane beside its registers: valid headers in HUNT, headers and invalid headers of the lock window, blocks since
LOCKED and the places of the last 16 invalid headers (R236, R237), scrambler and descrambler states and payload bits
taken (R231), whether a frame is open, the last lane-identification block (R233), the last block delivered (marked as an error,
header, payload), what TXBLK has left over, and the last Ethernet frame sent. Of the transmitter: the 66-bit words, header and
payload, that it put on the line in the last tick, none in electrical idle (R239); blocks that wait for the line, not yet
scrambled; host frames that wait for stream packets (R245). How often the candidate block boundary has slipped, modulo 66
(R236); the words received in this tick under LOOP 3 (R242); the pattern generator and checker (R243). -/
structure LaneSt where
  line : List (Nat × Nat) := []
  txq : List (Nat × Nat) := []
  wait : List SendEntry := []
  slips : Nat := 0
  echo : List (Nat × Nat) := []
  gen : Nat := 0
  chk : Nat := 0
  good : Nat := 0
  win : Nat := 0
  winBad : Nat := 0
  age : Nat := 0
  bad : List Nat := []
  txScr : Nat := 0x3FFFFFFFFFFFFFF
  rxScr : Nat := 0
  rxBits : Nat := 0
  open_ : Bool := false
  ident : Option Nat := none
  blk : Option (Bool × Nat × Nat) := none
  txRem : Nat := 0
  sent : List Nat := []
  deriving DecidableEq, Repr

/-- A received RTP packet: timestamp and the frames of its samples (R247). -/
structure RtpPkt where
  ts : Nat
  frames : List (List Int)
  deriving DecidableEq, Repr

/-- A receive stream (R247): packets held, oldest first, sequence numbers received, SSRC, last frame, underrun and its
fade, whether it has begun to play, ticks since an accepted packet, the frames of this tick. -/
structure RtpRx where
  pkts : List RtpPkt := []
  seqs : List Nat := []
  ssrc : Option Nat := none
  last : List Int := []
  starved : Bool := false
  fade : Option Fade := none
  played : Bool := false
  age : Nat := 960
  now : List (List Int) := []
  deriving DecidableEq, Repr

/-- A transmit stream (R248): frames gathered, media-clock count of the first, next sequence number, packets complete and
not launched (timestamp, tick of the last sample, frames), and the last packet launched (lanes, sequence, timestamp,
payload). -/
structure RtpTx where
  buf : List (List Int) := []
  ts : Nat := 0
  ticks : Nat := 0
  seq : Nat := 0
  ready : List (Nat × Nat × List (List Int)) := []
  sent : Option (Nat × Nat × Nat × List Nat) := none
  deriving DecidableEq, Repr

/-! ### Thetex link and spanning buses (R253 to R285) -/

/-- A section (R258); LENGTH is the payload's. -/
structure Sect where
  type : Nat
  dmode : Nat
  origin : Nat
  dest : Nat
  seq : Nat
  hops : Nat
  stream : Nat
  payload : List Nat
  deriving DecidableEq, Repr

/-- A frame header (R257). -/
structure FrameHdr where
  flags : Nat
  src : Nat
  tick : Nat
  credit : Nat
  deriving DecidableEq, Repr

/-- The frame that a port sends for a tick (R261): its SPAN sections, relayed sections, own sections; whether it carries own
sections only (R273), whether a tick has passed since its launch, and whether it is complete. -/
structure FrameOut where
  hdr : FrameHdr
  spans : List Sect
  relayed : List Sect
  own : List Sect
  solo : Bool := false
  aged : Bool := false
  closed : Bool := false
  deriving DecidableEq, Repr

/-- When a frame's start block came: both timescales and main time then, in units of 2^-16 ns (R309). -/
structure Stamps where
  ts0 : Int := 0
  ts1 : Int := 0
  main : Int := 0
  deriving DecidableEq, Repr

/-- A frame that waits in a lane's receive queue (R27, R270): its header bytes, the cycle at which the header completed, when its
start block came (units of 2^-16 ns after that tick's boundary, and by the timescales), the SCNT then, and the section copies
that have arrived, each with whether an errored block was in it. -/
structure RxFrame where
  bytes : List Nat
  cycle : Nat
  at_ : Nat
  stamps : Stamps
  scnt : Nat
  sects : List (List Nat × Bool)
  deriving DecidableEq, Repr

/-- The link side of a lane (R270, R271, R342): accepted frames in a row and their SRC, ticks without one, whether this
tick brought one, whether the queue's reader has taken a frame in this tick, frames in the receive queue (oldest first), the
frame whose sections arrive and how many have, when its start block came, whether the rest of its copy is discarded, the error
counts of R342, and whether 60 s of gathering run. -/
structure LinkLane where
  frames : Nat := 0
  src : Option Nat := none
  miss : Nat := 0
  got : Bool := false
  read : Bool := false
  waiting : List RxFrame := []
  hdr : Option FrameHdr := none
  nth : Nat := 0
  cycle : Nat := 0
  stamps : Stamps := {}
  drop : Bool := false
  errs : List Nat := [0, 0, 0, 0]
  gather : Bool := false
  deriving DecidableEq, Repr

/-- A section copy that has been used (R269): frame tick, path, section, its bytes, whether the other path's copy has come. -/
structure UsedCopy where
  tick : Nat
  path : Nat
  sect : Sect
  bytes : List Nat
  seen : Bool
  deriving DecidableEq, Repr

/-- A section that a port may send under credit (R275): the section and the port whose buffer holds it, where one does. -/
structure BulkItem where
  sect : Sect
  buf : Option Nat
  deriving DecidableEq, Repr

/-- The link side of a port: paths whose header failed this tick (bit mask), whether a header was accepted this tick,
copies used, sections waiting to be relayed with their tick, own sections waiting, BULK sections waiting, credit
(GRANT given, credits held, CONSUMED, the peer's GRANT, the peer's RX_UP), expected SEQ by (type, origin, flow), first
copies found bad (tick, path, place in the frame), the sections (tick, place) whose late copies are no longer relayed, the frame in sending, the cycle at which
the last incoming header completed, the TICK of the last frame sent and of the last header received, and whether the peer
is unassigned. -/
structure LinkPort where
  badHdr : Nat := 0
  got : Bool := false
  used : List UsedCopy := []
  fwd : List (Nat × Sect) := []
  own : List Sect := []
  bulk : List BulkItem := []
  grant : Nat := 256
  held : Nat := 0
  consumed : Nat := 0
  peerGrant : Nat := 0
  peerUp : Bool := false
  seqs : Tbl (Option Nat) := []
  await : List (Nat × Nat × Nat) := []
  cut : List (Nat × Nat) := []
  out : Option FrameOut := none
  offset : Nat := 0
  lastTick : Option Nat := none
  rxTick : Option Nat := none
  peerUnassigned : Bool := false
  deriving DecidableEq, Repr

/-- A received chain section's partials of one direction (R276 to R279). -/
structure SpanPart where
  tick : Nat
  first : Nat
  brk : Bool
  ncont : Nat
  sums : List Int
  deriving DecidableEq, Repr

/-- What SRC_SPAN holds of a bus (R280): last sample, consecutive missing ticks, fade, the sample of this tick. -/
structure SpanOut where
  last : Int := 0
  miss : Nat := 0
  fade : Option Fade := none
  now : Int := 0
  deriving DecidableEq, Repr

/-- A received lane stream (R262): frames by SCNT of their presentation tick, last frame, underrun and its fade, and the
frames of this tick. -/
structure LaneStream where
  held : List (Nat × List (List Int)) := []
  last : List Int := []
  starved : Bool := false
  fade : Option Fade := none
  now : List (List Int) := []
  deriving DecidableEq, Repr

/-- A section taken by this device and not yet handled by its consumer: port, path and tick of its
frame, when its start block came, whether a gap came before it. -/
structure Taken where
  port : Nat
  path : Nat
  tick : Nat
  stamps : Stamps
  gap : Bool
  sect : Sect
  deriving DecidableEq, Repr

/-- The link beside its registers. `audio` holds what egress delivered to AUDIO streams, by the SCNT of its tick, newest first;
`spanEn` the buses that LNK_SPAN_EN enabled at the last boundary (R277). -/
structure Link where
  lanes : Tbl LinkLane := []
  ports : Tbl LinkPort := []
  contrib : List (Nat × List (Nat × Int)) := []
  east : List SpanPart := []
  west : List SpanPart := []
  spans : Tbl SpanOut := []
  streams : Tbl LaneStream := []
  audio : List (Nat × Tbl (List (List Int))) := []
  spanEn : Nat := 0
  audioNext : Tbl (List (List Int)) := []
  inbox : List Taken := []
  nonces : List (Nat × Nat) := []
  flowSeq : Tbl Nat := []
  mgmtSeq : Nat := 0
  answers : List Sect := []
  deriving DecidableEq, Repr

/-! ### Pairs (R320 to R344) -/

/-- A mirror record (R264, R332). -/
structure MirrorRec where
  kind : Nat
  target : Nat
  words : List Nat
  deriving DecidableEq, Repr

/-- A paired receiver entry (R335, R336): whether Y was used last, ticks concealed, last frame, fade. -/
structure PairRx where
  useY : Bool := false
  miss : Nat := 0
  last : List Int := []
  fade : Option Fade := none
  deriving DecidableEq, Repr

/-- The pair unit beside its registers: ticks since the partner's last Cricket, the Cricket ticks whose Cricket came,
misses in a row, Crickets sent, SEQ of the last Cricket taken, the partner's FAULTS and whether it said FAILED, ticks
since the present state was entered, ticks since a fatal fault or entry to FAILED, the engine ticks of the entries to
FAILED, matching ticks, a handback asked for, partner hashes by SCNT, records to send, records received with the TICK of
their frame, the MIRROR payload and the CSEQ of the CRICKET of this tick's frames, a Cricket owed to the next frame,
mirrored inputs and own inputs by SCNT, whether the join has activated the twin, the SCNT of the last hash compared, the ticks whose egress does not leave
(R327), whether ENG's reset caused FAILED, ticks since an uncorrectable error, Tj beyond its range, whether the device
drove at the last tick boundary (R337), and the paired receivers. -/
structure Pair where
  sinceCricket : Nat := 36
  came : List Nat := []
  misses : Nat := 0
  cseq : Nat := 0
  lastSeq : Option Nat := none
  faults : Nat := 0
  told : Bool := false
  entered : Nat := 0
  calm : Nat := 0
  fails : List Nat := []
  run : Nat := 0
  handback : Bool := false
  hashes : List (Nat × Nat) := []
  records : List MirrorRec := []
  incoming : List (Nat × MirrorRec) := []
  mirror : Option (List Nat) := none
  cricket : Option Nat := none
  owe : Bool := false
  inputs : Tbl (List (Nat × List Int)) := []
  own : Tbl (List (Nat × List Int)) := []
  twin : Bool := false
  judged : Option Nat := none
  mute : Option (Nat × Option Nat) := none
  byEng : Bool := false
  eccAge : Nat := 12
  tjHigh : Bool := false
  driving : Bool := false
  rx : Tbl PairRx := []
  deriving DecidableEq, Repr

/-! ### Yard, locks (R345 to R360) -/

/-- What a requester's lock status shows (R358): result 0 none, 1 pending, 2 granted, 3 refused. -/
structure LockReq where
  result : Nat := 0
  reason : Nat := 0
  broken : Bool := false
  lock : Nat := 0
  deriving DecidableEq, Repr


/-- An exclusive sequence on a Stall (R351): its master, transactions and beats so far. -/
structure ExclSeq where
  master : Nat
  txs : Nat
  beats : Nat
  deriving DecidableEq, Repr

/-- The answer to a transaction: master, address, and status and read data of each beat (R348). -/
structure YardAnswer where
  master : Nat
  addr : Nat
  beats : List (Nat × Nat)
  deriving DecidableEq, Repr

/-- The Yard beside its registers: transactions that wait behind an exclusive sequence, the answers of the last
transactions, the master each target granted last, exclusive sequences, incoming owners of handovers by Stall. -/
structure YardSt where
  waiting : List YardTx := []
  answers : List YardAnswer := []
  last : Tbl Nat := []
  excl : Tbl (Option ExclSeq) := []
  handover : Tbl (Option Nat) := []
  deriving DecidableEq, Repr

/-- What a register access returned (R7, R9): Completer Abort, data. -/
structure Reply where
  abort : Bool := false
  data : W32 := 0
  deriving DecidableEq, Repr

/-! ### Weevil, bulk memory, the deadline arbiter (R361 to R375) -/

/-- Weevil beside its registers: by Paddock, the region it tests (520 times the Stall in the Paddock, plus the region),
whether its save buffer is held, and the Yard-side cycles it had in the window; the time base at which the pass began, and
whether COVERAGE_LATE was raised in it. -/
structure Weevil where
  pos : Tbl Nat := []
  held : Tbl Bool := []
  had : Tbl Nat := []
  start : Nat := 0
  noted : Bool := false
  deriving DecidableEq, Repr

/-- A request at the bulk port (R371, R374): deadline, beats, whether it is present, and the cycle its back-off ends. -/
structure ArbReq where
  deadline : Nat
  beats : Nat
  here : Bool
  till : Nat
  deriving DecidableEq, Repr

/-- The bulk controller and the arbiter beside their registers: whether training runs, whether the channel has been
trained since POR, requests, the cycle in which the owner's burst began, the scrub's beats in this window. -/
structure BulkCtl where
  training : Bool := false
  trained : Bool := false
  reqs : Tbl (Option ArbReq) := []
  start : Nat := 0
  had : Nat := 0
  deriving DecidableEq, Repr

/-! ### Reset, supplies, self-test, JTAG (R412 to R470) -/

/-- The reset machinery beside its registers: good clocks (bit 0 internal oscillator, 1 XO, 2 ECLK, 3 PCIe reference), level
sources asserted by their bit in RST_CAUSE, HOLD bits in force, quiesce handshakes (source, reach), domains reset since the
last release sequence ended, the lowest domain released in this one, whether it follows POR, the rail or 8 that began a
supply warning and when, and the mute fade; the levels to which I2C_A1 and I2C_A0 are tied, and the address that the I²C target
took from them at the release of AON (R458). -/
structure RstSt where
  clocks : Nat := 0
  level : Nat := 0
  hold : Nat := 0x40
  quiesce : List (Nat × Nat) := []
  mask : Nat := 0xFE
  first : Option Nat := none
  por : Bool := true
  warn : Option (Nat × Nat) := none
  mute : Option Fade := none
  i2cPins : Nat := 0
  i2cAddr : Nat := 0x58
  deriving DecidableEq, Repr

/-- A row to be mapped (R454): Stall, row, spare, cause (0 Weevil, 1 BIST, 2 TST_RPR_ADD). -/
structure RowCopy where
  stall : Nat
  row : Nat
  spare : Nat
  cause : Nat
  deriving DecidableEq, Repr

/-- Self-test and repair beside their registers: groups still to run, the group that runs, row copies waiting, the page
program that runs (last SEQ, bytes), and for each Stall whose contents a test left undefined what names them (R447). -/
structure TstSt where
  groups : List Nat := []
  cur : Option Nat := none
  copies : List RowCopy := []
  prog : Option (Nat × List Nat) := none
  spoiled : Tbl (Option Nat) := []
  deriving DecidableEq, Repr

/-- The JTAG instructions of R469. -/
inductive JtagIr
  | extest
  | samplePreload
  | idcode
  | highz
  | clamp
  | extestPulse
  | extestTrain
  | bypass
  deriving DecidableEq, Repr

/-- The test access port (R469, R470): the instruction, the cells the boundary register was loaded with, and what the
data register captured. -/
structure JtagSt where
  ir : JtagIr := .idcode
  cells : List Bool := []
  captured : Nat := 0
  deriving DecidableEq, Repr
/-! ### The block -/

/-- The state of the ORL1536: everything its spec names, and the queue of commands that wait (the row's block form).
`freeCtr` is the model's own: the number of free values drawn so far. -/
structure State where
  pending : List Instr := []
  freeCtr : Nat := 0
  regs : Tbl W32 := []
  snaps : Tbl (Option W32) := []
  mem : List Host.Cell := []
  bulk : List Host.Cell := []
  host : List Host.Cell := []
  cores : Tbl Core := []
  ffts : Tbl FftUnit := []
  eng : Eng := {}
  hif : Hif := {}
  loft : Loft := {}
  gpioIn : Nat := 0
  waiters : Tbl (List Nat) := []
  lockReqs : Tbl LockReq := []
  ports : Tbl PortSt := []
  mics : Tbl MicSt := []
  clk : ClkSt := {}
  tim : TimSt := {}
  lanes : Tbl LaneSt := []
  rtpRx : Tbl RtpRx := []
  rtpTx : Tbl RtpTx := []
  link : Link := {}
  pair : Pair := {}
  yard : YardSt := {}
  reply : Reply := {}
  weevil : Weevil := {}
  blk : BulkCtl := {}
  rst : RstSt := {}
  tst : TstSt := {}
  jtag : JtagSt := {}
  flash : List Host.Cell := []
  deriving DecidableEq, Repr


/-- The block right after power-on reset: every register at the reset value of its table (`State.regs` lists what differs
from it), every domain from CLK to APT held (R415, R433), every queue and memory empty, no command waiting. -/
def State.reset : State := {}

end Sys2Proof.Machine
end

