-- ==== Sys2Proof/Machine/Ops.lean ====
section
/-! DEFINITION. The named operations over registers and memories that every meaning is written with. -/

namespace Sys2Proof.Machine

open Sys2Proof.Arith

/-- How a meaning ends. -/
abbrev Out := Host.Outcome State Fault Refusal

/-! ### Lists -/

/-- Replace element `i`. -/
def setAt {α : Type} (l : List α) (i : Nat) (v : α) : List α :=
  l.mapIdx (fun j x => if j = i then v else x)

/-- Change the first element that satisfies `p`. -/
def modFirst {α : Type} (p : α → Bool) (f : α → α) : List α → List α
  | [] => []
  | x :: rest => if p x then f x :: rest else x :: modFirst p f rest

/-- Fold a state-changing action over a list. -/
def forEach {α : Type} (l : List α) (s : State) (f : State → α → State) : State := l.foldl f s

/-! ### The register map (R7 to R13) -/

/-- Whether offset `off` belongs to a register array. -/
def RegDef.covers (r : RegDef) (off : Nat) : Bool :=
  if off < r.base then false
  else
    let o := off - r.base
    let i := if r.s1 = 0 then 0 else o / r.s1
    let m := if r.s1 = 0 then o else o % r.s1
    let j := if r.s2 = 0 then 0 else m / r.s2
    let m2 := if r.s2 = 0 then m else m % r.s2
    decide (i < r.n1) && decide (j < r.n2) && decide (m2 = 0)

/-- The table entry of the register at `off`. -/
def regDef (off : Nat) : Option RegDef := (regBlock off).find? (fun r => r.covers off)

/-- Whether a register is allocated at `off` (R8). -/
def allocated (off : Nat) : Bool := (regDef off).isSome

/-- Mask of one field. -/
def FieldDef.mask (f : FieldDef) : Nat := 2 ^ (f.hi + 1) - 2 ^ f.lo

/-- Mask of the fields of `r` whose access type satisfies `p`. -/
def RegDef.mask (r : RegDef) (p : Acc → Bool) : Nat :=
  r.fields.foldl (fun m f => if p f.acc then m ||| f.mask else m) 0

/-- Reset values that a table gives by index: YRD_MST.QOS (R345), YRD_ARB_AGE (R372). -/
def indexedReset (off : Nat) : Option Nat :=
  if 0x50100 ≤ off ∧ off < 0x50160 then
    match (off - 0x50100) / 4 with
    | 10 => some 8
    | 11 => some 8
    | 12 => some 8
    | 13 => some 12
    | 18 => some 4
    | 19 => some 10
    | 20 => some 0
    | 21 => some 4
    | 22 => some 8
    | 23 => some 8
    | _ => none
  else if 0x50480 ≤ off ∧ off < 0x50500 ∧ off % 16 = 4 then
    match (off - 0x50484) / 16 with
    | 4 => some 2048
    | 5 => some 1024
    | 6 => some 256
    | 7 => some 16384
    | _ => none
  else none

/-- The reset value of the register at `off`, in the device family and strap of reset; 0 where no register lies. -/
def resetWord (off : Nat) : W32 :=
  if off = 8 then Config.uid.setWidth 32
  else if off = 0xC then (Config.uid >>> 32).setWidth 32
  else
    match regDef off with
    | none => 0
    | some r =>
      match indexedReset off with
      | some v => BitVec.ofNat 32 v
      | none => BitVec.ofNat 32 (r.fields.foldl (fun m f => m + f.reset * 2 ^ f.lo) 0)

/-- The stored value of the register at `off`. -/
def State.reg (s : State) (off : Nat) : W32 := Tbl.get s.regs (resetWord off) off

/-- Store a register's value. -/
def State.setReg (s : State) (off : Nat) (w : W32) : State :=
  { s with regs := Tbl.set s.regs (resetWord off) off w }

/-- The value of a field. -/
def State.fget (s : State) (f : Field) : Nat := bits (s.reg f.off).toNat f.hi f.lo

/-- A word with its bits hi to lo replaced by `v`. -/
def insertBits (w : W32) (hi lo v : Nat) : W32 :=
  let n := w.toNat
  BitVec.ofNat 32 (n / 2 ^ (hi + 1) * 2 ^ (hi + 1) + v % 2 ^ (hi + 1 - lo) * 2 ^ lo + n % 2 ^ lo)

/-- Set a field. -/
def State.fset (s : State) (f : Field) (v : Nat) : State :=
  s.setReg f.off (insertBits (s.reg f.off) f.hi f.lo v)

/-- Whether a one-bit field is 1. -/
def State.fon (s : State) (f : Field) : Bool := s.fget f = 1

/-- The signed reading of a register. -/
def State.regInt (s : State) (off : Nat) : Int := (s.reg off).toInt

/-- Add to a counter field, which stops at its largest value. -/
def State.count (s : State) (f : Field) (n : Nat) : State :=
  s.fset f (min (s.fget f + n) (2 ^ (f.hi + 1 - f.lo) - 1))

/-- Count one at a whole 32-bit counter. -/
def State.bump (s : State) (off : Nat) : State := s.count ⟨off, 31, 0⟩ 1

/-! ### Reset domains -/

/-- The bit of a domain in RST registers (R433). -/
def Dom.bit : Dom → Nat
  | .aon => 0
  | .clk => 1
  | .mem => 2
  | .ctl => 3
  | .hif => 4
  | .lnk => 5
  | .eng => 6
  | .apt => 7

/-- Whether a domain is held in reset (RST_DOMAIN.HELD). -/
def State.held (s : State) (d : Dom) : Bool := bit (s.fget F.RST_DOMAIN_HELD) d.bit

/-- Whether a domain is out of reset. -/
def State.up (s : State) (d : Dom) : Bool := !s.held d

/-- Whether the lock of a register is set (R9, R13). -/
def State.lockedReg (s : State) (r : RegDef) : Bool :=
  match r.lock with
  | none => false
  | some (off, b) => bit (s.reg off).toNat b

/-- R9, R11, R13: the word that a write of `v` leaves at a register, by access type and lock alone. -/
def writtenWord (old : W32) (r : RegDef) (locked : Bool) (v : W32) : W32 :=
  let rw := r.mask (fun a => a = .rw)
  let rwl := if locked then 0 else r.mask (fun a => a = .rwl)
  let w1c := r.mask (fun a => a = .w1c)
  let set := BitVec.ofNat 32 (rw ||| rwl)
  let clr := BitVec.ofNat 32 w1c &&& v
  ((old &&& ~~~set) ||| (v &&& set)) &&& ~~~clr

/-- A register write's own bits (R9 to R13): ignored while the domain is held; reserved, RO and RC bits ignored. -/
def State.writePlain (s : State) (off : Nat) (v : W32) : State :=
  match regDef off with
  | none => s
  | some r => if s.held r.dom then s else s.setReg off (writtenWord (s.reg off) r (s.lockedReg r) v)

/-! ### Free values -/

/-- The next free value, of `n` bits, and the state after drawing it. -/
def State.draw (s : State) (n : Nat) : Nat × State :=
  (Config.free s.freeCtr % 2 ^ n, { s with freeCtr := s.freeCtr + 1 })

/-- R348: the data of `n` beats of kind `kind` that were not performed: free for a read or an atomic. -/
def State.undefinedData (s : State) (kind : Nat) : Nat → List Nat × State
  | 0 => ([], s)
  | n + 1 =>
    let d := if kind ≠ 1 then s.draw 64 else (0, s)
    let r := d.2.undefinedData kind n
    (d.1 :: r.1, r.2)

/-- A free word. -/
def State.drawWord (s : State) : W32 × State := (BitVec.ofNat 32 (s.draw 32).1, (s.draw 32).2)

/-- Whether a quiesce handshake covers a domain (R418). -/
def State.quiescing (s : State) (d : Dom) : Bool := s.rst.quiesce.any (fun q => bit q.2 d.bit)

/-- R470: whether the boundary register alone sets the pins it covers. -/
def State.pinsCut (s : State) : Bool :=
  match s.jtag.ir with
  | .extest | .extestPulse | .extestTrain | .clamp | .highz => true
  | _ => false

/-- R470: what the block's functions drive on a pin that the boundary register may have taken. -/
def State.drivesPin (s : State) (x : Option Bool) : Option Bool := if s.pinsCut then none else x

/-- What the block sees of `levels` at pins that the boundary register may hold (R470): then the levels are free. -/
def State.seenBits (s : State) (levels : List Bool) : List Bool × State :=
  if s.pinsCut then
    ((List.range levels.length).map (fun i => bit (Config.free (s.freeCtr + i)) 0), { s with freeCtr := s.freeCtr + levels.length })
  else (levels, s)

/-- R349: a tick passes for the transactions that wait. -/
def State.ageYard (s : State) : State :=
  { s with yard := { s.yard with waiting := s.yard.waiting.map (fun t => { t with waited := t.waited + 25600 }) } }

/-! ### Memories -/

/-- A byte of a memory; an unlisted address reads as 0. -/
def byteAt (m : List Host.Cell) (a : Nat) : BitVec 8 := Tbl.get m 0 a

/-- Store a byte. -/
def setByte (m : List Host.Cell) (a : Nat) (b : BitVec 8) : List Host.Cell := Tbl.set m 0 a b

/-- `n` bytes from address `a` up. -/
def bytesAt (m : List Host.Cell) (a : Nat) : Nat → List Nat
  | 0 => []
  | n + 1 => (byteAt m a).toNat :: bytesAt m (a + 1) n

/-- Store bytes from address `a` up. -/
def setBytes (m : List Host.Cell) (a : Nat) : List Nat → List Host.Cell
  | [] => m
  | b :: rest => setBytes (setByte m a (BitVec.ofNat 8 b)) (a + 1) rest

/-- A little-endian value of `n` bytes. -/
def leAt (m : List Host.Cell) (a n : Nat) : Nat := leNat (bytesAt m a n)

/-- Store a little-endian value of `n` bytes. -/
def setLe (m : List Host.Cell) (a n v : Nat) : List Host.Cell := setBytes m a (leBytes n v)

/-- Forget every byte from `a` to `a + n - 1`: they read as 0 again. -/
def eraseRange (m : List Host.Cell) (a n : Nat) : List Host.Cell :=
  m.filter (fun c => decide (c.1 < a) || decide (a + n ≤ c.1))

/-- The canonical form of a memory. -/
def Memory.wf (m : List Host.Cell) : Bool := Tbl.wf (fun _ => (0 : BitVec 8)) m

/-- What a byte of the Yard's memories reads as where none is listed: a tested Stall's contents are undefined (R447). -/
def State.memDefault (s : State) (a : Nat) : BitVec 8 :=
  match Tbl.get s.tst.spoiled none (a / 0x40000) with
  | none => 0
  | some e => Config.stallByte e a

/-- A byte of a Stall. -/
def State.stallByte (s : State) (a : Nat) : BitVec 8 := Tbl.get s.mem (s.memDefault a) a

/-- Store a byte of a Stall. -/
def State.setStallByte (s : State) (a : Nat) (b : BitVec 8) : State :=
  { s with mem := Tbl.set s.mem (s.memDefault a) a b }

/-- Store bytes in Stalls from address `a` up. -/
def State.setStallBytes (s : State) (a : Nat) : List Nat → State
  | [] => s
  | b :: rest => (s.setStallByte a (BitVec.ofNat 8 b)).setStallBytes (a + 1) rest

/-- The contents of Stall `k` are left undefined. -/
def State.spoilStall (s : State) (k : Nat) : State :=
  { s with mem := eraseRange s.mem (k * 0x40000) 0x40000, freeCtr := s.freeCtr + 1,
           tst := { s.tst with spoiled := Tbl.set s.tst.spoiled none k (some s.freeCtr) } }

/-! ### Cores and slots -/

/-- Core `n`. -/
def State.core (s : State) (n : Nat) : Core := Tbl.get s.cores {} n

/-- Store core `n`. -/
def State.setCore (s : State) (n : Nat) (c : Core) : State := { s with cores := Tbl.set s.cores {} n c }

/-- FFT unit `n`. -/
def State.fftUnit (s : State) (n : Nat) : FftUnit := Tbl.get s.ffts {} n

/-- Store FFT unit `n`. -/
def State.setFftUnit (s : State) (n : Nat) (u : FftUnit) : State := { s with ffts := Tbl.set s.ffts {} n u }

/-- Program slot `k`. -/
def State.slot (s : State) (k : Nat) : Slot := Tbl.get s.eng.slots {} k

/-- Store program slot `k`. -/
def State.setSlot (s : State) (k : Nat) (x : Slot) : State :=
  { s with eng := { s.eng with slots := Tbl.set s.eng.slots {} k x } }

/-- Zone position `z`. -/
def State.zone (s : State) (z : Nat) : ZoneSt := Tbl.get s.eng.zones {} z

/-- Store zone position `z`. -/
def State.setZone (s : State) (z : Nat) (x : ZoneSt) : State :=
  { s with eng := { s.eng with zones := Tbl.set s.eng.zones {} z x } }

/-! ### Ticks -/

/-- SCNT[31:0] (R305). -/
def State.scnt (s : State) : Nat := (s.reg A.TIM_SCNT).toNat

/-- The tick phase, 0 to 5 (R21). -/
def State.tphase (s : State) : Nat := s.fget F.TIM_TPHASE_VALUE

/-- SCNT of engine tick `t`. -/
def State.scntOf (s : State) (t : Nat) : W32 :=
  BitVec.ofNat 32 (s.scnt + 2 ^ 32 * (s.eng.tick + 1) + t - s.eng.tick)

end Sys2Proof.Machine
end

