-- ==== Sys2Proof/Machine/Program.lean ====
section
/-! DEFINITION. Program images: how the sections of an image are read, and what follows from a node table entry alone:
samples per tick, ports, cost, positions, parameter words (R30 to R56). -/

namespace Sys2Proof.Machine

open Sys2Proof.Arith

/-! ### Reading bytes -/

/-- The `n`-byte field at offset `o` of an entry, little-endian. -/
def fld (e : List Nat) (o n : Nat) : Nat := leNat ((e.drop o).take n)

/-- Cut a byte string into `k` entries of `n` bytes. -/
def chunks (n : Nat) : Nat → List Nat → List (List Nat)
  | 0, _ => []
  | k + 1, bs => bs.take n :: chunks n k (bs.drop n)

/-- A node table entry (R42). -/
def parseNode (e : List Nat) : Node :=
  { key := fld e 0 4, type := fld e 4 1, stage := fld e 5 1, rate := fld e 6 1, phase := fld e 7 1,
    position := fld e 8 2, pset := fld e 10 2, edgeFirst := fld e 12 2, edgeCount := fld e 14 1,
    config := fld e 16 4, bind := fld e 20 4, cost := fld e 24 2, mxIn := fld e 28 2 }

/-- An edge entry (R43). -/
def parseEdge (e : List Nat) : Edge :=
  { src := fld e 0 2, dst := fld e 2 2, srcPort := fld e 4 1, dstPort := fld e 5 1, reference := bit (fld e 6 1) 0 }

/-- A parameter-set entry (R47). -/
def parsePSet (e : List Nat) : PSet := { off := fld e 0 4, size := fld e 4 4, node := fld e 8 2, group := fld e 10 2 }

/-- A commit-group entry (R48). -/
def parseGroup (e : List Nat) : Group := { group := fld e 0 2, zc := fld e 2 2, stepping := bit (fld e 4 2) 0 }

/-- A schedule entry (R50). -/
def parseSEntry (index : Nat) (e : List Nat) : SEntry :=
  { index := index, node := fld e 0 2, lane := fld e 2 1, kind := fld e 3 1, xfirst := fld e 4 2, xcount := fld e 6 2 }

/-- A task table entry (R53). -/
def parseTask (e : List Nat) : TaskEntry :=
  { node := fld e 0 2, core := fld e 2 1, kind := fld e 3 1, codeOff := fld e 4 4, codeSize := fld e 8 4,
    dataSize := fld e 12 4, cycles := (List.range 6).map (fun i => fld e (16 + 2 * i) 2), entry := fld e 28 2 }

/-- A directory entry (R40). -/
structure DirEntry where
  type : Nat
  rsv : Nat
  off : Nat
  size : Nat
  count : Nat
  deriving DecidableEq, Repr

/-- Read a directory entry. -/
def parseDir (e : List Nat) : DirEntry :=
  { type := fld e 0 2, rsv := fld e 2 2, off := fld e 4 4, size := fld e 8 4, count := fld e 12 4 }

/-- The directory of an image. -/
def directory (img : List Nat) : List DirEntry := (chunks 16 (fld img 0x15 1) (img.drop 0x40)).map parseDir

/-- The bytes of a section. -/
def sectionBytes (img : List Nat) (d : DirEntry) : List Nat := (img.drop d.off).take d.size

/-- The directory entry of a section type. -/
def findSect (img : List Nat) (t : Nat) : Option DirEntry := (directory img).find? (fun d => d.type = t)

/-- The raw entries of a section of fixed entry size; none where the section is absent. -/
def entries (img : List Nat) (t n : Nat) : List (List Nat) :=
  match findSect img t with
  | none => []
  | some d => chunks n d.count (sectionBytes img d)

/-- The 24 list descriptors of a schedule section, offset and count (R49). -/
def descriptors (bs : List Nat) : List (Nat × Nat) := (chunks 8 24 bs).map (fun e => (fld e 0 4, fld e 4 4))

/-- The 24 lists of a schedule section. -/
def scheduleLists (bs : List Nat) : List (List SEntry) :=
  (descriptors bs).map (fun d => ((chunks 8 d.2 (bs.drop d.1)).zipIdx).map (fun e => parseSEntry ((d.1 - 192) / 8 + e.2) e.1))

/-- Read a whole image. -/
def parseImage (img : List Nat) : Prog :=
  { pid := fld img 0x0C 4, pred := fld img 0x10 4, family := fld img 0x14 1,
    nodes := (entries img 1 32).map parseNode, edges := (entries img 2 8).map parseEdge,
    xps := (entries img 3 4).map (fun e => fld e 0 2), psets := (entries img 4 16).map parsePSet,
    pdata := (entries img 5 4).map (fun e => fld e 0 4), groups := (entries img 6 8).map parseGroup,
    sched := match findSect img 7 with | none => [] | some d => scheduleLists (sectionBytes img d),
    xf := (findSect img 8).map (fun d => scheduleLists (sectionBytes img d)),
    tasks := (entries img 9 32).map parseTask,
    code := match findSect img 10 with | none => [] | some d => sectionBytes img d }

/-! ### Node types (R31) -/

/-- Node type codes. -/
def T.srcPort : Nat := 0x01
def T.srcPdm : Nat := 0x02
def T.srcLane : Nat := 0x03
def T.srcRtp : Nat := 0x04
def T.srcHost : Nat := 0x05
def T.srcVoice : Nat := 0x06
def T.srcSpan : Nat := 0x07
def T.srcRet : Nat := 0x08
def T.strip : Nat := 0x10
def T.rate : Nat := 0x11
def T.bulkDly : Nat := 0x12
def T.silence : Nat := 0x13
def T.mix : Nat := 0x20
def T.bus : Nat := 0x30
def T.zone : Nat := 0x40
def T.prio : Nat := 0x41
def T.snkPort : Nat := 0x60
def T.snkLane : Nat := 0x61
def T.snkRtp : Nat := 0x62
def T.snkHost : Nat := 0x63
def T.snkRec : Nat := 0x64
def T.snkSpan : Nat := 0x65
def T.snkRet : Nat := 0x66
def T.task : Nat := 0x70

/-- Whether a node is a source of stage 0. -/
def Node.isSource (n : Node) : Bool := decide (1 ≤ n.type) && decide (n.type ≤ 8)

/-- Whether a node is a sink of stage 5. -/
def Node.isSink (n : Node) : Bool := decide (0x60 ≤ n.type) && decide (n.type ≤ 0x66)

/-- Whether a node is a TASK. -/
def Node.isTask (n : Node) : Bool := decide (n.type = 0x70)

/-- The stages R31 allows a type; none for a reserved code. -/
def typeStages (t : Nat) : List Nat :=
  if 1 ≤ t ∧ t ≤ 8 then [0]
  else if t = 0x10 then [1]
  else if 0x11 ≤ t ∧ t ≤ 0x13 then [1, 3, 4]
  else if t = 0x20 then [2]
  else if t = 0x30 then [3]
  else if t = 0x40 ∨ t = 0x41 then [4]
  else if 0x60 ≤ t ∧ t ≤ 0x66 then [5]
  else if t = 0x70 then [0, 1, 2, 3, 4]
  else []

/-- Samples of a node in a tick of phase `q` (R30). -/
def samplesIn (rate phase q : Nat) : Nat :=
  match rate with
  | 0 => if q = phase then 1 else 0
  | 1 => if q = phase ∨ q = phase + 3 then 1 else 0
  | 2 => 1
  | 3 => 2
  | _ => 4

/-- Samples of node `n` in phase `q`. -/
def Node.samples (n : Node) (q : Nat) : Nat := samplesIn n.rate n.phase q

/-- Whether RATE and PHASE are valid (R30). -/
def ratePhaseOk (rate phase : Nat) : Bool :=
  match rate with
  | 0 => decide (phase < 6)
  | 1 => decide (phase < 3)
  | _ => decide (rate ≤ 4) && decide (phase = 0)

/-- CONFIG fields (R32). -/
def Node.nbq (n : Node) : Nat := if n.type = T.zone then bits n.config 4 0 else bits n.config 3 0
def Node.hpf (n : Node) : Nat := bits n.config 4 4
def Node.ndyn (n : Node) : Nat :=
  if n.type = T.strip then bits n.config 6 5 else if n.type = T.bus then bits n.config 4 4 else 0
def Node.dly (n : Node) : Nat :=
  if n.type = T.zone then bits n.config 7 7 else if n.type = T.bus then bits n.config 5 5
  else if n.type = T.strip then bits n.config 7 7 else 0
def Node.ntg (n : Node) : Nat := bits n.config 5 5
def Node.lim (n : Node) : Nat := bits n.config 6 6
def Node.tap (n : Node) : Nat := bits n.config 8 8
def Node.nin (n : Node) : Nat := if n.type = T.task then bits n.config 4 0 else bits n.config 3 0
def Node.nout (n : Node) : Nat := bits n.config 9 5

/-- The rate ratio M of a RATE node, 0 for a pair R99 does not permit; `up` from input to output. -/
def rateRatio (inRate outRate : Nat) : Nat :=
  match inRate, outRate with
  | 0, 1 => 2
  | 1, 0 => 2
  | 2, 3 => 2
  | 3, 2 => 2
  | 3, 4 => 2
  | 4, 3 => 2
  | 1, 2 => 3
  | 2, 1 => 3
  | 2, 4 => 4
  | 4, 2 => 4
  | _, _ => 0

/-- Whether CONFIG is in range (R32, R99, R104). -/
def Node.configOk (n : Node) : Bool :=
  let c := n.config
  if n.type = T.strip then decide (c < 256) && decide (n.nbq ≤ 12) && decide (n.ndyn ≤ 2)
  else if n.type = T.rate then decide (c < 8) && decide (rateRatio c n.rate ≠ 0)
  else if n.type = T.silence then decide (c < 512) && decide (bits c 5 0 ≤ 31)
  else if n.type = T.mix then true
  else if n.type = T.bus then decide (c < 64) && decide (n.nbq ≤ 12)
  else if n.type = T.zone then decide (c < 512) && decide (n.nbq ≤ 16)
  else if n.type = T.prio then decide (2 ≤ c) && decide (c ≤ 8)
  else if n.type = T.task then decide (c < 1024) && decide (n.nin ≤ 16) && decide (n.nout ≤ 16)
  else decide (c = 0)

/-- How many values BIND may take (R32); for a MIX its crosspoint count, for a TASK its table index. -/
def Node.bindLimit (n : Node) : Nat :=
  if n.type = T.srcPort ∨ n.type = T.snkPort then 512
  else if n.type = T.srcPdm then 32
  else if n.type = T.srcLane ∨ n.type = T.snkLane then 65536
  else if n.type = T.srcRtp ∨ n.type = T.snkRtp then 4096
  else if n.type = T.srcHost ∨ n.type = T.snkHost then 2048
  else if n.type = T.srcVoice ∨ n.type = T.snkRec ∨ n.type = T.srcRet ∨ n.type = T.snkRet then 256
  else if n.type = T.srcSpan ∨ n.type = T.snkSpan then 128
  else if n.type = T.bulkDly then 1024
  else if n.type = T.mix then 1537
  else if n.type = T.task then 2 ^ 32
  else 1

/-- Whether BIND names a resource that no two nodes may share (R32, R55). -/
def Node.binds (n : Node) : Bool := n.isSource || n.isSink || decide (n.type = T.bulkDly)

/-- Input ports of a node (R31); a MIX has a crosspoint list instead. -/
def Node.inputs (n : Node) : Nat :=
  if n.isSource ∨ n.type = T.mix then 0
  else if n.type = T.prio ∨ n.type = T.task then n.nin
  else 1

/-- Output ports of a node (R31). -/
def Node.outputs (n : Node) : Nat :=
  if n.isSink ∨ n.type = T.silence then 0
  else if n.type = T.zone then 1 + n.tap
  else if n.type = T.task then n.nout
  else 1

/-- COST as R31 gives it. -/
def Node.trueCost (n : Node) : Nat :=
  if n.type = T.strip then 4 + 5 * (n.nbq + n.hpf) + 20 * n.ndyn + 3 * n.dly
  else if n.type = T.rate then 34
  else if n.type = T.bulkDly then 2
  else if n.type = T.silence then 3
  else if n.type = T.mix then n.bind
  else if n.type = T.bus then 4 + 5 * n.nbq + 20 * n.ndyn + 3 * n.dly
  else if n.type = T.zone then 4 + 6 * n.ntg + 5 * n.nbq + 24 * n.lim + 3 * n.dly + 2 * n.tap
  else if n.type = T.prio then 3 + 4 * n.nin
  else 0

/-! ### Positions (R21, R22, R35) -/

/-- Positions a channel of a rate takes. -/
def rateWidth (rate : Nat) : Nat := if rate = 3 then 2 else if rate = 4 then 4 else 1

/-- The (position, phase) pairs that a channel at `pos` occupies, each as pos * 6 + phase (R21). -/
def occupies (rate phase pos : Nat) : List Nat :=
  match rate with
  | 0 => [pos * 6 + phase]
  | 1 => [pos * 6 + phase, pos * 6 + phase + 3]
  | _ => (List.range (6 * rateWidth rate)).map (fun i => pos * 6 + i)

/-- Whether any element of `l` is in the table, or reaches the end of the space. -/
def clash (used : Tbl Bool) (limit : Nat) (l : List Nat) : Bool :=
  l.any (fun k => Tbl.get used false k || decide (limit * 6 ≤ k))

/-- Mark positions as used. -/
def occupy (used : Tbl Bool) (l : List Nat) : Tbl Bool := l.foldl (fun t k => Tbl.set t false k true) used

/-- The matrix input positions of a node's outputs. -/
def Node.mxPositions (n : Node) : List Nat :=
  if n.mxIn = 0xFFFF then []
  else (List.range (if n.isTask then n.nout else 1)).flatMap (fun k =>
    occupies n.rate n.phase (n.mxIn + k * rateWidth n.rate))

/-- Whether MX_IN may be set (R35). -/
def Node.mxAllowed (n : Node) : Bool :=
  (if n.isTask then decide (n.stage = 1) else decide (n.stage ≤ 1)) && decide (0 < n.outputs)

/-- The output (node, port) that matrix input position `pos` names, for a MIX of a rate and phase: 0 none, 1 another
rate or phase, 2 found. -/
def Prog.mxSource (p : Prog) (pos rate phase : Nat) : Option (Nat × Nat) :=
  (p.nodes.zipIdx).findSome? (fun x =>
    let n := x.1
    if n.mxIn = 0xFFFF ∨ n.mxIn > pos then none
    else
      let w := rateWidth n.rate
      let k := (pos - n.mxIn) / w
      if (pos - n.mxIn) % w = 0 ∧ k < (if n.isTask then n.nout else 1) ∧ n.rate = rate ∧ n.phase = phase then some (x.2, k)
      else none)

/-- Whether some output starts at matrix input position `pos`, whatever its rate. -/
def Prog.mxAny (p : Prog) (pos : Nat) : Bool :=
  p.nodes.any (fun n =>
    let w := rateWidth n.rate
    n.mxIn ≠ 0xFFFF && decide (n.mxIn ≤ pos) && decide ((pos - n.mxIn) % w = 0) &&
      decide ((pos - n.mxIn) / w < (if n.isTask then n.nout else 1)))

/-- A node that is not there. -/
def noNode : Node :=
  { key := 0, type := 0, stage := 0, rate := 2, phase := 0, position := 0, pset := 0xFFFF, edgeFirst := 0,
    edgeCount := 0, config := 0, bind := 0, cost := 0, mxIn := 0xFFFF }

/-- Node `i`. -/
def Prog.node (p : Prog) (i : Nat) : Node := p.nodes.getD i noNode

/-- The input edges of node `i`, in port order (R43). -/
def Prog.inEdges (p : Prog) (i : Nat) : List Edge :=
  let n := p.node i
  (p.edges.drop n.edgeFirst).take n.edgeCount

/-- The edge into port `k` of node `i`. -/
def Prog.inEdge (p : Prog) (i k : Nat) : Option Edge := (p.inEdges i).find? (fun e => e.dstPort = k)

/-- The matrix input positions of MIX node `n`'s crosspoints. -/
def Prog.crosspoints (p : Prog) (n : Node) : List Nat := (p.xps.drop n.config).take n.bind

/-! ### Parameter words (R45) -/

/-- Parameter words of a node; a TASK's count is its set's own. -/
def Node.wordCount (n : Node) : Option Nat :=
  if n.type = T.strip then some (2 + 5 * (n.hpf + n.nbq) + 8 * n.ndyn + n.dly)
  else if n.type = T.bus then some (1 + 5 * n.nbq + 8 * n.ndyn + n.dly)
  else if n.type = T.zone then some (1 + 4 * n.ntg + 5 * n.nbq + 6 * n.lim + n.dly)
  else if n.type = T.prio then some (4 * n.nin)
  else if n.type = T.mix then some n.bind
  else if n.type = T.bulkDly then some 1
  else if n.type = T.silence then some 2
  else if n.type = T.srcVoice then some 8
  else if n.type = T.snkRec then some 6
  else if n.type = T.task then none
  else some 0

/-- The key of word `w` of parameter set `p` in the tables of a slot. -/
def wkey (p w : Nat) : Nat := p * 32768 + w

/-- Word `w` of parameter set `i` in the image. -/
def Prog.word (p : Prog) (i w : Nat) : W32 :=
  match p.psets[i]? with
  | none => 0
  | some ps => BitVec.ofNat 32 (p.pdata.getD (ps.off / 4 + w) 0)

/-- Words of parameter set `i`. -/
def Prog.setWords (p : Prog) (i : Nat) : Nat :=
  match p.psets[i]? with
  | none => 0
  | some ps => ps.size / 4

/-- The commit group entry of a group number. -/
def Prog.groupEntry (p : Prog) (g : Nat) : Option Group := p.groups.find? (fun x => x.group = g)

/-- Whether word `w` of a node is a gain parameter (R46). -/
def Node.isGain (n : Node) (w : Nat) : Bool :=
  if n.type = T.strip ∨ n.type = T.bus ∨ n.type = T.zone then decide (w = 0)
  else if n.type = T.mix then true
  else if n.type = T.prio then decide (w % 4 = 2)
  else if n.type = T.srcVoice then decide (w = 6)
  else if n.type = T.snkRec then decide (w = 5)
  else false

/-- First word of biquad `b` of a node, counted from 0 (R45). -/
def Node.bqWord (n : Node) (b : Nat) : Nat :=
  if n.type = T.strip then 2 + 5 * n.hpf + 5 * b
  else if n.type = T.zone then 1 + 4 * n.ntg + 5 * b
  else 1 + 5 * b

/-- First word of dynamics stage `d`. -/
def Node.dynWord (n : Node) (d : Nat) : Nat := n.bqWord n.nbq + 8 * d

/-- First word of the limiter. -/
def Node.limWord (n : Node) : Nat := n.bqWord n.nbq

/-- The DELAY word. -/
def Node.dlyWord (n : Node) : Nat :=
  if n.type = T.zone then n.limWord + 6 * n.lim else n.dynWord n.ndyn

/-! ### Ticks between nodes (R18, R119) -/

/-- How many ticks after its source a node takes a sample: one a stage, and one more into a TASK. -/
def Prog.latency (p : Prog) (src dst : Nat) : Nat :=
  let a := p.node src
  let b := p.node dst
  b.stage - a.stage + (if b.isTask then 1 else 0)

end Sys2Proof.Machine
end

