-- ==== Sys2Proof/Machine/Params.lean ====
section
/-! DEFINITION. Parameter words: the range of every word, the conditions that span words, and the locked limits
(R71, R73 to R109, R173). -/

namespace Sys2Proof.Machine

open Sys2Proof.Arith

/-- What a parameter word is, by its place in the block (R45). -/
inductive PK
  | gain
  | pol
  | coef (j : Nat)
  | dyn (j : Nat)
  | delay
  | nt (j : Nat)
  | lim (j : Nat)
  | prio (j : Nat)
  | bulkDelay
  | silThresh
  | silHold
  | voice (j : Nat)
  | recw (j : Nat)
  | task
  deriving DecidableEq, Repr

/-- The kind of word `w` of node `n`. -/
def Node.kindOf (n : Node) (w : Nat) : PK :=
  let seq5 := fun (b : Nat) => PK.coef ((w - b) % 5)
  if n.type = T.strip then
    let d0 := n.dynWord 0
    if w = 0 then .gain else if w = 1 then .pol
    else if w < d0 then seq5 2
    else if w < d0 + 8 * n.ndyn then .dyn ((w - d0) % 8) else .delay
  else if n.type = T.bus then
    let d0 := n.dynWord 0
    if w = 0 then .gain
    else if w < d0 then seq5 1
    else if w < d0 + 8 * n.ndyn then .dyn ((w - d0) % 8) else .delay
  else if n.type = T.zone then
    let b0 := n.bqWord 0
    if w = 0 then .gain
    else if w < b0 then .nt (w - 1)
    else if w < n.limWord then seq5 b0
    else if w < n.limWord + 6 * n.lim then .lim (w - n.limWord) else .delay
  else if n.type = T.prio then .prio (w % 4)
  else if n.type = T.mix then .gain
  else if n.type = T.bulkDly then .bulkDelay
  else if n.type = T.silence then (if w = 0 then .silThresh else .silHold)
  else if n.type = T.srcVoice then .voice w
  else if n.type = T.snkRec then .recw w
  else .task

/-- A DELAY of `d` ticks suits a node's rate (R96). -/
def delayOk (rate d limit : Nat) : Bool :=
  decide (d ≤ limit) && (if rate = 0 then decide (d % 6 = 0) else if rate = 1 then decide (d % 3 = 0) else true)

/-- The single-word range of word `w` (R71). `get` reads the whole block. -/
def Node.wordOk (n : Node) (get : Nat → W32) (w : Nat) : Bool :=
  let v := get w
  let u := v.toNat
  let i := v.toInt
  let lvl := fun (x : Int) => decide (-2031616 ≤ x) && decide (x ≤ 0)
  let coefOk := decide (1 ≤ u) && decide (u ≤ 0x80000000)
  match n.kindOf w with
  | .gain => true
  | .pol => decide (u ≤ 1)
  | .coef _ => true
  | .dyn 0 => decide (u < 256) && decide (bits u 1 0 ≤ 2) && !bit u 3
  | .dyn 1 => lvl i
  | .dyn 2 =>
    let func := bits (get (w - 2)).toNat 1 0
    decide (u < 2 ^ 24) &&
      (if func = 1 then decide (u ≤ 65536) else if func = 2 then decide (u ≤ 4194304) else true)
  | .dyn 3 => decide (u ≤ 393216)
  | .dyn 4 => coefOk
  | .dyn 5 => coefOk
  | .dyn 6 => decide (u ≤ 65535)
  | .dyn _ => decide (u ≤ 196607)
  | .delay => delayOk n.rate u 2048
  | .nt 0 => lvl i
  | .nt 1 => decide (u ≤ 131072)
  | .nt 2 => decide (u ≤ 196607)
  | .nt _ => decide (1 ≤ u) && decide (u ≤ 65536)
  | .lim 0 => lvl i
  | .lim 1 => coefOk
  | .lim 2 => coefOk
  | .lim 3 => decide (u ≤ 65535)
  | .lim 4 => decide (1 ≤ u) && decide (u ≤ 0x7FFFFFFF)
  | .lim _ => decide (u ≤ 1)
  | .prio 0 => decide (u ≤ 7)
  | .prio 1 => decide (bits u 1 0 ≤ 2) && decide (bits u 3 2 ≤ 2) && decide (bits u 15 10 = 0)
  | .prio 2 => decide (u ≤ 0x10000000)
  | .prio _ => decide (bits u 19 16 ≤ 12) && decide (bits u 23 20 ≤ 12) && decide (bits u 31 24 = 0)
  | .bulkDelay => delayOk n.rate u 131072
  | .silThresh => decide (u ≤ 0x7FFFFFFF)
  | .silHold => decide (1 ≤ u) && decide (u ≤ 16777215)
  | .voice 0 => decide (u % 64 = 0)
  | .voice 1 => true
  | .voice 2 => decide (1 ≤ u)
  | .voice 3 => decide (u ≤ 4)
  | .voice 4 => decide (u < (get 2).toNat)
  | .voice 5 => decide (u ≤ 7)
  | .voice 6 => true
  | .voice _ => decide (u = 0)
  | .recw 0 => decide (u % 64 = 0)
  | .recw 1 => true
  | .recw 2 => decide (1 ≤ u)
  | .recw 3 => decide (u ≤ 4)
  | .recw 4 => decide (u ≤ 3)
  | .recw _ => true
  | .task => true

/-- The coefficients whose first word is `w`. -/
def coefAt (get : Nat → W32) (w : Nat) : Coef :=
  { b0 := (get w).toInt, b1 := (get (w + 1)).toInt, b2 := (get (w + 2)).toInt, a1 := (get (w + 3)).toInt,
    a2 := (get (w + 4)).toInt }

/-- Biquads of a node, the high-pass filter included: their first words. -/
def Node.coefSets (n : Node) : List Nat :=
  (if n.type = T.strip ∧ n.hpf = 1 then [2] else []) ++
    (if n.type = T.strip ∨ n.type = T.bus ∨ n.type = T.zone then (List.range n.nbq).map n.bqWord else [])

/-- A stored region: first byte and stored bytes (R106, R107). -/
def region (get : Nat → W32) : Nat × Nat :=
  ((get 0).toNat + (get 1).toNat * 2 ^ 32, fmtSize (get 3).toNat (get 2).toNat)

/-- Whether two regions share a byte. -/
def overlaps (a b : Nat × Nat) : Bool := decide (a.1 < b.1 + b.2) && decide (b.1 < a.1 + a.2)

/-- Usable bulk-memory bytes: seven eighths of the installed size (R367). -/
def State.bulkBytes (s : State) : Nat := 2 ^ (30 + s.fget F.BLK_CFG_SIZE) / 8 * 7

/-- The program region (R60, R67). -/
def State.progRegion (s : State) : Nat × Nat := (s.fget F.ENG_PROG_BASE_BASE * 2 ^ 26, 2 ^ 27)

/-- R107, R109: a region lies inside installed memory and off the program region. -/
def State.regionOk (s : State) (r : Nat × Nat) : Bool :=
  decide (r.1 + r.2 ≤ s.bulkBytes) && !overlaps r s.progRegion

/-- Every range and spanning condition of a node's block but the recorders' overlap with one another (R71, R79, R107,
R109). -/
def State.blockOk (s : State) (n : Node) (count : Nat) (get : Nat → W32) : Bool :=
  (List.range count).all (fun w => n.wordOk get w) &&
    n.coefSets.all (fun w => (coefAt get w).ok) &&
    (if n.type = T.srcVoice ∨ n.type = T.snkRec then s.regionOk (region get) else true)

/-! ### Locked limits (R172, R173) -/

/-- Whether the limits are in force. -/
def State.anaLocked (s : State) : Bool := s.fon F.ANA_CTRL_LOCK

/-- The five words of entry `e` of equaliser table `b`. -/
def State.eqEntry (s : State) (b e : Nat) : List W32 :=
  [s.reg (A.ANA_EQ_W0 b e), s.reg (A.ANA_EQ_W1 b e), s.reg (A.ANA_EQ_W2 b e), s.reg (A.ANA_EQ_W3 b e),
   s.reg (A.ANA_EQ_W4 b e)]

/-- Lowest and highest entry of band `b` in zone `z`'s limit block. -/
def State.eqRange (s : State) (z b : Nat) : Nat × Nat :=
  (bits (s.reg (A.ANA_LIM_W6 z)).toNat (4 * b + 3) (4 * b), bits (s.reg (A.ANA_LIM_W7 z)).toNat (4 * b + 3) (4 * b))

/-- The bands of zone `z`'s BAND_MASK. -/
def State.zoneBands (s : State) (z : Nat) : List Nat :=
  (List.range 7).filter (fun b => bit (s.fget (F.ANA_LIM_W5_BAND_MASK z)) b)

/-- R173: the check of one band. -/
def State.bandOk (s : State) (n : Node) (get : Nat → W32) (b : Nat) : Bool :=
  let q := s.fget (F.ANA_LIM_W5_BQ_FIRST n.position) + b
  let r := s.eqRange n.position b
  decide (q < n.nbq) &&
    (List.range 16).any (fun e => decide (r.1 ≤ e) && decide (e ≤ r.2) &&
      decide (s.eqEntry b e = (List.range 5).map (fun j => get (n.bqWord q + j))))

/-- R173: whether a ZONE block keeps within the locked limits; the check of word `w` alone where `only` names it. -/
def State.clampOk (s : State) (n : Node) (only : Nat → Bool) (get : Nat → W32) : Bool :=
  if ¬ s.anaLocked ∨ n.type ≠ T.zone then true
  else
    let z := n.position
    let lw := n.limWord
    (if only 0 then
      decide (s.regInt (A.ANA_LIM_W0 z) ≤ (get 0).toInt) && decide ((get 0).toInt ≤ s.regInt (A.ANA_LIM_W1 z))
     else true) &&
    (if n.ntg = 1 ∧ only 3 then decide ((get 3).toInt ≤ s.regInt (A.ANA_LIM_W2 z)) else true) &&
    (if n.lim = 1 ∧ only lw then decide ((get lw).toInt ≤ s.regInt (A.ANA_LIM_W3 z)) else true) &&
    (if n.lim = 1 ∧ (only (lw + 4) || only (lw + 5)) then
      decide ((get (lw + 4)).toNat ≤ (s.reg (A.ANA_LIM_W4 z)).toNat) &&
        (decide ((get (lw + 5)).toNat % 2 = 1) || decide (0x7FFFFFFF ≤ (s.reg (A.ANA_LIM_W4 z)).toNat))
     else true) &&
    (s.zoneBands z).all (fun b =>
      let q := n.bqWord (s.fget (F.ANA_LIM_W5_BQ_FIRST z) + b)
      if only q || only (q + 1) || only (q + 2) || only (q + 3) || only (q + 4) ||
          decide (n.nbq ≤ s.fget (F.ANA_LIM_W5_BQ_FIRST z) + b) then s.bandOk n get b else true)

end Sys2Proof.Machine
end

