-- ==== Sys2Proof/Machine/Crossfade.lean ====
section
/-! DEFINITION. What a crossfade keeps: retained and changed nodes, shared crosspoints, merge points, the warm-up, and
where tasks are placed (R62 to R65, R116, R117, R197, R201). -/

namespace Sys2Proof.Machine

open Sys2Proof.Arith

/-! ### Retained nodes (R62, R117, R201) -/

/-- What R62 compares of a node's input edges: source keys, ports and flags, in port order. -/
def Prog.edgeKeys (p : Prog) (i : Nat) : List (Nat × Nat × Nat × Bool) :=
  (p.inEdges i).map (fun e => ((p.node e.src).key, e.srcPort, e.dstPort, e.reference))

/-- The code bytes of a task entry. -/
def Prog.taskCode (p : Prog) (t : TaskEntry) : List Nat := (p.code.drop t.codeOff).take t.codeSize

/-- R117: what the entries of a retained task share. -/
def sameTask (old new : Prog) (i j : Nat) : Bool :=
  match old.tasks[i]?, new.tasks[j]? with
  | some a, some b =>
    decide (a.core = b.core) && decide (a.kind = b.kind) && decide (a.codeSize = b.codeSize) &&
      decide (a.dataSize = b.dataSize) && decide (a.entry = b.entry) && decide (old.taskCode a = new.taskCode b)
  | _, _ => false

/-- R62, but for the rule that joins the two ends of a return index: the old node that new node `i` retains. -/
def retainedBase (old new : Prog) (i : Nat) : Option Nat :=
  let n := new.node i
  match old.nodes.findIdx? (fun o => o.key = n.key) with
  | none => none
  | some j =>
    let o := old.node j
    let same := decide (o.type = n.type) && decide (o.stage = n.stage) && decide (o.rate = n.rate) &&
      decide (o.phase = n.phase) && decide (o.position = n.position)
    if n.type = T.mix then (if same then some j else none)
    else if same && decide (o.config = n.config) && decide (o.bind = n.bind) && decide (o.mxIn = n.mxIn) &&
        decide (old.edgeKeys j = new.edgeKeys i) && (if n.isTask then sameTask old new o.bind n.bind else true) then some j
    else none

/-- The two ends of return index `k` in a program. -/
def Prog.retEnds (p : Prog) (k : Nat) : List Nat :=
  ((p.nodes.zipIdx).filter (fun x => (x.1.type = T.srcRet || x.1.type = T.snkRet) && decide (x.1.bind = k))).map (·.2)

/-- R62, R201: the old node that new node `i` retains; none for a changed node. -/
def retained (old new : Prog) (i : Nat) : Option Nat :=
  let n := new.node i
  if n.type = T.srcRet ∨ n.type = T.snkRet then
    if (new.retEnds n.bind).all (fun k => (retainedBase old new k).isSome) then retainedBase old new i else none
  else retainedBase old new i

/-- The pairs (old, new) of retained nodes. -/
def retainedPairs (old new : Prog) : List (Nat × Nat) :=
  (List.range new.nodes.length).filterMap (fun i => (retained old new i).map (fun j => (j, i)))

/-- Whether old node `j` runs on as an old instance (R62). -/
def oldInstance (pairs : List (Nat × Nat)) (j : Nat) : Bool := pairs.all (fun p => p.1 ≠ j)

/-- The new node that retains old node `j`. -/
def newOf (pairs : List (Nat × Nat)) (j : Nat) : Option Nat := (pairs.find? (fun p => p.1 = j)).map (·.2)

/-- The old node that new node `i` retains. -/
def oldOf (pairs : List (Nat × Nat)) (i : Nat) : Option Nat := (pairs.find? (fun p => p.2 = i)).map (·.1)

/-! ### Crosspoints (R63) -/

/-- Whether new MIX `i` and the old MIX `j` it retains share the crosspoint at matrix input `mx`. -/
def sharedXp (old new : Prog) (pairs : List (Nat × Nat)) (j i mx : Nat) : Bool :=
  let n := new.node i
  (old.crosspoints (old.node j)).contains mx && (new.crosspoints n).contains mx &&
    (match new.mxSource mx n.rate n.phase with
     | none => false
     | some src => (oldOf pairs src.1).isSome)

/-- Whether a retained MIX has old-only or new-only crosspoints. -/
def mixDiffers (old new : Prog) (pairs : List (Nat × Nat)) (j i : Nat) : Bool :=
  (old.crosspoints (old.node j)).any (fun mx => !sharedXp old new pairs j i mx) ||
    (new.crosspoints (new.node i)).any (fun mx => !sharedXp old new pairs j i mx)

/-- Whether the stream out of new node `i` differs from the old one: the node is changed, or a MIX that differs. -/
def streamDiffers (old new : Prog) (pairs : List (Nat × Nat)) (i : Nat) : Bool :=
  match oldOf pairs i with
  | none => true
  | some j => decide ((new.node i).type = T.mix) && mixDiffers old new pairs j i

/-- R64: whether input `e` of new node `i` is a merge point: a retained consumer whose source differs. -/
def isMerge (old new : Prog) (pairs : List (Nat × Nat)) (i : Nat) (e : Edge) : Bool :=
  (oldOf pairs i).isSome && streamDiffers old new pairs e.src

/-! ### Warm-up (R197) -/

/-- The edges of a program with their latencies, crosspoints included. DEDUCED (log entry 96): a REFERENCE edge, which may lead
back to an earlier stage, is part of no path, since W lies between 0 and 10. -/
def Prog.timedEdges (p : Prog) : List (Nat × Nat × Nat) :=
  (p.edges.filter (fun e => !e.reference)).map (fun e => (e.src, e.dst, p.latency e.src e.dst)) ++
    (p.nodes.zipIdx).flatMap (fun x =>
      if x.1.type = T.mix then
        (p.crosspoints x.1).filterMap (fun mx =>
          (p.mxSource mx x.1.rate x.1.phase).map (fun src => (src.1, x.2, p.latency src.1 x.2)))
      else [])

/-- One pass over the edges: the longest known path into every node, as ticks + 1, 0 for none. -/
def relax (edges : List (Nat × Nat × Nat)) (dist : Tbl Nat) : Tbl Nat :=
  edges.foldl (fun d e =>
    let a := Tbl.get d 0 e.1
    if a = 0 then d
    else if Tbl.get d 0 e.2.1 < a + e.2.2 then Tbl.set d 0 e.2.1 (a + e.2.2) else d) dist

/-- Passes until nothing changes, at most `fuel`. -/
def relaxAll (edges : List (Nat × Nat × Nat)) : Nat → Tbl Nat → Tbl Nat
  | 0, d => d
  | fuel + 1, d =>
    let d' := relax edges d
    if d' = d then d else relaxAll edges fuel d'

/-- R197: the warm-up W: the longest way from a changed node, or a MIX whose crosspoints differ, to a merge point. -/
def warmUp (old new : Prog) : Nat :=
  let pairs := retainedPairs old new
  let edges := new.timedEdges
  let starts := (List.range new.nodes.length).filter (fun i => streamDiffers old new pairs i)
  let dist := relaxAll edges new.nodes.length (starts.foldl (fun d i => Tbl.set d 0 i 1) [])
  edges.foldl (fun w e =>
    let consumer := new.node e.2.1
    let merges := (consumer.isSink || ((oldOf pairs e.2.1).isSome && decide (consumer.type ≠ T.mix))) &&
      streamDiffers old new pairs e.1
    let a := Tbl.get dist 0 e.1
    if merges ∧ a ≠ 0 then max w (a - 1 + e.2.2) else w) 0

/-! ### Task placement (R116 to R118) -/

/-- A task of a program's table at a place on its core. -/
def Prog.mkTask (p : Prog) (slot idx base xb yb : Nat) : Option Task :=
  match p.tasks[idx]? with
  | none => none
  | some t =>
    let n := p.node t.node
    let code := p.taskCode t
    some { slot := slot, idx := idx, node := t.node, kind := t.kind, base := base,
           size := (t.codeSize + t.dataSize) / 4, codeWords := t.codeSize / 4, entry := t.entry,
           mbHandler := fld code 4 2, errHandler := fld code 6 2, xb := xb, nin := n.nin, yb := yb,
           nout := n.nout, cycles := t.cycles }

/-- The lowest start at which `len` units fit between the occupied ranges, within `limit`. -/
def firstFit (occ : List (Nat × Nat)) (len limit : Nat) : Option Nat :=
  let starts := (0 :: occ.map (fun o => o.1 + o.2)).filter (fun a =>
    decide (a + len ≤ limit) && occ.all (fun o => decide (a + len ≤ o.1) || decide (o.1 + o.2 ≤ a)))
  starts.foldl (fun best a => match best with | none => some a | some b => some (min a b)) none

/-- R116: tasks placed in table order from word 0, beside nothing. The second component is a core that overflows. -/
def placeFresh (p : Prog) (slot : Nat) : List (Nat × Task) × Option (Nat × Nat) :=
  (List.range p.tasks.length).foldl (fun acc idx =>
    match p.tasks[idx]? with
    | none => acc
    | some t =>
      let mine := (acc.1.filter (fun x => x.1 = t.core)).map (·.2)
      let base := mine.foldl (fun m (x : Task) => m + x.size) 0
      let xb := mine.foldl (fun m (x : Task) => m + 4 * x.nin) 0
      let yb := mine.foldl (fun m (x : Task) => m + 4 * x.nout) 0
      match p.mkTask slot idx base xb yb with
      | none => acc
      | some k =>
        let full := decide (0x4000 < base + k.size) || decide (64 ≤ mine.length) || decide (2048 < xb + 4 * k.nin) ||
          decide (2048 < yb + 4 * k.nout)
        (acc.1 ++ [(t.core, k)], if acc.2.isNone && full then some (idx, t.core) else acc.2)) ([], none)

/-- R117: tasks of a new program beside the old one's: retained tasks keep their place, others go first-fit. None where
the placement does not fit. -/
def placeXf (new : Prog) (pairs : List (Nat × Nat)) (slot : Nat) (have_ : List (Nat × Task)) :
    Option (List (Nat × Task)) :=
  (List.range new.tasks.length).foldl (fun acc idx =>
    match acc, new.tasks[idx]? with
    | none, _ => none
    | some l, none => some l
    | some l, some t =>
      match (oldOf pairs t.node).bind (fun j => have_.find? (fun x => x.2.node = j)) with
      | some o => some (l ++ [(o.1, { o.2 with slot := slot, idx := idx, node := t.node, cycles := t.cycles })])
      | none =>
        let busy := ((have_ ++ l.filter (fun x => (oldOf pairs x.2.node).isNone)).filter (fun x => x.1 = t.core)).map (·.2)
        let n := new.node t.node
        let size := (t.codeSize + t.dataSize) / 4
        match firstFit (busy.map (fun x => (x.base, x.size))) size 0x4000,
              firstFit (busy.map (fun x => (x.xb, 4 * x.nin))) (4 * n.nin) 2048,
              firstFit (busy.map (fun x => (x.yb, 4 * x.nout))) (4 * n.nout) 2048 with
        | some b, some xb, some yb =>
          if 64 ≤ busy.length then none else (new.mkTask slot idx b xb yb).map (fun k => l ++ [(t.core, k)])
        | _, _, _ => none) (some [])

/-- The tasks of a slot as they stand on the cores, with their cores. -/
def State.slotTasks (s : State) (slot : Nat) : List (Nat × Task) :=
  s.cores.flatMap (fun c => (c.2.tasks.filter (fun t => t.slot = slot)).map (fun t => (c.1, t)))

end Sys2Proof.Machine
end

