-- ==== Sys2Proof/Machine/Loader.lean ====
section
/-! DEFINITION. The loader's checks of an image, in the order of R57, with the codes of R58. -/

namespace Sys2Proof.Machine

open Sys2Proof.Arith

/-- What a failed check reports: code, section, entry, lane or core, phase (R57). -/
structure LoadErr where
  code : Nat
  sect : Nat
  index : Nat := 0xFFFFFFFF
  unit : Nat := 0
  phase : Nat := 0
  deriving DecidableEq, Repr

/-- A check: an error where the condition fails. -/
def need (ok : Bool) (code sect : Nat) (index : Nat := 0xFFFFFFFF) : Option LoadErr :=
  if ok then none else some { code := code, sect := sect, index := index }

/-- The first error over a list, with the index of each element. -/
def firstErr {α : Type} (l : List α) (f : Nat → α → Option LoadErr) : Option LoadErr :=
  (l.zipIdx).findSome? (fun x => f x.2 x.1)

/-- The first error of several checks. -/
def firstOf (l : List (Unit → Option LoadErr)) : Option LoadErr := l.findSome? (fun f => f ())

/-! ### Header and directory (R38 to R41) -/

/-- R38: the image with IMAGE_CRC taken as zero. -/
def crcImage (img : List Nat) : List Nat := img.take 0x3C ++ [0, 0, 0, 0] ++ img.drop 0x40

/-- Step 2: the header. `other` is the other slot's PROGRAM_ID, `family` the device's. -/
def checkHeader (img : List Nat) (len family other : Nat) : Option LoadErr :=
  let size := fld img 8 4
  firstOf [
    fun _ => need (fld img 0 4 = 0x5047524F) 0x101 0,
    fun _ => need (fld img 4 2 = 0x0100 && fld img 6 2 = 0x0040) 0x102 0,
    fun _ => need (decide (64 ≤ size) && decide (size ≤ 2 ^ 26) && decide (size % 16 = 0) && decide (size = len)) 0x103 0,
    fun _ => need (decide (crc32c (crcImage img) = fld img 0x3C 4)) 0x104 0,
    fun _ => need (decide (fld img 0x14 1 = family)) 0x105 0,
    fun _ => need (decide (fld img 0x16 2 = 0) && ((img.drop 0x1C).take 32).all (fun b => decide (b = 0))) 0x107 0,
    fun _ => need (decide (fld img 0x0C 4 ≠ 0) && decide (fld img 0x0C 4 ≠ other)) 0x108 0]

/-- Entry size of a section type; 0 for a type whose size R40 does not tie to COUNT. -/
def entrySize (t : Nat) : Nat :=
  match t with
  | 1 => 32
  | 2 => 8
  | 3 => 4
  | 4 => 16
  | 5 => 4
  | 6 => 8
  | 9 => 32
  | 10 => 1
  | _ => 0

/-- Whether SIZE and COUNT of a directory entry agree (R40, R49). -/
def sizeOk (d : DirEntry) : Bool :=
  if d.type = 7 ∨ d.type = 8 then decide (d.size = 192 + 8 * d.count)
  else if 0x100 ≤ d.type then true
  else decide (d.size = d.count * entrySize d.type)

/-- Step 3: the section directory. -/
def checkDirectory (img : List Nat) : Option LoadErr :=
  let n := fld img 0x15 1
  let size := fld img 8 4
  let dir := directory img
  firstOf [
    fun _ => need (decide (2 ≤ n) && decide (n ≤ 16) && decide (0x40 + 16 * n ≤ size)) 0x106 0,
    fun _ => firstErr dir (fun i d => firstOf [
      fun _ => need ((decide (1 ≤ d.type) && decide (d.type ≤ 10)) || decide (0x100 ≤ d.type)) 0x106 0 i,
      fun _ => need (decide (d.rsv = 0)) 0x107 0 i,
      fun _ => need (decide (d.off % 16 = 0) && sizeOk d && decide (0x40 + 16 * n ≤ d.off) &&
        decide (d.off + d.size ≤ size)) 0x106 0 i,
      fun _ => need ((dir.take i).all (fun e => decide (e.type ≠ d.type) && !overlaps (e.off, e.size) (d.off, d.size)))
        0x106 0 i]),
    fun _ => need ((findSect img 1).isSome && (findSect img 7).isSome) 0x106 0]

/-! ### Nodes (R30 to R35, R42) -/

/-- The positions a node occupies: space (0 strip, 1 matrix input, 2 bus, 3 zone), limit, list. -/
def Node.spaces (n : Node) : List (Nat × Nat × List Nat) :=
  (if n.type = T.strip then [(0, 1536, occupies n.rate n.phase n.position)] else []) ++
    (if n.mxIn = 0xFFFF then [] else [(1, 1536, n.mxPositions)]) ++
    (if n.type = T.mix then [(2, 768, occupies n.rate n.phase n.position)] else []) ++
    (if n.type = T.zone then [(3, 512, occupies n.rate n.phase n.position)] else [])

/-- Whether POSITION may be what it is on this type alone (R35, R42). -/
def Node.positionOk (n : Node) : Bool :=
  if n.type = T.strip ∨ n.type = T.mix ∨ n.type = T.zone then true
  else if n.type = T.bus then decide (n.position < 768)
  else decide (n.position = 0)

/-- What step 4 carries along the node table: keys, bindings and positions seen so far. -/
structure Seen where
  keys : Tbl Bool := []
  binds : Tbl Bool := []
  used : List (Tbl Bool) := [[], [], [], []]
  err : Option LoadErr := none

/-- Bulk delay lines that a BULKDLY node takes (R368). -/
def Node.lines (n : Node) : List Nat := (List.range (rateWidth n.rate)).map (fun i => n.bind + i)

/-- The bindings a node takes, as keys. DESIGN CHOICE (log entry 105): a source and a sink of one row of R32 with equal
BIND values take two bindings, as the two directions of one slot or channel. Unsafe. -/
def Node.bindKeys (n : Node) : List Nat :=
  if n.type = T.bulkDly then n.lines.map (fun l => n.type * 2 ^ 32 + l)
  else if n.binds ∨ n.isTask then [n.type * 2 ^ 32 + n.bind] else []

/-- One node of step 4. `ownRule` is the binding rule of the chapter that owns a source or sink. -/
def checkNode (ownRule : Node → Bool) (i : Nat) (n : Node) (raw : List Nat) (seen : Seen) : Option LoadErr :=
  firstOf [
    fun _ => need (decide (fld raw 15 1 = 0) && decide (fld raw 26 2 = 0) && decide (fld raw 30 2 = 0)) 0x107 1 i,
    fun _ => need ((typeStages n.type).contains n.stage) 0x201 1 i,
    fun _ => need (ratePhaseOk n.rate n.phase) 0x202 1 i,
    fun _ => need n.configOk 0x203 1 i,
    fun _ => need (decide (n.bind < n.bindLimit) && ownRule n && n.bindKeys.all (fun k => !Tbl.get seen.binds false k) &&
      (if n.type = T.bulkDly then n.lines.all (fun l => decide (l ≤ 1023)) else true)) 0x204 1 i,
    fun _ => need (!Tbl.get seen.keys false n.key) 0x205 1 i,
    fun _ => need (decide (n.cost = n.trueCost)) 0x206 1 i,
    fun _ => need (n.positionOk && (decide (n.mxIn = 0xFFFF) || n.mxAllowed) &&
      n.spaces.all (fun x => !clash (seen.used.getD x.1 []) x.2.1 x.2.2)) 0x207 1 i]

/-- Step 4 up to a node's error, or with the node noted. -/
def seeNode (ownRule : Node → Bool) (seen : Seen) (x : (Node × List Nat) × Nat) : Seen :=
  if seen.err.isSome then seen
  else
    let n := x.1.1
    match checkNode ownRule x.2 n x.1.2 seen with
    | some e => { seen with err := some e }
    | none =>
      { keys := Tbl.set seen.keys false n.key true, binds := occupy seen.binds n.bindKeys,
        used := n.spaces.foldl (fun u y => setAt u y.1 (occupy (u.getD y.1 []) y.2.2)) seen.used, err := none }

/-- Step 4: the nodes, the return indices, and the sections that the nodes require. -/
def checkNodes (ownRule : Node → Bool) (img : List Nat) (p : Prog) : Option LoadErr :=
  let rule := fun (n : Node) => ownRule n && (!n.isTask || (findSect img 9).isNone || decide (n.bind < p.tasks.length))
  let seen := ((p.nodes.zip (entries img 1 32)).zipIdx).foldl (seeNode rule) {}
  let has := fun (t : Nat) => (findSect img t).isSome
  firstOf [
    fun _ => seen.err,
    fun _ => firstErr p.nodes (fun i n =>
      if n.type = T.snkRet then need (p.nodes.any (fun m => m.type = T.srcRet && decide (m.bind = n.bind))) 0x204 1 i
      else if n.type = T.srcRet then need (p.nodes.any (fun m => m.type = T.snkRet && decide (m.bind = n.bind))) 0x204 1 i
      else none),
    fun _ => need (has 2 || p.nodes.all (fun n => n.edgeCount = 0)) 0x106 0,
    fun _ => need (has 3 || p.nodes.all (fun n => n.type ≠ T.mix || n.bind = 0)) 0x106 0,
    fun _ => need ((has 4 && has 5 && has 6) || p.nodes.all (fun n => n.pset = 0xFFFF)) 0x106 0,
    fun _ => need ((has 9 && has 10) || p.nodes.all (fun n => !n.isTask)) 0x106 0]

/-! ### Edges and crosspoints (R33 to R37, R43, R44) -/

/-- Rate and phase agreement of an edge (R33, R102). -/
def edgeRateOk (a b : Node) (reference : Bool) : Bool :=
  if reference then true
  else if b.type = T.rate then
    decide (a.rate = b.config) &&
      (match b.config, b.rate with
       | 0, 1 => decide (b.phase = a.phase % 3)
       | 1, 0 => decide (b.phase = a.phase) || decide (b.phase = a.phase + 3)
       | _, _ => true)
  else decide (a.rate = b.rate) && decide (a.phase = b.phase)

/-- Stage order of an edge (R33, R37, R43). -/
def edgeStageOk (a b : Node) (reference : Bool) : Bool :=
  if reference then b.isTask && (a.isTask || decide (a.stage ≤ 4))
  else if b.isTask then (if a.isTask then decide (a.stage < b.stage) else decide (a.stage = b.stage))
  else if a.isTask then decide (a.stage < b.stage)
  else decide (a.stage ≤ b.stage)

/-- Whether the edges come sorted by DST_NODE and then by DST_PORT. -/
def edgesSorted (l : List Edge) : Bool :=
  (l.zip (l.drop 1)).all (fun x => decide (x.1.dst < x.2.dst) ||
    (decide (x.1.dst = x.2.dst) && decide (x.1.dstPort ≤ x.2.dstPort)))

/-- Step 5: edges and crosspoints. -/
def checkEdges (img : List Nat) (p : Prog) : Option LoadErr :=
  let nn := p.nodes.length
  firstOf [
    fun _ => firstErr (p.edges.zip (entries img 2 8)) (fun i x =>
      let e := x.1
      let a := p.node e.src
      let b := p.node e.dst
      firstOf [
        fun _ => need (decide (fld x.2 6 1 ≤ 1) && decide (fld x.2 7 1 = 0)) 0x107 2 i,
        fun _ => need (decide (e.src < nn) && decide (e.dst < nn) && decide (e.srcPort < a.outputs) &&
          decide (e.dstPort < b.inputs) && decide (b.edgeFirst ≤ i) && decide (i < b.edgeFirst + b.edgeCount)) 0x301 2 i,
        fun _ => need (edgeRateOk a b e.reference) 0x302 2 i,
        fun _ => need (edgeStageOk a b e.reference) 0x303 2 i,
        fun _ => need (!(a.type = T.mix && b.type = T.bus) || decide (a.position = b.position)) 0x207 2 i]),
    fun _ => need (edgesSorted p.edges) 0x301 2,
    fun _ => firstErr p.nodes (fun i n => firstOf [
      fun _ => need (decide (n.edgeCount = 0) || (decide (n.edgeFirst + n.edgeCount ≤ p.edges.length) &&
        (p.inEdges i).all (fun e => e.dst = i))) 0x301 1 i,
      fun _ => need (decide ((p.inEdges i).map (·.dstPort) = List.range n.inputs)) 0x304 1 i]),
    fun _ => firstErr (entries img 3 4) (fun i e => need (decide (fld e 2 2 = 0)) 0x107 3 i),
    fun _ => firstErr p.nodes (fun i n =>
      if n.type ≠ T.mix then none
      else
        let xs := p.crosspoints n
        firstOf [
          fun _ => need (decide (xs.length = n.bind)) 0x305 1 i,
          fun _ => firstErr xs (fun j m => need (p.mxAny m && !(xs.take j).contains m) 0x305 3 (n.config + j)),
          fun _ => firstErr xs (fun j m => need (p.mxSource m n.rate n.phase).isSome 0x302 3 (n.config + j))])]

/-! ### Parameter sets and groups (R45 to R48) -/

/-- Step 6: parameter sets and commit groups. -/
def checkParams (s : State) (img : List Nat) (p : Prog) : Option LoadErr :=
  let words := p.pdata.length
  firstOf [
    fun _ => firstErr ((p.psets.zip (entries img 4 16))) (fun i x => firstOf [
      fun _ => need (decide (fld x.2 12 4 = 0)) 0x107 4 i,
      fun _ => need (decide (x.1.off % 4 = 0) && decide (x.1.size % 4 = 0) && decide (x.1.off / 4 + x.1.size / 4 ≤ words) &&
        decide (x.1.node < p.nodes.length) && decide ((p.node x.1.node).pset = i) &&
        (match (p.node x.1.node).wordCount with
         | some c => decide (x.1.size = 4 * c)
         | none => decide (x.1.size ≤ 4 * 16384))) 0x401 4 i,
      fun _ => need (decide (x.1.group ≤ 4095) && (p.groupEntry x.1.group).isSome) 0x402 4 i]),
    fun _ => firstErr p.nodes (fun i n =>
      need (if n.pset = 0xFFFF then (match n.wordCount with | some c => decide (c = 0) | none => true)
            else (match p.psets[n.pset]? with | some x => decide (x.node = i) | none => false)) 0x401 1 i),
    fun _ => firstErr (p.groups.zip (entries img 6 8)) (fun i x => firstOf [
      fun _ => need (decide (fld x.2 4 2 ≤ 1) && decide (fld x.2 6 2 = 0)) 0x107 6 i,
      fun _ => need (decide (x.1.group ≤ 4095) &&
        (match p.groups[i + 1]? with | some g => decide (x.1.group < g.group) | none => true)) 0x402 6 i]),
    fun _ => firstErr p.psets (fun i ps =>
      let n := p.node ps.node
      let get := p.word i
      firstOf [
        fun _ => need (s.blockOk n (ps.size / 4) get) 0x403 5 i,
        fun _ => need (s.clampOk n (fun _ => true) get) 0x404 5 i]),
    fun _ => firstErr p.nodes (fun i n =>
      if n.type ≠ T.snkRec then none
      else need ((p.nodes.zipIdx).all (fun x => x.1.type ≠ T.snkRec || decide (x.2 = i) ||
        !overlaps (region (p.word n.pset)) (region (p.word x.1.pset)))) 0x403 1 i)]

/-! ### Tasks (R53, R54, R115, R116, R152 to R155, R167, R169) -/

/-- R154, R155: the words of an estimator and its ports. -/
def estimatorOk (p : Prog) (n : Node) (i : Nat) (count : Nat) : Bool :=
  let w := fun (k : Nat) => (p.word n.pset k).toNat
  let z := bits (w 0) 3 0
  let mics := (List.range z).map (fun k => bits (w (1 + 8 * k)) 13 12 + 1)
  let first := fun (k : Nat) => (mics.take k).foldl (· + ·) k
  let lvlOk := fun (v : Int) (lo hi : Int) => decide (lo ≤ v) && decide (v ≤ hi)
  decide (1 ≤ z) && decide (z ≤ 8) && decide (count = 1 + 8 * z) && decide (n.rate = 2) && decide (n.nout = 0) &&
    decide (bits (w 0) 7 4 ≤ 5) && decide (1 ≤ bits (w 0) 15 8) && decide (1 ≤ bits (w 0) 23 16) &&
    decide (bits (w 0) 31 24 = 0) && decide (n.nin = first z) && decide (n.nin ≤ 16) &&
    (List.range z).all (fun k =>
      let b := 1 + 8 * k
      let m := mics.getD k 0
      (match p.inEdge i (first k) with
       | none => false
       | some e => e.reference && decide ((p.node e.src).type = T.zone) && decide (e.srcPort = 1) &&
           decide ((p.node e.src).rate = 2) && decide ((p.node e.src).position = bits (w b) 8 0)) &&
      (List.range m).all (fun j => match p.inEdge i (first k + 1 + j) with | none => false | some e => !e.reference) &&
      decide (bits (w b) 11 9 = 0) && decide (bits (w b) 15 14 ≤ 2) && decide (bits (w b) 31 16 = 0) &&
      (List.range 4).all (fun j =>
        let v := (p.word n.pset (b + 1 + j)).toInt
        lvlOk v (-1048576) 1048576 && (decide (j < m) || decide (v = 0))) &&
      lvlOk (p.word n.pset (b + 5)).toInt (-2031616) 0 && decide (1 ≤ bits (w (b + 6)) 15 0) && decide (w (b + 7) = 0))

/-- R167: the words and ports of an echo canceller. -/
def cancellerOk (p : Prog) (n : Node) (i : Nat) (count : Nat) : Bool :=
  let w := fun (k : Nat) => (p.word n.pset k).toNat
  let g := w 0
  decide (1 ≤ g) && decide (g ≤ 14) && decide (count = 1 + 4 * g) && decide (n.rate = 1) && decide (n.nin = g + 1) &&
    decide (n.nout = g) &&
    (match p.inEdge i 0 with
     | none => false
     | some e => e.reference && decide ((p.node e.src).rate = 1) && decide ((p.node e.src).phase = n.phase)) &&
    (List.range g).all (fun c =>
      let b := 1 + 4 * c
      let d := (p.word n.pset (b + 2)).toInt
      (match p.inEdge i (c + 1) with | none => false | some e => !e.reference) &&
      decide (w b % 64 = 0) && decide (64 ≤ w b) && decide (w b ≤ 2048) && decide (w (b + 1) ≤ 3) &&
      decide (-1048576 ≤ d) && decide (d ≤ 0) && decide (w (b + 3) ≤ 393216))

/-- R169: the words and ports of a feedback suppressor. -/
def suppressorOk (p : Prog) (n : Node) (count : Nat) : Bool :=
  let w := fun (k : Nat) => (p.word n.pset k).toNat
  let c := w 0
  decide (1 ≤ c) && decide (c ≤ 16) && decide (count = 1 + 2 * c) && decide (n.rate = 2) && decide (n.nin = c) &&
    decide (n.nout = c) &&
    (List.range c).all (fun k =>
      let d := (p.word n.pset (2 + 2 * k)).toInt
      decide (bits (w (1 + 2 * k)) 3 0 ≤ 8) && decide (bits (w (1 + 2 * k)) 15 4 = 0) &&
        decide (1 ≤ bits (w (1 + 2 * k)) 31 16) && decide (-393216 ≤ d) && decide (d ≤ 0))

/-- R153: the region of a vendor task is at least what its units need. -/
def vendorUnits (p : Prog) (n : Node) (kind : Nat) : Nat :=
  let w := fun (k : Nat) => (p.word n.pset k).toNat
  if kind = 1 then w 0 else if kind = 3 then w 0
  else (List.range (bits (w 0) 3 0)).foldl (fun a k => a + 96 + 48 * (bits (w (1 + 8 * k)) 13 12 + 1)) 0

/-- R54: the least PHASE_CYCLES of a vendor task in a phase in which it takes a sample. -/
def vendorCycles (p : Prog) (n : Node) (kind : Nat) : Nat :=
  if kind = 1 then 1536 * vendorUnits p n 1 else if kind = 2 then vendorUnits p n 2
  else if kind = 3 then 180 * vendorUnits p n 3 else 0

/-- Cycles of core `c` in phase `q` (R55). -/
def Prog.coreCycles (p : Prog) (c q : Nat) : Nat :=
  p.tasks.foldl (fun a t => if t.core = c then a + t.cycles.getD q 0 else a) 0

/-- Step 7: tasks. -/
def checkTasks (img : List Nat) (p : Prog) : Option LoadErr :=
  firstOf [
    fun _ => firstErr (p.tasks.zip (entries img 9 32)) (fun i x =>
      let t := x.1
      let n := p.node t.node
      let code := p.taskCode t
      let count := p.setWords n.pset
      let at4 := fun (h : Nat) => h = 0xFFFF || (decide (4 ≤ h) && decide (h < t.codeSize / 4))
      firstOf [
        fun _ => need (decide (fld x.2 30 2 = 0)) 0x107 9 i,
        fun _ => need (decide (t.node < p.nodes.length) && n.isTask && decide (n.bind = i) && decide (t.core < 32) &&
          (decide (1 ≤ t.kind ∧ t.kind ≤ 3) || decide (0x80 ≤ t.kind)) &&
          decide (t.codeOff % 8 = 0) && decide (t.codeSize % 8 = 0) && decide (t.dataSize % 8 = 0) &&
          decide (16 ≤ t.codeSize) && decide (t.codeOff + t.codeSize ≤ p.code.length) &&
          decide (fld code 0 4 = 0x01005343) && decide (fld code 8 8 = 0) && at4 (fld code 4 2) && at4 (fld code 6 2) &&
          decide (4 ≤ t.entry) && decide (t.entry < t.codeSize / 4) &&
          (if t.kind = 1 then cancellerOk p n t.node count
           else if t.kind = 2 then estimatorOk p n t.node count
           else if t.kind = 3 then suppressorOk p n count else true)) 0x601 9 i]),
    fun _ => firstErr p.nodes (fun i n =>
      if n.isTask then need (match p.tasks[n.bind]? with | some t => decide (t.node = i) | none => false) 0x601 1 i else none),
    fun _ => match (placeFresh p 0).2 with
      | some (i, c) => some { code := 0x602, sect := 9, index := i, unit := c }
      | none => none,
    fun _ => firstErr p.tasks (fun i t =>
      (List.range 6).findSome? (fun q =>
        if 24576 < p.coreCycles t.core q ∨
            (0 < (p.node t.node).samples q ∧ t.cycles.getD q 0 < vendorCycles p (p.node t.node) t.kind) then
          some { code := 0x603, sect := 9, index := i, unit := t.core, phase := q }
        else none))]

/-! ### Resources (R55, R369) -/

/-- Bulk bytes that a program moves over the six phases (R369). -/
def Prog.bulkTraffic (p : Prog) : Nat :=
  p.nodes.foldl (fun a n =>
    let per := if n.type = T.bulkDly then 8
      else if n.type = T.srcVoice ∨ n.type = T.snkRec then fmtBytes (p.word n.pset 3).toNat else 0
    a + per * (List.range 6).foldl (fun b q => b + n.samples q) 0) 0

/-- Estimator zones of a program: the ZPOS of every kind 02h task. -/
def Prog.estimatorZones (p : Prog) : List Nat :=
  p.tasks.flatMap (fun t =>
    if t.kind = 2 then
      let ps := (p.node t.node).pset
      (List.range (bits (p.word ps 0).toNat 3 0)).map (fun z => bits (p.word ps (1 + 8 * z)).toNat 8 0)
    else [])

/-- Canceller channels of a program. -/
def Prog.cancellers (p : Prog) : Nat :=
  p.tasks.foldl (fun a t => if t.kind = 1 then a + (p.word (p.node t.node).pset 0).toNat else a) 0

/-- Step 8: resources. -/
def checkResources (s : State) (p : Prog) : Option LoadErr :=
  let zones := p.estimatorZones
  firstOf [
    fun _ => need (decide (p.nodes.length ≤ 32768)) 0x701 1,
    fun _ => need (decide (p.edges.length ≤ 65536)) 0x701 2,
    fun _ => need (decide (p.groups.length ≤ 4096)) 0x701 6,
    fun _ => need (decide (p.cancellers ≤ 256) && decide (zones.eraseDups.length = zones.length)) 0x701 9,
    fun _ => need (decide (p.bulkTraffic ≤ 6 * s.fget F.BLK_CFG_BUDGET * 1024)) 0x701 1]

/-! ### Schedules (R34, R49 to R51, R56) -/

/-- Lanes of stages 1 to 4. -/
def stageLanes (stage : Nat) : Nat :=
  match stage with
  | 1 => 16
  | 2 => 64
  | 3 => 8
  | _ => 8

/-- R49: the descriptors give lists inside the entries that neither overlap nor leave an entry out. -/
def listsOk (bs : List Nat) (count : Nat) : Bool :=
  let ds := (descriptors bs).filter (fun d => decide (0 < d.2))
  ds.all (fun d => decide (d.1 % 8 = 0) && decide (192 ≤ d.1) && decide (d.1 + 8 * d.2 ≤ 192 + 8 * count)) &&
    (ds.zipIdx).all (fun x => (ds.take x.2).all (fun y => !overlaps (y.1, 8 * y.2) (x.1.1, 8 * x.1.2))) &&
    decide (ds.foldl (fun a d => a + d.2) 0 = count)

/-- Whether ranges tile 0 to `total` - 1 exactly. -/
def tiles (ranges : List (Nat × Nat)) (total : Nat) : Bool :=
  decide (((ranges.flatMap (fun r => (List.range r.2).map (fun i => r.1 + i))).mergeSort (fun a b => decide (a ≤ b))) =
    List.range total)

/-- Cost of a schedule entry in a phase (R56): a MIX entry its crosspoints, a merge 2 (R64). -/
def entryCycles (n : Node) (e : SEntry) (q : Nat) : Nat :=
  if e.kind = 3 then 2 * n.samples q
  else (if n.type = T.mix then e.xcount else n.trueCost) * n.samples q

/-- Whether, in a list, entry `e` at place `j` comes after the same-stage sources of its node, on their lane (R34). -/
def entryOrdered (p : Prog) (l : List SEntry) (j : Nat) (e : SEntry) : Bool :=
  (p.inEdges e.node).all (fun d =>
    let a := p.node d.src
    if a.isTask ∨ a.stage ≠ (p.node e.node).stage ∨ ¬ l.any (fun y => y.node = d.src) then true
    else ((l.take j).any (fun y => y.node = d.src && decide (y.lane = e.lane))))

/-- An entry of a list that fails: its section, its index there, its lane and the phase (R57). -/
def entryErr (sect q code : Nat) (e : SEntry) : LoadErr :=
  { code := code, sect := sect, index := e.index, unit := e.lane, phase := q }

/-- The first entry of a list that breaks `ok`. -/
def firstEntry (l : List SEntry) (ok : Nat → SEntry → Bool) (err : SEntry → LoadErr) : Option LoadErr :=
  firstErr l (fun j e => if ok j e then none else some (err e))

/-- Step 9: the schedule. -/
def checkSchedule (img : List Nat) (p : Prog) : Option LoadErr :=
  match findSect img 7 with
  | none => none
  | some d =>
    firstOf [
      fun _ => need (listsOk (sectionBytes img d) d.count) 0x501 7,
      fun _ => firstErr p.sched (fun i l =>
        let stage := i / 6 + 1
        let q := i % 6
        let bad := entryErr 7 q
        let none' := fun (code unit : Nat) => some { code := code, sect := 7, unit := unit, phase := q : LoadErr }
        firstOf [
          fun _ => firstEntry l (fun _ e => e.kind = 0 && decide (e.node < p.nodes.length) && decide ((p.node e.node).stage = stage) &&
              !(p.node e.node).isTask && decide (0 < (p.node e.node).samples q) &&
              ((p.node e.node).type = T.mix || (e.xfirst = 0 && e.xcount = 0))) (bad 0x501),
          fun _ => firstEntry l (fun j e => (p.node e.node).type = T.mix || !(l.take j).any (fun y => y.node = e.node)) (bad 0x501),
          fun _ => if (p.nodes.zipIdx).all (fun x =>
              let mine := l.filter (fun e => e.node = x.2)
              if x.1.stage ≠ stage ∨ x.1.isTask ∨ x.1.samples q = 0 then true
              else if x.1.type = T.mix then decide (mine ≠ []) && tiles (mine.map (fun e => (e.xfirst, e.xcount))) x.1.bind
              else decide (mine.length = 1)) then none else none' 0x501 0,
          fun _ => firstEntry l (fun _ e => decide (e.lane < stageLanes stage)) (bad 0x502),
          fun _ => firstEntry l (entryOrdered p l) (bad 0x503),
          fun _ => (List.range (stageLanes stage)).findSome? (fun lane =>
            if 24576 < (l.filter (fun e => e.lane = lane)).foldl (fun a e => a + entryCycles (p.node e.node) e q) 0 then
              none' 0x504 lane else none)])]

/-! ### Crossfade (R65, R66) -/

/-- The item of an entry of a MIX that has no crosspoint at all: beyond every crosspoint. -/
def noXps : Nat := 65536

/-- The (kind, node, crosspoint or port) items that XF_SCHEDULE must run in one list (R65). A MIX without crosspoints still
takes one entry, since R51 applies (DEDUCED, log entry 106). -/
def requiredXf (old new : Prog) (pairs : List (Nat × Nat)) (stage q : Nat) : List (Nat × Nat × Nat) :=
  let inList := fun (n : Node) => n.stage = stage && !n.isTask && decide (0 < n.samples q)
  let mixItems := fun (kind i count : Nat) =>
    if count = 0 then [(kind, i, noXps)] else (List.range count).map (fun k => (kind, i, k))
  (new.nodes.zipIdx).flatMap (fun x =>
    let n := x.1
    let i := x.2
    if ¬ inList n then []
    else
      let merges := (new.inEdges i).filterMap (fun e =>
        if isMerge old new pairs i e then some (3, i, e.dstPort) else none)
      match oldOf pairs i with
      | none => if n.type = T.mix then mixItems 2 i n.bind else [(2, i, 0)]
      | some j =>
        if n.type = T.mix then
          let xs := new.crosspoints n
          let os := old.crosspoints (old.node j)
          (if n.bind + os.length = 0 then mixItems 0 i 0 else []) ++ (List.range n.bind).map (fun k => (if sharedXp old new pairs j i (xs.getD k 0) then 0 else 2, i, k)) ++
            ((List.range os.length).filter (fun k => !sharedXp old new pairs j i (os.getD k 0))).map (fun k => (1, j, k))
        else merges ++ [(0, i, 0)]) ++
    (old.nodes.zipIdx).flatMap (fun x =>
      if inList x.1 ∧ oldInstance pairs x.2 then
        (if x.1.type = T.mix then mixItems 1 x.2 x.1.bind else [(1, x.2, 0)])
      else [])

/-- The items that a list of XF_SCHEDULE runs. -/
def listedXf (old new : Prog) (l : List SEntry) : List (Nat × Nat × Nat) :=
  l.flatMap (fun e =>
    let n := if e.kind = 1 then old.node e.node else new.node e.node
    if e.kind = 3 then [(3, e.node, e.xfirst)]
    else if n.type = T.mix ∧ e.xcount = 0 then [(e.kind, e.node, noXps)]
    else if n.type = T.mix then (List.range e.xcount).map (fun k => (e.kind, e.node, e.xfirst + k))
    else [(e.kind, e.node, 0)])

/-- An order on items. -/
def itemLe (a b : Nat × Nat × Nat) : Bool :=
  decide (a.1 < b.1) || (decide (a.1 = b.1) && (decide (a.2.1 < b.2.1) || (decide (a.2.1 = b.2.1) && decide (a.2.2 ≤ b.2.2))))

/-- Whether each merge stands on its consumer's lane before the consumer's own entry (R65). -/
def mergesPlaced (l : List SEntry) : Bool :=
  (l.zipIdx).all (fun x => x.1.kind ≠ 3 ||
    (decide (x.1.xcount = 0) && (l.drop (x.2 + 1)).any (fun y => (y.kind = 0 || y.kind = 2) && decide (y.node = x.1.node) &&
      decide (y.lane = x.1.lane))))

/-- R34 in a list of XF_SCHEDULE: entry `e` at place `j` comes after the same-stage sources of its instance, on their lane. An
old instance may read a retained node, which stands in the list under its place in the new program, and a retained node
reads at a merge point an old instance too. -/
def xfOrdered (old new : Prog) (pairs : List (Nat × Nat)) (l : List SEntry) (j : Nat) (e : SEntry) : Bool :=
  let after := fun (isSrc : SEntry → Bool) =>
    !l.any isSrc || (l.take j).any (fun y => isSrc y && decide (y.lane = e.lane))
  let fresh := fun (i : Nat) (y : SEntry) => (y.kind = 0 || y.kind = 2) && decide (y.node = i)
  let prior := fun (i : Nat) (y : SEntry) =>
    if oldInstance pairs i then y.kind = 1 && decide (y.node = i) else (newOf pairs i).any (fun k => fresh k y)
  let sameStage := fun (p : Prog) (d : Edge) => !(p.node d.src).isTask && decide ((p.node d.src).stage = (p.node d.dst).stage)
  let inOld := fun (i : Nat) => (old.inEdges i).all (fun d => !sameStage old d || after (prior d.src))
  match e.kind with
  | 0 => (new.inEdges e.node).all (fun d => !sameStage new d || after (fresh d.src)) && (oldOf pairs e.node).all inOld
  | 1 => inOld e.node
  | 2 => (new.inEdges e.node).all (fun d => !sameStage new d || after (fresh d.src))
  | _ => true

/-- Merged samples of task `idx` of a new program in phase `q`. -/
def taskMerges (old new : Prog) (pairs : List (Nat × Nat)) (node q : Nat) : Nat :=
  ((new.inEdges node).filter (fun e => isMerge old new pairs node e)).length * (new.node node).samples q

/-- R65, R66: the checks of a crossfade from `old`, active in slot `oldSlot`, to `new`. -/
def checkXf (s : State) (old new : Prog) (oldSlot newSlot : Nat) (xfOk : Bool) : Option LoadErr :=
  match new.xf with
  | none => some { code := 0x902, sect := 8 }
  | some lists =>
    let pairs := retainedPairs old new
    firstOf [
      fun _ => need xfOk 0x903 8,
      fun _ => firstErr lists (fun i l =>
        let stage := i / 6 + 1
        let q := i % 6
        let bad := entryErr 8 q
        let none' := fun (code unit : Nat) => some { code := code, sect := 8, unit := unit, phase := q : LoadErr }
        let merged := fun (x : List (Nat × Nat × Nat)) => x.mergeSort itemLe
        firstOf [
          fun _ => firstEntry l (fun _ e => decide (e.kind ≤ 3) && (e.kind = 3 || (e.xfirst = 0 && e.xcount = 0) ||
            (if e.kind = 1 then old.node e.node else new.node e.node).type = T.mix)) (bad 0x903),
          fun _ => if decide (merged (listedXf old new l) = merged (requiredXf old new pairs stage q)) && mergesPlaced l then none
            else none' 0x903 0,
          fun _ => firstEntry l (fun _ e => decide (e.lane < stageLanes stage)) (bad 0x502),
          fun _ => firstEntry l (xfOrdered old new pairs l) (bad 0x503),
          fun _ => (List.range (stageLanes stage)).findSome? (fun lane =>
            if 24576 < (l.filter (fun e => e.lane = lane)).foldl (fun a e =>
                a + entryCycles (if e.kind = 1 then old.node e.node else new.node e.node) e q) 0 then none' 0x904 lane
            else none)]),
      fun _ => (List.range 32).findSome? (fun c => (List.range 6).findSome? (fun q =>
        let oldC := old.tasks.foldl (fun a t =>
          if t.core = c ∧ oldInstance pairs t.node then a + t.cycles.getD q 0 else a) 0
        let newC := new.tasks.foldl (fun a t =>
          if t.core = c then a + t.cycles.getD q 0 + 2 * taskMerges old new pairs t.node q else a) 0
        if 24576 < oldC + newC then some { code := 0x904, sect := 9, unit := c, phase := q } else none)),
      fun _ => need (placeXf new pairs newSlot (s.slotTasks oldSlot)).isSome 0x904 9,
      fun _ => need (decide (old.bulkTraffic + new.bulkTraffic ≤ 6 * s.fget F.BLK_CFG_BUDGET * 1024)) 0x904 1]

/-! ### The whole validation -/

/-- Steps 2 to 9 of R57. -/
def validate (s : State) (ownRule : Node → Bool) (img : List Nat) (len other : Nat) : Option LoadErr :=
  let p := parseImage img
  firstOf [
    fun _ => checkHeader img len (s.fget F.RST_STRAP_FAMILY) other,
    fun _ => checkDirectory img,
    fun _ => checkNodes ownRule img p,
    fun _ => checkEdges img p,
    fun _ => checkParams s img p,
    fun _ => checkTasks img p,
    fun _ => checkResources s p,
    fun _ => checkSchedule img p]

/-! ### The owning chapters' binding rules (R208, R225, R249, R253, R277, R281, R287, R368, R399) -/

/-- Whether a rate's samples-per-tick code matches a node's rate: 0 Fb, 1 2·Fb, 2 4·Fb. -/
def fastRate (code rate : Nat) : Bool := decide (rate = code + 2)

/-- The binding rule of the chapter that owns node `n`. -/
def State.ownRule (s : State) (n : Node) : Bool :=
  let b := n.bind
  if n.type = T.srcPort ∨ n.type = T.snkPort then
    let p := bits b 3 0
    decide (n.rate = s.fget (F.APT_PORT_CFG_RATE p) + 2) && decide (bits b 8 4 ≤ s.fget (F.APT_PORT_CFG_SLOTS p))
  else if n.type = T.srcPdm then decide (n.rate = 2)
  else if n.type = T.srcRtp then
    fastRate (s.fget (F.RTP_RX_W0_RATE (bits b 5 0))) n.rate && decide (bits b 11 6 ≤ s.fget (F.RTP_RX_W0_CHANNELS (bits b 5 0)))
  else if n.type = T.snkRtp then
    fastRate (s.fget (F.RTP_TX_W0_RATE (bits b 5 0))) n.rate && decide (bits b 11 6 ≤ s.fget (F.RTP_TX_W0_CHANNELS (bits b 5 0)))
  else if n.type = T.srcLane ∨ n.type = T.snkLane then
    let p := bits b 1 0
    let st := bits b 9 2
    let role := bits (s.fget F.LNK_PORTMAP_ROLE) (2 * p + 1) (2 * p)
    let inter := decide (role = 3) && bit (s.fget F.LNK_PORTMAP_INTER) p
    decide (s.fget (F.LNP_PORT_CFG_MODE p) = 0) && decide (role ≠ 0) && !inter &&
      (if n.type = T.srcLane then
        decide (n.rate = s.fget (F.LNK_RX_W0_RATE p st)) && decide (n.phase = s.fget (F.LNK_RX_W0_PHASE p st)) &&
          decide (bits b 15 10 ≤ s.fget (F.LNK_RX_W0_CHANNELS p st))
       else
        decide (n.rate = s.fget (F.LNK_TX_W0_RATE p st)) && decide (n.phase = s.fget (F.LNK_TX_W0_PHASE p st)) &&
          decide (bits b 15 10 ≤ s.fget (F.LNK_TX_W0_CHANNELS p st)))
  else if n.type = T.srcHost ∨ n.type = T.snkHost then
    let r := bits b 4 0
    decide (s.fget (F.HIF_SR_CFG_DIR r) = if n.type = T.snkHost then 1 else 0) &&
      fastRate (s.fget (F.HIF_SR_CFG_RATE r)) n.rate && decide (bits b 10 5 ≤ s.fget (F.HIF_SR_CFG_CHANNELS r))
  else if n.type = T.srcSpan ∨ n.type = T.snkSpan then
    decide (n.rate = 2) && bit (s.reg (A.LNK_SPAN_EN (b / 32))).toNat (b % 32)
  else if n.type = T.bulkDly then
    decide (s.fget F.BLK_DLY_BASE_BASE * 2 ^ 26 + (b + rateWidth n.rate) * 2 ^ 19 ≤ s.bulkBytes)
  else true

/-- Whether a change of registers from `s` to `t` breaks a binding of a program in a slot that is not EMPTY (R249, R287,
R399): a node that met its rule no longer does. -/
def breaksBinding (s t : State) : Bool :=
  [0, 1].any (fun k => decide (s.fget (F.ENG_SLOT_STAT_STATE k) ≠ 0) &&
    (s.slot k).prog.nodes.any (fun n => s.ownRule n && !t.ownRule n))

end Sys2Proof.Machine
end

