-- ==== Sys2Proof/Machine/Records.lean ====
section
/-! DEFINITION. What the block reports: host memory rings, the status block, MSI-X messages, completions, events and
event records (R383 to R397, R434 to R440, R471). -/

namespace Sys2Proof.Machine

open Sys2Proof.Arith

/-! ### Rings (R383, R384) -/

/-- Entry size of control ring `k`. -/
def ringEntry (k : Nat) : Nat := if k = 1 then 32 else if k ≥ 4 then 2048 else 64

/-- LOG2SIZE values that control ring `k` accepts. -/
def ringLogOk (k n : Nat) : Bool :=
  decide (4 ≤ n) && decide (n ≤ (match k with | 0 => 12 | 1 => 14 | 2 => 14 | 3 => 16 | _ => 12))

/-- Whether control ring `k` is enabled. -/
def State.ringOn (s : State) (k : Nat) : Bool := s.up .hif && s.fon (F.HIF_RING_CFG_EN k)

/-- Entries of control ring `k`. -/
def State.ringSize (s : State) (k : Nat) : Nat := 2 ^ s.fget (F.HIF_RING_CFG_LOG2SIZE k)

/-- Host address that a LO and HI pair of registers holds, 64-byte aligned. -/
def State.hostBase (s : State) (lo hi : Nat) : Nat := (s.reg lo).toNat / 64 * 64 + (s.reg hi).toNat * 2 ^ 32

/-- Host address of entry `i` of control ring `k`. -/
def State.ringAddr (s : State) (k i : Nat) : Nat :=
  s.hostBase (A.HIF_RING_BASE_LO k) (A.HIF_RING_BASE_HI k) + i % s.ringSize k * ringEntry k

/-- Host-side index of control ring `k`. -/
def State.ringHost (s : State) (k : Nat) : Nat := (s.reg (A.HIF_RING_HOST k)).toNat

/-- Engine-side index of control ring `k`. -/
def State.ringEng (s : State) (k : Nat) : Nat := (s.reg (A.HIF_RING_ENG k)).toNat

/-- Whether a host-produced ring holds an entry that the engine has not consumed. -/
def State.ringHasEntry (s : State) (k : Nat) : Bool :=
  s.ringOn k && decide (0 < sdiff (s.ringHost k) (s.ringEng k))

/-- Whether an engine-produced ring has room for an entry. -/
def State.ringHasRoom (s : State) (k : Nat) : Bool :=
  s.ringOn k && decide (sdiff (s.ringEng k) (s.ringHost k) < (s.ringSize k : Int))

/-! ### Status block and MSI-X (R385, R386) -/

/-- The 64 words of the status block. -/
def State.statusWords (s : State) : List Nat :=
  (List.range 64).map (fun i =>
    if i < 6 then s.ringEng i
    else if i = 6 then s.fget F.HIF_STAT_CTL_EPOCH + s.fget F.HIF_FW_STAT_STATE * 2 ^ 16
    else if i = 7 then s.scnt
    else if 32 ≤ i then (Tbl.get s.hif.streams {} (i - 32)).eng.toNat
    else 0)

/-- Write the status block where it is armed. -/
def State.writeStatusBlock (s : State) : State :=
  match s.hif.sb with
  | none => s
  | some a =>
    { s with host := setBytes s.host a (s.statusWords.flatMap (leBytes 4)), hif := { s.hif with sbDirty := false } }

/-- Mark a value of the status block as changed. -/
def State.sbChanged (s : State) : State := { s with hif := { s.hif with sbDirty := true } }

/-- The word at offset `o` of the MSI-X table; vectors are masked until software writes their Vector Control words.
PRESUMED: as the PCI Express base specification has it (log entry 12). Safe. -/
def State.msixWord (s : State) (o : Nat) : W32 := Tbl.get s.hif.msixTbl (if o % 16 = 12 then 1 else 0) o

/-- Write a word of the MSI-X table. -/
def State.setMsixWord (s : State) (o : Nat) (w : W32) : State :=
  { s with hif := { s.hif with msixTbl := Tbl.set s.hif.msixTbl (if o % 16 = 12 then 1 else 0) o w } }

/-- Send MSI-X vector `v`, the status block before it; a vector masked in the MSI-X table becomes pending. PRESUMED: the
mask and pending bits act as the PCI Express base specification has them (log entry 12). Safe. -/
def State.msix (s : State) (v : Nat) : State :=
  if s.held .hif then s
  else
    let s := s.writeStatusBlock
    if bit (s.msixWord (v * 16 + 12)).toNat 0 then
      { s with hif := { s.hif with msixPend := Tbl.set s.hif.msixPend false v true } }
    else { s with hif := { s.hif with msix := Tbl.set s.hif.msix 0 v (Tbl.get s.hif.msix 0 v + 1) } }

/-- An entry of engine-produced ring `k` is published: index, status block, and the ring's vector after IRQ_N. -/
def State.published (s : State) (k : Nat) : State :=
  let s := (s.setReg (A.HIF_RING_ENG k) (s.reg (A.HIF_RING_ENG k) + 1)).sbChanged
  let n := Tbl.get s.hif.sinceIrq 0 k + 1
  let irq := s.fget (F.HIF_RING_CFG_IRQ_N k)
  if irq ≠ 0 ∧ irq ≤ n then { s with hif := { s.hif with sinceIrq := Tbl.set s.hif.sinceIrq 0 k 0 } }.msix k
  else { s with hif := { s.hif with sinceIrq := Tbl.set s.hif.sinceIrq 0 k n } }

/-- Write an entry of engine-produced ring `k` and publish it (R384). -/
def State.publish (s : State) (k : Nat) (bs : List Nat) : State :=
  let a := s.ringAddr k (s.ringEng k)
  ({ s with host := setBytes s.host a (bs ++ List.replicate (ringEntry k - bs.length) 0) }).published k

/-- The engine consumes an entry of host-produced ring `k`. -/
def State.consumed (s : State) (k : Nat) : State :=
  let s := (s.setReg (A.HIF_RING_ENG k) (s.reg (A.HIF_RING_ENG k) + 1)).sbChanged
  let n := Tbl.get s.hif.sinceIrq 0 k + 1
  let irq := s.fget (F.HIF_RING_CFG_IRQ_N k)
  if irq ≠ 0 ∧ irq ≤ n ∧ k ≠ 0 then
    { s with hif := { s.hif with sinceIrq := Tbl.set s.hif.sinceIrq 0 k 0 } }.msix k
  else { s with hif := { s.hif with sinceIrq := Tbl.set s.hif.sinceIrq 0 k n } }

/-! ### Completions (R389 to R392) -/

/-- The 32 bytes of a completion entry (R389). -/
def Completion.bytes (c : Completion) : List Nat :=
  leBytes 1 c.op ++ leBytes 1 (b2n c.late) ++ leBytes 2 c.tag ++ leBytes 2 c.code ++ leBytes 2 0 ++
    leBytes 4 c.tick.toNat ++ leBytes 4 c.index ++
    (List.range 4).flatMap (fun i => leBytes 4 (c.res.getD i 0).toNat)

/-- Write the oldest queued completion if the ring has room. -/
def State.drainCompletion (s : State) : State :=
  match s.hif.comps with
  | [] => s
  | c :: rest =>
    if s.ringHasRoom 1 then ({ s with hif := { s.hif with comps := rest } }).publish 1 c.bytes else s

/-- The opcode of a command that the firmware gives itself: no host waits for its completion. -/
def ownOp : Nat := 256

/-- R392: a completion is written, or waits in the on-chip queue of 256 behind earlier ones. -/
def State.complete (s : State) (c : Completion) : State :=
  if s.held .hif ∨ c.op = ownOp then s
  else if s.hif.comps = [] ∧ s.ringHasRoom 1 then s.publish 1 c.bytes
  else if s.hif.comps.length < 256 then { s with hif := { s.hif with comps := s.hif.comps ++ [c] } }
  else s

/-- The completion that a command gets with `code` at SCNT `tick`. -/
def CmdRef.done (r : CmdRef) (code : Nat) (tick : W32) (res : List W32) : Completion :=
  { op := r.op, late := r.late, tag := r.tag, code := code, tick := tick, index := r.index, res := res }

/-- R392: with 192 or more completions queued, the rings that feed them are not consumed. -/
def State.backlogged (s : State) : Bool := decide (192 ≤ s.hif.comps.length)

/-! ### The event ring (R396, R397) -/

/-- The mask bit of an event kind, where it has one. -/
def eventBit (kind : Nat) : Option Nat :=
  match kind with
  | 1 => some 0
  | 3 => some 1
  | 4 => some 2
  | 5 => some 3
  | 6 => some 4
  | _ => none

/-- Whether the mask admits an event kind. -/
def State.eventOn (s : State) (kind : Nat) : Bool :=
  match eventBit kind with
  | none => true
  | some b => bit s.hif.mask b

/-- The bytes of an event entry. -/
def eventBytes (kind scnt seq : Nat) (payload : List Nat) : List Nat :=
  leBytes 2 kind ++ leBytes 2 0 ++ leBytes 4 scnt ++ leBytes 4 seq ++ leBytes 4 0 ++
    payload.flatMap (leBytes 4)

/-- Write one event entry that was posted at SCNT `x.1`. -/
def State.publishEvent (s : State) (x : Nat × Event) : State :=
  let s1 := s.publish 2 (eventBytes x.2.kind x.1 s.hif.evSeq x.2.payload)
  { s1 with hif := { s1.hif with evSeq := (s1.hif.evSeq + 1) % 2 ^ 32 } }

/-- Write the oldest queued event if the ring has room. -/
def State.drainEvent (s : State) : State :=
  match s.hif.events with
  | [] => s
  | x :: rest => if s.ringHasRoom 2 then ({ s with hif := { s.hif with events := rest } }).publishEvent x else s

/-- R397: post an event that the mask admits: it is written, or queued; where the queue has no room for it, and for the
DROPPED entry that precedes it after a loss, it is lost and counted. -/
def State.postEvent (s : State) (e : Event) : State :=
  if s.held .hif ∨ ¬ s.eventOn e.kind then s
  else
    let n := s.hif.dropped
    let es := (if n = 0 then [] else [(s.scnt, { kind := 8, payload := [n] })]) ++ [(s.scnt, e)]
    if 64 < s.hif.events.length + es.length then
      ({ s with hif := { s.hif with dropped := n + 1 } }).bump A.HIF_EVT_DROP
    else forEach es ({ s with hif := { s.hif with events := s.hif.events ++ es, dropped := 0 } }) (fun s _ => s.drainEvent)

/-- The firmware runs: HIF_FW_STAT.STATE is READY and CTL is out of reset. -/
def State.fwReady (s : State) : Bool := s.up .ctl && decide (s.fget F.HIF_FW_STAT_STATE = 4)

/-- An event that the firmware posts (R396): nothing while it does not run. -/
def State.fwEvent (s : State) (kind : Nat) (payload : List Nat) : State :=
  if s.fwReady then s.postEvent { kind := kind, payload := payload } else s

/-! ### Event records (R434 to R440, R471) -/

/-- R471: the block number of an event code. -/
def eventBlock (code inst : Nat) : Nat :=
  if code / 256 = 1 then 1
  else if code = 0x205 ∨ code = 0x206 then 3
  else if code / 256 = 2 then 2
  else if code = 0x307 ∨ (code = 0x301 ∧ inst = 0xFFF) then 7
  else if code / 256 = 3 then 6
  else if code = 0x401 then 0xB
  else if code / 256 = 4 then 0xC
  else if code / 256 = 5 then 9
  else if code / 256 = 6 then 0xA
  else if code / 256 = 7 then 4
  else if code = 0x803 then 0xE
  else if code / 256 = 8 then 0xD
  else 0xF

/-- R437: the flush-class codes. -/
def flushClass (code : Nat) : Bool :=
  [0x102, 0x206, 0x301, 0x303, 0x305, 0x307, 0x401, 0x402, 0x403, 0x601, 0x603].contains code

/-- R436: codes that are never suppressed. -/
def neverSuppressed (code : Nat) : Bool := flushClass code || code = 0x103 || code = 0x104

/-- Yard address of the record with sequence number `seq` (R438). -/
def loftAddr (seq : Nat) : Nat := 0x13000000 + seq % 4096 * 32

/-- Operating time in units of 1/16 s (R445). -/
def State.optime (s : State) : Nat := (s.reg A.TST_OPTIME_LO).toNat + s.fget F.TST_OPTIME_HI_VALUE * 2 ^ 32

/-- Records accepted and not flushed. -/
def State.unflushed (s : State) : Nat :=
  ((s.reg A.TST_LOFT_HEAD) - (s.reg A.TST_LOFT_FLUSHED)).toNat

/-- Accept one record into the Loft: it takes the next sequence number, overwriting the oldest (R435, R439), and is
offered to the event ring (R438). -/
def State.loftAccept (s : State) (code inst : Nat) (params : List Nat) : State :=
  let seq := (s.reg A.TST_LOFT_HEAD + 1).toNat
  let bs := leBytes 2 code ++ leBytes 2 (eventBlock code inst * 4096 + inst % 4096) ++ leBytes 5 s.optime ++
    leBytes 3 (s.fget F.TST_PCYC_VALUE) ++ leBytes 4 seq ++
    (List.range 4).flatMap (fun i => leBytes 4 (params.getD i 0))
  let s := if s.unflushed = 4096 then
      (s.setReg A.TST_LOFT_FLUSHED (s.reg A.TST_LOFT_FLUSHED + 1)).bump A.TST_LOFT_LOST
    else s
  let s := ({ s with mem := setBytes s.mem (loftAddr seq) bs }).setReg A.TST_LOFT_HEAD (BitVec.ofNat 32 seq)
  s.postEvent { kind := 1, payload := (List.range 8).map (fun i => leNat ((bs.drop (4 * i)).take 4)) }

/-- Whether a flush may run: the flash ring is enabled and MEM is out of reset. -/
def State.flushAble (s : State) : Bool := s.up .mem && s.fon F.TST_EVF_CFG_EN

/-- R440: start a flush where one is due and may run. -/
def State.startFlush (s : State) : State :=
  if s.flushAble ∧ 0 < s.unflushed then
    s.fset F.TST_EVF_STAT_FLUSHING 1
  else s

/-- R435 to R440: record an event, or suppress it; the Loft's acceptance logic lies in MEM (R412). -/
def State.record (s : State) (code inst : Nat) (params : List Nat) : State :=
  if s.held .mem then s
  else if s.loft.tokens = 0 ∧ ¬ neverSuppressed code then
    ({ s with loft := { s.loft with suppressed := s.loft.suppressed + 1 } }).bump A.TST_EVT_SUPPR
  else
    let s := { s with loft := { s.loft with tokens := s.loft.tokens - 1 } }
    let s := if s.loft.suppressed = 0 then s
      else ({ s with loft := { s.loft with suppressed := 0 } }).loftAccept 0xA01 0 [s.loft.suppressed]
    let s := s.loftAccept code inst params
    if flushClass code ∨ 256 < s.unflushed then s.startFlush else s

/-! ### Pair roles (R320 to R323, R331 to R334) -/

/-- The pair state (R322): 0 SOLO, 1 SEEK, 2 JOIN, 3 PAIRED, 4 ALONE, 5 FAILED. -/
def State.pairState (s : State) : Nat := s.fget F.RED_STAT_STATE

/-- Whether the device is a primary or a secondary; ROLE 3 is reserved and acts as solo. -/
def State.paired (s : State) : Bool := decide (s.fget F.RED_CFG_ROLE = 1) || decide (s.fget F.RED_CFG_ROLE = 2)

/-- Whether mirroring runs (R331 to R334): SEEK, JOIN, PAIRED or ALONE. -/
def State.mirrors (s : State) : Bool := s.paired && decide (1 ≤ s.pairState) && decide (s.pairState ≤ 4)

/-- Whether the device mirrors as leader. -/
def State.mirrorLeader (s : State) : Bool := s.mirrors && s.fon F.RED_STAT_LEADER

/-- Whether the device mirrors as a follower. -/
def State.mirrorFollower (s : State) : Bool := s.mirrors && !s.fon F.RED_STAT_LEADER

/-- R323: whether the device is driving. -/
def State.drives (s : State) : Bool :=
  s.paired && s.fon F.RED_STAT_LEADER && (s.pairState = 1 || s.pairState = 3 || s.pairState = 4)

/-- A MLAT or HLAT value in force: other values than 2 to 16 act as 16. -/
def latOf (v : Nat) : Nat := if 2 ≤ v ∧ v ≤ 16 then v else 16

/-- MLAT (R333). -/
def State.mlat (s : State) : Nat := latOf (s.fget F.RED_TIMING_MLAT)

/-- HLAT (R329). -/
def State.hlat (s : State) : Nat := latOf (s.fget F.RED_TIMING_HLAT)

/-- A leader's record waits for the next MIRROR section (R331). -/
def State.mirrorRecord (s : State) (r : MirrorRec) : State :=
  if s.mirrorLeader then { s with pair := { s.pair with records := s.pair.records ++ [r] } } else s

/-- R327: whether samples of engine tick `t` are kept from leaving. -/
def State.withholds (s : State) (t : Nat) : Bool :=
  s.paired && (match s.pair.mute with
    | none => false
    | some (a, none) => decide (a ≤ t)
    | some (a, some b) => decide (a ≤ t) && decide (t < b))

end Sys2Proof.Machine
end

