-- ==== Sys2Proof/Machine/Locks.lean ====
section
/-! DEFINITION. Stall locks (R357 to R360): owner IDs, requests, releases, and the releases that set BROKEN. -/

namespace Sys2Proof.Machine

open Sys2Proof.Arith

/-- R357: the owner ID of a requester. -/
def ownerId (rid queue : Nat) (dom : Dom) : Nat := rid % 64 + queue % 16 * 64 + dom.bit * 1024

/-- The owner ID of Scarab core `n` (R143, R345). -/
def coreOwner (n : Nat) : Nat := ownerId n 0 .eng

/-- The owner ID of host queue `q` (R345). -/
def hostOwner (q : Nat) : Nat := ownerId 41 q .hif

/-- Whether lock `k` is held. -/
def State.lockHeld (s : State) (k : Nat) : Bool := decide (s.fget (F.MEM_LOCK_STATE k) = 1)

/-- Whether owner `o` holds lock `k`. -/
def State.lockHeldBy (s : State) (k o : Nat) : Bool :=
  decide (s.fget (F.MEM_LOCK_STATE k) = 1) && decide (s.fget (F.MEM_LOCK_OWNER k) = o)

/-- The waiters of lock `k`, oldest first. -/
def State.lockWaiters (s : State) (k : Nat) : List Nat := Tbl.get s.waiters [] k

/-- Store the waiters of lock `k`, and their number in its register. -/
def State.setWaiters (s : State) (k : Nat) (w : List Nat) : State :=
  ({ s with waiters := Tbl.set s.waiters [] k w }).fset (F.MEM_LOCK_WAITERS k) w.length

/-- A requester's status. -/
def State.lockReq (s : State) (o : Nat) : LockReq := Tbl.get s.lockReqs {} o

/-- Set a requester's status, in the host queue's register or the core's LK_STAT and ERRST too (R141, R143, R357). -/
def State.setLockReq (s : State) (o : Nat) (r : LockReq) : State :=
  let s := { s with lockReqs := Tbl.set s.lockReqs {} o r }
  if o % 64 = 41 then
    let q := o / 64 % 16
    (((s.fset (F.MEM_LK_HQ_STAT_RESULT q) r.result).fset (F.MEM_LK_HQ_STAT_REASON q) r.reason).fset
      (F.MEM_LK_HQ_STAT_BROKEN q) (b2n r.broken)).fset (F.MEM_LK_HQ_STAT_LOCK q) r.lock
  else if o % 64 < 32 then
    let c := s.core (o % 64)
    let e := if r.result = 3 then c.errst ||| 2 else if r.result = 2 ∧ r.broken then c.errst ||| 4 else c.errst
    s.setCore (o % 64) { c with lkState := r.result, lkBroken := r.broken, lkLock := r.lock, errst := e,
                                errReq := c.errReq || decide (e ≠ c.errst) }
  else s

/-- Grant lock `k` to `o`: the grantee sees BROKEN, which then clears on the lock (R359). -/
def State.grantLock (s : State) (k o : Nat) : State :=
  let broken := s.fget (F.MEM_LOCK_BROKEN k) = 1
  (((s.fset (F.MEM_LOCK_STATE k) 1).fset (F.MEM_LOCK_OWNER k) o).fset (F.MEM_LOCK_BROKEN k) 0).setLockReq o
    { result := 2, reason := 0, broken := broken, lock := k }

/-- Whether owner `o` holds a lock numbered above `k`. -/
def State.holdsAbove (s : State) (o k : Nat) : Bool :=
  (List.range 256).any (fun j => decide (k < j) && s.lockHeldBy j o)

/-- Whether owner `o` waits for some lock. -/
def State.lockPending (s : State) (o : Nat) : Bool := s.waiters.any (fun w => w.2.contains o)

/-- R358: a request from owner `o` for lock `k`. -/
def State.lockRequest (s : State) (o k : Nat) : State :=
  let refuse := fun (why : Nat) => s.setLockReq o { result := 3, reason := why, broken := false, lock := k }
  if s.holdsAbove o k then refuse 1
  else if s.lockHeldBy k o then refuse 2
  else if s.lockPending o then refuse 3
  else if s.fget (F.MEM_LOCK_STATE k) = 0 ∧ s.lockWaiters k = [] then s.grantLock k o
  else (s.setWaiters k (s.lockWaiters k ++ [o])).setLockReq o { result := 1, reason := 0, broken := false, lock := k }

/-- A freed lock goes to its oldest waiter (R358). -/
def State.freeLock (s : State) (k : Nat) : State :=
  let s := (s.fset (F.MEM_LOCK_STATE k) 0).fset (F.MEM_LOCK_OWNER k) 0
  match s.lockWaiters k with
  | [] => s
  | o :: rest => (s.setWaiters k rest).grantLock k o

/-- R358: owner `o` releases lock `k`, or withdraws its request for it; any other release is ignored. -/
def State.lockRelease (s : State) (o k : Nat) : State :=
  if s.lockHeldBy k o then
    let r := s.lockReq o
    let s := if r.lock = k then s.setLockReq o { r with result := 0 } else s
    s.freeLock k
  else if (s.lockWaiters k).contains o then
    (s.setWaiters k ((s.lockWaiters k).filter (fun x => x ≠ o))).setLockReq o { lock := k }
  else s

/-- Withdraw whatever request owner `o` has pending. -/
def State.lockWithdraw (s : State) (o : Nat) : State :=
  if s.lockPending o then
    let s := forEach (s.waiters.map (·.1)) s (fun s k =>
      if (s.lockWaiters k).contains o then s.setWaiters k ((s.lockWaiters k).filter (fun x => x ≠ o)) else s)
    s.setLockReq o { (s.lockReq o) with result := 0 }
  else s

/-- R359: the hardware releases lock `k` with BROKEN set; causes 0 reset, 1 heartbeat, 2 timeout, 3 Scarab. -/
def State.breakLock (s : State) (k cause : Nat) : State :=
  let o := s.fget (F.MEM_LOCK_OWNER k)
  let s := s.fset (F.MEM_LOCK_BROKEN k) 1
  ((s.record 0x302 k [o, cause]).bump A.MEM_BROKEN_CNT).freeLock k

/-- R359: every lock held by an owner that satisfies `p` is released with BROKEN, and their requests are withdrawn. -/
def State.breakLocks (s : State) (p : Nat → Bool) (cause : Nat) : State :=
  let owners := (s.waiters.flatMap (·.2)).filter p
  let s := forEach owners s (fun s o => s.lockWithdraw o)
  forEach (List.range 256) s (fun s k =>
    if s.fget (F.MEM_LOCK_STATE k) = 1 ∧ p (s.fget (F.MEM_LOCK_OWNER k)) then s.breakLock k cause else s)

end Sys2Proof.Machine
end

