-- ==== Sys2Proof/Machine/Scarab.lean ====
section
/-! DEFINITION. What every Scarab instruction shares: local memory, results in flight, issue, loops and delay slots,
faults, the end of a task (R111 to R151). -/

namespace Sys2Proof.Machine

open Sys2Proof.Arith

/-! ### Registers -/

/-- Data register `n` as an instruction issued now reads it. -/
def Core.rd (c : Core) (n : Nat) : W32 := Tbl.get c.d 0 n

/-- The signed reading of data register `n`. -/
def Core.ri (c : Core) (n : Nat) : Int := (c.rd n).toInt

/-- Address register `n`. -/
def Core.ra (c : Core) (n : Nat) : Nat := (Tbl.get c.a 0 n).toNat

/-- Base register `n`. -/
def Core.rb (c : Core) (n : Nat) : Nat := (Tbl.get c.b 0 n).toNat

/-- Length register `n`. -/
def Core.rl (c : Core) (n : Nat) : Nat := (Tbl.get c.l 0 n).toNat

/-- Accumulator `n` as the next accumulating instruction reads it. -/
def Core.racc (c : Core) (n : Nat) : Int := (Tbl.get c.acc 0 n).toInt

/-- Accumulator `n` as RNDA, or ACCADD's source, reads it (R128). -/
def Core.raccR (c : Core) (n : Nat) : Int := (Tbl.get c.accR 0 n).toInt

/-- Write a register that a result in flight names. -/
def Core.land (c : Core) (r : Inflight) : Core :=
  match r.dst with
  | .d n => { c with d := Tbl.set c.d 0 n (r.val.setWidth 32) }
  | .a n => { c with a := Tbl.set c.a 0 n (r.val.setWidth 16) }
  | .b n => { c with b := Tbl.set c.b 0 n (r.val.setWidth 16) }
  | .l n => { c with l := Tbl.set c.l 0 n (r.val.setWidth 16) }
  | .accR n => { c with accR := Tbl.set c.accR 0 n r.val }
  | .mem _ => c

/-- Queue a result: after every result ready at the same cycle or earlier, so that the later-issued stands (R129). -/
def enqueue (q : List Inflight) (r : Inflight) : List Inflight :=
  match q with
  | [] => [r]
  | x :: rest => if r.ready < x.ready then r :: x :: rest else x :: enqueue rest r

/-- A result of the instruction that issues now, visible after `lat` cycles (R128). -/
def Core.later (c : Core) (lat : Nat) (dst : Dst) (v : W72) : Core :=
  { c with inflight := enqueue c.inflight { ready := c.cycle + lat, dst := dst, val := v } }

/-- A result into data register `n`. -/
def Core.toD (c : Core) (lat n : Nat) (v : W32) : Core := c.later lat (.d n) (v.setWidth 72)

/-- A result into address register `n`. -/
def Core.toA (c : Core) (lat n : Nat) (v : Nat) : Core := c.later lat (.a n) (BitVec.ofNat 72 v)

/-- A result into accumulator `n`: at once for the next accumulating instruction, after 3 cycles for RNDA (R128). -/
def Core.toAcc (c : Core) (n : Nat) (v : W72) : Core :=
  ({ c with acc := Tbl.set c.acc 0 n v }).later 3 (.accR n) v

/-- Raise flags in FLAGS (R127). -/
def Core.flag (c : Core) (bit : Nat) (on : Bool) : Core := if on then { c with flags := c.flags ||| bit } else c

/-- Set flags in ERRST and raise ERR (R134). -/
def Core.setErr (c : Core) (bit : Nat) : Core := { c with errst := c.errst ||| bit, errReq := true }

/-! ### Local memory (R112, R130) -/

/-- Yard address of a word of core `n`'s local RAM (R346). -/
def ramAddr (n w : Nat) : Nat := 0x12000000 + n * 0x10000 + w * 4

/-- The word at local address `w` of core `n`. -/
def State.localWord (s : State) (n w : Nat) : W32 :=
  if w < 0x4000 then BitVec.ofNat 32 (leAt s.mem (ramAddr n w) 4)
  else if w < 0x4800 then Tbl.get (s.core n).xin 0 (w - 0x4000)
  else Tbl.get (s.core n).xout 0 (w - 0x4800)

/-- Store a word at local address `w` of core `n`. -/
def State.setLocal (s : State) (n w : Nat) (v : W32) : State :=
  if w < 0x4000 then { s with mem := setLe s.mem (ramAddr n w) 4 v.toNat }
  else
    let c := s.core n
    if w < 0x4800 then s.setCore n { c with xin := Tbl.set c.xin 0 (w - 0x4000) v }
    else s.setCore n { c with xout := Tbl.set c.xout 0 (w - 0x4800) v }

/-- R112: whether the task may read local address `w`. -/
def Task.mayRead (t : Task) (w : Nat) : Bool :=
  (decide (t.base ≤ w) && decide (w < t.base + t.size) && decide (w < 0x4000)) ||
    (decide (0x4000 + t.xb ≤ w) && decide (w < 0x4000 + t.xb + 4 * t.nin) && decide (w < 0x4800)) ||
    (decide (0x4800 + t.yb ≤ w) && decide (w < 0x4800 + t.yb + 4 * t.nout) && decide (w < 0x5000))

/-- R112: whether the task may write local address `w`. -/
def Task.mayWrite (t : Task) (w : Nat) : Bool := t.mayRead w && !(decide (0x4000 ≤ w) && decide (w < 0x4800))

/-- Whether `w` lies in the task's region. -/
def Task.inRegion (t : Task) (w : Nat) : Bool := decide (t.base ≤ w) && decide (w < t.base + t.size)

/-! ### Results in flight -/

/-- Land one result. -/
def State.landResult (s : State) (n : Nat) (r : Inflight) : State :=
  match r.dst with
  | .mem w => s.setLocal n w (r.val.setWidth 32)
  | _ => s.setCore n ((s.core n).land r)

/-- Land every result of core `n` that an instruction issued at its present cycle sees (R128 to R130). -/
def State.settle (s : State) (n : Nat) : State :=
  let c := s.core n
  let due := c.inflight.filter (fun r => decide (r.ready ≤ c.cycle))
  let s := s.setCore n { c with inflight := c.inflight.filter (fun r => decide (c.cycle < r.ready)) }
  forEach due s (fun s r => s.landResult n r)

/-- Land every result in flight (R136, R148). -/
def State.settleAll (s : State) (n : Nat) : State :=
  let c := s.core n
  forEach c.inflight (s.setCore n { c with inflight := [] }) (fun s r => s.landResult n r)

/-! ### The running task -/

/-- Task `idx` of slot `slot` on the core. -/
def Core.task (c : Core) (slot idx : Nat) : Option Task :=
  c.tasks.find? (fun t => decide (t.slot = slot) && decide (t.idx = idx))

/-- The task that runs. -/
def Core.current (c : Core) : Option Task :=
  match c.running with
  | none => none
  | some (slot, idx) => c.task slot idx

/-- Change one task of the core. -/
def Core.setTask (c : Core) (t : Task) : Core :=
  { c with tasks := modFirst (fun x => decide (x.slot = t.slot) && decide (x.idx = t.idx)) (fun _ => t) c.tasks }

/-- Clear a task's output window (R118, R147, R148). -/
def Core.zeroOut (c : Core) (t : Task) : Core :=
  { c with xout := Tbl.keep (fun k _ => decide (k < t.yb) || decide (t.yb + 4 * t.nout ≤ k)) c.xout }

/-- R327: a fatal local fault of this tick; a solo device goes on. -/
def State.fatalFault (s : State) : State :=
  if s.paired then { s with eng := { s.eng with fatal := some (s.eng.fatal.getD s.eng.tick) } } else s

/-- R148: SCB_FAULT and its companions keep the first fault since SCB_FAULT was last read. -/
def State.noteFault (s : State) (n idx code pc : Nat) : State :=
  let c := s.core n
  if c.faultRead then
    let s := s.setCore n { c with faultRead := false }
    (((s.fset (F.SCB_FAULT_TASK n) idx).fset (F.SCB_FAULT_CODE n) code).fset (F.SCB_FAULT_PC_PC n) pc).fset
      (F.SCB_FAULT_TICK_TICK n) s.scnt
  else s

/-- The core stops what it runs: nothing stays in flight, no loop, no delay slot, no handler. -/
def Core.halt (c : Core) : Core :=
  { c with running := none, loops := [], delay := none, stall := none, inHandler := false, mboxReq := false,
           errReq := false, inflight := [], upsets := [], endAt := none }

/-- R143: every lock that task `t` of core `n` asked for and holds is released with BROKEN set. -/
def State.breakTaskLocks (s : State) (n : Nat) (t : Task) : State :=
  let c := s.core n
  let mine := c.holds.filter (fun h => decide (h.2 = (t.slot, t.idx)))
  let s := s.setCore n { c with holds := c.holds.filter (fun h => decide (h.2 ≠ (t.slot, t.idx))) }
  forEach mine s (fun s h => if s.lockHeldBy h.1 (coreOwner n) then s.breakLock h.1 3 else s)

/-- R148: task `t` of core `n` is FAULTED with cause `code` at address `pc`: its outputs are zero, its locks are released. -/
def State.failTask (s : State) (n : Nat) (t : Task) (code pc : Nat) : State :=
  let s := s.noteFault n t.idx code pc
  let s := if code = 4 then { s with pair := { s.pair with eccAge := 0 } } else s
  let c := s.core n
  let s := s.setCore n ((c.zeroOut t).setTask { t with faulted := true, run := .stopped })
  (s.breakTaskLocks n t).fatalFault.record 0x403 n [t.idx, code, pc, s.scnt]

/-- R148: a TASK_FAULT with cause `code` stops the running task of core `n`. -/
def State.taskFault (s : State) (n code : Nat) : State :=
  let s := s.settleAll n
  let c := s.core n
  match c.current with
  | none => s
  | some t =>
    let s := (s.lockWithdraw (coreOwner n)).failTask n t code c.pc
    s.setCore n (s.core n).halt

/-- Whether the core's FFT job or mover transfer is not finished (R122). -/
def State.coreBusy (s : State) (n : Nat) : Bool :=
  let u := s.fftUnit (n / 8)
  (match u.job with | none => false | some j => decide (j.core = n)) || u.waiting.any (fun j => decide (j.core = n)) ||
    (s.core n).mover.isSome

/-- Whether the core's FFT job is not finished. -/
def State.fftBusy (s : State) (n : Nat) : Bool :=
  let u := s.fftUnit (n / 8)
  (match u.job with | none => false | some j => decide (j.core = n)) || u.waiting.any (fun j => decide (j.core = n))

/-- R139: BEXP takes the exponents of the jobs that ended, in order. -/
def Core.takeExp (c : Core) : Core :=
  { c with bexp := c.fftDone.foldl (fun b r => if r.2 then min (b + r.1) 31 else min r.1 31) c.bexp, fftDone := [] }

/-- R120: the measured cycles of the running task: from the start of its dispatch to the end of TEND's second delay slot. -/
def Core.measured (c : Core) : Nat := c.endAt.getD c.cycle - c.dispatched

/-- R122, R146: the running task of core `n` has ended; its measured cycles are held against PHASE_CYCLES. -/
def State.finishTask (s : State) (n : Nat) : State :=
  let s := (s.settleAll n).lockWithdraw (coreOwner n)
  let c := (s.core n).takeExp
  match c.current with
  | none => s
  | some t =>
    let s := s.setCore n ((c.setTask { t with run := .ended, first := false, wasIdle := false }).halt)
    if t.cycles.getD s.tphase 0 < c.measured then s.bump (A.SCB_BUDGET_CNT n) else s

/-- R122, R147: TEND waits for the FFT job and the mover transfer, then ends the task; one whose second delay slot ends beyond
the tick waits for the overrun. -/
def State.tryEnd (s : State) (n : Nat) : State :=
  if s.coreBusy n ∨ 25600 < (s.core n).cycle then
    s.setCore n { (s.core n) with stall := some .tend, delay := none, atPoint := true }
  else s.finishTask n

/-! ### Issue -/

/-- R133: where control goes after the instruction before `pc`, the loop levels left, and whether an interrupt point
lies there (R135). -/
def flow (pc : Nat) : List LoopFrame → Nat × List LoopFrame × Bool
  | [] => (pc, [], true)
  | f :: rest =>
    if pc = f.start + f.len then
      if 1 < f.left then (f.start, { f with left := f.left - 1 } :: rest, true)
      else
        let r := flow pc rest
        (r.1, r.2.1, true)
    else (pc, f :: rest, decide (pc = f.start))

/-- R136: RETI restores what the interrupt saved. -/
def Core.restore (c : Core) : Core :=
  { c with pc := c.saved.pc, loops := c.saved.loops, delay := c.saved.delay, stall := none,
           ien := c.saved.ien, inHandler := false, atPoint := true }

/-- The core moves past the instruction it issued, which took `cost` cycles. A transfer's two delay slots run first
(R132); `left` counts from 3 when the transfer itself moves past. -/
def State.advance (s : State) (n cost : Nat) : State :=
  let c := s.core n
  let c := { c with cycle := c.cycle + cost }
  match c.delay with
  | none =>
    let r := flow (c.pc + 1) c.loops
    s.setCore n { c with pc := r.1 % 2 ^ 14, loops := r.2.1, atPoint := r.2.2 }
  | some d =>
    if 1 < d.left then
      s.setCore n { c with pc := (c.pc + 1) % 2 ^ 14, delay := some { d with left := d.left - 1 }, atPoint := false }
    else
      match d.xfer with
      | .goto t => s.setCore n { c with pc := t, delay := none, atPoint := true }
      | .ret =>
        let s := s.setCore n ({ c with delay := none }).restore
        if c.saved.stall = some .tend then s.tryEnd n else s
      | .endTask => (s.setCore n { c with pc := (c.pc + 1) % 2 ^ 14, endAt := some c.cycle }).tryEnd n

/-- What an instruction's body does: a next state with the cycles it takes, a fault, or a stall before issue. -/
inductive Eff
  | ok (s : State) (cost : Nat)
  | trap (code : Nat)
  | wait (r : Stall)

/-- Whether core `n` can issue an instruction now: it runs a task, does not stall, and the tick is not over. -/
def State.canIssue (s : State) (n : Nat) : Bool :=
  let c := s.core n
  s.up .eng && c.current.isSome && decide (c.stall = none) && decide (c.cycle < 25600)

/-- R114, R148: what error checks find as the instruction of the present cycle is fetched and reads its registers. -/
def Core.struck (c : Core) : List MemCheck := (c.upsets.filter (fun u => decide (u.1 ≤ c.cycle))).map (·.2)

/-- The fault that checks raise (R148): 4 a double-bit error, 5 parity. -/
def strikeTrap (l : List MemCheck) : Option Nat :=
  if l.contains .double then some 4 else if l.contains .parity then some 5 else none

/-- R114: single-bit errors are corrected and counted. -/
def State.mended (s : State) (n : Nat) (l : List MemCheck) : State :=
  if l = [] then s
  else
    let c := s.core n
    (s.setCore n { c with upsets := c.upsets.filter (fun u => decide (c.cycle < u.1)) }).count ⟨A.SCB_ECC_CNT n, 31, 0⟩
      (l.filter (fun k => decide (k = MemCheck.single))).length

/-- Issue an instruction at core `n`: results due land, R112, R114 and R125 are checked, then its body acts. A core that can
issue nothing is left as it is. -/
def State.issue (s : State) (n : Nat) (legal : Bool) (body : State → Core → Task → Eff) : State :=
  if ¬ s.canIssue n then s
  else
    let s := s.settle n
    let c := s.core n
    match c.current with
    | none => s
    | some t =>
      if ¬ t.inRegion c.pc then s.taskFault n 2
      else
        let hit := c.struck
        let s := s.mended n hit
        let c := s.core n
        match strikeTrap hit with
        | some code => s.taskFault n code
        | none =>
          if ¬ legal then s.taskFault n 1
          else
            match body s c t with
            | .ok s' cost => s'.advance n cost
            | .trap code => s.taskFault n code
            | .wait r => s.setCore n { c with stall := some r, atPoint := true }

/-- An instruction that only changes the core's registers, in one cycle. -/
def State.issueReg (s : State) (n : Nat) (legal : Bool) (f : Core → Core) : State :=
  s.issue n legal (fun s c _ => .ok (s.setCore n (f c)) 1)

/-- An instruction that computes d[D] from d[S] and d[T] with latency `lat`; `sat` tells whether a narrowing limited
the value (R127). -/
def State.issueR (s : State) (n : Nat) (f : RFmt) (legal : Bool) (lat : Nat) (g : W32 → W32 → W32 × Bool) : State :=
  s.issueReg n (legal && decide (f.z = 0)) (fun c =>
    let r := g (c.rd f.s.toNat) (c.rd f.t.toNat)
    (c.toD lat f.d.toNat r.1).flag 2 r.2)

/-- An instruction that computes d[D] from d[S] and IMM in one cycle's latency. -/
def State.issueI (s : State) (n : Nat) (f : IFmt) (legal : Bool) (g : W32 → W32 × Bool) : State :=
  s.issueReg n legal (fun c =>
    let r := g (c.rd f.s.toNat)
    (c.toD 1 f.d.toNat r.1).flag 2 r.2)

/-! ### Address update (R126) -/

/-- R126 upd, for address register `n` of core `c`. -/
def Core.upd (c : Core) (n : Nat) (inc : Int) (circ : Bool) : Nat :=
  let a : Int := c.ra n
  if circ ∧ c.rl n ≠ 0 then
    (((c.rb n : Int) + (a + inc - c.rb n) % c.rl n) % 65536).toNat
  else ((a + inc) % 65536).toNat

end Sys2Proof.Machine
end

