-- ==== Sys2Proof/Machine/Fades.lean ====
section
/-! DEFINITION. Fades (R76), gain parameters in motion (R189 to R193), and the fade a dry source takes (R27, R370). -/

namespace Sys2Proof.Machine

open Sys2Proof.Arith

/-! ### Fades -/

/-- The factor in force after step k. -/
def Fade.now (f : Fade) : Int := if f.k = 0 then f.g0 else ramp f.g0 f.g1 (min f.k f.n) f.n

/-- Whether the fade has run its n samples. -/
def Fade.over (f : Fade) : Bool := decide (f.n ≤ f.k)

/-- One sample through a fade: its next step, or its end value. -/
def Fade.apply (f : Fade) (x : Int) : Int × Fade :=
  if f.over then (gain x f.g1, f)
  else
    let f := { f with k := f.k + 1 }
    (gain x f.now, f)

/-- One sample through what may be a fade. -/
def fadeSample (f : Option Fade) (x : Int) : Int × Option Fade :=
  match f with
  | none => (x, none)
  | some f => let r := f.apply x; (r.1, some r.2)

/-- The factor in force of what may be a fade: unity where there is none. -/
def factorOf (f : Option Fade) : Int :=
  match f with
  | none => unity
  | some f => f.now

/-- R76: a fade to `goal` over `n` samples from the factor in force. -/
def fadeTo (f : Option Fade) (goal : Int) (n : Nat) : Option Fade := some { g0 := factorOf f, g1 := goal, k := 0, n := n }

/-- A fade in that has ended is no fade; a fade out that has ended holds 0. -/
def settleFade (f : Option Fade) : Option Fade :=
  match f with
  | none => none
  | some g => if g.over ∧ g.g1 = unity then none else some g

/-- The fade length of a sink (R195). -/
def sinkFade (rate : Nat) : Nat := if rate = 0 then 10 else if rate = 1 then 21 else 64

/-! ### Gain parameters -/

/-- R190: whether `x` after `p` is a zero crossing. -/
def crossing (p x : Int) : Bool := decide (x = 0) || decide (decide (p < 0) ≠ decide (x < 0))

/-- The gain in force of a parameter whose active value is `v`. -/
def gainNow (st : Option GainSt) (v : Int) : Int :=
  match st with
  | none => v
  | some g => if ¬ g.ramp then g.g else if g.k = 0 then g.g else ramp g.g g.g1 (min g.k 64) 64

/-- What a node's samples work on: its state, and the gain states of its slot. -/
structure Run where
  st : NodeSt
  gains : Tbl GainSt
  deriving DecidableEq, Repr

/-- R191: the gain in force of word `w` for watched sample `x`, and the state after it. -/
def Run.gainIn (r : Run) (act : Nat → W32) (pset w : Nat) (x : Int) : Int × Run :=
  let v := (act w).toInt
  let key := wkey pset w
  let p := Tbl.get r.st.prev 0 w
  let r := { r with st := { r.st with prev := Tbl.set r.st.prev 0 w x } }
  match Tbl.find r.gains key with
  | none => (v, r)
  | some g =>
    if g.ramp then
      if g.k < 64 then (ramp g.g g.g1 (g.k + 1) 64, { r with gains := Tbl.put r.gains key { g with k := g.k + 1 } })
      else (v, r)
    else if crossing p x then (g.g1, { r with gains := Tbl.del r.gains key })
    else (g.g, r)

/-- R191, R192: value `v` lands at tick `t` for parameter `key`; `stepping` is FLAGS[0] and `z` the timeout of its
group. -/
def Slot.setGain (x : Slot) (key : Nat) (v : W32) (t z : Nat) (stepping : Bool) : Slot :=
  let cur := (Tbl.get x.act 0 key).toInt
  let st := match Tbl.find x.gains key with
    | some g => if g.ramp ∧ 64 ≤ g.k then none else some g
    | none => none
  let g := gainNow st cur
  let x' := { x with act := Tbl.set x.act 0 key v }
  if st.isSome ∧ v.toInt = cur then x
  else if v.toInt = g ∨ ¬ stepping then { x' with gains := Tbl.del x.gains key }
  else { x' with gains := Tbl.put x.gains key { ramp := false, g := g, g1 := v.toInt, tick := t, z := max z 1, k := 0 } }

/-- Whether a gain's wait has run out at tick `t` (R191). -/
def GainSt.timedOut (g : GainSt) (t : Nat) : Bool := !g.ramp && decide (g.tick + g.z ≤ t)

/-! ### Dry sources (R27, R370) -/

/-- R370: the samples that a source of bulk data puts out, `late` telling that the tick's data are not in: the last
sample fades out over 16 samples, and a refill fades in. -/
def dryOut (st : NodeSt) (late : Bool) (ys : List Int) : List Int × NodeSt :=
  let st := if late ∧ ¬ st.starved then { st with starved := true, fade := fadeTo st.fade 0 16 } else st
  ys.foldl (fun acc y =>
    let st := acc.2
    let x := if st.starved then st.last else y
    let r := fadeSample st.fade x
    (acc.1 ++ [r.1], { st with last := x, fade := r.2 })) ([], st)

end Sys2Proof.Machine
end

