-- ==== Sys2Proof/Machine/Stages.lean ====
section
/-! DEFINITION. What the fixed stages compute for one node in one tick (R70 to R105), from its input samples. -/

namespace Sys2Proof.Machine

open Sys2Proof.Arith

/-- Samples of a rate in six ticks. -/
def sixTicks (rate : Nat) : Nat :=
  match rate with
  | 0 => 1
  | 1 => 2
  | 2 => 6
  | 3 => 12
  | _ => 24

/-! ### Operations of a node (R73 to R93) -/

/-- R78, R80: biquad `key` with coefficients from word `w`. -/
def Run.biq (r : Run) (act : Nat → W32) (key w : Nat) (x : Int) : Int × Run :=
  let y := biquad (coefAt act w) (Tbl.get r.st.bqs {} key) x
  (y.1, { r with st := { r.st with bqs := Tbl.set r.st.bqs {} key y.2 } })

/-- The biquads of a node in order, the high-pass filter first. -/
def Run.biqs (r : Run) (act : Nat → W32) (n : Node) (x : Int) : Int × Run :=
  (n.coefSets.zipIdx).foldl (fun acc c => acc.2.biq act c.2 c.1 acc.1) (x, r)

/-- R83 to R86: dynamics stage `key` with its words from `w`. -/
def Run.dynamics (r : Run) (act : Nat → W32) (key w : Nat) (x : Int) : Int × Run :=
  let mode := (act w).toNat
  let d := Tbl.get r.st.dyns {} key
  let lv := detect (bits mode 2 2) (bits mode 7 4) d.e x
  let gr := gainComputer (bits mode 1 0) lv.1 (act (w + 1)).toInt (act (w + 2)).toNat (act (w + 3)).toNat
  let d := smooth { d with e := lv.2 } gr (act (w + 4)).toNat (act (w + 5)).toNat (act (w + 6)).toNat
  (gain x (exp2c (rnd d.s 32 + (act (w + 7)).toInt)),
    { r with st := { r.st with dyns := Tbl.set r.st.dyns {} key d } })

/-- R91, R92: the limiter with its words from `w`. -/
def Run.limiter (r : Run) (act : Nat → W32) (w : Nat) (x : Int) : Int × Run :=
  let d := Tbl.get r.st.dyns {} 0
  let d := smooth d (min 0 ((act w).toInt - log2lv (mag x))) (act (w + 1)).toNat (act (w + 2)).toNat (act (w + 3)).toNat
  let y := gain x (exp2c (rnd d.s 32))
  let c : Int := (act (w + 4)).toNat
  (if (act (w + 5)).toNat % 2 = 1 then max (-c) (min c y) else y,
    { r with st := { r.st with dyns := Tbl.set r.st.dyns {} 0 d } })

/-- R89, R90: the noise-tracking gain with its words from `w`; `limit` is the zone's locked boost limit. -/
def Run.noiseGain (r : Run) (act : Nat → W32) (limit : Option Int) (w : Nat) (x : Int) : Int × Run :=
  let mx : Int := (act (w + 2)).toInt
  let bt := boostTarget r.st.noise (act w).toInt (act (w + 1)).toNat mx (limit.getD mx)
  let b := boostStep r.st.boost bt (act (w + 3)).toInt
  (gain x (exp2c b), { r with st := { r.st with boost := b } })

/-- R96 to R98: a delay of `d` ticks on a line that keeps `cap` ticks; `full` keeps the old content of the line's
oldest position in place of the sample (R370). -/
def Run.delay (r : Run) (rate d cap : Nat) (full : Bool) (x : Int) : Int × Run :=
  let ds := d * sixTicks rate / 6
  let keep := (cap * sixTicks rate + 5) / 6
  let y := if ds = 0 then x else r.st.line.getD (ds - 1) 0
  (y, { r with st := { r.st with line := ((if full then r.st.line.getD (keep - 1) 0 else x) :: r.st.line).take keep } })

/-- The DELAY of a STRIP, BUS or ZONE node, where it has one. -/
def Run.nodeDelay (r : Run) (act : Nat → W32) (n : Node) (x : Int) : Int × Run :=
  if n.dly = 0 then (x, r) else r.delay n.rate (act n.dlyWord).toNat 2048 false x

/-- R72: one sample of a STRIP node. -/
def stripSample (n : Node) (act : Nat → W32) (r : Run) (x : Int) : Int × Run :=
  let g := r.gainIn act n.pset 0 x
  let y := gain x g.1
  let y := if (act 1).toNat % 2 = 1 then sat32 (-y) else y
  let b := g.2.biqs act n y
  let d := (List.range n.ndyn).foldl (fun acc k => acc.2.dynamics act k (n.dynWord k) acc.1) b
  d.2.nodeDelay act n d.1

/-- R72: one sample of a BUS node. -/
def busSample (n : Node) (act : Nat → W32) (r : Run) (x : Int) : Int × Run :=
  let g := r.gainIn act n.pset 0 x
  let b := g.2.biqs act n (gain x g.1)
  let d := (List.range n.ndyn).foldl (fun acc k => acc.2.dynamics act k (n.dynWord k) acc.1) b
  d.2.nodeDelay act n d.1

/-- R72, R93: one sample of a ZONE node: output ports 0 and 1. -/
def zoneSample (n : Node) (act : Nat → W32) (limit : Option Int) (r : Run) (x : Int) : (Int × Int) × Run :=
  let g := r.gainIn act n.pset 0 x
  let y := (gain x g.1, g.2)
  let y := if n.ntg = 1 then y.2.noiseGain act limit 1 y.1 else y
  let y := y.2.biqs act n y.1
  let y := if n.lim = 1 then y.2.limiter act n.limWord y.1 else y
  let d := y.2.nodeDelay act n y.1
  ((d.1, y.1), d.2)

/-! ### Priority nodes (R94, R95) -/

/-- R95: activity of input `j` for sample `x`; `pins` are the levels of the GPIO lines. -/
def prioActivity (act : Nat → W32) (pins j : Nat) (x : Int) (p : PrioIn) : PrioIn :=
  let mode := (act (4 * j + 1)).toNat
  let lvl := decide ((bits mode 31 16 : Int) * 2 ^ 15 ≤ mag x)
  let pin := decide (bit pins (bits mode 8 4) = bit mode 9)
  let hit := match bits mode 3 2 with | 0 => lvl | 1 => pin | _ => lvl || pin
  if hit then { p with act := true, hc := bits (act (4 * j + 3)).toNat 15 0 }
  else if 0 < p.hc then { p with hc := p.hc - 1 }
  else { p with act := false }

/-- R95: the target of input `j`. -/
def prioTarget (act : Nat → W32) (ins : List PrioIn) (depths : List Int) (j : Nat) : Int :=
  (ins.zipIdx).foldl (fun tgt x =>
    let action := bits (act (4 * x.2 + 1)).toNat 1 0
    if x.1.act ∧ action ≠ 0 ∧ (act (4 * x.2)).toNat < (act (4 * j)).toNat then
      (if action = 2 then 0 else min tgt (depths.getD j 0))
    else tgt) unity

/-- R95: the ramp of one input toward its target. -/
def prioRamp (timing : Nat) (tgt : Int) (p : PrioIn) : PrioIn :=
  let p := if tgt ≠ p.goal then
      { p with start := p.g, goal := tgt, k := 0,
               n := if tgt < p.g then 2 ^ bits timing 19 16 else 2 ^ bits timing 23 20 }
    else p
  if p.k < p.n then { p with k := p.k + 1, g := ramp p.start p.goal (p.k + 1) p.n } else p

/-- R95: one sample of a PRIO node. -/
def prioSample (n : Node) (act : Nat → W32) (pins : Nat) (r : Run) (xs : List Int) : Int × Run :=
  let ins := (xs.zipIdx).map (fun x => prioActivity act pins x.2 x.1 (Tbl.get r.st.prio {} x.2))
  let dr := (xs.zipIdx).foldl (fun acc x =>
    let g := acc.2.gainIn act n.pset (4 * x.2 + 2) x.1
    (acc.1 ++ [g.1], g.2)) (([] : List Int), r)
  let ins := (ins.zipIdx).map (fun p => prioRamp (act (4 * p.2 + 3)).toNat (prioTarget act ins dr.1 p.2) p.1)
  let y := sat32 (rnd (((ins.zip xs).map (fun p => p.1.g * p.2)).foldl (· + ·) 0) 28)
  (y, { dr.2 with st := { dr.2.st with
    prio := (ins.zipIdx).foldl (fun t p => Tbl.set t {} p.2 p.1) dr.2.st.prio } })

/-! ### Rate conversion (R99 to R102) -/

/-- One input sample into a RATE node's history; an interpolator's outputs come due (R101, R102). -/
def rateTake (inRate m : Nat) (up : Bool) (t : Nat) (st : NodeSt) (x : Int) : NodeSt :=
  let st := { st with hist := (x :: st.hist).take 31 }
  if ¬ up then st
  else
    let gap := if 2 ≤ inRate then 0 else 6 / (m * sixTicks inRate)
    { st with due := st.due ++ (List.range m).map (fun k => (t + gap * k, interpolate m k st.hist)) }

/-- One tick of a RATE node: its inputs of the tick, then its outputs. DEDUCED (log entry 108): a decimator from 4·Fb to 2·Fb
computes each of a tick's two outputs after the two inputs that it covers. -/
def rateTick (n : Node) (t q : Nat) (st : NodeSt) (xs : List Int) : List Int × NodeSt :=
  let m := rateRatio n.config n.rate
  let out := n.samples q
  if n.config < n.rate then
    let st := xs.foldl (rateTake n.config m true t) st
    let ys := (st.due.filter (fun d => decide (d.1 ≤ t))).map (·.2)
    ((List.range out).map (fun i => ys.getD i 0), { st with due := st.due.filter (fun d => decide (t < d.1)) })
  else
    let per := if out = 0 then xs.length else xs.length / out
    (List.range (max out 1)).foldl (fun acc i =>
      let st := ((xs.drop (i * per)).take per).foldl (rateTake n.config m false t) acc.2
      (if out = 0 then acc.1 else acc.1 ++ [decimate m st.hist], st)) ([], st)

/-! ### Silence detectors (R103) -/

/-- One tick of a SILENCE node: its state, and whether it became ACTIVE. -/
def silenceTick (threshold : Int) (st : NodeSt) (xs : List Int) : NodeSt :=
  if xs.any (fun x => decide (threshold < mag x)) then { st with active := true, quiet := 0 }
  else if st.active then { st with quiet := st.quiet + 1 } else st

/-! ### Playback and recording (R106 to R109) -/

/-- R108: PLAY of a voice takes value `on`. -/
def voicePlay (st : NodeSt) (on : Bool) : NodeSt :=
  let st' := { st with run := on }
  if on ∧ ¬ st.run then (if st.voice = .idle then { st' with voice := .playing, pos := 0 } else st')
  else if st.run ∧ ¬ on then
    match st.voice with
    | .playing => { st' with voice := .fading, due := [(0, unity)] }
    | .ended => { st' with voice := .idle, pos := 0 }
    | _ => st'
  else st'

/-- Whether a PLAYING voice has put out its last sample (R108). -/
def voiceAtEnd (act : Nat → W32) (st : NodeSt) : Bool := decide ((act 2).toNat ≤ st.pos)

/-- R108: what follows the sample before: the loop, the end, or the end of a fade. Its second part tells an end that is
reported. -/
def voiceSettle (act : Nat → W32) (st : NodeSt) : NodeSt × Bool :=
  let ctl := (act 5).toNat
  let loop := bit ctl 1
  let steps := (st.due.headD (0, 0)).1
  if st.voice = .fading ∧ 64 ≤ steps then
    (if st.run then { st with voice := .playing, pos := 0, due := [] } else { st with voice := .idle, pos := 0, due := [] }, false)
  else if (st.voice = .playing ∨ st.voice = .fading) ∧ voiceAtEnd act st then
    if loop then ({ st with pos := (act 4).toNat }, false)
    else if st.voice = .playing then ({ st with voice := .ended, pos := (act 2).toNat, due := [] }, bit ctl 2)
    else (st, false)
  else (st, false)

/-- The stored sample `i` of a voice's region. -/
def storedSample (m : List Host.Cell) (act : Nat → W32) (i : Nat) : Int :=
  let fmt := (act 3).toNat
  fmtToA32 fmt (leAt m ((region act).1 + i * fmtBytes fmt) (fmtBytes fmt))

/-- R108, R189: one sample of a voice. A fade's step count lies in `due`. -/
def voiceSample (m : List Host.Cell) (n : Node) (act : Nat → W32) (r : Run) : Int × Run :=
  let st := (voiceSettle act r.st).1
  let live := (st.voice = .playing ∨ st.voice = .fading) ∧ ¬ voiceAtEnd act st
  let x := if live then storedSample m act st.pos else 0
  let g := ({ r with st := st } : Run).gainIn act n.pset 6 x
  let st := g.2.st
  let y := gain x g.1
  if st.voice = .fading then
    let k := (st.due.headD (0, 0)).1 + 1
    (gain y (ramp unity 0 k 64), { g.2 with st := { st with pos := if live then st.pos + 1 else st.pos, due := [(k, 0)] } })
  else (y, { g.2 with st := { st with pos := if live then st.pos + 1 else st.pos } })

/-- R109: REC of a recorder takes value `on`. -/
def recorderRec (st : NodeSt) (on : Bool) : NodeSt :=
  let st' := { st with run := on }
  if on ∧ ¬ st.run then { st' with recd := .recording, pos := 0 }
  else if st.run ∧ ¬ on then { st' with recd := .idle }
  else st'

/-- R109: on reaching LENGTH a recorder wraps or becomes FULL; the second part tells a FULL. -/
def recorderSettle (act : Nat → W32) (st : NodeSt) : NodeSt × Bool :=
  if st.recd = .recording ∧ (act 2).toNat ≤ st.pos then
    if bit (act 4).toNat 1 then ({ st with pos := 0 }, false)
    else ({ st with recd := .full, pos := (act 2).toNat }, true)
  else (st, false)

/-- R106: what sample `i` of a recorder's region stores: its bulk address and bytes; the last one zeroes the rest of its
word. -/
def storeSample (act : Nat → W32) (i : Nat) (y : Int) : Nat × List Nat :=
  let fmt := (act 3).toNat
  let b := fmtBytes fmt
  ((region act).1 + i * b, leBytes b (fmtFromA32 fmt y) ++
    (if i + 1 = (act 2).toNat then List.replicate ((region act).2 - (i + 1) * b) 0 else []))

/-! ### Blocks between nodes (R17, R18, R119) -/

/-- The newest block of node `i` that is not later than tick `t`. -/
def Slot.blkAt (x : Slot) (i t : Nat) : Option Blk := (Tbl.get x.outs [] i).find? (fun b => decide (b.tick ≤ t))

/-- Store node `i`'s block of tick `t`; the newest eight stay. -/
def Slot.pushBlk (x : Slot) (i : Nat) (b : Blk) : Slot :=
  { x with outs := Tbl.set x.outs [] i ((b :: (Tbl.get x.outs [] i).filter (fun o => decide (o.tick ≠ b.tick))).take 8) }

/-- The samples that edge `e` brings to its node in tick `t`; zeros while nothing has arrived. -/
def Slot.edgeIn (x : Slot) (e : Edge) (t : Nat) : List Int :=
  let lat := if e.reference then 1 else x.prog.latency e.src e.dst
  if t < lat then []
  else
    match x.blkAt e.src (t - lat) with
    | none => []
    | some b => b.ports.getD e.srcPort []

/-- Exactly `n` samples of a list, zeros after its end. -/
def padded (l : List Int) (n : Nat) : List Int := (List.range n).map (fun i => l.getD i 0)

/-- The words of node `n` in a slot's active sets. -/
def Slot.word (x : Slot) (n : Node) (w : Nat) : W32 := Tbl.get x.act 0 (wkey n.pset w)

/-- State of node `i`. -/
def Slot.node (x : Slot) (i : Nat) : NodeSt := Tbl.get x.nodes {} i

/-- Store the state of node `i`. -/
def Slot.setNode (x : Slot) (i : Nat) (st : NodeSt) : Slot := { x with nodes := Tbl.set x.nodes {} i st }

/-- What a running node has for its work. -/
def Slot.runOf (x : Slot) (i : Nat) : Run := { st := x.node i, gains := x.gains }

/-- Put back what a running node changed. -/
def Slot.endRun (x : Slot) (i : Nat) (r : Run) : Slot := { x.setNode i r.st with gains := r.gains }

/-- Map samples through a node, one after the other (R70). -/
def mapRun {α : Type} (f : Run → α → Int × Run) (r : Run) (xs : List α) : List Int × Run :=
  xs.foldl (fun acc x => let y := f acc.2 x; (acc.1 ++ [y.1], y.2)) ([], r)

/-! ### One node of stages 1 to 4 in one tick -/

/-- R87, R28: the sum of a MIX over the crosspoints `ks`, sample `j`: the exact sum and the gains after it. -/
def mixSum (x : Slot) (n : Node) (ks : List Nat) (ins : Nat → List Int) (j : Nat) (r : Run) : Int × Run :=
  ks.foldl (fun acc k =>
    let v := (ins k).getD j 0
    let g := acc.2.gainIn (x.word n) n.pset k v
    (acc.1 + g.1 * v, g.2)) (0, r)

/-- The input samples of crosspoint `k` of MIX node `n` in tick `t`. -/
def Slot.crosspointIn (x : Slot) (i : Nat) (n : Node) (t k : Nat) : List Int :=
  match (x.prog.crosspoints n)[k]? with
  | none => []
  | some mx =>
    match x.prog.mxSource mx n.rate n.phase with
    | none => []
    | some src =>
      let lat := x.prog.latency src.1 i
      if t < lat then []
      else
        match x.blkAt src.1 (t - lat) with
        | none => []
        | some b => b.ports.getD src.2 []

/-- R87: the exact sums of a MIX node over crosspoints `ks`, one a sample of the tick. -/
def Slot.mixTick (x : Slot) (i : Nat) (ks : List Nat) (t q : Nat) : List Int × Slot :=
  let n := x.prog.node i
  let r := (List.range (n.samples q)).foldl (fun acc j =>
    let y := mixSum x n ks (x.crosspointIn i n t) j acc.2
    (acc.1 ++ [y.1], y.2)) (([] : List Int), x.runOf i)
  (r.1, x.endRun i r.2)

/-- What a node of stages 1, 3 and 4 needs beside its inputs. -/
structure NodeEnv where
  t : Nat
  q : Nat
  pins : Nat
  limit : Option Int
  late : Bool
  full : Bool
  deriving DecidableEq, Repr

/-- One tick of node `i` of stages 1, 3 and 4, from its input samples port by port: its state and its output ports. -/
def Slot.nodeTick (x : Slot) (i : Nat) (env : NodeEnv) (ins : List (List Int)) : List (List Int) × Slot :=
  let n := x.prog.node i
  let act := x.word n
  let xs := ins.getD 0 []
  let r := x.runOf i
  if n.type = T.strip then
    let y := mapRun (stripSample n act) r xs
    ([y.1], x.endRun i y.2)
  else if n.type = T.bus then
    let y := mapRun (busSample n act) r xs
    ([y.1], x.endRun i y.2)
  else if n.type = T.zone then
    let y := xs.foldl (fun acc v =>
      let o := zoneSample n act env.limit acc.2 v
      (acc.1 ++ [o.1], o.2)) (([] : List (Int × Int)), r)
    ([y.1.map (·.1), y.1.map (·.2)], x.endRun i y.2)
  else if n.type = T.prio then
    let y := mapRun (prioSample n act env.pins) r ((List.range (n.samples env.q)).map (fun j => ins.map (fun p => p.getD j 0)))
    ([y.1], x.endRun i y.2)
  else if n.type = T.rate then
    let y := rateTick n env.t env.q r.st xs
    ([y.1], x.setNode i y.2)
  else if n.type = T.bulkDly then
    let d := (act 0).toNat
    let y := mapRun (fun r v => r.delay n.rate d 131072 (env.full && decide (64 ≤ d)) v) r xs
    let o := dryOut y.2.st (env.late && decide (64 ≤ d)) y.1
    ([o.1], x.setNode i o.2)
  else if n.type = T.silence then ([], x.setNode i (silenceTick (act 0).toInt r.st xs))
  else ([], x)

end Sys2Proof.Machine
end

