-- ==== Sys2Proof/Machine/Scenes.lean ====
section
/-! DEFINITION. Program slots and commits: what the scene unit does when a change is accepted, and when it takes effect
(R60, R61, R180 to R204). Times `due` and `at` are engine ticks. -/

namespace Sys2Proof.Machine

open Sys2Proof.Arith

/-! ### Slots -/

/-- STATE of a slot (R67): 0 EMPTY, 1 LOADING, 2 LOADED, 3 ACTIVE, 4 RETIRING, 5 STOPPING. -/
def State.slotState (s : State) (k : Nat) : Nat := s.fget (F.ENG_SLOT_STAT_STATE k)

/-- Set STATE of a slot. -/
def State.setSlotState (s : State) (k v : Nat) : State := s.fset (F.ENG_SLOT_STAT_STATE k) v

/-- Whether the slot's program runs. -/
def State.slotRuns (s : State) (k : Nat) : Bool := decide (3 ≤ s.slotState k) && decide (s.slotState k ≤ 5)

/-- Whether the slot's program works: it runs, or is the new one of a crossfade in its warm-up. -/
def State.slotWorks (s : State) (k : Nat) : Bool :=
  s.slotRuns k || (match s.eng.xf with | some r => decide (r.new = k) | none => false)

/-- Write a completion with SCNT as its TICK. -/
def State.answer (s : State) (r : CmdRef) (code : Nat) (res : List W32 := []) : State :=
  s.complete (r.done code (BitVec.ofNat 32 s.scnt) res)

/-- R61: a slot command completes: LAST_ERR takes its code, unless ENG is held. -/
def State.slotAnswer (s : State) (k : Nat) (r : CmdRef) (code : Nat) (tick : W32) (res : List W32 := []) : State :=
  let s := if s.up .eng ∧ k ≤ 1 then s.fset (F.ENG_SLOT_STAT_LAST_ERR k) code else s
  s.complete (r.done code tick res)

/-- A slot command refused now (R390). -/
def State.slotRefuse (s : State) (k : Nat) (r : CmdRef) (code : Nat) : State :=
  s.slotAnswer k r code (BitVec.ofNat 32 s.scnt)

/-! ### Tasks of a slot on the cores (R116, R117, R148) -/

/-- What a task of the library on core `n` keeps. -/
def State.vendorSt (s : State) (n : Nat) (t : Task) : VendorSt := Tbl.get s.eng.vendor {} (n * 16384 + t.base)

/-- Store what a task of the library keeps. -/
def State.setVendor (s : State) (n : Nat) (t : Task) (v : VendorSt) : State :=
  { s with eng := { s.eng with vendor := Tbl.set s.eng.vendor {} (n * 16384 + t.base) v } }

/-- A region that is cleared, or freed, keeps nothing (R116, R148). -/
def State.clearVendor (s : State) (n : Nat) (t : Task) : State := s.setVendor n t {}

/-- Remove the tasks that satisfy `p` from every core: their locks are released with BROKEN set, and their messages discarded
(R143, R144). -/
def State.dropTasks (s : State) (p : Task → Bool) : State :=
  forEach (s.cores.map (·.1)) s (fun s n =>
    let gone := (s.core n).tasks.filter p
    let s := forEach gone s (fun s t => (s.breakTaskLocks n t).clearVendor n t)
    let c := s.core n
    s.setCore n { c with tasks := c.tasks.filter (fun t => !p t),
                         mbin := c.mbin.filter (fun m => !gone.any (fun t => decide ((t.slot, t.idx) = (m.slot, m.task)))) })

/-- Retained tasks of slot `o` become tasks of slot `k` (R117): `name` gives the new index of an old one. Their locks and their
messages go with them; the tasks themselves are placed anew. -/
def State.liftTasks (s : State) (o k : Nat) (name : Nat → Option Nat) : State :=
  let move := fun (x : Nat × Nat) => if x.1 = o then (match name x.2 with | none => x | some i => (k, i)) else x
  forEach (s.cores.map (·.1)) s (fun s n =>
    let c := s.core n
    s.setCore n { c with tasks := c.tasks.filter (fun t => !(decide (t.slot = o) && (name t.idx).isSome)),
                         holds := c.holds.map (fun h => (h.1, move h.2)),
                         mbin := c.mbin.map (fun m => let x := move (m.slot, m.task); { m with slot := x.1, task := x.2 }) })

/-- Load a task's region: its code bytes, the rest cleared (R116, R148). -/
def State.fillRegion (s : State) (n : Nat) (p : Prog) (t : Task) : State :=
  match p.tasks[t.idx]? with
  | none => s
  | some e => { s.clearVendor n t with mem := setBytes (eraseRange s.mem (ramAddr n t.base) (4 * t.size)) (ramAddr n t.base) (p.taskCode e) }

/-- Put tasks on their cores, which are no longer spare (R150); those that satisfy `fresh` get their region filled. -/
def State.placeTasks (s : State) (p : Prog) (l : List (Nat × Task)) (fresh : Task → Bool) : State :=
  forEach l s (fun s x =>
    let s := if fresh x.2 then s.fillRegion x.1 p x.2 else s
    let c := s.core x.1
    s.setCore x.1 { c with tasks := c.tasks ++ [x.2], test := false })

/-! ### Parameter words -/

/-- The image's words of every parameter set that `p` picks, in a table. -/
def Prog.imageWords (p : Prog) (pick : Nat → Bool) (t : Tbl W32) : Tbl W32 :=
  (List.range p.psets.length).foldl (fun t i =>
    if pick i then (List.range (p.setWords i)).foldl (fun t w => Tbl.set t 0 (wkey i w) (p.word i w)) t else t) t

/-- The commit group, timeout and stepping flag of parameter set `i` (R191, R205). -/
def State.groupOf (s : State) (p : Prog) (i : Nat) : Nat × Nat × Bool :=
  let g := (p.psets.getD i { off := 0, size := 0, node := 0, group := 0 }).group
  match p.groupEntry g with
  | none => (g, max (s.fget F.ENG_ZC_DEFAULT_TIMEOUT) 1, false)
  | some e => (g, max (if e.zc = 0 then s.fget F.ENG_ZC_DEFAULT_TIMEOUT else e.zc) 1, e.stepping)

/-- The node that owns parameter set `i`. -/
def Prog.ownerOf (p : Prog) (i : Nat) : Nat := (p.psets.getD i { off := 0, size := 0, node := 0, group := 0 }).node

/-! ### Adaptive ownership (R175, R177) -/

/-- The slot and node index of the ZONE node at position `z` of an ACTIVE slot. -/
def State.zoneNode (s : State) (z : Nat) : Option (Nat × Nat) :=
  [0, 1].findSome? (fun k =>
    if s.slotState k = 3 then
      ((s.slot k).prog.nodes.findIdx? (fun n => n.type = T.zone && decide (n.position = z))).map (fun i => (k, i))
    else none)

/-- Whether a topology crossfade under way or accepted changes the ZONE node at `z` (R177). -/
def State.zoneHeld (s : State) (z : Nat) : Bool :=
  let changes := fun (old new : Nat) =>
    let po := (s.slot old).prog
    let pn := (s.slot new).prog
    (pn.nodes.zipIdx).any (fun x => x.1.type = T.zone && decide (x.1.position = z) && (retained po pn x.2).isNone) ||
      (po.nodes.zipIdx).any (fun x => x.1.type = T.zone && decide (x.1.position = z) &&
        oldInstance (retainedPairs po pn) x.2)
  match s.eng.xf, s.eng.cmd with
  | some r, _ => changes r.old r.new
  | none, some c => (match c.op with | .crossfade _ _ => changes (1 - c.slot) c.slot | _ => false)
  | none, none => false

/-- Whether word `w` of node `n` of slot `k` is adaptive-owned (R175, R177). -/
def State.ownedWord (s : State) (k : Nat) (n : Node) (w : Nat) : Bool :=
  if n.type ≠ T.zone ∨ s.slotState k ≠ 3 ∨ (s.eng.xf.isSome ∧ s.zoneHeld n.position) then false
  else
    let z := s.zone n.position
    (decide (w = 0) && z.gainOwned) ||
      z.eqOwned.any (fun b =>
        let q := s.fget (F.ANA_LIM_W5_BQ_FIRST n.position) + b.1
        decide (q < n.nbq) && decide (n.bqWord q ≤ w) && decide (w < n.bqWord q + 5))

/-- The table entry that the five words of band `b` of node `n`, as `get` reads them, equal. DESIGN CHOICE (log entry 115): of
several equal entries the lowest. -/
def State.eqIndex (s : State) (n : Node) (get : Nat → W32) (b : Nat) : Option Nat :=
  let q := n.bqWord (s.fget (F.ANA_LIM_W5_BQ_FIRST n.position) + b)
  (List.range 16).find? (fun e => decide (s.eqEntry b e = (List.range 5).map (fun j => get (q + j))))

/-- R175: who owns what at zone `z` after a change of ADAPT_EN, a policy, the limits or a program: a word newly owned
takes its base from its active value, or at the retirement of a crossfade that changed the zone from the image's (R177); a word
no longer owned loses its writes not yet applied. While such a crossfade runs nothing becomes owned. DESIGN CHOICE (log entry
114): a biquad that equals no table entry takes a free index as its base. -/
def State.reownZone (s : State) (z : Nat) (image : Bool) : State :=
  let zs := s.zone z
  let drop := fun (s : State) (eq : Bool) =>
    { s with eng := { s.eng with adapts := s.eng.adapts.filter (fun a => !(decide (a.w.zone = z) && decide (a.w.eq = eq))) } }
  match (if s.fon F.ANA_CTRL_ADAPT_EN then s.zoneNode z else none) with
  | none =>
    if zs.gainOwned = false ∧ zs.eqOwned = [] then s
    else drop (drop (s.setZone z { zs with gainOwned := false, gainBase := 0, offset := 0, eqOwned := [] }) true) false
  | some (k, i) =>
    let held := s.eng.xf.isSome && s.zoneHeld z
    let n := (s.slot k).prog.node i
    let get := if image then (s.slot k).prog.word n.pset else (s.slot k).word n
    let g := s.fon (F.ANA_POL_W0_ADAPT_GAIN z)
    let s := if zs.gainOwned ∧ ¬ g then drop s false else s
    let zs := if g ∧ ¬ zs.gainOwned then
        (if held then zs else { zs with gainOwned := true, gainBase := (get 0).toInt, offset := 0 })
      else if g then zs else { zs with gainOwned := false, gainBase := 0, offset := 0 }
    let bands := if s.fon (F.ANA_POL_W0_ADAPT_EQ z) then
        (s.zoneBands z).filter (fun b => decide (s.fget (F.ANA_LIM_W5_BQ_FIRST z) + b < n.nbq)) else []
    let s := if zs.eqOwned.any (fun b => !bands.contains b.1) then
        { s with eng := { s.eng with adapts := s.eng.adapts.filter (fun a =>
          !(decide (a.w.zone = z) && a.w.eq && !bands.contains a.w.band)) } } else s
    let own := bands.foldl (fun (acc : List (Nat × Nat × Nat) × State) b =>
      match zs.eqOwned.find? (fun o => o.1 = b) with
      | some o => (acc.1 ++ [o], acc.2)
      | none =>
        if held then acc
        else match acc.2.eqIndex n get b with
        | some e => (acc.1 ++ [(b, e, e)], acc.2)
        | none => let d := acc.2.draw 4; (acc.1 ++ [(b, d.1, d.1)], d.2)) ([], s)
    own.2.setZone z { zs with eqOwned := own.1 }

/-- Ownership at every zone position that a program or an earlier ownership names. -/
def State.reown (s : State) : State :=
  let zs := ([0, 1].flatMap (fun k => (s.slot k).prog.nodes.filterMap (fun n =>
    if n.type = T.zone then some n.position else none))) ++ s.eng.zones.map (·.1)
  forEach zs.eraseDups s (fun s z => s.reownZone z false)

/-! ### The target test (R185) -/

/-- R185: where a command with TARGET settles: the engine tick, and whether late; else the refusal. `w` is the warm-up of
a crossfade. -/
def State.settleTarget (s : State) (target : W32) (w : Nat) (lateOk : Bool) : Except Nat (Nat × Bool) :=
  let d := sdiff target.toNat s.scnt - w
  if d > 1073741824 then .error 0xA02
  else if 2 ≤ d then .ok (s.eng.tick + (d + w).toNat, false)
  else if lateOk then .ok (s.eng.tick + 2 + w, true)
  else .error 0xA01

/-- An accepted command: the late count, and with ACK_REQ the earlier completion (R185, R390). -/
def State.accepted (s : State) (ack : Bool) (r : CmdRef) (due : Nat) (res : List W32 := []) : State :=
  let s := if r.late then s.bump A.ENG_COMMIT_LATE_CNT else s
  if ack then s.complete (r.done 1 (s.scntOf due) res) else s

/-! ### Commits (R184 to R188) -/

/-- Whether a fence at index `f` is met (R184). -/
def State.fenceMet (s : State) (f : W32) : Bool := decide (sdiff f.toNat (s.ringEng 3) ≤ 0)

/-- R186, R188, R203: whether a change accepted earlier ends slot `k` for a commit at engine tick `t`. -/
def State.endsBy (s : State) (k t : Nat) : Bool :=
  (match s.eng.cmd with
   | none => false
   | some c =>
     match c.op with
     | .stop => decide (c.slot = k) && decide (c.due ≤ t)
     | .crossfade _ warm => decide (c.slot ≠ k) && decide (c.due ≤ t + warm)
     | .activate => false) ||
    (match s.eng.xf with
     | none => false
     | some r => decide (r.old = k))

/-- R186: whether a shadow word of the group fails R173. -/
def State.groupClampOk (s : State) (k g : Nat) : Bool :=
  let x := s.slot k
  (x.prog.psets.zipIdx).all (fun p => decide (p.1.group ≠ g) ||
    s.clampOk (x.prog.node p.1.node) (fun _ => true) (fun w => Tbl.get x.shadow 0 (wkey p.2 w)))

/-- A commit whose target has been settled, or refused, arrives (R185, R186). -/
def State.arriveAt (s : State) (w : FenceWait) (settled : Except Nat (Nat × Bool)) : State :=
  match settled with
  | .error code => s.answer w.ref code
  | .ok (due, late) =>
    let r := { w.ref with late := late }
    if s.slotState w.slot ≠ 3 ∨ s.endsBy w.slot due then s.answer w.ref 0xA04
    else if ((s.slot w.slot).prog.groupEntry w.group).isNone then s.answer w.ref 0x402
    else if s.eng.pend.any (fun p => decide (p.slot = w.slot) && decide (p.group = w.group)) then s.answer w.ref 0xA06
    else if s.anaLocked ∧ ¬ s.groupClampOk w.slot w.group then s.answer w.ref 0x404
    else
      let c : PendCommit := { slot := w.slot, group := w.group, due := due, ref := r }
      let s := { s with eng := { s.eng with pend := s.eng.pend ++ [c] } }
      s.accepted w.ack r due

/-- A commit that has left its fence wait arrives (R185, R186). -/
def State.arriveCommit (s : State) (w : FenceWait) : State :=
  s.arriveAt w (s.settleTarget w.target 0 w.lateOk)

/-- Commits leave the fence wait in order while the first one's fence is met; at most `fuel` of them (R184). -/
def State.drainFences : Nat → State → State
  | 0, s => s
  | fuel + 1, s =>
    match s.eng.fences with
    | [] => s
    | w :: rest =>
      if s.fenceMet w.fence then
        (({ s with eng := { s.eng with fences := rest } }).arriveCommit w).drainFences fuel
      else s

/-- Cancel the pending commits that satisfy `p` (R188). -/
def State.cancelCommits (s : State) (p : PendCommit → Bool) : State :=
  let gone := s.eng.pend.filter p
  forEach gone { s with eng := { s.eng with pend := s.eng.pend.filter (fun c => !p c) } } (fun s c =>
    s.answer { c.ref with late := false } 0xA07)

/-- One word of a commit lands (R187, R193): a gain parameter by R191, CONTROL with the change of its PLAY or REC. -/
def Slot.landWord (x : Slot) (p : Nat) (i : Nat) (n : Node) (w t z : Nat) (stepping : Bool) : Slot :=
  let key := wkey p w
  let v := Tbl.get x.shadow 0 key
  if n.isGain w then x.setGain key v t z stepping
  else
    let x := { x with act := Tbl.set x.act 0 key v }
    if n.type = T.srcVoice ∧ w = 5 then x.setNode i (voicePlay (x.node i) (bit v.toNat 0))
    else if n.type = T.snkRec ∧ w = 4 then x.setNode i (recorderRec (x.node i) (bit v.toNat 0))
    else x

/-- R187: group `g` of slot `k` takes its shadow values at engine tick `t`; adaptive-owned words are left alone. -/
def State.landGroup (s : State) (k g t : Nat) : State :=
  let x := s.slot k
  let x' := (x.prog.psets.zipIdx).foldl (fun x p =>
    if p.1.group ≠ g then x
    else
      let n := x.prog.node p.1.node
      let gs := s.groupOf x.prog p.2
      (List.range (p.1.size / 4)).foldl (fun x w =>
        if s.ownedWord k n w then x else x.landWord p.2 p.1.node n w t gs.2.1 gs.2.2) x) x
  s.setSlot k x'

/-- The pending commits due by engine tick `t` that `p` picks land and complete. -/
def State.landCommits (s : State) (t : Nat) (p : PendCommit → Bool) : State :=
  let go := s.eng.pend.filter (fun c => decide (c.due ≤ t) && p c)
  forEach go { s with eng := { s.eng with pend := s.eng.pend.filter (fun c => !(decide (c.due ≤ t) && p c)) } } (fun s c =>
    (s.landGroup c.slot c.group c.due).complete (c.ref.done 0 (s.scntOf c.due) []))

/-! ### Starting and ending programs (R61, R195, R198) -/

/-- The cleared state of node `i` of a program (R70), its voice or recorder started where PLAY or REC is 1. -/
def startNode (n : Node) (act : Nat → W32) (records : Bool) : NodeSt :=
  if n.type = T.srcVoice then voicePlay {} (bit (act 5).toNat 0)
  else if n.type = T.snkRec ∧ records then recorderRec {} (bit (act 4).toNat 0)
  else {}

/-- R61, R180, R195: slot `k` starts from cleared state with the image's words, its sinks fading in. -/
def State.startSlot (s : State) (k : Nat) : State :=
  let x := s.slot k
  let words := x.prog.imageWords (fun _ => true) []
  let nodes := (x.prog.nodes.zipIdx).foldl (fun t e =>
    let st := startNode e.1 (fun w => Tbl.get words 0 (wkey e.1.pset w)) true
    Tbl.set t {} e.2 (if e.1.isSink then { st with fade := some { g0 := 0, g1 := unity, k := 0, n := sinkFade e.1.rate } } else st)) []
  let s := s.setSlot k { x with act := words, shadow := words, gains := [], nodes := nodes, outs := [], checked := none }
  let s := (s.dropTasks (fun t => t.slot = k)).placeTasks x.prog (placeFresh x.prog k).1 (fun _ => true)
  (s.setSlotState k 3).reown

/-- The activation accepted for engine tick `t` or earlier takes effect (R61, R195). -/
def State.takeActivation (s : State) (t : Nat) : State :=
  match s.eng.cmd with
  | some c =>
    if c.op = .activate ∧ c.due ≤ t then
      (({ s with eng := { s.eng with cmd := none } }).startSlot c.slot).slotAnswer c.slot c.ref 0 (s.scntOf c.due)
    else s
  | none => s

/-- The stop accepted for engine tick `t` or earlier takes effect: sinks fade out (R61, R195). -/
def State.takeStop (s : State) (t : Nat) : State :=
  match s.eng.cmd with
  | some c =>
    if c.op = .stop ∧ c.due ≤ t then
      let x := s.slot c.slot
      let nodes := (x.prog.nodes.zipIdx).foldl (fun tb e =>
        if e.1.isSink then
          let st := Tbl.get tb {} e.2
          Tbl.set tb {} e.2 { st with fade := fadeTo st.fade 0 (sinkFade e.1.rate) }
        else tb) x.nodes
      let s := { s with eng := { s.eng with cmd := none, stopping := some (c.slot, c.due + 64) } }
      (((s.setSlot c.slot { x with nodes := nodes }).setSlotState c.slot 5).reown).slotAnswer c.slot c.ref 0 (s.scntOf c.due)
    else s
  | none => s

/-- 64 ticks after a stop the slot is LOADED (R61). -/
def State.endStop (s : State) (t : Nat) : State :=
  match s.eng.stopping with
  | some (k, due) =>
    if due ≤ t then
      let x := s.slot k
      let s := { s with eng := { s.eng with stopping := none } }
      ((s.setSlot k { x with nodes := [], outs := [], gains := [] }).dropTasks (fun tk => tk.slot = k)).setSlotState k 2
    else s
  | none => s

/-- The words of old node `j` that new node `i` takes over, old and new: of a MIX its shared crosspoints (R62, R63). -/
def carriedWords (po pn : Prog) (pairs : List (Nat × Nat)) (j i : Nat) : List (Nat × Nat) :=
  let no := po.node j
  let nn := pn.node i
  if nn.type = T.mix then
    let os := po.crosspoints no
    ((pn.crosspoints nn).zipIdx).filterMap (fun e =>
      if sharedXp po pn pairs j i e.1 then (os.findIdx? (fun m => m = e.1)).map (fun k => (k, e.2)) else none)
  else (List.range (min (po.setWords no.pset) (pn.setWords nn.pset))).map (fun w => (w, w))

/-- The gains that stay with the old program: those of old instances and of old-only crosspoints. -/
def gainsLeft (old new : Slot) : Tbl GainSt :=
  let pairs := retainedPairs old.prog new.prog
  let gone := pairs.flatMap (fun p =>
    (carriedWords old.prog new.prog pairs p.1 p.2).map (fun m => wkey (old.prog.node p.1).pset m.1))
  old.gains.filter (fun g => !gone.contains g.1)

/-- The words and state that retained nodes take over at the start of the warm-up (R62, R63, R180, R198). -/
def carryOver (old new : Slot) : Slot :=
  let po := old.prog
  let pn := new.prog
  let pairs := retainedPairs po pn
  let words := pn.imageWords (fun _ => true) []
  let start : Slot := { new with act := words, shadow := words, gains := [], nodes := [], outs := [] }
  let changed := (pn.nodes.zipIdx).foldl (fun (x : Slot) e =>
    if (oldOf pairs e.2).isSome then x
    else x.setNode e.2 (startNode e.1 (fun w => Tbl.get words 0 (wkey e.1.pset w)) false)) start
  pairs.foldl (fun (x : Slot) p =>
    let no := po.node p.1
    let nn := pn.node p.2
    let moved := carriedWords po pn pairs p.1 p.2
    let x := moved.foldl (fun (x : Slot) m =>
      let ko := wkey no.pset m.1
      let kn := wkey nn.pset m.2
      { x with act := Tbl.set x.act 0 kn (Tbl.get old.act 0 ko), shadow := Tbl.set x.shadow 0 kn (Tbl.get old.shadow 0 ko),
               gains := match Tbl.find old.gains ko with | none => x.gains | some g => Tbl.put x.gains kn g }) x
    let st := old.node p.1
    let st := if nn.type = T.mix then
        { st with prev := moved.foldl (fun t m => Tbl.set t 0 m.2 (Tbl.get st.prev 0 m.1)) [] } else st
    { (x.setNode p.2 st) with outs := Tbl.set x.outs [] p.2 (Tbl.get old.outs [] p.1) }) changed

/-- R198: the warm-up of the accepted crossfade begins by engine tick `t`. -/
def State.beginXf (s : State) (t : Nat) : State :=
  match s.eng.cmd, s.eng.xf with
  | some c, none =>
    match c.op with
    | .crossfade len warm =>
      if c.due ≤ t + warm then
        let o := 1 - c.slot
        let po := (s.slot o).prog
        let pn := (s.slot c.slot).prog
        let pairs := retainedPairs po pn
        let placed := (placeXf pn pairs c.slot (s.slotTasks o)).getD []
        let name := fun (j : Nat) => (po.tasks[j]?).bind (fun e => (newOf pairs e.node).bind (fun i =>
          pn.tasks.findIdx? (fun f => decide (f.node = i))))
        let left := gainsLeft (s.slot o) (s.slot c.slot)
        let s := s.setSlot c.slot (carryOver (s.slot o) (s.slot c.slot))
        let s := s.setSlot o { (s.slot o) with gains := left }
        let s := (s.dropTasks (fun tk => decide (tk.slot = c.slot))).liftTasks o c.slot name
        let s := s.placeTasks pn placed (fun tk => (oldOf pairs tk.node).isNone)
        let s := { s with eng := { s.eng with xf := some { old := o, new := c.slot, t := c.due, len := len, warm := warm, ref := c.ref } } }
        s.fset F.ENG_XF_STAT_PHASE 1
      else s
    | _ => s
  | _, _ => s

/-- Whether a slot command is an activation with crossfade. -/
def SlotOp.isXf : SlotOp → Bool
  | .crossfade _ _ => true
  | _ => false

/-- R198, R202: the fade begins: the new slot ACTIVE, the old RETIRING, changed recorders with REC start. A STOP that waits
during the fade stays (R196). -/
def State.beginFade (s : State) (t : Nat) : State :=
  match s.eng.xf, s.eng.cmd with
  | some r, some c =>
    if r.t ≤ t ∧ c.op.isXf then
      let x := s.slot r.new
      let pairs := retainedPairs (s.slot r.old).prog x.prog
      let x := (x.prog.nodes.zipIdx).foldl (fun (x : Slot) e =>
        if e.1.type = T.snkRec ∧ (oldOf pairs e.2).isNone then
          x.setNode e.2 (recorderRec (x.node e.2) (bit (x.word e.1 4).toNat 0)) else x) x
      let s := { s with eng := { s.eng with cmd := none } }
      ((((s.setSlot r.new x).setSlotState r.new 3).setSlotState r.old 4).fset F.ENG_XF_STAT_PHASE 2).reown
    else s
  | _, _ => s

/-- R198, R199: the crossfade ends: the old slot EMPTY, the command complete with TICK T. -/
def State.retireXf (s : State) (t : Nat) : State :=
  match s.eng.xf with
  | some r =>
    if r.t + r.len ≤ t then
      let held := (s.eng.zones.map (·.1)).filter (fun z => s.zoneHeld z)
      let s := forEach held s (fun s z => s.setZone z { (s.zone z) with gainOwned := false, offset := 0, eqOwned := [] })
      let s := { s with eng := { s.eng with xf := none } }
      let s := ((s.setSlot r.old {}).setSlotState r.old 0).setReg (A.ENG_SLOT_PID r.old) 0
      let s := ((s.dropTasks (fun tk => tk.slot = r.old)).fset F.ENG_XF_STAT_PHASE 0).fset F.ENG_XF_STAT_K 0
      ((forEach held s (fun s z => s.reownZone z true)).reown).slotAnswer r.new r.ref 0 (s.scntOf r.t) [BitVec.ofNat 32 r.warm]
    else s
  | none => s

/-- Merge k of engine tick `t` (R198): 0 in the warm-up. -/
def XfRun.kAt (r : XfRun) (t : Nat) : Nat := if t < r.t then 0 else min (t - r.t + 1) r.len

/-! ### Gain parameters at a boundary (R191, R193) -/

/-- Whether parameter `key` of a slot is a DEPTH (R193). -/
def Slot.isDepth (x : Slot) (key : Nat) : Bool := decide ((x.prog.node (x.prog.ownerOf (key / 32768))).type = T.prio)

/-- R191: a wait that has run out by engine tick `t` becomes a ramp, or a DEPTH's new value. -/
def State.timeoutGain (s : State) (k key t : Nat) : State :=
  let x := s.slot k
  match Tbl.find x.gains key with
  | none => s
  | some g =>
    if ¬ g.timedOut t then s
    else if x.isDepth key then s.setSlot k { x with gains := Tbl.del x.gains key }
    else (s.setSlot k { x with gains := Tbl.put x.gains key { g with ramp := true, k := 0 } }).bump A.ENG_ZC_FALLBACK_CNT

/-- A ramp whose 64th sample is past leaves its parameter STEADY (R191). -/
def State.endGainRamp (s : State) (k key : Nat) : State :=
  let x := s.slot k
  match Tbl.find x.gains key with
  | none => s
  | some g => if g.ramp ∧ 64 ≤ g.k then s.setSlot k { x with gains := Tbl.del x.gains key } else s

/-- Every gain of the running slots at the boundary that starts engine tick `t`. -/
def State.settleGains (s : State) (t : Nat) : State :=
  forEach [0, 1] s (fun s k => forEach ((s.slot k).gains.map (·.1)) s (fun s key => (s.endGainRamp k key).timeoutGain k key t))

/-- Gain parameters in WAIT or RAMP (R205). -/
def State.gainsBusy (s : State) : Nat :=
  [0, 1].foldl (fun a k => a + ((s.slot k).gains.filter (fun g => !(g.2.ramp && decide (64 ≤ g.2.k)))).length) 0

/-! ### Task restarts (R148, R388) -/

/-- The restarts due by engine tick `t` that `p` picks: code bytes reloaded, DATA_SIZE cleared, FIRST set. -/
def State.takeRestarts (s : State) (t : Nat) (p : Restart → Bool) : State :=
  let go := s.eng.restarts.filter (fun r => decide (r.due ≤ t) && p r)
  forEach go { s with eng := { s.eng with restarts := s.eng.restarts.filter (fun r => !(decide (r.due ≤ t) && p r)) } } (fun s r =>
    let s := forEach (s.cores.map (·.1)) s (fun s n =>
      match (s.core n).task r.slot r.task with
      | none => s
      | some tk =>
        let s := s.fillRegion n (s.slot r.slot).prog tk
        s.setCore n ((s.core n).setTask { tk with faulted := false, first := true }))
    s.complete (r.ref.done 0 (s.scntOf r.due) []))

/-! ### Resets (R61, R174, R188, R393) -/

/-- R61, R188: a reset of ENG: pending commits and slot commands complete with CANCELLED, loads with LOAD_ABORTED, and
both slots become EMPTY. -/
def State.abortEngine (s : State) : State :=
  let s := s.cancelCommits (fun _ => true)
  let s := match s.eng.xf with
    | none => s
    | some r =>
      if s.eng.cmd.any (fun (c : SlotCmd) => c.op.isXf) then s else s.answer { r.ref with late := false } 0xA07
  let s := match s.eng.cmd with
    | none => s
    | some c => s.answer { c.ref with late := false } 0xA07
  let s := forEach s.eng.restarts s (fun s r => s.answer { r.ref with late := false } 0xA07)
  forEach s.eng.loads s (fun s l => s.answer l.ref 0x804)

end Sys2Proof.Machine
end

