-- ==== Sys2Proof/Machine/SceneCmds.lean ====
section
/-! DEFINITION. Host commands and events of program slots, commits, gains and parameter writes (R59 to R67, R180 to R205,
R387 to R395). A command row stands for the firmware taking the entry at the command ring's engine-side index. -/

namespace Sys2Proof

/-- FLAGS of a command: LATE_OK (R387). -/
def CmdHdr.lateOk (c : CmdHdr) : Bool := Arith.bit c.flags.toNat 0

/-- FLAGS of a command: ACK_REQ (R387). -/
def CmdHdr.ack (c : CmdHdr) : Bool := Arith.bit c.flags.toNat 1

end Sys2Proof

namespace Sys2Proof.Machine

open Sys2Proof.Arith

/-! ### Taking a command (R384, R387, R392, R406) -/

/-- Whether the firmware takes a command now. -/
def State.takesCommand (s : State) : Bool := s.fwReady && s.ringHasEntry 0 && !s.backlogged

/-- The firmware takes a command with opcode `op`: consumed, and refused with BAD_ARG where a reserved field is nonzero
(R391). -/
def State.takeCommand (s : State) (cmd : CmdHdr) (op : Nat) (act : State → CmdRef → State) : State :=
  if ¬ s.takesCommand then s
  else
    let r : CmdRef := { op := op, tag := cmd.tag.toNat, index := s.ringEng 0, late := false }
    let s := s.consumed 0
    if cmd.reserved ∨ bits cmd.flags.toNat 7 2 ≠ 0 ∨ bits cmd.queue.toNat 7 4 ≠ 0 then s.answer r 0xB02 else act s r

/-! ### Loading (R57 to R61) -/

/-- Bulk address of a slot's image (R60). -/
def State.imageAddr (s : State) (k : Nat) : Nat := (s.fget F.ENG_PROG_BASE_BASE + k) * 2 ^ 26

/-- LOAD (R60, R61, R388): step 1 of R57, then the image is copied from host memory. `readOk` tells whether the host
reads succeed. DESIGN CHOICE (log entry 110): a LOAD refused in step 1 leaves ENG_ERR_INFO and ENG_ERR_INDEX as they
were. -/
def execLoad (cmd : CmdHdr) (slot addrLo addrHi len : W32) (readOk : Bool) (s : State) : Out :=
  .next (s.takeCommand cmd 0x10 (fun s r =>
    let k := slot.toNat
    if 1 < k then s.answer r 0xB02
    else if s.held .eng ∨ ¬ s.fon F.BLK_STAT_READY then s.slotRefuse k r 0xB04
    else if s.slotState k ≠ 0 ∨ s.slotState (1 - k) = 4 then s.slotRefuse k r 0x801
    else if s.bulkBytes < s.imageAddr k + 2 ^ 26 then s.slotRefuse k r 0x803
    else if ¬ readOk then s.slotRefuse k r 0xB03
    else
      let n := min len.toNat (2 ^ 26)
      let img := bytesAt s.host (addrLo.toNat + addrHi.toNat * 2 ^ 32) n
      let job : LoadJob := { slot := k, len := len.toNat, ref := r }
      let s := { s with bulk := setBytes (eraseRange s.bulk (s.imageAddr k) n) (s.imageAddr k) img,
                        eng := { s.eng with loads := s.eng.loads ++ [job] } }
      s.setSlotState k 1))

/-- R57, R66: the verdict on the image in slot `k` of length `len`. -/
def State.verdict (s : State) (k len : Nat) : Option LoadErr :=
  let img := bytesAt s.bulk (s.imageAddr k) (min len (2 ^ 26))
  let other := (s.reg (A.ENG_SLOT_PID (1 - k))).toNat
  match validate s s.ownRule img len other with
  | some e => some e
  | none =>
    let p := parseImage img
    if p.pred ≠ 0 ∧ s.slotState (1 - k) = 3 ∧ p.pred = other then
      checkXf s (s.slot (1 - k)).prog p (1 - k) k
        (match findSect img 8 with | none => true | some d => listsOk (sectionBytes img d) d.count)
    else none

/-- Record where a check failed (R57, R67). -/
def State.noteLoadErr (s : State) (e : LoadErr) : State :=
  ((s.setReg A.ENG_ERR_INFO (BitVec.ofNat 32 (e.sect % 65536 + e.unit % 64 * 65536 + e.phase % 8 * 2 ^ 22))).setReg
    A.ENG_ERR_INDEX (BitVec.ofNat 32 e.index))

/-- LOAD_DONE: the oldest load is validated (R57 to R61). -/
def execLoadDone (s : State) : Out :=
  .next (match s.eng.loads with
    | [] => s
    | l :: rest =>
      if s.held .eng then s
      else
        let s := { s with eng := { s.eng with loads := rest } }
        match s.verdict l.slot l.len with
        | some e => ((s.noteLoadErr e).setSlotState l.slot 0).slotRefuse l.slot l.ref e.code
        | none =>
          let img := bytesAt s.bulk (s.imageAddr l.slot) l.len
          let p := parseImage img
          let pred := p.pred ≠ 0 ∧ s.slotState (1 - l.slot) = 3 ∧ p.pred = (s.slot (1 - l.slot)).prog.pid
          let ok := match findSect img 8 with | none => true | some d => listsOk (sectionBytes img d) d.count
          let s := s.setSlot l.slot { prog := p, xfOk := ok, checked := if pred then some (s.slot (1 - l.slot)).prog else none }
          ((s.setReg (A.ENG_SLOT_PID l.slot) (BitVec.ofNat 32 p.pid)).setSlotState l.slot 2).slotRefuse l.slot l.ref 0)

/-- R196, R339: a slot command waits, or a join is in its steps 6 and 7. -/
def State.slotBusy (s : State) : Bool := s.eng.cmd.isSome || s.pair.twin

/-- UNLOAD (R61, R196). -/
def execUnload (cmd : CmdHdr) (slot : W32) (s : State) : Out :=
  .next (s.takeCommand cmd 0x11 (fun s r =>
    let k := slot.toNat
    if 1 < k then s.answer r 0xB02
    else if s.slotRuns k then s.slotRefuse k r 0x802
    else if s.slotState k ≠ 2 ∨ s.slotBusy then s.slotRefuse k r 0x801
    else (((s.setSlot k {}).setSlotState k 0).setReg (A.ENG_SLOT_PID k) 0).slotRefuse k r 0))

/-! ### Activation and stop (R195 to R198) -/

/-- R61: whether slot `k` is EMPTY or LOADED, as the other slot of an activation must be. -/
def State.slotFree (s : State) (k : Nat) : Bool := decide (s.slotState k = 0) || decide (s.slotState k = 2)

/-- A slot command whose target has been settled, or refused; where accepted, `start` notes it (R185, R196). -/
def State.slotAt (s : State) (cmd : CmdHdr) (r : CmdRef) (k : Nat) (op : SlotOp) (res : List W32)
    (start : State → Nat → State) (settled : Except Nat (Nat × Bool)) : State :=
  match settled with
  | .error code => s.slotRefuse k r code
  | .ok (due, late) =>
    let r := { r with late := late }
    let s := { s with eng := { s.eng with cmd := some { op := op, slot := k, due := due, ref := r } } }
    (start s due).accepted cmd.ack r due res

/-- A slot command that passed R196 meets the target test (R185). -/
def State.slotTarget (s : State) (cmd : CmdHdr) (r : CmdRef) (k : Nat) (target : W32) (op : SlotOp) (w : Nat)
    (res : List W32) (start : State → Nat → State) : State :=
  s.slotAt cmd r k op res start (s.settleTarget target w cmd.lateOk)

/-- ACTIVATE (R195, R196). -/
def execActivate (cmd : CmdHdr) (slot target : W32) (s : State) : Out :=
  .next (s.takeCommand cmd 0x12 (fun s r =>
    let k := slot.toNat
    if 1 < k then s.answer r 0xB02
    else if s.slotState k ≠ 2 ∨ ¬ s.slotFree (1 - k) ∨ s.slotBusy then s.slotRefuse k r 0x801
    else s.slotTarget cmd r k target .activate 0 [] (fun s _ => s)))

/-- R66: the crossfade checks that are still due when ACTIVATE_XF is taken. -/
def State.xfChecks (s : State) (k : Nat) : Option LoadErr :=
  let x := s.slot k
  let old := (s.slot (1 - k)).prog
  match x.checked with
  | some p => if p = old ∧ (placeXf x.prog (retainedPairs old x.prog) k (s.slotTasks (1 - k))).isSome then none
    else some { code := 0x901, sect := 0 }
  | none => checkXf s old x.prog (1 - k) k x.xfOk

/-- R196, R197, R203: an activate command with crossfade. -/
def State.activateXf (s : State) (cmd : CmdHdr) (r : CmdRef) (slot target len : W32) : State :=
    let k := slot.toNat
    let o := 1 - k
    if 1 < k then s.answer r 0xB02
    else if len.toNat < 1 ∨ 4096 < len.toNat then s.slotRefuse k r 0xB02
    else if s.slotState k ≠ 2 ∨ s.slotState o = 4 ∨ s.slotState o = 5 then s.slotRefuse k r 0x801
    else if s.slotState o ≠ 3 ∨ (s.slot k).prog.pred = 0 ∨ (s.slot k).prog.pred ≠ (s.slot o).prog.pid then
      s.slotRefuse k r 0x901
    else if s.slotBusy then s.slotRefuse k r 0x801
    else
      match s.xfChecks k with
      | some e => (s.noteLoadErr e).slotRefuse k r e.code
      | none =>
        let w := warmUp (s.slot o).prog (s.slot k).prog
        s.slotTarget cmd r k target (.crossfade len.toNat w) w [BitVec.ofNat 32 w] (fun s due =>
          let s := s.cancelCommits (fun c => decide (c.slot = o) && decide (due ≤ c.due + w))
          (s.setReg A.ENG_XF_STAT (BitVec.ofNat 32 (w * 2 ^ 26 + len.toNat * 2 ^ 13))).setReg A.ENG_XF_TICK (s.scntOf due))

/-- ACTIVATE_XF (R196, R197, R203). -/
def execActivateXf (cmd : CmdHdr) (slot target len : W32) (s : State) : Out :=
  .next (s.takeCommand cmd 0x13 (fun s r => s.activateXf cmd r slot target len))

/-- STOP (R188, R195, R196). -/
def execStopSlot (cmd : CmdHdr) (slot target : W32) (s : State) : Out :=
  .next (s.takeCommand cmd 0x14 (fun s r =>
    let k := slot.toNat
    let replaced : Bool := match s.eng.cmd with
      | some c => (match c.op with | .crossfade _ _ => decide (c.slot ≠ k) | _ => false)
      | none => false
    if 1 < k then s.answer r 0xB02
    else if s.slotState k ≠ 3 ∨ replaced then s.slotRefuse k r 0x802
    else if s.slotBusy then s.slotRefuse k r 0x801
    else s.slotTarget cmd r k target .stop 0 [] (fun s due =>
      s.cancelCommits (fun c => decide (c.slot = k) && decide (due ≤ c.due)))))

/-- The engine tick that a boundary event belongs to: the one that is about to start. -/
def State.nextTick (s : State) : Nat := s.eng.tick + 1

/-- ACTIVATION_TAKES_EFFECT (R61, R195). -/
def execActivationTakesEffect (s : State) : Out := .next (if s.up .eng then s.takeActivation s.nextTick else s)

/-- STOP_TAKES_EFFECT (R61, R195). -/
def execStopTakesEffect (s : State) : Out := .next (if s.up .eng then s.takeStop s.nextTick else s)

/-- STOP_COMPLETE (R61). -/
def execStopComplete (s : State) : Out := .next (if s.up .eng then s.endStop s.nextTick else s)

/-- XF_WARMUP_START (R198). -/
def execXfWarmupStart (s : State) : Out := .next (if s.up .eng then s.beginXf s.nextTick else s)

/-- XF_FADE_START (R198, R202). -/
def execXfFadeStart (s : State) : Out := .next (if s.up .eng then s.beginFade s.nextTick else s)

/-- XF_RETIRE (R198, R199). -/
def execXfRetire (s : State) : Out := .next (if s.up .eng then s.retireXf s.nextTick else s)

/-! ### Commits (R183 to R188) -/

/-- COMMIT (R183, R184). -/
def execCommit (cmd : CmdHdr) (slot group target fence : W32) (s : State) : Out :=
  .next (s.takeCommand cmd 0x15 (fun s r =>
    if 1 < slot.toNat ∨ 4095 < group.toNat then s.answer r 0xB02
    else
      let w : FenceWait := { slot := slot.toNat, group := group.toNat, target := target, fence := fence,
                             lateOk := cmd.lateOk, ack := cmd.ack, ref := r }
      if s.fenceMet fence then s.arriveCommit w
      else if 64 ≤ s.eng.fences.length then s.answer r 0xA03
      else { s with eng := { s.eng with fences := s.eng.fences ++ [w] } }))

/-- COMMIT_ARRIVAL: commits whose fence is met leave the wait in order (R184, R185). -/
def execCommitArrival (s : State) : Out := .next (s.drainFences 64)

/-- COMMIT_LAND (R187). -/
def execCommitLand (slot group : Nat) (s : State) : Out :=
  .next (s.landCommits s.nextTick (fun c => decide (c.slot = slot) && decide (c.group = group)))

/-- ZC_TIMEOUT (R191, R193). -/
def execZcTimeout (slot pset word : Nat) (s : State) : Out := .next (s.timeoutGain slot (wkey pset word) s.nextTick)

/-- GAIN_RAMP_END (R191). -/
def execGainRampEnd (slot pset word : Nat) (s : State) : Out := .next (s.endGainRamp slot (wkey pset word))

/-! ### Task restarts (R148, R388) -/

/-- A task restart whose target has been settled, or refused (R185, R388). -/
def State.restartAt (s : State) (cmd : CmdHdr) (r : CmdRef) (k task : Nat) (settled : Except Nat (Nat × Bool)) : State :=
  match settled with
  | .error code => s.answer r code
  | .ok (due, late) =>
    let r := { r with late := late }
    let x : Restart := { slot := k, task := task, due := due, ref := r }
    ({ s with eng := { s.eng with restarts := s.eng.restarts ++ [x] } }).accepted cmd.ack r due

/-- TASK_RESTART (R388, R391). -/
def execTaskRestart (cmd : CmdHdr) (slot task target : W32) (s : State) : Out :=
  .next (s.takeCommand cmd 0x16 (fun s r =>
    let k := slot.toNat
    if 1 < k then s.answer r 0xB02
    else if s.slotState k ≠ 3 then s.answer r 0xA04
    else if (s.slot k).prog.tasks.length ≤ task.toNat then s.answer r 0xB05
    else s.restartAt cmd r k task.toNat (s.settleTarget target 0 cmd.lateOk)))

/-- TASK_RESTART_LAND (R148, R388). -/
def execTaskRestartLand (slot task : Nat) (s : State) : Out :=
  .next (s.takeRestarts s.nextTick (fun r => decide (r.slot = slot) && decide (r.task = task)))

/-! ### Parameter writes (R180 to R182, R394, R395) -/

/-- R109: whether the recorder region of node `i` overlaps another recorder's. DESIGN CHOICE (log entry 109): it is compared with
the shadow regions of the other recorders of the same slot. -/
def Slot.recClash (x : Slot) (i : Nat) (get : Nat → W32) : Bool :=
  (x.prog.node i).type = T.snkRec && (x.prog.nodes.zipIdx).any (fun e =>
    e.1.type = T.snkRec && decide (e.2 ≠ i) &&
      overlaps (region get) (region (fun w => Tbl.get x.shadow 0 (wkey e.1.pset w))))

/-- R182: the verdict on a write of `words` from word `first` of set `p` in slot `k`; 0 accepts. -/
def State.judgeWrite (s : State) (k p first : Nat) (words : List W32) : Nat :=
  let x := s.slot k
  let n := x.prog.node (x.prog.ownerOf p)
  let size := x.prog.setWords p
  let get := fun (w : Nat) => if first ≤ w ∧ w < first + words.length then words.getD (w - first) 0
    else Tbl.get x.shadow 0 (wkey p w)
  let replaced : Bool := match s.eng.xf with | some r => decide (r.old = k) | none => false
  if s.slotState k ≠ 3 ∨ replaced then 0xA04
  else if x.prog.psets.length ≤ p ∨ size < first + words.length then 0xA08
  else if s.eng.pend.any (fun c => decide (c.slot = k) && decide (c.group = (s.groupOf x.prog p).1)) then 0xA06
  else if ¬ s.blockOk n size get ∨ x.recClash (x.prog.ownerOf p) get then 0x403
  else if ¬ s.clampOk n (fun _ => true) get then 0x404
  else if (List.range words.length).any (fun i => s.ownedWord k n (first + i)) then 0xA09
  else 0

/-- Store words in a shadow set. -/
def Slot.putShadow (x : Slot) (p first : Nat) (words : List W32) : Slot :=
  { x with shadow := (words.zipIdx).foldl (fun t w => Tbl.set t 0 (wkey p (first + w.2)) w.1) x.shadow }

/-- The write unit consumes an entry with verdict `code` (R395), and commits whose fence this meets arrive (R184). -/
def State.endWrite (s : State) (e : PwEntry) (code : Nat) (words : List W32) : State :=
  let idx := s.ringEng 3
  let r : CmdRef := { op := 0, tag := idx % 65536, index := idx, late := false }
  let s := s.consumed 3
  let s := if code = 0 then s.setSlot e.slot ((s.slot e.slot).putShadow e.pset e.first words) else s.bump A.HIF_PW_REFUSED
  let s := if code ≠ 0 ∨ e.notify then s.answer r code else s
  s.drainFences 64

/-- Whether the write unit takes an entry now: one waits, none is being fetched, and completions have room (R392). -/
def State.takesWrite (s : State) : Bool := s.ringHasEntry 3 && !s.backlogged && s.hif.indirect.isNone

/-- PARAMETER_WRITE: the write unit takes the entry at ring 3's engine-side index (R395); an INDIRECT one waits for its
words. -/
def execParameterWrite (e : PwEntry) (s : State) : Out :=
  .next (if ¬ s.takesWrite then s
    else if e.reserved ∨ 1 < e.slot ∨ e.count < 1 ∨ 16384 < e.count ∨ (¬ e.indirect ∧ (12 < e.count ∨ e.addr ≠ 0)) then
      s.endWrite e 0xB02 []
    else if e.indirect then { s with hif := { s.hif with indirect := some e } }
    else
      let words := (List.range e.count).map (fun i => e.data.getD i 0)
      s.endWrite e (s.judgeWrite e.slot e.pset e.first words) words)

/-- PW_INDIRECT_FETCH: the words of an INDIRECT entry arrive from host memory, or the read fails (R395). -/
def execPwIndirectFetch (readOk : Bool) (s : State) : Out :=
  .next (match s.hif.indirect with
    | none => s
    | some e =>
      if s.held .hif ∨ s.backlogged then s
      else
        let s := { s with hif := { s.hif with indirect := none } }
        if ¬ readOk then s.endWrite e 0xB03 []
        else
          let words := (List.range e.count).map (fun i => BitVec.ofNat 32 (leAt s.host (e.addr.toNat + 4 * i) 4))
          s.endWrite e (s.judgeWrite e.slot e.pset e.first words) words)

/-- PROG_BASE_WRITE: a write of ENG_PROG_BASE; one that changes BASE while a slot is not EMPTY is ignored (R67). -/
def execProgBaseWrite (value : W32) (s : State) : Out :=
  .next (if bits value.toNat 6 0 ≠ s.fget F.ENG_PROG_BASE_BASE ∧ (s.slotState 0 ≠ 0 ∨ s.slotState 1 ≠ 0) then s
    else s.writePlain A.ENG_PROG_BASE value)

/-! ### Node events at a boundary (R95, R103, R108, R109) -/

/-- A voice past its last sample or fade moves on; an end with DONE_REPORT is reported (R108). -/
def State.settleVoice (s : State) (k i : Nat) : State :=
  let x := s.slot k
  let n := x.prog.node i
  if n.type ≠ T.srcVoice ∨ ¬ s.slotWorks k then s
  else
    let r := voiceSettle (x.word n) (x.node i)
    let s := s.setSlot k (x.setNode i r.1)
    if r.2 then s.fwEvent 5 [0, n.bind] else s

/-- A recorder that reached LENGTH wraps or becomes FULL, which is reported (R109). -/
def State.settleRecorder (s : State) (k i : Nat) : State :=
  let x := s.slot k
  let n := x.prog.node i
  if n.type ≠ T.snkRec ∨ ¬ s.slotWorks k then s
  else
    let r := recorderSettle (x.word n) (x.node i)
    let s := s.setSlot k (x.setNode i r.1)
    if r.2 then s.fwEvent 5 [1, n.bind] else s

/-- A silence detector whose hold has run out becomes SILENT; with CONFIG[7] that is reported (R103, R104). -/
def State.settleSilence (s : State) (k i : Nat) : State :=
  let x := s.slot k
  let n := x.prog.node i
  let st := x.node i
  if n.type ≠ T.silence ∨ ¬ s.slotWorks k ∨ ¬ st.active ∨ st.quiet < (x.word n 1).toNat then s
  else
    let s := s.setSlot k (x.setNode i { st with active := false })
    if bit n.config 7 then s.fwEvent 3 [k, i, 0] else s

/-- VOICE_ENDED (R108). -/
def execVoiceEnded (slot node : Nat) (s : State) : Out := .next (s.settleVoice slot node)

/-- RECORDER_FULL (R109). -/
def execRecorderFull (slot node : Nat) (s : State) : Out := .next (s.settleRecorder slot node)

/-- SILENCE_HOLD_EXPIRY (R103, R104). -/
def execSilenceHoldExpiry (slot node : Nat) (s : State) : Out := .next (s.settleSilence slot node)

/-- PRIO_HOLD_EXPIRY: an active input whose hold count is 0 is inactive from the next sample that is no hit (R95). -/
def execPrioHoldExpiry (slot node input : Nat) (s : State) : Out :=
  let x := s.slot slot
  let st := x.node node
  let p := Tbl.get st.prio {} input
  .next (if (x.prog.node node).type = T.prio ∧ s.slotWorks slot ∧ p.act ∧ p.hc = 0 then
      s.setSlot slot (x.setNode node { st with prio := Tbl.set st.prio {} input { p with act := false } })
    else s)

end Sys2Proof.Machine
end

