-- ==== Sys2Proof/Machine/Vendor.lean ====
section
/-! DEFINITION. The analysis tasks of the Ivquin library (R152 to R171): what their state is and what a sample does to it. The
rules' own tests and exact steps are written out; a calculation that chapter 5 names without its bits is `Config.library`. -/

namespace Sys2Proof.Machine

open Sys2Proof.Arith

/-- ANA_PERIOD (R160). -/
def State.periodTicks (s : State) : Nat := if s.fget F.RST_STRAP_FAMILY = 1 then 88200 else 96000

/-- The end of the last period of a task first dispatched in engine tick `a`, where one has passed by tick `t` (R160). -/
def periodEnd (a per t : Nat) : Option Nat :=
  let n := (t + 1 - a) / per
  if a ≤ t ∧ 1 ≤ n then some (a + n * per - 1) else none

/-- The samples of input port `p` of a task in this tick: the first word, and the one that stands for a port below Fb (R118). -/
def Core.inSample (c : Core) (t : Task) (p : Nat) : Int := (Tbl.get c.xin 0 (t.xb + 4 * p)).toInt

/-- A task puts sample `y` out at output port `p`. -/
def Core.putOut (c : Core) (t : Task) (p : Nat) (y : Int) : Core :=
  { c with xout := Tbl.set c.xout 0 (t.yb + 4 * p) (toW y) }

/-! ### Intelligibility estimator (R154 to R164) -/

/-- What the parameter block says of a zone of an estimator (R155). -/
structure EstCfg where
  zpos : Nat
  m : Nat
  ncomb : Nat
  mcal : List Int
  gapThr : Int
  gapMin : Nat
  guard : Nat
  port : Nat
  deriving DecidableEq, Repr

/-- Zone `z` of an estimator's parameter block; its reference port comes after the ports of the zones before it (R154). -/
def estCfg (get : Nat → W32) (z : Nat) : EstCfg :=
  let w := fun (i : Nat) => (get (8 * z + i)).toNat
  { zpos := bits (w 1) 8 0, m := bits (w 1) 13 12 + 1, ncomb := bits (w 1) 15 14,
    mcal := (List.range 4).map (fun i => (get (8 * z + 2 + i)).toInt), gapThr := (get (8 * z + 6)).toInt,
    gapMin := bits (w 7) 15 0, guard := bits (w 7) 31 16,
    port := ((List.range z).map (fun y => 2 + bits (get (8 * y + 1)).toNat 13 12)).sum }

/-- The delay that gap samples and alignment use: 24,000 until one was reported (R163). -/
def EstMic.d (m : EstMic) : Nat := m.delay.getD 24000

/-- R163: whether every tick from `a` to `b` had its reference sample below GAP_THR. -/
def quietFrom (loud : List (Nat × Nat)) (a b : Nat) : Bool := loud.all (fun r => decide (r.2 < a) || decide (b < r.1))

/-- R163: whether the microphone sample of engine tick `t` is a gap sample; `a` is the tick of the task's first dispatch, before
which the estimator has no reference (DEDUCED, log entry 117). -/
def EstZone.isGap (z : EstZone) (m : EstMic) (guard a t : Nat) : Bool :=
  decide (a + m.d + 16 * guard ≤ t) && quietFrom z.loud (t - m.d - 16 * guard) (t - m.d)

/-- R163: engine tick `t` had a reference sample that was not below GAP_THR; runs that no gap can reach any more go. -/
def addLoud (loud : List (Nat × Nat)) (t : Nat) : List (Nat × Nat) :=
  let l := loud.filter (fun r => decide (t ≤ r.2 + 1072561))
  match l with
  | [] => [(t, t)]
  | r :: rest => if r.2 + 1 = t then (r.1, t) :: rest else (t, t) :: r :: rest

/-- R156, R161, R164: a microphone sample `y` meets the aligned reference sample `x`; `gap` tells a gap sample. -/
def MicPeriod.take (p : MicPeriod) (x y : Int) (gap : Bool) : MicPeriod :=
  let cell := fun (c : Nat) => (List.range 4).map (fun i =>
    Config.library .cell ([(c : Int), (i : Int), x, y] ++ Tbl.get p.cells [] c))
  let band := fun (k : Nat) => (List.range 2).map (fun i =>
    Config.library .band ([(k : Int), (i : Int), x, y] ++ Tbl.get p.bands [] k))
  { cells := (List.range 98).foldl (fun t c => Tbl.set t [] c (cell c)) p.cells,
    bands := (List.range 7).foldl (fun t k => Tbl.set t [] k (band k)) p.bands,
    gaps := p.gaps + b2n gap,
    power := if gap then p.power + Config.library .gapPower [x, y, p.power] else p.power,
    clipped := p.clipped || decide (y = -(2 ^ 31)) || decide (y = 2 ^ 31 - 1),
    first := some (p.first.getD y),
    moved := p.moved || p.first.any (fun v => decide (v ≠ y)) }

/-- R161: the microphone delivered one unchanging value for the whole period. -/
def MicPeriod.fault (p : MicPeriod) : Bool := p.first.isSome && !p.moved

/-- One tick of a zone of an estimator first dispatched in tick `a`: reference sample `x`, microphone samples `ys`; `last` tells
the last tick of a period. -/
def EstZone.step (z : EstZone) (cfg : EstCfg) (a t : Nat) (x : Int) (ys : List Int) (last : Bool) : EstZone :=
  let loud := decide (cfg.gapThr ≤ log2lv (mag x))
  let z := { z with hist := (x :: z.hist).take 24001, loud := if loud then addLoud z.loud t else z.loud, heard := z.heard || loud }
  let mics := (ys.zipIdx).foldl (fun (ms : Tbl EstMic) y =>
    let m := Tbl.get ms {} y.2
    let p := m.now.take (z.hist.getD m.d 0) y.1 (z.isGap m cfg.guard a t)
    Tbl.set ms {} y.2 (if last then { m with now := {}, past := (p :: m.past).take 32 } else { m with now := p })) z.mics
  if last then { z with mics := mics, heard := false, heardBefore := z.heard } else { z with mics := mics }

/-! ### What a period gives (R156 to R159, R164) -/

/-- Sums of a cell's or band's values over periods: the averages but for the number of periods, which cancels (R156). -/
def sumOver (l : List MicPeriod) (f : MicPeriod → List Int) (i : Nat) : Int := (l.map (fun p => (f p).getD i 0)).sum

/-- A cell over the averaging window (R156, R157): valid or not, coherence, modulation transfer in units of 2^-32. -/
structure CellVal where
  valid : Bool
  coh : ℚ
  m : Nat
  deriving DecidableEq, Repr

/-- Cell `c` over the periods `l`: `cellMin` and `cohMin` are in units of 1/256. The transfer is rounded down to 2^-32 (DESIGN
CHOICE, log entry 117). -/
def cellVal (l : List MicPeriod) (cellMin cohMin c : Nat) : CellVal :=
  let g := sumOver l (fun p => Tbl.get p.cells [] c)
  let i := sumOver l (fun p => Tbl.get p.bands [] (c / 14))
  let gxx := g 0
  let gyy := g 1
  let sq := g 2 * g 2 + g 3 * g 3
  let coh : ℚ := (sq : ℚ) / ((gxx * gyy : Int) : ℚ)
  let index := Config.library .modIndex [gxx, i 0]
  let den := (gxx * i 1) * (gxx * i 1)
  { valid := decide ((cellMin : Int) ≤ index) && decide (0 < gxx * gyy) && decide ((cohMin : Int) * (gxx * gyy) ≤ 256 * sq),
    coh := coh, m := if den ≤ 0 then 0 else min (2 ^ 32) (Nat.sqrt (sq * (i 0 * i 0) * 2 ^ 64 / den).toNat) }

/-- The 98 cells, band by band (R156). -/
def cellVals (l : List MicPeriod) (cellMin cohMin : Nat) : List CellVal := (List.range 98).map (cellVal l cellMin cohMin)

/-- R157: the transfers of band `k`, an invalid cell with the mean of the band's valid ones. -/
def bandM (cells : List CellVal) (k : Nat) : List Int :=
  let band := (cells.drop (14 * k)).take 14
  let good := band.filter (·.valid)
  let mean : Int := if good = [] then Config.library .noCell [(k : Int)] else (((good.map (·.m)).sum / good.length : Nat) : Int)
  band.map (fun c => if c.valid then (c.m : Int) else mean)

/-- R157: valid cells, and CONF. -/
def confOf (cells : List CellVal) : Nat × Nat :=
  let good := cells.filter (·.valid)
  (good.length, min 255 (⌊(255 : ℚ) * (good.map (·.coh)).sum / 98⌋).toNat)

/-- R158: what the procedure works on: the transfers of every band, then the band levels on the acoustic scale. -/
def stiInput (l : List MicPeriod) (cells : List CellVal) (mcal : Int) : List Int :=
  (List.range 7).flatMap (bandM cells) ++
    (List.range 7).map (fun (k : Nat) => Config.library .bandLevel [(k : Int), sumOver l (fun p => Tbl.get p.bands [] k) 1, (l.length : Int), mcal])

/-- R158: the estimate of one microphone, in thousandths. -/
def stiOf (inp : List Int) : Nat := min 1000 (Config.library .sti inp).toNat

/-- R159: the delay to a microphone: a search, refined by at most 480 ticks, within 0 to 24,000. -/
def delayOf (m : EstMic) (l : List MicPeriod) : Nat :=
  let arg := (m.d : Int) :: (List.range 7).flatMap (fun (k : Nat) => (List.range 2).map (sumOver l (fun p => Tbl.get p.bands [] k)))
  let coarse := Config.library .coarse arg % 24001
  let fine := max (-480) (min (Config.library .fine arg) 480)
  (max 0 (min (coarse + fine) 24000)).toNat

/-- R164: the noise level of a microphone for its last period; none where it does not qualify. -/
def micNoise (p : MicPeriod) (gapMin : Nat) (mcal : Int) : Option Int :=
  if p.clipped ∨ p.fault ∨ p.gaps < gapMin ∨ p.gaps = 0 then none
  else some (rnd (log2lv (sat32 (max 0 (Config.library .meanPower [p.power, (p.gaps : Int)])))) 1 + mcal)

/-- R164: the zone's level by NCOMB from those of its microphones; none where no microphone qualifies. -/
def combineNoise (ncomb : Nat) (ns : List (Option Int)) : Option Int :=
  match ns.filterMap id with
  | [] => none
  | a :: rest =>
    let lo := rest.foldl min a
    let hi := rest.foldl max a
    if ncomb = 0 then some hi
    else if ncomb = 1 then some (max lo (min (Config.library .powerMean (a :: rest)) hi))
    else ns.headD none

/-- R156 to R161, R164: what the record of the period that ended says, from the averaging window of 2^`tavg` periods. CELLS, CONF,
MTI, SPEECH and DELAY are those of the microphone with the lowest STI (R159; DEDUCED for the others, log entry 117). -/
def EstZone.measure (z : EstZone) (cfg : EstCfg) (tavg cellMin cohMin : Nat) : EstResult × List Nat :=
  let mics := (List.range cfg.m).map (fun i => Tbl.get z.mics {} i)
  let win := mics.map (fun m => m.past.take (2 ^ tavg))
  let vals := win.map (fun l => cellVals l cellMin cohMin)
  let inps := (List.range cfg.m).map (fun i => stiInput (win.getD i []) (vals.getD i []) (cfg.mcal.getD i 0))
  let stis := inps.map stiOf
  let best := (List.range cfg.m).foldl (fun b i => if stis.getD i 0 < stis.getD b 0 then i else b) 0
  let cells := vals.getD best []
  let conf := confOf cells
  let ds := (mics.zip win).map (fun x => delayOf x.1 x.2)
  let clipped := win.any (fun l => l.any (·.clipped))
  let fault := win.any (fun l => l.any (·.fault))
  let enough := (List.range 7).all (fun k => decide (3 ≤ (((cells.drop (14 * k)).take 14).filter (·.valid)).length))
  ({ conf := conf.2, cells := conf.1, sti := stis.getD best 0,
     noise := combineNoise cfg.ncomb ((List.range cfg.m).map (fun i =>
       micNoise ((mics.getD i {}).past.headD {}) cfg.gapMin (cfg.mcal.getD i 0))),
     micFault := fault, noRef := !z.heardBefore, clipped := clipped,
     valid := enough && decide (1 ≤ conf.2) && !clipped && !fault, delay := ds.getD best 0,
     speech := Config.library .speech (inps.getD best []),
     mti := (List.range 7).map (fun (k : Nat) => min 255 (Config.library .mti ((k : Int) :: inps.getD best [])).toNat) }, ds)

/-- The delays of a measurement are the microphones' from now on (R163). -/
def EstZone.report (z : EstZone) (ds : List Nat) : EstZone :=
  { z with mics := (ds.zipIdx).foldl (fun ms d => Tbl.set ms {} d.2 { (Tbl.get ms {} d.2) with delay := some d.1 }) z.mics }

/-- One tick of an estimator. -/
def VendorSt.estimate (v : VendorSt) (c : Core) (t : Task) (get : Nat → W32) (a tick : Nat) (last : Bool) : VendorSt :=
  { v with zones := (List.range (bits (get 0).toNat 3 0)).foldl (fun zs z =>
      let cfg := estCfg get z
      let ys := (List.range cfg.m).map (fun i => c.inSample t (cfg.port + 1 + i))
      Tbl.set zs {} z ((Tbl.get zs {} z).step cfg a tick (c.inSample t cfg.port) ys last)) v.zones }

/-! ### Echo canceller (R167, R168) -/

/-- R168: one sample of a canceller channel: reference samples `hist`, microphone sample `y`; its words are `get 1` to `get 4`.
The second part is the output. -/
def EchoCh.step (ch : EchoCh) (get : Nat → W32) (hist : List Int) (y : Int) : EchoCh × Int :=
  let tail := bits (get 1).toNat 11 0
  let ch := if ch.tail = tail then ch else { ch with taps := [], tail := tail, turn := 0 }
  let xs := (List.range tail).map (fun i => hist.getD i 0)
  let ws := (List.range tail).map (fun i => Tbl.get ch.taps 0 i)
  let echo := sat32 (Config.library .fir (ws ++ xs))
  let e := sat32 (y - echo)
  let refLv := Config.library .level [ch.refLv, hist.headD 0]
  let micLv := Config.library .level [ch.micLv, y]
  let echoLv := Config.library .level [ch.echoLv, echo]
  let double := decide (echoLv + (get 4).toInt < micLv)
  let frozen := bit (get 2).toNat 0
  let silent := decide (refLv < -1048576)
  let q := tail / 4
  let ch' := if double ∨ frozen ∨ silent then ch
    else { ch with turn := (ch.turn + 1) % 4,
                   taps := (List.range q).foldl (fun tb j =>
                     let i := ch.turn * q + j
                     Tbl.set tb 0 i (Tbl.get tb 0 i + Config.library .nlms ([(i : Int), Tbl.get tb 0 i, e] ++ xs))) ch.taps }
  let depth := max (get 3).toInt (min (Config.library .suppress [e, refLv, micLv, echoLv]) 0)
  let out := if bit (get 2).toNat 1 ∧ ¬ double then gain e (exp2c depth) else e
  ({ ch' with refLv := refLv, micLv := micLv, echoLv := echoLv, double := ch.double || double, frozen := ch.frozen || frozen,
              silent := ch.silent || silent, erle := Config.library .erle [ch.erle, y, e] }, out)

/-- One tick of a canceller, whose node takes a sample in it: its state, and the core with the outputs. -/
def VendorSt.cancel (v : VendorSt) (c : Core) (t : Task) (get : Nat → W32) : VendorSt × Core :=
  let hist := (c.inSample t 0 :: v.hist).take 2048
  (List.range (bits (get 0).toNat 3 0)).foldl (fun (acc : VendorSt × Core) k =>
    let r := (Tbl.get acc.1.echo {} k).step (fun i => get (4 * k + i)) hist (c.inSample t (k + 1))
    ({ acc.1 with echo := Tbl.set acc.1.echo {} k r.1 }, acc.2.putOut t k r.2)) ({ v with hist := hist }, c)

/-! ### Feedback suppressor (R169, R170) -/

/-- One sample through a notch. -/
def Notch.filter (n : Notch) (x : Int) : Int × Notch :=
  let arg := [(n.freq : Int), n.depth, x] ++ n.st
  (sat32 (Config.library .notch arg), { n with st := (List.range 4).map (fun (i : Nat) => Config.library .notchState ((i : Int) :: arg)) })

/-- R169: one sample of a channel through its notches, the oldest first; with NMAX 0 it passes unchanged. -/
def HowlCh.step (h : HowlCh) (nmax : Nat) (x : Int) : HowlCh × Int :=
  let h := { h with count := h.count + 1 }
  if nmax = 0 then (h, x)
  else
    let r := h.notches.foldl (fun (acc : List Notch × Int) n => let y := n.filter acc.2; (acc.1 ++ [y.2], y.1)) ([], x)
    ({ h with notches := r.1 }, r.2)

/-- One tick of a suppressor: input i goes filtered to output i. -/
def VendorSt.unhowl (v : VendorSt) (c : Core) (t : Task) (get : Nat → W32) : VendorSt × Core :=
  (List.range (bits (get 0).toNat 4 0)).foldl (fun (acc : VendorSt × Core) k =>
    let r := (Tbl.get acc.1.howl {} k).step (bits (get (1 + 2 * k)).toNat 3 0) (c.inSample t k)
    ({ acc.1 with howl := Tbl.set acc.1.howl {} k r.1 }, acc.2.putOut t k r.2)) (v, c)

/-! ### Messages and the tick (R152, R171) -/

/-- R171: the message of channel `k` at the end of a period, words d[S] to d[S + 3]. -/
def VendorSt.message (v : VendorSt) (kind k : Nat) : List W32 :=
  if kind = 1 then
    let h := Tbl.get v.echo {} k
    [BitVec.ofNat 32 k, toW h.erle, BitVec.ofNat 32 (b2n h.double + 2 * b2n h.frozen + 4 * b2n h.silent), 0]
  else
    let l := (Tbl.get v.howl {} k).notches
    let newest := l.getLast?
    [BitVec.ofNat 32 k, BitVec.ofNat 32 l.length, BitVec.ofNat 32 ((newest.map (·.freq)).getD 0), toW ((newest.map (·.depth)).getD 0)]

/-- A new period of a canceller's or suppressor's reports. -/
def VendorSt.newPeriod (v : VendorSt) : VendorSt :=
  { v with echo := Tbl.mapVals {} (fun _ h => { h with double := false, frozen := false, silent := false, erle := 0 }) v.echo }

/-- R145: a message to the outbound queue of core `n`; a full queue loses it. -/
def State.postMsg (s : State) (n : Nat) (t : Task) (words : List W32) : State :=
  let c := s.core n
  if c.mbout.length < 16 then
    let m : OutMsg := { words := words, task := t.idx, tick := BitVec.ofNat 32 s.scnt }
    s.setCore n { c with mbout := c.mbout ++ [m] }
  else s.count (F.SCB_MBOUT_STAT_DROP n) 1

/-- R152, R171: a task of the library that has ended in engine tick `tick`: what its code computed, by this chapter (DESIGN
CHOICE, log entry 100). -/
def State.vendorTask (s : State) (n tick : Nat) (t : Task) : State :=
  match t.period with
  | none => s
  | some a =>
    let x := s.slot t.slot
    let get := x.word (x.prog.node t.node)
    let c := s.core n
    let v := s.vendorSt n t
    let last := decide (periodEnd a s.periodTicks tick = some tick)
    if t.kind = 2 then s.setVendor n t (v.estimate c t get a tick last)
    else
      let r := if t.kind = 1 then v.cancel c t get else v.unhowl c t get
      (s.setVendor n t r.1).setCore n r.2

/-- R171: the period's messages of a canceller or suppressor, whose periods end whether or not it takes a sample then. -/
def State.vendorReports (s : State) (n tick : Nat) (t : Task) : State :=
  match t.period with
  | none => s
  | some a =>
    if periodEnd a s.periodTicks tick ≠ some tick ∨ (t.kind ≠ 1 ∧ t.kind ≠ 3) ∨ t.faulted then s
    else
      let x := s.slot t.slot
      let v := s.vendorSt n t
      let k := bits (x.word (x.prog.node t.node) 0).toNat (if t.kind = 1 then 3 else 4) 0
      (forEach (List.range k) s (fun s i => s.postMsg n t (v.message t.kind i))).setVendor n t v.newPeriod

/-- The tasks of the library that ended in engine tick `tick`, core by core. -/
def State.vendorTick (s : State) (tick : Nat) : State :=
  forEach s.cores s (fun s c =>
    forEach (c.2.tasks.filter (fun t => decide (1 ≤ t.kind) && decide (t.kind ≤ 3))) s (fun s t =>
      let s := if t.run = .ended ∧ ¬ t.faulted then s.vendorTask c.1 tick t else s
      s.vendorReports c.1 tick t))

end Sys2Proof.Machine
end

