-- ==== Sys2Proof/Machine/Adapt.lean ====
section
/-! DEFINITION. Speech and room analysis: result records, noise delivery, adaptive writes and steps, the clamp unit's lock,
and the feedback suppressor's notches (R152 to R179). -/

namespace Sys2Proof.Machine

open Sys2Proof.Arith

/-- Ticks of one second (R2). -/
def State.ticksPerSecond (s : State) : Nat := s.periodTicks / 2

/-- The core and task entry of task `idx` of a slot. -/
def State.findTask (s : State) (slot idx : Nat) : Option (Nat × Task) :=
  (s.slotTasks slot).find? (fun x => x.2.idx = idx)

/-- The zone positions that estimator task `t` serves: ZPOS of its parameter block (R155). -/
def State.servedZones (s : State) (t : Task) : List Nat :=
  let x := s.slot t.slot
  let n := x.prog.node t.node
  (List.range (bits (x.word n 0).toNat 3 0)).map (fun z => bits (x.word n (1 + 8 * z)).toNat 8 0)

/-! ### Noise delivery (R165, R166) -/

/-- N reaches every running ZONE node at position `z`. -/
def State.deliverNoise (s : State) (z : Nat) (n : Int) : State :=
  forEach [0, 1] s (fun s k =>
    if s.slotWorks k then
      let x := s.slot k
      s.setSlot k ((x.prog.nodes.zipIdx).foldl (fun (x : Slot) e =>
        if e.1.type = T.zone ∧ e.1.position = z then x.setNode e.2 { (x.node e.2) with noise := n } else x) x)
    else s)

/-- R166: the level that a delivery brings: POL_NFORCE in place of any measured one while FORCE_N is 1. -/
def State.deliveredNoise (s : State) (z : Nat) (measured : Option Int) : Option Int :=
  if s.fon (F.ANA_POL_W0_FORCE_N z) then some (s.regInt (A.ANA_POL_W4 z)) else measured

/-- The levels queued for zone `z` and due by engine tick `t` apply. -/
def State.takeNoise (s : State) (z t : Nat) : State :=
  let zs := s.zone z
  let due := zs.queued.filter (fun q => decide (q.1 ≤ t))
  let s := s.setZone z { zs with queued := zs.queued.filter (fun q => decide (t < q.1)) }
  forEach due s (fun s q => match s.deliveredNoise z q.2 with | none => s | some n => s.deliverNoise z n)

/-- NOISE_DELIVERY (R165, R166): the levels due at the coming boundary apply; `late` tells that the write misses it, and
then N applies one boundary later and ANA_LATE_CNT counts. A position that no estimator serves takes POL_NFORCE. -/
def execNoiseDelivery (zone : Nat) (late : Bool) (s : State) : Out :=
  let zs := s.zone zone
  let t := s.nextTick
  .next (if s.held .eng ∨ 512 ≤ zone then s
    else if zs.queued = [] then
      (if s.fon (F.ANA_POL_W0_FORCE_N zone) ∧
          ¬ (s.cores.any (fun c => c.2.tasks.any (fun tk => decide (tk.kind = 2) && (s.servedZones tk).contains zone))) then
        s.deliverNoise zone (s.regInt (A.ANA_POL_W4 zone))
      else s)
    else if late ∧ zs.queued.any (fun q => decide (q.1 ≤ t)) then
      (s.setZone zone { zs with queued := zs.queued.map (fun q => if q.1 ≤ t then (t + 1, q.2) else q) }).bump A.ANA_LATE_CNT
    else s.takeNoise zone t)

/-- Words 0 to 7 of a zone's result record. -/
def State.resultWords (s : State) (z : Nat) : List Nat :=
  (List.range 8).map (fun i => (s.reg (A.ANA_RES_W0 z + 4 * i)).toNat)

/-- Write a zone's result record (R161) for the period that ended in engine tick `e`. -/
def State.writeResult (s : State) (z e : Nat) (r : EstResult) (noise : Int) (stale : Bool) : State :=
  let seq := (s.reg (A.ANA_RES_W0 z) + 1).toNat
  let b := fun (i : Nat) => r.mti.getD i 0 % 256
  let w : List Nat := [seq, r.conf % 256 * 2 ^ 24 + r.cells % 256 * 2 ^ 16 + r.sti % 1024, (toW noise).toNat,
    b2n r.micFault * 2 ^ 28 + b2n r.noRef * 2 ^ 27 + b2n r.clipped * 2 ^ 26 + b2n stale * 2 ^ 25 + b2n r.valid * 2 ^ 24 +
      r.delay % 2 ^ 24, (toW r.speech).toNat, (s.scntOf e).toNat,
    b 0 + b 1 * 2 ^ 8 + b 2 * 2 ^ 16 + b 3 * 2 ^ 24, seq % 256 * 2 ^ 24 + b 4 + b 5 * 2 ^ 8 + b 6 * 2 ^ 16]
  forEach (w.zipIdx) s (fun s x => s.setReg (A.ANA_RES_W0 z + 4 * x.2) (BitVec.ofNat 32 x.1))

/-- ESTIMATOR_PERIOD_END (R160 to R166): what the task `ref` measured over the period at `zone` is written and queued. -/
def execEstimatorPeriodEnd (zone : Nat) (ref : TaskRef) (s : State) : Out :=
  .next (match s.findTask ref.slot ref.task with
    | none => s
    | some (c, t) =>
      match t.period.bind (fun a => periodEnd a s.periodTicks s.eng.tick), (s.servedZones t).findIdx? (fun z => z = zone) with
      | some e, some i =>
        let zs := s.zone zone
        if s.held .eng ∨ t.kind ≠ 2 ∨ t.faulted ∨ zs.lastEnd = some e then s
        else
          let x := s.slot ref.slot
          let get := x.word (x.prog.node t.node)
          let w := (get 0).toNat
          let v := s.vendorSt c t
          let z := Tbl.get v.zones {} i
          let m := z.measure (estCfg get i) (bits w 7 4) (bits w 15 8) (bits w 23 16)
          let r := m.1
          let s := s.setVendor c t { v with zones := Tbl.set v.zones {} i (z.report m.2) }
          let missing := match r.noise with | some _ => 0 | none => zs.missing + 1
          let n := (r.noise.orElse (fun _ => zs.lastN)).getD (-2031616)
          let s := s.writeResult zone e r n (decide (30 ≤ missing))
          let due := e + s.fget F.ANA_CTRL_LEAD + 1 + (if s.mirrors then s.mlat else 0)
          let lateBy := due ≤ s.eng.tick
          let queued := if s.mirrorFollower then zs.queued
            else zs.queued ++ [(if lateBy then s.eng.tick + 1 else due, r.noise)]
          let s := s.setZone zone { zs with missing := missing, queued := queued, lastEnd := some e, result := some (r, e),
                                            lastN := r.noise.orElse (fun _ => zs.lastN) }
          let out := s.deliveredNoise zone r.noise
          let s := if lateBy ∧ out.isSome ∧ ¬ s.mirrorFollower then s.bump A.ANA_LATE_CNT else s
          let s := match out with
            | none => s
            | some v => s.mirrorRecord { kind := 2, target := zone, words := [(toW v).toNat, (s.scntOf e).toNat] }
          if s.fon (F.ANA_POL_W0_POST zone) then s.fwEvent 2 (zone :: s.resultWords zone) else s
      | _, _ => s)

/-! ### The clamp unit (R172 to R177) -/

/-- R176: what the clamp unit finds wrong with an adaptive write: 0 nothing, else REASON. -/
def State.adaptReason (s : State) (w : AdaptW) : Nat :=
  let zs := s.zone w.zone
  let owned := s.fon F.ANA_CTRL_ADAPT_EN && (if w.eq then zs.eqOwned.any (fun b => b.1 = w.band) else zs.gainOwned)
  let r := s.eqRange w.zone w.band
  let e := s.eqEntry w.band w.entry
  let inLimit := if w.eq then decide (w.entry < 16) &&
      (List.range 16).any (fun j => decide (r.1 ≤ j) && decide (j ≤ r.2) && decide (s.eqEntry w.band j = e))
    else decide (s.regInt (A.ANA_LIM_W0 w.zone) ≤ w.value.toInt) && decide (w.value.toInt ≤ s.regInt (A.ANA_LIM_W1 w.zone))
  if ¬ owned then 1
  else if ¬ inLimit then 2
  else if w.eq ∧ ¬ (coefAt (fun i => e.getD i 0) 0).ok then 3
  else if sdiff w.tick.toNat s.scnt < 1 then 4
  else 0

/-- R176: an adaptive write is refused, counted and recorded, or waits for its apply tick. -/
def State.adaptWrite (s : State) (w : AdaptW) : State :=
  let why := s.adaptReason w
  if why ≠ 0 then
    let s := (s.bump A.ANA_CLAMP_CNT).setReg A.ANA_LAST_REFUSE
      (BitVec.ofNat 32 (why * 2 ^ 12 + b2n w.eq * 2 ^ 9 + w.zone % 512))
    s.record 0x802 w.zone [(s.reg A.ANA_LAST_REFUSE).toNat]
  else
    let due := s.eng.tick + (sdiff w.tick.toNat s.scnt).toNat
    let a : AdaptPend := { w := w, due := due }
    { s with eng := { s.eng with adapts := s.eng.adapts ++ [a] } }

/-- R334: the firmware's adaptive write; a leader sends it as an ADAPT record as well. -/
def State.firmwareAdapt (s : State) (w : AdaptW) : State :=
  (s.mirrorRecord { kind := 3, target := w.zone, words := [b2n w.eq + 2 * w.band + 16 * w.entry, w.value.toNat, w.tick.toNat] }).adaptWrite w

/-- ADAPTIVE_WRITE: firmware sends a write to the clamp unit (R176). -/
def execAdaptiveWrite (w : AdaptW) (s : State) : Out :=
  .next (if ¬ s.fwReady ∨ 512 ≤ w.zone ∨ 7 ≤ w.band ∨ s.mirrorFollower then s else s.firmwareAdapt w)

/-- One adaptive write lands at engine tick `t` (R176). -/
def State.applyAdapt (s : State) (a : AdaptPend) (t : Nat) : State :=
  match s.zoneNode a.w.zone with
  | none => s
  | some (k, i) =>
    let x := s.slot k
    let n := x.prog.node i
    if a.w.eq then
      let q := n.bqWord (s.fget (F.ANA_LIM_W5_BQ_FIRST a.w.zone) + a.w.band)
      let e := s.eqEntry a.w.band a.w.entry
      let zs := s.zone a.w.zone
      let s := s.setSlot k { x with act := (List.range 5).foldl (fun tb j => Tbl.set tb 0 (wkey n.pset (q + j)) (e.getD j 0)) x.act }
      s.setZone a.w.zone { zs with eqOwned := zs.eqOwned.map (fun b =>
        if b.1 = a.w.band then (b.1, b.2.1, a.w.entry) else b) }
    else
      let gs := s.groupOf x.prog n.pset
      s.setSlot k (x.setGain (wkey n.pset 0) a.w.value t gs.2.1 gs.2.2)

/-- The adaptive writes due by engine tick `t` that `p` picks apply; those a crossfade holds wait (R177). -/
def State.takeAdapts (s : State) (t : Nat) (p : AdaptPend → Bool) : State :=
  let now := fun (a : AdaptPend) => decide (a.due ≤ t) && p a && !s.zoneHeld a.w.zone
  let go := s.eng.adapts.filter now
  forEach go { s with eng := { s.eng with adapts := s.eng.adapts.filter (fun a => !now a) } } (fun s a => s.applyAdapt a t)

/-- ADAPTIVE_WRITE_APPLY (R176, R177). -/
def execAdaptiveWriteApply (zone : Nat) (s : State) : Out :=
  .next (s.takeAdapts s.nextTick (fun a => a.w.zone = zone))

/-- Whether a ZONE node's words as `get` reads them break a limit in force. -/
def State.breaksLimit (s : State) (n : Node) (get : Nat → W32) : Bool := !s.clampOk n (fun _ => true) get

/-- R173: the zone positions whose active or loaded words break a check. -/
def State.violations (s : State) : List Nat :=
  ([0, 1].flatMap (fun k =>
    let x := s.slot k
    if s.slotState k < 2 then []
    else x.prog.nodes.filterMap (fun n =>
      let get := if s.slotRuns k then x.word n else x.prog.word n.pset
      if n.type = T.zone ∧ s.breaksLimit n get then some n.position else none))).eraseDups

/-- A write of ANA_CTRL (R172, R173, R175, R179). A 1 to ADAPT_EN is taken only with LOCK set. -/
def State.writeAnaCtrl (s : State) (value : W32) : State :=
  if s.held .ctl then s
  else
    let was := s.anaLocked
    let s := s.writePlain A.ANA_CTRL value
    let s := if s.anaLocked then s else s.fset F.ANA_CTRL_ADAPT_EN 0
    let s := if s.anaLocked ∧ ¬ was then
        let bad := s.violations
        if bad = [] then s else forEach bad (s.fset F.ANA_STAT_VIOL_AT_LOCK 1) (fun s z => s.record 0x801 z [])
      else s
    s.reown

/-- ANA_LOCK: a write of ANA_CTRL (R172, R173). -/
def execAnaLock (value : W32) (s : State) : Out := .next (s.writeAnaCtrl value)

/-- ADAPT_EN_WRITE: a write of ANA_CTRL (R175, R179). -/
def execAdaptEnWrite (value : W32) (s : State) : Out := .next (s.writeAnaCtrl value)

/-! ### Adaptive steps (R178) -/

/-- R178: the gain part of a step for the record (r, e). -/
def State.stepGain (s : State) (z : Nat) (sti : Nat) (tick : W32) : State :=
  let zs := s.zone z
  let target := s.fget (F.ANA_POL_W1_TARGET z)
  let hyst := s.fget (F.ANA_POL_W1_HYST z)
  let g := s.regInt (A.ANA_POL_W2 z)
  let o := zs.offset
  let o1 := if sti + hyst < target then o + g else if target + hyst < sti then max (o - g) 0 else o
  let v := sat32 (rnd (zs.gainBase * exp2c o1) 28)
  if ¬ zs.gainOwned ∨ s.regInt (A.ANA_LIM_W1 z) < v ∨ o1 = o then s
  else (s.setZone z { zs with offset := o1 }).firmwareAdapt { zone := z, eq := false, band := 0, entry := 0, value := toW v, tick := tick }

/-- R178: the equaliser part of a step: band by band, against the mean over BAND_MASK. -/
def State.stepEq (s : State) (z : Nat) (mti : List Nat) (tick : W32) : State :=
  let bands := s.zoneBands z
  let n : Int := bands.length
  let sum : Int := bands.foldl (fun (a : Int) b => a + mti.getD b 0) 0
  let diff : Int := s.fget (F.ANA_POL_W3_EQ_DIFF z)
  forEach bands s (fun s b =>
    match (s.zone z).eqOwned.find? (fun x => x.1 = b) with
    | none => s
    | some (_, base, e) =>
      let m : Int := mti.getD b 0
      let e1 := if m * n < sum - diff * n ∧ e < (s.eqRange z b).2 then e + 1
        else if sum + diff * n < m * n ∧ base < e then e - 1 else e
      if e1 = e then s
      else
        let zs := s.zone z
        (s.setZone z { zs with eqOwned := zs.eqOwned.map (fun x => if x.1 = b then (b, base, e1) else x) }).firmwareAdapt
          { zone := z, eq := true, band := b, entry := e1, value := 0, tick := tick })

/-- ADAPTIVE_STEP (R178): firmware takes one step from the zone's latest record where it qualifies. -/
def execAdaptiveStep (zone : Nat) (s : State) : Out :=
  let zs := s.zone zone
  .next (match zs.result with
    | none => s
    | some (r, e) =>
      let interval := max (s.fget (F.ANA_POL_W0_INTERVAL zone)) 1
      let far : Bool := match zs.stepAt with | none => true | some p => decide (p + interval * s.periodTicks ≤ e)
      if ¬ s.fwReady ∨ s.mirrorFollower ∨ ¬ s.fon F.ANA_CTRL_ADAPT_EN ∨ ¬ far ∨ ¬ s.fon (F.ANA_RES_W3_VALID zone) ∨
          r.conf % 256 < s.fget (F.ANA_POL_W0_CONF_MIN zone) then s
      else
        let tick := s.scntOf (e + 2 * s.fget F.ANA_CTRL_LEAD + (if s.mirrors then s.mlat else 0))
        let s := s.setZone zone { zs with result := none, stepAt := some e }
        let s := if s.fon (F.ANA_POL_W0_ADAPT_GAIN zone) then s.stepGain zone (r.sti % 1024) tick else s
        if s.fon (F.ANA_POL_W0_ADAPT_EQ zone) then s.stepEq zone (r.mti.map (· % 256)) tick else s)

/-! ### Feedback suppressor (R169, R170) -/

/-- 3 dB in LV32. -/
def threeDb : Int := 32656

/-- 24 dB in LV32. -/
def howlDb : Int := 261251

/-- Whether two frequencies lie within half of a tenth of an octave: a notch's width about its own. DESIGN CHOICE (log entry
112). -/
def sameNotch (a b : Nat) : Bool := decide (a ^ 20 ≤ 2 * b ^ 20) && decide (b ^ 20 ≤ 2 * a ^ 20)

/-- R170: notches age by 256 samples without howl. DESIGN CHOICE (log entry 113): each whole second beyond RELEASE shallows by
3 dB. A notch at 0 dB goes. -/
def ageNotches (perSec release : Nat) (howl : Option Nat) (l : List Notch) : List Notch :=
  (l.map (fun n =>
    if howl.any (fun f => sameNotch f n.freq) then { n with quiet := 0 }
    else
      let q := n.quiet + 256
      let secs := fun (t : Nat) => t / perSec - release
      { n with quiet := q, depth := min 0 (n.depth + threeDb * ((secs q - secs n.quiet : Nat) : Int)) })).filter
    (fun n => decide (n.depth < 0))

/-- R170: whether the newest of the analyses `seen` (newest first) is howl: at least 24 dB above the average spectrum, and grown
over three consecutive analyses. -/
def isHowl (seen : List (Nat × Int)) : Bool :=
  match seen with
  | c :: b :: a :: _ => decide (howlDb ≤ c.2) && sameNotch c.1 b.1 && sameNotch c.1 a.1 && decide (a.2 < b.2) && decide (b.2 < c.2)
  | _ => false

/-- R170: howl at `f` deepens the notch there by 3 dB, never below `deep`, or places one; with `nmax` in place the oldest is
moved. The depth a new notch starts with is the library's, within `deep`. -/
def placeNotch (nmax : Nat) (deep : Int) (f : Nat) (l : List Notch) : List Notch :=
  if l.any (fun m => sameNotch f m.freq) then
    modFirst (fun m => sameNotch f m.freq) (fun m => { m with depth := max deep (m.depth - threeDb) }) l
  else
    let depth := max deep (min (Config.library .notchDepth [(f : Int), deep]) 0)
    (if nmax ≤ l.length then l.drop (l.length + 1 - nmax) else l) ++ [{ freq := f, depth := depth, quiet := 0 }]

/-- HOWL_ANALYSIS (R170): one analysis of channel `chan`, every 256 samples; it finds `h` strongest. -/
def execHowlAnalysis (slot task chan : Nat) (h : HowlObs) (s : State) : Out :=
  .next (match s.findTask slot task with
    | none => s
    | some (c, t) =>
      let x := s.slot slot
      let get := x.word (x.prog.node t.node)
      let v := s.vendorSt c t
      let ch := Tbl.get v.howl {} chan
      if s.held .eng ∨ t.kind ≠ 3 ∨ t.faulted ∨ bits (get 0).toNat 4 0 ≤ chan ∨ ch.count < 256 then s
      else
        let w := (get (1 + 2 * chan)).toNat
        let nmax := bits w 3 0
        let seen := ((h.freq, h.level) :: ch.seen).take 3
        let howl := if isHowl seen ∧ 0 < nmax then some h.freq else none
        let l := ageNotches s.ticksPerSecond (bits w 31 16) howl ch.notches
        let l := match howl with | none => l | some f => placeNotch nmax (get (2 + 2 * chan)).toInt f l
        s.setVendor c t { v with howl := Tbl.set v.howl {} chan { notches := l, count := ch.count - 256, seen := seen } })

end Sys2Proof.Machine
end

