-- ==== Sys2Proof/Machine/Ports.lean ====
section
/-! DEFINITION. Serial audio ports and PDM microphones (R206 to R227). -/

namespace Sys2Proof.Machine

open Sys2Proof.Arith

/-! ### Configuration (R206 to R210, R223) -/

/-- Port `p` beside its registers. -/
def State.port (s : State) (p : Nat) : PortSt := Tbl.get s.ports {} p

/-- Store port `p`. -/
def State.setPort (s : State) (p : Nat) (x : PortSt) : State := { s with ports := Tbl.set s.ports {} p x }

/-- STATE of a port: 0 STOPPED, 1 STARTING, 2 RUNNING, 3 STOPPING. -/
def State.portState (s : State) (p : Nat) : Nat := s.fget (F.APT_PORT_STAT_STATE p)

/-- Set STATE of a port. -/
def State.setPortState (s : State) (p v : Nat) : State := s.fset (F.APT_PORT_STAT_STATE p) v

/-- Bits of a WORD_BITS or SLOT_BITS code. -/
def widthBits (code : Nat) : Nat := if code = 0 then 16 else if code = 1 then 24 else 32

/-- Slots of a port's frame. -/
def State.portSlots (s : State) (p : Nat) : Nat := s.fget (F.APT_PORT_CFG_SLOTS p) + 1

/-- Frames of a port in a tick: 1, 2 or 4. -/
def State.portM (s : State) (p : Nat) : Nat := 2 ^ s.fget (F.APT_PORT_CFG_RATE p)

/-- MODE of a port. -/
def State.portMode (s : State) (p : Nat) : Nat := s.fget (F.APT_PORT_CFG_MODE p)

/-- FRAME_BITS (R206). -/
def State.frameBits (s : State) (p : Nat) : Nat := s.portSlots p * widthBits (s.fget (F.APT_PORT_CFG_SLOT_BITS p))

/-- R223: the reason for which RUN = 1 is refused, 0 for none. -/
def State.portRunReason (s : State) (p : Nat) : Nat :=
  let wb := s.fget (F.APT_PORT_CFG_WORD_BITS p)
  let sb := s.fget (F.APT_PORT_CFG_SLOT_BITS p)
  let fmt := s.fget (F.APT_PORT_CFG_FORMAT p)
  let mode := s.portMode p
  let fm := s.frameBits p * s.portM p
  if s.fget (F.APT_PORT_CFG_RATE p) = 3 ∨ wb = 3 ∨ sb = 3 ∨ fmt = 3 ∨ mode = 3 ∨ sb < wb ∨ (fmt < 2 ∧ s.portSlots p ≠ 2) then 4
  else if 1024 < fm then 3
  else if mode = 0 ∧ (25600 % fm ≠ 0 ∨ 25600 / fm < 25) then 3
  else 0

/-- DIV of a mode 0 port: ECLK cycles in a bit clock (R210). -/
def State.portDiv (s : State) (p : Nat) : Nat := 25600 / (s.frameBits p * s.portM p)

/-- R210: the ECLK cycle, after the tick's boundary, at which frame boundary `k` of a mode 0 port falls. -/
def State.portBoundary (s : State) (p k : Nat) : Nat :=
  let len := 25600 / s.portM p
  s.fget (F.APT_PORT_FOFS_FOFS p) % len / s.portDiv p * s.portDiv p + k * len

/-- R207: a received word to A32. -/
def State.portToA32 (s : State) (p : Nat) (w : W32) : Int :=
  let b := widthBits (s.fget (F.APT_PORT_CFG_WORD_BITS p))
  (BitVec.ofNat 32 (w.toNat % 2 ^ b * 2 ^ (32 - b))).toInt

/-- R207: an A32 sample to the transmitted word. -/
def State.portFromA32 (s : State) (p : Nat) (x : Int) : Nat :=
  let b := widthBits (s.fget (F.APT_PORT_CFG_WORD_BITS p))
  if b = 32 then (toW x).toNat else (BitVec.ofInt b (satN b (rnd x (32 - b)))).toNat

/-! ### Slots (R218, R220) -/

/-- A slot whose fade out has put out its last sample is silent (R218). -/
def SlotSt.settled (sl : SlotSt) : SlotSt :=
  if sl.ph = .fadeOut ∧ (sl.fade.map Fade.over).getD true then { sl with ph := .silent, fade := none } else sl

/-- R218, R220: one sample through a slot; `stopping` tells that the port is STOPPING, `t` the tick. -/
def SlotSt.sample (sl : SlotSt) (x : Int) (t : Nat) (stopping : Bool) : Int × SlotSt :=
  let sl := sl.settled
  let sl' := { sl with prev := x }
  match sl.ph with
  | .silent => (0, sl')
  | .waitIn => if crossing sl.prev x then (x, { sl' with ph := .pass }) else (0, sl')
  | .pass => (x, sl')
  | .waitOut => if crossing sl.prev x then (0, { sl' with ph := .silent }) else (x, sl')
  | .fadeIn =>
    let r := fadeSample sl.fade x
    if (settleFade r.2).isNone then
      (r.1, { sl' with ph := if stopping then .waitOut else .pass, since := t, fade := none, start := false })
    else (r.1, { sl' with fade := r.2 })
  | .fadeOut => let r := fadeSample sl.fade x; (r.1, { sl' with fade := r.2 })

/-- The factor in force of a slot. -/
def SlotSt.factor (sl : SlotSt) : Int :=
  match sl.ph with
  | .silent => 0
  | .waitIn => 0
  | .pass => unity
  | .waitOut => unity
  | .fadeIn => factorOf sl.fade
  | .fadeOut => factorOf sl.fade

/-- A slot begins a 64-sample fade from its factor in force. -/
def SlotSt.fadeFrom (sl : SlotSt) (goal : Int) (start : Bool) : SlotSt :=
  { sl with ph := if goal = 0 then .fadeOut else .fadeIn, start := start, fade := some { g0 := sl.factor, g1 := goal, k := 0, n := 64 } }

/-- R220: an enabled slot at the start of its port; `dry` tells that its direction had faded out on a lost clock. -/
def SlotSt.startUp (sl : SlotSt) (t : Nat) (dry : Bool) : SlotSt :=
  let sl := sl.settled
  let fresh := { sl with ph := .waitIn, since := t, fade := none, prev := 0 }
  match sl.ph with
  | .silent => fresh
  | .pass => if dry then fresh else sl
  | .waitOut => if dry then fresh else { sl with ph := .pass }
  | .fadeOut => if dry then fresh else sl.fadeFrom unity true
  | _ => sl

/-- R220: an enabled slot at the stop of its port. -/
def SlotSt.stopDown (sl : SlotSt) (t : Nat) : SlotSt :=
  match sl.ph with
  | .waitIn => { sl with ph := .silent }
  | .pass => { sl with ph := .waitOut, since := t }
  | .fadeIn => if sl.start then sl.fadeFrom 0 false else sl
  | _ => sl

/-- R220: a wait for a zero crossing that has lasted TIMEOUT ticks by tick `t` becomes a fade. -/
def SlotSt.timeout (sl : SlotSt) (t limit : Nat) : SlotSt :=
  if t < sl.since + limit then sl
  else
    match sl.ph with
    | .waitIn => sl.fadeFrom unity true
    | .waitOut => sl.fadeFrom 0 false
    | _ => sl

/-- Change slot `k` of a direction. -/
def PortDir.modSlot (d : PortDir) (k : Nat) (f : SlotSt → SlotSt) : PortDir :=
  { d with slots := Tbl.set d.slots {} k (f (Tbl.get d.slots {} k)) }

/-- Change every slot that `mask` enables. -/
def PortDir.modEnabled (d : PortDir) (mask : Nat) (f : SlotSt → SlotSt) : PortDir :=
  (List.range 32).foldl (fun d k => if bit mask k then d.modSlot k f else d) d

/-- Pass a frame's samples through the slots. -/
def PortDir.frame (d : PortDir) (n : Nat) (t : Nat) (stopping : Bool) (xs : List Int) : List Int × PortDir :=
  (List.range n).foldl (fun acc k =>
    let r := (Tbl.get acc.2.slots {} k).sample (xs.getD k 0) t stopping
    (acc.1 ++ [r.1], { acc.2 with slots := Tbl.set acc.2.slots {} k r.2 })) ([], d)

/-- R218: slots that a mask enables fade in, slots that it disables fade out; those of a port that is not RUNNING yet wait for
its start. -/
def PortDir.remask (d : PortDir) (old new : Nat) (live : Bool) : PortDir :=
  (List.range 32).foldl (fun (d : PortDir) k =>
    if bit new k ∧ ¬ bit old k then d.modSlot k (fun sl => if live then sl.fadeFrom unity false else sl)
    else if ¬ bit new k ∧ bit old k then d.modSlot k (fun sl =>
      let sl := sl.settled
      if sl.ph = .silent ∨ sl.ph = .waitIn then { sl with ph := .silent } else sl.fadeFrom 0 false)
    else d) d

/-- Whether a direction puts out 0 because its underrun fade is over. -/
def PortDir.faded (d : PortDir) : Bool := d.starved && (d.fade.map Fade.over).getD true

/-- What an event does to the slots of a direction (R218 to R220). -/
def PortDir.act (d : PortDir) : SlotAct → PortDir
  | .mask old new live => d.remask old new live
  | .stop m t => d.modEnabled m (fun sl => if d.faded ∧ sl.ph ≠ .fadeOut then { sl with ph := .silent, fade := none } else sl.stopDown t)
  | .start m t dry => d.modEnabled m (fun sl => sl.startUp t dry)

/-- What a frame's slots meet before it. -/
def PortDir.takeActs (d : PortDir) (l : List SlotAct) : PortDir := l.foldl PortDir.act d

/-- Whether no slot passes or fades a signal. -/
def PortDir.silent (d : PortDir) : Bool :=
  d.slots.all (fun e => decide (e.2.settled.ph = .silent)) && d.acts.isEmpty && d.queue.all (fun f => f.acts.isEmpty)

/-! ### Masks (R215 to R218) -/

/-- R215, R218: the latched mask of a direction becomes active. It meets the first received frame after the boundary, or the
frame to launch at it. -/
def State.applyMask (s : State) (p : Nat) (tx : Bool) : State :=
  let x := s.port p
  let live := decide (s.portState p = 2 ∨ s.portState p = 3)
  if tx then
    match x.tx.mask with
    | none => s
    | some m =>
      (s.setPort p { x with tx := { (x.tx.remask (s.fget (F.APT_PORT_TXACT_MASK p)) m live) with mask := none } }).fset (F.APT_PORT_TXACT_MASK p) m
  else
    match x.rx.mask with
    | none => s
    | some m =>
      (s.setPort p { x with rx := { x.rx with mask := none, acts := x.rx.acts ++ [.mask (s.fget (F.APT_PORT_RXACT_MASK p)) m live] } }).fset
        (F.APT_PORT_RXACT_MASK p) m

/-- Enabled slots of a mask. -/
def popCount (m : Nat) : Nat := ((List.range 32).filter (fun k => bit m k)).length

/-- MASK_COMMIT: COMMIT written 1 arms a commit; past the latch point it is late (R215, R216). -/
def execMaskCommit (port : Nat) (s : State) : Out :=
  .next (if s.held .apt ∨ 16 ≤ port then s
    else
      let s := s.fset (F.APT_PORT_STAT_ARMED port) 1
      if (s.port port).latched then (s.fset (F.APT_PORT_STAT_LATE port) 1).bump (A.APT_PORT_LATE_CNT port) else s)

/-- MASK_LATCH: the latch point of a frame (R215, R217). -/
def execMaskLatch (port : Nat) (s : State) : Out :=
  .next (if s.held .apt ∨ 16 ≤ port ∨ s.portState port = 0 then s
    else
      let x := s.port port
      if ¬ s.fon (F.APT_PORT_STAT_ARMED port) then s.setPort port { x with latched := true }
      else
        let s := s.fset (F.APT_PORT_STAT_ARMED port) 0
        let r := s.fget (F.APT_PORT_RXMASK_MASK port)
        let t := s.fget (F.APT_PORT_TXMASK_MASK port)
        let n := s.portSlots port
        let bad := 2 ^ n ≤ r ∨ 2 ^ n ≤ t ∨ (s.portMode port = 2 ∧ (16 < popCount r ∨ 16 < popCount t))
        if bad then (s.setPort port { x with latched := true }).fset (F.APT_PORT_STAT_MASK_REJ port) 1
        else s.setPort port { x with latched := true, rx := { x.rx with mask := some r }, tx := { x.tx with mask := some t } })

/-! ### Start and stop (R219 to R221) -/

/-- R220: the port stops: the slots of both directions stop, those received from the next frame on. -/
def State.stopPort (s : State) (p : Nat) : State :=
  let x := s.port p
  let x := { x with rx := { x.rx with acts := x.rx.acts ++ [.stop (s.fget (F.APT_PORT_RXACT_MASK p)) s.eng.tick] },
                    tx := x.tx.act (.stop (s.fget (F.APT_PORT_TXACT_MASK p)) s.eng.tick), quiet := 0 }
  ((s.setPort p x).setPortState p 3).fset (F.APT_PORT_CTRL_RUN p) 0

/-- A write of RUN (R219, R220, R223). -/
def State.writeRun (s : State) (p : Nat) (run : Bool) : State :=
  if s.held .apt ∨ 16 ≤ p then s
  else
    match s.portState p with
    | 0 =>
      if ¬ run then s
      else
        let why := s.portRunReason p
        if why = 0 then (s.setPortState p 1).fset (F.APT_PORT_CTRL_RUN p) 1
        else (s.fset (F.APT_PORT_STAT_CFG_REJ p) 1).fset (F.APT_PORT_STAT_CFG_REASON p) why
    | 1 => if run then s else s.stopPort p
    | 2 => if run then s else s.stopPort p
    | _ => if run then ((s.setPortState p 1).fset (F.APT_PORT_CTRL_RUN p) 1) else s

/-- PORT_RUN: RUN written 1 (R219, R223). -/
def execPortRun (port : Nat) (s : State) : Out := .next (s.writeRun port true)

/-- PORT_STOP: RUN written 0 (R219, R220). -/
def execPortStop (port : Nat) (s : State) : Out := .next (s.writeRun port false)

/-- R219: whether a STARTING port meets its mode's condition: a frame boundary of running clocks, two frames of correct length
in a row, or the ASRC's lock. -/
def State.portMayRun (s : State) (p : Nat) : Bool :=
  match s.portMode p with
  | 0 => (s.port p).clk
  | 1 => decide (2 ≤ (s.port p).good)
  | _ => s.fon (F.APT_PORT_STAT_ASRC_LOCK p)

/-- The lowest 16 slots of a mask in mode 2 (R212), else all. DESIGN CHOICE (log entry 119): which slots stay enabled where a mask
that another mode allowed holds more. -/
def State.asrcMask (s : State) (p m : Nat) : Nat :=
  if s.portMode p ≠ 2 then m
  else ((List.range 32).map (fun k => if bit m k ∧ popCount (m % 2 ^ k) < 16 then 2 ^ k else 0)).sum

/-- A direction as its port starts: its queue begins anew, unless it still carries a signal that a stop had not ended. -/
def PortDir.restart (d : PortDir) : PortDir :=
  if d.primed ∧ ¬ d.starved then d
  else { d with queue := [], ready := [], line := [], primed := false, starved := false, fade := none, pos := 0 }

/-- PORT_RUNNING: a STARTING port meets its mode's condition, and every enabled slot starts (R219, R220). -/
def execPortRunning (port : Nat) (s : State) : Out :=
  .next (if s.held .apt ∨ 16 ≤ port ∨ s.portState port ≠ 1 ∨ ¬ s.portMayRun port then s
    else
      let r := s.asrcMask port (s.fget (F.APT_PORT_RXACT_MASK port))
      let t := s.asrcMask port (s.fget (F.APT_PORT_TXACT_MASK port))
      let s := (s.fset (F.APT_PORT_RXACT_MASK port) r).fset (F.APT_PORT_TXACT_MASK port) t
      let x := s.port port
      let tx := (x.tx.act (.start t s.eng.tick x.tx.starved)).restart
      let rx := x.rx.restart
      let x := { x with rx := { rx with acts := rx.acts ++ [.start r s.eng.tick x.rx.starved] },
                        tx := { tx with queue := if s.portMode port = 0 then x.tx.queue else tx.queue },
                        good := 0, quiet := 0 }
      (s.setPort port x).setPortState port 2)

/-- PORT_STOPPED: every slot of a STOPPING port silent for two frames (R219, R221). -/
def execPortStopped (port : Nat) (s : State) : Out :=
  let x := s.port port
  .next (if s.held .apt ∨ 16 ≤ port ∨ s.portState port ≠ 3 ∨ ¬ x.rx.silent ∨ ¬ x.tx.silent ∨ x.quiet < 2 then s
    else
      let idle := fun (d : PortDir) =>
        { d with queue := [], ready := [], line := [], primed := false, starved := false, fade := none, last := [], pos := 0 }
      (s.setPort port { rx := idle x.rx, tx := { idle x.tx with queue := if s.portMode port = 0 then x.tx.queue else [] } }).setPortState port 0)

/-- R219: a lost bit clock or a wrong frame of a RUNNING port in modes 1 and 2. -/
def State.losePortClock (s : State) (p : Nat) : State :=
  if s.held .apt ∨ 16 ≤ p ∨ s.portState p ≠ 2 ∨ s.portMode p = 0 then s
  else
    let x := s.port p
    let dry := fun (d : PortDir) => { d with starved := true, fade := if d.starved then d.fade else fadeTo d.fade 0 16, queue := [], line := [] }
    let s := (s.setPort p { x with rx := dry x.rx, tx := dry x.tx, good := 0 }).setPortState p 1
    ((s.fset (F.APT_PORT_STAT_CLK_LOST p) 1).fset (F.APT_PORT_STAT_ASRC_LOCK p) 0).setReg (A.APT_PORT_ASRC p) 0

/-- PORT_CLOCK_LOST (R219). -/
def execPortClockLost (port : Nat) (s : State) : Out := .next (s.losePortClock port)

/-- ASRC_LOCK: the ASRC of a mode 2 port reports its ratio, or with 0 the loss of lock (R212, R227). -/
def execAsrcLock (port : Nat) (ratio : Nat) (s : State) : Out :=
  .next (if s.held .apt ∨ 16 ≤ port ∨ s.portMode port ≠ 2 ∨ s.portState port = 0 then s
    else (s.fset (F.APT_PORT_STAT_ASRC_LOCK port) (if ratio = 0 then 0 else 1)).setReg (A.APT_PORT_ASRC port) (BitVec.ofNat 32 ratio))

/-- SLOT_ZC_TIMEOUT: a slot's wait for a zero crossing has run out (R220). -/
def execSlotZcTimeout (port : Nat) (tx : Bool) (slot : Nat) (s : State) : Out :=
  let limit := max (s.fget (F.APT_PORT_ZC_TIMEOUT port)) 1
  let f := fun (sl : SlotSt) => sl.timeout s.nextTick limit
  let x := s.port port
  .next (if s.held .apt ∨ 16 ≤ port then s
    else s.setPort port (if tx then { x with tx := x.tx.modSlot slot f } else { x with rx := x.rx.modSlot slot f }))

/-- PORT_CFG_WRITE: a write of APT_PORTn_CFG, or of FOFS (R223). -/
def execPortCfgWrite (port : Nat) (fofs : Bool) (value : W32) (s : State) : Out :=
  let off := if fofs then A.APT_PORT_FOFS port else A.APT_PORT_CFG port
  let reject := fun (why : Nat) => (s.fset (F.APT_PORT_STAT_CFG_REJ port) 1).fset (F.APT_PORT_STAT_CFG_REASON port) why
  .next (if s.held .apt ∨ 16 ≤ port then s
    else if s.portState port ≠ 0 then reject 1
    else if breaksBinding s (s.writePlain off value) then reject 2
    else s.writePlain off value)

/-! ### Crossings (R211 to R214, R222) -/

/-- Depth of a port's queue (R27). -/
def State.portDepth (s : State) (p : Nat) : Nat := if s.portMode p = 2 then 64 else 4

/-- The fill at which a queue starts, or a dry one refills (R211, R212, R222). -/
def State.portFill (s : State) (p : Nat) : Nat := if s.portMode p = 2 then 32 else 2

/-- A frame into a queue; the oldest is discarded where it is full. The second part tells a discard. -/
def PortDir.pushFrame (d : PortDir) (depth : Nat) (f : QFrame) : PortDir × Bool :=
  if depth ≤ d.queue.length then ({ d with queue := d.queue.drop 1 ++ [f] }, true) else ({ d with queue := d.queue ++ [f] }, false)

/-- R211, R222: whether a queue starts now, or a dry direction refills; then it fades in. -/
def PortDir.refill (d : PortDir) (fill : Nat) : PortDir :=
  if d.starved ∧ fill ≤ d.queue.length then { d with starved := false, fade := fadeTo d.fade unity 64 }
  else if ¬ d.primed ∧ fill ≤ d.queue.length then { d with primed := true }
  else d

/-- PORT_REFILL (R222). -/
def execPortRefill (port : Nat) (s : State) : Out :=
  let x := s.port port
  .next (if s.held .apt ∨ 16 ≤ port ∨ s.portMode port = 0 ∨ s.portState port < 2 then s
    else s.setPort port { x with rx := x.rx.refill (s.portFill port), tx := x.tx.refill (s.portFill port) })

/-- A frame through the underrun fade of a direction. -/
def PortDir.through (d : PortDir) (xs : List Int) : List Int × PortDir :=
  let w := match d.fade with | none => none | some f => some (if f.over then f.g1 else ({ f with k := f.k + 1 } : Fade).now)
  let ys := match w with | none => xs | some g => xs.map (fun x => gain x g)
  let f := settleFade (d.fade.map (fun f => if f.over then f else { f with k := f.k + 1 }))
  (ys, { d with fade := f, last := xs })

/-- A frame of free values: what an ASRC makes of its input is not defined bit by bit (R213). -/
def State.freeFrame (s : State) (n : Nat) : List Int × State :=
  (List.range n).foldl (fun acc _ => let w := acc.2.drawWord; (acc.1 ++ [w.1.toInt], w.2)) (([] : List Int), s)

/-- R218, R220, R222: a frame of samples through the slots of a direction and then through its underrun fade. -/
def PortDir.play (d : PortDir) (n t : Nat) (stopping : Bool) (xs : List Int) : List Int × PortDir :=
  let r := d.frame n t stopping xs
  let o := r.2.through r.1
  (o.1, { o.2 with last := xs })

/-- The reader of a queue of frames in mode 1 or 2 takes one (R211, R222): zeros before the queue has started; a repeat of the
last frame while the direction is dry or runs dry. The second part tells an underrun. -/
def PortDir.readFrame (d : PortDir) (n t : Nat) (stopping : Bool) : (List Int × Bool) × PortDir :=
  if ¬ d.primed then ((List.replicate n 0, false), d)
  else if d.starved then
    let r := ({ d.takeActs d.acts with acts := [] } : PortDir).play n t stopping d.last
    ((r.1, false), r.2)
  else
    match d.queue with
    | [] =>
      let d := { d.takeActs d.acts with acts := [], starved := true, fade := fadeTo d.fade 0 16 }
      let r := d.play n t stopping d.last
      ((r.1, true), r.2)
    | f :: rest =>
      let r := ({ d with queue := rest } : PortDir).takeActs f.acts |>.play n t stopping f.xs
      ((r.1, false), r.2)

/-- R214: ingest's side of a mode 1 queue reads one frame for this tick's ingest. -/
def State.readPort (s : State) (p : Nat) : State :=
  let x := s.port p
  let r := x.rx.readFrame (s.portSlots p) s.eng.tick (s.portState p = 3)
  let s := s.setPort p { x with rx := { r.2 with ready := r.2.ready ++ [r.1.1] } }
  if r.1.2 then s.bump (A.APT_PORT_RX_UNDER p) else s

/-- R206, R207: the samples of a frame's bit positions, slot by slot; the positions of a slot beyond WORD_BITS are ignored. -/
def State.frameSamples (s : State) (p : Nat) (levels : List Bool) : List Int :=
  let sb := widthBits (s.fget (F.APT_PORT_CFG_SLOT_BITS p))
  let wb := widthBits (s.fget (F.APT_PORT_CFG_WORD_BITS p))
  (List.range (s.portSlots p)).map (fun k =>
    s.portToA32 p (BitVec.ofNat 32 (((levels.drop (k * sb)).take wb).foldl (fun v b => 2 * v + b2n b) 0)))

/-- R211, R214, R222: a frame enters the receive queue. In mode 1 the queue's reader takes one frame for each that arrives, m in
a tick, so that a frame waits for two others (DESIGN CHOICE, log entry 118); in modes 0 and 2 ingest reads. -/
def State.pushPort (s : State) (p : Nat) (xs : List Int) : State :=
  let x := s.port p
  let f : QFrame := { acts := x.rx.acts, xs := xs }
  let d := { x.rx with acts := [] }
  let read := decide (s.portMode p = 1) && decide (d.ready.length < s.portM p)
  let flows := d.primed && !d.starved
  let s := if read ∧ ¬ flows then (s.setPort p { x with rx := d }).readPort p
    else if read then (s.setPort p { x with rx := { d with queue := d.queue ++ [f] } }).readPort p
    else s.setPort p { x with rx := d }
  let x := s.port p
  let r := if read ∧ flows then
      (if s.portDepth p < x.rx.queue.length then ({ x.rx with queue := x.rx.queue.drop 1 }, true) else (x.rx, false))
    else x.rx.pushFrame (s.portDepth p) f
  let s := s.setPort p { x with rx := if s.portMode p = 0 then r.1 else r.1.refill (s.portFill p) }
  if r.2 ∧ s.portMode p ≠ 0 then s.bump (A.APT_PORT_RX_OVER p) else s

/-- PORT_FRAME_RECEIVED: a frame has arrived at SDI, its levels by bit position (R206, R207, R211, R214, R218, R222). In modes 1
and 2 its length is checked against FRAME_BITS. -/
def execPortFrameReceived (port : Nat) (levels : List Bool) (s : State) : Out :=
  let seen := s.seenBits levels
  let levels := seen.1
  let s := seen.2
  .next (if s.held .apt ∨ 16 ≤ port ∨ s.portState port = 0 then s
    else
      let x := s.port port
      let right := levels.length = s.frameBits port ∨ s.portMode port = 0
      if s.portState port = 1 then
        let s := s.setPort port { x with good := if right then x.good + 1 else 0, latched := false }
        let s := if x.rx.primed ∧ ¬ x.rx.starved ∧ right then s.pushPort port (s.frameSamples port levels) else s
        s.applyMask port false
      else if ¬ right then s.losePortClock port
      else ((s.setPort port { x with latched := false }).pushPort port (s.frameSamples port levels)).applyMask port false)

/-- One frame of a mode 2 port for ingest: the ASRC reads its queue by the measured ratio, and what it makes of it waits 2 ticks
(R212, R213, R222). -/
def State.readAsrc (s : State) (p : Nat) : List Int × State :=
  let x := s.port p
  let d := x.rx
  let n := s.portSlots p
  let put := fun (s : State) (d : PortDir) => s.setPort p { (s.port p) with rx := d }
  let pos := d.pos + (s.reg (A.APT_PORT_ASRC p)).toNat
  let need := pos / 2 ^ 24
  let stopping := decide (s.portState p = 3)
  if ¬ d.primed ∨ d.starved then
    let r := d.readFrame n s.eng.tick stopping
    (r.1.1, put s r.2)
  else if d.queue.length < max need 1 then
    let r := ({ d with queue := [], line := [] } : PortDir).readFrame n s.eng.tick stopping
    (r.1.1, (put s { r.2 with queue := d.queue }).bump (A.APT_PORT_RX_UNDER p))
  else
    let fr := s.freeFrame n
    let line := d.line ++ [{ acts := (d.queue.take need).flatMap (·.acts), xs := fr.1 }]
    let d := { d with queue := d.queue.drop need, pos := pos % 2 ^ 24, line := line }
    if line.length ≤ 2 * s.portM p then (List.replicate n 0, put fr.2 d)
    else
      match line with
      | [] => (List.replicate n 0, put fr.2 d)
      | f :: rest =>
        let r := ({ d with line := rest } : PortDir).takeActs f.acts |>.play n s.eng.tick stopping f.xs
        (r.1, put fr.2 r.2)

/-- One frame of a mode 0 port for ingest (R214); no frame has arrived before the first has ended. -/
def State.readMaster (s : State) (p : Nat) : List Int × State :=
  let x := s.port p
  match x.rx.queue with
  | [] => (List.replicate (s.portSlots p) 0, s)
  | f :: rest =>
    let r := ({ x.rx with queue := rest } : PortDir).takeActs f.acts |>.play (s.portSlots p) s.eng.tick (s.portState p = 3) f.xs
    (r.1, s.setPort p { x with rx := r.2 })

/-- R214: ingest gathers the frames of port `p` for this tick. -/
def State.gatherPort (s : State) (p : Nat) : State :=
  let st := s.portState p
  let m := s.portM p
  if s.held .apt ∨ (st = 0 ∧ (s.port p).now = []) then s
  else if st = 0 then s.setPort p { (s.port p) with now := [] }
  else if s.portMode p = 1 then
    let s := forEach (List.range (m - (s.port p).rx.ready.length)) s (fun s _ => s.readPort p)
    let x := s.port p
    s.setPort p { x with rx := { x.rx with ready := [] }, now := x.rx.ready.take m }
  else
    let r := (List.range m).foldl (fun (acc : List (List Int) × State) _ =>
      let f := if s.portMode p = 0 then acc.2.readMaster p else acc.2.readAsrc p
      (acc.1 ++ [f.1], f.2)) (([] : List (List Int)), s)
    r.2.setPort p { (r.2.port p) with now := r.1 }

/-- A frame into the transmit queue; one that finds it full discards the oldest (R222). -/
def State.pushTx (s : State) (p : Nat) (xs : List Int) : State :=
  let x := s.port p
  let d := x.tx.pushFrame (s.portDepth p) { xs := xs }
  let s := s.setPort p { x with tx := d.1 }
  if d.2 then s.bump (A.APT_PORT_TX_OVER p) else s

/-- R212, R214: egress delivers one frame to port `p`: in mode 0 for the tick's next frame; in mode 1 it enters the queue at a
frame of the tick; in mode 2 it waits 2 ticks for the ASRC, which makes external samples of it by the measured ratio. -/
def State.deliverFrame (s : State) (p : Nat) (xs : List Int) : State :=
  let x := s.port p
  if s.held .apt then s
  else if s.portMode p = 0 then s.setPort p { x with tx := { x.tx with queue := x.tx.queue ++ [{ xs := xs }] } }
  else if s.portState p = 0 then s
  else if s.portMode p = 1 then s.setPort p { x with tx := { x.tx with ready := x.tx.ready ++ [xs] } }
  else
    let line := x.tx.line ++ [{ xs := xs }]
    if line.length ≤ 2 * s.portM p then s.setPort p { x with tx := { x.tx with line := line } }
    else
      let pos := x.tx.pos + (s.reg (A.APT_PORT_ASRC p)).toNat
      let s := s.setPort p { x with tx := { x.tx with line := line.drop 1, pos := pos % 2 ^ 24 } }
      forEach (List.range (pos / 2 ^ 24)) s (fun s _ =>
        let fr := s.freeFrame (s.portSlots p)
        fr.2.pushTx p fr.1)

/-- R214: at a boundary, mode 0 frames that egress delivered and no frame of the tick took are gone; mode 1 frames that no frame
of the tick took in enter the queue. -/
def State.clearPorts (s : State) : State :=
  forEach (s.ports.map (·.1)) s (fun s p =>
    let x := s.port p
    let left := x.tx.ready
    if s.portMode p = 0 then s.setPort p { x with tx := { x.tx with queue := [] } }
    else if left = [] then s
    else forEach left (s.setPort p { x with tx := { x.tx with ready := [] } }) (fun s f => s.pushTx p f))

/-! ### Pins (R206, R207, R210, R218, R221) -/

/-- A silent slot of SDO: driven 0, or high impedance with TX_IDLE (R218, R221). -/
def State.sdoIdle (s : State) (p : Nat) : Option Bool := if s.fon (F.APT_PORT_CFG_TX_IDLE p) then none else some false

/-- The levels of SDO over one slot (R206, R207): the word's bits, most significant first, then 0, or with TX_IDLE high
impedance from one bit clock after the last data bit (R218; DEDUCED, log entry 120). -/
def State.slotLevels (s : State) (p : Nat) (word : Option Nat) : List (Option Bool) :=
  let sb := widthBits (s.fget (F.APT_PORT_CFG_SLOT_BITS p))
  let wb := widthBits (s.fget (F.APT_PORT_CFG_WORD_BITS p))
  match word with
  | none => List.replicate sb (s.sdoIdle p)
  | some w => (List.range wb).map (fun i => some (bit w (wb - 1 - i))) ++ List.replicate (sb - wb) (s.sdoIdle p)

/-- The words of the frame that SDO carries, none for a silent slot (R218); a port whose PORTMASK bit is set is silent unless the
device drives (R337). -/
def State.sdoWords (s : State) (p : Nat) (d : PortDir) (ys : List Int) : List (Option Nat) :=
  let off := bit (s.reg A.RED_OUTCTL).toNat p && !s.pair.driving
  (ys.zipIdx).map (fun y => if off ∨ (Tbl.get d.slots {} y.2).ph = .silent then none else some (s.portFromA32 p y.1))

/-- The levels of SDO over a frame, by bit position. -/
def State.sdoFrame (s : State) (p : Nat) (d : PortDir) (ys : List Int) : List (Option Bool) :=
  (s.sdoWords p d ys).flatMap (s.slotLevels p)

/-- R206: the level of FSYNC at bit position `i` of a frame: its edge lies 1, 0 or DELAY bit clocks before position 0. -/
def State.fsyncLevel (s : State) (p i : Nat) : Bool :=
  let n := s.frameBits p
  let fmt := s.fget (F.APT_PORT_CFG_FORMAT p)
  let lead := if fmt = 0 then 1 else if fmt = 1 then 0 else s.fget (F.APT_PORT_CFG_DELAY p)
  let j := (i + lead) % n
  let pulse := if s.fon (F.APT_PORT_CFG_FS_WIDTH p) then widthBits (s.fget (F.APT_PORT_CFG_SLOT_BITS p)) else 1
  if fmt = 0 then decide (n / 2 ≤ j)
  else if fmt = 1 then decide (j < n / 2)
  else decide (j < pulse) != s.fon (F.APT_PORT_CFG_FS_POL p)

/-- R206, R210: the level of the bit clock `c` ECLK cycles after a frame boundary: a bit begins at the launching edge, which
falls, or rises with BCLK_INV; the high time is floor(DIV / 2). -/
def State.bclkLevel (s : State) (p c : Nat) : Bool :=
  let div := s.portDiv p
  let r := c % div
  if s.fon (F.APT_PORT_CFG_BCLK_INV p) then decide (r < div / 2) else decide (div - div / 2 ≤ r)

/-- APn_BCLK `c` ECLK cycles after a frame boundary: none is an input (R210, R221; chapter 14 while APT is held). -/
def State.bclkPin (s : State) (p c : Nat) : Option Bool :=
  s.drivesPin <| if s.held .apt ∨ s.portMode p ≠ 0 then none else some ((s.port p).clk && s.bclkLevel p c)

/-- APn_FSYNC at bit position `i`. -/
def State.fsyncPin (s : State) (p i : Nat) : Option Bool :=
  s.drivesPin <| if s.held .apt ∨ s.portMode p ≠ 0 then none else some ((s.port p).clk && s.fsyncLevel p i)

/-- APn_SDO at bit position `i`; low or high impedance while no frame is on it (R221). -/
def State.sdoPin (s : State) (p i : Nat) : Option Bool :=
  s.drivesPin <| if s.held .apt then some false
  else if s.portState p = 0 then s.sdoIdle p
  else (s.port p).out.getD i (s.sdoIdle p)

/-- PDM_CLKj `c` ECLK cycles after a tick boundary: it runs at ECLK / 400 or 200 while a microphone that it serves is enabled,
and is low otherwise (R224). -/
def State.pdmClkPin (s : State) (j c : Nat) : Option Bool :=
  let d := if s.fon F.APT_PDM_CTRL_PDM_RATE then 200 else 400
  s.drivesPin <| some <| !s.held .apt && (List.range 8).any (fun k => (Tbl.get s.mics {} (8 * j + k)).run) && decide (c % d < d / 2)

/-! ### Frames out (R214, R222) -/

/-- The frame that a boundary launches; the second part tells an underrun. -/
def State.nextTx (s : State) (p : Nat) (d : PortDir) : (List Int × Bool) × PortDir :=
  let n := s.portSlots p
  let stopping := decide (s.portState p = 3)
  if s.portMode p = 0 then
    let r := ({ d with queue := d.queue.drop 1 } : PortDir).play n s.eng.tick stopping ((d.queue.head?.map (·.xs)).getD (List.replicate n 0))
    ((r.1, false), r.2)
  else d.readFrame n s.eng.tick stopping

/-- R214: after a frame in mode 1, the next that egress delivered enters the queue; a queue that holds enough starts or
refills. -/
def State.feedTx (s : State) (p : Nat) : State :=
  if s.portMode p = 0 then s
  else
    let x := s.port p
    let s := match x.tx.ready with
      | [] => s
      | f :: rest => (s.setPort p { x with tx := { x.tx with ready := rest } }).pushTx p f
    let x := s.port p
    s.setPort p { x with tx := x.tx.refill (s.portFill p) }

/-- PORT_FRAME_TRANSMIT: a frame boundary launches a frame on SDO (R207, R210, R214, R215, R218, R222). In mode 0 a tick has m
boundaries. -/
def execPortFrameTransmit (port : Nat) (s : State) : Out :=
  .next (if s.held .apt ∨ 16 ≤ port ∨ s.portState port = 0 ∨
        (s.portMode port = 0 ∧ (¬ (s.port port).clk ∨ s.portM port ≤ (s.port port).sent)) then s
    else
      let s := s.applyMask port true
      let x := s.port port
      let r := s.nextTx port x.tx
      let s := if r.1.2 then s.bump (A.APT_PORT_TX_UNDER port) else s
      let quiet := if x.tx.silent ∧ x.rx.silent then x.quiet + 1 else 0
      let s := s.setPort port { x with tx := r.2, out := s.sdoFrame port r.2 r.1.1, latched := false, quiet := quiet, sent := x.sent + 1 }
      s.feedTx port)

/-- R210, R219: a tick boundary starts the clocks of a STARTING port in mode 0, and counts its frames anew. -/
def PortSt.atTick (x : PortSt) (master starting : Bool) : PortSt := { x with clk := x.clk || (master && starting), sent := 0 }

/-! ### PDM microphones (R224 to R226) -/

/-- Microphone `m`. -/
def State.mic (s : State) (m : Nat) : MicSt := Tbl.get s.mics {} m

/-- Store microphone `m`. -/
def State.setMic (s : State) (m : Nat) (x : MicSt) : State := { s with mics := Tbl.set s.mics {} m x }

/-- R225: one PDM bit into the integrators, modulo 2^w. -/
def micBit (w : Nat) (i : List Nat) (b : Bool) : List Nat :=
  let x := if b then 1 else 2 ^ w - 1
  let i1 := (i.getD 0 0 + x) % 2 ^ w
  let i2 := (i.getD 1 0 + i1) % 2 ^ w
  let i3 := (i.getD 2 0 + i2) % 2 ^ w
  [i1, i2, i3, (i.getD 3 0 + i3) % 2 ^ w]

/-- R225: the differentiators' output and their values for the next. -/
def micComb (w : Nat) (i4 : Nat) (c : List Nat) : Int × List Nat :=
  let d := fun (a b : Nat) => (a + 2 ^ w - b) % 2 ^ w
  let c1 := d i4 (c.getD 0 0)
  let c2 := d c1 (c.getD 1 0)
  let c3 := d c2 (c.getD 2 0)
  let c4 := d c3 (c.getD 3 0)
  ((BitVec.ofNat w c4).toInt, [i4, c1, c2, c3])

/-- R225: a tick's bits of one microphone, bit 0 first, at log2 D = `lg`: the sample at Fb. -/
def micTick (lg : Nat) (x : MicSt) (bs : Nat) : MicSt :=
  let w := 4 * lg + 2
  let x := (List.range 4).foldl (fun (x : MicSt) o =>
    let i := (List.range (2 ^ lg)).foldl (fun i b => micBit w i (bit bs (o * 2 ^ lg + b))) x.i
    let r := micComb w (i.getD 3 0) x.c
    { x with i := i, c := r.2, hist := (sat32 (r.1 * 2 ^ (31 - 4 * lg)) :: x.hist).take 31 }) x
  { x with y := decimate 4 x.hist }

/-- What ingest gathers of a microphone: 0 while it settles, else its sample through its fade (R226). -/
def MicSt.deliver (x : MicSt) : MicSt :=
  if x.settle.isSome then { x with now := 0 }
  else let r := fadeSample x.fade x.y; { x with now := r.1, fade := r.2 }

/-- R226: a microphone at a boundary that starts tick `t`: its settling ends, or its fade out, and then it is
disabled with cleared state. -/
def MicSt.settleAt (x : MicSt) (t : Nat) : MicSt :=
  match x.settle with
  | some due => if due ≤ t then { x with settle := none, fade := some { g0 := 0, g1 := unity, k := 0, n := 64 } } else x
  | none =>
    match settleFade x.fade with
    | some f => if f.over then {} else x
    | none => { x with fade := none }

/-- PDM_SETTLE_END (R226). -/
def execPdmSettleEnd (mic : Nat) (s : State) : Out :=
  .next (if s.held .apt ∨ 32 ≤ mic then s else s.setMic mic ((s.mic mic).settleAt s.nextTick))

/-- PDM_MASK_WRITE: microphones are enabled and disabled one by one (R226). -/
def execPdmMaskWrite (value : W32) (s : State) : Out :=
  .next (if s.held .apt then s
    else
      let old := (s.reg A.APT_PDM_MASK).toNat
      let s := s.writePlain A.APT_PDM_MASK value
      forEach (List.range 32) s (fun s m =>
        let x := s.mic m
        if bit value.toNat m ∧ ¬ bit old m then
          s.setMic m (if x.run then { x with fade := fadeTo x.fade unity 64 }
            else { run := true, settle := some (s.nextTick + s.fget F.APT_PDM_CTRL_SETTLE) })
        else if ¬ bit value.toNat m ∧ bit old m then
          s.setMic m (if x.settle.isSome then {} else { x with fade := fadeTo x.fade 0 64 })
        else s))

/-- PDM_CTRL_WRITE: PDM_RATE changes only while no microphone is enabled (R226). -/
def execPdmCtrlWrite (value : W32) (s : State) : Out :=
  .next (if s.held .apt then s
    else if bits value.toNat 16 16 ≠ s.fget F.APT_PDM_CTRL_PDM_RATE ∧ s.reg A.APT_PDM_MASK ≠ 0 then
      s.record 0x803 0 [value.toNat]
    else s.writePlain A.APT_PDM_CTRL value)

/-- R224 to R226: a tick's bits reach the microphones; a pin that held one level marks its enabled microphones. -/
def State.pdmTick (s : State) (t : Nat) (pdm : List (Nat × Nat)) : State :=
  if s.held .apt then s
  else
    let lg := 4 + s.fget F.APT_PDM_CTRL_PDM_RATE
    let n := 4 * 2 ^ lg
    let of : Nat → Nat := fun m => ((pdm.find? (fun x => x.1 = m)).map (·.2)).getD 0 % 2 ^ n
    let stuck := fun (m : Nat) =>
      let a := of (m / 2 * 2)
      let b := of (m / 2 * 2 + 1)
      (decide (a = 0) && decide (b = 0)) || (decide (a = 2 ^ n - 1) && decide (b = 2 ^ n - 1))
    forEach (List.range 32) s (fun s m =>
      let x := s.mic m
      if ¬ x.run then s
      else
        let x := x.settleAt t
        let s := s.setMic m (if x.run then (micTick lg x (of m)).deliver else x)
        if stuck m ∧ bit (s.reg A.APT_PDM_MASK).toNat m then s.fset ⟨A.APT_PDM_STAT, m, m⟩ 1 else s)

end Sys2Proof.Machine
end

