-- ==== Sys2Proof/Machine/Clock.lean ====
section
/-! DEFINITION. The reference and clock unit: inputs, qualification, selection, the loop, holdover (R288 to R300). -/

namespace Sys2Proof.Machine

open Sys2Proof.Arith

/-- Input `i` beside its registers. -/
def State.refIn (s : State) (i : Nat) : RefIn := Tbl.get s.clk.inputs {} i

/-- Store input `i`. -/
def State.setRefIn (s : State) (i : Nat) (x : RefIn) : State :=
  { s with clk := { s.clk with inputs := Tbl.set s.clk.inputs {} i x } }

/-- STATE of an input: 0 ABSENT, 1 QUALIFYING, 2 QUALIFIED, 3 SUSPECT, 4 DISQUALIFIED. -/
def State.inState (s : State) (i : Nat) : Nat := s.fget (F.CLK_IN_STAT_STATE i)

/-- Deviation of an input in ppt. -/
def State.inDev (s : State) (i : Nat) : Int := s.regInt (A.CLK_IN_DEV i)

/-- RANK of an input. -/
def State.inRank (s : State) (i : Nat) : Nat := s.fget (F.CLK_IN_CFG_RANK i)

/-- STATE of the unit: 0 FREERUN, 1 ACQUIRE, 2 LOCKED, 3 HOLDOVER, 4 MANUAL. -/
def State.clkState (s : State) : Nat := s.fget F.CLK_STAT_STATE

/-- The selected input; 15 for none. -/
def State.clkSel (s : State) : Nat := s.fget F.CLK_STAT_SELECTED

/-- Fb in Hz. -/
def State.baseHz (s : State) : Nat := if s.fget F.RST_STRAP_FAMILY = 0 then 48000 else 44100

/-- R289: whether input `i` is present. The detectors report inputs 0 to 4; lanes and timescales follow their states. -/
def State.inHere (s : State) (i : Nat) : Bool :=
  if i < 5 then (s.refIn i).here
  else if i < 13 then s.up .lnk && s.fon (F.LNP_STAT_LANE_UP (i - 5))
  else if i < 15 then decide (s.fget (F.TIM_TS_STAT_STATE (i - 13)) = 1)
  else true

/-! ### The DCO word (R299) -/

/-- Whether the word in use is beyond ±100 ppm (R235). -/
def State.beyond100 (s : State) : Bool := decide (100000000 < (s.regInt A.CLK_DCO_WORD).natAbs)

/-- R235: PPM_OOR of every port. -/
def State.refreshPpm (s : State) : State :=
  forEach [0, 1, 2, 3] s (fun s p =>
    s.fset (F.LNP_PORT_STAT_PPM_OOR p) (b2n (s.up .lnk && s.fon (F.LNP_PORT_CFG_MODE p) && s.beyond100)))

/-- DCO_LIM in ppt. -/
def State.dcoLimit (s : State) : Int :=
  let l := s.fget F.CLK_CTRL_DCO_LIM
  (if 1 ≤ l ∧ l ≤ 200 then l else 200 : Nat) * 1000000

/-- The loop, or a state, asks for a word; it is limited to ±DCO_LIM. -/
def State.setWord (s : State) (ask : Int) : State :=
  let l := s.dcoLimit
  let w := max (-l) (min l ask)
  let s := { s with clk := { s.clk with ask := ask } }
  ((s.setReg A.CLK_DCO_WORD (toW w)).fset F.CLK_STAT_DCO_LIMIT (b2n (decide (w ≠ ask)))).refreshPpm

/-! ### Holdover (R298) -/

/-- HO_WIN within its limits. -/
def State.hoWin (s : State) : Nat := max 16 (min 960 (s.fget F.CLK_TIMING_HO_WIN))

/-- The valid entries of the holdover window. -/
def State.hoEntries (s : State) : List Int :=
  ((s.clk.hist.drop (s.fget F.CLK_TIMING_HO_GAP)).take s.hoWin).filterMap id

/-- HO_VALID. -/
def State.hoValid (s : State) : Bool := decide (16 ≤ s.hoEntries.length)

/-- The mean of the entries, rounded half up. -/
def meanHalfUp (l : List Int) : Int := divHalfUp l.sum (max l.length 1)

/-- No input is selected any more. -/
def State.deselect (s : State) : State :=
  let s := s.setReg (A.CLK_IN_PHERR s.clkSel) 0
  let s := (s.fset F.CLK_STAT_SELECTED 15).fset F.CLK_STAT_ALIGNED 0
  { s with clk := { s.clk with built := false, b := 0, steady := false, calm := false } }

/-- FREERUN: the word is minus CLK_XO_CAL. -/
def State.enterFree (s : State) : State :=
  (s.deselect.fset F.CLK_STAT_STATE 0).setWord (-(s.regInt A.CLK_XO_CAL))

/-- R294: HOLDOVER where the history allows it, else FREERUN. -/
def State.enterHoldover (s : State) : State :=
  if s.hoValid then
    let w := meanHalfUp s.hoEntries
    ((s.deselect.fset F.CLK_STAT_STATE 3).setReg A.CLK_HO_WORD (toW w)).setWord w
  else s.enterFree

/-! ### Selection (R292, R293, R295) -/

/-- R292: whether input `i` is a candidate. -/
def State.candidate (s : State) (i : Nat) : Bool :=
  decide (i < 15) && decide (s.inRank i ≤ 6) &&
    (decide (s.inState i = 2) || (decide (s.inState i = 3) && decide (s.clkSel = i)))

/-- The candidates, by rising index. -/
def State.candidates (s : State) : List Nat := (List.range 15).filter s.candidate

/-- R295: the first pair of a list of inputs whose deviations differ by more than TOL. -/
def State.disagreeing (s : State) (l : List Nat) : Option (Nat × Nat) :=
  l.findSome? (fun i => (l.find? (fun j => decide (i < j) &&
    decide (s.fget F.CLK_TOL_TOL * 1000 < (s.inDev i - s.inDev j).natAbs))).map (fun j => (i, j)))

/-- Whether the candidates of some RANK disagree. -/
def State.anyDisagree (s : State) : Bool :=
  (List.range 7).any (fun r => (s.disagreeing (s.candidates.filter (fun i => decide (s.inRank i = r)))).isSome)

/-- R295: the referee set, as pairs of value and input, by rising value; 15 stands for XO. -/
def State.refereeSet (s : State) : List (Int × Nat) :=
  let l := ((List.range 15).filter (fun i => decide (s.inState i = 2))).map (fun i => (s.inDev i, i))
  (l ++ (if s.fon F.CLK_CTRL_XO_REFEREE then [(-(s.regInt A.CLK_XO_CAL), 15)] else [])).mergeSort
    (fun a b => decide (a.1 ≤ b.1))

/-- Twice the referee value, and the values it is formed of. -/
def referee (l : List (Int × Nat)) : Option (Int × List Int) :=
  let n := l.length
  let v := fun (k : Nat) => (l.getD k (0, 15)).1
  if n < 3 then none
  else if n % 2 = 1 then some (2 * v (n / 2), [v (n / 2)])
  else some (v (n / 2 - 1) + v (n / 2), [v (n / 2 - 1), v (n / 2)])

/-- The member of a non-empty list nearest to a referee value; a tie goes to `sel`, else to the lower index. -/
def State.nearest (s : State) (l : List Nat) (twice : Int) (sel : Nat) : Nat :=
  let dist := fun (i : Nat) => (2 * s.inDev i - twice).natAbs
  let best := (l.map dist).foldl min (dist (l.headD 15))
  let tied := l.filter (fun i => decide (dist i = best))
  if tied.contains sel then sel else tied.headD 15

/-- R293, rules 4 and 5: the input chosen among the candidates `l` of one RANK; `pair` is a pair that disagrees. -/
def State.choose (s : State) (l : List Nat) : Nat × State :=
  let sel := s.clkSel
  let keep := if l.contains sel then sel else l.headD 15
  match s.disagreeing l with
  | none => (keep, s)
  | some (i, j) =>
    let set := s.refereeSet
    let r := referee set
    let pick := match r with
      | some x => s.nearest l x.1 sel
      | none => keep
    let s := match r with
      | some x => forEach (List.range 16) s (fun s k =>
          s.fset (F.CLK_IN_STAT_REFEREE k) (b2n (set.any (fun e => decide (e.2 = k) && x.2.contains e.1))))
      | none => s
    let value : Int := match r with | some x => x.1 / 2 | none => 0
    if s.fon F.CLK_STAT_DISAGREE then (pick, s)
    else (pick, ((s.fset F.CLK_STAT_DISAGREE 1).fset F.CLK_STAT_REF_DISAGREE 1).record 0x204 pick
      [i, j, (toW value).toNat])

/-- R293, R297: input `i` becomes the selected one. -/
def State.selectInput (s : State) (i : Nat) : State :=
  let old := s.clkSel
  if i = old then s
  else
    let st := s.clkState
    let s := ((s.deselect.fset F.CLK_STAT_SELECTED i).fset F.CLK_STAT_SWITCHED 1).bump A.CLK_SWITCH_CNT
    let s := if st = 1 ∨ st = 2 then s else s.fset F.CLK_STAT_STATE 1
    s.record 0x203 i [old, i, (s.reg A.CLK_STAT).toNat]

/-- R295: DISAGREE ends with the last disagreement. -/
def State.settleDisagree (s : State) : State := if s.anyDisagree then s else s.fset F.CLK_STAT_DISAGREE 0

/-- R293: the unit evaluates its rules in MODE 0. -/
def State.evaluate (s : State) : State :=
  if s.held .clk ∨ s.fget F.CLK_CTRL_MODE ≠ 0 then s
  else
    let c := s.candidates
    let sel := s.clkSel
    let s := s.settleDisagree
    if c = [] then (if s.clkState = 1 ∨ s.clkState = 2 then s.enterHoldover else s)
    else
      let lowest := fun (l : List Nat) => (l.map s.inRank).foldl min 7
      let better := c.filter (fun i => decide (s.inRank i < s.inRank sel) && decide (s.inState i = 2) &&
        decide (s.fget F.CLK_CTRL_WTR ≤ (s.refIn i).run))
      let rank := if ¬ c.contains sel then lowest c
        else if s.fon F.CLK_CTRL_REVERTIVE ∧ better ≠ [] then lowest better
        else s.inRank sel
      let r := s.choose (c.filter (fun i => decide (s.inRank i = rank)))
      r.2.selectInput r.1

/-- R291, R293: the presence of input `i` as it now is. -/
def State.settleInput (s : State) (i : Nat) : State :=
  if s.held .clk ∨ 15 ≤ i then s
  else if s.inHere i ∧ s.inState i = 0 then
    (s.setRefIn i { (s.refIn i) with good := 0, hard := 0, run := 0 }).fset (F.CLK_IN_STAT_STATE i) 1
  else if ¬ s.inHere i ∧ s.inState i ≠ 0 then
    let s := s.setRefIn i { (s.refIn i) with good := 0, hard := 0, run := 0 }
    let s := (s.fset (F.CLK_IN_STAT_STATE i) 0).fset (F.CLK_IN_STAT_MEAS_VALID i) 0
    if s.clkSel = i then (s.record 0x202 i [(s.reg A.CLK_STAT).toNat]).evaluate else s
  else s

/-- Evaluate where the selected input is no candidate any more. -/
def State.recheckSelection (s : State) : State :=
  if s.clkSel ≠ 15 ∧ ¬ s.candidate s.clkSel then s.evaluate else s

/-! ### Readings (R290, R291) -/

/-- QWIN; 0 acts as 1. -/
def State.qwin (s : State) : Nat := max 1 (s.fget F.CLK_TIMING_QWIN)

/-- R290, R291: a reading of input `i`, whose frequency lies `m` ppt off nominal against XO. -/
def State.readInput (s : State) (i : Nat) (m : Int) : State :=
  if ¬ s.inHere i ∨ s.inState i = 0 then s
  else
    let dev := m - s.regInt A.CLK_XO_CAL
    let soft := decide (dev.natAbs ≤ s.fget F.CLK_LIMITS_SOFT * 1000)
    let hard := decide (s.fget F.CLK_LIMITS_HARD * 1000 < dev.natAbs)
    let x := s.refIn i
    let q := s.qwin
    let st := s.inState i
    let r : Nat × Nat × Nat :=
      match st with
      | 1 => if soft then (if q ≤ x.good + 1 then 2 else 1, x.good + 1, 0) else (1, 0, 0)
      | 2 => if soft then (2, x.good, 0) else (3, 0, b2n hard)
      | 3 =>
        if soft then (if q ≤ x.good + 1 then 2 else 3, x.good + 1, 0)
        else if hard then (if q ≤ x.hard + 1 then 4 else 3, 0, x.hard + 1)
        else (3, 0, 0)
      | _ => if soft then (1, 1, 0) else (st, x.good, x.hard)
    let s := (s.setReg (A.CLK_IN_DEV i) (toW (sat32 dev))).fset (F.CLK_IN_STAT_MEAS_VALID i) 1
    let s := s.setRefIn i { x with good := r.2.1, hard := r.2.2, run := if r.1 = 2 then x.run + 1 else 0 }
    let s := s.fset (F.CLK_IN_STAT_STATE i) r.1
    if st = 2 ∧ r.1 = 3 then (s.fset F.CLK_STAT_SUSPECT_SEEN 1).record 0x201 i [(toW (sat32 dev)).toNat] else s

/-- R298: the second ends: its mean word is kept where it was valid. -/
def State.closeSecond (s : State) : State :=
  let c := s.clk
  let w := if c.words = [] then s.regInt A.CLK_DCO_WORD else meanHalfUp c.words
  { s with clk := { c with hist := ((if c.steady then some w else none) :: c.hist).take 1024 } }

/-- R290: the offset of timescale `n` from nominal over the second, in ppt: what its count has moved by, steps included,
with the part of the second that no tick has passed counted at its present increment. -/
def Timescale.offset (x : Timescale) : Int :=
  let moved : Int := (x.t : Int) - x.seen + (49152000 - (x.passed : Int)) * x.inc
  divHalfUp ((moved - 1000000000 * 2 ^ 32) * 1000000000000) (1000000000 * 2 ^ 32)

/-- R290: the offset from nominal of input `i` over the second that ends. A present input without a measured figure reads
a free value. -/
def State.offsetOf (s : State) (readings : List (Nat × Int)) (i : Nat) : Int × State :=
  if 13 ≤ i then ((Tbl.get s.tim.ts {} (i - 13)).offset, s)
  else match readings.find? (fun r => decide (r.1 = i)) with
    | some r => (r.2, s)
    | none => if s.inHere i then (let w := s.drawWord; (w.1.toInt, w.2)) else (0, s)

/-- R290: a timescale's count is noted for the next reading. -/
def Timescale.note (x : Timescale) : Timescale := { x with seen := x.t, passed := 0 }

/-- FREQUENCY_READING: once per second of XO (R290, R291, R293, R294, R298). `readings` are the measured offsets of the
inputs 0 to 12. -/
def execFrequencyReading (readings : List (Nat × Int)) (s : State) : Out :=
  .next (if s.held .clk then s
    else
      let s := s.closeSecond
      let s := forEach (List.range 15) s (fun s i =>
        let m := s.offsetOf readings i
        m.2.readInput i m.1)
      let s := forEach [0, 1] s (fun s n =>
        { s with tim := { s.tim with ts := Tbl.set s.tim.ts {} n (Tbl.get s.tim.ts {} n).note } })
      let s := s.settleDisagree
      let s := if s.clkState = 1 ∧ s.clk.calm ∧ s.clk.words ≠ [] then s.fset F.CLK_STAT_STATE 2 else s
      let s := s.evaluate
      let s := s.fset F.CLK_STAT_HO_VALID (b2n s.hoValid)
      { s with clk := { s.clk with words := [], calm := true, steady := decide (s.clkState = 2) && decide (s.inState s.clkSel = 2) } })

/-- INPUT_PRESENCE_CHANGE: a detector reports an input present or not, with the multiple of Fb of a word clock. -/
def execInputPresenceChange (input : Nat) (present : Bool) (mult : Nat) (s : State) : Out :=
  .next (if s.held .clk ∨ 15 ≤ input then s
    else
      let s := if input < 5 then s.setRefIn input { (s.refIn input) with here := present } else s
      let s := if input < 2 ∧ present then s.fset (F.CLK_IN_STAT_MULT input) mult else s
      s.settleInput input)

/-! ### The loop (R296, R297) -/

/-- Edge spacing of an edge or time input in ECLK cycles; 0 for a frequency input. -/
def State.edgeSpacing (s : State) (i : Nat) : Nat :=
  if i < 2 then 25600 / 2 ^ s.fget (F.CLK_IN_STAT_MULT i)
  else if i < 4 then 25600 * s.baseHz
  else if i = 13 ∨ i = 14 then 25600
  else 0

/-- R297: the build-out `b` after one comparison, all in units of 10^-9 cycles: toward `goal`, the shorter way round,
by at most `step`. -/
def slewTo (b goal space step : Int) : Int :=
  let d := (goal - b) % space
  let d := if 2 * d ≤ space then d else d - space
  if d.natAbs ≤ step then goal else if 0 ≤ d then b + step else b - step

/-- R297: the build-out moves. -/
def State.alignStep (s : State) (i : Nat) : State :=
  let space := s.edgeSpacing i
  if space = 0 ∨ ¬ s.fon (F.CLK_IN_CFG_ALIGN i) then s.fset F.CLK_STAT_ALIGNED 0
  else
    let goal := s.regInt (A.CLK_IN_PHOFS i) * 1000000000
    let b := if s.held .eng then goal
      else slewTo s.clk.b goal (space * 1000000000) (s.fget F.CLK_TOL_SLEW * space)
    ({ s with clk := { s.clk with b := b } }).fset F.CLK_STAT_ALIGNED (b2n (decide (b = goal)))

/-- PHASE_COMPARISON: an edge of the selected input lies `err` ECLK cycles after the DCO's own (R294, R296, R297). The
word that the loop asks for is a free value: its law is not stated bit by bit. -/
def execPhaseComparison (input : Nat) (err : Int) (s : State) : Out :=
  .next (if s.held .clk ∨ s.clkSel ≠ input ∨ 15 ≤ input ∨ (s.clkState ≠ 1 ∧ s.clkState ≠ 2) then s
    else
      let s := if s.clk.built then s.alignStep input
        else { s with clk := { s.clk with built := true, b := err * 1000000000 } }
      let e := err - divHalfUp s.clk.b 1000000000
      let s := s.setReg (A.CLK_IN_PHERR input) (toW (sat32 e))
      let s := if s.clkState = 2 ∧ 1024 < e.natAbs then
          { (s.fset F.CLK_STAT_STATE 1) with clk := { s.clk with steady := false } }
        else s
      let w := s.drawWord
      let s := w.2.setWord w.1.toInt
      { s with clk := { s.clk with calm := s.clk.calm && decide (e.natAbs ≤ 256), words := s.clk.words ++ [s.regInt A.CLK_DCO_WORD] } })

/-- R297, R302: a step of timescale `n` sets the build-out anew where that timescale is selected. -/
def State.timescaleStepped (s : State) (n : Nat) : State :=
  if s.clkSel = 13 + n then { s with clk := { s.clk with built := false } } else s

/-- CLK_MODE_WRITE: a write of CLK_CTRL (R294). -/
def execClkModeWrite (value : W32) (s : State) : Out :=
  .next (if s.held .clk then s
    else
      let old := s.fget F.CLK_CTRL_MODE
      let s := s.writePlain A.CLK_CTRL value
      let mode := s.fget F.CLK_CTRL_MODE
      if mode = old then s.setWord s.clk.ask
      else if mode = 0 then s.enterFree.evaluate
      else if mode = 1 then (s.deselect.fset F.CLK_STAT_STATE 4).setWord (s.regInt A.CLK_DCO_MAN)
      else if mode = 2 ∧ ¬ (s.clkState = 3 ∧ s.hoValid) then s.enterHoldover
      else s.setWord s.clk.ask)

/-! ### Status pins (R300) -/

/-- Pin LOCK. -/
def State.pinLock (s : State) : Option Bool := s.drivesPin <| some <| s.up .clk && decide (s.clkState = 2)

/-- Pin HOLDOVER. -/
def State.pinHoldover (s : State) : Option Bool := s.drivesPin <| some <| s.up .clk && decide (s.clkState = 3)

/-- Pins REF_STAT[1:0]; R470 as for the others. -/
def State.pinRefStat (s : State) : Option Nat :=
  if s.pinsCut then none else some <|
  if s.held .clk then 0
  else if s.clkState = 1 then 1
  else if s.clkState = 2 then
    let i := s.clkSel
    let align := s.edgeSpacing i ≠ 0 ∧ s.fon (F.CLK_IN_CFG_ALIGN i) ∧ ¬ s.fon F.CLK_STAT_ALIGNED
    if s.inState i = 2 ∧ ¬ s.fon F.CLK_STAT_DISAGREE ∧ ¬ align then 2 else 3
  else 0

end Sys2Proof.Machine
end

