-- ==== Sys2Proof/Machine/Time.lean ====
section
/-! DEFINITION. Timescales, main time, SCNT alignment, Fireflies and FSYNC outputs (R301 to R306, R312, R314). Times are
counted in units of 2^-32 ns. -/

namespace Sys2Proof.Machine

open Sys2Proof.Arith

/-- One second. -/
def secUnits : Nat := 1000000000 * 2 ^ 32

/-- Where a timescale wraps: 2^48 s. -/
def timeWrap : Nat := 2 ^ 48 * secUnits

/-- Timescale `n`. -/
def State.tsc (s : State) (n : Nat) : Timescale := Tbl.get s.tim.ts {} n

/-- Store timescale `n`. -/
def State.setTsc (s : State) (n : Nat) (x : Timescale) : State := { s with tim := { s.tim with ts := Tbl.set s.tim.ts {} n x } }

/-- STATE of a timescale: 0 UNSET, 1 TRACKING, 2 HOLD. -/
def State.tsState (s : State) (n : Nat) : Nat := s.fget (F.TIM_TS_STAT_STATE n)

/-- SOURCE of a timescale. -/
def State.tsSource (s : State) (n : Nat) : Nat := s.fget (F.TIM_TS_CTRL_SOURCE n)

/-- The timescale in use. -/
def State.tsInUse (s : State) : Nat := s.fget F.TIM_STAT_IN_USE

/-- Main time (R304). -/
def State.mainTime (s : State) : Nat := (((s.tsc s.tsInUse).t : Int) + s.tim.ofs).toNat % timeWrap

/-- Whether main time is set (R304). -/
def State.mainSet (s : State) : Bool := s.fon (F.TIM_TS_STAT_SET s.tsInUse)

/-- XO cycles in TS_LOSS of timescale `n`; 0 acts as 1 s. -/
def State.tsLoss (s : State) (n : Nat) : Nat := max 1 (s.fget (F.TIM_TS_CTRL_TS_LOSS n)) * 49152000

/-! ### Fireflies (R314) -/

/-- Firefly `n` beside its registers. -/
def State.firefly (s : State) (n : Nat) : Firefly := Tbl.get s.tim.ff {} n

/-- Store Firefly `n`. -/
def State.setFirefly (s : State) (n : Nat) (x : Firefly) : State := { s with tim := { s.tim with ff := Tbl.set s.tim.ff {} n x } }

/-- START in ns. -/
def State.ffStart (s : State) (n : Nat) : Nat :=
  (s.reg (A.TIM_FF_START_NS n)).toNat +
    1000000000 * ((s.reg (A.TIM_FF_START_SLO n)).toNat + 2 ^ 32 * s.fget ⟨A.TIM_FF_START_SHI n, 15, 0⟩)

/-- PERIOD in ns. -/
def State.ffPeriod (s : State) (n : Nat) : Nat :=
  (s.reg (A.TIM_FF_PER_NS n)).toNat + 1000000000 * (s.reg (A.TIM_FF_PER_S n)).toNat

/-- The first occurrence at or after the time `t` (units of 2^-32 ns), in ns. -/
def State.ffFirst (s : State) (n t : Nat) : Nat :=
  let st := s.ffStart n
  let per := s.ffPeriod n
  if t ≤ st * 2 ^ 32 ∨ per = 0 then st
  else st + (t - st * 2 ^ 32 + per * 2 ^ 32 - 1) / (per * 2 ^ 32) * per

/-- A Firefly is disarmed; a pulse in progress completes. -/
def State.disarm (s : State) (n : Nat) : State :=
  ((s.setFirefly n { (s.firefly n) with next := none }).fset (F.TIM_FF_CTRL_ARMED n) 0).fset (F.TIM_FF_CTRL_ARM n) 0

/-- R314: main time has stepped; the next occurrence of every armed Firefly is computed afresh. -/
def State.fireflyStep (s : State) : State :=
  forEach (List.range 8) s (fun s n =>
    match (s.firefly n).next with
    | none => s
    | some old =>
      let now := s.mainTime
      let next := s.ffFirst n now
      let s := if old * 2 ^ 32 < now then s.fset (F.TIM_FF_CTRL_SKIPPED n) 1 else s
      if next * 2 ^ 32 < now then s.disarm n else s.setFirefly n { (s.firefly n) with next := some next })

/-- FIREFLY_ARM: a write of TIM_FFn_CTRL with ARM = 1 (R314). -/
def execFireflyArm (ff : Nat) (value : W32) (s : State) : Out :=
  .next (if s.held .clk ∨ 8 ≤ ff then s
    else
      let armed := (s.firefly ff).next
      let s := s.writePlain (A.TIM_FF_CTRL ff) value
      if armed.isSome then s.fset (F.TIM_FF_CTRL_ARM ff) 1
      else
        let s := s.fset (F.TIM_FF_CTRL_ARM ff) 0
        let per := s.ffPeriod ff
        let soon := s.mainTime + 10000 * 2 ^ 32
        let arm := fun (s : State) (next : Nat) =>
          ((s.setFirefly ff { (s.firefly ff) with next := some next }).fset (F.TIM_FF_CTRL_ARMED ff) 1).fset (F.TIM_FF_CTRL_ARM ff) 1
        if ¬ s.mainSet ∨ (per ≠ 0 ∧ per ≤ (s.reg (A.TIM_FF_WIDTH ff)).toNat) then s.fset (F.TIM_FF_CTRL_CFG_REJ ff) 1
        else if s.ffStart ff * 2 ^ 32 < soon then
          (if per = 0 then s.fset (F.TIM_FF_CTRL_LATE ff) 1
           else arm (s.fset (F.TIM_FF_CTRL_SKIPPED ff) 1) (s.ffFirst ff soon))
        else arm s (s.ffStart ff))

/-- FIREFLY_DISARM: a write of TIM_FFn_CTRL with ARM = 0 (R314). -/
def execFireflyDisarm (ff : Nat) (value : W32) (s : State) : Out :=
  .next (if s.held .clk ∨ 8 ≤ ff then s else (s.writePlain (A.TIM_FF_CTRL ff) value).disarm ff)

/-- FIREFLY_PULSE: the next occurrence of an armed Firefly is reached (R314): it lies in the present tick. -/
def execFireflyPulse (ff : Nat) (s : State) : Out :=
  .next (match (s.firefly ff).next with
    | none => s
    | some next =>
      if s.held .clk ∨ 8 ≤ ff ∨ s.mainTime + secUnits / s.baseHz ≤ next * 2 ^ 32 then s
      else
        let per := s.ffPeriod ff
        let s := s.setFirefly ff { next := some (next + per), start := next, stop := next + (s.reg (A.TIM_FF_WIDTH ff)).toNat }
        let s := s.bump (A.TIM_FF_COUNT ff)
        if per = 0 then s.disarm ff else s)

/-! ### Timescale states and main time (R303, R304) -/

/-- R304: another timescale is in use; main time does not move. -/
def State.useTimescale (s : State) (n : Nat) : State :=
  let old := s.tsInUse
  if n = old then s
  else
    let ofs := s.tim.ofs + (s.tsc old).t - (s.tsc n).t
    ({ s with tim := { s.tim with ofs := ofs } }).fset F.TIM_STAT_IN_USE n

/-- R304: which timescale is in use, and whether main time is set. -/
def State.settleMain (s : State) : State :=
  let m := s.fget F.TIM_CTRL_MAIN
  let o := 1 - m
  let auto := s.fon F.TIM_CTRL_AUTO_FB
  let starts := auto && decide (s.tsState m = 2) && decide (s.tsState o = 1)
  let back := decide (s.tsState m = 1) && decide (s.tsLoss m ≤ (s.tsc m).track)
  let fell := s.tim.fall && decide (s.tsInUse = o)
  let fall := auto && (if fell then !back else starts)
  let begins := fall && !fell
  let s := { s with tim := { s.tim with fall := fall } }
  let s := s.useTimescale (if fall then o else m)
  let s := if begins then
      (s.fset F.TIM_STAT_FALLBACK 1).record 0x205 s.tsInUse [(toW (sat32 (s.tim.ofs / 2 ^ 32))).toNat]
    else s
  s.fset F.TIM_STAT_MAIN_SET (b2n s.mainSet)

/-- A timescale changes its state. -/
def State.setTsState (s : State) (n v : Nat) : State :=
  ((s.setTsc n { (s.tsc n) with track := 0, quiet := 0 }).fset (F.TIM_TS_STAT_STATE n) v |>.settleInput (13 + n)).settleMain

/-- R303: a measurement of timescale `n`. -/
def State.measured (s : State) (n : Nat) : State :=
  let s := s.setTsc n { (s.tsc n) with quiet := 0 }
  if s.tsState n = 2 ∧ ¬ s.fon (F.TIM_TS_CTRL_FORCE_HOLD n) then s.setTsState n 1 else s

/-- R303: the state of timescale `n` after a write of its CTRL register: FORCE_HOLD, and a local source's tracking. -/
def State.settleTs (s : State) (n : Nat) : State :=
  if s.tsState n = 1 ∧ s.fon (F.TIM_TS_CTRL_FORCE_HOLD n) then s.setTsState n 2
  else if s.tsState n = 2 ∧ s.tsSource n = 0 ∧ ¬ s.fon (F.TIM_TS_CTRL_FORCE_HOLD n) then s.setTsState n 1
  else s.settleMain

/-- R302, R303: timescale `n` is stepped to time `t`. -/
def State.stepTs (s : State) (n : Nat) (t : Int) : State :=
  let s := s.setTsc n { (s.tsc n) with t := (t % timeWrap).toNat }
  let s := if s.tsState n = 0 then
      (s.fset (F.TIM_TS_STAT_SET n) 1).setTsState n (if s.tsSource n = 0 then 1 else 2)
    else s.settleMain
  let s := s.timescaleStepped n
  if s.tsInUse = n then s.fireflyStep else s

/-- R302: signed ns are added to timescale `n`, as a step. -/
def State.adjustTs (s : State) (n : Nat) (ns : Int) : State :=
  let unset := decide (s.tsState n = 0)
  let s := s.stepTs n ((s.tsc n).t + ns * 2 ^ 32)
  if s.tsSource n = 2 ∧ ¬ unset then s.measured n else s

/-- R302: a new increment. -/
def State.setInc (s : State) (n : Nat) (hi : Nat) : State :=
  if hi < 19 ∨ 21 < hi then s
  else
    let s := s.setReg (A.TIM_TS_INC_HI n) (BitVec.ofNat 32 hi)
    let s := s.setTsc n { (s.tsc n) with inc := hi * 2 ^ 32 + (s.reg (A.TIM_TS_INC_LO n)).toNat }
    if s.tsSource n = 2 then s.measured n else s

/-- TS_INC_WRITE: a write of INC_HI (R302). -/
def execTsIncWrite (ts : Nat) (value : W32) (s : State) : Out :=
  .next (if s.held .clk ∨ 2 ≤ ts then s else s.setInc ts value.toNat)

/-- TS_SET_GO: a write of SET_GO (R302). -/
def execTsSetGo (ts : Nat) (value : W32) (s : State) : Out :=
  .next (if s.held .clk ∨ 2 ≤ ts ∨ ¬ bit value.toNat 0 then s
    else
      let sec := (s.reg (A.TIM_TS_SET_SLO ts)).toNat + 2 ^ 32 * s.fget ⟨A.TIM_TS_SET_SHI ts, 15, 0⟩
      s.stepTs ts (sec * secUnits + (s.reg (A.TIM_TS_SET_NS ts)).toNat * 2 ^ 32 : Nat))

/-- TS_ADJ: a write of ADJ (R302). -/
def execTsAdj (ts : Nat) (value : W32) (s : State) : Out :=
  .next (if s.held .clk ∨ 2 ≤ ts then s else s.adjustTs ts value.toInt)

/-- TS_LOSS_TIMEOUT: no measurement for TS_LOSS seconds (R303). -/
def execTsLossTimeout (ts : Nat) (s : State) : Out :=
  .next (if s.held .clk ∨ 2 ≤ ts ∨ s.tsState ts ≠ 1 ∨ (s.tsSource ts ≠ 1 ∧ s.tsSource ts ≠ 2) ∨ (s.tsc ts).quiet < s.tsLoss ts then s
    else s.setTsState ts 2)

/-- MAIN_RETURN: main time returns to MAIN once it has tracked for TS_LOSS seconds (R304). -/
def execMainReturn (s : State) : Out := .next (if s.held .clk then s else s.settleMain)

/-- R312: the firmware servo acts on an offset of timescale `n`, in units of 2^-16 ns. The increment that its law gives
is a free value within the limits of INC_HI. -/
def State.fwServo (s : State) (n : Nat) (offset : Int) : State :=
  if ¬ s.fwReady ∨ ¬ s.fon F.TIM_CTRL_FW_SERVO ∨ (s.tsSource n ≠ 1 ∧ s.tsSource n ≠ 2) then s
  else if 100000 * 2 ^ 16 < offset.natAbs then s.adjustTs n (divHalfUp offset (2 ^ 16))
  else
    let w := s.drawWord
    let h := w.2.draw 32
    (h.2.setReg (A.TIM_TS_INC_LO n) w.1).setInc n (19 + h.1 % 3)

/-! ### The passing of time -/

/-- XO cycles in a tick, in units of 2^-32 (R26, R299). -/
def State.xoPerTick (s : State) : Nat :=
  let k := if s.fget F.RST_STRAP_FAMILY = 0 then (25, 1) else (735, 32)
  25600 * k.2 * 1000000000000 * 2 ^ 32 / (k.1 * (1000000000000 + s.regInt A.CLK_DCO_WORD).toNat)

/-- R302 to R304: a tick passes on both timescales, and MAIN_OFS moves toward 0. -/
def State.passTick (s : State) : State :=
  if s.held .clk then s
  else
    let x := s.tim.xo + s.xoPerTick
    let n := x / 2 ^ 32
    let s := { s with tim := { s.tim with xo := x % 2 ^ 32 } }
    let s := forEach [0, 1] s (fun s k =>
      let y := s.tsc k
      s.setTsc k { y with t := (y.t + n * y.inc) % timeWrap, quiet := y.quiet + n, track := y.track + n, passed := y.passed + n })
    let move : Nat := n * (s.tsc s.tsInUse).inc * s.fget F.TIM_CTRL_MSLEW / 1000000000
    let o := s.tim.ofs
    let ofs : Int := if o.natAbs ≤ move then 0 else if 0 < o then o - move else o + move
    { s with tim := { s.tim with ofs := ofs } }

/-! ### SCNT (R305, R306) -/

/-- The whole second of main time nearest to the present tick's boundary. -/
def State.nearSecond (s : State) : Nat := (s.mainTime + secUnits / 2) / secUnits

/-- SCNT_ALIGN: a write of TIM_CMD with SCNT_ALIGN = 1 (R305). -/
def execScntAlign (s : State) : Out :=
  .next (if s.held .clk then s
    else if s.up .eng ∨ ¬ s.mainSet then s.fset F.TIM_STAT_ALIGN_REJ 1
    else
      let fb := s.baseHz
      let sec := s.mainTime / secUnits + 1
      let ticks := ((sec * secUnits - s.mainTime) * fb + secUnits / 2) / secUnits
      let count := sec * fb + 2 ^ 32 * 6 - ticks
      (s.setReg A.TIM_SCNT (BitVec.ofNat 32 count)).fset F.TIM_TPHASE_VALUE ((sec * fb + 6 * fb - ticks) % 6))

/-- SECOND_CHECK: the present tick is the nearest to a whole second of main time (R306). -/
def execSecondCheck (s : State) : Out :=
  let sec := s.nearSecond
  let off : Int := (s.mainTime : Int) - (sec * secUnits : Nat)
  .next (if s.held .clk ∨ ¬ s.mainSet ∨ secUnits < 2 * s.baseHz * off.natAbs ∨ s.tim.checked = some sec then s
    else
      let want := sec * s.baseHz % 2 ^ 32
      let s := { s with tim := { s.tim with checked := some sec } }
      let ok := decide (s.scnt = want)
      let s := s.fset F.TIM_STAT_TICK_ALIGNED (b2n (ok && decide (off.natAbs ≤ 1000 * 2 ^ 32)))
      if ok then s else (s.fset F.TIM_STAT_TICK_MISALIGN 1).record 0x206 0 [s.scnt, want])

/-! ### FSYNC outputs (R301) -/

/-- FSYNC output `n` beside its registers. -/
def State.fsOut (s : State) (n : Nat) : FsOut := Tbl.get s.clk.fs {} n

/-- Store FSYNC output `n`. -/
def State.setFsOut (s : State) (n : Nat) (x : FsOut) : State := { s with clk := { s.clk with fs := Tbl.set s.clk.fs {} n x } }

/-- R301: whether PERIOD suits SOURCE. -/
def fsPeriodOk (source period : Nat) : Bool :=
  if source = 1 then (List.range 16).any (fun k => decide (period = 2 ^ k))
  else if source = 0 ∨ source = 7 then true
  else decide (1 ≤ period) && decide (period ≤ 65535)

/-- PERIOD of an FSYNC output. -/
def State.fsPeriod (s : State) (n : Nat) : Nat := s.fget ⟨A.CLK_FS_PERIOD n, 15, 0⟩

/-- Spacing of an output's pulses in ECLK cycles. -/
def State.fsSpacing (s : State) (n : Nat) : Nat :=
  let src := s.fget (F.CLK_FS_CFG_SOURCE n)
  s.fsPeriod n * (if src = 1 then 25600 else if src = 6 then 25600 * s.baseHz else s.edgeSpacing (src - 2))

/-- The ECLK counter (R316). -/
def State.ecnt (s : State) : Nat := (s.reg A.TIM_ECNT_LO).toNat + 2 ^ 32 * (s.reg A.TIM_ECNT_HI).toNat

/-- The output stops, and LOST is set. -/
def State.fsStop (s : State) (n : Nat) : State :=
  let x := s.fsOut n
  ((s.setFsOut n { x with stopped := true, pulses := x.pulses.filter (fun p => decide (p.1 ≤ s.ecnt)) }).fset (F.CLK_FS_CFG_LOST n) 1).fset (F.CLK_FS_CFG_FLY n) 0

/-- R301: a write of SOURCE or PERIOD restarts the count of edges; a PERIOD that does not suit stops the output. -/
def State.fsRestart (s : State) (n : Nat) : State :=
  let s := (s.setFsOut n {}).fset (F.CLK_FS_CFG_FLY n) 0
  if fsPeriodOk (s.fget (F.CLK_FS_CFG_SOURCE n)) (s.fsPeriod n) then s else s.fsStop n

/-- R301: the next reference instant as the mean spacing of the last 16 predicts it, the newest first. -/
def predictRef (refs : List Int) : Option Int :=
  match refs with
  | newest :: _ :: _ => some (newest + divHalfUp (newest - refs.getLastD newest) (refs.length - 1))
  | _ => none

/-- R301: a reference instant at ECLK cycle `at_`. With OFFSET 0 or more the pulse follows the instant; with a negative
OFFSET it lies before the predicted one. -/
def State.fsRef (s : State) (n : Nat) (at_ : Int) : State :=
  let x := s.fsOut n
  let x := { x with refs := (at_ :: x.refs).take 16 }
  let offset := s.regInt (A.CLK_FS_OFFSET n)
  let width := min (s.fget ⟨A.CLK_FS_WIDTH n, 23, 0⟩) (s.fsSpacing n / 2)
  match if 0 ≤ offset then some at_ else predictRef x.refs with
  | some r => s.setFsOut n { x with pulses := ((r + offset, r + offset + width) :: x.pulses).take 2 }
  | none => s.setFsOut n x

/-- FSYNC_OUT_PULSE: a reference instant `cycle` ECLK cycles after this tick's boundary, or where `predicted` the
prediction of a missed edge (R301). -/
def execFsyncOutPulse (out : Nat) (cycle : Nat) (predicted : Bool) (s : State) : Out :=
  let src := s.fget (F.CLK_FS_CFG_SOURCE out)
  let per := s.fsPeriod out
  let x := s.fsOut out
  let edge := decide (2 ≤ src) && decide (src ≤ 5)
  .next (if s.held .clk ∨ 4 ≤ out ∨ src = 0 ∨ src = 7 ∨ ¬ fsPeriodOk src per then s
    else if (predicted = true ∧ (¬ edge ∨ 8 ≤ x.missed ∨ x.stopped)) ∨ (edge = true ∧ ¬ predicted ∧ ¬ s.inHere (src - 2)) then s
    else if src = 6 ∧ ¬ s.mainSet then s
    else
      let x := { x with edges := x.edges + 1, missed := if predicted then x.missed + 1 else 0, stopped := false }
      let s := s.fset (F.CLK_FS_CFG_FLY out) (b2n predicted)
      let due := if src = 1 then s.scnt % per = 0 else if src = 6 then s.nearSecond % per = 0 else x.edges % per = 0
      let s := s.setFsOut out x
      if due then s.fsRef out (s.ecnt + cycle) else s)

/-- FSYNC_OUT_LOST: eight edges in a row were missed (R301). -/
def execFsyncOutLost (out : Nat) (s : State) : Out :=
  .next (if s.held .clk ∨ 4 ≤ out ∨ (s.fsOut out).missed < 8 then s else s.fsStop out)

/-- The level at pin FSYNC_OUTn, `cycle` ECLK cycles after this tick's boundary. -/
def State.pinFsync (s : State) (n cycle : Nat) : Option Bool :=
  let x := s.fsOut n
  let now : Int := s.ecnt + cycle
  let active := x.pulses.any (fun p => decide (p.1 ≤ now) && decide (now < p.2))
  s.drivesPin (some (s.up .clk && (active != s.fon (F.CLK_FS_CFG_POL n))))

/-- The level at pin FIREFLYn at main time `t` (units of 2^-32 ns). -/
def State.pinFirefly (s : State) (n t : Nat) : Option Bool :=
  let x := s.firefly n
  let active := decide (x.start * 2 ^ 32 ≤ t) && decide (t < x.stop * 2 ^ 32)
  s.drivesPin (some (s.up .clk && (active != s.fon (F.TIM_FF_CTRL_POL n))))

end Sys2Proof.Machine
end

