-- ==== Sys2Proof/Machine/LinkState.lean ====
section
/-! DEFINITION. The link state of a Thetex-mode lane and port (R255, R271, R275), and the errors kept by lane (R342). -/

namespace Sys2Proof.Machine

open Sys2Proof.Arith

/-- The link side of lane `l`. -/
def State.linkLane (s : State) (l : Nat) : LinkLane := Tbl.get s.link.lanes {} l

/-- Store the link side of lane `l`. -/
def State.setLinkLane (s : State) (l : Nat) (x : LinkLane) : State :=
  { s with link := { s.link with lanes := Tbl.set s.link.lanes {} l x } }

/-- The link side of port `p`. -/
def State.linkPort (s : State) (p : Nat) : LinkPort := Tbl.get s.link.ports {} p

/-- Store the link side of port `p`. -/
def State.setLinkPort (s : State) (p : Nat) (x : LinkPort) : State :=
  { s with link := { s.link with ports := Tbl.set s.link.ports {} p x } }

/-- Whether lane port `p` is in Thetex mode. -/
def State.thetex (s : State) (p : Nat) : Bool := decide (s.fget (F.LNP_PORT_CFG_MODE p) = 0)

/-- Role of a lane port: 0 local, 1 EAST, 2 WEST, 3 GATEWAY (R253). -/
def State.portRole (s : State) (p : Nat) : Nat := bits (s.fget F.LNK_PORTMAP_ROLE) (2 * p + 1) (2 * p)

/-- Whether gateway port `p` is inter-district. -/
def State.interDistrict (s : State) (p : Nat) : Bool := decide (s.portRole p = 3) && bit (s.fget F.LNK_PORTMAP_INTER) p

/-- The ring port of a role, where there is one. -/
def State.rolePort (s : State) (role : Nat) : Option Nat := [0, 1, 2, 3].find? (fun p => decide (s.portRole p = role))

/-- STATE of a lane's link: 0 IDLE, 1 CHECK, 2 UP, 3 CROSSED. -/
def State.linkSt (s : State) (l : Nat) : Nat := s.fget (F.LNK_LANE_STAT_STATE l)

/-- A port is UP while one of its lanes is. -/
def State.portUp (s : State) (p : Nat) : Bool := decide (s.linkSt (2 * p) = 2) || decide (s.linkSt (2 * p + 1) = 2)

/-- A port is degraded while exactly one of its lanes is UP. -/
def State.portDegraded (s : State) (p : Nat) : Bool := decide (s.linkSt (2 * p) = 2) != decide (s.linkSt (2 * p + 1) = 2)

/-- This device's address (R255). -/
def State.ownAddr (s : State) : Nat := s.fget F.LNK_ADDR_ADDR

/-- Whether the address is usable. -/
def State.assigned (s : State) : Bool := s.up .lnk && s.fon F.LNK_ADDR_VALID

/-- R275: the receiving side of port `p` enters UP. -/
def State.portEntersUp (s : State) (p : Nat) : State :=
  s.setLinkPort p { (s.linkPort p) with grant := 256, held := 0, seqs := [] }

/-- R275: port `p` leaves UP: the sections its buffer holds are discarded. -/
def State.portLeavesUp (s : State) (p : Nat) : State :=
  let mine := fun (i : BulkItem) => decide (i.buf = some p)
  let n := ((List.range 4).map (fun q => ((s.linkPort q).bulk.filter mine).length)).sum
  let waiting := fun (t : Taken) => decide (t.port = p) && decide (t.sect.type = 6)
  let k := (s.link.inbox.filter waiting).length
  let s := forEach (List.range 4) s (fun s q =>
    s.setLinkPort q { (s.linkPort q) with bulk := (s.linkPort q).bulk.filter (fun i => !mine i) })
  let s := { s with link := { s.link with inbox := s.link.inbox.filter (fun t => !waiting t) } }
  (s.setLinkPort p { (s.linkPort p) with held := 0 }).count ⟨A.LNK_PORT_BULK_DISC p, 31, 0⟩ (n + k)

/-- A lane's link enters state `v`. -/
def State.setLinkSt (s : State) (l v : Nat) : State :=
  let p := l / 2
  let was := s.portUp p
  let s := (s.fset (F.LNK_LANE_STAT_STATE l) v).fset (F.LNK_LANE_STAT_CROSSED l) (b2n (decide (v = 3)))
  let x := s.linkLane l
  let keep := if v = 0 then [] else x.waiting
  let s := s.setLinkLane l { x with frames := 0, src := none, miss := 0, hdr := none, drop := false, nth := 0, waiting := keep }
  if s.portUp p ∧ ¬ was then s.portEntersUp p else if was ∧ ¬ s.portUp p then s.portLeavesUp p else s

/-- LINK_LOST of a lane, with its event. -/
def State.linkLost (s : State) (l : Nat) : State :=
  let s := s.fset (F.LNK_LANE_STAT_LINK_LOST l) 1
  s.record 0x501 l [(s.reg (A.LNK_LANE_STAT l)).toNat]

/-- Whether PEER_VALID shows a peer lane of another parity. -/
def State.crossedPeer (s : State) (l : Nat) : Bool :=
  s.fon (F.LNP_STAT_PEER_VALID l) && decide (s.fget (F.LNP_PEER_LANE l) % 2 ≠ l % 2)

/-- One transition of R271 that the lane's own state causes. -/
def State.stepLink (s : State) (l : Nat) : State :=
  let up := s.up .lnk && s.fon (F.LNP_STAT_LANE_UP l) && s.thetex (l / 2)
  match s.linkSt l with
  | 0 => if up then s.setLinkSt l 1 else s
  | 1 => if ¬ up then s.setLinkSt l 0 else if s.crossedPeer l then s.setLinkSt l 3 else s
  | 2 => if ¬ up then (s.setLinkSt l 0).linkLost l else s
  | _ => if ¬ up then s.setLinkSt l 0
         else if s.fon (F.LNP_STAT_PEER_VALID l) ∧ ¬ s.crossedPeer l then s.setLinkSt l 1 else s

/-- The link of lane `l` follows the lane's state. -/
def State.settleLink (s : State) (l : Nat) : State := (s.stepLink l).stepLink l

/-- R271: LNP_PEER or SRC of an UP lane has changed. -/
def State.peerChanged (s : State) (l : Nat) : State :=
  if s.linkSt l = 2 then (s.setLinkSt l 1).fset (F.LNK_LANE_STAT_PEER_CHANGED l) 1 else s

/-- R255: an address is received on lane `l` from another device; the device's own is a conflict. -/
def State.seeAddress (s : State) (l addr : Nat) : State :=
  if s.assigned ∧ addr = s.ownAddr then
    let fresh := ¬ s.fon F.LNK_ADDR_CONFLICT
    let s := s.fset F.LNK_ADDR_CONFLICT 1
    if fresh then s.record 0x503 l [addr] else s
  else s

/-- R342: an error on lane `l`: 0 a section copy, 1 a frame header, 2 an AB mismatch, 3 a block header. -/
def State.laneError (s : State) (l kind : Nat) : State :=
  let x := s.linkLane l
  let errs := setAt x.errs kind (x.errs.getD kind 0 + 1)
  if x.gather then s.setLinkLane l { x with errs := errs }
  else (s.setLinkLane l { x with errs := [0, 0, 0, 0], gather := true }).record 0x504 l errs

/-- LANE_ERRORS_SUMMARY: 60 s of gathering end (R342). -/
def execLaneErrorsSummary (lane : Nat) (s : State) : Out :=
  let x := s.linkLane lane
  .next (if s.held .lnk ∨ 8 ≤ lane ∨ ¬ x.gather then s
    else
      let s := s.setLinkLane lane { x with errs := [0, 0, 0, 0], gather := false }
      if x.errs.all (fun e => decide (e = 0)) then s else s.record 0x504 lane x.errs)

/-- LINK_LOST: four consecutive ticks without an accepted frame (R271). -/
def execLinkLost (lane : Nat) (s : State) : Out :=
  .next (if s.held .lnk ∨ 8 ≤ lane ∨ s.linkSt lane ≠ 2 ∨ (s.linkLane lane).miss < 4 then s
    else (s.setLinkSt lane 1).linkLost lane)

end Sys2Proof.Machine
end

