-- ==== Sys2Proof/Machine/Lanes.lean ====
section
/-! DEFINITION. Serial lanes: block lock, HI_BER, bring-up, equalisation, loopbacks, patterns (R229 to R244, R250). -/

namespace Sys2Proof.Machine

open Sys2Proof.Arith

/-- Lane `l` beside its registers. -/
def State.lane (s : State) (l : Nat) : LaneSt := Tbl.get s.lanes {} l

/-- Store lane `l`. -/
def State.setLane (s : State) (l : Nat) (x : LaneSt) : State := { s with lanes := Tbl.set s.lanes {} l x }

/-- BLK_STATE of a lane: 0 DOWN, 1 HUNT, 2 LOCKED. -/
def State.blkState (s : State) (l : Nat) : Nat := s.fget (F.LNP_STAT_BLK_STATE l)

/-- R239: whether a lane's transmitter sends blocks. -/
def State.transmits (s : State) (l : Nat) : Bool :=
  s.up .lnk && s.fon (F.LNP_PORT_CFG_ENABLE (l / 2)) && !s.fon (F.LNP_CTRL_TX_OFF l)

/-- R238: whether a lane is LANE_UP. -/
def State.laneShouldBeUp (s : State) (l : Nat) : Bool :=
  s.up .lnk && decide (s.blkState l = 2) && !s.fon (F.LNP_STAT_HI_BER l) && s.fon (F.LNP_STAT_ADAPT_DONE l) &&
    decide (s.fget (F.LNP_CTRL_LOOP l) = 0) && !s.fon (F.LNP_TEST_TX_GEN l) && !s.fon (F.LNP_TEST_RX_CHK l)

/-- LANE_UP, the reference input and the link follow the lane. -/
def State.settleLane (s : State) (l : Nat) : State :=
  let s := s.fset (F.LNP_STAT_LANE_UP l) (b2n (s.laneShouldBeUp l))
  (s.settleInput (5 + l)).settleLink l

/-- A lane leaves its state for `st` (0 DOWN, 1 HUNT); `loss` tells that leaving LOCKED is a lock loss (R233, R236,
R237). -/
def State.unlock (s : State) (l st : Nat) (loss : Bool) : State :=
  let x := s.lane l
  let was := s.blkState l
  let s := s.setLane l { x with good := 0, win := 0, winBad := 0, age := 0, bad := [], open_ := false, ident := none, blk := none }
  let s := ((s.fset (F.LNP_STAT_BLK_STATE l) st).fset (F.LNP_STAT_HI_BER l) 0).fset (F.LNP_STAT_PEER_VALID l) 0
  if was = 2 ∧ loss then (s.fset (F.LNP_STAT_LOCK_LOST l) 1).bump (A.LNP_LOCK_LOSS l) else s

/-- LANE_SIGNAL_CHANGE: SIG_DET or CDR lock changes (R236, R239). -/
def execLaneSignalChange (lane : Nat) (sig cdr : Bool) (s : State) : Out :=
  .next (if s.held .lnk ∨ 8 ≤ lane then s
    else
      let s := (s.fset (F.LNP_STAT_SIG_DET lane) (b2n sig)).fset (F.LNP_STAT_CDR_LOCK lane) (b2n cdr)
      let s := if sig ∧ cdr then (if s.blkState lane = 0 then s.unlock lane 1 false else s)
        else if s.blkState lane ≠ 0 then s.unlock lane 0 true else s
      s.settleLane lane)

/-! ### Blocks (R231 to R233) -/

/-- R231: one bit through the self-synchronising descrambler: the bit out, and the last 58 bits received. -/
def descrambleBit (scr : Nat) (b : Bool) : Bool × Nat :=
  (b != (bit scr 38 != bit scr 57), (scr * 2 + b2n b) % 2 ^ 58)

/-- R231: a payload of 64 bits through the descrambler, bit 0 first. -/
def descramble (scr payload : Nat) : Nat × Nat :=
  (List.range 64).foldl (fun acc i =>
    let r := descrambleBit acc.2 (bit payload i)
    (acc.1 + b2n r.1 * 2 ^ i, r.2)) (0, scr)

/-- R231: a payload of 64 bits through the scrambler, bit 0 first. -/
def scramble (scr payload : Nat) : Nat × Nat :=
  (List.range 64).foldl (fun acc i =>
    let b := bit payload i != (bit acc.2 38 != bit acc.2 57)
    (acc.1 + b2n b * 2 ^ i, (acc.2 * 2 + b2n b) % 2 ^ 58)) (0, scr)

/-- Control block types that end a frame. -/
def terminateTypes : List Nat := [0x87, 0x99, 0xAA, 0xB4, 0xCC, 0xD2, 0xE1, 0xFF]

/-- R232: whether a block is accepted: `ctl` for a control block, `open_` for a frame that is open. -/
def lineBlockOk (ethernet ctl open_ : Bool) (payload : Nat) : Bool :=
  let t := payload % 256
  if ¬ ctl then open_
  else if ethernet then ([0x1E, 0x2D, 0x33, 0x66, 0x55, 0x78, 0x4B] ++ terminateTypes).contains t
  else ([0x1E, 0x78] ++ terminateTypes).contains t || (decide (t = 0x4B) && decide (bits payload 35 32 = 5))

/-- R232: whether a frame is open after a block; the starts of 33h and 66h are Ethernet's alone. -/
def frameOpen (ethernet ctl was : Bool) (payload : Nat) : Bool :=
  let t := payload % 256
  if ¬ ctl then was
  else decide (t = 0x78) || (ethernet && (decide (t = 0x33) || decide (t = 0x66)))

/-- R233: the 24 bits of a lane-identification block. -/
def identBits (ethernet ctl : Bool) (payload : Nat) : Option Nat :=
  if ¬ ethernet ∧ ctl ∧ payload % 256 = 0x4B ∧ bits payload 35 32 = 5 then some (bits payload 31 8) else none

/-- R242: whether a lane receives what it sends itself. -/
def State.loopsBack (s : State) (l : Nat) : Bool := decide (s.fget (F.LNP_CTRL_LOOP l) = 1) || decide (s.fget (F.LNP_CTRL_LOOP l) = 2)

/-- R233, R255: a lane-identification block with 24 bits `v` is received; the device's own, looped back, is no conflict. -/
def State.seeIdent (s : State) (l v : Nat) : State :=
  let x := s.lane l
  let s := s.setLane l { x with ident := some v }
  let s := if s.loopsBack l then s else s.seeAddress l (v % 2 ^ 14)
  if x.ident ≠ some v then s
  else
    let w := BitVec.ofNat 32 (v % 2 ^ 17)
    let changed := s.fon (F.LNP_STAT_PEER_VALID l) ∧ s.reg (A.LNP_PEER l) ≠ w
    let s := (s.setReg (A.LNP_PEER l) w).fset (F.LNP_STAT_PEER_VALID l) 1
    let s := if changed then s.peerChanged l else s
    s.settleLink l

/-- R237: whether 16 invalid headers lie within the last 19,531 blocks. -/
def LaneSt.hiBer (x : LaneSt) : Bool :=
  match x.bad[15]? with
  | none => false
  | some a => decide (x.age - a < 19531)

/-- A 48-bit counter in a LO and a HI register (R244). -/
def State.count48 (s : State) (lo hi n : Nat) : State :=
  let v := (s.reg lo).toNat + 2 ^ 32 * bits (s.reg hi).toNat 15 0 + n
  (s.setReg lo (BitVec.ofNat 32 v)).setReg hi (BitVec.ofNat 32 (v / 2 ^ 32 % 2 ^ 16))

/-- A block that a LOCKED lane delivers (R232, R237). -/
def State.deliverBlock (s : State) (l : Nat) (valid : Bool) (hdr payload : Nat) : State :=
  let x := s.lane l
  let eth := !s.thetex (l / 2)
  let ctl := decide (hdr = 2)
  let ok := valid && lineBlockOk eth ctl x.open_ payload
  let s := if valid ∧ ¬ ok then s.bump (A.LNP_BLK_ERR l) else s
  let marked := !ok || s.fon (F.LNP_STAT_HI_BER l)
  let s := s.setLane l { x with blk := some (marked, hdr, payload), open_ := if valid then frameOpen eth ctl x.open_ payload else x.open_ }
  match identBits eth ctl payload with
  | some v => if marked then s else s.seeIdent l v
  | none => s

/-- The candidate block boundary moves one bit later (R236). -/
def State.slip (s : State) (l : Nat) : State := s.setLane l { (s.lane l) with slips := ((s.lane l).slips + 1) % 66 }

/-- R243: the places in the last bits received, newest first, whose sum is the next bit of a pattern, and how many bits make up
its state: PRBS9 is x^9 + x^5 + 1, PRBS31 is x^31 + x^28 + 1. -/
def prbsTaps (pattern : Nat) : Nat × Nat × Nat := if pattern = 1 then (8, 4, 9) else (30, 27, 31)

/-- The next bit of a pattern from its state. -/
def prbsNext (pattern st : Nat) : Bool := let t := prbsTaps pattern; bit st t.1 != bit st t.2.1

/-- A bit enters a pattern's state. -/
def prbsShift (pattern st : Nat) (b : Bool) : Nat := (st * 2 + b2n b) % 2 ^ (prbsTaps pattern).2.2

/-- Bit `i` of a 66-bit word on the line: the header, then the payload, each from bit 0 up (R231). -/
def lineBit (w : Nat × Nat) (i : Nat) : Bool := if i < 2 then bit w.1 i else bit w.2 (i - 2)

/-- R243: the 66 bits of a word through a synchronised checker: its state and the bit errors. -/
def checkWord (pattern st : Nat) (w : Nat × Nat) : Nat × Nat :=
  (List.range 66).foldl (fun acc i =>
    let p := prbsNext pattern acc.1
    (prbsShift pattern acc.1 p, acc.2 + b2n (p != lineBit w i))) (st, 0)

/-- R243: a word of raw bits reaches the checker. -/
def State.checkLine (s : State) (l : Nat) (w : Nat × Nat) : State :=
  if ¬ s.fon (F.LNP_TEST_RX_CHK l) ∨ ¬ s.fon (F.LNP_TEST_CHK_SYNC l) then s
  else
    let r := checkWord (s.fget (F.LNP_TEST_PATTERN l)) (s.lane l).chk w
    (s.setLane l { (s.lane l) with chk := r.1 }).count ⟨A.LNP_PRBS_ERR l, 31, 0⟩ r.2

/-- The 66 bits that begin at the candidate block boundary reach a receiver with its signal and clock (R231 to R233, R236,
R237, R243). -/
def State.blockIn (s : State) (lane h w : Nat) : State :=
    if ¬ s.fon (F.LNP_STAT_SIG_DET lane) ∨ ¬ s.fon (F.LNP_STAT_CDR_LOCK lane) then s
    else
      let s := s.checkLine lane (h, w)
      let s := if s.blkState lane = 0 then s.unlock lane 1 false else s
      let valid := decide (h = 1) || decide (h = 2)
      let x := s.lane lane
      let d := descramble x.rxScr w
      let x := { x with rxScr := d.2, rxBits := min 58 (x.rxBits + 64) }
      let s := if valid then s else (s.bump (A.LNP_HDR_ERR lane)).laneError lane 3
      if s.blkState lane = 1 then
        let good := if valid then x.good + 1 else 0
        let s := s.setLane lane { x with good := if good = 64 then 0 else good }
        let s := if valid then s else s.slip lane
        if good = 64 then (s.fset (F.LNP_STAT_BLK_STATE lane) 2).settleLane lane else s
      else
        let s := s.count48 (A.LNP_RXBLK_LO lane) (A.LNP_RXBLK_HI lane) 1
        let winBad := if valid then x.winBad else x.winBad + 1
        if winBad = 16 then (((s.setLane lane x).unlock lane 1 true).slip lane).settleLane lane
        else
          let age := x.age + 1
          let x := { x with win := if x.win = 63 then 0 else x.win + 1, winBad := if x.win = 63 then 0 else winBad,
                            age := age, bad := if valid then x.bad else (age :: x.bad).take 16 }
          let was := s.fon (F.LNP_STAT_HI_BER lane)
          let s := s.setLane lane x
          let s := if x.hiBer ∧ ¬ was then
              ((s.fset (F.LNP_STAT_HI_BER lane) 1).fset (F.LNP_STAT_HI_BER_SEEN lane) 1).bump (A.LNP_HIBER_CNT lane)
            else if was ∧ ¬ x.hiBer then s.fset (F.LNP_STAT_HI_BER lane) 0 else s
          (s.settleLane lane).deliverBlock lane valid h d.1

/-- A 66-bit word with both of its wires exchanged (POL_RX, POL_TX). -/
def invertWord (on : Bool) (w : Nat × Nat) : Nat × Nat := if on then (3 - w.1 % 4, 2 ^ 64 - 1 - w.2 % 2 ^ 64) else w

/-- BLOCK_RECEIVED: the 66 bits that begin at the candidate block boundary arrive at the receive pins (R231 to R233, R236, R237,
R242, R243). Under LOOP 1 and 2 the receiver hears its own lane; under LOOP 3 the bits go out again. -/
def execBlockReceived (lane : Nat) (hdr : BitVec 2) (payload : W64) (s : State) : Out :=
  .next (if s.held .lnk ∨ 8 ≤ lane ∨ s.loopsBack lane then s
    else
      let s := if s.fget (F.LNP_CTRL_LOOP lane) = 3 then
          s.setLane lane { (s.lane lane) with echo := (s.lane lane).echo ++ [(hdr.toNat, payload.toNat)] }
        else s
      let w := invertWord (s.fon (F.LNP_CTRL_POL_RX lane)) (hdr.toNat, payload.toNat)
      s.blockIn lane w.1 w.2)

/-! ### Bring-up and equalisation (R239 to R241) -/

/-- The receiver restarts adaptation from its reset values. -/
def State.restartAdapt (s : State) (l : Nat) : State :=
  if s.fon (F.LNP_CTRL_RX_FIXED l) then s.fset (F.LNP_STAT_ADAPT_DONE l) 1
  else (s.setReg (A.LNP_RXEQ l) (resetWord (A.LNP_RXEQ l))).fset (F.LNP_STAT_ADAPT_DONE l) 0

/-- ADAPT_DONE: equalisation has converged, or has followed a slow change, on settings that the rules do not give: free values
(R241). -/
def execAdaptDone (lane : Nat) (s : State) : Out :=
  .next (if s.held .lnk ∨ 8 ≤ lane ∨ ¬ s.fon (F.LNP_STAT_SIG_DET lane) ∨ s.fon (F.LNP_CTRL_RX_FIXED lane) then s
    else
      let w := s.draw 10
      ((w.2.setReg (A.LNP_RXEQ lane) (BitVec.ofNat 32 w.1)).fset (F.LNP_STAT_ADAPT_DONE lane) 1).settleLane lane)

/-- BRINGUP_FAIL: 20 ms without LANE_UP while SIG_DET is true (R239). -/
def execBringupFail (lane : Nat) (s : State) : Out :=
  .next (if s.held .lnk ∨ 8 ≤ lane ∨ ¬ s.fon (F.LNP_STAT_SIG_DET lane) ∨ s.fon (F.LNP_STAT_LANE_UP lane) then s
    else (((s.fset (F.LNP_STAT_BRINGUP_FAIL lane) 1).restartAdapt lane).unlock lane 0 false).settleLane lane)

/-- LANE_RESTART: RESTART written 1 (R236, R252). -/
def execLaneRestart (lane : Nat) (s : State) : Out :=
  .next (if s.held .lnk ∨ 8 ≤ lane then s else ((s.restartAdapt lane).unlock lane 0 false).settleLane lane)

/-- LANE_CTRL_WRITE: a write of LNP_CTRL (R236, R239, R241, R242). -/
def execLaneCtrlWrite (lane : Nat) (value : W32) (s : State) : Out :=
  .next (if s.held .lnk ∨ 8 ≤ lane then s
    else
      let loop := s.fget (F.LNP_CTRL_LOOP lane)
      let fixed := s.fon (F.LNP_CTRL_RX_FIXED lane)
      let s := s.writePlain (A.LNP_CTRL lane) value
      let s := if s.fon (F.LNP_CTRL_RX_FIXED lane) ≠ fixed then s.fset (F.LNP_STAT_ADAPT_DONE lane) (b2n (!fixed)) else s
      let restart := bit value.toNat 8
      let s := if restart then s.restartAdapt lane else s
      let s := if restart ∨ s.fget (F.LNP_CTRL_LOOP lane) ≠ loop then s.unlock lane 0 false else s
      s.settleLane lane)

/-- TXEQ_WRITE: a write of LNP_TXEQ (R240). -/
def execTxeqWrite (lane : Nat) (value : W32) (s : State) : Out :=
  let v := value.toNat
  let main := bits v 17 12
  let pre := bits v 11 8
  let post := bits v 4 0
  .next (if s.held .lnk ∨ 8 ≤ lane then s
    else if 63 < pre + main + post ∨ main < pre + post then s.fset (F.LNP_STAT_EQ_REJ lane) 1
    else s.writePlain (A.LNP_TXEQ lane) value)

/-- RXEQ_WRITE: a write of LNP_RXEQ, which applies while RX_FIXED is 1 (R241). -/
def execRxeqWrite (lane : Nat) (value : W32) (s : State) : Out :=
  .next (if s.held .lnk ∨ 8 ≤ lane ∨ ¬ s.fon (F.LNP_CTRL_RX_FIXED lane) then s else s.writePlain (A.LNP_RXEQ lane) value)

/-! ### Patterns and modes (R230, R243) -/

/-- PRBS_TEST_WRITE: a write of LNP_TEST (R236, R243). A generator starts at a point of its pattern that the rules do not give
(free), and a checker that is switched or given another pattern loses its place. -/
def execPrbsTestWrite (lane : Nat) (value : W32) (s : State) : Out :=
  .next (if s.held .lnk ∨ 8 ≤ lane then s
    else
      let old := bits (s.reg (A.LNP_TEST lane)).toNat 3 2
      let before := s.reg (A.LNP_TEST lane)
      let s := s.writePlain (A.LNP_TEST lane) value
      let pat := s.fget (F.LNP_TEST_PATTERN lane)
      let changed := bits before.toNat 1 0 ≠ pat
      let s := if s.fon (F.LNP_TEST_RX_CHK lane) ≠ bit before.toNat 3 ∨ changed then s.fset (F.LNP_TEST_CHK_SYNC lane) 0 else s
      let s := if s.fon (F.LNP_TEST_TX_GEN lane) ∧ (¬ bit before.toNat 2 ∨ changed) then
          let d := s.draw 31
          let gen := if pat = 3 then d.1 % 16 else d.1 % (2 ^ (prbsTaps pat).2.2 - 1) + 1
          d.2.setLane lane { (d.2.lane lane) with gen := gen }
        else s
      if bits (s.reg (A.LNP_TEST lane)).toNat 3 2 = old then s else (s.unlock lane 0 false).settleLane lane)

/-- CHK_SYNC: the checker has synchronised to a PRBS pattern: the last bits received, `seed`, newest first, are its place in it;
from then on it counts bit errors (R243). The square wave is for the generator only. -/
def execChkSync (lane seed : Nat) (s : State) : Out :=
  let pat := s.fget (F.LNP_TEST_PATTERN lane)
  let st := seed % 2 ^ (prbsTaps pat).2.2
  .next (if s.held .lnk ∨ 8 ≤ lane ∨ ¬ s.fon (F.LNP_TEST_RX_CHK lane) ∨ (pat ≠ 1 ∧ pat ≠ 2) ∨ st = 0 then s
    else (s.setLane lane { (s.lane lane) with chk := st }).fset (F.LNP_TEST_CHK_SYNC lane) 1)

/-- PORT_MODE_WRITE: a write of LNP_PORTp_CFG (R230, R250). -/
def execPortModeWrite (port : Nat) (value : W32) (s : State) : Out :=
  .next (if s.held .lnk ∨ 4 ≤ port then s
    else if s.fon (F.LNP_PORT_CFG_ENABLE port) ∧ bits value.toNat 1 1 ≠ s.fget (F.LNP_PORT_CFG_MODE port) then
      s.fset (F.LNP_PORT_STAT_CFG_REJ port) 1
    else
      let s := s.writePlain (A.LNP_PORT_CFG port) value
      let s := if s.fon (F.LNP_PORT_CFG_ENABLE port) then s else s.setLinkPort port { (s.linkPort port) with out := none }
      let cut := fun (s : State) (l : Nat) => if s.transmits l then s else s.setLane l { (s.lane l) with txq := [], line := [] }
      let s := cut (cut s (2 * port)) (2 * port + 1)
      ((s.settleLane (2 * port)).settleLane (2 * port + 1)).refreshPpm)

/-- Blocks of one tick, as numerator and denominator: 3,255 5/24 in the 48 kHz family, 3,543 37/441 in the other (R244, R256). -/
def State.blocksPerTick (s : State) : Nat × Nat := if s.fget F.RST_STRAP_FAMILY = 0 then (78125, 24) else (1562500, 441)

/-! ### What a lane sends (R231 to R233, R239, R242 to R244, R256) -/

/-- Bytes from a block's second byte up. -/
def blockBytes (bs : List Nat) : Nat := leNat (0 :: bs)

/-- An idle block. PRESUMED: the layout of clause 49's control blocks (log entry 24). -/
def idleBlock : Nat × Nat := (2, 0x1E)

/-- The terminate block that holds the last `bs`, 0 to 7 bytes. -/
def terminateBlock (bs : List Nat) : Nat × Nat := (2, terminateTypes.getD bs.length 0xFF + blockBytes bs)

/-- The lane-identification block of lane `l` (R233). -/
def State.identBlock (s : State) (l : Nat) : Nat × Nat := (2, 0x4B + (s.ownAddr + l * 2 ^ 14) * 2 ^ 8 + 5 * 2 ^ 32)

/-- R256: the blocks of a frame: its first 7 bytes in the start block, its last 0 to 7 in the terminate block. -/
def frameBlocks (bs : List Nat) : List (Nat × Nat) :=
  let rest := bs.drop 7
  let n := rest.length / 8
  (2, 0x78 + blockBytes (bs.take 7)) :: (List.range n).map (fun k => (1, leNat ((rest.drop (8 * k)).take 8))) ++
    [terminateBlock (rest.drop (8 * n))]

/-- The blocks of an Ethernet frame with its FCS: preamble and delimiter ride in the start block, and idle blocks make the gap
after it. PRESUMED: the framing of clauses 4 and 46 (log entry 24). -/
def etherBlocks (bs : List Nat) : List (Nat × Nat) :=
  frameBlocks (List.replicate 6 0x55 ++ [0xD5] ++ bs) ++ List.replicate (if bs.length % 8 ≤ 4 then 1 else 2) idleBlock

/-- Blocks wait for the line of a lane that transmits. -/
def State.queueBlocks (s : State) (l : Nat) (bs : List (Nat × Nat)) : State :=
  if s.transmits l then s.setLane l { (s.lane l) with txq := (s.lane l).txq ++ bs } else s

/-- Blocks through the scrambler: what goes on the line, and its state. -/
def scrambleBlocks (scr : Nat) (l : List (Nat × Nat)) : List (Nat × Nat) × Nat :=
  l.foldl (fun acc b => let r := scramble acc.2 b.2; (acc.1 ++ [(b.1, r.1)], r.2)) ([], scr)

/-- R243: one bit of the generator. -/
def genBit (pattern st : Nat) : Bool × Nat :=
  if pattern = 3 then (decide (st % 16 < 8), (st + 1) % 16)
  else let b := prbsNext pattern st; (b, prbsShift pattern st b)

/-- A 66-bit word of the generator. -/
def genWord (pattern st : Nat) : (Nat × Nat) × Nat :=
  let r := (List.range 66).foldl (fun (acc : Nat × Nat) i => let b := genBit pattern acc.2; (acc.1 + b2n b.1 * 2 ^ i, b.2)) (0, st)
  ((r.1 % 4, r.1 / 4), r.2)

/-- `n` words of the generator. -/
def genWords (pattern st n : Nat) : List (Nat × Nat) × Nat :=
  (List.range n).foldl (fun acc _ => let w := genWord pattern acc.2; (acc.1 ++ [w.1], w.2)) ([], st)

/-- What lane `l` puts on the line in a tick of `n` blocks (R231, R239, R242, R243): the received words under LOOP 3; a pattern,
bits that the rules do not give where PATTERN names none; else the blocks that wait and then idle blocks, scrambled. -/
def State.sendLine (s : State) (l n : Nat) : State :=
  let x := s.lane l
  if s.fget (F.LNP_CTRL_LOOP l) = 3 then s.setLane l { x with line := x.echo, echo := [] }
  else if s.fon (F.LNP_TEST_TX_GEN l) then
    let pat := s.fget (F.LNP_TEST_PATTERN l)
    if pat = 0 then
      let ws := (List.range n).map (fun i => (Config.free (s.freeCtr + 2 * i) % 4, Config.free (s.freeCtr + 2 * i + 1) % 2 ^ 64))
      { s with freeCtr := s.freeCtr + 2 * n }.setLane l { x with line := ws, txq := x.txq.drop n }
    else
      let r := genWords pat x.gen n
      s.setLane l { x with line := r.1, gen := r.2, txq := x.txq.drop n }
  else
    let r := scrambleBlocks x.txScr ((x.txq ++ List.replicate n idleBlock).take n)
    (s.setLane l { x with line := r.1, txScr := r.2, txq := x.txq.drop n }).count48 (A.LNP_TXBLK_LO l) (A.LNP_TXBLK_HI l) n

/-- R239, R242, R244: the blocks that a tick's time transmits, and what a loopback takes of them; a lane that does not transmit
is in electrical idle. LOOP 1 carries blocks only, LOOP 2 whatever is on the line. -/
def State.txBlocks (s : State) (l : Nat) : State :=
  let x := s.lane l
  if ¬ s.transmits l then (if x.line = [] ∧ x.txq = [] then s else s.setLane l { x with line := [], txq := [] })
  else
    let r := s.blocksPerTick
    let n := x.txRem + r.1
    let s := (s.setLane l { x with txRem := n % r.2 }).sendLine l (n / r.2)
    let loop := s.fget (F.LNP_CTRL_LOOP l)
    if loop = 2 ∨ (loop = 1 ∧ ¬ s.fon (F.LNP_TEST_TX_GEN l)) then forEach (s.lane l).line s (fun s w => s.blockIn l w.1 w.2) else s

/-- The words on lane `l`'s transmit pins in the last tick: none is electrical idle (R239, R252). -/
def State.lanePins (s : State) (l : Nat) : Option (List (Nat × Nat)) :=
  if s.transmits l ∧ ¬ s.pinsCut then some ((s.lane l).line.map (invertWord (s.fon (F.LNP_CTRL_POL_TX l)))) else none

end Sys2Proof.Machine
end

