-- ==== Sys2Proof/Machine/Rtp.lean ====
section
/-! DEFINITION. RTP audio streams (R246 to R249, R307). -/

namespace Sys2Proof.Machine

open Sys2Proof.Arith

/-- Receive stream `i` beside its registers. -/
def State.rxStream (s : State) (i : Nat) : RtpRx := Tbl.get s.rtpRx {} i

/-- Store receive stream `i`. -/
def State.setRxStream (s : State) (i : Nat) (x : RtpRx) : State := { s with rtpRx := Tbl.set s.rtpRx {} i x }

/-- Transmit stream `i` beside its registers. -/
def State.txStream (s : State) (i : Nat) : RtpTx := Tbl.get s.rtpTx {} i

/-- Store transmit stream `i`. -/
def State.setTxStream (s : State) (i : Nat) (x : RtpTx) : State := { s with rtpTx := Tbl.set s.rtpTx {} i x }

/-- Samples of a stream in a tick: 1 at Fb, 2 at 2·Fb. -/
def State.rxM (s : State) (i : Nat) : Nat := s.fget (F.RTP_RX_W0_RATE i) + 1

/-- Samples of a transmit stream in a tick. -/
def State.txM (s : State) (i : Nat) : Nat := s.fget (F.RTP_TX_W0_RATE i) + 1

/-! ### Samples (R246) -/

/-- Bytes of a sample. -/
def rtpBytes (format : Nat) : Nat := if format = 0 then 3 else 4

/-- A big-endian number. -/
def beNat (l : List Nat) : Nat := l.foldl (fun a b => a * 256 + b % 256) 0

/-- `n` big-endian bytes of a number. -/
def beBytes (n v : Nat) : List Nat := (leBytes n v).reverse

/-- A received word to A32. -/
def rtpToA32 (format : Nat) (bs : List Nat) : Int :=
  (BitVec.ofNat 32 (if format = 0 then beNat bs * 256 else beNat bs)).toInt

/-- An A32 sample to the bytes of a word. -/
def rtpFromA32 (format : Nat) (x : Int) : List Nat :=
  if format = 0 then beBytes 3 (BitVec.ofInt 24 (satN 24 (rnd x 8))).toNat else beBytes 4 (toW x).toNat

/-- A payload's frames of `n` channels. -/
def rtpFrames (format n : Nat) (payload : List Nat) : List (List Int) :=
  let w := rtpBytes format
  (List.range (payload.length / (w * n))).map (fun k =>
    (List.range n).map (fun c => rtpToA32 format ((payload.drop ((k * n + c) * w)).take w)))

/-! ### Receiving (R247) -/

/-- A frame through a fade that all its channels share: one step of it. -/
def fadeFrame (f : Option Fade) (xs : List Int) : List Int × Option Fade :=
  match f with
  | none => (xs, none)
  | some g =>
    let g := if g.over then g else { g with k := g.k + 1 }
    (xs.map (fun x => gain x (if g.over then g.g1 else g.now)), settleFade (some g))

/-- Frames through such a fade. -/
def fadeFrames (f : Option Fade) (l : List (List Int)) : List (List Int) × Option Fade :=
  l.foldl (fun acc xs => let r := fadeFrame acc.2 xs; (acc.1 ++ [r.1], r.2)) (([] : List (List Int)), f)

/-- The media-clock count of the first sample of the present tick, at `m` samples in a tick (R307). -/
def State.mediaCount (s : State) (m : Nat) : Nat := m * s.scnt % 2 ^ 32

/-- The frame with timestamp `ts` among the packets held. -/
def RtpRx.frameAt (x : RtpRx) (ts : Nat) : Option (List Int) :=
  x.pkts.findSome? (fun p => let d := Arith.sdiff ts p.ts; if 0 ≤ d then p.frames[d.toNat]? else none)

/-- The timestamp whose sample the present tick presents first: its count less DEPTH. -/
def State.rxWant (s : State) (i : Nat) : Nat :=
  (s.mediaCount (s.rxM i) + 2 ^ 32 - s.rxM i * s.fget (F.RTP_RX_W1_DEPTH i)) % 2 ^ 32

/-- Whether the samples of `n` ticks from the present one are held. -/
def State.rxHolds (s : State) (i n : Nat) : Bool :=
  let x := s.rxStream i
  let w := s.rxWant i
  (List.range (n * s.rxM i)).all (fun k => (x.frameAt ((w + k) % 2 ^ 32)).isSome)

/-- R247: the samples from the oldest one held that no tick has presented, or the next to present, to sample `last`. -/
def rtpReach (want last : Nat) (l : List RtpPkt) : Int :=
  l.foldl (fun (r : Int) p => max r (Arith.sdiff last (if 0 ≤ Arith.sdiff p.ts want then p.ts else want) + 1)) 0

/-- R247: a packet with sequence number `seq` is accepted by stream `i`, or discarded. -/
def State.rtpAccept (s : State) (i ts seq ssrc : Nat) (frames : List (List Int)) : State :=
  let x := s.rxStream i
  let x := if x.ssrc = some ssrc then x else { x with ssrc := some ssrc, seqs := [] }
  let m := s.rxM i
  let depth := s.fget (F.RTP_RX_W1_DEPTH i)
  let last := (ts + frames.length + 2 ^ 32 - 1) % 2 ^ 32
  if x.seqs.contains seq then (s.setRxStream i x).bump (A.RTP_RX_DUP i)
  else if frames = [] ∨ Arith.sdiff last ((s.rxWant i + m - 1) % 2 ^ 32) ≤ 0 then (s.setRxStream i x).bump (A.RTP_RX_LATE i)
  else
    let all := x.pkts ++ [{ ts := ts, frames := frames }]
    let keep := (List.range all.length).foldl (fun (l : List RtpPkt) _ =>
      if (2 * depth * m : Nat) < rtpReach (s.rxWant i) last l then l.drop 1 else l) all
    let s := (s.setRxStream i { x with pkts := keep, seqs := (seq :: x.seqs).take 1024, age := 0 }).fset (F.RTP_RX_W5_ACTIVE i) 1
    if keep.length < all.length then s.bump (A.RTP_RX_OVER i) else s

/-- R247: a stream that ran dry refills once the present tick and the DEPTH / 2 ticks after it are held. -/
def State.rtpRefill (s : State) (i : Nat) : State :=
  let x := s.rxStream i
  if x.starved ∧ s.fon (F.RTP_RX_W0_EN i) ∧ s.rxHolds i (1 + s.fget (F.RTP_RX_W1_DEPTH i) / 2) then
    s.setRxStream i { x with starved := false, fade := fadeTo x.fade unity 64 }
  else s

/-- RTP_REFILL (R247). -/
def execRtpRefill (stream : Nat) (s : State) : Out :=
  .next (if s.held .lnk ∨ 64 ≤ stream then s else s.rtpRefill stream)

/-- Whether a stream's present state is more than its reset state. -/
def State.rxIdle (s : State) (i : Nat) : Bool := !s.fon (F.RTP_RX_W0_EN i) && decide (s.rxStream i = {})

/-- R247, R249: the frames of stream `i` that ingest of this tick presents. -/
def State.gatherRtp (s : State) (i : Nat) : State :=
  if s.held .lnk ∨ s.rxIdle i then s
  else
    let s := s.rtpRefill i
    let x := s.rxStream i
    let m := s.rxM i
    let n := s.fget (F.RTP_RX_W0_CHANNELS i) + 1
    let en := s.fon (F.RTP_RX_W0_EN i)
    let want := s.rxWant i
    let have' := en && s.rxHolds i 1
    let s := if en ∧ ¬ have' then s.bump (A.RTP_RX_UNDER i) else s
    let x := if ¬ have' ∧ ¬ x.starved then { x with starved := true, fade := if x.played then fadeTo x.fade 0 16 else fadeTo (some { g0 := 0, g1 := 0, k := 1, n := 1 }) 0 16 }
      else x
    let last := if x.last.length = n then x.last else List.replicate n 0
    let raw := (List.range m).map (fun k => if x.starved then last else (x.frameAt ((want + k) % 2 ^ 32)).getD last)
    let r := fadeFrames x.fade raw
    let age := min 960 (x.age + 1)
    let keep := x.pkts.filter (fun p => decide (0 < Arith.sdiff (p.ts + p.frames.length) (want + m)))
    let x := { x with fade := r.2, now := r.1, last := raw.getLastD last, played := x.played || !x.starved, age := age, pkts := keep }
    let s := (s.fset (F.RTP_RX_W5_PLAYING i) (b2n (en && !x.starved))).fset (F.RTP_RX_W5_ACTIVE i) (b2n (decide (age < 960)))
    s.setRxStream i x

/-- R252: a tick passes at stream `i` while ENG presents nothing: PLAYING is 0, and ACTIVE follows the packets. -/
def State.idleRtp (s : State) (i : Nat) : State :=
  if s.held .lnk ∨ s.rxIdle i then s
  else
    let x := s.rxStream i
    let age := min 960 (x.age + 1)
    ((s.fset (F.RTP_RX_W5_PLAYING i) 0).fset (F.RTP_RX_W5_ACTIVE i) (b2n (decide (age < 960)))).setRxStream i { x with age := age }

/-! ### Transmitting (R248) -/

/-- R248: egress delivers frames to transmit stream `i`. -/
def State.deliverRtp (s : State) (i : Nat) (frames : List (List Int)) : State :=
  if s.held .lnk ∨ ¬ s.fon (F.RTP_TX_W0_EN i) then s
  else
    let x := s.txStream i
    let ts := if x.ticks = 0 then s.mediaCount (s.txM i) else x.ts
    let buf := x.buf ++ frames
    if s.fget (F.RTP_TX_W1_PTIME i) ≤ x.ticks + 1 then
      s.setTxStream i { x with buf := [], ticks := 0, ts := ts, ready := x.ready ++ [(ts, s.eng.tick, buf)] }
    else s.setTxStream i { x with buf := buf, ticks := x.ticks + 1, ts := ts }

/-- The lanes that a LANES field names on a port. -/
def rtpLanes (port lanes : Nat) : List Nat :=
  (if lanes % 2 = 1 then [2 * port] else []) ++ (if lanes / 2 = 1 then [2 * port + 1] else [])

/-- The MAC address of a lane (R245). -/
def State.laneMac (s : State) (l : Nat) : Nat :=
  let lo := if l % 2 = 0 then A.LNP_PORT_MACA_LO (l / 2) else A.LNP_PORT_MACB_LO (l / 2)
  let hi := if l % 2 = 0 then A.LNP_PORT_MACA_HI (l / 2) else A.LNP_PORT_MACB_HI (l / 2)
  (s.reg lo).toNat + 2 ^ 32 * bits (s.reg hi).toNat 15 0

/-- The IPv4 address of a lane (R245). -/
def State.laneIp (s : State) (l : Nat) : Nat :=
  (s.reg (if l % 2 = 0 then A.LNP_PORT_IPA (l / 2) else A.LNP_PORT_IPB (l / 2))).toNat

/-- CRC-32 of IEEE 802.3, one byte. PRESUMED: the polynomial is that of IEEE 802.3 (log entry 24). Safe. -/
def crc32Byte (c b : Nat) : Nat :=
  (List.range 8).foldl (fun c _ => if c % 2 = 1 then (c / 2) ^^^ 0xEDB88320 else c / 2) (c ^^^ (b % 256))

/-- The frame check sequence of IEEE 802.3 over bytes. -/
def fcs (bs : List Nat) : Nat := (bs.foldl crc32Byte 0xFFFFFFFF) ^^^ 0xFFFFFFFF

/-- R245: a frame, without its FCS, leaves a lane. -/
def State.emitFrame (s : State) (l : Nat) (bs : List Nat) : State :=
  (s.setLane l { (s.lane l) with sent := bs }).queueBlocks l (etherBlocks (bs ++ leBytes 4 (fcs bs)))

/-- Ones' complement sum of big-endian 16-bit words, folded. -/
def onesSum (bs : List Nat) : Nat :=
  let l := if bs.length % 2 = 1 then bs ++ [0] else bs
  let sum := (List.range (l.length / 2)).foldl (fun a k => a + beNat ((l.drop (2 * k)).take 2)) 0
  let fold := fun (v : Nat) => v % 65536 + v / 65536
  fold (fold sum)

/-- R248: the frame, without its FCS, that carries a packet of transmit stream `i` from lane `l`: its fields are the lane's and the
entry's. What R248 leaves open, the IPv4 identification and don't-fragment bit and the RTP marker, is `ident`, `df`, `marker`.
PRESUMED: the layouts of Ethernet, IPv4, UDP and RTP version 2 (log entry 24). -/
def State.rtpFrame (s : State) (i l seq ts : Nat) (payload : List Nat) (ident df marker : Nat) : List Nat :=
  let vlan := s.fget (F.RTP_TX_W5_VLAN i)
  let rtp := [0x80, marker * 128 + s.fget (F.RTP_TX_W0_PT i)] ++ beBytes 2 seq ++ beBytes 4 ts ++ beBytes 4 (s.reg (A.RTP_TX_W6 i)).toNat ++ payload
  let udp := beBytes 2 (s.fget (F.RTP_TX_W3_SRC_UDP i)) ++ beBytes 2 (s.fget (F.RTP_TX_W3_DST_UDP i)) ++ beBytes 2 (8 + rtp.length) ++ [0, 0] ++ rtp
  let ip := fun (sum : Nat) => [0x45, s.fget (F.RTP_TX_W1_DSCP i) * 4] ++ beBytes 2 (20 + udp.length) ++ beBytes 2 ident ++ beBytes 2 (df * 0x4000) ++
    [s.fget (F.RTP_TX_W1_TTL i), 17] ++ beBytes 2 sum ++ beBytes 4 (s.laneIp l) ++ beBytes 4 (s.reg (A.RTP_TX_W2 i)).toNat
  let mac := (s.reg (A.RTP_TX_W4 i)).toNat + 2 ^ 32 * s.fget (F.RTP_TX_W5_DST_MAC_HI i)
  beBytes 6 mac ++ beBytes 6 (s.laneMac l) ++
    (if vlan = 0 then [] else [0x81, 0] ++ beBytes 2 (s.fget (F.RTP_TX_W5_PCP i) * 8192 + vlan)) ++ [8, 0] ++
    ip (65535 - onesSum (ip 0)) ++ udp

/-- R245: whether a stream packet that may leave waits for lane `l`. -/
def State.streamsWait (s : State) (l : Nat) : Bool :=
  (List.range 64).any (fun i =>
    (match (s.txStream i).ready with | [] => false | (_, t, _) :: _ => decide (t < s.eng.tick)) &&
      (rtpLanes (s.fget (F.RTP_TX_W0_PORT i)) (s.fget (F.RTP_TX_W0_LANES i))).contains l)

/-- R248, R327: the oldest complete packet of a transmit stream leaves, or is withheld. -/
def State.launchRtp (s : State) (stream : Nat) : State :=
  let x := s.txStream stream
  match x.ready with
  | [] => s
  | (ts, t, frames) :: rest =>
    if s.eng.tick ≤ t then s
    else if s.withholds t then s.setTxStream stream { x with ready := rest }
    else
      let lanes := rtpLanes (s.fget (F.RTP_TX_W0_PORT stream)) (s.fget (F.RTP_TX_W0_LANES stream))
      let fmt := s.fget (F.RTP_TX_W0_FORMAT stream)
      let payload := frames.flatMap (fun f => f.flatMap (rtpFromA32 fmt))
      let s := s.setTxStream stream { x with ready := rest, seq := (x.seq + 1) % 65536,
                                             sent := some (s.fget (F.RTP_TX_W0_LANES stream), x.seq, ts, payload) }
      let s := s.count (F.RTP_TX_W8_PKTS stream) 1
      forEach lanes s (fun s l =>
        if s.transmits l ∧ ¬ s.thetex (l / 2) then
          let a := s.draw 16
          let b := a.2.draw 1
          let c := b.2.draw 1
          (c.2.emitFrame l (c.2.rtpFrame stream l x.seq ts payload a.1 b.1 c.1)).bump (A.LNP_ETH_TXF l)
        else s)

/-! ### Stream entries (R246, R249) -/

/-- The word-0 bits beside EN that software may write. -/
def rtpWord0 (v : W32) : Nat := bits v.toNat 19 1

/-- Whether word 0 is only cleared of EN by a write. -/
def clearsEn (old new : W32) : Bool := decide (rtpWord0 old = rtpWord0 new) && !bit new.toNat 0

/-- RTP_RX_ENTRY_WRITE: a write of word `word` of receive entry `stream` (R246, R249). -/
def execRtpRxEntryWrite (stream word : Nat) (value : W32) (s : State) : Out :=
  let off := A.RTP_RX_W0 stream + 4 * word
  let reject := s.fset (F.RTP_RX_W5_CFG_REJ stream) 1
  .next (if s.held .lnk ∨ 64 ≤ stream ∨ 16 ≤ word then s
    else if 4 < word then s.writePlain off value
    else if s.fon (F.RTP_RX_W0_EN stream) then
      (if word = 0 ∧ clearsEn (s.reg off) value then s.writePlain off value else reject)
    else
      let t := s.writePlain off value
      let depth := t.fget (F.RTP_RX_W1_DEPTH stream)
      let bad := t.fon (F.RTP_RX_W0_EN stream) ∧ (t.fget (F.RTP_RX_W0_LANES stream) = 0 ∨ depth < 48 ∨ 960 < depth)
      if bad ∨ breaksBinding s t then reject
      else if t.fon (F.RTP_RX_W0_EN stream) then t.setRxStream stream {} else t)

/-- RTP_TX_ENTRY_WRITE: a write of word `word` of transmit entry `stream` (R246, R249). -/
def execRtpTxEntryWrite (stream word : Nat) (value : W32) (s : State) : Out :=
  let off := A.RTP_TX_W0 stream + 4 * word
  let reject := s.fset (F.RTP_TX_W7_CFG_REJ stream) 1
  .next (if s.held .lnk ∨ 64 ≤ stream ∨ 16 ≤ word then s
    else if 6 < word then s.writePlain off value
    else if s.fon (F.RTP_TX_W0_EN stream) then
      (if word = 0 ∧ clearsEn (s.reg off) value then (s.writePlain off value).setTxStream stream {} else reject)
    else
      let t := s.writePlain off value
      let ptime := t.fget (F.RTP_TX_W1_PTIME stream)
      let size := (t.fget (F.RTP_TX_W0_CHANNELS stream) + 1) * rtpBytes (t.fget (F.RTP_TX_W0_FORMAT stream)) * ptime * t.txM stream
      let bad := t.fon (F.RTP_TX_W0_EN stream) ∧
        (t.fget (F.RTP_TX_W0_LANES stream) = 0 ∨ ptime < 1 ∨ 48 < ptime ∨ 1440 < size)
      if bad ∨ breaksBinding s t then reject
      else if t.fon (F.RTP_TX_W0_EN stream) then t.setTxStream stream {} else t)

end Sys2Proof.Machine
end

