-- ==== Sys2Proof/Machine/Eth.lean ====
section
/-! DEFINITION. The Ethernet MAC, the frame rings, timed frames and IEEE 1588 messages (R245, R308, R313, R315, R398). -/

namespace Sys2Proof.Machine

open Sys2Proof.Arith

/-! ### Timestamps (R308) -/

/-- Timescale `n` in units of 2^-16 ns, `at_` such units after this tick's boundary. -/
def State.tsAt (s : State) (n at_ : Nat) : Int := ((s.tsc n).t / 2 ^ 16 + at_ : Nat)

/-- Main time so. -/
def State.mainAt (s : State) (at_ : Nat) : Int := (s.mainTime / 2 ^ 16 + at_ : Nat)

/-- INLAT of a lane. -/
def State.inLat (s : State) (l : Nat) : Int := s.regInt (A.TIM_LANE_INLAT l)

/-- EGLAT of a lane. -/
def State.egLat (s : State) (l : Nat) : Int := s.regInt (A.TIM_LANE_EGLAT l)

/-- A time in units of 2^-16 ns as nanoseconds and seconds. -/
def nsAndSec (t : Int) : Nat × Nat :=
  let ns := t.toNat / 2 ^ 16
  (ns % 1000000000, ns / 1000000000 % 2 ^ 48)

/-! ### Frame rings (R398) -/

/-- An entry of the frame receive ring. -/
def frameEntry (kind place : Nat) (t : Int) (flow xflags peer offset : Nat) (data : List Nat) : List Nat :=
  let x := nsAndSec t
  leBytes 1 kind ++ leBytes 1 place ++ leBytes 2 data.length ++ leBytes 4 (x.2 % 2 ^ 32) ++ leBytes 2 (x.2 / 2 ^ 32) ++
    leBytes 1 flow ++ leBytes 1 xflags ++ leBytes 4 x.1 ++ leBytes 2 peer ++ leBytes 2 0 ++ leBytes 4 offset ++
    leBytes 8 0 ++ data

/-- A frame goes to the host, or finds the ring full. -/
def State.frameToHost (s : State) (l : Nat) (t : Int) (data : List Nat) : State :=
  if s.ringHasRoom 4 then s.publish 4 (frameEntry 1 l t 0 0 0 0 data) else s.bump (A.LNP_ETH_DROP l)

/-- The completion of a frame send (R389, R398). -/
def State.frameDone (s : State) (e : SendEntry) (code : Nat) (t : Int) : State :=
  let x := nsAndSec t
  s.complete { op := 0xF0, late := false, tag := e.index % 65536, code := code, tick := s.reg A.TIM_SCNT, index := e.index,
               res := if code = 0 then [BitVec.ofNat 32 x.1, BitVec.ofNat 32 (x.2 % 2 ^ 32), BitVec.ofNat 32 (x.2 / 2 ^ 32)] else [] }

/-- R245: a frame leaves a lane `at_` units after this tick's boundary. -/
def State.sendNow (s : State) (e : SendEntry) (at_ : Nat) : State :=
  let l := e.place
  let s := s.emitFrame l e.data
  let s := if s.transmits l then s.bump (A.LNP_ETH_TXF l) else s
  if e.report then s.frameDone e 0 (s.mainAt at_ + s.egLat l) else s

/-- R245: a host frame leaves, or waits while a stream packet takes precedence. -/
def State.sendFrame (s : State) (e : SendEntry) (at_ : Nat) : State :=
  if s.streamsWait e.place then s.setLane e.place { (s.lane e.place) with wait := (s.lane e.place).wait ++ [e] }
  else s.sendNow e at_

/-- R245: host frames that waited for stream packets leave lane `l`, at a point of the tick that the rules do not give (free). -/
def State.flushWait (s : State) (l : Nat) : State :=
  let w := (s.lane l).wait
  if w = [] ∨ s.streamsWait l then s
  else
    let d := s.draw 30
    forEach w (d.2.setLane l { (d.2.lane l) with wait := [] }) (fun s e => s.sendNow e d.1)

/-- RTP_PACKET_LAUNCH: a complete packet leaves after cycle 0 of the tick after its last sample; host frames follow (R245, R248,
R327). -/
def execRtpPacketLaunch (stream : Nat) (s : State) : Out :=
  .next (if s.held .lnk ∨ 64 ≤ stream then s
    else forEach (rtpLanes (s.fget (F.RTP_TX_W0_PORT stream)) (s.fget (F.RTP_TX_W0_LANES stream))) (s.launchRtp stream)
      (fun s l => s.flushWait l))

/-! ### Receiving (R245, R247) -/

/-- Big-endian field of a frame. -/
def beAt (bs : List Nat) (off n : Nat) : Nat := beNat ((bs.drop off).take n)

/-- What an Ethernet frame carries: VLAN (0 untagged), Ethertype, and where its payload begins. -/
def etherHead (bs : List Nat) : Nat × Nat × Nat :=
  if beAt bs 12 2 = 0x8100 then (beAt bs 14 2 % 4096, beAt bs 16 2, 18) else (0, beAt bs 12 2, 14)

/-- A UDP datagram in a frame: source and destination address, ports, checksum, payload, and the bytes it sums over. -/
structure Udp where
  src : Nat
  dst : Nat
  dport : Nat
  sum : Nat
  data : List Nat
  covered : List Nat
  deriving DecidableEq, Repr

/-- The UDP datagram that a frame without FCS carries over IPv4. PRESUMED: the layouts of IPv4 and UDP (log entry 24). -/
def udpOf (bs : List Nat) : Option Udp :=
  let h := etherHead bs
  let ip := bs.drop h.2.2
  let hl := beAt ip 0 1 % 16 * 4
  let udp := (ip.take (beAt ip 2 2)).drop hl
  if h.2.1 ≠ 0x0800 ∨ beAt ip 0 1 / 16 ≠ 4 ∨ hl < 20 ∨ beAt ip 9 1 ≠ 17 ∨ udp.length < 8 then none
  else
    let n := beAt udp 4 2
    some { src := beAt ip 12 4, dst := beAt ip 16 4, dport := beAt udp 2 2, sum := beAt udp 6 2, data := (udp.take n).drop 8,
           covered := (ip.drop 12).take 8 ++ [0, 17] ++ beBytes 2 n ++ udp.take n }

/-- Ones' complement sum of 16-bit words: whether a checksum fits. -/
def checksumOk (bs : List Nat) : Bool := decide (onesSum bs = 65535)

/-- An RTP packet in a UDP payload: timestamp, sequence number, SSRC, payload type, CC, payload (R247). -/
structure RtpHead where
  pt : Nat
  cc : Nat
  seq : Nat
  ts : Nat
  ssrc : Nat
  payload : List Nat
  deriving DecidableEq, Repr

/-- The RTP packet that a UDP payload holds. PRESUMED: the layout of RTP version 2 (log entry 24). -/
def rtpOf (d : List Nat) : Option RtpHead :=
  let b := beAt d 0 1
  if d.length < 12 ∨ b / 64 ≠ 2 then none
  else
    let cc := b % 16
    let body := d.drop (12 + 4 * cc)
    let body := if bit b 4 then body.drop (4 + 4 * beAt body 2 2) else body
    let body := if bit b 5 then body.take (body.length - body.getLastD 0) else body
    some { pt := beAt d 1 1 % 128, cc := cc, seq := beAt d 2 2, ts := beAt d 4 4, ssrc := beAt d 8 4, payload := body }

/-- R247: whether receive stream `i` accepts a packet that reaches lane `l`. -/
def State.rtpMatches (s : State) (i l vlan : Nat) (u : Udp) (r : RtpHead) : Bool :=
  let n := s.fget (F.RTP_RX_W0_CHANNELS i) + 1
  s.fon (F.RTP_RX_W0_EN i) && decide (s.fget (F.RTP_RX_W0_PORT i) = l / 2) &&
    bit (s.fget (F.RTP_RX_W0_LANES i)) (l % 2) && decide ((s.reg (A.RTP_RX_W2 i)).toNat = u.dst) &&
    decide (s.fget (F.RTP_RX_W4_DST_UDP i) = u.dport) &&
    (decide (s.reg (A.RTP_RX_W3 i) = 0) || decide ((s.reg (A.RTP_RX_W3 i)).toNat = u.src)) &&
    decide (s.fget (F.RTP_RX_W4_VLAN i) = vlan) && decide (s.fget (F.RTP_RX_W0_PT i) = r.pt) && decide (r.cc = 0) &&
    decide (r.payload.length % (n * rtpBytes (s.fget (F.RTP_RX_W0_FORMAT i))) = 0)

/-- R245: whether a destination address is the lane's own, broadcast or multicast. -/
def State.macTakes (s : State) (l : Nat) (dst : Nat) : Bool :=
  decide (dst = s.laneMac l) || decide (dst / 2 ^ 40 % 2 = 1)

/-- The IEEE 1588 message that a frame carries (R313). -/
def ptpOf (bs : List Nat) : Option (List Nat) :=
  let h := etherHead bs
  if h.2.1 = 0x88F7 then some (bs.drop h.2.2)
  else match udpOf bs with
    | some u => if u.dport = 319 ∨ u.dport = 320 then some u.data else none
    | none => none

/-- R313: the timescale that tracks a domainNumber. -/
def State.ptpTimescale (s : State) (domain : Nat) : Option Nat :=
  if domain = s.fget F.TIM_PTP_DOMAIN0 then some 0 else if domain = s.fget F.TIM_PTP_DOMAIN1 then some 1 else none

/-- Whether a messageType is an event message: Sync, Delay_Req, Pdelay_Req, Pdelay_Resp. -/
def ptpEvent (kind : Nat) : Bool := decide (kind ≤ 3)

/-- R308, R313: a timestamp is kept for the consumer of the event messages. -/
def State.stamp (s : State) (x : PtpStamp) : State := { s with tim := { s.tim with stamps := (x :: s.tim.stamps).take 64 } }

/-- ETH_FRAME_RECEIVED: a frame with its FCS reaches an Ethernet-mode lane, its timestamp point `at_` units of 2^-16 ns
after this tick's boundary (R245, R247, R308, R313). -/
def execEthFrameReceived (lane : Nat) (bytes : List Nat) (at_ : Nat) (s : State) : Out :=
  .next (if s.held .lnk ∨ 8 ≤ lane ∨ s.thetex (lane / 2) = true ∨ ¬ s.fon (F.LNP_STAT_LANE_UP lane) then s
    else
      let n := bytes.length
      let good := decide (4 ≤ n) && decide (fcs (bytes.take (n - 4)) = leNat (bytes.drop (n - 4)))
      let sized := decide (64 ≤ n) && decide (n ≤ 1522)
      let s := if good then s else s.bump (A.LNP_ETH_FCS lane)
      let s := if sized then s else s.bump (A.LNP_ETH_DROP lane)
      let bs := bytes.take (n - 4)
      if ¬ good ∨ ¬ sized ∨ ¬ s.macTakes lane (beAt bs 0 6) then s
      else
        let s := s.bump (A.LNP_ETH_RXF lane)
        let t := s.mainAt at_ - s.inLat lane
        let rtp := match udpOf bs with
          | none => none
          | some u => (rtpOf u.data).bind (fun r =>
              ((List.range 64).find? (fun i => s.rtpMatches i lane (etherHead bs).1 u r)).map (fun i => (i, u, r)))
        match rtp with
        | some (i, u, r) =>
          if u.sum ≠ 0 ∧ ¬ checksumOk u.covered then s.bump (A.LNP_ETH_DROP lane)
          else s.rtpAccept i r.ts r.seq r.ssrc
            (rtpFrames (s.fget (F.RTP_RX_W0_FORMAT i)) (s.fget (F.RTP_RX_W0_CHANNELS i) + 1) r.payload)
        | none =>
          match ptpOf bs with
          | some m =>
            let kind := beAt m 0 1 % 16
            let domain := beAt m 4 1
            if ¬ bit (s.fget F.TIM_PTP_LANE_EN) lane then s.frameToHost lane t bs
            else
              let x : PtpStamp := { lane := lane, tx := false, kind := kind, domain := domain, seq := beAt m 30 2,
                                    ts0 := s.tsAt 0 at_ - s.inLat lane, ts1 := s.tsAt 1 at_ - s.inLat lane }
              let s := if ptpEvent kind then s.stamp x else s
              if (s.ptpTimescale domain).isSome ∧ s.fon F.TIM_CTRL_FW_SERVO then s else s.frameToHost lane t bs
          | none => s.frameToHost lane t bs)

/-- PTP_EVENT_MESSAGE: an event message leaves lane `lane` (`tx`) or has arrived, and is timestamped; with a servo offset
`offset` in units of 2^-16 ns, the exchange it completes is a measurement of its domain's timescale (R308, R312, R313). -/
def execPtpEventMessage (lane : Nat) (tx : Bool) (kind domain seq at_ : Nat) (offset : Option Int) (s : State) : Out :=
  .next (if s.held .lnk ∨ s.held .clk ∨ 8 ≤ lane ∨ s.thetex (lane / 2) = true ∨ ¬ bit (s.fget F.TIM_PTP_LANE_EN) lane ∨ ¬ ptpEvent kind then s
    else
      let lat := if tx then s.egLat lane else -(s.inLat lane)
      let s := s.stamp { lane := lane, tx := tx, kind := kind, domain := domain, seq := seq, ts0 := s.tsAt 0 at_ + lat, ts1 := s.tsAt 1 at_ + lat }
      let s := if tx ∧ s.transmits lane then s.bump (A.LNP_ETH_TXF lane) else s
      match s.ptpTimescale domain, offset with
      | some n, some o => if s.tsSource n = 2 then s.fwServo n o else s
      | _, _ => s)

/-! ### Sending (R315, R398) -/

/-- A frame-send entry as host memory holds it. -/
def parseSend (bs : List Nat) (index : Nat) : SendEntry :=
  let f := fun (o n : Nat) => leNat ((bs.drop o).take n)
  { kind := f 0 1, place := f 1 1, launch := (f 4 4 + 2 ^ 32 * f 8 2) * 1000000000 + f 12 4, report := bit (f 11 1) 3,
    flow := f 10 1, xflags := f 11 1, peer := f 16 2, offset := f 20 4, index := index, data := (bs.drop 32).take (f 2 2) }

/-- Whether a frame-send entry is one of R398. -/
def sendOk (bs : List Nat) : Bool :=
  let f := fun (o n : Nat) => leNat ((bs.drop o).take n)
  decide (1 ≤ f 0 1) && decide (f 0 1 ≤ 3) && decide (1 ≤ f 2 2) && decide (f 2 2 ≤ 2016) && decide (f 18 2 = 0) &&
    decide (f 24 8 = 0) && decide (f 11 1 / 32 = 0) && decide (f 12 4 < 1000000000) &&
    (if f 0 1 = 3 then decide (f 1 1 < 4) && decide (16 ≤ f 10 1) && decide (f 2 2 % 4 = 0) else decide (f 1 1 < 8))

/-- The BULK section of a KIND 3 entry (R267); its SEQ is set when it is queued. -/
def SendEntry.sect (e : SendEntry) (own seq : Nat) : Sect :=
  let unicast := bit e.xflags 4
  { type := 6, dmode := b2n unicast, origin := own, dest := if unicast then e.peer % 2 ^ 14 else 0, seq := seq,
    hops := if unicast then 127 else 1, stream := e.flow,
    payload := leBytes 4 e.offset ++ leBytes 4 (e.xflags % 4) ++ e.data }

/-- R267: a bulk section of this device, with the next SEQ of its flow, waits on a port. -/
def State.queueBulk (s : State) (p : Nat) (e : SendEntry) : State :=
  let seq := Tbl.get s.link.flowSeq 0 e.flow
  let s := { s with link := { s.link with flowSeq := Tbl.set s.link.flowSeq 0 e.flow ((seq + 1) % 65536) } }
  let x := s.linkPort p
  s.setLinkPort p { x with bulk := x.bulk ++ [{ sect := e.sect s.ownAddr seq, buf := none }] }

/-- Insert by launch time, after entries of the same time. -/
def insertTimed (e : SendEntry) : List SendEntry → List SendEntry
  | [] => [e]
  | x :: rest => if x.launch ≤ e.launch then x :: insertTimed e rest else e :: x :: rest

/-- FRAME_SEND: the hardware consumes a frame-send entry (R392, R398, R315). A role-0 port carries hop-local sections only (R253):
a unicast entry for it is refused as a bad entry. DESIGN CHOICE (log entry 121): the code of that refusal. -/
def execFrameSend (readOk : Bool) (at_ : Nat) (s : State) : Out :=
  .next (if s.held .hif ∨ ¬ s.ringHasEntry 5 ∨ s.backlogged then s
    else
      let i := s.ringEng 5
      let bs := bytesAt s.host (s.ringAddr 5 i) 2048
      let e := parseSend bs i
      let s := s.consumed 5
      if ¬ readOk then s.frameDone e 0xB03 0
      else if ¬ sendOk bs then s.frameDone e 0xB02 0
      else if e.kind = 3 then
        (if s.thetex e.place = false ∨ (s.portRole e.place = 0 ∧ bit e.xflags 4) then s.frameDone e 0xB02 0
         else if e.launch = 0 then
           let s := s.queueBulk e.place e
           if e.report then s.frameDone e 0 (s.mainAt at_) else s
         else if ¬ s.mainSet then s.frameDone e 0xC03 0
         else { s with tim := { s.tim with sched := Tbl.set s.tim.sched [] e.place (insertTimed e (Tbl.get s.tim.sched [] e.place)) } })
      else if s.thetex (e.place / 2) = true then s.frameDone e 0xB02 0
      else if e.kind = 1 then s.sendFrame e at_
      else if ¬ s.mainSet then s.frameDone e 0xC03 0
      else if 32 ≤ (Tbl.get s.tim.timed [] e.place).length then s.frameDone e 0xC02 0
      else { s with tim := { s.tim with timed := Tbl.set s.tim.timed [] e.place (insertTimed e (Tbl.get s.tim.timed [] e.place)) } })

/-- LATE_TOL in ns. -/
def State.lateTol (s : State) : Nat := s.fget ⟨A.TIM_LAUNCH, 15, 0⟩ * 1000

/-- TIMED_FRAME_LAUNCH: the head of a lane's timed queue leaves at its launch time, or is discarded as late; `at_` units
of 2^-16 ns after this tick's boundary (R315). -/
def execTimedFrameLaunch (lane : Nat) (at_ : Nat) (s : State) : Out :=
  .next (if s.held .lnk ∨ s.held .clk ∨ 8 ≤ lane then s
    else
      match Tbl.get s.tim.timed [] lane with
      | [] => s
      | e :: rest =>
        let now := s.mainAt at_
        if now < (e.launch : Int) * 2 ^ 16 then s
        else
          let s := { s with tim := { s.tim with timed := Tbl.set s.tim.timed [] lane rest } }
          if ((e.launch + s.lateTol : Nat) : Int) * 2 ^ 16 < now then (s.bump A.TIM_LAUNCH_LATE).frameDone e 0xC01 0
          else s.sendFrame { e with report := true } at_)

end Sys2Proof.Machine
end

