-- ==== Sys2Proof/Machine/Link.lean ====
section
/-! DEFINITION. Thetex sections and frames: receiving, relaying, sending (R253 to R282, R309 to R311). -/

namespace Sys2Proof.Machine

open Sys2Proof.Arith

/-! ### Sections and headers (R257 to R260) -/

/-- Bytes of a section in a frame. -/
def Sect.size (x : Sect) : Nat := 16 + x.payload.length

/-- A section's bytes without its CRC. -/
def Sect.bytes (x : Sect) : List Nat :=
  leBytes 1 x.type ++ leBytes 1 x.dmode ++ leBytes 2 x.payload.length ++ leBytes 2 x.origin ++ leBytes 2 x.dest ++
    leBytes 2 x.seq ++ leBytes 1 x.hops ++ leBytes 1 x.stream ++ x.payload

/-- A section's CRC. -/
def Sect.crc (x : Sect) : Nat := crc32c x.bytes

/-- The section that a copy's bytes hold, its CRC left aside; reserved bits are left out. -/
def parseSect (bs : List Nat) : Sect :=
  let f := fun (o n : Nat) => leNat ((bs.drop o).take n)
  { type := f 0 1, dmode := f 1 1 % 4, origin := f 4 2 % 2 ^ 14, dest := f 6 2 % 2 ^ 14, seq := f 8 2, hops := f 10 1,
    stream := f 11 1, payload := (bs.drop 12).take (bs.length - 16) }

/-- What a copy's CRC tells (R259): 0 intact, 1 stomped, 2 bad. -/
def copyState (bs : List Nat) (errored : Bool) : Nat :=
  let n := bs.length
  let len := leNat ((bs.drop 2).take 2)
  let c := crc32c (bs.take (n - 4))
  let v := leNat (bs.drop (n - 4))
  if errored ∨ n < 16 ∨ len % 4 ≠ 0 ∨ n ≠ 16 + len then 2
  else if v = c then 0 else if v = 0xFFFFFFFF - c then 1 else 2

/-- R260: whether a type may have a DMODE. -/
def dmodeOk (type dmode : Nat) : Bool :=
  match type with
  | 0 => decide (dmode = 0)
  | 1 => decide (dmode = 3)
  | 2 => decide (dmode = 1) || decide (dmode = 2)
  | 3 => decide (dmode = 1)
  | 4 => decide (dmode = 1)
  | 5 => decide (dmode = 0)
  | 6 => decide (dmode ≤ 1)
  | 7 => decide (dmode ≤ 1)
  | _ => false

/-- The isochronous types. -/
def isoType (type : Nat) : Bool := decide (1 ≤ type) && decide (type ≤ 5)

/-- A frame header's bytes (R257). -/
def FrameHdr.bytes (h : FrameHdr) : List Nat :=
  let b := [1] ++ leBytes 1 h.flags ++ leBytes 2 h.src ++ leBytes 4 h.tick ++ leBytes 4 h.credit
  b ++ leBytes 4 (crc32c b)

/-- The header that 16 bytes hold, or none where VER or HDR_CRC fails. -/
def parseHdr (bs : List Nat) : Option FrameHdr :=
  let f := fun (o n : Nat) => leNat ((bs.drop o).take n)
  if f 0 1 = 1 ∧ f 12 4 = crc32c (bs.take 12) ∧ bs.length = 16 then
    some { flags := f 1 1 % 16, src := f 2 2 % 2 ^ 14, tick := f 4 4, credit := f 8 2 }
  else none

/-! ### Segments and routes (R272, R276, R282) -/

/-- Whether an address lies in this device's segment. -/
def State.ownSegment (s : State) (a : Nat) : Bool := decide (a / 2 ^ 7 = s.ownAddr / 2 ^ 7)

/-- LNK_ROUTE's entry for an address (R282). -/
def State.route (s : State) (a : Nat) : Nat :=
  let k := a / 2 ^ 7
  let e := bits (s.reg (A.LNK_ROUTE (k / 8))).toNat (4 * (k % 8) + 3) (4 * (k % 8))
  if 7 ≤ e then 0 else e

/-- The ring port opposite to one of a role. -/
def State.oppositePort (s : State) (p : Nat) : Option Nat :=
  if s.portRole p = 1 then s.rolePort 2 else if s.portRole p = 2 then s.rolePort 1 else none

/-- The lane of a port whose LNP_PEER is valid. -/
def State.peerAddr (s : State) (p : Nat) : Option Nat :=
  if s.fon (F.LNP_STAT_PEER_VALID (2 * p)) then some (s.fget (F.LNP_PEER_ADDR (2 * p)))
  else if s.fon (F.LNP_STAT_PEER_VALID (2 * p + 1)) then some (s.fget (F.LNP_PEER_ADDR (2 * p + 1)))
  else none

/-- R276: whether this device is designated for the east (`east`) or the west direction. -/
def State.designated (s : State) (east : Bool) : Bool :=
  let head := s.fget F.LNK_SEG_HEAD
  s.assigned && (if east then decide (s.ownAddr = head)
    else match s.rolePort 1 with
      | none => false
      | some p => decide (s.peerAddr p = some head))

/-- The upstream port of a direction. -/
def State.upstream (s : State) (east : Bool) : Option Nat := s.rolePort (if east then 2 else 1)

/-- The downstream port of a direction. -/
def State.downstream (s : State) (east : Bool) : Option Nat := s.rolePort (if east then 1 else 2)

/-- R276: whether this device is a break origin of a direction. -/
def State.breakOrigin (s : State) (east : Bool) : Bool :=
  match s.upstream east with
  | none => true
  | some p => !s.portUp p || (s.linkPort p).peerUnassigned

/-- The chain parts held of a direction. -/
def State.parts (s : State) (east : Bool) : List SpanPart := if east then s.link.east else s.link.west

/-- Store the chain parts of a direction. -/
def State.setParts (s : State) (east : Bool) (l : List SpanPart) : State :=
  { s with link := if east then { s.link with east := l } else { s.link with west := l } }

/-- R276: whether this device is a chain origin of a direction for TICK `u`. -/
def State.chainOrigin (s : State) (east : Bool) (u : Nat) : Bool :=
  s.breakOrigin east ||
    (s.designated east && !(s.parts east).any (fun x => decide (x.tick = u) && x.brk && decide (x.sums.length ≤ 32)))

/-! ### Contributions (R277, R278) -/

/-- This device's contribution for SCNT `c` to bus `b`, 0 where the bus was not enabled at the last boundary (R277). -/
def State.contribution (s : State) (c b : Nat) : Int :=
  if ¬ bit s.link.spanEn b ∨ s.held .eng then 0
  else
    match s.link.contrib.find? (fun x => decide (x.1 = c)) with
    | none => 0
    | some x => ((x.2.find? (fun y => decide (y.1 = b))).map (·.2)).getD 0

/-- A signed 64-bit sum. -/
def sum64 (v : Int) : Int := (BitVec.ofInt 64 v).toInt

/-- The tick before SCNT `u`. -/
def prevTick (u : Nat) : Nat := (u + 2 ^ 32 - 1) % 2 ^ 32

/-- The runs of enabled buses, in pieces of at most 32 (R263): first bus and number. -/
def State.spanRuns (s : State) : List (Nat × Nat) :=
  (List.range 128).foldl (fun (l : List (Nat × Nat)) b =>
    if ¬ bit s.link.spanEn b then l
    else
      match l.getLast? with
      | some (f, n) => if f + n = b ∧ n < 32 then l.dropLast ++ [(f, n + 1)] else l ++ [(b, 1)]
      | none => [(b, 1)]) []

/-- A SPAN section's payload (R263). -/
def spanPayload (first : Nat) (brk : Bool) (ncont : Nat) (sums : List Int) : List Nat :=
  leBytes 4 (first + 128 * b2n brk + 256 * (sums.length - 1) + 65536 * (ncont % 256)) ++
    sums.flatMap (fun v => leBytes 8 (BitVec.ofInt 64 v).toNat)

/-- A chain origin's SPAN sections for TICK `u` (R263, R276, R278). -/
def State.originSpans (s : State) (east : Bool) (u : Nat) : List Sect :=
  s.spanRuns.map (fun r =>
    { type := 1, dmode := 3, origin := s.ownAddr, dest := 0, seq := u % 65536, hops := 127, stream := 0,
      payload := spanPayload r.1 (s.breakOrigin east) 1
        ((List.range r.2).map (fun i => s.contribution (prevTick u) (r.1 + i))) })

/-! ### The room of a frame (R261) -/

/-- Bytes of a list of sections. -/
def sectBytes (l : List Sect) : Nat := (l.map Sect.size).sum

/-- Bytes of a frame. -/
def FrameOut.size (f : FrameOut) : Nat := 16 + sectBytes f.spans + sectBytes f.relayed + sectBytes f.own

/-- R261: own sections enter a frame in order while they fit: the frame, sections held for later, iso sections dropped. -/
def FrameOut.addOwn (f : FrameOut) (l : List Sect) : FrameOut × List Sect × Nat :=
  l.foldl (fun acc x =>
    if acc.1.size + x.size ≤ 25600 then ({ acc.1 with own := acc.1.own ++ [x] }, acc.2)
    else if isoType x.type then (acc.1, acc.2.1, acc.2.2 + 1)
    else (acc.1, acc.2.1 ++ [x], acc.2.2)) (f, [], 0)

/-- R261: own sections leave a frame, the last first, until it is within its limit. -/
def FrameOut.evict (f : FrameOut) : FrameOut × List Sect × Nat :=
  f.own.foldl (fun acc _ =>
    if acc.1.size ≤ 25600 then acc
    else
      match acc.1.own.getLast? with
      | none => acc
      | some x =>
        let g := { acc.1 with own := acc.1.own.dropLast }
        if isoType x.type then (g, acc.2.1, acc.2.2 + 1) else (g, x :: acc.2.1, acc.2.2)) (f, [], 0)

/-- R261: relayed sections enter a frame: the frame, and how many had no room. -/
def FrameOut.addRelayed (f : FrameOut) (l : List Sect) : FrameOut × Nat :=
  l.foldl (fun acc x =>
    if 16 + sectBytes acc.1.spans + sectBytes acc.1.relayed + x.size ≤ 25600 then
      ({ acc.1 with relayed := acc.1.relayed ++ [x] }, acc.2)
    else (acc.1, acc.2 + 1)) (f, 0)

/-- Count at a port's link counter. -/
def State.linkCount (s : State) (off n : Nat) : State := s.count ⟨off, 31, 0⟩ n

/-- A PAD section (R260, R261). -/
def padSect (origin : Nat) : Sect :=
  { type := 0, dmode := 0, origin := origin, dest := 0, seq := 0, hops := 1, stream := 0, payload := [] }

/-- A section with its CRC, as a frame carries it (R258). -/
def Sect.wire (x : Sect) : List Nat := x.bytes ++ leBytes 4 x.crc

/-- R254, R256, R257, R271: the bytes of a frame on path `path`; a CROSSED lane carries no sections. -/
def FrameOut.bytes (f : FrameOut) (path : Nat) (crossed : Bool) : List Nat :=
  { f.hdr with flags := f.hdr.flags + 4 * path }.bytes ++
    (if crossed then [] else (f.spans ++ f.relayed ++ f.own).flatMap Sect.wire)

/-- R233, R256: a port's frame is complete: on each lane its blocks, a lane-identification block after them, go to the line. -/
def State.closeFrame (s : State) (p : Nat) : State :=
  match (s.linkPort p).out with
  | none => s
  | some f =>
    if f.closed then s
    else
      let s := s.setLinkPort p { (s.linkPort p) with out := some { f with closed := true } }
      forEach [0, 1] s (fun s path =>
        s.queueBlocks (2 * p + path) (frameBlocks (f.bytes path (decide (s.linkSt (2 * p + path) = 3))) ++ [s.identBlock (2 * p + path)]))

/-- A section that no frame can carry any more: a unicast one counts in NO_ROUTE of the port it came by (R272). -/
def State.lostRelay (s : State) (p : Nat) (x : Sect) : State :=
  if x.dmode = 1 then s.linkCount (A.LNK_PORT_NO_ROUTE p) 1 else s

/-- A section from port `p` that port `q` relays in its frame of TICK `u` (R261, R272, R273). -/
def State.relay (s : State) (p q u : Nat) (x : Sect) : State :=
  let y := s.linkPort q
  let gone := match y.lastTick with | none => false | some v => decide (Arith.sdiff u v ≤ 0)
  match y.out with
  | some f =>
    if f.hdr.tick = u ∧ ¬ f.closed ∧ ¬ f.solo then
      let r := f.addRelayed [x]
      let e := r.1.evict
      let s := s.setLinkPort q { y with out := some e.1, own := e.2.1 ++ y.own }
      s.linkCount (A.LNK_PORT_FRAME_FULL q) (r.2 + e.2.2)
    else if gone then s.lostRelay p x
    else s.setLinkPort q { y with fwd := y.fwd ++ [(u, x)] }
  | none => if gone then s.lostRelay p x else s.setLinkPort q { y with fwd := y.fwd ++ [(u, x)] }

/-- A section that port `q` relays and that no TICK binds goes into its next frame. -/
def State.relayNext (s : State) (q : Nat) (x : Sect) : State :=
  let y := s.linkPort q
  let u := match y.lastTick with | none => s.scnt | some v => (v + 1) % 2 ^ 32
  s.setLinkPort q { y with fwd := y.fwd ++ [(u, x)] }

/-- What port `q` relays in a frame of TICK `u`, and what it keeps: sections of that TICK, and others of earlier frames unless they
are isochronous, which only their own TICK's frame may carry. -/
def LinkPort.forThis (x : LinkPort) (u : Nat) : List Sect × List (Nat × Sect) :=
  ((x.fwd.filter (fun y => decide (y.1 = u) || (decide (Arith.sdiff y.1 u < 0) && !isoType y.2.type))).map (·.2),
   x.fwd.filter (fun y => decide (0 < Arith.sdiff y.1 u)))

/-! ### Bulk credit (R275) -/

/-- Credits of a BULK section. -/
def credits (x : Sect) : Nat := (x.payload.length + 16 + 255) / 256

/-- Credits that port `p`'s buffer frees. -/
def State.freeCredits (s : State) (p : Nat) (x : Sect) : State :=
  let q := s.linkPort p
  s.setLinkPort p { q with grant := (q.grant + credits x) % 65536, held := q.held - credits x }

/-- A section leaves by port `q` under credit: BULK waits, MGMT and iso sections are relayed. -/
def State.forwardOn (s : State) (p q u : Nat) (x : Sect) : State :=
  let x := { x with hops := x.hops - 1 }
  if x.type = 6 then s.setLinkPort q { (s.linkPort q) with bulk := (s.linkPort q).bulk ++ [{ sect := x, buf := some p }] }
  else if s.interDistrict q ∧ isoType x.type then s
  else if s.portRole q = 3 then s.relayNext q x
  else s.relay p q u x

/-- A section dropped for want of a way (R272). -/
def State.noRoute (s : State) (p : Nat) (x : Sect) : State :=
  let s := if x.type = 6 then s.freeCredits p x else s
  s.linkCount (A.LNK_PORT_NO_ROUTE p) 1

/-! ### Taking sections (R262, R267, R272, R276 to R279) -/

/-- R262: an AUDIO section of frame tick `u` reaches the receive entries of port `p` that name it. -/
def State.takeAudio (s : State) (p u : Nat) (x : Sect) : State :=
  forEach (List.range 256) s (fun s i =>
    if s.fon (F.LNK_RX_W0_EN p i) ∧ s.fget (F.LNK_RX_W1_ORIGIN p i) = x.origin ∧
        s.fget (F.LNK_RX_W0_OSTREAM p i) = x.stream then
      let e := 256 * p + i
      let due := (u + s.fget (F.LNK_RX_W1_LAT (e / 256) (e % 256)) + 2 ^ 32 - 1) % 2 ^ 32
      let n := s.fget (F.LNK_RX_W0_CHANNELS (e / 256) (e % 256)) + 1
      if Arith.sdiff due s.scnt ≤ 0 then (s.bump (A.LNK_RX_W2 (e / 256) (e % 256))).bump A.LNK_LATE
      else
        let w := x.payload.length / 4
        let word := fun (k : Nat) => (BitVec.ofNat 32 (leNat ((x.payload.drop (4 * k)).take 4))).toInt
        let frames := (List.range (w / n)).map (fun j => (List.range n).map (fun c => word (j * n + c)))
        let y : LaneStream := Tbl.get s.link.streams {} e
        let held := (y.held.filter (fun h => decide (h.1 ≠ due))) ++ [(due, frames)]
        { s with link := { s.link with streams := Tbl.set s.link.streams {} e { y with held := held.drop (held.length - 16) } } }
    else s)

/-- Whether a MGMT section is an operation of R283: its length, and the DMODE of its OP. -/
def mgmtOk (x : Sect) : Bool :=
  decide (x.payload.length = 48) &&
    (match x.payload.headD 0 with
     | 1 => decide (x.dmode = 0)
     | 2 | 3 | 4 | 5 | 0x80 => decide (x.dmode = 1)
     | _ => false)

/-- A section is taken for a consumer. -/
def State.take (s : State) (t : Taken) : State :=
  if t.sect.type = 2 then s.takeAudio t.port t.tick t.sect
  else if t.sect.type = 7 ∧ ¬ mgmtOk t.sect then s
  else { s with link := { s.link with inbox := s.link.inbox ++ [t] } }

/-- The partials that a SPAN payload holds. -/
def parseSpan (u : Nat) (pl : List Nat) : SpanPart :=
  let h := leNat (pl.take 4)
  let n := bits h 13 8 + 1
  { tick := u, first := bits h 6 0, brk := bit h 7, ncont := bits h 23 16,
    sums := (List.range (min n 32)).map (fun i => (BitVec.ofNat 64 (leNat ((pl.drop (4 + 8 * i)).take 8))).toInt) }

/-- The chain parts that ingest may still ask for (R279): those of the last 17 ticks. -/
def State.addPart (s : State) (east : Bool) (x : SpanPart) : State :=
  s.setParts east ((s.parts east).filter (fun y => decide (Arith.sdiff s.scnt y.tick ≤ 17)) ++ [x])

/-- R276 to R279: a chain section arrives on ring port `p` in the frame of TICK `u`; one whose contribution is more than 15 ticks
old is stale (R278), and one that came too `late` is not relayed (R273). -/
def State.takeChain (s : State) (p u : Nat) (x : Sect) (late : Bool) : State :=
  let east := decide (s.portRole p = 2)
  let part := parseSpan u x.payload
  if 15 < Arith.sdiff s.scnt (prevTick u) then s.linkCount (A.LNK_PORT_STALE p) 1
  else if x.origin = s.ownAddr ∨ ¬ s.assigned ∨ (s.designated east ∧ ¬ part.brk) then s
  else
    let s := if part.brk ∧ s.designated east then
        let s := s.setParts east ((s.parts east).filter (fun y => decide (y.tick ≠ u) || decide (y.sums.length ≤ 32)))
        match s.downstream east with
        | none => s
        | some q =>
          match (s.linkPort q).out with
          | some f => if f.hdr.tick = u then s.setLinkPort q { (s.linkPort q) with out := some { f with spans := [] } } else s
          | none => s
      else s
    let s := s.addPart east part
    match s.downstream east with
    | none => s
    | some q =>
      if ¬ s.portUp q ∨ x.hops ≤ 1 ∨ late then s
      else
        let sums := (part.sums.zipIdx).map (fun y => sum64 (y.1 + s.contribution (prevTick u) (part.first + y.2)))
        s.relay p q u { x with hops := x.hops - 1, payload := spanPayload part.first part.brk (part.ncont + 1) sums }

/-- R282: a unicast section is sent where LNK_ROUTE says; `p` is the port it came by. -/
def State.routeOn (s : State) (p u : Nat) (x : Sect) : State :=
  let go := fun (q : Option Nat) =>
    match q with
    | none => s.noRoute p x
    | some q => if s.portUp q ∧ 1 < x.hops ∧ x.origin ≠ s.ownAddr then s.forwardOn p q u x else s.noRoute p x
  match s.route x.dest with
  | 0 => s.noRoute p x
  | 1 => go (match s.oppositePort p with | some q => some q | none => s.rolePort 1)
  | 2 => go (s.rolePort 2)
  | e => if s.portRole (e - 3) = 3 then go (some (e - 3)) else s.noRoute p x

/-- R272, R281, R282: an intact section on an UP port is taken, forwarded or dropped. -/
def State.dispatchSect (s : State) (t : Taken) (late : Bool) : State :=
  let p := t.port
  let x := t.sect
  let role := s.portRole p
  let s := if x.type = 6 then s.setLinkPort p { (s.linkPort p) with held := (s.linkPort p).held + credits x } else s
  if x.type = 0 then s
  else if x.dmode = 0 then s.take t
  else if x.dmode = 3 then (if role = 0 ∨ role = 3 then s else s.takeChain p t.tick x late)
  else if x.dmode = 2 then
    let s := s.take t
    match s.oppositePort p with
    | none => s
    | some q => if s.portUp q ∧ 1 < x.hops ∧ x.origin ≠ s.ownAddr ∧ s.assigned ∧ ¬ late then s.forwardOn p q t.tick x else s
  else if s.assigned ∧ x.dest = s.ownAddr then s.take t
  else if ¬ s.assigned ∨ late then s.noRoute p x
  else if s.ownSegment x.dest ∧ role ≠ 3 then
    match s.oppositePort p with
    | none => s.noRoute p x
    | some q => if s.portUp q ∧ 1 < x.hops ∧ x.origin ≠ s.ownAddr then s.forwardOn p q t.tick x else s.noRoute p x
  else s.routeOn p t.tick x

/-! ### Receiving (R269 to R272) -/

/-- The stamps of a moment `at_` units of 2^-16 ns after this tick's boundary. -/
def State.stampsAt (s : State) (at_ : Nat) : Stamps := { ts0 := s.tsAt 0 at_, ts1 := s.tsAt 1 at_, main := s.mainAt at_ }

/-- The header of a frame that lane `lane` has read (R255, R257, R270, R271, R275, R309). -/
def State.takeHeader (s : State) (lane : Nat) (fr : RxFrame) : State :=
  let p := lane / 2
  let inter := s.interDistrict p
  let x := { (s.linkLane lane) with drop := false, hdr := none, nth := 0, cycle := fr.at_, stamps := fr.stamps, read := true }
  let s := s.setLinkLane lane x
  match parseHdr fr.bytes with
  | none =>
    let s := s.laneError lane 1
    let q := s.linkPort p
    let m := q.badHdr ||| 2 ^ (lane % 2)
    let s := s.setLinkPort p { q with badHdr := m }
    if m = 3 then s.linkCount (A.LNK_PORT_HDR_CRC p) 1 else s
  | some h =>
    let age := Arith.sdiff fr.scnt h.tick
    if ¬ inter ∧ (age < 0 ∨ 15 < age) then s.linkCount (A.LNK_PORT_STALE p) 1
    else
      let was := s.linkSt lane
      let s := s.seeAddress lane h.src
      let s := if was = 2 ∧ x.src ≠ some h.src ∧ x.src.isSome then s.peerChanged lane else s
      let y := s.linkLane lane
      let frames := if y.src = some h.src ∧ 0 < y.frames then (if y.got then y.frames else y.frames + 1) else 1
      let s := s.setLinkLane lane { y with frames := frames, src := some h.src, got := true, miss := 0,
                                           hdr := if s.linkSt lane = 2 then some h else none }
      let q := s.linkPort p
      let rise := decide (bit h.flags 3 = true) && !q.peerUp
      let first := decide (q.rxTick ≠ some h.tick)
      let q := { q with got := true, peerGrant := h.credit, peerUp := bit h.flags 3, consumed := if rise then 0 else q.consumed,
                        peerUnassigned := bit h.flags 1, rxTick := some h.tick, offset := if first then fr.cycle else q.offset }
      let s := s.setLinkPort p q
      let a := s.linkLane (2 * p)
      let b := s.linkLane (2 * p + 1)
      let s := if ¬ first ∧ a.got ∧ b.got then
          let l := (((b.cycle : Int) - a.cycle) :: Tbl.get s.tim.skews [] p).take 256
          ({ s with tim := { s.tim with skews := Tbl.set s.tim.skews [] p l } }).setReg (A.TIM_PORT_SKEW p) (toW (meanHalfUp l))
        else s
      if s.linkSt lane = 1 ∧ 8 ≤ frames ∧ s.fon (F.LNP_STAT_PEER_VALID lane) ∧ ¬ s.crossedPeer lane then
        let s := s.setLinkSt lane 2
        s.setLinkLane lane { (s.linkLane lane) with src := some h.src, got := true }
      else s

/-- R27, R270: a frame that a lane's receive queue cannot hold displaces the oldest; on an inter-district gateway that is no error
(R281). -/
def State.queueFrame (s : State) (lane : Nat) (fr : RxFrame) : State :=
  let x := s.linkLane lane
  let full := 3 ≤ x.waiting.length
  let s := s.setLinkLane lane { x with waiting := (if full then x.waiting.drop 1 else x.waiting) ++ [fr] }
  if full ∧ ¬ s.interDistrict (lane / 2) then s.linkCount (A.LNK_PORT_RXQ_OVER (lane / 2)) 1 else s

/-- THETEX_FRAME_RECEIVED: the 16 bytes of a frame header are in at ECLK cycle `cycle` of the tick; the frame's start block came
`at_` units of 2^-16 ns after this tick's boundary. A lane's queue is read once in a tick: the tick's first frame at once, others
at the boundaries that follow. DESIGN CHOICE (log entry 123): when the queue is read. -/
def execThetexFrameReceived (lane : Nat) (bytes : List Nat) (cycle at_ : Nat) (s : State) : Out :=
  .next (if s.held .lnk ∨ 8 ≤ lane ∨ s.thetex (lane / 2) = false ∨ ¬ s.fon (F.LNP_STAT_LANE_UP lane) then s
    else
      let x := s.linkLane lane
      let fr : RxFrame := { bytes := bytes, cycle := cycle, at_ := at_, stamps := s.stampsAt at_, scnt := s.scnt, sects := [] }
      if x.read ∨ x.waiting ≠ [] then s.queueFrame lane fr else s.takeHeader lane fr)

/-- R269: whether two sections are copies of one. -/
def sameCopy (u : Nat) (x : Sect) (c : UsedCopy) : Bool :=
  decide (c.tick = u) && decide (c.sect.type = x.type) && decide (c.sect.origin = x.origin) &&
    decide (c.sect.stream = x.stream) && decide (c.sect.seq = x.seq)

/-- A copy of a section of the open frame of a lane (R258 to R260, R269, R272, R342). Copies of one section come in the same order
on both paths, so that the n-th of its TYPE, ORIGIN, STREAM, SEQ and TICK on one path is a copy of the n-th on the other. -/
def State.takeSection (s : State) (lane : Nat) (bytes : List Nat) (errored : Bool) : State :=
  let p := lane / 2
  let l := s.linkLane lane
  match l.hdr with
  | none => s
  | some h =>
    if l.drop ∨ s.linkSt lane ≠ 2 then s
    else
      let q := s.linkPort p
      let st := copyState bytes errored
      if st ≠ 0 then
        let s := s.linkCount (if st = 1 then A.LNK_PORT_STOMPED p else A.LNK_PORT_SECT_CRC p) 1
        let s := s.setLinkLane lane { l with drop := true, nth := l.nth + 1 }
        let o := s.linkLane (2 * p + (1 - lane % 2))
        let have' := decide (o.hdr.map (·.tick) = some h.tick) && decide (l.nth < o.nth)
        let s := if have' then s
          else s.setLinkPort p { q with await := (q.await ++ [(h.tick, lane % 2, l.nth)]).drop (q.await.length + 1 - 8) }
        s.laneError lane 0
      else
        let x := parseSect bytes
        let late := q.cut.contains (h.tick, l.nth)
        let s := if x.type = 0 then s else s.setLinkLane lane { l with nth := l.nth + 1 }
        if 8 ≤ x.type ∨ ¬ dmodeOk x.type x.dmode ∨ (isoType x.type ∧ x.seq ≠ h.tick % 65536) then
          s.linkCount (A.LNK_PORT_SECT_CRC p) 1
        else if x.type = 0 then s
        else
          let q := { q with await := q.await.filter (fun a => !(decide (a.1 = h.tick) && decide (a.2.2 = l.nth))) }
          let mine := fun (c : UsedCopy) => sameCopy h.tick x c && decide (c.path ≠ lane % 2) && !c.seen
          match q.used.find? mine with
          | some c =>
            let s := s.setLinkPort p { q with used := (q.used.erase c) ++ [{ c with seen := true }] }
            if c.bytes ≠ bytes then (s.linkCount (A.LNK_PORT_AB_MISMATCH p) 1).laneError lane 2 else s
          | none =>
            let used := (q.used.filter (fun c => decide (Arith.sdiff h.tick c.tick < 16))) ++
              [{ tick := h.tick, path := lane % 2, sect := x, bytes := bytes, seen := false }]
            let key := x.type * 2 ^ 24 + x.origin * 2 ^ 8 + x.stream
            let seq := Tbl.get q.seqs none key
            let d : Int := match seq with | none => 0 | some e => sdiffN 16 x.seq e
            let s := s.setLinkPort p { q with used := used }
            if isoType x.type = false ∧ d < 0 then s
            else
              let gap := decide (isoType x.type = false) && decide (0 < d)
              let s := if gap then s.linkCount (A.LNK_PORT_SEQ_GAP p) 1 else s
              let s := if isoType x.type then s
                else s.setLinkPort p { (s.linkPort p) with seqs := Tbl.set (s.linkPort p).seqs none key (some ((x.seq + 1) % 65536)) }
              s.dispatchSect { port := p, path := lane % 2, tick := h.tick, stamps := l.stamps, gap := gap, sect := x } late

/-- SECTION_RECEIVED: a complete copy of a section arrives, CRC and all; `errored` tells that an errored block was in it. It
belongs to the youngest frame of its lane (R258 to R260, R269, R270, R272, R342). -/
def execSectionReceived (lane : Nat) (bytes : List Nat) (errored : Bool) (s : State) : Out :=
  .next (if s.held .lnk ∨ 8 ≤ lane then s
    else
      let l := s.linkLane lane
      match l.waiting.getLast? with
      | some f => s.setLinkLane lane { l with waiting := l.waiting.dropLast ++ [{ f with sects := f.sects ++ [(bytes, errored)] }] }
      | none => s.takeSection lane bytes errored)

/-- SECOND_COPY_TIMEOUT: LNK_SKEW cycles after a bad first copy no good one has come; that section is not relayed any more
(R273). -/
def execSecondCopyTimeout (port : Nat) (s : State) : Out :=
  let q := s.linkPort port
  .next (match q.await with
    | [] => s
    | (u, _, k) :: rest =>
      if s.held .lnk ∨ 4 ≤ port then s
      else s.setLinkPort port { q with await := rest, cut := (q.cut ++ [(u, k)]).drop (q.cut.length + 1 - 8) })

/-! ### Sending (R256, R261, R266, R273, R310, R311) -/

/-- Units of 2^-16 ns in `cycle` ECLK cycles. -/
def State.cycleTime (s : State) (cycle : Nat) : Nat := cycle * 1000000000 * 2 ^ 16 / (25600 * s.baseHz)

/-- A timestamp on the wire (R266). -/
def timeBytes (t : Int) : List Nat :=
  let x := nsAndSec t
  leBytes 6 x.2 ++ [0, 0] ++ leBytes 4 x.1

/-- The time that a timestamp on the wire holds, in units of 2^-16 ns. -/
def timeOf (bs : List Nat) : Nat := (leNat (bs.take 6) * 1000000000 + leNat ((bs.drop 8).take 4)) * 2 ^ 16

/-- A TIME section (R266). -/
def State.timeSect (s : State) (ts u kind : Nat) (t1 t2 t3 corr : Int) : Sect :=
  { type := 5, dmode := 0, origin := s.ownAddr, dest := 0, seq := u % 65536, hops := 1, stream := ts,
    payload := leBytes 4 kind ++ timeBytes t1 ++ timeBytes t2 ++ timeBytes t3 ++ leBytes 8 (BitVec.ofInt 64 corr).toNat }

/-- Whether a FAILED member or a follower in JOIN keeps its paired streams back (R327, R338). -/
def State.pairSilent (s : State) : Bool := s.paired && (decide (s.pairState = 5) || decide (s.pairState = 2))

/-- FAULTS (R326); RED_STAT shows those of the last Cricket sent. -/
def State.pairFaults (s : State) : Nat :=
  b2n (decide (s.pairState = 5)) + 2 * b2n (decide (s.pair.eccAge < 12)) +
    4 * b2n ((List.range 4).any (fun p => s.thetex p && s.portDegraded p && (s.portRole p = 1 || s.portRole p = 2))) +
    8 * b2n (decide (s.clkState ≠ 2)) + 16 * b2n (s.fon F.TIM_STAT_TICK_MISALIGN) +
    32 * b2n (s.fon F.MEM_WV_STAT_COVERAGE_LATE) + 64 * b2n s.pair.tjHigh + 128 * b2n (!s.fon F.RED_TWIN_READY)

/-- R265: the payload of the Cricket with count `n`, FAULTS as at sending. -/
def State.cricketPayload (s : State) (n : Nat) : List Nat :=
  leBytes 1 (s.fget F.RED_CFG_ROLE) ++ leBytes 1 s.pairState ++ leBytes 2 s.pairFaults ++ leBytes 4 n ++
    leBytes 4 s.scnt ++ leBytes 4 0

/-- MOFS of a timescale, in units of 2^-16 ns. -/
def State.mofs (s : State) (n : Nat) : Int :=
  (BitVec.ofNat 64 ((s.reg (A.TIM_TS_MOFS_LO n)).toNat + 2 ^ 32 * (s.reg (A.TIM_TS_MOFS_HI n)).toNat)).toInt

/-- The TIME sections of timescale `n` in port `p`'s frame of TICK `u` that leaves at `at_` (R310, R311). -/
def State.timeSects (s : State) (p u at_ n : Nat) : List Sect × State :=
  let x := s.tsc n
  let stamp := s.tsAt n at_ + s.egLat (2 * p)
  let r1 : List Sect × State :=
    if x.want ∧ s.fget (F.TIM_TS_CTRL_UPORT n) = p then
      ([s.timeSect n u 0 stamp 0 0 0], s.setTsc n { x with want := false, sent := some (stamp.toNat, s.eng.tick) })
    else ([], s)
  let y := r1.2.tsc n
  match Tbl.get y.owed none p with
  | none => r1
  | some (t1, t2) =>
    let corr := if s.tsSource n = 1 ∧ s.fon (F.TIM_TS_CTRL_CORR_EN n) then s.mofs n else 0
    (r1.1 ++ [s.timeSect n u 1 t1 t2 stamp corr], r1.2.setTsc n { y with owed := Tbl.set y.owed none p none })

/-- R264, R265: CRICKET and MIRROR sections of this tick on a ring port. -/
def State.pairSect (s : State) (type u : Nat) (payload : Option (List Nat)) : List Sect :=
  match payload with
  | none => []
  | some pl => [{ type := type, dmode := 1, origin := s.ownAddr, dest := s.fget F.RED_CFG_PARTNER, seq := u % 65536,
                  hops := s.fget F.RED_CFG_HOPS, stream := 0, payload := pl }]

/-- R262: AUDIO sections of port `p` for TICK `u`: what egress delivered in the tick before. -/
def State.audioSects (s : State) (p u : Nat) : List Sect :=
  if s.pairSilent then []
  else
    (List.range 256).flatMap (fun i =>
      let e := 256 * p + i
      if ¬ s.fon (F.LNK_TX_W0_EN (e / 256) (e % 256)) then []
      else
        match Tbl.get (((s.link.audio.find? (fun a => decide (a.1 = prevTick u))).map (·.2)).getD []) [] e with
        | [] => []
        | frames =>
          let uni := decide (s.fget (F.LNK_TX_W0_DMODE (e / 256) (e % 256)) = 1)
          let x : Sect := { type := 2, dmode := s.fget (F.LNK_TX_W0_DMODE (e / 256) (e % 256)), origin := s.ownAddr, dest := if uni then s.fget (F.LNK_TX_W1_DEST (e / 256) (e % 256)) else 0,
                            seq := u % 65536, hops := s.fget (F.LNK_TX_W0_HOPS (e / 256) (e % 256)), stream := i,
                            payload := frames.flatMap (fun f => f.flatMap (fun v => leBytes 4 (toW v).toNat)) }
          [x])

/-- R315: scheduled sections whose launch time has come wait under credit, or are discarded as late. -/
def State.releaseScheduled (s : State) (p at_ : Nat) : State :=
  let now := s.mainAt at_
  let l := Tbl.get s.tim.sched [] p
  let due := l.filter (fun e => decide ((e.launch : Int) * 2 ^ 16 ≤ now))
  let rest := l.filter (fun e => !decide ((e.launch : Int) * 2 ^ 16 ≤ now))
  let s := { s with tim := { s.tim with sched := Tbl.set s.tim.sched [] p rest } }
  forEach due s (fun s e =>
    if ((e.launch + s.lateTol : Nat) : Int) * 2 ^ 16 < now then (s.bump A.TIM_LAUNCH_LATE).frameDone e 0xC01 0
    else
      let s := s.queueBulk p e
      if e.report then s.frameDone e 0 now else s)

/-- The frame of TICK `u` that port `p` sends at ECLK cycle `cycle` of this tick (R261, R273, R281): `spans` its SPAN sections as a
chain origin; `solo` tells that it carries own sections only; `wait` that a relay with nothing to relay sends a PAD. A role-0 port
carries hop-local sections only (R253). DESIGN CHOICE (log entry 122): one PAD, where the number is a matter of byte times. -/
def State.buildFrame (s : State) (p u cycle : Nat) (spans : List Sect) (solo wait : Bool) : State :=
  let at_ := s.cycleTime cycle
  let s := (s.closeFrame p).releaseScheduled p at_
  let inter := s.interDistrict p
  let ring := decide (s.portRole p = 1) || decide (s.portRole p = 2)
  let x := s.linkPort p
  let flags := b2n (decide (s.portRole p = 2)) + 2 * b2n (!s.assigned) + 8 * b2n (s.portUp p)
  let hdr : FrameHdr := { flags := flags, src := s.ownAddr, tick := u, credit := x.grant }
  let t0 := if inter then (([] : List Sect), s) else s.timeSects p u at_ 0
  let t1 := if inter then (([] : List Sect), t0.2) else t0.2.timeSects p u at_ 1
  let s := t1.2
  let iso := if inter then []
    else (if ring then s.pairSect 4 u (s.pair.cricket.map s.cricketPayload) else []) ++ t0.1 ++ t1.1 ++
      (if ring then s.pairSect 3 u s.pair.mirror else []) ++ (if s.portRole p = 0 then [] else s.audioSects p u)
  let late := x.own.filter (fun y => decide (y.type ≠ 6)) ++ x.own.filter (fun y => decide (y.type = 6))
  let mine := (iso ++ late).filter (fun y => (s.assigned && decide (s.portRole p ≠ 0)) || decide (y.dmode = 0))
  let fw := x.forThis u
  let relayed := if solo then [] else fw.1
  let kept := if solo then x.fwd.filter (fun y => decide (0 < Arith.sdiff y.1 u) || !isoType y.2.type) else fw.2
  let f : FrameOut := { hdr := hdr, spans := spans, relayed := [], own := [], solo := solo }
  let r := f.addRelayed (if relayed = [] ∧ wait then [padSect s.ownAddr] else relayed)
  let o := r.1.addOwn mine
  let x := s.linkPort p
  let s := s.setLinkPort p { x with out := some o.1, own := o.2.1, lastTick := some u, fwd := kept }
  s.linkCount (A.LNK_PORT_FRAME_FULL p) (r.2 + o.2.2)

/-- Whether a port sends frames. -/
def State.sendsFrames (s : State) (p : Nat) : Bool :=
  s.up .lnk && s.thetex p && (s.transmits (2 * p) || s.transmits (2 * p + 1))

/-- The direction of a ring port: `some true` east, `some false` west. -/
def State.direction (s : State) (p : Nat) : Option Bool :=
  if s.portRole p = 1 then some true else if s.portRole p = 2 then some false else none

/-- THETEX_FRAME_SEND: a chain origin, standalone device, gateway or local port launches its frame at cycle 256 (R261,
R273, R276). -/
def execThetexFrameSend (port : Nat) (s : State) : Out :=
  let u := s.scnt
  .next (if 4 ≤ port ∨ ¬ s.sendsFrames port ∨ (s.linkPort port).lastTick = some u then s
    else
      match s.direction port with
      | none => s.buildFrame port u 256 [] false false
      | some east =>
        if ¬ s.chainOrigin east u then s
        else s.buildFrame port u 256 (if s.assigned then s.originSpans east u else []) false false)

/-- RELAY_FRAME_LAUNCH: 512 cycles after the header of the upstream frame, a relay launches its own (R256, R261, R273). -/
def execRelayFrameLaunch (port : Nat) (s : State) : Out :=
  .next (if 4 ≤ port ∨ ¬ s.sendsFrames port then s
    else
      match s.direction port with
      | none => s
      | some east =>
        match s.upstream east with
        | none => s
        | some p =>
          match (s.linkPort p).rxTick with
          | none => s
          | some u =>
            if s.chainOrigin east u ∨ (s.linkPort port).lastTick = some u then s
            else s.buildFrame port u ((s.linkPort p).offset + 512) [] false true)

/-- RELAY_FRAME_TIMEOUT: no incoming header by the previous launch offset plus 1,024; the relay sends its own sections
only (R273). -/
def execRelayFrameTimeout (port : Nat) (s : State) : Out :=
  .next (if 4 ≤ port ∨ ¬ s.sendsFrames port then s
    else
      match s.direction port with
      | none => s
      | some east =>
        match s.upstream east with
        | none => s
        | some p =>
          let u := match (s.linkPort port).lastTick with | some v => (v + 1) % 2 ^ 32 | none => s.scnt
          if s.chainOrigin east u ∨ (s.linkPort p).rxTick = some u ∨ 0 < Arith.sdiff u s.scnt then s
          else s.buildFrame port u ((s.linkPort p).offset + 1536) [] true false)

/-- BULK_SECTION_SEND: the oldest waiting BULK section of a port is sent once credit covers it: an own one among the own sections of
the next frame, one from another port among the relayed ones (R261, R275). -/
def execBulkSectionSend (port : Nat) (s : State) : Out :=
  let x := s.linkPort port
  .next (match x.bulk with
    | [] => s
    | i :: rest =>
      let have' := (x.peerGrant + 65536 - x.consumed) % 65536
      if s.held .lnk ∨ 4 ≤ port ∨ ¬ s.portUp port ∨ x.peerUp = false ∨ have' < credits i.sect then s
      else
        let s := s.setLinkPort port { x with bulk := rest, consumed := (x.consumed + credits i.sect) % 65536 }
        match i.buf with
        | none => s.setLinkPort port { (s.linkPort port) with own := (s.linkPort port).own ++ [i.sect] }
        | some p => (s.relayNext port i.sect).freeCredits p i.sect)

/-! ### Bulk delivery (R267, R275, R398) -/

/-- The entries of the frame receive ring that a BULK section makes. -/
def bulkEntries (t : Taken) (time : Int) : List (List Nat) :=
  let pl := t.sect.payload
  let off := leNat (pl.take 4)
  let xf := leNat ((pl.drop 4).take 4)
  let data := pl.drop 8
  let n := max 1 ((data.length + 2015) / 2016)
  (List.range n).map (fun k =>
    frameEntry 3 t.port time t.sect.stream
      ((if k = 0 then xf % 2 + 4 * b2n t.gap else 0) + (if k + 1 = n then xf / 2 % 2 * 2 else 0)) t.sect.origin
      ((off + 2016 * k) % 2 ^ 32) ((data.drop (2016 * k)).take 2016))

/-- Free entries of an engine-produced ring. -/
def State.ringRoom (s : State) (k : Nat) : Nat :=
  if s.ringOn k then s.ringSize k - (Arith.sdiff (s.ringEng k) (s.ringHost k)).toNat else 0

/-- R426: the boot loader takes hop-local sections of flow 0 on port 0 while it waits for a neighbour's image and the device
has no address. -/
def State.loaderTakes (s : State) (t : Taken) : Bool :=
  s.up .ctl && s.up .mem && decide (s.fget F.HIF_FW_STAT_STATE = 1) && s.hif.neighbour && decide (t.port = 0) &&
    decide (t.sect.stream = 0) && decide (t.sect.dmode = 0) && !s.fon F.LNK_ADDR_VALID

/-- Whether the loader owns its storage, Stalls 80 to 95 (R426). -/
def State.loaderOwns (s : State) : Bool := (List.range 16).all (fun k => decide (s.fget (F.MEM_STALL_OWNER (80 + k)) = 22))

/-- A section of a neighbour's image goes into Stalls 80 to 95 at its OFFSET. -/
def State.loaderStore (s : State) (t : Taken) : State :=
  let pl := t.sect.payload
  let off := leNat (pl.take 4)
  let xf := leNat ((pl.drop 4).take 4) % 4
  let data := pl.drop 8
  if ¬ s.loaderOwns ∨ 0x400000 < off + data.length then s
  else
    let nb := (if xf % 2 = 1 then [] else s.hif.nb) ++ [(off, data.length, xf)]
    { s with hif := { s.hif with nb := nb } }.setStallBytes (0x1400000 + off) data

/-- The oldest BULK section in the inbox that its consumer can take now is delivered; its credits are freed. -/
def State.deliverBulkOnce (s : State) : State :=
  let ready := fun (t : Taken) => decide (t.sect.type = 6) &&
    (if t.sect.stream < 16 then s.fwReady || s.loaderTakes t else decide ((bulkEntries t 0).length ≤ s.ringRoom 4))
  match s.link.inbox.find? ready with
  | none => s
  | some t =>
    let s := { s with link := { s.link with inbox := s.link.inbox.erase t } }
    let s := if t.sect.stream < 16 then (if s.loaderTakes t then s.loaderStore t else s)
      else forEach (bulkEntries t t.stamps.main) s (fun s e => s.publish 4 e)
    s.freeCredits t.port t.sect

/-- Every BULK section that can be delivered is. -/
def State.deliverBulk (s : State) : State := forEach s.link.inbox s (fun s _ => s.deliverBulkOnce)

/-! ### The Thetex time exchange (R310, R311) -/

/-- The oldest taken section that satisfies `f`, and the state without it. -/
def State.takeFirst (s : State) (f : Taken → Bool) : Option (Taken × State) :=
  (s.link.inbox.find? f).map (fun t => (t, { s with link := { s.link with inbox := s.link.inbox.erase t } }))

/-- R309: the receive timestamp of a taken section's frame, in timescale `n`. -/
def State.rxStamp (s : State) (t : Taken) (n : Nat) : Int :=
  let a := (if n = 0 then t.stamps.ts0 else t.stamps.ts1) - s.inLat (2 * t.port)
  if t.path = 0 then a else a - s.regInt (A.TIM_PORT_SKEW t.port)

/-- TIME_REQUEST_SEND: every TX_INT ticks a slave's request waits for the next frame (R310). -/
def execTimeRequestSend (ts : Nat) (s : State) : Out :=
  let x := s.tsc ts
  .next (if s.held .clk ∨ s.held .lnk ∨ 2 ≤ ts ∨ s.tsSource ts ≠ 1 ∨ s.eng.tick < x.due then s
    else s.setTsc ts { x with want := true, due := s.eng.tick + max 16 (s.fget (F.TIM_TS_CTRL_TX_INT ts)) })

/-- R311: whether this device answers requests for timescale `n` on port `p`. -/
def State.serves (s : State) (n p : Nat) : Bool :=
  bit (s.fget (F.TIM_TS_CTRL_SERVE n)) p && s.fon (F.TIM_TS_STAT_SET n) &&
    (decide (s.tsSource n = 0) ||
      (match (s.tsc n).last with
       | none => false
       | some t => decide (s.eng.tick ≤ t + 2 * s.fget (F.TIM_TS_CTRL_TX_INT n))))

/-- TIME_REQUEST_RECEIVED: a master takes the oldest request it holds (R310, R311). -/
def execTimeRequestReceived (s : State) : Out :=
  .next (match s.takeFirst (fun t => decide (t.sect.type = 5) && decide (leNat (t.sect.payload.take 4) % 2 = 0)) with
    | none => s
    | some (t, s') =>
      let n := t.sect.stream
      if s.held .clk ∨ 2 ≤ n ∨ ¬ s.serves n t.port then s'
      else
        let x := s'.tsc n
        s'.setTsc n { x with owed := Tbl.set x.owed none t.port (some (timeOf (t.sect.payload.drop 4), (s'.rxStamp t n).toNat)) })

/-- TIME_RESPONSE_RECEIVED: a slave takes the oldest response it holds and computes MDLY and MOFS (R303, R310, R312). -/
def execTimeResponseReceived (s : State) : Out :=
  .next (match s.takeFirst (fun t => decide (t.sect.type = 5) && decide (leNat (t.sect.payload.take 4) % 2 = 1)) with
    | none => s
    | some (t, s') =>
      let n := t.sect.stream
      let x := s'.tsc n
      match x.sent with
      | none => s'
      | some (t1, tick) =>
        let pl := t.sect.payload
        let t2 : Int := timeOf (pl.drop 16)
        let t3 : Int := timeOf (pl.drop 28)
        let corr := (BitVec.ofNat 64 (leNat ((pl.drop 40).take 8))).toInt
        let t4 := s'.rxStamp t n
        let trip := (t4 - t1) - (t3 - t2)
        if s.held .clk ∨ 2 ≤ n ∨ s'.tsSource n ≠ 1 ∨ s'.fget (F.TIM_TS_CTRL_UPORT n) ≠ t.port ∨
            timeOf (pl.drop 4) ≠ t1 / 2 ^ 16 * 2 ^ 16 ∨ tick + 8 < s'.eng.tick ∨ divHalfUp trip 2 < 0 then s'
        else
          let m := divHalfUp ((t2 - t1) - (t4 - t3)) 2 + corr
          let w := (BitVec.ofInt 64 m).toNat
          let s := (s'.setReg (A.TIM_TS_MOFS_LO n) (BitVec.ofNat 32 w)).setReg (A.TIM_TS_MOFS_HI n) (BitVec.ofNat 32 (w / 2 ^ 32))
          let s := (s.setReg (A.TIM_TS_MDLY n) (BitVec.ofNat 32 (min (divHalfUp trip 2).toNat (2 ^ 32 - 1)))).setReg (A.TIM_TS_MTICK n) (s.reg A.TIM_SCNT)
          let s := s.setTsc n { (s.tsc n) with sent := none, last := some s.eng.tick }
          (s.measured n).fwServo n m)

/-! ### Lane streams (R262, R287) -/

/-- Receive entry `e` (256 times the port, plus the stream) beside its registers. -/
def State.laneStream (s : State) (e : Nat) : LaneStream := Tbl.get s.link.streams {} e

/-- Store receive entry `e`. -/
def State.setLaneStream (s : State) (e : Nat) (x : LaneStream) : State :=
  { s with link := { s.link with streams := Tbl.set s.link.streams {} e x } }

/-- Samples that receive entry `e` has in the present tick. -/
def State.laneSamples (s : State) (e : Nat) : Nat :=
  samplesIn (s.fget (F.LNK_RX_W0_RATE (e / 256) (e % 256))) (s.fget (F.LNK_RX_W0_PHASE (e / 256) (e % 256))) s.tphase

/-- The frames held for the present tick, where the right number are. -/
def State.laneFrames (s : State) (e : Nat) : Option (List (List Int)) :=
  if ¬ s.fon (F.LNK_RX_W0_EN (e / 256) (e % 256)) then none
  else ((s.laneStream e).held.find? (fun h => decide (h.1 = s.scnt) && decide (h.2.length = s.laneSamples e))).map (·.2)

/-- R262: a stream whose samples return fades in over 64 samples. -/
def State.laneRefill (s : State) (e : Nat) : State :=
  let x := s.laneStream e
  if x.starved ∧ 0 < s.laneSamples e ∧ (s.laneFrames e).isSome then
    s.setLaneStream e { x with starved := false, fade := fadeTo x.fade unity 64 }
  else s

/-- LANE_STREAM_REFILL (R262). -/
def execLaneStreamRefill (port stream : Nat) (s : State) : Out :=
  .next (if s.held .lnk ∨ 4 ≤ port ∨ 256 ≤ stream then s else s.laneRefill (256 * port + stream))

/-- R262: the frames of receive entry `e` that ingest of this tick presents. -/
def State.gatherLane (s : State) (e : Nat) : State :=
  if s.held .lnk then s
  else
    let m := s.laneSamples e
    if m = 0 then (if (s.laneStream e).now = [] then s else s.setLaneStream e { (s.laneStream e) with now := [] })
    else
      let s := s.laneRefill e
      let x := s.laneStream e
      let n := s.fget (F.LNK_RX_W0_CHANNELS (e / 256) (e % 256)) + 1
      let got := s.laneFrames e
      let x := if got.isNone ∧ ¬ x.starved then { x with starved := true, fade := fadeTo x.fade 0 16 } else x
      let last := if x.last.length = n then x.last else List.replicate n 0
      let raw := match got with
        | some fs => if x.starved then List.replicate m last else fs
        | none => List.replicate m last
      let r := fadeFrames x.fade raw
      s.setLaneStream e { x with fade := r.2, now := r.1, last := raw.getLastD last,
                                 held := x.held.filter (fun h => decide (0 < Arith.sdiff h.1 s.scnt)) }

/-- LANE_STREAM_ENTRY_WRITE: a write of word `word` of a Thetex stream entry, transmit (`tx`) or receive (R287). -/
def execLaneStreamEntryWrite (tx : Bool) (port stream word : Nat) (value : W32) (s : State) : Out :=
  let e := 256 * port + stream
  let off := (if tx then A.LNK_TX_W0 (e / 256) (e % 256) else A.LNK_RX_W0 (e / 256) (e % 256)) + 4 * word
  let reject := s.fset (if tx then F.LNK_TX_W2_CFG_REJ (e / 256) (e % 256) else F.LNK_RX_W3_CFG_REJ (e / 256) (e % 256)) 1
  let en := s.fon (if tx then F.LNK_TX_W0_EN (e / 256) (e % 256) else F.LNK_RX_W0_EN (e / 256) (e % 256))
  let rw := match regDef off with | some r => r.mask (fun a => decide (a = .rw)) | none => 0
  .next (if s.held .lnk ∨ 4 ≤ port ∨ 256 ≤ stream ∨ 4 ≤ word then s
    else if 2 ≤ word then s.writePlain off value
    else if en then
      (if word = 0 ∧ ((s.reg off).toNat &&& rw) / 2 = (value.toNat &&& rw) / 2 ∧ ¬ bit value.toNat 0 then s.writePlain off value
       else reject)
    else
      let t := s.writePlain off value
      if breaksBinding s t then reject else t)

/-! ### Spanning buses (R279, R280) -/

/-- DELAY (P): other values than 2 to 16 act as 16. -/
def State.spanDelay (s : State) : Nat :=
  let p := s.fget F.LNK_SPAN_CFG_DELAY
  if 2 ≤ p ∧ p ≤ 16 then p else 16

/-- R276: at the start of TICK `u` a chain origin notes that it needs no partial of that direction. -/
def State.markOrigins (s : State) : State :=
  forEach [true, false] s (fun s east =>
    if (s.upstream east).isNone ∨ ¬ s.chainOrigin east s.scnt then s
    else
      let mark : SpanPart := { tick := s.scnt, first := 0, brk := s.breakOrigin east, ncont := 0, sums := List.replicate 128 0 }
      s.addPart east mark)

/-- R279: the partial of a direction for bus `b` and TICK `u`: sum and count; none where it has not arrived. -/
def State.partial' (s : State) (east : Bool) (u b : Nat) : Option (Int × Nat) :=
  if (s.upstream east).isNone then some (0, 0)
  else
    ((s.parts east).find? (fun x => decide (x.tick = u) && decide (x.first ≤ b) && decide (b < x.first + x.sums.length))).map
      (fun x => (x.sums.getD (b - x.first) 0, x.ncont))

/-- R279, R280: SRC_SPAN's sample of bus `b` in ingest of this tick. -/
def State.gatherSpan (s : State) (b : Nat) : State :=
  let c := (s.scnt + 2 ^ 32 - s.spanDelay) % 2 ^ 32
  let u := (c + 1) % 2 ^ 32
  let x : SpanOut := Tbl.get s.link.spans {} b
  let size := s.fget F.LNK_SEG_SIZE
  let on := s.up .lnk && bit s.link.spanEn b
  let put := fun (s : State) (y : SpanOut) => { s with link := { s.link with spans := Tbl.set s.link.spans {} b y } }
  let miss := fun (s : State) =>
    (put s { x with miss := x.miss + 1, now := conceal x.last (x.miss + 1), fade := none }).bump A.LNK_SPAN_MISS
  if ¬ on then miss s
  else
    match s.partial' true u b, s.partial' false u b with
    | some e, some w =>
      let count := e.2 + 1 + w.2
      if count < size ∧ ¬ s.fon F.LNK_SPAN_CFG_ACCEPT_PARTIAL then miss s
      else
        let s := if count < size then s.bump A.LNK_SPAN_PARTIAL else s
        let v := sat32 (rnd (e.1 + s.contribution c b + w.1) 8)
        let f := if 0 < x.miss then some { g0 := 0, g1 := unity, k := 0, n := 64 : Fade } else x.fade
        let r := fadeSample f v
        put s { last := r.1, miss := 0, fade := settleFade r.2, now := r.1 }
    | _, _ => miss s

/-- SPAN_EN_WRITE: a write of LNK_SPAN_ENj (R277). -/
def execSpanEnWrite (j : Nat) (value : W32) (s : State) : Out :=
  .next (if s.held .lnk ∨ 4 ≤ j then s else s.writePlain (A.LNK_SPAN_EN j) value)

/-- PORTMAP_WRITE: a write of LNK_PORTMAP (R253, R287). -/
def execPortmapWrite (value : W32) (s : State) : Out :=
  let role := fun (p : Nat) => bits value.toNat (2 * p + 1) (2 * p)
  let n := fun (r : Nat) => ((List.range 4).filter (fun p => decide (role p = r))).length
  .next (if s.held .lnk ∨ 1 < n 1 ∨ 1 < n 2 then s else s.writePlain A.LNK_PORTMAP value)

/-- R255: a write of the address. -/
def State.setAddr (s : State) (a : Nat) : State := (s.fset F.LNK_ADDR_ADDR a).fset F.LNK_ADDR_VALID 1

/-- ADDR_WRITE: a write of LNK_ADDR (R255). -/
def execAddrWrite (value : W32) (s : State) : Out :=
  .next (if s.held .lnk then s else (s.writePlain A.LNK_ADDR value).fset F.LNK_ADDR_VALID 1)

/-! ### A tick at the link (R270, R271) -/

/-- R270: the queue of lane `l` hands on its oldest frame, with the sections that have arrived of it. -/
def State.readQueue (s : State) (l : Nat) : State :=
  match (s.linkLane l).waiting with
  | [] => s
  | f :: rest => forEach f.sects ((s.setLinkLane l { (s.linkLane l) with waiting := rest }).takeHeader l f) (fun s b => s.takeSection l b.1 b.2)

/-- R276: LNK_CHAIN shows the role of each direction in the tick of TICK `u`, and the count received. -/
def State.showChain (s : State) (u : Nat) : State :=
  forEach [true, false] s (fun s east =>
    let n := match (s.parts east).find? (fun x => decide (x.tick = u) && decide (x.sums.length ≤ 32)) with
      | none => 0
      | some x => x.ncont
    let s := (s.fset (if east then F.LNK_CHAIN_EAST_ORIGIN else F.LNK_CHAIN_WEST_ORIGIN) (b2n (s.chainOrigin east u))).fset
      (if east then F.LNK_CHAIN_EAST_BREAK else F.LNK_CHAIN_WEST_BREAK) (b2n (s.breakOrigin east))
    s.fset (if east then F.LNK_CHAIN_NCONT_E else F.LNK_CHAIN_NCONT_W) n)

/-- The buses that LNK_SPAN_EN enables. -/
def State.spanEnabled (s : State) : Nat := ((List.range 4).map (fun j => (s.reg (A.LNK_SPAN_EN j)).toNat * 2 ^ (32 * j))).sum

/-- R256, R270, R271, R276, R277: a tick passes at the link: headers missed, frames complete, the receive queues read, the chain's
roles shown, and the enabled buses of the next tick. -/
def State.linkTick (s : State) : State :=
  if s.held .lnk then s
  else
    let s := s.showChain (prevTick s.scnt)
    let s := { s with link := { s.link with spanEn := s.spanEnabled } }
    let s := forEach (List.range 8) s (fun s l =>
      let x := s.linkLane l
      if ¬ s.thetex (l / 2) ∨ ¬ s.fon (F.LNP_STAT_LANE_UP l) then s
      else s.setLinkLane l { x with got := false, read := false, miss := if x.got then 0 else x.miss + 1,
                                    frames := if x.got then x.frames else 0 })
    let s := forEach (List.range 4) s (fun s p =>
      let q := s.linkPort p
      let s := if s.thetex p ∧ ¬ q.got then s.linkCount (A.LNK_PORT_MISSING p) 1 else s
      let s := match q.out with
        | none => s
        | some f => if f.aged then s.closeFrame p
          else s.setLinkPort p { (s.linkPort p) with out := some { f with aged := true } }
      if q.got ∨ q.badHdr ≠ 0 then s.setLinkPort p { (s.linkPort p) with got := false, badHdr := 0 } else s)
    (forEach (List.range 8) s (fun s l => s.readQueue l)).deliverBulk

end Sys2Proof.Machine
end

