-- ==== Sys2Proof/Machine/ScarabMac.lean ====
section
/-! DEFINITION. Scarab accumulators, opcodes 20h to 29h (R124, R127). -/

namespace Sys2Proof.Machine

open Sys2Proof.Arith

/-- R127 wrap72: the word, and whether the value left the range. -/
def wrap72 (v : Int) : W72 × Bool :=
  (BitVec.ofInt 72 v, decide (v < -(2 ^ 71)) || decide (2 ^ 71 ≤ v))

/-- Write wrap72 of a value into accumulator `n`; ACCOV is raised where it wraps. -/
def Core.accum (c : Core) (n : Nat) (v : Int) : Core :=
  (c.toAcc n (wrap72 v).1).flag 1 (wrap72 v).2

/-- Format X with the bits zero that every accumulator instruction leaves unused (R123). -/
def xClear (f : XFmt) : Bool := f.z1 = 0 && f.z = 0

/-- An instruction that adds `k` times d[S] d[T] to accumulator ACC. -/
def State.issueMac (s : State) (n : Nat) (f : XFmt) (k : Int) : State :=
  s.issueReg n (xClear f) (fun c =>
    c.accum f.acc.toNat (c.racc f.acc.toNat + k * (c.ri f.s.toNat * c.ri f.t.toNat)))

/-- MAC, opcode 20h (R124, R127). -/
def execMac (core : Nat) (f : XFmt) (s : State) : Out := .next (s.issueMac core f 16)

/-- MSU, opcode 21h (R124, R127). -/
def execMsu (core : Nat) (f : XFmt) (s : State) : Out := .next (s.issueMac core f (-16))

/-- MACA, opcode 22h (R124, R127). -/
def execMaca (core : Nat) (f : XFmt) (s : State) : Out := .next (s.issueMac core f 2)

/-- MSUA, opcode 23h (R124, R127). -/
def execMsua (core : Nat) (f : XFmt) (s : State) : Out := .next (s.issueMac core f (-2))

/-- R127: both accumulators of a pair take a product scaled by k. -/
def Core.dual (c : Core) (pair : Nat) (ka : Bool) (x0 y0 x1 y1 : Int) : Core :=
  let k : Int := if ka then 2 else 16
  let e := c.racc (2 * pair) + x0 * y0 * k
  let o := c.racc (2 * pair + 1) + x1 * y1 * k
  (c.accum (2 * pair) e).accum (2 * pair + 1) o

/-- MAC2, opcode 24h (R124, R127): pair ACC[1], KA in ACC[0]; S and T even. -/
def execMac2 (core : Nat) (f : XFmt) (s : State) : Out :=
  .next (s.issueReg core (xClear f && decide (f.s.toNat % 2 = 0) && decide (f.t.toNat % 2 = 0)) (fun c =>
    c.dual (f.acc.toNat / 2) (f.acc.toNat % 2 = 1) (c.ri f.s.toNat) (c.ri f.t.toNat) (c.ri (f.s.toNat + 1))
      (c.ri (f.t.toNat + 1))))

/-- R114, R148: what an error check of a read does: nothing, a count, or a fault. -/
def State.eccChecked (s : State) (n : Nat) (chk : MemCheck) : State :=
  if chk = .single then s.bump (A.SCB_ECC_CNT n) else s

/-- The fault an error check raises (R148). -/
def checkTrap (chk : MemCheck) : Option Nat :=
  match chk with
  | .double => some 4
  | .parity => some 5
  | _ => none

/-- Whether local address `w` lies among the points of the job that runs for core `n` (R140). -/
def State.fftPoint (s : State) (n w : Nat) : Bool :=
  match (s.fftUnit (n / 8)).job with
  | none => false
  | some j => decide (j.core = n) && decide (j.base ≤ w) && decide (w < j.base + 2 ^ (j.lg + 1))

/-- A word as a load reads it: undefined where the core's FFT job works on it (R140). -/
def State.loadWord (s : State) (n w : Nat) : W32 × State :=
  if s.fftPoint n w then s.drawWord else (s.localWord n w, s)

/-- FMAC, opcode 25h (R124, R127): the doublewords at a[AX] and a[AY], whose addresses must be even; one cycle inside a
REPEAT body, two outside (R131). -/
def execFmac (core : Nat) (f : FFmt) (chk : MemCheck) (s : State) : Out :=
  .next (s.issue core true (fun s c t =>
    let x := c.ra f.ax.toNat
    let y := c.ra f.ay.toNat
    if x % 2 = 1 ∨ y % 2 = 1 then .trap 3
    else if ¬ (t.mayRead x && t.mayRead (x + 1) && t.mayRead y && t.mayRead (y + 1)) then .trap 2
    else
      match checkTrap chk with
      | some code => .trap code
      | none =>
        let x0 := s.loadWord core x
        let x1 := x0.2.loadWord core (x + 1)
        let y0 := x1.2.loadWord core y
        let y1 := y0.2.loadWord core (y + 1)
        let c1 := c.dual f.pair.toNat (f.ka = 1) x0.1.toInt y0.1.toInt x1.1.toInt y1.1.toInt
        let ax := c1.upd f.ax.toNat f.incx.toInt (f.cx = 1)
        let c2 := { c1 with a := Tbl.set c1.a 0 f.ax.toNat (BitVec.ofNat 16 ax) }
        let ay := c2.upd f.ay.toNat f.incy.toInt (f.cy = 1)
        let c3 := (c1.toA 1 f.ax.toNat ax).toA 1 f.ay.toNat ay
        .ok ((y1.2.setCore core c3).eccChecked core chk) (if c.loops = [] then 2 else 1)))

/-- ACCADD, opcode 26h (R124): the source as RNDA sees it (R128); S and T must be 0. -/
def execAccadd (core : Nat) (f : XFmt) (s : State) : Out :=
  .next (s.issueReg core (xClear f && f.s = 0 && f.t = 0) (fun c =>
    c.accum f.acc.toNat (c.racc f.acc.toNat + c.raccR f.acc2.toNat)))

/-- LDACC, opcode 27h (R124): T must be 0. -/
def execLdacc (core : Nat) (f : XFmt) (s : State) : Out :=
  .next (s.issueReg core (xClear f && f.t = 0) (fun c =>
    c.toAcc f.acc.toNat (BitVec.ofInt 72 (c.ri f.s.toNat * 2 ^ 32))))

/-- R127: RNDA's narrowing. -/
def rndaValue (acc : Int) (sh : Nat) (bexp : Nat) (xb : Bool) : Int :=
  let e : Int := (sh : Int) - (if xb then (bexp : Int) else 0)
  if 1 ≤ e then rnd acc e.toNat else acc * 2 ^ (-e).toNat

/-- RNDA, opcode 28h (R124, R127). -/
def execRnda (core : Nat) (f : NFmt) (s : State) : Out :=
  .next (s.issueReg core (f.z1 = 0 && f.z = 0) (fun c =>
    let r := rndaValue (c.raccR f.acc.toNat) f.sh.toNat c.bexp (f.xb = 1)
    let c := (c.toD 2 f.d.toNat (toW (sat32 r))).flag 2 (decide (sat32 r ≠ r))
    if f.clr = 1 then c.toAcc f.acc.toNat 0 else c))

/-- CLRA, opcode 29h (R124). R124 asks nothing of S and T; the format's own zero bits hold. -/
def execClra (core : Nat) (f : XFmt) (s : State) : Out :=
  .next (s.issueReg core (xClear f) (fun c => c.toAcc f.acc.toNat 0))

end Sys2Proof.Machine
end

