-- ==== Sys2Proof/Machine/ScarabMem.lean ====
section
/-! DEFINITION. Scarab loads, stores, moves and address updates, opcodes 30h to 33h and 38h to 3Ah (R124, R126). -/

namespace Sys2Proof.Machine

open Sys2Proof.Arith

/-- R126: the effective address, mod 2^16. -/
def effAddr (c : Core) (f : MFmt) : Nat :=
  if f.mode = 0 then (((c.ra f.a.toNat : Int) + f.ofs.toInt) % 65536).toNat else c.ra f.a.toNat

/-- R126: the post-update of a[A]. -/
def postUpdate (c : Core) (f : MFmt) : Core :=
  if f.mode = 1 then c.toA 1 f.a.toNat (c.upd f.a.toNat f.ofs.toInt false)
  else if f.mode = 2 then c.toA 1 f.a.toNat (c.upd f.a.toNat f.ofs.toInt true)
  else c

/-- LD, opcode 30h (R124, R126). -/
def execLd (core : Nat) (f : MFmt) (chk : MemCheck) (s : State) : Out :=
  .next (s.issue core (f.mode ≠ 3) (fun s c t =>
    let ea := effAddr c f
    if ¬ t.mayRead ea then .trap 2
    else
      match checkTrap chk with
      | some code => .trap code
      | none =>
        let w := s.loadWord core ea
        .ok ((w.2.setCore core (postUpdate (c.toD 3 f.d.toNat w.1) f)).eccChecked core chk) 1))

/-- A store of core `n`: the word is readable 3 cycles later (R130); a store into the points of a running job leaves
that job's result undefined (R140). -/
def State.storeWord (s : State) (n w : Nat) (v : W32) : State :=
  let s := s.setCore n ((s.core n).later 3 (.mem w) (v.setWidth 72))
  if s.fftPoint n w then
    let u := s.fftUnit (n / 8)
    s.setFftUnit (n / 8) { u with job := u.job.map (fun j => { j with spoiled := true }) }
  else s

/-- ST, opcode 31h (R124, R126). -/
def execSt (core : Nat) (f : MFmt) (s : State) : Out :=
  .next (s.issue core (f.mode ≠ 3) (fun s c t =>
    let ea := effAddr c f
    if ¬ t.mayWrite ea then .trap 2
    else .ok ((s.setCore core (postUpdate c f)).storeWord core ea (c.rd f.d.toNat)) 1))

/-- LD2, opcode 32h (R124, R126): D and EA must be even. -/
def execLd2 (core : Nat) (f : MFmt) (chk : MemCheck) (s : State) : Out :=
  .next (s.issue core (decide (f.mode ≠ 3) && decide (f.d.toNat % 2 = 0)) (fun s c t =>
    let ea := effAddr c f
    if ea % 2 = 1 then .trap 3
    else if ¬ (t.mayRead ea && t.mayRead (ea + 1)) then .trap 2
    else
      match checkTrap chk with
      | some code => .trap code
      | none =>
        let w0 := s.loadWord core ea
        let w1 := w0.2.loadWord core (ea + 1)
        let c := (c.toD 3 f.d.toNat w0.1).toD 3 (f.d.toNat + 1) w1.1
        .ok ((w1.2.setCore core (postUpdate c f)).eccChecked core chk) 1))

/-- ST2, opcode 33h (R124, R126): D and EA must be even. -/
def execSt2 (core : Nat) (f : MFmt) (s : State) : Out :=
  .next (s.issue core (decide (f.mode ≠ 3) && decide (f.d.toNat % 2 = 0)) (fun s c t =>
    let ea := effAddr c f
    if ea % 2 = 1 then .trap 3
    else if ¬ (t.mayWrite ea && t.mayWrite (ea + 1)) then .trap 2
    else .ok (((s.setCore core (postUpdate c f)).storeWord core ea (c.rd f.d.toNat)).storeWord core (ea + 1)
      (c.rd (f.d.toNat + 1))) 1))

/-- R123: whether the register fields of a move name registers that exist. -/
def vLegal (f : VFmt) : Bool :=
  f.z = 0 &&
  (match f.kind.toNat with
   | 0 => true
   | 1 => decide (f.d.toNat < 8)
   | 2 => decide (f.d.toNat < 8)
   | 3 => decide (f.d.toNat < 8)
   | 4 => decide (f.s.toNat < 8)
   | 5 => decide (f.s.toNat < 8)
   | 6 => decide (f.s.toNat < 8)
   | _ => false)

/-- MV, opcode 38h (R123, R124): the latency goes by the destination (R128). -/
def execMv (core : Nat) (f : VFmt) (s : State) : Out :=
  .next (s.issueReg core (vLegal f) (fun c =>
    let d := f.d.toNat
    let r := f.s.toNat
    let low := BitVec.ofNat 72 ((c.rd r).toNat % 65536)
    match f.kind.toNat with
    | 0 => c.toD 1 d (c.rd r)
    | 1 => c.later 2 (.a d) low
    | 2 => c.later 3 (.b d) low
    | 3 => c.later 3 (.l d) low
    | 4 => c.toD 1 d (BitVec.ofNat 32 (c.ra r))
    | 5 => c.toD 1 d (BitVec.ofNat 32 (c.rb r))
    | _ => c.toD 1 d (BitVec.ofNat 32 (c.rl r))))

/-- LIA, opcode 39h (R123, R124). -/
def execLia (core : Nat) (f : LFmt) (s : State) : Out :=
  .next (s.issueReg core (f.cls ≠ 0 && f.z1 = 0) (fun c =>
    let v := BitVec.ofNat 72 f.imm.toNat
    match f.cls.toNat with
    | 1 => c.later 2 (.a f.n.toNat) v
    | 2 => c.later 3 (.b f.n.toNat) v
    | _ => c.later 3 (.l f.n.toNat) v))

/-- ADDA, opcode 3Ah (R124, R126): CLASS must be 01b. -/
def execAdda (core : Nat) (f : LFmt) (s : State) : Out :=
  .next (s.issueReg core (f.cls = 1 && f.z1 = 0) (fun c =>
    c.toA 1 f.n.toNat (c.upd f.n.toNat f.imm.toInt (f.circ = 1))))

end Sys2Proof.Machine
end

