-- ==== Sys2Proof/Machine/ScarabCtl.lean ====
section
/-! DEFINITION. Scarab control: loops, transfers, the end of a task, interrupts (R122, R131 to R136). -/

namespace Sys2Proof.Machine

open Sys2Proof.Arith

/-- Whether a control transfer may stand here: in no delay slot and in no REPEAT body (R132, R133). -/
def Core.freeOfSlots (c : Core) : Bool := c.delay.isNone && c.loops.isEmpty

/-- Start a transfer: its two delay slots run first (R132). -/
def Core.transfer (c : Core) (x : Transfer) : Core := { c with delay := some { xfer := x, left := 3 } }

/-- REPEAT, opcode 2Ah (R133). -/
def execHwRepeat (core : Nat) (f : PFmt) (s : State) : Out :=
  .next (s.issue core (f.z1 = 0 && (f.cr = 0 || decide (f.count.toNat < 32))) (fun s c t =>
    let len := f.len1.toNat + 1
    let count := if f.cr = 1 then (c.rd (f.count.toNat % 32)).toNat % 65536 else f.count.toNat
    let start := c.pc + 1
    if c.inHandler ∨ c.delay.isSome ∨ 2 ≤ c.loops.length then .trap 1
    else if c.loops.any (fun o => decide (o.start + o.len < start + len)) then .trap 1
    else if ¬ (t.inRegion start && t.inRegion (start + len - 1)) then .trap 2
    else if count = 0 then .ok (s.setCore core { c with pc := c.pc + len }) 1
    else
      .ok (s.setCore core { c with loops := { start := start, len := len, left := count } :: c.loops })
        (if c.loops = [] then 1 + (len + 3) / 4 else 1)))



/-- TEND, opcode 2Bh (R122, R132): all fields zero; not in a handler (R136). -/
def execTend (core : Nat) (f : BFmt) (s : State) : Out :=
  .next (s.issue core (f.s = 0 && f.cond = 0 && f.ofs = 0) (fun s c _ =>
    if ¬ c.freeOfSlots ∨ c.inHandler then .trap 1 else .ok (s.setCore core (c.transfer .endTask)) 1))

/-- R124: whether COND holds of a value; none for the reserved code. -/
def condHolds (cond : Nat) (v : Int) : Option Bool :=
  match cond with
  | 0 => some true
  | 1 => some (decide (v = 0))
  | 2 => some (decide (v ≠ 0))
  | 3 => some (decide (v < 0))
  | 4 => some (decide (0 ≤ v))
  | 5 => some (decide (0 < v))
  | 6 => some (decide (v ≤ 0))
  | _ => none

/-- Transfer to an address: outside the task's region it is a BOUNDS fault (R132). -/
def goto (s : State) (n : Nat) (c : Core) (t : Task) (target : Int) : Eff :=
  if 0 ≤ target ∧ target < 16384 ∧ t.inRegion target.toNat then .ok (s.setCore n (c.transfer (.goto target.toNat))) 1
  else .trap 2

/-- BR, opcode 3Ch (R124, R132). A branch not taken runs on through its two delay slots. -/
def execBr (core : Nat) (f : BFmt) (s : State) : Out :=
  .next (s.issue core (f.cond ≠ 7) (fun s c t =>
    if ¬ c.freeOfSlots then .trap 1
    else if condHolds f.cond.toNat (c.ri f.s.toNat) = some true then goto s core c t ((c.pc : Int) + f.ofs.toInt)
    else .ok (s.setCore core (c.transfer (.goto (c.pc + 3)))) 1))

/-- CALL, opcode 3Dh (R124): S and COND must be 0. -/
def execCall (core : Nat) (f : BFmt) (s : State) : Out :=
  .next (s.issue core (f.s = 0 && f.cond = 0) (fun s c t =>
    if ¬ c.freeOfSlots then .trap 1
    else goto s core (c.toD 1 31 (BitVec.ofNat 32 (c.pc + 3))) t ((c.pc : Int) + f.ofs.toInt)))

/-- JR, opcode 3Eh (R124): COND and OFS must be 0. -/
def execJr (core : Nat) (f : BFmt) (s : State) : Out :=
  .next (s.issue core (f.cond = 0 && f.ofs = 0) (fun s c t =>
    if ¬ c.freeOfSlots then .trap 1
    else goto s core c t (((c.rd f.s.toNat).toNat % 16384 : Nat) : Int)))

/-- RETI, opcode 3Fh (R124, R136): all fields zero. Outside a handler it restores what the last interrupt saved
(DEDUCED, log entry 20). -/
def execReti (core : Nat) (f : BFmt) (s : State) : Out :=
  .next (s.issue core (f.s = 0 && f.cond = 0 && f.ofs = 0) (fun s c _ =>
    if ¬ c.freeOfSlots then .trap 1 else .ok (s.setCore core (c.transfer .ret)) 1))

/-! ### Interrupts (R134 to R137) -/

/-- Whether core `n` can take an interrupt now: a task runs, outside a handler, at an interrupt point. -/
def State.atInterruptPoint (s : State) (n : Nat) : Bool :=
  let c := s.core n
  s.up .eng && c.current.isSome && !c.inHandler && (c.atPoint || c.stall.isSome) && decide (c.cycle < 25600)

/-- R136: take an interrupt to `handler`, in instructions from the start of the task's code. A stalled FWAIT or FFT
issues again after RETI; TEND's wait is returned to. -/
def State.takeInterrupt (s : State) (n handler : Nat) : State :=
  let s := s.settleAll n
  let c := s.core n
  match c.current with
  | none => s
  | some t =>
    let keep := if c.stall = some .tend then some Stall.tend else none
    s.setCore n { c with
      saved := { pc := c.pc, loops := c.loops, delay := c.delay, stall := keep, ien := c.ien }
      retPc := c.pc, ien := 0, loops := [], delay := none, stall := none, inHandler := true, atPoint := false
      pc := t.base + handler, cycle := c.cycle + 4 }

/-- Whether ERR is taken now (R134). -/
def State.errTaken (s : State) (n : Nat) : Bool :=
  let c := s.core n
  match c.current with
  | none => false
  | some t => s.atInterruptPoint n && c.errReq && decide (c.ien / 2 % 2 = 1) && decide (t.errHandler ≠ 0xFFFF)

/-- Whether MBOX is taken now: ERR goes first (R134). -/
def State.mboxTaken (s : State) (n : Nat) : Bool :=
  let c := s.core n
  match c.current with
  | none => false
  | some t => s.atInterruptPoint n && c.mboxReq && decide (c.ien % 2 = 1) && decide (t.mbHandler ≠ 0xFFFF) && !s.errTaken n

/-- A core that stalls has waited until `cycle` (R131). -/
def Core.waitedTo (c : Core) (cycle : Nat) : Core := if c.stall.isSome then { c with cycle := max c.cycle cycle } else c

/-- MBOX_INTERRUPT (R134, R136): its cycle is the interrupt point's where the core stalls. -/
def execMboxInterrupt (point : CoreCycle) (s : State) : Out :=
  .next (if s.mboxTaken point.core then
      let c := s.core point.core
      match c.current with
      | none => s
      | some t => (s.setCore point.core { c.waitedTo point.cycle with mboxReq := false }).takeInterrupt point.core t.mbHandler
    else s)

/-- ERR_INTERRUPT (R134, R136): its cycle is the interrupt point's where the core stalls. -/
def execErrInterrupt (point : CoreCycle) (s : State) : Out :=
  .next (if s.errTaken point.core then
      let c := s.core point.core
      match c.current with
      | none => s
      | some t => (s.setCore point.core { c.waitedTo point.cycle with errReq := false }).takeInterrupt point.core t.errHandler
    else s)

/-! ### Overrun (R147) -/

/-- R147: core `n` has not finished by the end of cycle 25,599: the running task stops with its outputs zero, the tasks
not dispatched are skipped with theirs. -/
def State.taskOverrun (s : State) (n : Nat) : State :=
  let c := s.core n
  let idx := match c.running with | none => 0xFFFF | some r => r.2
  let s := s.noteFault n idx 6 c.pc
  let s := (s.settleAll n)
  let cur := (s.core n).current
  let s := match cur with
    | none => s
    | some t => (s.lockWithdraw (coreOwner n)).breakTaskLocks n t
  let c := s.core n
  let c := match cur with
    | none => c
    | some t => (c.zeroOut t).setTask { t with run := .stopped }
  let c := { c with tasks := c.tasks.map (fun (t : Task) => if t.run = TaskRun.waiting then { t with run := .skipped } else t) }
  let s := s.setCore n c.halt
  (s.bump (A.SCB_OVERRUN_CNT n)).fatalFault.record 0x402 n [idx, c.pc, s.scnt]

/-- Whether core `n` still has a task to run or to dispatch in this tick. -/
def Core.unfinished (c : Core) : Bool := c.running.isSome || c.tasks.any (fun (t : Task) => decide (t.run = TaskRun.waiting))

/-- TASK_OVERRUN (R147). -/
def execTaskOverrun (core : Nat) (s : State) : Out :=
  .next (if s.up .eng ∧ (s.core core).unfinished then s.taskOverrun core else s)

end Sys2Proof.Machine
end

