-- ==== Sys2Proof/Machine/ScarabSys.lean ====
section
/-! DEFINITION. Scarab CSRs, mailboxes, FFT jobs, mover and locks (R138 to R145, R151). -/

namespace Sys2Proof.Machine

open Sys2Proof.Arith

/-! ### Mailboxes (R144, R145) -/

/-- Messages released to the running task and not removed. -/
def Core.releasedMsgs (c : Core) : List InMsg :=
  match c.running with
  | none => []
  | some r => c.mbin.filter (fun m => m.released && decide ((m.slot, m.task) = r))

/-- Remove the oldest message released to the running task (R141 MBPOP). -/
def Core.popMsg (c : Core) : Core :=
  match c.running with
  | none => c
  | some r =>
    let hit := fun (m : InMsg) => m.released && decide ((m.slot, m.task) = r)
    match c.mbin.findIdx? hit with
    | none => c
    | some i => { c with mbin := c.mbin.eraseIdx i }

/-- MBPOST, opcode 2Eh (R124, R145): S at most 28, T zero. -/
def execMbpost (core : Nat) (f : RFmt) (s : State) : Out :=
  .next (s.issue core (f.z = 0 && decide (f.s.toNat ≤ 28) && f.t = 0) (fun s c t =>
    if c.mbout.length < 16 then
      let m : OutMsg := { words := (List.range 4).map (fun i => c.rd (f.s.toNat + i)), task := t.idx,
                          tick := BitVec.ofNat 32 s.scnt }
      .ok (s.setCore core { (c.toD 1 f.d.toNat 1) with mbout := c.mbout ++ [m] }) 1
    else .ok ((s.setCore core (c.toD 1 f.d.toNat 0)).count (F.SCB_MBOUT_STAT_DROP core) 1) 1))

/-- The slot of the task of core `n` that a message to index `task` is for: while both programs have one there, the ACTIVE
slot's (DESIGN CHOICE, log entry 116). -/
def State.msgSlot (s : State) (n task : Nat) : Option Nat :=
  let l := ((s.core n).tasks.filter (fun t => decide (t.idx = task))).map (·.slot)
  match l.find? (fun k => decide (s.fget (F.ENG_SLOT_STAT_STATE k) = 3)) with
  | some k => some k
  | none => l.head?

/-- R144: a message for task `task` of core `n` is enqueued, or counted as dropped. -/
def State.enqueueMsg (s : State) (n task mode : Nat) (tick : W32) (words : List W32) : State :=
  let c := s.core n
  match s.msgSlot n task with
  | none => s.count (F.SCB_MBIN_STAT_DROP n) 1
  | some k =>
    if 16 ≤ c.mbin.length then s.count (F.SCB_MBIN_STAT_DROP n) 1
    else
      let now := mode = 1 ∧ c.running = some (k, task) ∧ c.ien % 2 = 1
      let m : InMsg := { words := words, slot := k, task := task, mode := mode, tick := tick, released := decide now }
      s.setCore n { c with mbin := c.mbin ++ [m], mboxReq := c.mboxReq || decide now }

/-- MBIN_ENQUEUE: a write of SCB_MBIN_CTRL enqueues the staged message, or counts it as dropped (R144, R151). -/
def execMbinEnqueue (core : Nat) (value : W32) (s : State) : Out :=
  .next (if s.held .eng then s
    else s.enqueueMsg core (bits value.toNat 15 0) (bits value.toNat 31 31) (s.reg (A.SCB_MBIN_TICK core))
      ((List.range 4).map (fun i => s.reg (A.SCB_MBIN_W core i))))

/-- MBOUT_POP: writing POP removes the oldest outbound message (R151). -/
def execMboutPop (core : Nat) (value : W32) (s : State) : Out :=
  .next (if s.held .eng ∨ value.toNat % 2 = 0 then s
    else
      let c := s.core core
      s.setCore core { c with mbout := c.mbout.drop 1 })

/-! ### FFT jobs (R138 to R140) -/

/-- R138: submit a job, or set FFT in ERRST where its points do not lie in the region at an even address. -/
def State.submitFft (s : State) (n : Nat) (f : GFmt) (t : Task) : State :=
  let c := s.core n
  let base := c.ra f.ax.toNat
  let lg := f.size.toNat + 4
  if base % 2 = 1 ∨ base < t.base ∨ t.base + t.size < base + 2 ^ (lg + 1) then s.setCore n (c.setErr 8)
  else
    let u := s.fftUnit (n / 8)
    s.setFftUnit (n / 8) { u with waiting := u.waiting ++ [{ core := n, base := base, lg := lg, inv := f.inv = 1,
                                                             keep := f.keep = 1, spoiled := false }] }

/-- FFT, opcode 2Fh (R124, R131, R138): it stalls behind the core's own job; not in a body or a handler. -/
def execFft (core : Nat) (f : GFmt) (s : State) : Out :=
  .next (s.issue core (f.z1 = 0 && f.z = 0 && decide (f.size.toNat ≤ 6)) (fun s c t =>
    if c.inHandler ∨ c.loops ≠ [] then .trap 1
    else if s.fftBusy core then .wait (.fft f)
    else .ok (s.submitFft core f t) 1))

/-- FWAIT, opcode 34h (R124, R131, R139): all fields zero; not in a body or a handler. -/
def execFwait (core : Nat) (f : RFmt) (s : State) : Out :=
  .next (s.issue core (f.d = 0 && f.s = 0 && f.t = 0 && f.z = 0) (fun s c _ =>
    if c.inHandler ∨ c.loops ≠ [] then .trap 1
    else if s.fftBusy core then .wait .fwait
    else .ok (s.setCore core c.takeExp) 1))

/-- R131: what a core that stalls waits for ends at cycle `cycle` of the tick. -/
def State.waitTo (s : State) (n cycle : Nat) : State := s.setCore n ((s.core n).waitedTo cycle)

/-- A core that stalled for its FFT job, or waits in TEND, goes on (R122, R131). -/
def State.resume (s : State) (n : Nat) : State :=
  let c := s.core n
  match c.stall, c.current with
  | some .fwait, some _ =>
    if s.fftBusy n then s else (s.setCore n { c.takeExp with stall := none }).advance n 1
  | some (.fft f), some t =>
    if s.fftBusy n then s else ((s.setCore n { c with stall := none }).submitFft n f t).advance n 1
  | some .tend, some _ => s.tryEnd n
  | _, _ => s

/-- FFT_JOB_START: a free unit takes its oldest waiting job (R138). -/
def execFftJobStart (unit : Nat) (s : State) : Out :=
  let u := s.fftUnit unit
  .next (match u.job, u.waiting with
    | none, j :: rest => if s.up .eng then s.setFftUnit unit { job := some j, waiting := rest } else s
    | _, _ => s)

/-- Local word `w` of core `n` with the core's own stores in it that are still in flight, as a unit beside the core reads it. -/
def State.storedWord (s : State) (n w : Nat) : W32 :=
  match ((s.core n).inflight.filter (fun r => decide (r.dst = .mem w))).getLast? with
  | none => s.localWord n w
  | some r => r.val.setWidth 32

/-- The points of a job, in order. -/
def State.fftPoints (s : State) (j : FftJob) : List Cpx :=
  (List.range (2 ^ j.lg)).map (fun i =>
    ((s.storedWord j.core (j.base + 2 * i)).toInt, (s.storedWord j.core (j.base + 2 * i + 1)).toInt))

/-- Stores in flight to the points of a job that has ended: the job read them, or they spoiled it. -/
def Core.dropStores (c : Core) (j : FftJob) : Core :=
  { c with inflight := c.inflight.filter (fun r => match r.dst with
      | .mem w => decide (w < j.base) || decide (j.base + 2 ^ (j.lg + 1) ≤ w)
      | _ => true) }

/-- Store the points of a job. -/
def State.setFftPoints (s : State) (j : FftJob) (z : List Cpx) : State :=
  forEach (z.zipIdx) s (fun s p =>
    (s.setLocal j.core (j.base + 2 * p.2) (toW p.1.1)).setLocal j.core (j.base + 2 * p.2 + 1) (toW p.1.2))

/-- The free result of a job whose points were written while it ran (R140). -/
def State.freePoints (s : State) (j : FftJob) : State :=
  forEach (List.range (2 ^ (j.lg + 1))) s (fun s i =>
    let w := s.drawWord
    w.2.setLocal j.core (j.base + i) w.1)

/-- R139: the exponent of an ended job waits for FWAIT or TEND; the core goes on at cycle `cycle` if it stalls for the job. -/
def State.endJob (s : State) (j : FftJob) (e cycle : Nat) : State :=
  let c := s.core j.core
  ((s.setCore j.core { c with fftDone := c.fftDone ++ [(e, j.keep)] }).waitTo j.core cycle).resume j.core

/-- FFT_JOB_DONE (R139, R140): the results land in the cycle of its end. A double-bit error in the job is the task's fault (R148). -/
def execFftJobDone (unit : Nat) (e : JobEnd) (s : State) : Out :=
  let u := s.fftUnit unit
  .next (match u.job with
    | none => s
    | some j =>
      let s := s.setFftUnit unit { u with job := none }
      if e.chk = .double then s.taskFault j.core 4
      else
        let s := if e.chk = .single then s.bump (A.SCB_ECC_CNT j.core) else s
        let z := fftRun j.inv j.lg (s.fftPoints j)
        let s := s.setCore j.core ((s.core j.core).dropStores j)
        if j.spoiled then
          let x := s.draw 5
          (x.2.freePoints j).endJob j x.1 e.cycle
        else (s.setFftPoints j z.1).endJob j z.2 e.cycle)

/-! ### CSRs (R141) -/

/-- What a CSRR returns; none where the CSR is WO or the index reserved. -/
def State.csrRead (s : State) (n idx : Nat) : Option W32 :=
  let c := s.core n
  let w := fun (v : Nat) => some (BitVec.ofNat 32 v)
  match idx with
  | 0x000 => w c.bexp
  | 0x001 => w c.ien
  | 0x002 => w c.flags
  | 0x003 => w c.errst
  | 0x004 => w s.scnt
  | 0x005 => w c.cycle
  | 0x008 => w c.releasedMsgs.length
  | 0x009 => some (((c.releasedMsgs.map (·.words)).headD []).getD 0 0)
  | 0x00A => some (((c.releasedMsgs.map (·.words)).headD []).getD 1 0)
  | 0x00B => some (((c.releasedMsgs.map (·.words)).headD []).getD 2 0)
  | 0x00C => some (((c.releasedMsgs.map (·.words)).headD []).getD 3 0)
  | 0x010 => w c.mvLoc
  | 0x011 => w c.mvRem
  | 0x012 => w c.mvLen
  | 0x014 => w (b2n c.mover.isSome + 2 * b2n c.mvErr)
  | 0x019 => w (c.lkState + 4 * b2n c.lkBroken + 256 * c.lkLock)
  | 0x01C => w c.retPc
  | _ => none

/-- R142: MV_GO starts a transfer; while one runs it is ignored and sets MOVER. DESIGN CHOICE (log entry 111): an accepted MV_GO
clears ERROR in MV_STAT. -/
def State.moverGo (s : State) (n : Nat) (v : W32) : State :=
  let c := s.core n
  if c.mover.isSome then s.setCore n (c.setErr 1)
  else
    let r := match c.current with | some t => (t.base, t.size) | none => (0, 0)
    s.setCore n { c with mvErr := false, mover := some { base := r.1, size := r.2, toYard := v.toNat % 2 = 1,
                                                         qos := bits v.toNat 4 1, loc := c.mvLoc, rem := c.mvRem, len := c.mvLen } }

/-- R143: LK_REQ for lock `k` by the running task, which is noted as the lock's where the request waits or is granted. -/
def State.coreLockRequest (s : State) (n k : Nat) : State :=
  if s.held .mem then s
  else
    let s := s.lockRequest (coreOwner n) k
    let c := s.core n
    match c.running with
    | none => s
    | some r =>
      if (c.lkState = 1 ∨ c.lkState = 2) ∧ c.lkLock = k then
        s.setCore n { c with holds := (k, r) :: c.holds.filter (fun h => decide (h.1 ≠ k)) }
      else s

/-- What a CSRW does; none where the CSR is RO or the index reserved (R141 to R143). -/
def State.csrWrite (s : State) (n idx : Nat) (v : W32) : Option State :=
  let c := s.core n
  let x := v.toNat
  match idx with
  | 0x000 => some (s.setCore n { c with bexp := x % 32 })
  | 0x001 => some (s.setCore n { c with ien := x % 4 })
  | 0x002 => some (s.setCore n { c with flags := c.flags &&& (3 - x % 4) })
  | 0x003 => some (s.setCore n { c with errst := c.errst &&& (15 - x % 16) })
  | 0x00D => some (s.setCore n c.popMsg)
  | 0x010 => some (s.setCore n { c with mvLoc := x % 2 ^ 14 })
  | 0x011 => some (s.setCore n { c with mvRem := x })
  | 0x012 => some (s.setCore n { c with mvLen := x % 2 ^ 13 })
  | 0x013 => some (s.moverGo n v)
  | 0x018 => some (s.coreLockRequest n (x % 256))
  | 0x01A => some (if s.up .mem then s.lockRelease (coreOwner n) (x % 256) else s)
  | _ => none

/-- CSRR, opcode 2Ch (R124, R141): S must be 0. -/
def execCsrr (core : Nat) (f : IFmt) (s : State) : Out :=
  .next (s.issue core (f.s = 0) (fun s c _ =>
    match s.csrRead core f.imm.toNat with
    | none => .trap 1
    | some v => .ok (s.setCore core (c.toD 2 f.d.toNat v)) 1))

/-- A CSRW of core `n` to CSR `idx` (R124, R141): D must be 0. -/
def State.issueCsrw (s : State) (n : Nat) (f : IFmt) (idx : Nat) : State :=
  s.issue n (f.d = 0) (fun s c _ =>
    match s.csrWrite n idx (c.rd f.s.toNat) with
    | none => .trap 1
    | some s => .ok s 1)

/-- CSRW, opcode 2Dh (R124, R141). -/
def execCsrw (core : Nat) (f : IFmt) (s : State) : Out := .next (s.issueCsrw core f f.imm.toNat)

/-- MBPOP: a CSRW of index 00Dh (R141). -/
def execMbpop (core : Nat) (f : IFmt) (s : State) : Out := .next (s.issueCsrw core f 0x00D)

/-- MV_GO: a CSRW of index 013h (R141, R142). -/
def execMvGo (core : Nat) (f : IFmt) (s : State) : Out := .next (s.issueCsrw core f 0x013)

/-- LK_REQ: a CSRW of index 018h (R141, R143). -/
def execLkReq (core : Nat) (f : IFmt) (s : State) : Out := .next (s.issueCsrw core f 0x018)

/-- LK_REL: a CSRW of index 01Ah (R141, R143). -/
def execLkRel (core : Nat) (f : IFmt) (s : State) : Out := .next (s.issueCsrw core f 0x01A)

end Sys2Proof.Machine
end

