-- ==== Sys2Proof/Machine/Pair.lean ====
section
/-! DEFINITION. Pairs: the pair state table, Crickets, the egress hash, mirroring, joining, and receivers of paired streams
(R320 to R344). -/

namespace Sys2Proof.Machine

open Sys2Proof.Arith

/-- Store the pair unit. -/
def State.setPair (s : State) (p : Pair) : State := { s with pair := p }

/-- The pair enters a state (R322). -/
def State.setPairState (s : State) (v : Nat) : State :=
  (s.setPair { s.pair with entered := 0, run := 0, twin := s.pair.twin && decide (v = 2) }).fset F.RED_STAT_STATE v

/-- R337: whether the device drives, as ports see it from now on. -/
def State.settleDriving (s : State) : State := s.setPair { s.pair with driving := s.drives }

/-- R322, R327: FAILED is entered with REASON `why`; what egress delivered in engine tick `t` or later does not leave. The
third entry within 600 s has reason 4. -/
def State.enterFailed (s : State) (why t : Nat) : State :=
  if ¬ s.paired ∨ s.pairState = 5 then s
  else
    let fails := s.eng.tick :: s.pair.fails.filter (fun u => decide (s.eng.tick < u + 600 * s.ticksPerSecond))
    let why := if 3 ≤ fails.length then 4 else why
    let s := ((s.setPairState 5).fset F.RED_STAT_LEADER 0).fset F.RED_STAT_REASON why
    let from_ := (s.scntOf t).toNat
    let s := { s with link := { s.link with contrib := s.link.contrib.filter (fun c => decide (sdiff c.1 from_ < 0)) } }
    let s := s.setPair { s.pair with fails := fails.take 3, calm := 0, handback := false, owe := true, told := false,
                                     mute := some (t, none), records := [], incoming := [] }
    s.settleDriving.record 0x603 0 [why]

/-- R322: a FAILED member goes back to SEEK and is not leader. -/
def State.leaveFailed (s : State) : State :=
  let s := (s.setPairState 1).fset F.RED_STAT_LEADER 0
  (s.setPair { s.pair with mute := s.pair.mute.map (fun m => (m.1, some (s.eng.tick + 1))), byEng := false }).settleDriving

/-- R322, R330: the follower enters JOIN. -/
def State.toJoin (s : State) : State :=
  if s.pairState = 3 ∧ ¬ s.fon F.RED_STAT_LEADER then (s.setPairState 2).settleDriving else s

/-- R325, R322, R343: the partner is declared failed; `cause` 0 Crickets missed, 1 a FAILED Cricket. -/
def State.declareFailed (s : State) (cause : Nat) : State :=
  let s := (s.setPair { s.pair with told := false }).record 0x601 0 [cause, s.scnt]
  if s.pairState = 3 then
    ((((s.setPairState 4).fset F.RED_STAT_FAILOVER 1).bump A.RED_FAILOVER_CNT).fset F.RED_STAT_LEADER 1).settleDriving
  else if s.pairState = 2 then s.enterFailed 3 s.eng.tick
  else s

/-! ### Crickets (R324 to R326) -/

/-- R322, R343: a Cricket from the partner with STATE `st`. -/
def State.onCricket (s : State) (st faults : Nat) : State :=
  let s := s.fset F.RED_STAT_PSTATE st
  let s := s.setPair { s.pair with faults := faults, sinceCricket := 0, told := decide (st = 5),
                                   twin := s.pair.twin && (s.pairState = 2 || st = 2) }
  let leads := s.fon F.RED_STAT_LEADER
  if s.pairState = 1 then
    (if st = 0 ∨ 5 ≤ st then s
     else if ¬ leads then s.setPairState 2
     else if st = 2 then s.setPairState 3 else s)
  else if s.pairState = 4 then
    (if st = 3 then s.setPairState 3
     else if st = 4 then
       let s := s.fset F.RED_STAT_SPLIT 1
       if s.fget F.RED_CFG_ROLE = 2 then (s.setPairState 2).fset F.RED_STAT_LEADER 0 else s
     else s)
  else s

/-- Whether a taken section is of type `ty` and from the partner. -/
def State.fromPartner (s : State) (ty : Nat) (t : Taken) : Bool :=
  decide (t.sect.type = ty) && decide (t.sect.origin = s.fget F.RED_CFG_PARTNER)

/-- CRICKET_RECEIVED (R322, R324): the oldest CRICKET section taken; a copy with the SEQ of the last one is discarded, and
so is a Cricket of a device that is not the partner. -/
def execCricketReceived (s : State) : Out :=
  .next (if s.held .lnk then s
    else
      match s.takeFirst (fun t => decide (t.sect.type = 4)) with
      | none => s
      | some (t, s) =>
        if ¬ s.paired ∨ ¬ s.fromPartner 4 t ∨ s.pair.lastSeq = some t.sect.seq then s
        else
          let pl := t.sect.payload
          let u := leNat ((pl.drop 8).take 4)
          let intime := decide (u % 12 = 0) && decide (sdiff s.scnt u < 12)
          let s := s.setPair { s.pair with lastSeq := some t.sect.seq,
                                           came := if intime then (u :: s.pair.came).take 8 else s.pair.came,
                                           misses := if intime then 0 else s.pair.misses }
          s.onCricket (pl.getD 1 0) (leNat ((pl.drop 2).take 2)))

/-- CRICKET_MISSED (R325): at cycle 0 of a Cricket tick, the Cricket of twelve ticks before has not come; the third miss in
a row declares the partner failed. -/
def execCricketMissed (s : State) : Out :=
  let u := (s.scnt + 2 ^ 32 - 12) % 2 ^ 32
  .next (if s.held .lnk ∨ ¬ s.paired ∨ s.scnt % 12 ≠ 0 ∨ s.pair.came.contains u then s
    else
      let s := (s.setPair { s.pair with came := (u :: s.pair.came).take 8, misses := s.pair.misses + 1 }).bump A.RED_CRICKET_MISS
      if s.pair.misses = 3 then s.declareFailed 0 else s)

/-! ### Failure, return, handback (R322, R327, R339) -/

/-- R327: a fatal local fault noted in the tick that ends puts a member in FAILED. -/
def State.takeFatal (s : State) : State :=
  match s.eng.fatal with
  | none => s
  | some t =>
    let s := { s with eng := { s.eng with fatal := none } }
    if s.pairState = 5 then s.setPair { s.pair with calm := 0 } else s.enterFailed 1 t

/-- FATAL_FAULT_FAILED (R327). -/
def execFatalFaultFailed (s : State) : Out := .next (if s.held .lnk then s else s.takeFatal)

/-- SEEK_TIMEOUT: a secondary without partner Crickets for 2 s becomes ALONE and leader (R322). -/
def execSeekTimeout (s : State) : Out :=
  let n := 2 * s.ticksPerSecond
  .next (if s.held .lnk ∨ s.pairState ≠ 1 ∨ s.fget F.RED_CFG_ROLE ≠ 2 ∨ s.pair.entered < n ∨ s.pair.sinceCricket < n then s
    else ((s.setPairState 4).fset F.RED_STAT_LEADER 1).settleDriving)

/-- AUTO_REJOIN (R322). -/
def execAutoRejoin (s : State) : Out :=
  let recent := s.pair.fails.filter (fun u => decide (s.eng.tick < u + 600 * s.ticksPerSecond))
  .next (if s.held .lnk ∨ s.held .eng ∨ s.pairState ≠ 5 ∨ ¬ s.fon F.RED_CFG_AUTO_REJOIN ∨ s.pair.calm < s.ticksPerSecond ∨
        3 ≤ recent.length ∨ s.fget F.RED_STAT_REASON = 4 then s
    else s.leaveFailed)

/-- PAIR_FAIL: RED_CTRL.FAIL written (R322, R344). -/
def execPairFail (s : State) : Out := .next (if s.held .lnk then s else s.enterFailed 2 s.eng.tick)

/-- PAIR_REJOIN: RED_CTRL.REJOIN written: FAILED goes to SEEK, and the failure count is cleared (R322). -/
def execPairRejoin (s : State) : Out :=
  .next (if s.held .lnk ∨ s.held .eng ∨ s.pairState ≠ 5 then s
    else (s.setPair { s.pair with fails := [] }).leaveFailed)

/-- HANDBACK: RED_CTRL.HANDBACK written while this device is PAIRED as leader (R322). -/
def execHandback (s : State) : Out :=
  .next (if s.held .lnk ∨ s.pairState ≠ 3 ∨ ¬ s.fon F.RED_STAT_LEADER then s else s.setPair { s.pair with handback := true })

/-- HANDBACK_TAKES_EFFECT (R322): at a Cricket tick the leader that asked stops leading; at a follower the command tells
that its leader asked. -/
def execHandbackTakesEffect (s : State) : Out :=
  .next (if s.held .lnk ∨ s.pairState ≠ 3 ∨ s.scnt % 12 ≠ 0 then s
    else if s.fon F.RED_STAT_LEADER then
      (if s.pair.handback then ((s.setPair { s.pair with handback := false, records := [] }).fset F.RED_STAT_LEADER 0).settleDriving
       else s)
    else (s.fset F.RED_STAT_LEADER 1).settleDriving)

/-- JOIN_TIMEOUT (R339). -/
def execJoinTimeout (s : State) : Out :=
  .next (if s.held .lnk ∨ s.pairState ≠ 2 ∨ s.pair.entered < max 1 (s.fget F.RED_LIMITS_TIMEOUT) * s.ticksPerSecond then s
    else s.enterFailed 3 s.eng.tick)

/-- R322: ROLE has changed, or ENG is released from a reset of the whole unit: a primary or secondary seeks, a primary as
leader; a solo device has no state beyond SOLO. -/
def State.startPair (s : State) : State :=
  let r := s.fget F.RED_CFG_ROLE
  let s := s.setPair { sinceCricket := 36 }
  let s := (s.setPairState 0).fset F.RED_STAT_LEADER 0
  if s.held .eng ∨ ¬ s.paired then s
  else ((s.setPairState 1).fset F.RED_STAT_LEADER (b2n (decide (r = 1)))).settleDriving

/-! ### Mirror sections (R264, R331, R332) -/

/-- The bytes of a record. -/
def MirrorRec.bytes (r : MirrorRec) : List Nat :=
  leBytes 1 r.kind ++ [0] ++ leBytes 2 r.words.length ++ leBytes 4 r.target ++ r.words.flatMap (leBytes 4)

/-- Bytes of a list of records. -/
def recBytes (l : List MirrorRec) : Nat := (l.map (fun r => r.bytes.length)).sum

/-- The records of a section's payload after its head, `n` of them. -/
def parseRecords : Nat → List Nat → List MirrorRec
  | 0, _ => []
  | n + 1, bs =>
    let k := leNat ((bs.drop 2).take 2)
    { kind := bs.getD 0 0, target := leNat ((bs.drop 4).take 4),
      words := (List.range k).map (fun i => leNat ((bs.drop (8 + 4 * i)).take 4)) } :: parseRecords n (bs.drop (8 + 4 * k))

/-- R331: what this tick's section takes of the records that wait: INPUT records that do not fit are dropped, the others
wait in their order. The parts are taken, waiting, and the number dropped. -/
def fillRecords (budget : Nat) (l : List MirrorRec) : List MirrorRec × List MirrorRec × Nat :=
  let ordered := [1, 2, 3, 4, 5, 6].flatMap (fun k => l.filter (fun r => decide (r.kind = k)))
  ordered.foldl (fun (acc : List MirrorRec × List MirrorRec × Nat) r =>
    if acc.2.1 = [] ∧ recBytes (acc.1 ++ [r]) ≤ budget then (acc.1 ++ [r], acc.2)
    else if r.kind = 1 then (acc.1, acc.2.1, acc.2.2 + 1)
    else (acc.1, acc.2.1 ++ [r], acc.2.2)) ([], [], 0)

/-- This device's hash of SCNT `t`. -/
def State.hashOf (s : State) (t : Nat) : Option Nat := (s.eng.hashes.find? (fun h => decide (h.1 = t))).map (·.2)

/-- R329, R331: the MIRROR section of the frames of this tick. -/
def State.formMirror (s : State) : State :=
  if ¬ s.mirrors then s.setPair { s.pair with mirror := none, records := [] }
  else
    let t := prevTick s.scnt
    let h := (s.hashOf t).getD 0
    let s := ((s.setReg A.RED_HASH_TICK (BitVec.ofNat 32 t)).setReg A.RED_HASH_LO (BitVec.ofNat 32 h)).setReg A.RED_HASH_HI
      (BitVec.ofNat 32 (h / 2 ^ 32))
    let r := fillRecords (s.fget F.RED_LIMITS_MBUDGET) (if s.mirrorLeader then s.pair.records else [])
    let pl := leBytes 4 t ++ leBytes 8 h ++ leBytes 2 r.1.length ++ leBytes 2 0 ++ r.1.flatMap MirrorRec.bytes
    (s.setPair { s.pair with mirror := some pl, records := r.2.1 }).count ⟨A.RED_MIRROR_LATE, 31, 0⟩ r.2.2

/-- R329: one MIRROR section that was taken: the partner's hash and records; a second copy is discarded. -/
def State.takeMirrorOnce (s : State) : State :=
  match s.takeFirst (fun t => decide (t.sect.type = 3)) with
  | none => s
  | some (t, s1) =>
    let pl := t.sect.payload
    let h := leNat (pl.take 4)
    if ¬ s.paired ∨ ¬ s.fromPartner 3 t ∨ s1.pair.hashes.any (fun x => decide (x.1 = h)) then s1
    else
      let recs := parseRecords (leNat ((pl.drop 12).take 2)) (pl.drop 16)
      s1.setPair { s1.pair with hashes := ((h, leNat ((pl.drop 4).take 8)) :: s1.pair.hashes).take 64,
                                incoming := s1.pair.incoming ++ (if s1.mirrorFollower then recs.map (fun r => (t.tick, r)) else []) }

/-- Every MIRROR section that was taken. -/
def State.takeMirror (s : State) : State := forEach s.link.inbox s (fun s _ => s.takeMirrorOnce)

/-! ### The egress hash (R329, R330, R338) -/

/-- HASH_COMPARE (R329, R330, R338): at cycle 0 of tick t + HLAT the hashes of tick t are compared. While the follower is in
JOIN a mismatch changes nothing at the leader either (R343). -/
def execHashCompare (s : State) : Out :=
  let t := (s.scnt + 2 ^ 32 - s.hlat) % 2 ^ 32
  .next (if s.held .lnk ∨ ¬ s.mirrors ∨ s.pair.judged = some t then s
    else
      let s := s.takeMirror
      let s := s.setPair { s.pair with judged := some t }
      match s.hashOf t with
      | none => s
      | some own =>
        match (s.pair.hashes.find? (fun h => decide (h.1 = t))).map (·.2) with
        | none => (s.setPair { s.pair with run := 0 }).bump A.RED_HASH_MISS
        | some h =>
          if s.pairState = 2 then
            (if h ≠ own then s.setPair { s.pair with run := 0 }
             else
               let run := s.pair.run + 1
               if max 1 (s.fget F.RED_TIMING_JOIN_RUN) ≤ run then (s.setPairState 3).settleDriving
               else s.setPair { s.pair with run := run })
          else if h = own then s
          else if s.pair.faults % 2 = 1 then s.declareFailed 1
          else if s.fget F.RED_STAT_PSTATE = 2 then s
          else
            (((s.fset F.RED_STAT_PAIR_DIVERGE 1).bump A.RED_DIVERGE_CNT).record 0x602 0 [t]).toJoin)

/-! ### Mirrored inputs (R333) -/

/-- The TARGET of mirror entry `i`. -/
def State.mirTarget (s : State) (i : Nat) : Nat :=
  s.fget (F.RED_INMIR_CLASS i) * 2 ^ 28 + s.fget (F.RED_INMIR_BIND i) % (if s.fon (F.RED_INMIR_CLASS i) then 32 else 512)

/-- The samples that the source of entry `i` gathered in this tick. -/
def State.mirSource (s : State) (i : Nat) : List Int :=
  let b := s.fget (F.RED_INMIR_BIND i)
  if s.fon (F.RED_INMIR_CLASS i) then [(s.mic (b % 32)).now] else (s.port (b % 16)).now.map (fun f => f.getD (b / 16) 0)

/-- Present other samples in their place. -/
def State.setMirSource (s : State) (i : Nat) (xs : List Int) : State :=
  let b := s.fget (F.RED_INMIR_BIND i)
  if s.fon (F.RED_INMIR_CLASS i) then s.setMic (b % 32) { (s.mic (b % 32)) with now := xs.headD 0 }
  else
    let p := s.port (b % 16)
    s.setPort (b % 16) { p with now := (p.now.zipIdx).map (fun f => setAt f.1 (b / 16) (xs.getD f.2 0)) }

/-- R333: a follower that seeks is without a leader until Crickets of its partner come. -/
def State.leaderless (s : State) : Bool := decide (s.pairState = 1) && decide (36 ≤ s.pair.sinceCricket)

/-- R333: mirrored sources present the samples of MLAT ticks ago, the leader's at a follower. -/
def State.mirrorInputs (s : State) : State :=
  if s.held .lnk then s
  else
    let want := (s.scnt + 2 ^ 32 - s.mlat) % 2 ^ 32
    forEach (List.range 64) s (fun s i =>
      if ¬ s.fon (F.RED_INMIR_EN i) then s
      else
        let xs := s.mirSource i
        let own := ((s.scnt, xs) :: Tbl.get s.pair.own [] i).take 17
        let mine := ((own.find? (fun o => decide (o.1 = want))).map (·.2)).getD []
        let s := s.setPair { s.pair with own := Tbl.set s.pair.own [] i own }
        let s := s.mirrorRecord { kind := 1, target := s.mirTarget i, words := xs.map (fun x => (toW x).toNat) }
        if s.mirrorFollower ∧ mine ≠ [] then
          match (Tbl.get s.pair.inputs [] i).find? (fun o => decide (o.1 = want)) with
          | some r => s.setMirSource i r.2
          | none => if s.leaderless then s.setMirSource i mine else ((s.bump A.RED_MIRROR_LATE).toJoin).setMirSource i mine
        else s.setMirSource i mine)

/-! ### Records at a follower (R332 to R334, R338) -/

/-- A record that came after its tick (R334). -/
def State.lateRecord (s : State) : State := (s.bump A.RED_MIRROR_LATE).toJoin

/-- One record of kinds INPUT, NOISE, ADAPT and TASKMSG, that frame `u` brought. -/
def State.takeRecord (s : State) (u : Nat) (r : MirrorRec) : State :=
  let w := fun (i : Nat) => r.words.getD i 0
  if r.kind = 1 then
    match (List.range 64).find? (fun i => s.fon (F.RED_INMIR_EN i) && decide (s.mirTarget i = r.target)) with
    | none => s
    | some i =>
      let l := (prevTick u, r.words.map (fun x => (BitVec.ofNat 32 x).toInt)) :: Tbl.get s.pair.inputs [] i
      s.setPair { s.pair with inputs := Tbl.set s.pair.inputs [] i (l.take 17) }
  else if r.kind = 2 then
    let z := r.target % 512
    let due : Int := (s.eng.tick : Int) + sdiff (w 1) s.scnt + s.fget F.ANA_CTRL_LEAD + s.mlat + 1
    if due ≤ s.eng.tick then s.lateRecord
    else s.setZone z { (s.zone z) with queued := (s.zone z).queued ++ [(due.toNat, some (BitVec.ofNat 32 (w 0)).toInt)] }
  else if r.kind = 3 then
    let a : AdaptW := { zone := r.target % 512, eq := bit (w 0) 0, band := bits (w 0) 3 1, entry := bits (w 0) 7 4,
                        value := BitVec.ofNat 32 (w 1), tick := BitVec.ofNat 32 (w 2) }
    if sdiff (w 2) s.scnt ≤ 0 then s.lateRecord else s.adaptWrite a
  else if sdiff (w 0) s.scnt ≤ 0 then s.lateRecord
  else s.enqueueMsg (r.target % 32) (bits r.target 20 5) 0 (BitVec.ofNat 32 (w 0))
    ((List.range 4).map (fun i => BitVec.ofNat 32 (w (i + 1))))

/-- Whether the unit that takes records of a kind runs: the engine, and for ADAPT and TASKMSG the firmware too. -/
def State.recordReady (s : State) (kind : Nat) : Bool :=
  s.up .lnk && s.up .eng && s.mirrorFollower && (decide (kind ≤ 2) || s.fwReady)

/-- The oldest record of kind `kind` that came, where it can be taken. -/
def State.takeRecordOnce (s : State) (kind : Nat) : State :=
  let s := s.takeMirror
  if ¬ s.recordReady kind then s
  else
    match s.pair.incoming.find? (fun r => decide (r.2.kind = kind)) with
    | none => s
    | some (u, r) => (s.setPair { s.pair with incoming := s.pair.incoming.erase (u, r) }).takeRecord u r

/-- INPUT_RECORD (R333). -/
def execInputRecord (s : State) : Out := .next (s.takeRecordOnce 1)

/-- NOISE_RECORD (R334). -/
def execNoiseRecord (s : State) : Out := .next (s.takeRecordOnce 2)

/-- ADAPT_RECORD (R334). -/
def execAdaptRecord (s : State) : Out := .next (s.takeRecordOnce 3)

/-- TASKMSG_RECORD (R334, R338): a follower takes the oldest such record; at a leader the firmware enqueues the message of
the operands and sends it as a record. -/
def execTaskmsgRecord (core task : Nat) (tick : W32) (words : List W32) (s : State) : Out :=
  .next (if s.mirrorLeader then
      (if ¬ s.fwReady ∨ s.held .eng ∨ 32 ≤ core ∨ 65536 ≤ task then s
       else
         let ws := (List.range 4).map (fun i => words.getD i 0)
         (s.mirrorRecord { kind := 4, target := core + 32 * task, words := tick.toNat :: ws.map (·.toNat) }).enqueueMsg
           core task 0 tick ws)
    else s.takeRecordOnce 4)

/-- Every record that has come and needs no further decision. -/
def State.settleRecords (s : State) : State :=
  let s := s.takeMirror
  forEach s.pair.incoming s (fun s r => if 1 ≤ r.2.kind ∧ r.2.kind ≤ 4 then s.takeRecordOnce r.2.kind else s)

/-! ### Joining (R338) -/

/-- R338: this member issues the activate command with crossfade to the twin in slot `k`. -/
def State.activateTwin (s : State) (k : Nat) (target len : W32) : State :=
  let s := s.activateXf { flags := 0, tag := 0, queue := 0, reserved := false } { op := ownOp, tag := 0, index := 0, late := false }
    (BitVec.ofNat 32 k) target len
  if s.eng.cmd.isSome then s.setPair { s.pair with twin := true } else s

/-- The slot that is LOADED: where the twin lies. -/
def State.twinSlot (s : State) : Nat := if s.slotState 0 = 2 then 0 else 1

/-- JOIN_RECORD (R338, steps 3 and 6): at a leader the firmware sends the record with target tick `target`, and both
members issue the command; the follower's values are the record's. -/
def execJoinRecord (target : W32) (s : State) : Out :=
  .next (if s.held .lnk ∨ s.held .eng ∨ ¬ s.fwReady then s
    else if s.mirrorLeader then
      (if ¬ s.fon F.RED_TWIN_READY ∨ bit s.pair.faults 7 ∨ s.fget F.RED_STAT_PSTATE ≠ 2 ∨ s.slotBusy then s
       else
         let k := s.twinSlot
         let len := BitVec.ofNat 32 (s.fget F.RED_TWIN_LEN)
         (s.mirrorRecord { kind := 5, target := k, words := [target.toNat, len.toNat] }).activateTwin k target len)
    else
      let s := s.takeMirror
      match s.pair.incoming.find? (fun r => decide (r.2.kind = 5)) with
      | none => s
      | some (u, r) =>
        let s := s.setPair { s.pair with incoming := s.pair.incoming.erase (u, r) }
        if s.pairState ≠ 2 then s
        else s.activateTwin (r.target % 2) (BitVec.ofNat 32 (r.words.getD 0 0)) (BitVec.ofNat 32 (r.words.getD 1 0)))

/-- Task `idx` of core `n`. -/
def State.taskOn (s : State) (n idx : Nat) : Option Task := (s.core n).tasks.find? (fun t => decide (t.idx = idx))

/-- REGION_RECORD (R338, step 5): a leader sends `count` words of a task's region from doubleword `first`; a follower writes
the words of the oldest such record into its own region. -/
def execRegionRecord (core task first count : Nat) (s : State) : Out :=
  .next (if s.held .lnk ∨ s.held .eng then s
    else if s.mirrorLeader then
      (match s.taskOn core task with
       | none => s
       | some t =>
         let ws := (List.range count).filterMap (fun i =>
           if 2 * first + i < t.size then some (s.localWord core (t.base + 2 * first + i)).toNat else none)
         if ¬ s.fwReady ∨ 32 ≤ core ∨ ws = [] then s
         else s.mirrorRecord { kind := 6, target := core + 32 * task, words := first :: ws })
    else
      let s := s.takeMirror
      match s.pair.incoming.find? (fun r => decide (r.2.kind = 6)) with
      | none => s
      | some (u, r) =>
        let s := s.setPair { s.pair with incoming := s.pair.incoming.erase (u, r) }
        match s.taskOn (r.target % 32) (bits r.target 20 5) with
        | none => s
        | some t =>
          if s.pairState ≠ 2 then s
          else
            let f := 2 * r.words.headD 0
            forEach ((r.words.drop 1).zipIdx) s (fun s w =>
              if f + w.2 < t.size then s.setLocal (r.target % 32) (t.base + f + w.2) (BitVec.ofNat 32 w.1) else s))

/-! ### Receivers of paired streams (R335, R336) -/

/-- Whether a source node of a program in a slot is bound to receive entry `e` of a class. -/
def State.entryBound (s : State) (rtp : Bool) (port e : Nat) : Bool :=
  [0, 1].any (fun k => (s.slot k).prog.nodes.any (fun n =>
    if rtp then decide (n.type = T.srcRtp) && decide (bits n.bind 5 0 = e)
    else decide (n.type = T.srcLane) && decide (bits n.bind 1 0 = port) && decide (bits n.bind 9 2 = e)))

/-- R335: whether paired entry `i` is in use: enabled, of two entries with equal rate, phase and channels, Y unbound. -/
def State.rxPaired (s : State) (i : Nat) : Bool :=
  let x := s.fget (F.RED_RXPAIR_X i)
  let y := s.fget (F.RED_RXPAIR_Y i)
  let p := s.fget (F.RED_RXPAIR_PORT i)
  s.fon (F.RED_RXPAIR_EN i) && decide (x ≠ y) &&
    (if s.fon (F.RED_RXPAIR_CLASS i) then
      decide (x < 64) && decide (y < 64) && decide (s.fget (F.RTP_RX_W0_RATE x) = s.fget (F.RTP_RX_W0_RATE y)) &&
        decide (s.fget (F.RTP_RX_W0_CHANNELS x) = s.fget (F.RTP_RX_W0_CHANNELS y)) && !s.entryBound true 0 y
     else
      decide (s.fget (F.LNK_RX_W0_RATE p x) = s.fget (F.LNK_RX_W0_RATE p y)) &&
        decide (s.fget (F.LNK_RX_W0_PHASE p x) = s.fget (F.LNK_RX_W0_PHASE p y)) &&
        decide (s.fget (F.LNK_RX_W0_CHANNELS p x) = s.fget (F.LNK_RX_W0_CHANNELS p y)) && !s.entryBound false p y)

/-- The frames that an RTP entry has for this tick. -/
def State.rtpFrames (s : State) (i : Nat) : Option (List (List Int)) :=
  if s.fon (F.RTP_RX_W0_EN i) ∧ s.rxHolds i 1 then
    some ((List.range (s.rxM i)).map (fun k => ((s.rxStream i).frameAt ((s.rxWant i + k) % 2 ^ 32)).getD []))
  else none

/-- The frames of this tick that the two entries of pair `i` have. -/
def State.pairFrames (s : State) (i : Nat) : Option (List (List Int)) × Option (List (List Int)) :=
  let x := s.fget (F.RED_RXPAIR_X i)
  let y := s.fget (F.RED_RXPAIR_Y i)
  let p := s.fget (F.RED_RXPAIR_PORT i)
  if s.fon (F.RED_RXPAIR_CLASS i) then (s.rtpFrames x, s.rtpFrames y) else (s.laneFrames (256 * p + x), s.laneFrames (256 * p + y))

/-- R335, R336: what is presented of `m` frames of `n` channels: the frames, the pair's state, whether the copy changed,
and whether the tick is missing. -/
def PairRx.pick (st : PairRx) (x y : Option (List (List Int))) (m n : Nat) : List (List Int) × PairRx × Bool × Bool :=
  let first := if st.useY then y else x
  let got := first.orElse (fun _ => if st.useY then x else y)
  let last := if st.last.length = n then st.last else List.replicate n 0
  match got with
  | none =>
    let j := st.miss + 1
    (List.replicate m (last.map (fun v => conceal v j)), { st with miss := j, last := last, fade := none }, false, true)
  | some fs =>
    let fade : Option Fade := if 0 < st.miss then some { g0 := 0, g1 := unity, k := 0, n := 64 } else st.fade
    let r := fadeFrames fade fs
    (r.1, { useY := if first.isSome then st.useY else !st.useY, miss := 0, last := r.1.getLastD last, fade := r.2 }, first.isNone, false)

/-- R335, R336: paired entries, with the frames they had before ingest took them, present their pick through X. -/
def State.pairReceive (s : State) (had : List (Option (List (List Int)) × Option (List (List Int)))) : State :=
  if s.held .lnk then s
  else
    forEach (had.zipIdx) s (fun s h =>
      let i := h.2
      let x := s.fget (F.RED_RXPAIR_X i)
      let p := s.fget (F.RED_RXPAIR_PORT i)
      let rtp := s.fon (F.RED_RXPAIR_CLASS i)
      let m := if rtp then s.rxM x else s.laneSamples (256 * p + x)
      let n := (if rtp then s.fget (F.RTP_RX_W0_CHANNELS x) else s.fget (F.LNK_RX_W0_CHANNELS p x)) + 1
      if ¬ s.rxPaired i ∨ m = 0 then s
      else
        let r := (Tbl.get s.pair.rx {} i).pick h.1.1 h.1.2 m n
        let s := s.setPair { s.pair with rx := Tbl.set s.pair.rx {} i r.2.1 }
        let s := if r.2.2.1 then s.bump A.RED_RX_SWITCH else s
        if rtp then
          let s := if r.2.2.2 then s.bump (A.RTP_RX_UNDER x) else s
          s.setRxStream x { (s.rxStream x) with now := r.1 }
        else s.setLaneStream (256 * p + x) { (s.laneStream (256 * p + x)) with now := r.1 })

/-! ### A tick at the pair unit -/

/-- The pair unit at the boundary that has begun this tick: FAILED Crickets (R325), time, the Cricket and the MIRROR section
of this tick's frames (R324, R331). -/
def State.pairTick (s : State) : State :=
  if s.held .lnk ∨ ¬ s.paired then s
  else
    let s := if s.pair.told then s.declareFailed 1 else s
    let due := s.scnt % 12 = 0 ∨ s.pair.owe
    let p := s.pair
    let s := s.setPair { p with sinceCricket := p.sinceCricket + 1, entered := p.entered + 1, calm := p.calm + 1,
                                eccAge := min 12 (p.eccAge + 1), owe := false,
                                cricket := if due then some p.cseq else none,
                                cseq := if due then (p.cseq + 1) % 2 ^ 32 else p.cseq }
    let s := if due then s.fset F.RED_STAT_FAULTS s.pairFaults else s
    s.formMirror.settleDriving

end Sys2Proof.Machine
end

