-- ==== Sys2Proof/Machine/Memory.lean ====
section
/-! DEFINITION. Stall ownership, Stall locks as commands, Weevil, bulk memory and the deadline arbiter (R352 to R376). -/

namespace Sys2Proof.Machine

open Sys2Proof.Arith

/-! ### Locks (R357 to R360) -/

/-- The owner domain of a RID (R345). -/
def ridDomain (rid : Nat) : Option Dom :=
  if rid < 32 then some .eng
  else
    match rid with
    | 38 | 39 | 50 => some .ctl
    | 40 | 41 => some .hif
    | 42 | 43 | 44 | 45 | 46 => some .lnk
    | 47 | 48 | 51 => some .mem
    | 49 => some .aon
    | _ => if rid ≤ 37 then some .eng else none

/-- The owner ID of a requester (R357); QUEUE counts for the host register path alone. -/
def ridOwner (rid queue : Nat) : Option Nat := (ridDomain rid).map (fun d => ownerId rid (if rid = 41 then queue else 0) d)

/-- A request or release by a requester: OP 1 or 2 of MEM_LK_CMD (R378). -/
def State.lockCommand (s : State) (rid queue op k : Nat) : State :=
  match ridOwner rid queue with
  | none => s
  | some o => if s.held .mem ∨ 256 ≤ k then s else if op = 1 then s.lockRequest o k else if op = 2 then s.lockRelease o k else s

/-- LOCK_REQUEST (R358). -/
def execLockRequest (rid queue lock : Nat) (s : State) : Out := .next (s.lockCommand rid queue 1 lock)

/-- LOCK_RELEASE (R358). -/
def execLockRelease (rid queue lock : Nat) (s : State) : Out := .next (s.lockCommand rid queue 2 lock)

/-- LOCK_TIMEOUT: the hold timer of a held lock has run out (R360). -/
def execLockTimeout (lock : Nat) (s : State) : Out :=
  .next (if s.held .mem ∨ 256 ≤ lock ∨ ¬ s.lockHeld lock then s else s.breakLock lock 2)

/-! ### Handover of a Stall (R353, R354) -/

/-- A write of OWNER of Stall `k`; PEND sets and the outgoing owner keeps OWNER until its transactions have drained. Values
24 to 28 are ignored, and Stalls 0 to 63 keep ENGINE. -/
def State.writeOwner (s : State) (k owner : Nat) : State :=
  if s.held .mem ∨ k < 64 ∨ 96 ≤ k ∨ 31 < owner ∨ (24 ≤ owner ∧ owner ≤ 28) then s
  else
    ({ s with yard := { s.yard with handover := Tbl.set s.yard.handover none k (some owner) } }).fset (F.MEM_STALL_PEND k) 1

/-- STALL_HANDOVER (R354). -/
def execStallHandover (stall owner : Nat) (s : State) : Out := .next (s.writeOwner stall owner)

/-- HANDOVER_COMPLETE (R354): the last transaction granted before is done. -/
def execHandoverComplete (stall : Nat) (s : State) : Out :=
  .next (match Tbl.get s.yard.handover none stall with
    | none => s
    | some o =>
      if s.held .mem ∨ (Tbl.get s.yard.excl none stall).isSome then s
      else
        (({ s with yard := { s.yard with handover := Tbl.set s.yard.handover none stall none } }).fset
          (F.MEM_STALL_OWNER stall) o).fset (F.MEM_STALL_PEND stall) 0)

/-! ### ECC errors (R352, R367) -/

/-- A corrected or uncorrectable error in a Stall word at Yard address `a`. -/
def State.stallEcc (s : State) (a : Nat) (double : Bool) : State :=
  let s := s.setReg A.MEM_ECC_ADDR (BitVec.ofNat 32 a)
  if double then
    ((s.setPair { s.pair with eccAge := 0 }).bump A.MEM_ECC_UE).record 0x301 (a / 0x40000) [a, 0]
  else s.bump A.MEM_ECC_CE

/-- A corrected or uncorrectable error in bulk memory at bulk address `a`. -/
def State.bulkEcc (s : State) (a : Nat) (double : Bool) : State :=
  let s := (s.setReg A.BLK_ECC_ADDR_LO (BitVec.ofNat 32 a)).setReg A.BLK_ECC_ADDR_HI (BitVec.ofNat 32 (a / 2 ^ 32 % 2))
  if double then
    (((s.setPair { s.pair with eccAge := 0 }).bump A.BLK_ECC_UE).fset F.BLK_STAT_UE_SEEN 1).record 0x301 0xFFF
      [a % 2 ^ 32, a / 2 ^ 32]
  else s.bump A.BLK_ECC_CE

/-! ### Weevil (R361 to R364) -/

/-- SHARE in force (R378). -/
def State.wvShare (s : State) : Nat :=
  let n := s.fget F.MEM_WV_CTRL_SHARE
  if 1 ≤ n ∧ n ≤ 100 then n else 10

/-- Seconds of MEM_WV_PERIOD in force. -/
def State.wvPeriod (s : State) : Nat := max 60 (min 900 (s.fget F.MEM_WV_PERIOD_SECONDS))

/-- The time base of AON: units of 1/1,024 s of XO since POR. -/
def State.now (s : State) : Nat := s.loft.sincePor

/-- Whether Weevil runs. -/
def State.wvOn (s : State) : Bool := s.up .mem && s.fon F.MEM_WV_CTRL_EN

/-- The region under test in a Paddock. -/
def State.wvPos (s : State) (p : Nat) : Nat := Tbl.get s.weevil.pos 0 p

/-- Whether self-test has a Paddock (R448): group 1 has Paddocks 0 to 5, group 2 Paddocks 6 to 11. -/
def State.underBist (s : State) (p : Nat) : Bool :=
  match s.tst.cur with
  | some 1 => decide (p < 6)
  | some 2 => decide (6 ≤ p)
  | _ => false

/-- RUN and TEST as Weevil's state gives them. -/
def State.showWeevil (s : State) : State :=
  let s := s.fset F.MEM_WV_STAT_RUN (b2n s.wvOn)
  let s := s.fset F.MEM_WV_STAT_HELD (b2n (s.weevil.held ≠ []))
  forEach (List.range 96) s (fun s k =>
    let p := k / 8
    s.fset (F.MEM_STALL_TEST k) (b2n ((s.wvOn || Tbl.get s.weevil.held false p) && !s.underBist p && decide (s.wvPos p / 520 = k % 8))))

/-- A pass begins. -/
def State.startPass (s : State) : State :=
  ({ s with weevil := { s.weevil with pos := [], start := s.now, noted := false } }).showWeevil

/-- The row and, for a spare row, the spare that a region lies in: regions 512 to 519 are those of the spare rows. -/
def regionRow (r : Nat) : Nat × Option Nat := if r < 512 then (r / 2, none) else (0, some ((r - 512) / 2))

/-- Yard address of word `w` of region `r` of a Stall; a spare row has no address of its own, and the Stall's first address
stands for it. -/
def regionAddr (stall r w : Nat) : Nat := stall * 0x40000 + if r < 512 then (r * 64 + w) * 8 else 0

/-- WEEVIL_SHARE_WINDOW (R363): a window of 1,000 Yard-side cycles ends in a Paddock. -/
def execWeevilShareWindow (paddock : Nat) (s : State) : Out :=
  .next (if s.held .mem ∨ 12 ≤ paddock then s
    else { s with weevil := { s.weevil with had := Tbl.set s.weevil.had 0 paddock 0 } })

/-- WEEVIL_PASS_DONE (R364): every region of every Paddock is tested, the scrub and the spare cores are done. -/
def execWeevilPassDone (s : State) : Out :=
  let secs := (s.now - s.weevil.start) / 1024
  .next (if ¬ s.wvOn ∨ (List.range 12).any (fun p => decide (s.wvPos p < 4160)) then s
    else
      let s := (s.count F.MEM_WV_PASS_COUNT 1).fset F.MEM_WV_PASS_LAST (min secs 65535)
      let s := if secs ≤ s.wvPeriod then s.fset F.MEM_WV_STAT_COVERAGE_LATE 0 else s
      s.startPass)

/-- COVERAGE_LATE (R364): the pass has lasted longer than MEM_WV_PERIOD. -/
def execCoverageLate (s : State) : Out :=
  let secs := (s.now - s.weevil.start) / 1024
  .next (if s.held .mem ∨ secs ≤ s.wvPeriod ∨ s.weevil.noted then s
    else
      (({ s with weevil := { s.weevil with noted := true } }).fset F.MEM_WV_STAT_COVERAGE_LATE 1).record 0x306 0 [secs])

/-! ### Bulk memory (R365 to R370) -/

/-- BLK_CFG_WRITE (R366, R379): a write that changes SIZE or RATE asks for training and loses the contents; it is ignored
while a slot is not EMPTY. -/
def execBlkCfgWrite (value : W32) (s : State) : Out :=
  let t := s.writePlain A.BLK_CFG value
  let changed := t.fget F.BLK_CFG_SIZE ≠ s.fget F.BLK_CFG_SIZE ∨ t.fget F.BLK_CFG_RATE ≠ s.fget F.BLK_CFG_RATE
  .next (if ¬ changed then t
    else if s.slotState 0 ≠ 0 ∨ s.slotState 1 ≠ 0 then s
    else
      ({ t with bulk := [], blk := { t.blk with training := false } }).fset F.BLK_STAT_READY 0 |>.fset F.BLK_STAT_TRAIN_FAIL 0)

/-- BLK_DLY_BASE_WRITE (R368): taken only while no slot holds a BULKDLY node. -/
def execBlkDlyBaseWrite (value : W32) (s : State) : Out :=
  .next (if [0, 1].any (fun k => (s.slot k).prog.nodes.any (fun n => decide (n.type = T.bulkDly))) then s
    else s.writePlain A.BLK_DLY_BASE value)

/-- BULK_TRAINING_START (R366): with READY and TRAIN_FAIL 0 the firmware trains; before the first training after POR, with
LOCK clear, SIZE takes the density of MR8. -/
def execBulkTrainingStart (density : Nat) (s : State) : Out :=
  .next (if s.held .mem ∨ s.held .ctl ∨ s.fon F.BLK_STAT_READY ∨ s.fon F.BLK_STAT_TRAIN_FAIL ∨ s.blk.training then s
    else
      let s := if s.blk.trained ∨ s.fon F.BLK_CFG_LOCK then s else s.fset F.BLK_CFG_SIZE (density % 4)
      { s with blk := { s.blk with training := true, trained := true } })

/-- BULK_TRAINING_DONE (R365, R366). -/
def execBulkTrainingDone (pass : Bool) (s : State) : Out :=
  .next (if s.held .mem ∨ ¬ s.blk.training then s
    else ({ s with blk := { s.blk with training := false } }).fset (if pass then F.BLK_STAT_READY else F.BLK_STAT_TRAIN_FAIL) 1)

/-- BULK_REFILL (R370): 8 ticks are held ahead after an underrun, and the output fades in over 64 samples. -/
def execBulkRefill (slot node : Nat) (s : State) : Out :=
  let x := s.slot slot
  let n := x.prog.node node
  let st := x.node node
  .next (if ¬ s.slotWorks slot ∨ ¬ st.starved ∨ (n.type ≠ T.bulkDly ∧ n.type ≠ T.srcVoice) then s
    else s.setSlot slot (x.setNode node { st with starved := false, fade := fadeTo st.fade unity 64 }))

/-! ### The deadline arbiter (R371 to R375) -/

/-- Signed 20-bit difference (R371). -/
def diff20 (a b : Nat) : Int := ((a + 2 ^ 20 - b % 2 ^ 20 + 2 ^ 19) % 2 ^ 20 : Nat) - (2 ^ 19 : Int)

/-- The cycle count of the arbiter at cycle `c` of this tick. -/
def State.arbCycle (s : State) (c : Nat) : Nat := s.ecnt + c

/-- *now* (R371): bits [25:6] of the ECLK counter. -/
def arbNow (cyc : Nat) : Nat := cyc / 64 % 2 ^ 20

/-- BIAS in force: limited to plus or minus 2^18 (R377). -/
def State.arbBias (s : State) (r : Nat) : Int := max (-(2 ^ 18)) (min (s.regInt (A.YRD_ARB_BIAS r)) (2 ^ 18))

/-- Whether the scrub has not had its share of the window (R375). -/
def State.scrubDue (s : State) : Bool := decide (s.blk.had < s.wvShare)

/-- Requester `r`'s effective deadline less *now* (R372, R375). -/
def State.arbDue (s : State) (cyc r : Nat) (q : ArbReq) : Int :=
  (if r = 7 ∧ s.scrubDue then -1 else diff20 q.deadline (arbNow cyc)) + s.arbBias r

/-- The request of requester `r`. -/
def State.arbReq (s : State) (r : Nat) : Option ArbReq := Tbl.get s.blk.reqs none r

/-- Store a request. -/
def State.setArbReq (s : State) (r : Nat) (q : Option ArbReq) : State :=
  { s with blk := { s.blk with reqs := Tbl.set s.blk.reqs none r q } }

/-- Whether the bulk port is idle. -/
def State.portIdle (s : State) : Bool := s.fon F.YRD_ARB_GRANT_IDLE

/-- The owner of the bulk port. -/
def State.portOwner (s : State) : Nat := s.fget F.YRD_ARB_GRANT_OWNER

/-- A requester loses: it presents nothing for its back-off, which doubles up to 4,096 (R374). -/
def State.arbLose (s : State) (cyc r : Nat) : State :=
  match s.arbReq r with
  | none => s
  | some q =>
    let b := s.fget (F.YRD_ARB_STAT_BACKOFF r)
    (((s.setArbReq r (some { q with here := false, till := cyc + b })).fset (F.YRD_ARB_STAT_BACKOFF r) (min 4096 (2 * b)))).bump
      (A.YRD_ARB_LOSS r)

/-- The present requests with what is left of their effective deadlines; the owner's own is not among them. -/
def State.arbPresent (s : State) (cyc : Nat) : List (Nat × Int) :=
  (List.range 8).filterMap (fun r =>
    match s.arbReq r with
    | none => none
    | some q => if q.here ∧ (s.portIdle ∨ s.portOwner ≠ r) then some (r, s.arbDue cyc r q) else none)

/-- The nearest of a list; the lower requester on a tie (R372). -/
def arbNearest (l : List (Nat × Int)) : Option (Nat × Int) :=
  l.foldl (fun best x => match best with | none => some x | some b => if x.2 < b.2 then some x else best) none

/-- A contest at cycle `cyc` (R372): the nearest present request wins the port, every other one loses. -/
def State.arbContest (s : State) (cyc : Nat) : State :=
  let l := s.arbPresent cyc
  match arbNearest l with
  | none => s.fset F.YRD_ARB_GRANT_IDLE 1
  | some w =>
    let s := forEach l s (fun s x => if x.1 = w.1 then s else s.arbLose cyc x.1)
    let s := ((s.fset F.YRD_ARB_GRANT_IDLE 0).fset F.YRD_ARB_GRANT_OWNER w.1).fset (F.YRD_ARB_STAT_BACKOFF w.1) 16
    { s with blk := { s.blk with start := cyc } }

/-- R373: in a cycle of a burst other than its last, a request nearer than the owner by more than PREEMPT_MARGIN makes a
contest, and the owner is revoked; the scrub in its share never revokes. -/
def State.arbPreempt (s : State) (cyc : Nat) : State :=
  let o := s.portOwner
  match s.arbReq o with
  | none => s
  | some q =>
    let mine := s.arbDue cyc o q
    let margin : Int := s.fget F.YRD_ARB_CTRL_PREEMPT_MARGIN
    let beats := cyc - s.blk.start
    if q.beats ≤ beats then s
    else if (s.arbPresent cyc).any (fun x => !(decide (x.1 = 7) && s.scrubDue) && decide (x.2 + margin < mine)) then
      let s := if o = 7 then { s with blk := { s.blk with had := s.blk.had + beats } } else s
      let s := (s.arbLose cyc o).bump A.YRD_ARB_REVOKE
      (s.fset F.YRD_ARB_GRANT_IDLE 1).arbContest cyc
    else s

/-- The requests whose back-off has ended by cycle `cyc` are presented again, with their deadlines (R374). -/
def State.arbWake (s : State) (cyc : Nat) : State :=
  forEach (List.range 8) s (fun s r =>
    match s.arbReq r with
    | none => s
    | some q => if ¬ q.here ∧ q.till ≤ cyc then s.setArbReq r (some { q with here := true }) else s)

/-- The arbiter looks at the requests in cycle `cyc`: an idle port makes a contest, a burst may be revoked. -/
def State.arbEval (s : State) (cyc : Nat) : State :=
  let s := s.arbWake cyc
  if s.portIdle then s.arbContest cyc else s.arbPreempt cyc

/-- BULK_REQUEST (R371): requester `r` presents a request of `beats` beats in cycle `cycle` of the tick; requesters 4 to 7
get a synthesised deadline. -/
def execBulkRequest (r deadline beats cycle : Nat) (s : State) : Out :=
  let cyc := s.arbCycle cycle
  .next (if s.held .mem ∨ 8 ≤ r ∨ beats = 0 ∨ 16 < beats ∨ (s.arbReq r).isSome then s
    else
      let d := if r < 4 then deadline % 2 ^ 20 else (arbNow cyc + s.fget (F.YRD_ARB_AGE_VALUE r)) % 2 ^ 20
      (s.setArbReq r (some { deadline := d, beats := beats, here := true, till := 0 })).arbEval cyc)

/-- BULK_BURST_DONE (R372): the owner's last beat, in which a contest is decided. -/
def execBulkBurstDone (cycle : Nat) (s : State) : Out :=
  .next (if s.held .mem ∨ s.portIdle then s
    else
      let o := s.portOwner
      let n := match s.arbReq o with | none => 0 | some q => q.beats
      let s := s.setArbReq o none
      let s := if o = 7 then { s with blk := { s.blk with had := s.blk.had + n } } else s
      ((s.fset F.YRD_ARB_GRANT_IDLE 1).arbWake (s.arbCycle cycle)).arbContest (s.arbCycle cycle))

/-- BACKOFF_EXPIRY (R374): a loser presents its request again, with its deadline. -/
def execBackoffExpiry (r cycle : Nat) (s : State) : Out :=
  let cyc := s.arbCycle cycle
  .next (match s.arbReq r with
    | none => s
    | some q =>
      if s.held .mem ∨ q.here ∨ cyc < q.till then s else s.arbEval cyc)

/-- ARB_WINDOW (R375): a window of 1,000 cycles of the port ends. -/
def execArbWindow (s : State) : Out :=
  .next (if s.held .mem then s else { s with blk := { s.blk with had := 0 } })

/-- ARB_BIAS_WRITE (R372): BIAS applies from the next cycle's evaluation. -/
def execArbBiasWrite (r : Nat) (value : W32) (cycle : Nat) (s : State) : Out :=
  .next (if s.held .mem ∨ 8 ≤ r then s
    else
      let s := s.writePlain (A.YRD_ARB_BIAS r) value
      if s.portIdle then s else s.arbPreempt (s.arbCycle cycle + 1))

end Sys2Proof.Machine
end

