-- ==== Sys2Proof/Machine/Hif.lean ====
section
/-! DEFINITION. Host interface: doorbells, ring set-up, heartbeats, the commands that are not scene commands, completions and
events as they are written, and the audio stream rings (R381 to R402). -/

namespace Sys2Proof.Machine

open Sys2Proof.Arith

/-! ### Doorbells (R381, R384) -/

/-- A doorbell write that breaks a limit (R384): RING_ERR with the ring's number, and vector 0. -/
def State.ringErr (s : State) (ring : Nat) : State :=
  ((s.fset F.HIF_STAT_RING_ERR 1).fset F.HIF_STAT_RING_ERR_ID ring).msix 0

/-- Whether a host-side index may move from `old` to `v`: forward, within `size` of the engine's index at a host-produced
ring, not past it at an engine-produced one. -/
def indexOk (produced : Bool) (old v eng size : Nat) : Bool :=
  decide (0 ≤ sdiff v old) && (if produced then decide (sdiff v eng ≤ (size : Int)) else decide (sdiff v eng ≤ 0))

/-- Completions and events that waited are written while their rings have room. -/
def State.drainQueues (s : State) : State :=
  let s := forEach s.hif.comps s (fun s _ => s.drainCompletion)
  forEach s.hif.events s (fun s _ => s.drainEvent)

/-- CONTROL_RING_DOORBELL (R384). -/
def execControlRingDoorbell (ring : Nat) (value : W32) (s : State) : Out :=
  .next (if s.held .hif ∨ 6 ≤ ring ∨ ¬ s.ringOn ring then s
    else if ¬ indexOk (ring = 0 || ring = 3 || ring = 5) (s.ringHost ring) value.toNat (s.ringEng ring) (s.ringSize ring) then
      s.ringErr ring
    else (s.setReg (A.HIF_RING_HOST ring) value).drainQueues)

/-- Stream ring `n` beside its registers. -/
def State.stream (s : State) (n : Nat) : StreamSt := Tbl.get s.hif.streams {} n

/-- Store it. -/
def State.setStream (s : State) (n : Nat) (x : StreamSt) : State :=
  { s with hif := { s.hif with streams := Tbl.set s.hif.streams {} n x } }

/-- Whether stream ring `n` is in use. -/
def State.srOn (s : State) (n : Nat) : Bool := s.up .hif && s.fon (F.HIF_SR_CFG_EN n)

/-- Whether it carries samples to the host. -/
def State.srOut (s : State) (n : Nat) : Bool := s.fon (F.HIF_SR_CFG_DIR n)

/-- Samples of a channel in a tick; the reserved RATE 3 acts as 2. -/
def State.srM (s : State) (n : Nat) : Nat := 2 ^ min 2 (s.fget (F.HIF_SR_CFG_RATE n))

/-- Channels. -/
def State.srChannels (s : State) (n : Nat) : Nat := s.fget (F.HIF_SR_CFG_CHANNELS n) + 1

/-- The slot of the present tick: SCNT less START (R399). -/
def State.srSlot (s : State) (n : Nat) : Int := sdiff s.scnt (s.reg (A.HIF_SR_START n)).toNat

/-- Host address of slot `i`. -/
def State.srAddr (s : State) (n i : Nat) : Nat :=
  s.hostBase (A.HIF_SR_BASE_LO n) (A.HIF_SR_BASE_HI n) + i % 2 ^ s.fget (F.HIF_SR_CFG_LOG2SIZE n) * (4 * s.srM n * s.srChannels n)

/-- STREAM_RING_DOORBELL (R384, R400): slots whose tick has begun are late. -/
def execStreamRingDoorbell (ring : Nat) (value : W32) (s : State) : Out :=
  .next (if 32 ≤ ring ∨ ¬ s.srOn ring then s
    else
      let old := (s.reg (A.HIF_SR_HOST ring)).toNat
      let x := s.stream ring
      if ¬ indexOk (!s.srOut ring) old value.toNat x.eng.toNat (2 ^ s.fget (F.HIF_SR_CFG_LOG2SIZE ring)) then s.ringErr (32 + ring)
      else
        let late := if s.srOut ring then 0 else (min (s.srSlot ring + 1) (value.toNat : Int) - old).toNat
        (s.setReg (A.HIF_SR_HOST ring) value).count (F.HIF_SR_LATE_COUNT ring) late)

/-! ### Heartbeats (R402) -/

/-- HEARTBEAT: the heartbeat doorbell of a host queue. -/
def execHeartbeat (queue : Nat) (s : State) : Out :=
  .next (if s.held .hif ∨ 16 ≤ queue then s
    else
      ({ s with hif := { s.hif with hbAge := Tbl.set s.hif.hbAge 0 queue s.now } }).fset
        ⟨A.HIF_HQ_STAT, queue, queue⟩ 0)

/-- HEARTBEAT_LAPSE: TMO milliseconds have passed without a heartbeat. The model's clock steps by 1/1024 s, and the timer
may have begun just after a step. -/
def execHeartbeatLapse (queue : Nat) (s : State) : Out :=
  let units := s.now + 1 - Tbl.get s.hif.hbAge 0 queue
  .next (if s.held .hif ∨ 16 ≤ queue ∨ ¬ bit (s.fget F.HIF_HB_EN) queue ∨ bit (s.reg A.HIF_HQ_STAT).toNat queue ∨
        units * 1000 < max 1 (s.fget F.HIF_HB_TMO) * 1024 then s
    else
      let s := (s.breakLocks (fun o => o = hostOwner queue) 1).fset ⟨A.HIF_HQ_STAT, queue, queue⟩ 1
      (s.record 0x701 queue []).msix 0)

/-- A write of HIF_HB: setting EN bit q starts the queue's timer afresh. -/
def State.writeHb (s : State) (value : W32) : State :=
  if s.held .hif then s
  else
    let old := s.fget F.HIF_HB_EN
    let s := s.writePlain A.HIF_HB value
    forEach (List.range 16) s (fun s q =>
      if bit (s.fget F.HIF_HB_EN) q ∧ ¬ bit old q then { s with hif := { s.hif with hbAge := Tbl.set s.hif.hbAge 0 q s.now } } else s)

/-! ### Setting up rings (R383, R385, R399) -/

/-- STATUS_BLOCK_ARM: a write of HIF_SB_LO (R385). -/
def execStatusBlockArm (value : W32) (s : State) : Out :=
  .next (if s.held .hif then s
    else
      let s := s.writePlain A.HIF_SB_LO value
      { s with hif := { s.hif with sb := some (s.hostBase A.HIF_SB_LO A.HIF_SB_HI) } })

/-- RING_ENABLE: a write of HIF_RINGk_CFG; indices return to 0 when EN is written 1, and a LOG2SIZE that R383 does not give
the ring leaves EN at 0. -/
def execRingEnable (ring : Nat) (value : W32) (s : State) : Out :=
  .next (if s.held .hif ∨ 6 ≤ ring then s
    else
      let s := s.writePlain (A.HIF_RING_CFG ring) value
      if ¬ bit value.toNat 31 then s
      else if ¬ ringLogOk ring (s.fget (F.HIF_RING_CFG_LOG2SIZE ring)) then s.fset (F.HIF_RING_CFG_EN ring) 0
      else
        let s := ((s.setReg (A.HIF_RING_HOST ring) 0).setReg (A.HIF_RING_ENG ring) 0).sbChanged
        ({ s with hif := { s.hif with sinceIrq := Tbl.set s.hif.sinceIrq 0 ring 0 } }).drainQueues)

/-- A host-to-engine ring stops: what it played fades out as an underrun, which is not counted (R400). -/
def StreamSt.stop (x : StreamSt) : StreamSt :=
  { last := x.last, starved := true, fade := if x.starved then x.fade else fadeTo x.fade 0 16 }

/-- STREAM_RING_CFG_WRITE: a write of HIF_SRn_CFG, or of HIF_SRn_START (R399). -/
def execStreamRingCfgWrite (ring : Nat) (start : Bool) (value : W32) (s : State) : Out :=
  let off := if start then A.HIF_SR_START ring else A.HIF_SR_CFG ring
  let reject := s.fset (F.HIF_SR_CFG_CFG_REJ ring) 1
  let rw := match regDef off with | some r => r.mask (fun a => decide (a = .rw)) | none => 0
  let t := s.writePlain off value
  .next (if s.held .hif ∨ 32 ≤ ring then s
    else if s.fon (F.HIF_SR_CFG_EN ring) then
      (if start ∨ ((s.reg off).toNat &&& rw) % 2 ^ 31 ≠ (value.toNat &&& rw) % 2 ^ 31 then reject
       else if bit value.toNat 31 then t
       else t.setStream ring (if s.srOut ring then {} else (s.stream ring).stop))
    else if breaksBinding s t then reject
    else if start ∨ ¬ bit value.toNat 31 then t
    else if t.fget (F.HIF_SR_CFG_LOG2SIZE ring) < 4 ∨ 16 < t.fget (F.HIF_SR_CFG_LOG2SIZE ring) then t.fset (F.HIF_SR_CFG_EN ring) 0
    else ((t.setStream ring {}).setReg (A.HIF_SR_HOST ring) 0).sbChanged)

/-! ### Commands (R387 to R393) -/

/-- ECHO (R388). -/
def execEcho (cmd : CmdHdr) (arg : W32) (s : State) : Out :=
  .next (s.takeCommand cmd 0x01 (fun s r => s.answer r 0 [arg]))

/-- The instance that runs as node `i` of slot `k`: a retained node runs in the new program from the warm-up on (R198). -/
def State.instanceOf (s : State) (k i : Nat) : Nat × Nat :=
  match s.eng.xf with
  | none => (k, i)
  | some r =>
    if k ≠ r.old then (k, i)
    else match newOf (retainedPairs (s.slot r.old).prog (s.slot r.new).prog) i with | none => (k, i) | some j => (r.new, j)

/-- The node of type `ty` bound to `index` in a program that runs, as the instance that runs; an ACTIVE slot comes first. -/
def State.boundNode (s : State) (ty index : Nat) : Option (Nat × Nat) :=
  let order := (if s.slotState 1 = 3 then [1, 0] else [0, 1]).filter (fun k => s.slotRuns k)
  order.findSome? (fun k =>
    ((s.slot k).prog.nodes.findIdx? (fun n => decide (n.type = ty) && decide (n.bind = index))).map (fun i => s.instanceOf k i))

/-- STATUS (R388, R108, R109): a voice or recorder that no program binds is IDLE at position 0. -/
def execStatus (cmd : CmdHdr) (cls index : W32) (s : State) : Out :=
  .next (s.takeCommand cmd 0x20 (fun s r =>
    if 1 < cls.toNat ∨ 256 ≤ index.toNat then s.answer r 0xB02
    else
      match s.boundNode (if cls = 0 then T.srcVoice else T.snkRec) index.toNat with
      | none => s.answer r 0 [0, 0]
      | some (k, i) =>
        let st := (s.slot k).node i
        let v : Nat := if cls = 0 then (match st.voice with | .idle => 0 | .playing => 1 | .fading => 1 | .ended => 2)
          else (match st.recd with | .idle => 0 | .recording => 1 | .full => 2)
        s.answer r 0 [BitVec.ofNat 32 v, BitVec.ofNat 32 st.pos]))

/-- EVENT_CFG (R388, R396). -/
def execEventCfg (cmd : CmdHdr) (mask : W32) (s : State) : Out :=
  .next (s.takeCommand cmd 0x21 (fun s r => ({ s with hif := { s.hif with mask := mask.toNat } }).answer r 0))

/-- PTP_CFG (R388, R312): the port of a lane. -/
def execPtpCfg (cmd : CmdHdr) (lane role prio intervals : W32) (s : State) : Out :=
  .next (s.takeCommand cmd 0x22 (fun s r =>
    if 8 ≤ lane.toNat ∨ 16 ≤ role.toNat ∨ role.toNat % 4 = 3 ∨ 2 ^ 24 ≤ prio.toNat ∨ 2 ^ 24 ≤ intervals.toNat then s.answer r 0xB02
    else
      let c : PtpCfg := { role := role.toNat, prio := prio.toNat, intervals := intervals.toNat }
      ({ s with tim := { s.tim with ptp := Tbl.set s.tim.ptp {} lane.toNat c } }).answer r 0))

/-- A source that R413 marks for quiesce asks the domains of `reach` to go idle first (R418). -/
def State.askReset (s : State) (source reach : Nat) : State :=
  if reach = 0 then s else { s with rst := { s.rst with quiesce := s.rst.quiesce ++ [(source, reach)] } }

/-- HOST_RESET (R388, R393): completes, then asks for the HOSTCMD source. -/
def execHostReset (cmd : CmdHdr) (arg : W32) (s : State) : Out :=
  .next (s.takeCommand cmd 0x30 (fun s r =>
    if arg ≠ 0xC7A5 then s.answer r 0xB02 else (s.answer r 0).askReset 7 8))

/-- The opcodes of R388. -/
def opcodes : List Nat := [0x01, 0x10, 0x11, 0x12, 0x13, 0x14, 0x15, 0x16, 0x20, 0x21, 0x22, 0x30]

/-- BAD_OPCODE (R389, R391): an entry with an opcode outside R388, or one that cannot be read from host memory. -/
def execBadOpcode (cmd : CmdHdr) (opcode : Nat) (readable : Bool) (s : State) : Out :=
  .next (if ¬ s.takesCommand ∨ (readable ∧ opcodes.contains (opcode % 256)) then s
    else
      let i := s.ringEng 0
      let r : CmdRef := if readable then { op := opcode % 256, tag := cmd.tag.toNat, index := i, late := false }
        else { op := 0xFF, tag := i % 65536, index := i, late := false }
      (s.consumed 0).answer r (if readable then 0xB01 else 0xB03))

/-! ### Completions and events (R392, R396, R397) -/

/-- COMPLETION_WRITE: the oldest completion that waits is written where the ring has room (R392). -/
def execCompletionWrite (s : State) : Out := .next (if s.held .hif then s else s.drainCompletion)

/-- EVENT_RING_POST (R396, R397): the HIF unit posts records, the firmware the other kinds; DROPPED is the unit's own. -/
def execEventRingPost (ev : Event) (s : State) : Out :=
  .next (if ev.kind = 0 ∨ 8 ≤ ev.kind ∨ (ev.kind ≠ 1 ∧ ¬ s.fwReady) then s else s.drainEvent.postEvent ev)

/-! ### Audio stream rings (R399 to R401) -/

/-- STREAM_SLOT_FETCH (R400): the first slot of the next eight ticks that the host has written and the chip does not hold is
fetched. -/
def execStreamSlotFetch (ring : Nat) (s : State) : Out :=
  let x := s.stream ring
  let host := (s.reg (A.HIF_SR_HOST ring)).toNat
  let due := (List.range 8).filterMap (fun (k : Nat) => if 0 ≤ s.srSlot ring + k + 1 then some (s.srSlot ring + k + 1).toNat else none)
  .next (if 32 ≤ ring ∨ ¬ s.srOn ring ∨ s.srOut ring then s
    else
      match due.find? (fun i => decide (0 < sdiff host i) && !x.held.any (fun h => decide (h.1 = i))) with
      | none => s
      | some i =>
        let a := s.srAddr ring i
        let ws := (List.range (s.srM ring * s.srChannels ring)).map (fun j => BitVec.ofNat 32 (leAt s.host (a + 4 * j) 4))
        s.setStream ring { x with held := x.held ++ [(i, ws)] })

/-- R400: a ring that ran dry refills once the present tick's slot and the eight after it are held. -/
def State.srRefill (s : State) (n : Nat) : State :=
  let x := s.stream n
  if s.srOn n ∧ ¬ s.srOut n ∧ x.starved ∧ 0 ≤ s.srSlot n ∧
      (List.range 9).all (fun k => x.held.any (fun h => decide (h.1 = (s.srSlot n).toNat + k))) then
    s.setStream n { x with starved := false, fade := fadeTo x.fade unity 64 }
  else s

/-- STREAM_RING_REFILL (R400). -/
def execStreamRingRefill (ring : Nat) (s : State) : Out := .next (if 32 ≤ ring then s else s.srRefill ring)

/-- The frames of a slot's words. -/
def slotFrames (m c : Nat) (ws : List W32) : List (List Int) :=
  (List.range m).map (fun j => (List.range c).map (fun k => (ws.getD (j * c + k) 0).toInt))

/-- R400: the frames of stream ring `n` that ingest of this tick presents. -/
def State.gatherHost (s : State) (n : Nat) : List (List Int) × State :=
  let m := s.srM n
  let c := s.srChannels n
  let i := s.srSlot n
  let s := s.srRefill n
  let x := s.stream n
  let last := (List.range c).map (fun k => Tbl.get x.last 0 k)
  let put := fun (s : State) (x : StreamSt) (raw : List (List Int)) =>
    let r := fadeFrames x.fade raw
    let l := raw.getLastD last
    (r.1, s.setStream n { x with fade := r.2, last := (l.zipIdx).foldl (fun t v => Tbl.set t 0 v.2 v.1) [] })
  let hold := List.replicate m last
  if s.srOut n then (List.replicate m (List.replicate c 0), s)
  else if ¬ s.srOn n then (if x.starved then put s x hold else (List.replicate m (List.replicate c 0), s))
  else if i < 0 then (List.replicate m (List.replicate c 0), s)
  else
    let got := (x.held.find? (fun h => decide (h.1 = i.toNat))).map (·.2)
    let x := { x with held := x.held.filter (fun h => decide (i.toNat < h.1)) }
    match got with
    | none =>
      let x := if x.starved then x else { x with starved := true, fade := fadeTo x.fade 0 16 }
      put (s.count (F.HIF_SR_UNDER_COUNT n) 1) x hold
    | some ws => put s x (if x.starved then hold else slotFrames m c ws)

/-- R401: egress of this tick gives stream ring `n` its frames. -/
def State.deliverHost (s : State) (n : Nat) (frames : List (List Int)) : State :=
  if ¬ s.srOn n ∨ ¬ s.srOut n ∨ s.srSlot n < 0 then s
  else
    let x := s.stream n
    s.setStream n { x with queued := x.queued ++ [((s.srSlot n).toNat, frames.flatMap (fun f => f.map toW))] }

/-- R401, R327: the oldest slot that waits is written, withheld, or discarded where the ring is full. -/
def State.writeSlot (s : State) (n : Nat) : State :=
  let x := s.stream n
  match x.queued with
  | [] => s
  | (i, ws) :: rest =>
    let age := (s.srSlot n - i).toNat
    if age = 0 ∨ ¬ s.srOn n then s
    else
      let s := (s.setStream n { x with queued := rest, eng := BitVec.ofNat 32 (i + 1) }).sbChanged
      let host := (s.reg (A.HIF_SR_HOST n)).toNat
      if s.withholds (s.eng.tick - age) then s
      else if (2 ^ s.fget (F.HIF_SR_CFG_LOG2SIZE n) : Int) ≤ sdiff i host then s.count (F.HIF_SR_OVER_COUNT n) 1
      else { s with host := setBytes s.host (s.srAddr n i) (ws.flatMap (fun w => leBytes 4 w.toNat)) }

/-- STREAM_SLOT_WRITE (R401). -/
def execStreamSlotWrite (ring : Nat) (s : State) : Out := .next (if 32 ≤ ring then s else s.writeSlot ring)

/-- A tick boundary at the stream rings: slots of two ticks before are written, the index of a host-to-engine ring moves past
the tick that ended, and vectors fire (R386, R400, R401). -/
def State.streamTick (s : State) : State :=
  if s.held .hif then s
  else
    forEach (List.range 32) s (fun s n =>
      if ¬ s.srOn n then s
      else
        let s := if s.srOut n then
            forEach (s.stream n).queued s (fun s q => if q.1 + 2 < (s.srSlot n).toNat then s.writeSlot n else s)
          else if 0 < s.srSlot n then
            (let e := BitVec.ofNat 32 (s.srSlot n).toNat
             if (s.stream n).eng = e then s else (s.setStream n { (s.stream n) with eng := e }).sbChanged)
          else s
        let k := s.fget (F.HIF_SR_CFG_IRQ_TICKS n)
        if k = 0 then s
        else
          let x := s.stream n
          if k ≤ x.sinceIrq + 1 then (s.setStream n { x with sinceIrq := 0 }).msix (8 + n)
          else s.setStream n { x with sinceIrq := x.sinceIrq + 1 })

/-- The end of a tick at the control rings: vectors of rings with IRQ_N 0 that published entries, and the status block where a
value in it changed (R385, R386). -/
def State.ringTick (s : State) : State :=
  if s.held .hif then s
  else
    let s := forEach [1, 2, 3, 4, 5] s (fun s k =>
      if s.fget (F.HIF_RING_CFG_IRQ_N k) = 0 ∧ 0 < Tbl.get s.hif.sinceIrq 0 k then
        ({ s with hif := { s.hif with sinceIrq := Tbl.set s.hif.sinceIrq 0 k 0 } }).msix k
      else s)
    if s.hif.sbDirty then s.writeStatusBlock else s

end Sys2Proof.Machine
end

