-- ==== Sys2Proof/Machine/Tst.lean ====
section
/-! DEFINITION. Event records as commands, the Loft's flush, operating time, the Tack room, soft repair, self-test, and a Weevil
region's end (R362, R428 to R456). -/

namespace Sys2Proof.Machine

open Sys2Proof.Arith

/-! ### Event records (R435 to R437) -/

/-- EVENT_RECORD (R435). -/
def execEventRecord (code inst : Nat) (params : List Nat) (s : State) : Out :=
  .next (if 0xFFFF ≤ code ∨ 4096 ≤ inst then s else s.record code inst (params.map (fun p => p % 2 ^ 32)))

/-- EVENT_POST_WRITE: a write of TST_EVT_POST_CODE (R437, R456). -/
def execEventPostWrite (value : W32) (s : State) : Out :=
  let code := bits value.toNat 15 0
  .next (if s.held .mem ∨ code < 0x8000 ∨ code = 0xFFFF then s
    else s.record code (bits value.toNat 27 16) ((List.range 4).map (fun i => (s.reg (A.TST_EVT_POST_W i)).toNat)))

/-- TOKEN_REFILL (R436, R445): 1/1,024 s of XO passes. -/
def execTokenRefill (s : State) : Out :=
  let l := s.loft
  let whole := decide (64 ≤ l.frac + 1)
  let s := { s with loft := { l with tokens := min 256 (l.tokens + 1), sincePor := l.sincePor + 1,
                                     frac := if whole then 0 else l.frac + 1 } }
  .next (if whole then
      (let t := (s.optime + 1) % 2 ^ 40
       (s.setReg A.TST_OPTIME_LO (BitVec.ofNat 32 t)).fset F.TST_OPTIME_HI_VALUE (t / 2 ^ 32))
    else s)

/-- The operating time of the next TIME_MARK after `t`: a multiple of 4,096 s. -/
def nextMarkAfter (t : Nat) : Nat := (t / 65536 + 1) * 65536

/-- TIME_MARK (R437). -/
def execTimeMark (s : State) : Out :=
  .next (if s.optime < s.loft.nextMark then s
    else ({ s with loft := { s.loft with nextMark := nextMarkAfter s.optime } }).record 0xA02 0 [])

/-- COUNTER_LOAD: LOAD written to TST_PERSIST (R445). -/
def execCounterLoad (value : W32) (s : State) : Out :=
  .next (if ¬ bit value.toNat 0 ∨ s.fon F.TST_PERSIST_LOADED then s
    else
      let l := s.loft
      let t := ((l.lo.getD 0).toNat + (l.hi.getD 0).toNat % 256 * 2 ^ 32 + s.optime) % 2 ^ 40
      let p := min ((l.pcyc.getD 0xFFFFFF).toNat % 2 ^ 24 + 1) 0xFFFFFE
      ((((s.setReg A.TST_OPTIME_LO (BitVec.ofNat 32 t)).fset F.TST_OPTIME_HI_VALUE (t / 2 ^ 32)).fset F.TST_PCYC_VALUE p).fset
        F.TST_PERSIST_LOADED 1 |> fun s => { s with loft := { s.loft with nextMark := nextMarkAfter t, lo := none, hi := none, pcyc := none } }))

/-! ### The flash ring (R440 to R444) -/

/-- Bytes of the flash ring: SECTORS outside 2 to 256 act as 2. -/
def State.flashRing (s : State) : Nat :=
  let n := s.fget F.TST_EVF_CFG_SECTORS
  (if 2 ≤ n ∧ n ≤ 256 then n else 2) * 65536

/-- A byte of the flash; a cell holds its complement, so that erased flash is not listed. -/
def State.flashByte (s : State) (a : Nat) : Nat := 255 - (byteAt s.flash a).toNat

/-- Program a byte: bits go from 1 to 0 alone. -/
def State.programByte (s : State) (a b : Nat) : State :=
  { s with flash := setByte s.flash a (byteAt s.flash a ||| ~~~ (BitVec.ofNat 8 b)) }

/-- A write position in the ring. -/
def State.flashPos (s : State) : Nat := (s.reg A.TST_EVF_WPTR).toNat / 32 * 32 % s.flashRing

/-- Records that the next page program takes (R444): unflushed, within the page, before ERASED. -/
def State.flushCount (s : State) : Nat :=
  let avail := ((s.reg A.TST_EVF_ERASED).toNat % s.flashRing + s.flashRing - s.flashPos) % s.flashRing
  min (min s.unflushed (avail / 32)) ((256 - s.flashPos % 256) / 32)

/-- LOFT_FLUSH (R440, R444): the flush in progress sends the records of the next page program. -/
def execLoftFlush (s : State) : Out :=
  .next (if ¬ s.flushAble ∨ ¬ s.fon F.TST_EVF_STAT_FLUSHING ∨ s.tst.prog.isSome then s
    else if s.unflushed = 0 then s.fset F.TST_EVF_STAT_FLUSHING 0
    else if s.flushCount = 0 then s.fset F.TST_EVF_STAT_FLASH_STALL 1
    else
      let first := (s.reg A.TST_LOFT_FLUSHED + 1).toNat
      let n := s.flushCount
      let bs := (List.range n).flatMap (fun i => bytesAt s.mem (loftAddr ((first + i) % 2 ^ 32)) 32)
      { s with tst := { s.tst with prog := some ((first + n - 1) % 2 ^ 32, bs) } })

/-- FLASH_PROGRAM_DONE (R442, R444): the page program ends. -/
def execFlashProgramDone (ok : Bool) (s : State) : Out :=
  .next (match s.tst.prog with
    | none => s
    | some (last, bs) =>
      let t := { s with tst := { s.tst with prog := none } }
      if s.held .mem then s
      else if ¬ ok then t.fset F.TST_EVF_STAT_FLASH_ERR 1
      else
        let base := s.fget F.TST_EVF_CFG_BASE * 65536
        let t := forEach (bs.zipIdx) t (fun t b => t.programByte (base + s.flashPos + b.2) b.1)
        let t := t.setReg A.TST_EVF_WPTR (BitVec.ofNat 32 ((s.flashPos + bs.length) % s.flashRing))
        let t := if 0 < sdiff last (t.reg A.TST_LOFT_FLUSHED).toNat then t.setReg A.TST_LOFT_FLUSHED (BitVec.ofNat 32 last) else t
        if t.unflushed = 0 then t.fset F.TST_EVF_STAT_FLUSHING 0 else t)

/-! ### Tack room and backup registers (R428, R429) -/

/-- Yard address of the Tack room. -/
def tackBase : Nat := 0x11000000

/-- The seal that the Tack room's contents ask for. -/
def State.tackCrc (s : State) : Nat := crc32c (bytesAt s.mem tackBase 4092)

/-- R428: SEAL. -/
def State.sealTack (s : State) : State :=
  ({ s with mem := setLe s.mem (tackBase + 4092) 4 s.tackCrc }).fset F.RST_TACK_STAT_TACK_VALID 1

/-- A write of bytes of the Tack room clears TACK_VALID. -/
def State.writeTack (s : State) (o n v : Nat) : State :=
  ({ s with mem := setLe s.mem (tackBase + o) n v }).fset F.RST_TACK_STAT_TACK_VALID 0

/-- TACK_SEAL: a write of RST_TACK_SEAL. -/
def execTackSeal (value : W32) (s : State) : Out :=
  .next (if s.held .aon ∨ ¬ bit value.toNat 0 then s else s.sealTack)

/-- An access to RST_TACK_DATA: the word at the pointer, which advances by 4. -/
def State.tackAccess (s : State) (write : Bool) (value : W32) : State :=
  let o := s.fget F.RST_TACK_PTR_OFFSET / 4 * 4
  let s := if write then s.writeTack o 4 value.toNat
    else { s with reply := { abort := false, data := BitVec.ofNat 32 (leAt s.mem (tackBase + o) 4) } }
  s.fset F.RST_TACK_PTR_OFFSET ((o + 4) % 4096)

/-- TACK_DATA_ACCESS (R428, R433). -/
def execTackDataAccess (write : Bool) (value : W32) (s : State) : Out :=
  .next (if s.held .aon then s else s.tackAccess write value)

/-- R429: a write of backup register `n` makes it valid. -/
def State.writeBackup (s : State) (n : Nat) (value : W32) : State :=
  if s.held .aon ∨ 8 ≤ n then s
  else (s.setReg (A.RST_BKP n) value).fset F.RST_TACK_STAT_BKP_VALID (s.fget F.RST_TACK_STAT_BKP_VALID ||| 2 ^ n)

/-- BACKUP_WRITE (R429). -/
def execBackupWrite (n : Nat) (value : W32) (s : State) : Out := .next (s.writeBackup n value)

/-- R428: at a release of CTL the seal is checked; a backup register cannot change but by a write, so its check bits always
hold in this model (log entry 41). -/
def State.checkTack (s : State) : State :=
  if s.fon F.RST_TACK_STAT_TACK_VALID ∧ leAt s.mem (tackBase + 4092) 4 ≠ s.tackCrc then
    (s.fset F.RST_TACK_STAT_TACK_VALID 0).fset F.RST_TACK_STAT_TACK_BAD 1
  else s

/-! ### Soft repair (R452 to R454) -/

/-- An entry of the repair map. -/
structure RprEntry where
  dead : Bool
  row : Nat
  spare : Nat
  stall : Nat
  deriving DecidableEq, Repr

/-- The entry that a word holds, where it is VALID. -/
def parseRpr (w : Nat) : Option RprEntry :=
  if bit w 31 then some { dead := bit w 30, row := bits w 16 9, spare := bits w 8 7, stall := bits w 6 0 } else none

/-- The word of an entry. -/
def RprEntry.word (e : RprEntry) : Nat := 2 ^ 31 + b2n e.dead * 2 ^ 30 + e.row * 512 + e.spare * 128 + e.stall

/-- Words of the map: COUNT, where MAGIC is right. -/
def State.rprCount (s : State) : Nat :=
  let w := leAt s.mem (tackBase + 3584) 4
  if w % 65536 = 0x5250 then min 126 (bits w 23 16) else 0

/-- The word of entry `e`. -/
def State.rprWord (s : State) (e : Nat) : Nat := leAt s.mem (tackBase + 3588 + 4 * e) 4

/-- The map's valid entries in order; a later entry for a spare that an earlier one names, or for a Stall above 95, is
ignored (R453). -/
def State.rprMap (s : State) : List RprEntry :=
  ((List.range s.rprCount).filterMap (fun e => parseRpr (s.rprWord e))).foldl (fun l e =>
    if 95 < e.stall then l
    else if l.any (fun x => decide (x.stall = e.stall) && decide (x.spare = e.spare)) then l
    else l ++ [e]) []

/-- The number of valid entries that R453 ignores. -/
def State.rprBad (s : State) : Nat :=
  ((List.range s.rprCount).filterMap (fun e => parseRpr (s.rprWord e))).length - s.rprMap.length

/-- Write the map and reseal the Tack room. -/
def State.writeMap (s : State) (ws : List Nat) : State :=
  let m := setLe s.mem (tackBase + 3584) 4 (0x5250 + ws.length * 65536)
  let m := (ws.zipIdx).foldl (fun m w => setLe m (tackBase + 3588 + 4 * w.2) 4 w.1) m
  (({ s with mem := m }).sealTack).fset F.TST_RPR_STAT_COUNT ws.length

/-- The words of the map as it stands. -/
def State.mapWords (s : State) : List Nat := (List.range s.rprCount).map s.rprWord

/-- REPAIR_APPLY (R453): at a release of MEM. -/
def State.applyRepair (s : State) : State :=
  if ¬ s.fon F.RST_TACK_STAT_TACK_VALID then s
  else (s.count F.TST_RPR_STAT_BAD s.rprBad).fset F.TST_RPR_STAT_COUNT s.rprCount

/-- Whether a spare is free: named by no entry and by no copy under way. -/
def State.spareFree (s : State) (stall spare : Nat) : Bool :=
  !s.rprMap.any (fun e => decide (e.stall = stall) && decide (e.spare = spare)) &&
    !s.tst.copies.any (fun c => decide (c.stall = stall) && decide (c.spare = spare))

/-- Whether a row is mapped, or its copy is under way. -/
def State.rowMapped (s : State) (stall row : Nat) : Bool :=
  s.rprMap.any (fun e => decide (e.stall = stall) && decide (e.row = row) && !e.dead) ||
    s.tst.copies.any (fun c => decide (c.stall = stall) && decide (c.row = row))

/-- Whether a spare replaces a row. -/
def State.spareUsed (s : State) (stall spare : Nat) : Bool :=
  s.rprMap.any (fun e => decide (e.stall = stall) && decide (e.spare = spare) && !e.dead)

/-- Queue a row copy. -/
def State.queueCopy (s : State) (c : RowCopy) : State :=
  ({ s with tst := { s.tst with copies := s.tst.copies ++ [c] } }).fset F.TST_RPR_STAT_BUSY 1

/-- R454: map a row onto the lowest free spare of its Stall, or record NO_SPARE. -/
def State.autoRepair (s : State) (stall row cause : Nat) : State :=
  if s.rowMapped stall row then s
  else
    match (List.range 4).find? (fun k => s.spareFree stall k) with
    | some k => s.queueCopy { stall := stall, row := row, spare := k, cause := cause }
    | none => s.record 0x305 stall [row]

/-- A spare row is faulty: its entry becomes DEAD, or a DEAD entry is appended, and a row that it replaced moves to the next
free spare (R454). -/
def State.deadSpare (s : State) (stall spare cause : Nat) : State :=
  let hit := fun (w : Nat) => match parseRpr w with | some e => decide (e.stall = stall) && decide (e.spare = spare) | none => false
  let moved := (s.rprMap.find? (fun e => decide (e.stall = stall) && decide (e.spare = spare) && !e.dead)).map (·.row)
  let ws := s.mapWords
  let dead : RprEntry := { dead := true, row := 0, spare := spare, stall := stall }
  let s := if ws.any hit then s.writeMap (ws.map (fun w => if hit w then dead.word else w))
    else if ws.length < 126 then s.writeMap (ws ++ [dead.word]) else s
  match moved with
  | none => s
  | some row => s.autoRepair stall row cause

/-- REPAIR_ADD: a write of TST_RPR_ADD (R454). -/
def execRepairAdd (entry : W32) (s : State) : Out :=
  .next (if s.held .mem then s
    else
      match parseRpr entry.toNat with
      | none => s.count F.TST_RPR_STAT_BAD 1
      | some e =>
        if 95 < e.stall ∨ ¬ s.spareFree e.stall e.spare ∨ (¬ e.dead ∧ s.rowMapped e.stall e.row) ∨ 126 ≤ s.rprCount + s.tst.copies.length then
          s.count F.TST_RPR_STAT_BAD 1
        else if e.dead then s.writeMap (s.mapWords ++ [e.word])
        else s.queueCopy { stall := e.stall, row := e.row, spare := e.spare, cause := 2 })

/-- REPAIR_COPY_DONE (R454): the row's content is in the spare; the map takes the entry, and a region that Weevil holds in
that row is free again. -/
def execRepairCopyDone (s : State) : Out :=
  .next (match s.tst.copies with
    | [] => s
    | c :: rest =>
      if s.held .mem then s
      else
        let s := { s with tst := { s.tst with copies := rest } }
        let e : RprEntry := { dead := false, row := c.row, spare := c.spare, stall := c.stall }
        let s := if s.rprCount < 126 then s.writeMap (s.mapWords ++ [e.word]) else s
        let s := s.record 0x304 c.stall [c.row, c.spare, c.cause]
        let s := if rest = [] then s.fset F.TST_RPR_STAT_BUSY 0 else s
        let p := c.stall / 8
        let r := s.wvPos p % 520
        let freed := if r < 512 then decide (r / 2 = c.row) else !s.spareUsed c.stall ((r - 512) / 2)
        if Tbl.get s.weevil.held false p ∧ s.wvPos p / 520 = c.stall % 8 ∧ freed then
          ({ s with weevil := { s.weevil with held := Tbl.set s.weevil.held false p false,
                                              pos := Tbl.set s.weevil.pos 0 p (s.wvPos p + 1) } }).showWeevil
        else s)

/-- WEEVIL_REGION_DONE (R361, R362, R454): the region under test in a Paddock ends, or the march found the failing bit
`fail` (word, bit). -/
def execWeevilRegionDone (paddock : Nat) (fail : Option (Nat × Nat)) (s : State) : Out :=
  let pos := s.wvPos paddock
  let stall := 8 * paddock + pos / 520
  let r := pos % 520
  let on : State → State := fun s =>
    ({ s with weevil := { s.weevil with pos := Tbl.set s.weevil.pos 0 paddock (pos + 1) } }).showWeevil
  .next (if ¬ s.wvOn ∨ 12 ≤ paddock ∨ 4160 ≤ pos ∨ Tbl.get s.weevil.held false paddock ∨ s.underBist paddock then s
    else
      match fail with
      | none => on s
      | some (w, b) =>
        let s := (s.record 0x303 stall [regionAddr stall r (w % 64), b % 72]).fset F.MEM_WV_STAT_FAIL 1
        if r < 512 ∨ s.spareUsed stall ((r - 512) / 2) then
          let s := ({ s with weevil := { s.weevil with held := Tbl.set s.weevil.held false paddock true } }).showWeevil
          if ¬ s.fon F.TST_CTRL_AUTO_REPAIR then s
          else if r < 512 then s.autoRepair stall (r / 2) 0
          else s.deadSpare stall ((r - 512) / 2) 0
        else on (if s.fon F.TST_CTRL_AUTO_REPAIR then s.deadSpare stall ((r - 512) / 2) 0 else s))

/-! ### Self-test (R447 to R451) -/

/-- The RESULT field of group `g`, 1 to 4. -/
def resultField (g : Nat) : Field := ⟨A.TST_STAT, 4 * g - 1, 4 * g - 4⟩

/-- A group ends with a result, which is recorded. -/
def State.groupResult (s : State) (g result count first : Nat) : State :=
  (s.fset (resultField g) result).record 0x901 g [result, count, first]

/-- Start the next group whose precondition holds; groups whose precondition fails are SKIPPED; RUN clears after the last. -/
def State.nextGroup (s : State) : List Nat → State
  | [] => (({ s with tst := { s.tst with groups := [], cur := none } }).fset F.TST_STAT_RUN 0).showWeevil
  | g :: rest =>
    if g < 4 ∧ s.up .eng then (s.groupResult g 3 0 0).nextGroup rest
    else (({ s with tst := { s.tst with groups := rest, cur := some g } }).fset F.TST_STAT_RUN 1).showWeevil

/-- SELFTEST_START: a write of TST_CTRL (R448). -/
def execSelftestStart (value : W32) (s : State) : Out :=
  let t := s.writePlain A.TST_CTRL value
  let gs := [1, 2, 3, 4].filter (fun g => bit (t.fget F.TST_CTRL_GROUPS) (g - 1))
  .next (if s.held .mem then s
    else if ¬ bit value.toNat 4 ∨ s.tst.cur.isSome ∨ gs = [] then t
    else
      let t := ((t.setReg A.TST_STAT 0).setReg A.TST_FAIL_CNT 0).setReg A.TST_ANA 0
      let t := forEach (List.range 4) t (fun t g => (t.setReg (A.TST_SIG_LO g) 0).setReg (A.TST_SIG_HI g) 0)
      let t := forEach (List.range 16) t (fun t i => (t.setReg (A.TST_FAIL_ADDR i) 0).setReg (A.TST_FAIL_BIT i) 0)
      t.nextGroup gs)

/-- R451: whether failures are reported in address mode. -/
def State.addressMode (s : State) : Bool :=
  decide (s.fget F.TST_CFG_SYS_SIZE ≤ 64) || s.fon F.TST_CTRL_FORCE_ADDR

/-- Stalls that a group tests: of Stalls 64 to 95 those with OWNER NONE. -/
def State.groupStalls (s : State) (g : Nat) : List Nat :=
  if g = 1 then List.range 48
  else if g = 2 then (List.range 48).filterMap (fun k =>
    if k + 48 < 64 ∨ s.fget (F.MEM_STALL_OWNER (k + 48)) = 31 then some (k + 48) else none)
  else []

/-- The failing bits of a group go into TST_FAILi from the first free place on. -/
def State.reportFails (s : State) (fs : List (Nat × Nat)) : State :=
  let n := s.fget F.TST_FAIL_CNT_COUNT
  let s := forEach (fs.zipIdx) s (fun s f =>
    if n + f.2 < 16 then (s.setReg (A.TST_FAIL_ADDR (n + f.2)) (BitVec.ofNat 32 f.1.1)).setReg (A.TST_FAIL_BIT (n + f.2)) (BitVec.ofNat 32 f.1.2)
    else s)
  s.count F.TST_FAIL_CNT_COUNT fs.length

/-- R451: the report of a memory or Scarab group: how many failures, and the first one. -/
def State.reportGroup (s : State) (g : Nat) (obs : GroupObs) : State × Nat × Nat :=
  if s.addressMode then (s.reportFails obs.bits, obs.bits.length, (obs.bits.map (·.1)).headD 0)
  else
    let s := s.reportFails (obs.units.map (fun u => (u.1, 0)))
    match obs.units with
    | [] => (s, 0, 0)
    | u :: _ => ((s.setReg (A.TST_SIG_LO (g - 1)) (BitVec.ofNat 32 u.2)).setReg (A.TST_SIG_HI (g - 1)) (BitVec.ofNat 32 (u.2 / 2 ^ 32)),
                 obs.units.length, u.1)

/-- The group that runs is aborted, and the groups that remain are not run (R449, R455). -/
def State.abortGroup (s : State) : State :=
  match s.tst.cur with
  | none => s
  | some g => (forEach (s.groupStalls g) (s.groupResult g 4 0 0) (fun s k => s.spoilStall k)).nextGroup []

/-- SELFTEST_GROUP_DONE (R447, R449 to R451, R454): the group that runs ends with what it found. -/
def execSelftestGroupDone (obs : GroupObs) (s : State) : Out :=
  .next (match s.tst.cur with
    | none => s
    | some g =>
      if s.held .mem then s
      else if g = 4 then
        let cs := (List.range 5).map (fun i => obs.checks.getD i 0 % 4)
        let bad := cs.filter (fun c => decide (c = 2))
        let s := s.setReg A.TST_ANA (BitVec.ofNat 32 ((cs.zipIdx).foldl (fun v c => v + c.1 * 4 ^ c.2) 0))
        (s.groupResult 4 (if bad = [] then 1 else 2) bad.length ((cs.findIdx? (fun c => decide (c = 2))).getD 0)).nextGroup s.tst.groups
      else
        let stalls := s.groupStalls g
        let r := s.reportGroup g obs
        let addr := s.addressMode
        let s := forEach stalls r.1 (fun s k => s.spoilStall k)
        let s := s.groupResult g (if r.2.1 = 0 then 1 else 2) r.2.1 r.2.2
        let rows := if g < 3 ∧ addr ∧ s.fon F.TST_CTRL_AUTO_REPAIR then (obs.bits.map (fun b => b.1 / 0x400)).eraseDups else []
        (forEach rows s (fun s k => if k / 256 < 96 then s.autoRepair (k / 256) (k % 256) 1 else s)).nextGroup s.tst.groups)

end Sys2Proof.Machine
end

