-- ==== Sys2Proof/Machine/Reset.lean ====
section
/-! DEFINITION. Reset domains, sources, quiesce, release, supplies, the strap (R412 to R427, R431 to R433). -/

namespace Sys2Proof.Machine

open Sys2Proof.Arith

/-! ### Registers at a reset (R13) -/

/-- The places of the lock bits (R408, R433). -/
def lockBits : List (Nat × Nat) :=
  [(0x1000C, 31), (0x4002C, 31), (0x40038, 31), (0x6000C, 31), (0x70000, 31), (0x90024, 31), (0xA0000, 29), (0xB0000, 31),
   (0xD0000, 0)]

/-- Whether a mask of domains has domain `d`. -/
def inMask (mask : Nat) (d : Dom) : Bool := bit mask d.bit

/-- R13: what the register at `off` holds after a reset of the domains of `mask`. The locked management keys, which are
WO, are kept as locked RWL fields are (R286, R408). -/
def State.resetReg (s : State) (mask off : Nat) : W32 :=
  match regDef off with
  | none => s.reg off
  | some r =>
    if ¬ inMask mask r.dom then s.reg off
    else if s.lockedReg r ∧ r.dom ≠ .ctl then
      let m := BitVec.ofNat 32 (r.mask (fun a => decide (a = .rwl) || (decide (a = .wo) && decide (off / 256 = 0x900))))
      (resetWord off &&& ~~~m) ||| (s.reg off &&& m)
    else resetWord off

/-- The registers whose reset values the strap gives (R425): the pair role and port 0. -/
def State.strapRegs (s : State) : State :=
  let s := if s.fon F.RED_CFG_LOCK then s else s.fset F.RED_CFG_ROLE (s.fget F.RST_STRAP_ROLE)
  (s.fset (F.LNP_PORT_CFG_MODE 0) (s.fget F.RST_STRAP_PORT0)).fset (F.LNP_PORT_CFG_ENABLE 0)
    (b2n (decide (s.fget F.RST_STRAP_BOOT = 2)))

/-- R404, R431, R433: HIF_FW_STAT.STATE and HIF_FW_VER show the loader and the firmware, which end with CTL and which a reset
of HIF alone leaves as they are (DEDUCED, log entry 42); REASON is a record of the HIF unit. -/
def State.keepFw (s pre : State) (mask : Nat) : State :=
  if inMask mask .ctl then (s.fset F.HIF_FW_STAT_STATE 0).setReg A.HIF_FW_VER 0
  else (s.fset F.HIF_FW_STAT_STATE (pre.fget F.HIF_FW_STAT_STATE)).setReg A.HIF_FW_VER (pre.reg A.HIF_FW_VER)

/-- R13: every register of the domains of `mask`; a reset of CTL clears the locks. DESIGN CHOICE (log entry 104): every
master's snapshots (R12) of those registers are dropped, so that upper words read as reset left them. Unsafe. -/
def State.resetRegs (s : State) (mask : Nat) : State :=
  let t := forEach (s.regs.map (·.1)) s (fun t off => t.setReg off (s.resetReg mask off))
  let t := { t with snaps := Tbl.keep (fun key _ => match regDef (key % 0x1000000) with | some r => !inMask mask r.dom | none => true) t.snaps }
  let t := t.keepFw s mask
  let t := if inMask mask .lnk then t.strapRegs else t
  if inMask mask .ctl then forEach lockBits t (fun t l => t.fset ⟨l.1, l.2, l.2⟩ 0) else t

/-! ### What a reset does beyond registers (R61, R174, R188, R250, R376, R382, R393) -/

/-- A reset of ENG. -/
def State.resetEng (s : State) (mask : Nat) : State :=
  let s := if inMask mask .lnk ∨ ¬ s.paired then s
    else (let t := s.enterFailed 1 s.eng.tick
          t.setPair { t.pair with byEng := true })
  let s := s.abortEngine
  { s with eng := { tick := s.eng.tick }, cores := [], ffts := [] }

/-- A reset of CTL: loads end, commits that wait for fences and adaptive writes are lost, timed frames are discarded
(R61, R174, R188, R317, R393, R396). -/
def State.resetCtl (s : State) : State :=
  let s := forEach s.eng.loads s (fun s l => (s.fset (F.ENG_SLOT_STAT_STATE l.slot) 0).fset (F.ENG_SLOT_STAT_LAST_ERR l.slot) 0x804)
  let s := forEach (s.tim.timed.flatMap (·.2)) s (fun s e => s.frameDone e 0xA07 0)
  let s := { s with eng := { s.eng with fences := [], adapts := [] },
                    tim := { s.tim with timed := [], ptp := [] },
                    blk := { s.blk with training := false },
                    hif := { s.hif with mask := 31, wdogRun := false, tried := [] } }
  (s.fset F.ANA_CTRL_ADAPT_EN 0).reown

/-- A reset of MEM (R376): locks are free without events; Weevil, transactions, self-test and flush start afresh; contents
are kept. -/
def State.resetMem (s : State) : State :=
  let cs := Tbl.mapVals {} (fun _ c => { c with lkState := 0, lkBroken := false, lkLock := 0 }) s.cores
  { s with waiters := [], lockReqs := [], cores := cs, yard := {}, weevil := {}, blk := { trained := s.blk.trained },
           tst := { spoiled := s.tst.spoiled }, hif := { s.hif with neighbour := true, nb := [] } }

/-- A reset of HIF (R382): rings stop, what waits for the host is lost, playing stream rings underrun. -/
def State.resetHif (s : State) : State :=
  let playing := (s.hif.streams.filter (fun x => s.fon (F.HIF_SR_CFG_EN x.1) && !s.srOut x.1)).map (fun x => (x.1, x.2.stop))
  { s with hif := { neighbour := s.hif.neighbour, nb := s.hif.nb, tried := s.hif.tried, wdogRun := s.hif.wdogRun,
                    streams := playing.foldl (fun t x => Tbl.set t {} x.1 x.2) [] } }

/-- Transactions of masters in a domain that resets end with an error response (R418). -/
def State.endTransactions (s : State) (mask : Nat) : State :=
  let mine := fun (t : YardTx) => match ridDomain t.rid with | some d => inMask mask d | none => false
  let ended := s.yard.waiting.filter mine
  let a := ended.foldl (fun (acc : List YardAnswer × State) t =>
    let r := acc.2.undefinedData t.kind t.beats.length
    (acc.1 ++ [{ master := t.master, addr := t.addr, beats := r.1.map (fun d => (2, d)) }], r.2)) (([] : List YardAnswer), s)
  let u := a.2
  { u with yard := { u.yard with waiting := u.yard.waiting.filter (fun t => !mine t),
                                 answers := if a.1 = [] then u.yard.answers else a.1 } }

/-- The clock bits of a state: XO is bit 1, ECLK bit 2, the PCIe reference bit 3. -/
def State.clockOk (s : State) (c : Nat) : Bool := bit s.rst.clocks c

/-- R412: whether a domain's gating clock is good; AON's release waits for XO (R413). -/
def State.gateGood (s : State) (d : Dom) : Bool :=
  match d with
  | .aon => s.clockOk 1
  | .clk => s.clockOk 1
  | .hif => s.clockOk 2 && s.clockOk 3
  | _ => s.clockOk 2

/-- All domains in release order. -/
def domains : List Dom := [.aon, .clk, .mem, .ctl, .hif, .lnk, .eng, .apt]

/-- RST_DOMAIN.CLK_GOOD (R433). -/
def State.showClocks (s : State) : State :=
  s.fset F.RST_DOMAIN_CLK_GOOD ((domains.map (fun d =>
    if (if d = .aon then s.clockOk 0 else s.gateGood d) then 2 ^ d.bit else 0)).sum)

/-- DOMAIN_RESET (R415): the domains of `mask` enter reset together; HIF and MEM first, so that the host sees nothing more of
it and no record of it is made where they are among them. -/
def State.enterReset (s : State) (mask : Nat) : State :=
  let new := mask &&& (255 - s.fget F.RST_DOMAIN_HELD)
  let has := inMask new
  let s := if has .hif then s.resetHif else s
  let s := s.fset F.RST_DOMAIN_HELD (s.fget F.RST_DOMAIN_HELD ||| (new &&& 0x14))
  let s := if has .mem then s else s.breakLocks (fun o => bit new (o / 1024 % 8)) 0
  let s := s.endTransactions new
  let s := if has .eng then s.resetEng new else s
  let s := if has .ctl then s.resetCtl else s
  let s := if has .clk then { s with clk := {}, tim := { ptp := s.tim.ptp } } else s
  let s := if has .mem then s.resetMem else s
  let s := if has .lnk then { s with lanes := [], rtpRx := [], rtpTx := [], link := {}, pair := {} } else s
  let s := if has .apt then { s with ports := [], mics := [] } else s
  let s := s.resetRegs new
  let s := if bit mask 1 then
      { s with rst := { s.rst with hold := s.rst.hold ||| 0x40, clocks := s.rst.clocks &&& 0xB } }.fset F.RST_SOFT_HOLD
        (s.fget F.RST_SOFT_HOLD ||| 0x40)
    else s
  let s := { s with rst := { s.rst with mask := s.rst.mask ||| new } }
  let s := s.fset F.RST_DOMAIN_HELD (s.fget F.RST_DOMAIN_HELD ||| new)
  let s := if has .lnk then forEach (List.range 10) s (fun s i => s.settleInput (5 + i)) else s
  s.showClocks.sbChanged

/-! ### Sources (R413, R417, R418) -/

/-- RST_CAUSE records a source (R417). -/
def State.cause (s : State) (source : Nat) : State := s.fset F.RST_CAUSE_SOURCE (s.fget F.RST_CAUSE_SOURCE ||| 2 ^ source)

/-- Domains that are not held and whose gating clock is no longer good are reached by CLKLOSS (R413, R416). -/
def State.clockLoss (s : State) : State :=
  let lost := (domains.map (fun d => if d ≠ .aon ∧ s.up d ∧ ¬ s.gateGood d then 2 ^ d.bit else 0)).sum
  if lost = 0 then s.showClocks
  else
    let s := s.cause 5
    ((s.fset F.RST_CAUSE_CLKLOSS_DOM (s.fget F.RST_CAUSE_CLKLOSS_DOM ||| lost)).enterReset lost).showClocks

/-- A source asserts on the domains of `reach`; a reset of CLK stops the DCO, and with it ECLK (R299, R416). -/
def State.assertSource (s : State) (source reach : Nat) : State :=
  let s := (s.cause source).enterReset reach
  if bit reach 1 then s.clockLoss else s

/-- The handshake at the head ends: its source asserts. Source 16 stands for HOLD bits of RST_SOFT. -/
def State.endQuiesce (s : State) : State :=
  match s.rst.quiesce with
  | [] => s
  | (src, reach) :: rest =>
    let s := { s with rst := { s.rst with quiesce := rest } }
    if src = 16 then
      let on := reach &&& s.fget F.RST_SOFT_HOLD
      if on = 0 then s
      else { s with rst := { s.rst with hold := s.rst.hold ||| on } }.assertSource 6 on
    else s.assertSource src reach

/-- A source without quiesce asserts at once, and handshakes in progress end (R418, R432). -/
def State.assertNow (s : State) (source reach : Nat) : State :=
  let s := s.assertSource source reach
  forEach s.rst.quiesce s (fun s _ => s.endQuiesce)

/-- A level source by its bit in RST_CAUSE. -/
def State.levelSource (s : State) (source reach : Nat) (on : Bool) : State :=
  if on then
    (if bit s.rst.level source then s
     else { s with rst := { s.rst with level := s.rst.level ||| 2 ^ source } }.assertNow source reach)
  else { s with rst := { s.rst with level := s.rst.level &&& (0x3FF - 2 ^ source) } }

/-- What the level sources and HOLD cover (R413, R415). -/
def State.covered (s : State) : Nat :=
  (if s.rst.level &&& 0xE = 0 then 0 else 0xFE) ||| (if bit s.rst.level 8 then 0x10 else 0) ||| s.rst.hold

/-- SUPPLY_RESET (R413, R419, R421): a rail is below its reset level, or every rail has been above its warning level for
10 ms. A warning that becomes a reset ends without a recovery. -/
def execSupplyReset (low : Bool) (s : State) : Out :=
  let s := if low then
      { s with rst := { s.rst with warn := none, mute := none } }.fset F.RST_SUP_STAT_MUTED 0
    else s
  .next (s.levelSource 1 0xFE low)

/-- RESET_N (R413): the filtered level of the pin. -/
def execResetN (low : Bool) (s : State) : Out := .next (s.levelSource 2 0xFE low)

/-- THERM (R413, R466): Tj above 135 °C, or below 115 °C again. -/
def execTherm (hot : Bool) (s : State) : Out := .next (s.levelSource 3 0xFE hot)

/-- PCIE_RESET (R382, R413): PERST_N low, hot reset or link down (0), their end (1), or a Function Level Reset (2). -/
def execPcieReset (kind : Nat) (s : State) : Out :=
  .next (match kind with
    | 0 => s.levelSource 8 0x10 true
    | 1 => s.levelSource 8 0x10 false
    | 2 => s.askReset 8 0x10
    | _ => s)

/-- QUIESCE_DONE (R418): the oldest handshake ends with every transaction complete, or at RST_QTMO.TMO. -/
def execQuiesceDone (timedOut : Bool) (s : State) : Out :=
  .next (if s.rst.quiesce = [] then s
    else (if timedOut then s.count F.RST_QTMO_TIMEOUTS 1 else s).endQuiesce)

/-- A write of RST_SOFT (R413, R414, R433): HOLD bits 3, 5, 6 and 7 act, ENG's is set while CLK is in reset. -/
def State.writeSoft (s : State) (value : W32) : State :=
  if s.held .aon then s
  else
    let want := bits value.toNat 15 8 &&& 0xE8
    let want := if s.held .clk then want ||| 0x40 else want
    let old := s.fget F.RST_SOFT_HOLD
    let rise := want &&& (255 - old)
    let fall := old &&& (255 - want)
    let s := s.fset F.RST_SOFT_HOLD want
    let s := { s with rst := { s.rst with hold := s.rst.hold &&& (255 - fall) } }
    let s := if bit fall 6 then s.abortGroup else s
    (s.askReset 16 rise).askReset 6 (bits value.toNat 7 0 &&& 0xFE)

/-- SOFT_PULSE: a write of RST_SOFT. -/
def execSoftPulse (value : W32) (s : State) : Out := .next (s.writeSoft value)

/-- SOFT_HOLD: a write of RST_SOFT. -/
def execSoftHold (value : W32) (s : State) : Out := .next (s.writeSoft value)

/-! ### Clocks (R416) -/

/-- CLKLOSS: XO (1), ECLK (2) or the PCIe reference (3) is lost; without XO there is no ECLK. -/
def execClkloss (clock : Nat) (s : State) : Out :=
  .next (if clock = 0 ∨ 3 < clock ∨ ¬ s.clockOk clock then s
    else
      let gone := if clock = 1 then 6 else 2 ^ clock
      let s := ({ s with rst := { s.rst with clocks := s.rst.clocks &&& (15 - gone) } }).clockLoss
      forEach s.rst.quiesce s (fun s _ => s.endQuiesce))

/-- CLOCK_GOOD: a clock has been judged good; ECLK needs XO and CLK out of reset (R299, R416). -/
def execClockGood (clock : Nat) (s : State) : Out :=
  .next (if clock = 0 ∨ 3 < clock ∨ (clock = 2 ∧ (¬ s.clockOk 1 ∨ s.held .clk)) then s
    else ({ s with rst := { s.rst with clocks := s.rst.clocks ||| 2 ^ clock } }).showClocks)

/-- BULK_CLOCK_LOSS (R416, R437): the bulk controller alone is reset, and the contents are lost. -/
def execBulkClockLoss (s : State) : Out :=
  .next (if s.held .mem then s
    else
      let s := s.record 0x307 0 [(s.reg A.BLK_STAT).toNat]
      ({ s with bulk := [], blk := { trained := s.blk.trained } }).fset F.BLK_STAT_READY 0)

/-! ### POR and the strap (R413, R423 to R425, R430) -/

/-- R424: boot source, pair role, family and port 0 mode of a band. -/
def strapBand (band : Nat) : Nat × Nat × Nat × Nat :=
  match band with
  | 0 => (0, 1, 0, 0)
  | 1 => (0, 2, 0, 0)
  | 2 => (1, 0, 0, 0)
  | 3 => (1, 1, 0, 0)
  | 4 => (1, 2, 0, 0)
  | 5 => (2, 0, 0, 0)
  | 6 => (0, 0, 0, 1)
  | 7 => (1, 0, 0, 1)
  | 8 => (0, 0, 1, 0)
  | 9 => (0, 1, 1, 0)
  | 10 => (0, 2, 1, 0)
  | 11 => (1, 0, 1, 0)
  | 12 => (1, 1, 1, 0)
  | 13 => (1, 2, 1, 0)
  | 14 => (2, 0, 1, 0)
  | _ => (0, 0, 0, 0)

/-- RST_STRAP for a converter code (R423, R433). -/
def strapWord (code : Nat) : Nat :=
  let c := min code 63
  let x := strapBand (c / 4)
  c * 2 ^ 16 + c / 4 * 2 ^ 12 + x.1 * 2 ^ 10 + x.2.1 * 2 ^ 8 + x.2.2.1 * 2 ^ 7 + x.2.2.2 * 2 ^ 6 + b2n (decide (c = 63)) * 2 ^ 5

/-- POR (R413, R417, R423 to R425, R430, R458): all that the block holds is lost, and the strap is measured; AON is released once
XO is good. What lies outside the block stays: the host's memory, the flash, the commands that wait, levels at pins. -/
def execPor (straps : Straps) (s : State) : Out :=
  let t : State := { pending := s.pending, freeCtr := s.freeCtr, host := s.host, flash := s.flash, gpioIn := s.gpioIn,
                     hif := { neighbour := true }, rst := { clocks := 1, level := s.rst.level, mask := 0xFF, i2cPins := straps.i2c.toNat } }
  let t := t.setReg A.RST_STRAP (BitVec.ofNat 32 (strapWord straps.code))
  let t := t.fset F.HIF_FW_CTRL_SRC (b2n (decide (t.fget F.RST_STRAP_BOOT = 1)))
  let t := t.fset F.RST_SUP_STAT_BELOW (s.fget F.RST_SUP_STAT_BELOW)
  let t := t.fset F.RST_SUP_STAT_PFAIL (s.fget F.RST_SUP_STAT_PFAIL)
  let t := t.strapRegs
  .next ((t.fset F.RST_DOMAIN_HELD 0xFF).showClocks)

/-! ### Release (R393, R415, R425 to R429, R453) -/

/-- A release of MEM: the repair map applies, Weevil begins, and after a POR the first record is POWER_UP (R435, R453). -/
def State.releaseMem (s : State) : State :=
  let s := s.applyRepair.startPass
  if s.rst.por ∧ s.reg A.TST_LOFT_HEAD = 0xFFFFFFFF then
    s.record 0x101 0 [(s.reg A.RST_CAUSE).toNat, (s.reg A.RST_STRAP).toNat, (s.reg A.GLB_STEP).toNat]
  else if 256 < s.unflushed then s.startFlush else s

/-- FW_STATE changes: the status block and vector 0 follow (R386, R406). -/
def State.setFwState (s : State) (v : Nat) : State := ((s.fset F.HIF_FW_STAT_STATE v).sbChanged).msix 0

/-- R426: with neighbour boot the loader takes Stalls 80 to 95, unless it holds them or the host has taken them back since
the last reset of MEM. -/
def State.neighbourBoot (s : State) : State :=
  if s.fget F.RST_STRAP_BOOT ≠ 2 then { s with hif := { s.hif with neighbour := false } }
  else if s.hif.neighbour then
    forEach (List.range 16) s (fun s k => s.fset (F.MEM_STALL_OWNER (80 + k)) 22)
  else s

/-- A release of CTL (R61, R366, R393, R426, R428): the loader starts. -/
def State.releaseCtl (s : State) : State :=
  let s := s.checkTack
  let s := if s.held .hif then s else s.fset F.HIF_STAT_CTL_EPOCH ((s.fget F.HIF_STAT_CTL_EPOCH + 1) % 65536)
  let loads := s.eng.loads
  let s := { s with eng := { s.eng with loads := [] } }
  let s := forEach loads s (fun s l => s.answer l.ref 0x804)
  let s := if s.held .mem then s else s.fset F.BLK_STAT_TRAIN_FAIL 0
  (({ s with hif := { s.hif with tried := [] } }).neighbourBoot).setFwState 1

/-- R427: firmware restores the device address. -/
def State.restoreAddr (s : State) : State :=
  let w := (s.reg (A.RST_BKP 0)).toNat
  if s.fwReady ∧ s.up .lnk ∧ bit (s.fget F.RST_TACK_STAT_BKP_VALID) 0 ∧ bit w 31 then
    (s.fset F.LNK_ADDR_ADDR (bits w 13 0)).fset F.LNK_ADDR_VALID 1
  else s

/-- A release of AON: the I²C target answers at 1011_0 A1 A0 (R458). -/
def State.releaseAon (s : State) : State := { s with rst := { s.rst with i2cAddr := 0x58 + s.rst.i2cPins % 4 } }

/-- Whether the I²C target answers at a 7-bit address (R458). -/
def State.i2cAnswers (s : State) (addr : Nat) : Bool := s.up .aon && decide (addr = s.rst.i2cAddr)

/-- A release of LNK (R235, R322, R427). -/
def State.releaseLnk (s : State) : State := (if s.up .eng then s.startPair else s).restoreAddr.refreshPpm

/-- A release of ENG (R322, R449). -/
def State.releaseEng (s : State) : State :=
  let s := s.abortGroup
  if s.held .lnk then s else if s.pair.byEng ∧ s.pairState = 5 then s.leaveFailed else s.startPair

/-- Whether a domain is eligible (R415). -/
def State.eligible (s : State) (d : Dom) : Bool := s.held d && !bit s.covered d.bit && s.gateGood d

/-- The end of a release sequence: the RESET record, unless the sequence was that of a POR (R435, R437). -/
def State.endSequence (s : State) : State :=
  if domains.any (fun d => s.eligible d) ∨ s.held .mem then s
  else
    let m := s.rst.mask
    let t := { s with rst := { s.rst with mask := 0, first := none, por := false } }
    match s.rst.first with
    | none => s
    | some d => if s.rst.por ∨ m = 0 then t else t.record 0x102 d [(s.reg A.RST_CAUSE).toNat, m, s.fget F.RST_CAUSE_CLKLOSS_DOM]

/-- DOMAIN_RELEASE (R415): the gap has run, and the earliest eligible domain is released. -/
def execDomainRelease (s : State) : Out :=
  .next (match domains.find? (fun d => s.eligible d) with
    | none => s
    | some d =>
      let s := (s.fset F.RST_DOMAIN_HELD (s.fget F.RST_DOMAIN_HELD &&& (255 - 2 ^ d.bit))).sbChanged
      let s := { s with rst := { s.rst with first := some (min d.bit (s.rst.first.getD 8)) } }
      let s := match d with
        | .aon => s.releaseAon
        | .mem => s.releaseMem
        | .ctl => s.releaseCtl
        | .lnk => s.releaseLnk
        | .eng => s.releaseEng
        | _ => s
      s.endSequence)

/-! ### Supplies and temperature (R419, R420, R441, R466) -/

/-- R441: more than 256 unflushed records at the start of a warning: the oldest are lost. -/
def State.capFlush (s : State) : State :=
  let n := s.unflushed
  if n ≤ 256 then s
  else (s.setReg A.TST_LOFT_FLUSHED (s.reg A.TST_LOFT_HEAD - 256)).count ⟨A.TST_LOFT_LOST, 31, 0⟩ (n - 256)

/-- The outputs' mute fade moves to `goal` over 256 ticks (R420). -/
def State.muteTo (s : State) (goal : Int) : State := { s with rst := { s.rst with mute := fadeTo s.rst.mute goal 256 } }

/-- SUPPLY_WARNING (R420): the rails that are below their warning levels after the filter of R419, and whether PFAIL_N is
low. -/
def execSupplyWarning (below : Nat) (pfail : Bool) (s : State) : Out :=
  let newRails := (List.range 8).filter (fun i => bit below i && !bit (s.fget F.RST_SUP_STAT_BELOW) i)
  let newPfail := pfail && s.fon F.RST_SUP_CTRL_PFAIL_EN && (!s.fon F.RST_SUP_STAT_PFAIL || decide (s.rst.warn = none))
  let s := (s.fset F.RST_SUP_STAT_BELOW below).fset F.RST_SUP_STAT_PFAIL (b2n pfail)
  let insts := newRails ++ (if newPfail then [8] else [])
  .next (match insts with
    | [] => s
    | i0 :: _ =>
      let s := if newPfail then s.fset F.RST_SUP_STAT_PFAIL_SEEN 1 else s
      let s := forEach newRails s (fun s i => s.fset ⟨A.RST_SUP_STAT, i, i⟩ 1)
      let fresh := decide (s.rst.warn = none)
      let s := if fresh ∧ s.fon F.RST_SUP_CTRL_WARN_MUTE then (s.muteTo 0).fset F.RST_SUP_STAT_MUTED 1 else s
      let s := forEach insts s (fun s i => s.record 0x103 i [(s.reg A.RST_SUP_STAT).toNat])
      if fresh then ({ s with rst := { s.rst with warn := some (i0, s.now) } }).abortGroup.capFlush.startFlush else s)

/-- SUPPLY_RECOVERY (R420): every rail above its warning level, and PFAIL_N high, for 10 ms. -/
def execSupplyRecovery (s : State) : Out :=
  .next (match s.rst.warn with
    | none => s
    | some (i, t0) =>
      let s := (s.fset F.RST_SUP_STAT_BELOW 0).fset F.RST_SUP_STAT_PFAIL 0
      let s := { s with rst := { s.rst with warn := none } }
      let s := s.record 0x104 i [(s.now - t0) * 1000 / 1024]
      if s.rst.mute.isSome then s.muteTo unity else s)

/-- The order of four readings. -/
def insertInt (x : Int) : List Int → List Int
  | [] => [x]
  | y :: r => if x ≤ y then x :: y :: r else y :: insertInt x r

/-- TJ_HIGH (R466): the four sensors' readings in units of 0.1 °C; the record is made on entry. -/
def execTjHigh (t0 t1 t2 t3 : Int) (s : State) : Out :=
  let l := insertInt t0 (insertInt t1 (insertInt t2 [t3]))
  let twice := l.getD 1 0 + l.getD 2 0
  let out := decide (2500 < twice) || decide (twice < -800)
  let m := if 0 ≤ twice then l.getD 2 0 else l.getD 1 0
  let i := ([t0, t1, t2, t3].findIdx? (fun t => decide (t = m))).getD 0
  let s1 := s.setPair { s.pair with tjHigh := out }
  .next (if out ∧ ¬ s.pair.tjHigh then s1.record 0x105 i [(twice / 2 % 2 ^ 32).toNat] else s1)

end Sys2Proof.Machine
end

