-- ==== Sys2Proof/Machine/Sha.lean ====
section
/-! DEFINITION. SHA-256 and HMAC-SHA-256, which R283 and R403 name; their definitions are those of FIPS 180-4 and RFC 2104
(PRESUMED, log entry 43). -/

namespace Sys2Proof.Sha

open Sys2Proof.Arith

/-- The largest number below `2 ^ n + r` whose power `e` is at most `v`, from the part `r` that is found already. -/
def rootFrom (e v : Nat) : Nat → Nat → Nat
  | 0, r => r
  | n + 1, r => rootFrom e v n (if (r + 2 ^ n) ^ e ≤ v then r + 2 ^ n else r)

/-- The first 32 bits of the fraction of the root of order `e` of `p`. -/
def rootFraction (e p : Nat) : Nat := rootFrom e (p * 2 ^ (32 * e)) 37 0 % 2 ^ 32

/-- The primes up to 311, of which there are 64. -/
def primes : List Nat :=
  (List.range 312).filter (fun p => 2 ≤ p && (List.range 18).all (fun q => q < 2 || q = p || p % q != 0))

/-- The constants of the 64 rounds: fractions of the cube roots of the first primes. -/
def k : List Nat := primes.map (rootFraction 3)

/-- The hash value before the first block: fractions of the square roots of the first eight primes. -/
def h0 : List Nat := (primes.take 8).map (rootFraction 2)

/-- Rotate a 32-bit word right. -/
def rotr (x n : Nat) : Nat := x / 2 ^ n + x % 2 ^ n * 2 ^ (32 - n)

/-- The message schedule from a block's 16 words, newest word first; `n` words more. -/
def expand : Nat → List Nat → List Nat
  | 0, w => w
  | n + 1, w =>
    let a := w.getD 14 0
    let b := w.getD 1 0
    let s0 := rotr a 7 ^^^ rotr a 18 ^^^ a / 8
    let s1 := rotr b 17 ^^^ rotr b 19 ^^^ b / 1024
    expand n ((w.getD 15 0 + s0 + w.getD 6 0 + s1) % 2 ^ 32 :: w)

/-- One round on the eight working words. -/
def round (v : List Nat) (kw : Nat × Nat) : List Nat :=
  let x := fun (i : Nat) => v.getD i 0
  let s1 := rotr (x 4) 6 ^^^ rotr (x 4) 11 ^^^ rotr (x 4) 25
  let ch := (x 4 &&& x 5) ^^^ ((2 ^ 32 - 1 - x 4) &&& x 6)
  let t1 := x 7 + s1 + ch + kw.1 + kw.2
  let s0 := rotr (x 0) 2 ^^^ rotr (x 0) 13 ^^^ rotr (x 0) 22
  let maj := (x 0 &&& x 1) ^^^ (x 0 &&& x 2) ^^^ (x 1 &&& x 2)
  [(t1 + s0 + maj) % 2 ^ 32, x 0, x 1, x 2, (x 3 + t1) % 2 ^ 32, x 4, x 5, x 6]

/-- A big-endian value. -/
def beNat (bs : List Nat) : Nat := bs.foldl (fun n b => n * 256 + b % 256) 0

/-- Bytes of a big-endian value. -/
def beBytes (n v : Nat) : List Nat := (leBytes n v).reverse

/-- One 64-byte block. -/
def block (h bs : List Nat) : List Nat :=
  let w := (List.range 16).map (fun i => beNat ((bs.drop (4 * i)).take 4))
  let ws := (expand 48 w.reverse).reverse
  let v := (k.zip ws).foldl round h
  (h.zip v).map (fun x => (x.1 + x.2) % 2 ^ 32)

/-- Blocks of a padded message, `n` of them. -/
def blocks : Nat → List Nat → List Nat → List Nat
  | 0, h, _ => h
  | n + 1, h, bs => blocks n (block h (bs.take 64)) (bs.drop 64)

/-- SHA-256 of a list of bytes. -/
def sha256 (bs : List Nat) : List Nat :=
  let z := (119 - bs.length % 64) % 64
  let m := bs ++ [0x80] ++ List.replicate z 0 ++ beBytes 8 (8 * bs.length)
  (blocks (m.length / 64) h0 m).flatMap (beBytes 4)

/-- HMAC-SHA-256. -/
def hmac (key msg : List Nat) : List Nat :=
  let key := if 64 < key.length then sha256 key else key
  let pad := key ++ List.replicate (64 - key.length) 0
  let x := fun (c : Nat) => pad.map (fun b => b % 256 ^^^ c)
  sha256 (x 0x5c ++ sha256 (x 0x36 ++ msg))

end Sys2Proof.Sha
end

