-- ==== Sys2Proof/Machine/Boot.lean ====
section
/-! DEFINITION. The boot loader, the firmware's start and its watchdog (R403 to R407, R426, R427). -/

namespace Sys2Proof.Machine

open Sys2Proof.Arith

/-- Where an image lies: the flash images 0 and 1, the host's image 2, the image of a neighbour 3 (R405, R426). -/
def State.imageBytes (s : State) (i o n : Nat) : List Nat :=
  match i with
  | 0 => (List.range n).map (fun j => s.flashByte (o + j))
  | 1 => (List.range n).map (fun j => s.flashByte (0x400000 + o + j))
  | 2 => bytesAt s.host (s.hostBase A.HIF_FW_ADDR_LO A.HIF_FW_ADDR_HI + o) n
  | _ => (List.range n).map (fun j => (s.stallByte (0x1400000 + o + j)).toNat)

/-- A little-endian field of an image's header. -/
def State.imageField (s : State) (i o n : Nat) : Nat := leNat (s.imageBytes i o n)

/-- Bytes that a source holds for an image. -/
def State.sourceLen (s : State) (i : Nat) : Nat := if i = 2 then (s.reg A.HIF_FW_LEN).toNat else 0x400000

/-- R403, R404: the REASON of the first check that an image fails. -/
def State.imageReason (s : State) (i : Nat) (readOk : Bool) : Option Nat :=
  let f := s.imageField i
  let size := f 8 4
  if ¬ readOk then some 7
  else if f 0 4 ≠ 0x46575247 ∨ f 4 2 ≠ 0x100 ∨ f 6 2 ≠ 0x80 ∨ f 0x18 8 ≠ 0 then some 1
  else if size % 16 ≠ 0 ∨ size < 144 ∨ 0x400000 < size ∨ s.sourceLen i < size then some 2
  else if Sha.sha256 (s.imageBytes i 0x80 (size - 0x80)) ≠ s.imageBytes i 0x20 32 then some 3
  else if 3 < f 0x13 1 ∨ Config.ecdsaOk (f 0x13 1) (Sha.sha256 (s.imageBytes i 0 64)) (s.imageBytes i 0x40 64) = false then some 4
  else if f 0x12 1 < s.fget F.HIF_FW_CTRL_FLOOR then some 5
  else if (s.reg A.GLB_STEP).toNat % 65536 < f 0x10 2 then some 6
  else none

/-- How far sections reach without a gap from the start (R426). -/
def reached (l : List (Nat × Nat × Nat)) : Nat :=
  l.foldl (fun r _ => l.foldl (fun r x => if x.1 ≤ r ∧ r < x.1 + x.2.1 then x.1 + x.2.1 else r) r) 0

/-- R426: whether sections from FIRST to LAST have covered a neighbour's image. -/
def State.nbComplete (s : State) : Bool :=
  let l := s.hif.nb
  l.any (fun x => bit x.2.2 0) && l.any (fun x => bit x.2.2 1) && decide (s.imageField 3 8 4 ≤ reached l)

/-- R405, R426: the images that the loader offers, in order. -/
def State.offers (s : State) : List Nat :=
  if s.hif.neighbour then (if s.nbComplete then [3] else [])
  else
    let flash := if s.imageField 0 12 4 < s.imageField 1 12 4 then [1, 0] else [0, 1]
    let own := if s.fon F.HIF_FW_CTRL_SRC then [2] else flash
    (if s.fget F.RST_STRAP_BOOT = 2 ∧ s.loaderOwns ∧ s.nbComplete then 3 :: own else own).filter (fun i => !s.hif.tried.contains i)

/-- An image fails: REASON, the event, and the next image; a neighbour's is waited for again (R404, R405, R426). -/
def State.imageFails (s : State) (i why : Nat) : State :=
  let s := (s.fset F.HIF_FW_STAT_REASON why).record 0x702 (if i = 1 then 1 else 0) [why]
  if s.hif.neighbour then { s with hif := { s.hif with nb := [] } }
  else
    let s := { s with hif := { s.hif with tried := i :: s.hif.tried } }
    if s.offers = [] then s.setFwState 2 else s

/-- An image passes: the Groom cores start (R404, R406). -/
def State.imagePasses (s : State) (i : Nat) : State :=
  let s := s.setReg A.HIF_FW_VER (BitVec.ofNat 32 (s.imageField i 12 4))
  let s := { s with hif := { s.hif with neighbour := false, tried := [] } }
  s.setFwState 3

/-- FIRMWARE_CHECK (R404, R405, R426): the loader checks the next image that it offers; `readOk` tells whether it could be read. -/
def execFirmwareCheck (readOk : Bool) (s : State) : Out :=
  let t := if s.held .lnk then s else s.deliverBulk
  .next (if t.held .ctl ∨ t.fget F.HIF_FW_STAT_STATE ≠ 1 then s
    else
      match t.offers with
      | [] => if t.hif.neighbour then t else t.setFwState 2
      | i :: _ =>
        match t.imageReason i (readOk && (if i = 2 then t.up .hif else t.up .mem)) with
        | some why => t.imageFails i why
        | none => t.imagePasses i)

/-- NEIGHBOUR_BOOT_TIMEOUT (R426): 30 s have passed since the release of LNK. -/
def execNeighbourBootTimeout (s : State) : Out :=
  .next (if s.held .ctl ∨ s.fget F.HIF_FW_STAT_STATE ≠ 1 then s else { s with hif := { s.hif with neighbour := false } })

/-- FIRMWARE_READY (R393, R406, R407, R427). -/
def execFirmwareReady (s : State) : Out :=
  .next (if s.held .ctl ∨ s.fget F.HIF_FW_STAT_STATE ≠ 3 then s
    else
      let s := ({ s with hif := { s.hif with wdogRun := true } }).setFwState 4
      let s := s.fwEvent 7 [s.fget F.HIF_STAT_CTL_EPOCH, (s.reg A.RST_CAUSE).toNat, (s.reg A.HIF_FW_VER).toNat]
      s.restoreAddr)

/-- WDOG_REACH in force: bits 0 to 2 are ignored, and CTL's is always set (R414). -/
def State.wdogReach (s : State) : Nat := (s.fget F.RST_CFG_WDOG_REACH &&& 0xF8) ||| 8

/-- WATCHDOG_EXPIRY (R407, R413). -/
def execWatchdogExpiry (s : State) : Out :=
  .next (if ¬ s.fwReady ∨ ¬ s.hif.wdogRun then s
    else
      (({ s with hif := { s.hif with wdogRun := false } }).count F.HIF_WDOG_EXPIRED 1).askReset 4 s.wdogReach)

/-- FW_GO: a write of HIF_FW_CTRL; GO resets CTL through the SOFT source (R405). -/
def execFwGo (value : W32) (s : State) : Out :=
  .next (if s.held .aon then s
    else
      let s := s.writePlain A.HIF_FW_CTRL value
      if bit value.toNat 1 then s.askReset 6 8 else s)

end Sys2Proof.Machine
end

