-- ==== Sys2Proof/Machine/Pins.lean ====
section
/-! DEFINITION. Pins that follow the state, and the test access port (R431, R459, R469, R470). -/

namespace Sys2Proof.Machine

open Sys2Proof.Arith

/-! ### The test access port (R469, R470) -/

/-- The identification register (R469). -/
def idcodeWord : Nat := 2 ^ 28 + 0x0600 * 2 ^ 12 + 0x2F5 * 2 + 1

/-- An instruction with the boundary register: the register captures the pins, whose cells the spec does not number (free), and
is loaded with `cells`. -/
def State.boundary (s : State) (ir : JtagIr) (cells : List Bool) : State :=
  { (s.draw cells.length).2 with jtag := { ir := ir, cells := cells, captured := (s.draw cells.length).1 } }

/-- An instruction with another data register, which captures `v`; the boundary register keeps its cells. -/
def State.shortScan (s : State) (ir : JtagIr) (v : Nat) : State :=
  { s with jtag := { s.jtag with ir := ir, captured := v } }

/-- EXTEST. -/
def execExtest (cells : List Bool) (s : State) : Out := .next (s.boundary .extest cells)

/-- SAMPLE/PRELOAD: the pins go on as they are. -/
def execSamplePreload (cells : List Bool) (s : State) : Out := .next (s.boundary .samplePreload cells)

/-- IDCODE. -/
def execIdcode (s : State) : Out := .next (s.shortScan .idcode idcodeWord)

/-- HIGHZ. -/
def execHighz (s : State) : Out := .next (s.shortScan .highz 0)

/-- CLAMP: the cells last loaded hold the pins. -/
def execClamp (s : State) : Out := .next (s.shortScan .clamp 0)

/-- EXTEST_PULSE. -/
def execExtestPulse (cells : List Bool) (s : State) : Out := .next (s.boundary .extestPulse cells)

/-- EXTEST_TRAIN. -/
def execExtestTrain (cells : List Bool) (s : State) : Out := .next (s.boundary .extestTrain cells)

/-- BYPASS: opcode FFh, and every opcode that R469 does not list. -/
def execBypass (opcode : Nat) (s : State) : Out := .next (if opcode ≤ 6 ∨ 255 < opcode then s else s.shortScan .bypass 0)

/-- Test-Logic-Reset selects IDCODE and gives every pin back to its function. -/
def execTestLogicReset (s : State) : Out := .next (s.shortScan .idcode idcodeWord)

/-! ### Pins (R431, R459) -/

/-- The level that the block drives on a pin: none is an input or high impedance. -/
abbrev Drive := Option Bool

/-- The pins of R431, by its rows. -/
inductive PinGroup where
  | sdo | portIn | pdmClk | gpioLow | gpioHigh | faultN | laneTx | pcieTx | clkOut | qspiCsN | ddr | i2c
  deriving DecidableEq, Repr

/-- What R431 has of a pin while its domain is in reset: driven low or high, an input, with a pull-down where `weak`, electrical
idle, or a target that answers. -/
inductive ResetPin where
  | low | high | input (weak : Bool) | idle | active
  deriving DecidableEq, Repr

/-- The domain of a group of pins (R431). -/
def PinGroup.dom : PinGroup → Dom
  | .sdo | .portIn | .pdmClk | .gpioLow | .gpioHigh => .apt
  | .faultN | .i2c => .aon
  | .laneTx => .lnk
  | .pcieTx => .hif
  | .clkOut => .clk
  | .qspiCsN | .ddr => .mem

/-- The state of a group of pins in reset (R431); the pull-downs of a port's pins are those of BCLK and FSYNC. -/
def PinGroup.inReset : PinGroup → ResetPin
  | .sdo | .pdmClk | .faultN | .clkOut | .ddr => .low
  | .gpioLow | .qspiCsN => .high
  | .portIn | .gpioHigh => .input true
  | .laneTx | .pcieTx => .idle
  | .i2c => .active

/-- What holds a group of pins while its domain is in reset, or FAULT_N while any domain from CLK to APT is (R431, R470). -/
def State.pinInReset (s : State) (g : PinGroup) : Option ResetPin :=
  if s.pinsCut then none
  else if s.held g.dom ∨ (g = .faultN ∧ s.fget F.RST_DOMAIN_HELD / 2 ≠ 0) ∨ g = .i2c then some g.inReset else none

/-- FAULT_N (R431). -/
def State.pinFaultN (s : State) : Drive :=
  s.drivesPin (some (!(decide (s.fget F.RST_DOMAIN_HELD / 2 ≠ 0) || decide (s.pairState = 5))))

/-- Whether a SILENCE node drives GPIO line `line` (R104). -/
def Node.drivesLine (n : Node) (line : Nat) : Bool :=
  decide (n.type = T.silence) && bit n.config 6 && decide (bits n.config 5 0 = line)

/-- R459: whether a SILENCE node of a slot that is not EMPTY drives GPIO line `line`. -/
def State.silenceOn (s : State) (line : Nat) : Bool :=
  [0, 1].any (fun k => decide (s.slotState k ≠ 0) && (s.slot k).prog.nodes.any (fun n => n.drivesLine line))

/-- What the block drives on GPIO line `n` (R104, R337, R431, R459, R470). -/
def State.gpioDrive (s : State) (n : Nat) : Drive :=
  s.drivesPin <| if s.held .apt then (if n < 16 then some true else none)
  else if s.fon F.RED_OUTCTL_ACT_EN ∧ s.fget F.RED_OUTCTL_ACT_LINE = n then some s.pair.driving
  else if s.silenceOn n then some (!bit s.eng.amp n)
  else if n < 16 then some true else none

/-- The levels at the balls of GPIO0 to 31 (R459); an input that nothing drives low or high is at `gpioIn`. -/
def State.gpioLevels (s : State) : Nat :=
  ((List.range 32).map (fun n => match s.gpioDrive n with
    | some b => b2n b * 2 ^ n
    | none => if bit s.gpioIn n then 2 ^ n else 0)).sum

end Sys2Proof.Machine
end

