-- ==== Sys2Proof/Machine/Engine.lean ====
section
/-! DEFINITION. The engine's work in one tick: what runs, the sources, the stages, the exchange with the Scarab cores, the
sinks (R17 to R20, R62 to R66, R118 to R121, R198 to R202, R277, R328). -/

namespace Sys2Proof.Machine

open Sys2Proof.Arith

/-! ### What runs (R62, R198) -/

/-- A crossfade as a tick sees it: the old and the new slot, the retained pairs, merge k and length L. -/
structure XfView where
  old : Nat
  new : Nat
  pairs : List (Nat × Nat)
  k : Nat
  len : Nat
  deriving DecidableEq, Repr

/-- The crossfade that is in its warm-up or fade in engine tick `t`. -/
def State.xfView (s : State) (t : Nat) : Option XfView :=
  s.eng.xf.map (fun r => { old := r.old, new := r.new, pairs := retainedPairs (s.slot r.old).prog (s.slot r.new).prog,
                           k := r.kAt t, len := r.len })

/-- The work of one tick: engine tick, tick phase, GPIO levels at the boundary (R95), nodes whose bulk data are not in or
whose bulk writes find no room (R370), frames of the host stream rings by ring, crossfade. -/
structure Work where
  t : Nat
  q : Nat
  pins : Nat
  late : List (Nat × Nat)
  full : List (Nat × Nat)
  host : Tbl (List (List Int))
  xf : Option XfView
  deriving DecidableEq, Repr

/-- The instances that run, by slot and node: in a crossfade the old instances and every node of the new program, unless a STOP
of it has ended (log entry 99). -/
def State.runSet (s : State) (v : Option XfView) : List (Nat × Nat) :=
  match v with
  | some v =>
    ((List.range (s.slot v.old).prog.nodes.length).filter (oldInstance v.pairs)).map (fun i => (v.old, i)) ++
      (if v.k = 0 ∨ s.slotRuns v.new then (List.range (s.slot v.new).prog.nodes.length).map (fun i => (v.new, i)) else [])
  | none =>
    [0, 1].flatMap (fun k => if s.slotRuns k then (List.range (s.slot k).prog.nodes.length).map (fun i => (k, i)) else [])

/-- The node of an instance. -/
def State.nodeAt (s : State) (a : Nat × Nat) : Node := (s.slot a.1).prog.node a.2

/-- R104, R202: at a boundary a GPIO line goes low where a SILENCE node that drives it is ACTIVE; a changed node of a crossfade
drives from the fade on, when its slot is ACTIVE. -/
def State.latchLines (s : State) (v : Option XfView) : State :=
  let retains := fun (a : Nat × Nat) => match v with | none => false | some v => decide (a.1 = v.new) && (oldOf v.pairs a.2).isSome
  let low := (s.runSet v).filter (fun a => ((s.slot a.1).node a.2).active && (s.slotRuns a.1 || retains a))
  { s with eng := { s.eng with amp := ((List.range 32).map (fun n =>
      if low.any (fun a => (s.nodeAt a).drivesLine n) then 2 ^ n else 0)).sum } }

/-- A block out of instance (`k`, `i`); what a retained node puts out stands in the old program's place too, for the old
instances that read it. -/
def State.pushOut (s : State) (v : Option XfView) (k i : Nat) (b : Blk) : State :=
  let s := s.setSlot k ((s.slot k).pushBlk i b)
  match v with
  | none => s
  | some v =>
    if k ≠ v.new then s
    else
      match oldOf v.pairs i with
      | none => s
      | some j => s.setSlot v.old ((s.slot v.old).pushBlk j b)

/-- R77: two streams through a merge. -/
def mergeLists (xo xn : List Int) (k len : Nat) : List Int :=
  (List.range (max xo.length xn.length)).map (fun i => merge (xo.getD i 0) (xn.getD i 0) k len)

/-- The edge of the old program that meets edge `e` of new node `i` in a merge (R64). -/
def State.mergeEdge (s : State) (v : XfView) (k i : Nat) (e : Edge) : Option Edge :=
  if k ≠ v.new ∨ ¬ isMerge (s.slot v.old).prog (s.slot v.new).prog v.pairs i e then none
  else (oldOf v.pairs i).bind (fun j => (s.slot v.old).prog.inEdge j e.dstPort)

/-- What edge `e` brings to instance (`k`, `i`) in tick `t`, merged at a merge point (R64, R77, R199). -/
def State.inStream (s : State) (v : Option XfView) (k i : Nat) (e : Edge) (t : Nat) : List Int :=
  let xs := (s.slot k).edgeIn e t
  match v with
  | none => xs
  | some v =>
    match s.mergeEdge v k i e with
    | none => xs
    | some eo => mergeLists ((s.slot v.old).edgeIn eo t) xs v.k v.len

/-! ### Ingest (R17, R36, R107, R108) -/

/-- One tick of playback voice (`k`, `i`). -/
def State.voiceTick (s : State) (w : Work) (k i : Nat) : List Int × State :=
  let m := (s.nodeAt (k, i)).samples w.q
  let r := (List.range m).foldl (fun (acc : List Int × State) _ =>
    let s := acc.2.settleVoice k i
    let x := s.slot k
    let n := x.prog.node i
    let y := voiceSample s.bulk n (x.word n) (x.runOf i)
    (acc.1 ++ [y.1], (s.setSlot k (x.endRun i y.2)).settleVoice k i)) (([] : List Int), s)
  let s := r.2
  let late := w.late.contains (k, i) && decide (m ≠ 0)
  let x := s.slot k
  let o := dryOut (x.node i) late r.1
  let s := s.setSlot k (x.setNode i o.2)
  (o.1, if late then s.bump A.BLK_UNDER else s)

/-- The samples that source (`k`, `i`) other than a voice gathers in this tick. -/
def State.sourceIn (s : State) (w : Work) (k i : Nat) : List Int :=
  let n := s.nodeAt (k, i)
  let chan := fun (l : List (List Int)) (c : Nat) => l.map (fun f => f.getD c 0)
  if n.type = T.srcPort then chan (s.port (bits n.bind 3 0)).now (bits n.bind 8 4)
  else if n.type = T.srcPdm then [(s.mic (bits n.bind 4 0)).now]
  else if n.type = T.srcLane then chan (s.laneStream (256 * bits n.bind 1 0 + bits n.bind 9 2)).now (bits n.bind 15 10)
  else if n.type = T.srcRtp then chan (s.rxStream (bits n.bind 5 0)).now (bits n.bind 11 6)
  else if n.type = T.srcHost then chan (Tbl.get w.host [] (bits n.bind 4 0)) (bits n.bind 10 5)
  else if n.type = T.srcSpan then [(Tbl.get s.link.spans {} n.bind).now]
  else if n.type = T.srcRet then
    match ((s.slot k).prog.nodes.findIdx? (fun m => decide (m.type = T.snkRet) && decide (m.bind = n.bind))) with
    | none => []
    | some j => if w.t = 0 then [] else (match (s.slot k).blkAt j (w.t - 1) with | none => [] | some b => b.ports.getD 0 [])
  else []

/-- Ingest of one tick: every source that takes a sample puts out its block. -/
def State.ingest (s : State) (w : Work) (l : List (Nat × Nat)) : State :=
  forEach l s (fun s a =>
    let n := s.nodeAt a
    let m := n.samples w.q
    if ¬ n.isSource ∨ m = 0 then s
    else if n.type = T.srcVoice then
      let r := s.voiceTick w a.1 a.2
      r.2.pushOut w.xf a.1 a.2 { tick := w.t, ports := [r.1] }
    else s.pushOut w.xf a.1 a.2 { tick := w.t, ports := [padded (s.sourceIn w a.1 a.2) m] })

/-! ### The matrix (R51, R52, R63, R87, R88) -/

/-- The crosspoints that the entries `es` of a list run for a node under KIND `kind`. -/
def listedXps (es : List SEntry) (kind node : Nat) : List Nat :=
  es.flatMap (fun e => if e.kind = kind ∧ e.node = node then (List.range e.xcount).map (fun j => e.xfirst + j) else [])

/-- The block of a MIX node from its exact sums. -/
def mixBlk (t : Nat) (sums : List Int) : Blk := { tick := t, ports := [sums.map (fun v => sat32 (rnd v 28))], exact := sums }

/-- One MIX node in one tick. The two sums of a retained MIX in a crossfade share their common part. -/
def State.mixNode (s : State) (w : Work) (es : List SEntry) (k i : Nat) : State :=
  let run := fun (s : State) (kind k i : Nat) =>
    let r := (s.slot k).mixTick i (listedXps es kind i) w.t w.q
    (r.1, s.setSlot k r.2)
  let add := fun (a b : List Int) => (a.zip b).map (fun p => p.1 + p.2)
  match w.xf with
  | none => let r := run s 0 k i; r.2.pushOut none k i (mixBlk w.t r.1)
  | some v =>
    if k = v.old then let r := run s 1 k i; r.2.pushOut w.xf k i (mixBlk w.t r.1)
    else
      match oldOf v.pairs i with
      | none => let r := run s 2 k i; r.2.pushOut w.xf k i (mixBlk w.t r.1)
      | some j =>
        let c := run s 0 k i
        let n := run c.2 2 k i
        let o := run n.2 1 v.old j
        let s := o.2.setSlot k ((o.2.slot k).pushBlk i (mixBlk w.t (add c.1 n.1)))
        s.setSlot v.old ((s.slot v.old).pushBlk j (mixBlk w.t (add c.1 o.1)))

/-! ### Strip, bus and zone stages (R17, R34, R99, R102, R103) -/

/-- Samples that an input of node `i` brings in phase `q`: a RATE node's by the rate and phase of its source. -/
def Prog.inSamples (p : Prog) (i q : Nat) : Nat :=
  let n := p.node i
  if n.type = T.rate then
    match p.inEdge i 0 with
    | none => 0
    | some e => samplesIn n.config (p.node e.src).phase q
  else n.samples q

/-- One node of stages 1, 3 and 4 in one tick. A silence detector that becomes ACTIVE is reported (R104). -/
def State.stageNode (s : State) (w : Work) (k i : Nat) : State :=
  let x := s.slot k
  let n := x.prog.node i
  let m := x.prog.inSamples i w.q
  let ins := (x.prog.inEdges i).map (fun e => if m = 0 then [] else padded (s.inStream w.xf k i e w.t) m)
  let deep := decide (n.type = T.bulkDly) && decide (64 ≤ (x.word n 0).toNat) && decide (m ≠ 0)
  let late := w.late.contains (k, i) && deep
  let full := w.full.contains (k, i) && deep
  let env : NodeEnv := { t := w.t, q := w.q, pins := w.pins, late := late, full := full,
                         limit := if n.type = T.zone ∧ s.anaLocked then some (s.regInt (A.ANA_LIM_W2 n.position)) else none }
  let was := (x.node i).active
  let r := x.nodeTick i env ins
  let s := s.setSlot k r.2
  let s := if n.outputs ≠ 0 ∧ n.samples w.q ≠ 0 then s.pushOut w.xf k i { tick := w.t, ports := r.1 } else s
  let s := if late then s.bump A.BLK_UNDER else s
  let s := if full then s.bump A.BLK_WR_GAP else s
  if n.type = T.silence ∧ (r.2.node i).active ∧ ¬ was ∧ bit n.config 7 then s.fwEvent 3 [k, i, 1] else s

/-- The instance that an entry of a schedule list names. -/
def entryAt (v : Option XfView) (k : Nat) (e : SEntry) : Nat × Nat :=
  match v with
  | none => (k, e.node)
  | some v => (if e.kind = 1 then v.old else v.new, e.node)

/-- The lists of stage `stage` for the tick's phase: with their slots, SCHEDULE of each running program, or in a crossfade
XF_SCHEDULE of the new one (R49, R65, R198). -/
def State.lists (s : State) (w : Work) (stage : Nat) : List (Nat × List SEntry) :=
  let at_ := (stage - 1) * 6 + w.q
  match w.xf with
  | some v => [(v.new, ((s.slot v.new).prog.xf.getD []).getD at_ [])]
  | none => [0, 1].filterMap (fun k => if s.slotRuns k then some (k, (s.slot k).prog.sched.getD at_ []) else none)

/-- One stage in one tick: its entries in list order; then the nodes of the stage that are in no list of this phase and yet
take something of the tick, a decimator its inputs (R102) and a silence detector the time (R103). -/
def State.runStage (s : State) (w : Work) (l : List (Nat × Nat)) (stage : Nat) : State :=
  forEach (s.lists w stage) s (fun s x =>
    if stage = 2 then
      forEach l s (fun s a =>
        if (s.nodeAt a).type = T.mix ∧ (s.nodeAt a).samples w.q ≠ 0 ∧ (w.xf.isSome ∨ a.1 = x.1) then s.mixNode w x.2 a.1 a.2 else s)
    else
      let ran := ((x.2.filter (fun e => e.kind ≠ 3)).map (entryAt w.xf x.1)).filter (fun a => l.contains a)
      let s := forEach ran s (fun s a => s.stageNode w a.1 a.2)
      forEach l s (fun s a =>
        let n := s.nodeAt a
        if n.stage = stage ∧ (n.type = T.rate ∨ n.type = T.silence) ∧ ¬ ran.contains a ∧ (w.xf.isSome ∨ a.1 = x.1) then
          s.stageNode w a.1 a.2
        else s))

/-! ### The exchange with the cores (R105, R118, R119) -/

/-- The samples of a task's output ports in XOUT. -/
def Core.outPorts (c : Core) (t : Task) (m : Nat) : List (List Int) :=
  (List.range t.nout).map (fun k => (List.range m).map (fun j => (Tbl.get c.xout 0 (t.yb + 4 * k + j)).toInt))

/-- R119: the outputs of the tasks in tick `t`, of phase `q`, that has ended go to their consumers. -/
def State.taskOutputs (s : State) (t q : Nat) : State :=
  forEach s.cores s (fun s c =>
    forEach c.2.tasks s (fun s tk =>
      let m := (s.nodeAt (tk.slot, tk.node)).samples q
      if m = 0 then s else s.pushOut (s.xfView t) tk.slot tk.node { tick := t, ports := c.2.outPorts tk m }))

/-- The state of node `j` of slot `k` where it runs: a retained node of the old program runs in the new one. -/
def State.liveNode (s : State) (v : Option XfView) (k j : Nat) : NodeSt :=
  match v with
  | none => (s.slot k).node j
  | some v => if k ≠ v.old then (s.slot k).node j
    else match newOf v.pairs j with | none => (s.slot k).node j | some i => (s.slot v.new).node i

/-- R105: whether a task is idle: silence detectors with CONFIG[8] watch every ordinary input, and all are SILENT. -/
def State.taskIdle (s : State) (v : Option XfView) (tk : Task) : Bool :=
  let p := (s.slot tk.slot).prog
  let ins := (p.inEdges tk.node).filter (fun e => !e.reference)
  !ins.isEmpty && ins.all (fun e => (p.nodes.zipIdx).any (fun m =>
    decide (m.1.type = T.silence) && bit m.1.config 8 && !(s.liveNode v tk.slot m.2).active &&
      (p.inEdges m.2).any (fun d => decide (d.src = e.src) && decide (d.srcPort = e.srcPort))))

/-- R118: the words of a task's input window in tick `t`. -/
def State.windowWords (s : State) (tk : Task) (t : Nat) : List (Nat × W32) :=
  let x := s.slot tk.slot
  (x.prog.inEdges tk.node).flatMap (fun e =>
    (((x.edgeIn e t).take 4).zipIdx).map (fun v => (tk.xb + 4 * e.dstPort + v.2, toW v.1)))

/-- R118, R119, R120: the boundary that starts tick `t` of phase `q` at every core: the banks swap, the inputs are copied,
and the tasks to be dispatched in this tick wait. -/
def State.exchangeIn (s : State) (w : Work) : State :=
  forEach (s.cores.map (·.1)) s (fun s n =>
    let c := s.core n
    let go := fun (tk : Task) => decide ((s.nodeAt (tk.slot, tk.node)).samples w.q ≠ 0)
    let tasks := c.tasks.map (fun tk =>
      if ¬ go tk ∨ tk.faulted then { tk with run := .skipped }
      else if s.taskIdle w.xf tk then { tk with run := .skipped, wasIdle := true }
      else { tk with run := .waiting })
    let xin := (c.tasks.filter go).foldl (fun t tk => (s.windowWords tk w.t).foldl (fun t v => Tbl.set t 0 v.1 v.2) t) ([] : Tbl W32)
    s.setCore n { c with tasks := tasks, xinAlt := c.xin, xoutAlt := c.xout, xin := xin, xout := [],
                         gated := !tasks.isEmpty && tasks.all (fun t => decide (t.run = .skipped)),
                         cycle := if c.tasks = [] then c.cycle else 1024 })

/-- R134, R147: the end of the tick at every core: one that has not finished is overrun; SCB_CYC. -/
def State.endCores (s : State) (q : Nat) : State :=
  let s := forEach (s.cores.map (·.1)) s (fun s n => if (s.core n).unfinished then s.taskOverrun n else s)
  forEach (List.range 32) s (fun s n =>
    let ran := (s.core n).tasks.any (fun t => decide (t.run = .ended) || decide (t.run = .stopped))
    (s.fset (F.SCB_CYC_PHASE n) q).fset (F.SCB_CYC_CYCLES n) (if ran then (s.core n).cycle - 1024 else 0))

/-! ### Sinks (R195, R200, R202, R277) -/

/-- What a sink took in a tick: the class of R328 (1 port, 2 lane, 3 RTP, 4 host, 5 recorder, 6 spanning bus, 7 return) and
its index, in a crossfade whether the old (1) or the new program (2) alone drives it so, the sinks, and the samples; of a
spanning bus the exact value in units of 2^-115. -/
structure SinkOut where
  cls : Nat
  key : Nat
  role : Nat
  sinks : List (Nat × Nat)
  vals : List Int
  deriving DecidableEq, Repr

/-- The class and index of a sink's binding in the order of R328. -/
def Node.bindOrder (n : Node) : Nat × Nat :=
  if n.type = T.snkPort then (1, bits n.bind 3 0 * 32 + bits n.bind 8 4)
  else if n.type = T.snkLane then (2, (bits n.bind 1 0 * 256 + bits n.bind 9 2) * 64 + bits n.bind 15 10)
  else if n.type = T.snkRtp then (3, bits n.bind 5 0 * 64 + bits n.bind 11 6)
  else if n.type = T.snkHost then (4, bits n.bind 4 0 * 64 + bits n.bind 10 5)
  else if n.type = T.snkRec then (5, n.bind)
  else if n.type = T.snkSpan then (6, n.bind)
  else (7, n.bind)

/-- One step of what may be a fade: its factor, and the fade after it. -/
def stepFade (f : Option Fade) : Int × Option Fade :=
  match f with
  | none => (unity, none)
  | some f =>
    let f := if f.over then f else { f with k := f.k + 1 }
    ((if f.over then f.g1 else f.now), some f)

/-- R277: the exact input of a SNK_SPAN in units of 2^-59, along edge `e` of slot `x`. -/
def Slot.sigma (x : Slot) (e : Edge) (t : Nat) : Int :=
  let lat := x.prog.latency e.src e.dst
  match (if t < lat then none else x.blkAt e.src (t - lat)) with
  | none => 0
  | some b => if (x.prog.node e.src).type = T.mix then b.exact.getD 0 0 else (b.ports.getD e.srcPort []).getD 0 0 * unity

/-- R277: the exact value of SNK_SPAN (`k`, `i`) in this tick, its merge and its fade included, in units of 2^-115. -/
def State.spanSink (s : State) (w : Work) (k i : Nat) : Int × State :=
  let x := s.slot k
  let v : Int := match x.prog.inEdge i 0 with
    | none => 0
    | some e =>
      match w.xf with
      | none => x.sigma e w.t * unity
      | some v =>
        match s.mergeEdge v k i e with
        | none => x.sigma e w.t * unity
        | some eo =>
          let g := mergeW v.k v.len
          (s.slot v.old).sigma eo w.t * (unity - g) + x.sigma e w.t * g
  let f := stepFade (x.node i).fade
  (v * f.1, s.setSlot k (x.setNode i { (x.node i) with fade := f.2 }))

/-- One sink in one tick: its samples through GAIN (R109) and through its fade (R195). -/
def State.runSink (s : State) (w : Work) (k i : Nat) : SinkOut × State :=
  let n := s.nodeAt (k, i)
  let role := match w.xf with
    | none => 0
    | some v => if k = v.old then 1 else if (oldOf v.pairs i).isSome then 0 else 2
  let out := fun (vals : List Int) => ({ cls := n.bindOrder.1, key := n.bindOrder.2, role := role, sinks := [(k, i)], vals := vals } : SinkOut)
  if n.type = T.snkSpan then
    let r := s.spanSink w k i
    (out [r.1], r.2)
  else
    let x := s.slot k
    let xs := match x.prog.inEdge i 0 with
      | none => padded [] (n.samples w.q)
      | some e => padded (s.inStream w.xf k i e w.t) (n.samples w.q)
    let g := if n.type = T.snkRec then
        mapRun (fun r v => let g := r.gainIn (x.word n) n.pset 5 v; (gain v g.1, g.2)) (x.runOf i) xs
      else (xs, x.runOf i)
    let f := g.1.foldl (fun (acc : List Int × Option Fade) v =>
      let r := fadeSample acc.2 v
      (acc.1 ++ [r.1], r.2)) (([] : List Int), g.2.st.fade)
    let s := s.setSlot k (x.endRun i { g.2 with st := { g.2.st with fade := f.2 } })
    (out f.1, if n.type = T.snkRet then s.pushOut w.xf k i { tick := w.t, ports := [f.1] } else s)

/-- Insert by class and index. -/
def insertOut (a : SinkOut) : List SinkOut → List SinkOut
  | [] => [a]
  | b :: r => if a.cls < b.cls ∨ (a.cls = b.cls ∧ a.key < b.key) then a :: b :: r else b :: insertOut a r

/-- R200: what both programs drive is merged, what one alone drives fades in or out; before the fade the new program drives
nothing. -/
def mergeOuts (v : XfView) (l : List SinkOut) : List SinkOut :=
  let same := fun (a b : SinkOut) => decide (a.cls = b.cls) && decide (a.key = b.key)
  let g := mergeW v.k v.len
  let mix := fun (a : SinkOut) (xo xn : List Int) =>
    if a.cls = 6 then [(xo.getD 0 0 * (unity - g) + xn.getD 0 0 * g) / unity] else mergeLists xo xn v.k v.len
  let zeros := fun (a : SinkOut) => a.vals.map (fun _ => (0 : Int))
  l.filterMap (fun a =>
    if a.role = 0 then some a
    else if a.role = 1 then
      match l.find? (fun b => decide (b.role = 2) && same a b) with
      | some b => some { a with sinks := a.sinks ++ b.sinks, vals := mix a a.vals b.vals }
      | none => some { a with vals := mix a a.vals (zeros a) }
    else if v.k = 0 ∨ l.any (fun b => decide (b.role = 1) && same a b) then none
    else some { a with vals := mix a (zeros a) a.vals })

/-- Every binding that egress drives in this tick, in the order of R328. -/
def State.runSinks (s : State) (w : Work) (l : List (Nat × Nat)) : List SinkOut × State :=
  let r := l.foldl (fun (acc : List SinkOut × State) a =>
    let n := acc.2.nodeAt a
    if ¬ n.isSink ∨ n.samples w.q = 0 then acc
    else let o := acc.2.runSink w a.1 a.2; (acc.1 ++ [o.1], o.2)) (([] : List SinkOut), s)
  let outs := match w.xf with | none => r.1 | some v => mergeOuts v r.1
  let outs := outs.map (fun a => if a.cls = 6 then { a with vals := a.vals.map (fun v => satN 48 (rnd v 76)) } else a)
  (outs.foldl (fun l a => insertOut a l) [], r.2)

/-- R328: the hash of what egress delivers. -/
def hashOuts (l : List SinkOut) : Nat :=
  crc64 (l.flatMap (fun a => a.vals.flatMap (fun v =>
    if a.cls = 6 then leBytes 8 (BitVec.ofInt 64 v).toNat else leBytes 4 (toW v).toNat)))

/-! ### Delivery (R27, R109, R214, R248, R262, R278, R401, R420) -/

/-- A sample of a binding; 0 where no program drives it. -/
def outAt (l : List SinkOut) (cls key j : Nat) : Int :=
  match l.find? (fun a => decide (a.cls = cls) && decide (a.key = key)) with
  | none => 0
  | some a => a.vals.getD j 0

/-- `m` frames of `n` channels of a class, the first channel at `key`, through the factor `g` of the mute (R420). -/
def outFrames (l : List SinkOut) (cls key m n : Nat) (g : Int) : List (List Int) :=
  (List.range m).map (fun j => (List.range n).map (fun c =>
    let y := outAt l cls (key + c) j
    if g = unity then y else gain y g))

/-- One sample of recorder (`k`, `i`): it waits to be written, or finds no room (R109, R327, R370). -/
def State.recordSample (s : State) (w : Work) (y : Int) (a : Nat × Nat) : State :=
  let s := s.settleRecorder a.1 a.2
  let x := s.slot a.1
  let st := x.node a.2
  if st.recd ≠ .recording then s
  else
    let s := (s.setSlot a.1 (x.setNode a.2 { st with pos := st.pos + 1 })).settleRecorder a.1 a.2
    if w.full.contains a then s
    else { s with eng := { s.eng with recOut := s.eng.recOut ++ [(w.t, storeSample (x.word (x.prog.node a.2)) st.pos y)] } }

/-- Recorders take what egress delivers to them; a full write buffer counts a gap (R370). -/
def State.recordOuts (s : State) (w : Work) (l : List SinkOut) : State :=
  forEach (l.filter (fun a => decide (a.cls = 5))) s (fun s a =>
    let full := a.sinks.filter (fun b => w.full.contains b && decide (((s.slot b.1).node b.2).recd = .recording))
    let s := forEach a.vals s (fun s y => forEach a.sinks s (fun s b => s.recordSample w y b))
    forEach full s (fun s _ => s.bump A.BLK_WR_GAP))

/-- One step of the mute, which acts after the hash (R420). -/
def State.stepMute (s : State) : Int × State :=
  let r := stepFade s.rst.mute
  (r.1, { s with rst := { s.rst with mute := r.2 } })

/-- Egress of one tick hands on what the sinks took: to ports and AUDIO streams for the next tick, to RTP streams, host
rings and recorders, which hold it until the next boundary (R327), and as contributions to spanning buses (R278). -/
def State.deliver (s : State) (w : Work) (l : List SinkOut) : State :=
  let mu := s.stepMute
  let s := mu.2
  let ports := (List.range 16).foldl (fun (t : Tbl (List (List Int))) p =>
    if s.held .apt ∨ (s.portState p = 0 ∧ s.portMode p ≠ 0) then t else Tbl.set t [] p (outFrames l 1 (32 * p) (s.portM p) (s.portSlots p) mu.1)) []
  let audio := (List.range 1024).foldl (fun (t : Tbl (List (List Int))) e =>
    if s.held .lnk ∨ ¬ s.fon (F.LNK_TX_W0_EN (e / 256) (e % 256)) then t
    else
      let m := samplesIn (s.fget (F.LNK_TX_W0_RATE (e / 256) (e % 256))) (s.fget (F.LNK_TX_W0_PHASE (e / 256) (e % 256))) w.q
      Tbl.set t [] e (outFrames l 2 (64 * e) m (s.fget (F.LNK_TX_W0_CHANNELS (e / 256) (e % 256)) + 1) mu.1)) []
  let own := (l.filter (fun a => decide (a.cls = 6))).map (fun a => (a.key, a.vals.headD 0))
  let contrib := (if s.paired ∧ s.pairState = 5 then s.link.contrib else (s.scnt, own) :: s.link.contrib).take 16
  let s := { s with eng := { s.eng with portOut := ports }, link := { s.link with audioNext := audio, contrib := contrib } }
  let s := forEach (List.range 64) s (fun s i =>
    s.deliverRtp i (outFrames l 3 (64 * i) (s.txM i) (s.fget (F.RTP_TX_W0_CHANNELS i) + 1) mu.1))
  let s := forEach (List.range 32) s (fun s n => s.deliverHost n (outFrames l 4 (64 * n) (s.srM n) (s.srChannels n) unity))
  s.recordOuts w l

/-- At the boundary, what egress of the tick before delivered leaves the pipeline, unless it is withheld (R214, R262,
R327). -/
def State.release (s : State) : State :=
  let out := s.eng.portOut
  let rec_ := s.eng.recOut
  let s := { s with eng := { s.eng with portOut := [], recOut := [] }, link := { s.link with audio := ((s.scnt, s.link.audioNext) :: s.link.audio).take 17, audioNext := [] } }
  let s := forEach out s.clearPorts (fun s p => forEach p.2 s (fun s f => s.deliverFrame p.1 f))
  forEach rec_ s (fun s r => if s.withholds r.1 then s else { s with bulk := setBytes s.bulk r.2.1 r.2.2 })

end Sys2Proof.Machine
end

