-- ==== Sys2Proof/Machine/Tick.lean ====
section
/-! DEFINITION. The tick boundary and the compute window that follows it, the dispatch of Scarab tasks, a stage that does not
finish, the end of a fade (R17 to R21, R76, R120, R121). -/

namespace Sys2Proof.Machine

open Sys2Proof.Arith

/-! ### What takes effect at a boundary (R19, R187, R195, R198) -/

/-- Silence detectors and fades that have come to an end by the boundary. -/
def State.settleNodes (s : State) (l : List (Nat × Nat)) : State :=
  forEach l s (fun s a =>
    let n := s.nodeAt a
    if n.type = T.srcVoice ∨ n.type = T.silence ∨ n.isSink ∨ n.type = T.bulkDly then
      let s := s.settleSilence a.1 a.2
      let x := s.slot a.1
      let st := x.node a.2
      s.setSlot a.1 (x.setNode a.2 { st with fade := settleFade st.fade })
    else s)

/-- The zone positions that hold something or that a program names. -/
def State.zoneKeys (s : State) : List Nat := s.eng.zones.map (·.1)

/-- The engine at the boundary that starts engine tick `t`: what ends, what lands, what starts, in that order. -/
def State.engineBoundary (s : State) (t : Nat) : State :=
  let s := s.fset F.ENG_ZC_BUSY_COUNT s.gainsBusy
  let s := s.settleNodes (s.runSet (s.xfView t))
  let s := if s.up .lnk then s.settleRecords else s
  let s := (s.endStop t).retireXf t
  let s := s.landCommits t (fun _ => true)
  let s := s.takeAdapts t (fun _ => true)
  let s := forEach s.zoneKeys s (fun s z => s.takeNoise z t)
  let s := s.settleGains t
  let s := s.takeRestarts t (fun _ => true)
  let s := (s.takeStop t).takeActivation t
  let s := (s.beginXf t).beginFade t
  let s := s.latchLines (s.xfView t)
  match s.eng.xf with
  | none => s
  | some r => s.fset F.ENG_XF_STAT_K (r.kAt t)

/-- Ports at the boundary that starts tick `t`: clocks start (R219); waits of slots for a zero crossing have run out (R220). -/
def State.tickPorts (s : State) (t : Nat) : State :=
  forEach (List.range 16) s (fun s p =>
    let limit := max (s.fget (F.APT_PORT_ZC_TIMEOUT p)) 1
    let f := fun (d : PortDir) => { d with slots := Tbl.mapVals {} (fun _ sl => sl.timeout t limit) d.slots }
    let x := (s.port p).atTick (s.portMode p = 0) (s.portState p = 1)
    if s.held .apt then s else s.setPort p { x with rx := f x.rx, tx := f x.tx })

/-- R420: a mute whose fade in is over ends. -/
def State.settleMute (s : State) : State :=
  match s.rst.mute with
  | none => s
  | some f =>
    if (settleFade (some f)).isNone then { s with rst := { s.rst with mute := none } }.fset F.RST_SUP_STAT_MUTED 0 else s

/-! ### Ingest gathers (R17, R214, R225, R247, R262, R279, R333, R335, R400) -/

/-- What the pins bring in this tick; the boundary register hides it (R470). -/
def State.seenTick (s : State) (inp : TickIn) : Nat × List (Nat × Nat) × State :=
  if s.pinsCut then
    let g := s.draw 32
    let r := (List.range 32).foldl (fun (acc : List (Nat × Nat) × State) m =>
      let d := acc.2.draw 128
      (acc.1 ++ [(m, d.1)], d.2)) (([] : List (Nat × Nat)), g.2)
    (g.1, r.1, r.2)
  else (inp.gpio.toNat * 65536, inp.pdm, s)

/-- Whether receive stream `i` is the first entry of an RTP pair in use: its missing ticks count there (R336). -/
def State.rtpPaired (s : State) (i : Nat) : Bool :=
  (List.range 64).any (fun k => s.rxPaired k && s.fon (F.RED_RXPAIR_CLASS k) && decide (s.fget (F.RED_RXPAIR_X k) = i))

/-- The samples of this tick come in from ports, host, lanes, RTP streams and spanning buses. -/
def State.gatherAll (s : State) : Tbl (List (List Int)) × State :=
  let had := (List.range 64).map s.pairFrames
  let s := forEach (List.range 16) s (fun s p => s.gatherPort p)
  let s := s.mirrorInputs
  let h := (List.range 32).foldl (fun (acc : Tbl (List (List Int)) × State) n =>
    let r := acc.2.gatherHost n
    (Tbl.set acc.1 [] n r.1, r.2)) (([] : Tbl (List (List Int))), s)
  let s := h.2
  let s := forEach (List.range 1024) s (fun s e =>
    if s.fon (F.LNK_RX_W0_EN (e / 256) (e % 256)) ∨ s.laneStream e ≠ {} then s.gatherLane e else s)
  let s := forEach (List.range 64) s (fun s i =>
    let under := s.reg (A.RTP_RX_UNDER i)
    let t := s.gatherRtp i
    if s.rtpPaired i then t.setReg (A.RTP_RX_UNDER i) under else t)
  (h.1, s.pairReceive had)

/-- The spanning buses that running programs present (R279, R280). -/
def State.gatherSpans (s : State) (l : List (Nat × Nat)) : State :=
  let buses := l.filterMap (fun a => let n := s.nodeAt a; if n.type = T.srcSpan then some n.bind else none)
  forEach buses.eraseDups s (fun s b => s.gatherSpan b)

/-- The hash of what the sinks took in this tick is kept for the comparison of a pair (R328). -/
def State.keepHash (s : State) (l : List SinkOut) : State :=
  { s with eng := { s.eng with hashes := ((s.scnt, hashOuts l) :: s.eng.hashes).take 32 } }

/-- The compute window of the tick that has begun (R17 to R19). -/
def State.compute (s : State) (late full : List (Nat × Nat)) : State :=
  let h := s.gatherAll
  let s := h.2
  let w : Work := { t := s.eng.tick, q := s.tphase, pins := s.gpioLevels, late := late, full := full, host := h.1,
                    xf := s.xfView s.eng.tick }
  let l := s.runSet w.xf
  let s := ((s.gatherSpans l).exchangeIn w).ingest w l
  let s := forEach [1, 2, 3, 4] s (fun s stage => s.runStage w l stage)
  let o := s.runSinks w l
  (o.2.keepHash o.1).deliver w o.1

/-! ### The boundary -/

/-- The counters of a tick (R21, R305, R316). -/
def State.countTick (s : State) : State :=
  let e := s.ecnt + 25600
  let s := (s.setReg A.TIM_SCNT (s.reg A.TIM_SCNT + 1)).fset F.TIM_TPHASE_VALUE (if 5 ≤ s.tphase then 0 else s.tphase + 1)
  let s := (s.setReg A.TIM_ECNT_LO (BitVec.ofNat 32 e)).setReg A.TIM_ECNT_HI (BitVec.ofNat 32 (e / 2 ^ 32))
  { s with eng := { s.eng with tick := s.eng.tick + 1 } }

/-- R114, R148: what the error checks find as the exchange reads the output window of a task, by core, slot and index: a
double-bit error is the task's fault, at no instruction's address (free). -/
def State.exchangeReads (s : State) (l : List (Nat × (Nat × Nat) × MemCheck)) : State :=
  forEach l s (fun s x =>
    match (s.core x.1).task x.2.1.1 x.2.1.2 with
    | none => s
    | some t =>
      if t.run ≠ .ended then s
      else if x.2.2 = .single then s.bump (A.SCB_ECC_CNT x.1)
      else if x.2.2 = .double ∧ ¬ t.faulted then
        let pc := s.draw 14
        pc.2.failTask x.1 t 4 pc.1
      else s)

/-- R150: the spare cores that Weevil tests in the tick that begins. -/
def State.takeTests (s : State) (cores : Nat) : State :=
  forEach (List.range 32) s (fun s n =>
    let c := s.core n
    s.setCore n { c with test := c.tasks.isEmpty && bit cores n && s.up .mem })

/-- The tick that passes: what ends with it, the boundary, and the work of the tick that it starts. -/
def State.tick (s : State) (inp : TickIn) : State :=
  let t := s.eng.tick
  let s := (s.ringTick).drainFences 64
  let s := if s.up .eng then (((s.endCores s.tphase).vendorTick t).exchangeReads inp.exch).taskOutputs t s.tphase else s
  let s := if s.up .lnk then s.takeFatal else s
  let s := if s.up .eng then (s.engineBoundary (t + 1)).takeTests inp.test.toNat else s
  let s := s.settleMute.release
  let s := s.countTick.passTick.linkTick.pairTick.markOrigins
  let s := (forEach (List.range 8) s (fun s l => (s.flushWait l).txBlocks l)).streamTick
  let s := s.ageYard.tickPorts s.eng.tick
  let pins := s.seenTick inp
  let s := pins.2.2
  let s := ({ s with gpioIn := pins.1 } : State).pdmTick s.eng.tick pins.2.1
  if s.up .eng then s.compute inp.bulkLate inp.bulkFull else forEach (List.range 64) s (fun s i => s.idleRtp i)

/-- TICK (R19): a tick boundary, and the work of the tick it starts. Without a running ECLK no tick passes (R299). -/
def execTick (inp : TickIn) (s : State) : Out := .next (if s.held .clk ∨ ¬ s.clockOk 2 then s else s.tick inp)

/-! ### A stage that does not finish (R20) -/

/-- STAGE_OVERRUN (R20, R67): stage 1 to 4 has not finished its schedule in this tick; the outputs of the nodes `unwritten`
(65,536 times the slot, plus the index) hold zero. -/
def execStageOverrun (stage : Nat) (unwritten : List Nat) (s : State) : Out :=
  .next (if s.held .eng ∨ stage < 1 ∨ 4 < stage then s
    else
      let t := s.eng.tick
      let s := forEach unwritten s (fun s u =>
        let a := (u / 65536, u % 65536)
        let n := s.nodeAt a
        let m := n.samples s.tphase
        if n.stage ≠ stage ∨ n.isTask ∨ m = 0 then s
        else
          let zeros := List.replicate m (0 : Int)
          s.pushOut (s.xfView t) a.1 a.2 { tick := t, ports := List.replicate n.outputs zeros,
                                           exact := if n.type = T.mix then zeros else [] })
      let s := if s.eng.overAt = some t then s
        else { s with eng := { s.eng with overAt := some t } }.bump A.ENG_OVERRUN_CNT
      (s.fset F.ENG_OVERRUN_SRC_STAGE stage).fatalFault.record 0x401 stage [s.scnt])

/-! ### Dispatch (R120, R121, R144) -/

/-- R120: the merges whose consumer is an input of task `tk`: the words of XIN, and how many samples they are. -/
def State.taskMerges (s : State) (tk : Task) : List (Nat × W32) × Nat :=
  match s.xfView s.eng.tick with
  | none => ([], 0)
  | some v =>
    ((s.slot tk.slot).prog.inEdges tk.node).foldl (fun acc e =>
      match s.mergeEdge v tk.slot tk.node e with
      | none => acc
      | some _ =>
        let ys := (s.inStream (some v) tk.slot tk.node e s.eng.tick).take 4
        (acc.1 ++ (ys.zipIdx).map (fun y => (tk.xb + 4 * e.dstPort + y.2, toW y.1)), acc.2 + ys.length)) (([] : List (Nat × W32)), 0)

/-- R144: what is released to task `idx` of slot `slot` at its dispatch in the tick of SCNT `scnt`. -/
def InMsg.releaseAt (m : InMsg) (slot idx scnt : Nat) : InMsg :=
  if m.slot = slot ∧ m.task = idx ∧ (m.mode = 1 ∨ 0 ≤ sdiff scnt m.tick.toNat) then { m with released := true } else m

/-- R121: a core at the first instruction of task `tk`. -/
def Core.entryState (c : Core) (tk : Task) (q : Nat) (scnt : W32) (xf : Bool) (msgs : Nat) : Core :=
  let w := fun (v : Nat) => BitVec.ofNat 32 v
  let d3 := b2n tk.first + 2 * b2n xf + 4 * b2n tk.wasIdle
  let d : Tbl W32 := [(0, w q), (1, scnt), (2, w tk.idx), (3, w d3), (4, w msgs)].foldl (fun t x => Tbl.set t 0 x.1 x.2) []
  let a : Tbl W16 := [(0, tk.base), (6, 0x4000 + tk.xb), (7, 0x4800 + tk.yb)].foldl (fun t x => Tbl.set t 0 x.1 (BitVec.ofNat 16 x.2)) []
  { c with d := d, a := a, b := [], l := [], acc := [], accR := [], bexp := 0, flags := 0, errst := 0, ien := 0,
           pc := tk.base + tk.entry, inflight := [], loops := [], delay := none, stall := none, atPoint := true,
           inHandler := false, mboxReq := false, errReq := false, fftDone := [], mvLoc := 0, mvRem := 0, mvLen := 0,
           mvErr := false, retPc := 0, endAt := none }

/-- R120: core `n` dispatches task `tk`. -/
def State.dispatch (s : State) (n : Nat) (tk : Task) (upsets : List (Nat × MemCheck)) : State :=
  let c := s.core n
  let mg := s.taskMerges tk
  let mbin := c.mbin.map (fun m => m.releaseAt tk.slot tk.idx s.scnt)
  let msgs := (mbin.filter (fun m => m.released && decide ((m.slot, m.task) = (tk.slot, tk.idx)))).length
  let xin := mg.1.foldl (fun (t : Tbl W32) v => Tbl.set t 0 v.1 v.2) c.xin
  let c := { c with xin := xin, mbin := mbin }
  let tk' := { tk with first := false, wasIdle := false, run := .ended,
                       period := if 1 ≤ tk.kind ∧ tk.kind ≤ 3 then some (tk.period.getD s.eng.tick) else tk.period }
  let c := (c.entryState tk s.tphase (s.reg A.TIM_SCNT) s.eng.xf.isSome msgs).setTask tk'
  s.setCore n { c with running := some (tk.slot, tk.idx), dispatched := c.cycle, cycle := c.cycle + 6 + 2 * mg.2, upsets := upsets }

/-- TASK_DISPATCH (R120): the next task that waits on the core; one whose dispatch would lie beyond the tick waits for the
overrun. -/
def execTaskDispatch (start : TaskStart) (s : State) : Out :=
  let c := s.core start.core
  .next (if s.held .eng ∨ 32 ≤ start.core ∨ c.running.isSome then s
    else
      match c.tasks.find? (fun t => decide (t.run = .waiting)) with
      | none => s
      | some tk => if 25600 ≤ c.cycle then s else s.dispatch start.core tk start.upsets)

/-! ### The end of a fade (R76, R420) -/

/-- FADE_COMPLETE: a fade that has put out its last sample is over: the signal passes unchanged, or stays silent. A slot of a
port, and a microphone, go on by their own rules (R218, R226). -/
def execFadeComplete (id : FadeId) (s : State) : Out :=
  .next (match id with
    | .node k i =>
      if s.held .eng ∨ ¬ s.slotWorks k then s
      else
        let s := s.settleVoice k i
        let x := s.slot k
        let st := x.node i
        s.setSlot k (x.setNode i { st with fade := settleFade st.fade })
    | .portSlot p tx k =>
      let x := s.port p
      if s.held .apt ∨ 16 ≤ p ∨ 32 ≤ k then s
      else s.setPort p (if tx then { x with tx := x.tx.modSlot k SlotSt.settled } else { x with rx := x.rx.modSlot k SlotSt.settled })
    | .mic n => if s.held .apt ∨ 32 ≤ n then s else s.setMic n ((s.mic n).settleAt s.nextTick)
    | .hostRing n =>
      if s.held .hif ∨ 32 ≤ n then s else s.setStream n { (s.stream n) with fade := settleFade (s.stream n).fade }
    | .rtp i => if s.held .lnk ∨ 64 ≤ i then s else s.setRxStream i { (s.rxStream i) with fade := settleFade (s.rxStream i).fade }
    | .laneStream p i =>
      let e := 256 * p + i
      if s.held .lnk ∨ 4 ≤ p ∨ 256 ≤ i then s
      else s.setLaneStream e { (s.laneStream e) with fade := settleFade (s.laneStream e).fade }
    | .outputs => s.settleMute)

end Sys2Proof.Machine
end

