-- ==== Sys2Proof/Machine/Regs.lean ====
section
/-! DEFINITION. Register accesses (R7 to R13, R381): what a read of any register returns and clears, what a write of any
register does, snapshots of wide values, and the error log of the Yard's default target (R347). -/

namespace Sys2Proof.Machine

open Sys2Proof.Arith

/-- The state that a meaning answers; the meanings of this block always answer one. -/
def after (o : Out) (s : State) : State :=
  match o with
  | .next t => t
  | .fault _ => s
  | .refused _ => s

/-! ### Masters and the error log (R345, R347, R353, R377) -/

/-- The RID that a master's register accesses carry (R345); a mover's own transactions name their core. -/
def masterRid (m : Nat) : Nat :=
  if m < 6 then 32 + m
  else if m < 10 then 8 * (m - 6)
  else if m < 12 then 38 + (m - 10)
  else if m < 14 then 40 + (m - 12)
  else if m < 18 then 42 + (m - 14)
  else 46 + (m - 18)

/-- A refused or unmapped access: the first since VALID was cleared is recorded; default-target accesses are counted. TYPE
0 read, 1 write, 2 atomic; CAUSE 0 default target, 1 ownership, 2 other. -/
def State.yardErr (s : State) (master queue type cause addr : Nat) : State :=
  if s.held .mem then s
  else
    let s := if cause = 0 then s.bump A.YRD_ERR_CNT else s
    if s.fon F.YRD_ERR_INFO_VALID then s
    else
      let s := (s.setReg A.YRD_ERR_ADDR (BitVec.ofNat 32 addr)).fset F.YRD_ERR_INFO_VALID 1
      let s := (s.fset F.YRD_ERR_INFO_CAUSE cause).fset F.YRD_ERR_INFO_TYPE type
      (s.fset F.YRD_ERR_INFO_QUEUE (if master = 13 then queue else 0)).fset F.YRD_ERR_INFO_MASTER master

/-! ### Values that the block works out when they are read -/

/-- The programs that run: the old one first while a crossfade runs. -/
def State.running (s : State) : List Prog :=
  match s.eng.xf with
  | some r => [(s.slot r.old).prog, (s.slot r.new).prog]
  | none => ([0, 1].filter (fun k => s.slotRuns k)).map (fun k => (s.slot k).prog)

/-- Cycles of stage `stage` in tick phase `q`, all lanes together (R56): by XF_SCHEDULE while a crossfade runs. -/
def State.stageCycles (s : State) (stage q : Nat) : Nat :=
  let i := (stage - 1) * 6 + q
  match s.eng.xf with
  | some r =>
    let old := (s.slot r.old).prog
    let new := (s.slot r.new).prog
    ((new.xf.getD []).getD i []).foldl (fun a e => a + entryCycles (if e.kind = 1 then old.node e.node else new.node e.node) e q) 0
  | none => s.running.foldl (fun a p => (p.sched.getD i []).foldl (fun a e => a + entryCycles (p.node e.node) e q) a) 0

/-- Cycles of core `c` in tick phase `q` (R55, R65). -/
def State.coreLoad (s : State) (c q : Nat) : Nat :=
  match s.eng.xf with
  | some r =>
    let old := (s.slot r.old).prog
    let new := (s.slot r.new).prog
    let pairs := retainedPairs old new
    old.tasks.foldl (fun a t => if t.core = c ∧ oldInstance pairs t.node then a + t.cycles.getD q 0 else a) 0 +
      new.tasks.foldl (fun a t => if t.core = c then a + t.cycles.getD q 0 + 2 * Sys2Proof.Machine.taskMerges old new pairs t.node q else a) 0
  | none => s.running.foldl (fun a p => a + p.coreCycles c q) 0

/-- The largest of a list of values and the first place that has it. -/
def largest (l : List Nat) : Nat × Nat :=
  (l.zipIdx).foldl (fun b x => if b.1 < x.1 then x else b) (0, 0)

/-- A load in units of 1/65,536 of a capacity, rounded down, below its phase (R67). -/
def loadFigure (cycles phase capacity : Nat) : Nat := cycles * 65536 / capacity + phase * 2 ^ 17

/-- ENG_LOAD_STRIP, _MATRIX, _BUS, _ZONE: stages 1 to 4 (R67). -/
def State.stageLoad (s : State) (stage : Nat) : Nat :=
  let m := largest ((List.range 6).map (fun q => s.stageCycles stage q))
  loadFigure m.1 m.2 (stageLanes stage * 24576)

/-- ENG_LOAD_SCARAB (R67): the most loaded core, the lowest on a tie. -/
def State.scarabLoad (s : State) : Nat :=
  let per := (List.range 32).map (fun c => largest ((List.range 6).map (fun q => s.coreLoad c q)))
  let m := largest (per.map (·.1))
  loadFigure m.1 (per.getD m.2 (0, 0)).2 24576 + m.2 * 2 ^ 20

/-- BLK_LOAD (R369). -/
def State.bulkLoad (s : State) : Nat := ((s.running.map Prog.bulkTraffic).sum + 5) / 6

/-- SCB_STAT (R151): 0 SPARE, 1 WAIT, 2 RUN, 3 GATED, 4 TEST. -/
def State.scbStat (s : State) (n : Nat) : Nat :=
  let c := s.core n
  let st := if c.test then 4
    else if c.tasks.isEmpty then 0
    else if c.running.isSome then 2
    else if c.gated then 3 else 1
  let cur := match c.running with | some r => r.2 | none => 0xFFFF
  st + 8 * b2n (c.tasks.any (fun t => t.faulted)) + c.tasks.length % 256 * 2 ^ 8 + cur * 2 ^ 16

/-- Registers of core `n` at offset `o` that show its queues (R151). -/
def State.scbWord (s : State) (n o : Nat) (stored : W32) : W32 :=
  let c := s.core n
  let low := fun (v : Nat) => BitVec.ofNat 32 (stored.toNat / 32 * 32 + v)
  match o with
  | 0x00 => BitVec.ofNat 32 (s.scbStat n)
  | 0x38 => low (16 - c.mbin.length)
  | 0x58 => low c.mbout.length
  | _ =>
    match c.mbout with
    | [] => if 0x40 ≤ o ∧ o < 0x58 then 0 else stored
    | m :: _ =>
      if o = 0x40 then BitVec.ofNat 32 (m.task * 2 ^ 16 + 1)
      else if o = 0x44 then m.tick
      else if 0x48 ≤ o ∧ o < 0x58 then m.words.getD ((o - 0x48) / 4) 0
      else stored

/-- Word `w` of a time in units of 2^-32 ns: fraction, ns, seconds (R302, R319). -/
def timeWord (t w : Nat) : W32 :=
  match w with
  | 0 => BitVec.ofNat 32 (t % 2 ^ 32)
  | 1 => BitVec.ofNat 32 (t / 2 ^ 32 % 1000000000)
  | 2 => BitVec.ofNat 32 (t / secUnits % 2 ^ 32)
  | _ => BitVec.ofNat 32 (t / secUnits / 2 ^ 32 % 2 ^ 16)

/-- TIM registers that show the times (R319). -/
def State.timWord (s : State) (off : Nat) (stored : W32) : W32 :=
  if off = A.TIM_MAIN_OFS then toW (sat32 (s.tim.ofs / 2 ^ 32))
  else if A.TIM_MAIN_FRAC ≤ off ∧ off < A.TIM_MAIN_OFS then timeWord s.mainTime ((off - A.TIM_MAIN_FRAC) / 4)
  else if off = A.TIM_TS_FRAC 0 ∨ off = A.TIM_TS_NS 0 ∨ off = A.TIM_TS_SLO 0 ∨ off = A.TIM_TS_SHI 0 then
    timeWord (s.tsc 0).t ((off - A.TIM_TS_FRAC 0) / 4)
  else if off = A.TIM_TS_FRAC 1 ∨ off = A.TIM_TS_NS 1 ∨ off = A.TIM_TS_SLO 1 ∨ off = A.TIM_TS_SHI 1 then
    timeWord (s.tsc 1).t ((off - A.TIM_TS_FRAC 1) / 4)
  else stored

/-- A register word with one field replaced. -/
def withField (w : W32) (f : Field) (v : Nat) : W32 := insertBits w f.hi f.lo v

/-- RED_STAT (R344). -/
def State.redStat (s : State) : W32 :=
  let w := withField (s.reg A.RED_STAT) F.RED_STAT_DRIVING (b2n s.drives)
  withField w F.RED_STAT_PARTNER_SEEN (b2n (decide (s.pair.sinceCricket < 36)))

/-- A requester's lock status (R378). -/
def LockReq.word (r : LockReq) : Nat := r.result * 2 ^ 30 + r.reason * 2 ^ 28 + b2n r.broken * 2 ^ 27 + r.lock

/-- MEM_LK_STAT for a reading requester (R378). -/
def State.lockStatus (s : State) (rid : Nat) : Nat :=
  match ridOwner rid 0 with
  | none => 0
  | some o => (s.lockReq o).word

/-- The fields that software writes and never reads (R9). -/
def woMask (off : Nat) : W32 :=
  match regDef off with
  | none => 0
  | some r => BitVec.ofNat 32 (r.mask (fun a => decide (a = .wo)))

/-- What a read of a register shows to a requester, before anything clears: WO fields read as zero (R9). -/
def State.shown (s : State) (rid off : Nat) : W32 :=
  let stored := s.reg off
  let w : W32 :=
    match off / 0x10000 with
    | 2 => if off = A.CLK_STAT then withField stored F.CLK_STAT_HO_VALID (b2n s.hoValid) else stored
    | 3 => s.timWord off stored
    | 6 => if off = A.MEM_LK_STAT then BitVec.ofNat 32 (s.lockStatus rid) else stored
    | 7 => if off = A.BLK_LOAD then BitVec.ofNat 32 s.bulkLoad else stored
    | 10 => if off = A.RED_STAT then s.redStat else stored
    | 11 =>
      if A.ENG_LOAD_STAGE 0 ≤ off ∧ off ≤ A.ENG_LOAD_STAGE 3 then BitVec.ofNat 32 (s.stageLoad ((off - A.ENG_LOAD_STAGE 0) / 4 + 1))
      else if off = A.ENG_LOAD_SCARAB then BitVec.ofNat 32 s.scarabLoad
      else if off = A.ENG_COMMIT_PEND then BitVec.ofNat 32 (s.eng.fences.length * 2 ^ 16 + s.eng.pend.length)
      else stored
    | 12 => s.scbWord ((off - 0xC0000) / 0x800) ((off - 0xC0000) % 0x800) stored
    | 13 =>
      if off = A.ANA_PERIOD then BitVec.ofNat 32 s.periodTicks
      else if off = A.ANA_STAT then withField stored F.ANA_STAT_LOCKED (s.fget F.ANA_CTRL_LOCK)
      else stored
    | _ => stored
  w &&& ~~~(woMask off)

/-! ### Snapshots (R12) -/

/-- The registers that a read of `off` snapshots. -/
def snapGroup (off : Nat) : List Nat :=
  if off = A.TIM_ECNT_LO then [A.TIM_ECNT_HI]
  else if off = A.TIM_MAIN_FRAC then [A.TIM_MAIN_NS, A.TIM_MAIN_SLO, A.TIM_MAIN_SHI]
  else if off = A.TIM_TS_FRAC 0 then [A.TIM_TS_NS 0, A.TIM_TS_SLO 0, A.TIM_TS_SHI 0]
  else if off = A.TIM_TS_FRAC 1 then [A.TIM_TS_NS 1, A.TIM_TS_SLO 1, A.TIM_TS_SHI 1]
  else if off = A.TIM_TS_MOFS_LO 0 then [A.TIM_TS_MOFS_HI 0]
  else if off = A.TIM_TS_MOFS_LO 1 then [A.TIM_TS_MOFS_HI 1]
  else if off = A.TIM_TS_INC_LO 0 then [A.TIM_TS_INC_HI 0]
  else if off = A.TIM_TS_INC_LO 1 then [A.TIM_TS_INC_HI 1]
  else if off = A.GLB_UID_LO then [A.GLB_UID_HI]
  else if off = A.BLK_ECC_ADDR_LO then [A.BLK_ECC_ADDR_HI]
  else if off = A.HIF_SB_LO ∨ off = A.HIF_FW_ADDR_LO then [off + 4]
  else if 0x40100 ≤ off ∧ off < 0x401C0 ∧ off % 0x20 = 0 then [off + 4]
  else if 0x40400 ≤ off ∧ off < 0x40800 ∧ off % 0x20 = 0 then [off + 4]
  else if 0x88000 ≤ off ∧ off < 0x88400 ∧ (off % 0x100 = 8 ∨ off % 0x100 = 0x10) then [off + 4]
  else if 0x8D000 ≤ off ∧ off < 0x8E000 ∧ off % 0x40 = 0x10 then [off + 4]
  else if off = A.TIM_TS_SET_NS 0 ∨ off = A.TIM_TS_SET_NS 1 then [off + 4, off + 8]
  else if 0x30400 ≤ off ∧ off < 0x30500 ∧ off % 0x20 = 4 then [off + 4, off + 8]
  else if off = A.RED_HASH_TICK then [A.RED_HASH_LO, A.RED_HASH_HI]
  else if off = A.TST_OPTIME_LO then [A.TST_OPTIME_HI]
  else if off / 0x8000 = 16 ∧ off % 0x1000 = 0x18 then [off + 4]
  else if off / 0x8000 = 16 ∧ off % 0x1000 = 0x20 then [off + 4]
  else if 0xF0020 ≤ off ∧ off < 0xF0040 ∧ off % 8 = 0 then [off + 4]
  else []

/-- The heads of the snapshot groups that reach back from an upper word. -/
def snapHead (off : Nat) : Option Nat := [4, 8, 12].findSome? (fun d =>
  if d ≤ off ∧ (snapGroup (off - d)).contains off then some (off - d) else none)

/-- The place of a master's snapshot of a register. -/
def snapKey (master off : Nat) : Nat := master * 0x1000000 + off

/-- Take the snapshots that a read of `off` by `master` makes. -/
def State.snapshot (s : State) (master rid off : Nat) : State :=
  forEach (snapGroup off) s (fun s o =>
    { s with snaps := Tbl.set s.snaps none (snapKey master o) (some (s.shown rid o)) })

/-! ### Reads (R9, R10) -/

/-- What a read of `off` returns to a master: an upper word that it has snapshot comes from the snapshot. -/
def State.readValue (s : State) (master rid off : Nat) : W32 :=
  match Tbl.get s.snaps none (snapKey master off) with
  | some w => if (snapHead off).isSome then w else s.shown rid off
  | none => s.shown rid off

/-- The RC fields of a register. -/
def rcMask (off : Nat) : W32 :=
  match regDef off with
  | none => 0
  | some r => BitVec.ofNat 32 (r.mask (fun a => decide (a = .rc)))

/-- A read of a register: it snapshots, it clears the RC fields; a read of SCB_FAULT lets the next fault be shown (R148),
and one of RST_TACK_DATA moves the pointer (R433). -/
def State.readReg (s : State) (master rid off : Nat) : W32 × State :=
  if off = A.RST_TACK_DATA then
    let t := s.tackAccess false 0
    (t.reply.data, { t with reply := s.reply })
  else
    let v := s.readValue master rid off
    let s := s.snapshot master rid off
    let m := rcMask off
    let s := if m = 0 then s else s.setReg off (s.reg off &&& ~~~m)
    if off / 0x10000 = 12 ∧ (off - 0xC0000) % 0x800 = 8 then
      let n := (off - 0xC0000) / 0x800
      (v, s.setCore n { s.core n with faultRead := true })
    else (v, s)

/-! ### Writes (R9, R11, R13) -/

/-- GLB, RST and CLK registers. -/
def State.writeLow (s : State) (off : Nat) (v : W32) : State :=
  let t := s.writePlain off v
  if off = A.RST_SOFT then s.writeSoft v
  else if off = A.RST_CFG then t.fset F.RST_CFG_WDOG_REACH ((t.fget F.RST_CFG_WDOG_REACH &&& 0xF8) ||| 8)
  else if off = A.RST_TACK_SEAL then after (execTackSeal v s) s
  else if off = A.RST_TACK_DATA then s.tackAccess true v
  else if 0x10040 ≤ off ∧ off < 0x10060 then s.writeBackup ((off - 0x10040) / 4) v
  else if off = A.CLK_CTRL then after (execClkModeWrite v s) s
  else if off = A.CLK_TIMING then t.fset F.CLK_STAT_HO_VALID (b2n t.hoValid)
  else if off = A.CLK_DCO_MAN then (if s.clkState = 4 then t.setWord (t.regInt A.CLK_DCO_MAN) else t)
  else if off = A.CLK_XO_CAL then (if s.clkState = 0 then t.setWord (-(t.regInt A.CLK_XO_CAL)) else t)
  else if 0x20100 ≤ off ∧ off < 0x20300 ∧ off % 0x20 = 0 then t.recheckSelection
  else if 0x20400 ≤ off ∧ off < 0x20440 ∧ (off % 16 = 0 ∨ off % 16 = 4) then
    let n := (off - 0x20400) / 16
    let same := decide (t.fget (F.CLK_FS_CFG_SOURCE n) = s.fget (F.CLK_FS_CFG_SOURCE n)) && decide (t.fsPeriod n = s.fsPeriod n)
    if same then t else t.fsRestart n
  else t

/-- TIM registers. -/
def State.writeTim (s : State) (off : Nat) (v : W32) : State :=
  let t := s.writePlain off v
  if off = A.TIM_CTRL then t.settleMain
  else if off = A.TIM_CMD then (if bit v.toNat 0 then after (execScntAlign s) s else s)
  else if 0x30100 ≤ off ∧ off < 0x30200 then
    let n := (off - 0x30100) / 0x80
    match off % 0x80 with
    | 0x1C => after (execTsSetGo n v s) s
    | 0x24 => after (execTsIncWrite n v s) s
    | 0x28 => after (execTsAdj n v s) s
    | 0x2C => t.settleTs n
    | _ => t
  else if 0x30400 ≤ off ∧ off < 0x30500 then
    let n := (off - 0x30400) / 0x20
    if off % 0x20 = 0 then (if bit v.toNat 0 then after (execFireflyArm n v s) s else after (execFireflyDisarm n v s) s)
    else if (s.firefly n).next.isSome then s else t
  else t

/-- HIF registers. -/
def State.writeHif (s : State) (off : Nat) (v : W32) : State :=
  if off = A.HIF_SB_LO then after (execStatusBlockArm v s) s
  else if off = A.HIF_HB then s.writeHb v
  else if off = A.HIF_FW_CTRL then after (execFwGo v s) s
  else if 0x40100 ≤ off ∧ off < 0x401C0 ∧ off % 0x20 = 8 then after (execRingEnable ((off - 0x40100) / 0x20) v s) s
  else if 0x40400 ≤ off ∧ off < 0x40800 ∧ off % 0x20 = 8 then
    after (execStreamRingCfgWrite ((off - 0x40400) / 0x20) false v s) s
  else if 0x40400 ≤ off ∧ off < 0x40800 ∧ off % 0x20 = 0xC then
    after (execStreamRingCfgWrite ((off - 0x40400) / 0x20) true v s) s
  else s.writePlain off v

/-- YRD, MEM and BLK registers; a master's lock command names its RID. -/
def State.writeMem (s : State) (rid off : Nat) (v : W32) : State :=
  let t := s.writePlain off v
  if 0x50480 ≤ off ∧ off < 0x50500 ∧ off % 16 = 0 then after (execArbBiasWrite ((off - 0x50480) / 16) v 0 s) s
  else if off = A.MEM_LK_CMD then s.lockCommand rid (bits v.toNat 13 10) (bits v.toNat 31 30) (bits v.toNat 7 0)
  else if off = A.MEM_WV_CTRL then t.showWeevil
  else if 0x60100 ≤ off ∧ off < 0x60280 then
    let k := (off - 0x60100) / 4
    let owner := s.fget (F.MEM_STALL_OWNER k)
    let t := t.fset (F.MEM_STALL_OWNER k) owner
    if bits v.toNat 4 0 = owner ∧ ¬ s.fon (F.MEM_STALL_PEND k) then t else t.writeOwner k (bits v.toNat 4 0)
  else if off = A.BLK_CFG then after (execBlkCfgWrite v s) s
  else if off = A.BLK_DLY_BASE then after (execBlkDlyBaseWrite v s) s
  else t

/-- LNP registers and RTP entries. -/
def State.writeLnp (s : State) (off : Nat) (v : W32) : State :=
  let lane := (off - 0x80000) / 0x1000
  if off < 0x88000 then
    match off % 0x1000 with
    | 0x00 => after (execLaneCtrlWrite lane v s) s
    | 0x08 => after (execTxeqWrite lane v s) s
    | 0x0C => after (execRxeqWrite lane v s) s
    | 0x10 => after (execPrbsTestWrite lane v s) s
    | _ => s.writePlain off v
  else if off < 0x88400 ∧ off % 0x100 = 0 then after (execPortModeWrite ((off - 0x88000) / 0x100) v s) s
  else if 0x8C000 ≤ off ∧ off < 0x8D000 then after (execRtpRxEntryWrite ((off - 0x8C000) / 64) (off % 64 / 4) v s) s
  else if 0x8D000 ≤ off ∧ off < 0x8E000 then after (execRtpTxEntryWrite ((off - 0x8D000) / 64) (off % 64 / 4) v s) s
  else s.writePlain off v

/-- LNK registers: the keys are WO and locked (R287). -/
def State.writeLnk (s : State) (off : Nat) (v : W32) : State :=
  if off = A.LNK_ADDR then after (execAddrWrite v s) s
  else if off = A.LNK_PORTMAP then after (execPortmapWrite v s) s
  else if 0x90010 ≤ off ∧ off < 0x90020 then after (execSpanEnWrite ((off - 0x90010) / 4) v s) s
  else if 0x90040 ≤ off ∧ off < 0x90060 then (if s.fon F.LNK_MGMT_LOCK then s else s.setReg off v)
  else if 0x94000 ≤ off ∧ off < 0x98000 then
    after (execLaneStreamEntryWrite true ((off - 0x94000) / 0x1000) (off % 0x1000 / 16) (off % 16 / 4) v s) s
  else if 0x98000 ≤ off ∧ off < 0x9C000 then
    after (execLaneStreamEntryWrite false ((off - 0x98000) / 0x1000) (off % 0x1000 / 16) (off % 16 / 4) v s) s
  else s.writePlain off v

/-- RED registers. -/
def State.writeRed (s : State) (off : Nat) (v : W32) : State :=
  if off = A.RED_CFG then
    let t := s.writePlain off v
    if t.fget F.RED_CFG_ROLE = s.fget F.RED_CFG_ROLE ∨ s.held .eng then t else t.startPair
  else if off = A.RED_CTRL then
    let s := if bit v.toNat 0 then after (execPairFail s) s else s
    let s := if bit v.toNat 1 then after (execPairRejoin s) s else s
    if bit v.toNat 2 then after (execHandback s) s else s
  else s.writePlain off v

/-- ENG, SCB and ANA registers. -/
def State.writeEng (s : State) (off : Nat) (v : W32) : State :=
  let n := (off - 0xC0000) / 0x800
  if off = A.ENG_PROG_BASE then after (execProgBaseWrite v s) s
  else if off / 0x10000 = 12 ∧ (off - 0xC0000) % 0x800 = 0x34 then after (execMbinEnqueue n v s) s
  else if off / 0x10000 = 12 ∧ (off - 0xC0000) % 0x800 = 0x5C then after (execMboutPop n v s) s
  else if off = A.ANA_CTRL then s.writeAnaCtrl v
  else if 0xD9000 ≤ off ∧ off < 0xDD000 ∧ off % 0x20 = 0 then (s.writePlain off v).reownZone ((off - 0xD9000) / 0x20) false
  else s.writePlain off v

/-- APT registers. -/
def State.writeApt (s : State) (off : Nat) (v : W32) : State :=
  let p := (off - 0xE0000) / 0x100
  if off < 0xE1000 then
    match off % 0x100 with
    | 0x00 => after (execPortCfgWrite p false v s) s
    | 0x04 =>
      let s := s.writeRun p (bit v.toNat 0)
      if bit v.toNat 1 then after (execMaskCommit p s) s else s
    | 0x1C => after (execPortCfgWrite p true v s) s
    | _ => s.writePlain off v
  else if off = A.APT_PDM_CTRL then after (execPdmCtrlWrite v s) s
  else if off = A.APT_PDM_MASK then after (execPdmMaskWrite v s) s
  else s.writePlain off v

/-- TST registers: the operating time and power cycles written before LOAD wait for it (R445); WPTR and BASE of the flash
ring are taken only while EN is 0 (R444). -/
def State.writeTst (s : State) (off : Nat) (v : W32) : State :=
  if off = A.TST_CTRL then after (execSelftestStart v s) s
  else if off = A.TST_RPR_ADD then after (execRepairAdd v s) s
  else if off = A.TST_EVT_POST_CODE then after (execEventPostWrite v s) s
  else if off = A.TST_PERSIST then after (execCounterLoad v s) s
  else if off = A.TST_OPTIME_LO then (if s.fon F.TST_PERSIST_LOADED then s else { s with loft := { s.loft with lo := some v } })
  else if off = A.TST_OPTIME_HI then (if s.fon F.TST_PERSIST_LOADED then s else { s with loft := { s.loft with hi := some v } })
  else if off = A.TST_PCYC then (if s.fon F.TST_PERSIST_LOADED then s else { s with loft := { s.loft with pcyc := some v } })
  else if off = A.TST_EVF_WPTR then (if s.fon F.TST_EVF_CFG_EN then s else s.writePlain off v)
  else if off = A.TST_EVF_CFG then
    let t := s.writePlain off v
    if 256 < t.unflushed then t.startFlush else t
  else s.writePlain off v

/-- A write of the register at `off`: nothing while its domain is held (R13); else what the register's own rules say. -/
def State.writeReg (s : State) (rid off : Nat) (v : W32) : State :=
  match regDef off with
  | none => s
  | some r =>
    if s.held r.dom then s
    else
      match off / 0x10000 with
      | 0 | 1 | 2 => s.writeLow off v
      | 3 => s.writeTim off v
      | 4 => s.writeHif off v
      | 5 | 6 | 7 => s.writeMem rid off v
      | 8 => s.writeLnp off v
      | 9 => s.writeLnk off v
      | 10 => s.writeRed off v
      | 11 | 12 | 13 => s.writeEng off v
      | 14 => s.writeApt off v
      | _ => s.writeTst off v

/-! ### BAR2 (R381) -/

/-- Where BAR2 begins in the offsets of `BusAccess`: the offsets below are those of BAR0. -/
def bar2 : Nat := 0x1000000

/-- A read of BAR2 at offset `o`. -/
def State.readBar2 (s : State) (o : Nat) : W32 :=
  if o < 0x18 then s.reg (A.HIF_RING_HOST (o / 4))
  else if 0x80 ≤ o ∧ o < 0x100 then s.reg (A.HIF_SR_HOST ((o - 0x80) / 4))
  else if 0x2000 ≤ o ∧ o < 0x2400 then s.msixWord (o - 0x2000)
  else if o = 0x3000 ∨ o = 0x3004 then
    BitVec.ofNat 32 (((List.range 32).map (fun i => b2n (Tbl.get s.hif.msixPend false ((o - 0x3000) * 8 + i)) * 2 ^ i)).sum)
  else 0

/-- A write of BAR2 at offset `o`: doorbells, heartbeats, and the MSI-X table; a vector that is unmasked while pending is
sent. -/
def State.writeBar2 (s : State) (o : Nat) (v : W32) : State :=
  if s.held .hif then s
  else if o < 0x18 then after (execControlRingDoorbell (o / 4) v s) s
  else if 0x80 ≤ o ∧ o < 0x100 then after (execStreamRingDoorbell ((o - 0x80) / 4) v s) s
  else if 0x100 ≤ o ∧ o < 0x140 then after (execHeartbeat ((o - 0x100) / 4) s) s
  else if 0x2000 ≤ o ∧ o < 0x2400 then
    let i := o - 0x2000
    let k := i / 16
    let s := s.setMsixWord i v
    if i % 16 = 12 ∧ ¬ bit v.toNat 0 ∧ Tbl.get s.hif.msixPend false k then
      { s with hif := { s.hif with msixPend := Tbl.set s.hif.msixPend false k false } }.msix k
    else s
  else s

/-! ### The commands (R7, R8, R10, R12) -/

/-- Completer Abort (R7). -/
def State.abort (s : State) : State := { s with reply := { abort := true, data := 0 } }

/-- What an access at BAR0 or BAR2 finds: 0 a register, 1 BAR2, 2 Completer Abort, 3 the default target (R7, R8, R381). -/
def accessKind (a : BusAccess) : Nat :=
  if a.size ≠ 4 ∨ a.off % 4 ≠ 0 then 2
  else if a.off < bar2 then (if allocated a.off then 0 else 3)
  else if a.off < bar2 + 0x4000 ∧ a.master = 13 then 1
  else 2

/-- R418: whether an access is refused, since the register's domain goes idle for a reset. -/
def State.busRefused (s : State) (a : BusAccess) : Bool :=
  match regDef a.off with
  | some r => s.quiescing r.dom
  | none => false

/-- A register read by a master, with its reply. -/
def State.busRead (s : State) (a : BusAccess) : State :=
  match accessKind a with
  | 0 =>
    if s.busRefused a then (s.yardErr a.master a.queue 0 2 (0x10000000 + a.off)).abort
    else
    let r := s.readReg a.master (masterRid a.master) a.off
    { r.2 with reply := { abort := false, data := r.1 } }
  | 1 => { s with reply := { abort := false, data := s.readBar2 (a.off - bar2) } }
  | 2 => s.abort
  | _ => (s.yardErr a.master a.queue 0 0 (0x10000000 + a.off)).abort

/-- A register write by a master, with its reply. -/
def State.busWrite (s : State) (a : BusAccess) (value : W32) : State :=
  match accessKind a with
  | 0 =>
    if s.busRefused a then (s.yardErr a.master a.queue 1 2 (0x10000000 + a.off)).abort
    else { (s.writeReg (masterRid a.master) a.off value) with reply := {} }
  | 1 => { (s.writeBar2 (a.off - bar2) value) with reply := {} }
  | 2 => s.abort
  | _ => (s.yardErr a.master a.queue 1 0 (0x10000000 + a.off)).abort

/-- REGISTER_WRITE (R7 to R9, R11, R13). -/
def execRegisterWrite (acc : BusAccess) (value : W32) (s : State) : Out := .next (s.busWrite acc value)

/-- READ_CLEAR: a read of a register; its RC fields are cleared by it (R9, R10). -/
def execReadClear (acc : BusAccess) (s : State) : Out := .next (s.busRead acc)

/-- SNAPSHOT_READ: a read of a register; the lowest word of a wide value or a group snapshots the others (R12). -/
def execSnapshotRead (acc : BusAccess) (s : State) : Out := .next (s.busRead acc)

end Sys2Proof.Machine
end

