-- ==== Sys2Proof/Machine/Yard.lean ====
section
/-! DEFINITION. The Yard (R345 to R356): arbitration, targets, beats with their statuses, exclusive sequences, the alias
windows, the error log; and the end of a mover transfer, which is a Yard master's (R142). -/

namespace Sys2Proof.Machine

open Sys2Proof.Arith

/-- What a target answers to one beat: status (0 DONE, 1 BUSY, 2 REFUSED, 3 UNMAPPED), data, and the CAUSE to log. -/
structure BeatAns where
  status : Nat := 0
  data : Nat := 0
  cause : Option Nat := none
  deriving DecidableEq, Repr

/-- REFUSED, with a cause: 1 ownership, 2 other. -/
def refuse (cause : Nat) : BeatAns := { status := 2, cause := some cause }

/-- UNMAPPED. -/
def unmapped : BeatAns := { status := 3, cause := some 0 }

/-! ### Targets (R346) -/

/-- The target of an address. -/
def yardTarget (a : Nat) : Nat :=
  if a < 0xA000000 then (if a % 0x2000000 < 0x1800000 then a % 0x2000000 / 0x200000 else 19)
  else if 0x10000000 ≤ a ∧ a < 0x11000000 then 13
  else if 0x11000000 ≤ a ∧ a < 0x11001020 then 14
  else if 0x12000000 ≤ a ∧ a < 0x12200000 then 17
  else if 0x13000000 ≤ a ∧ a < 0x13020000 then 18
  else if 0x20000000 ≤ a ∧ a < 0x30000000 then 15
  else if 0x40000000 ≤ a ∧ a < 0x80000000 then 16
  else if 0x80000000 ≤ a ∧ a < 0x100000000 then 12
  else 19

/-- The Stall of an address of a Paddock or one of its aliases. -/
def stallOf (a : Nat) : Nat := a % 0x2000000 / 0x40000

/-- The domain in which a target lies; registers lie in their own. -/
def targetDom (t : Nat) : Option Dom :=
  match t with
  | 13 => none
  | 14 => some .aon
  | 16 => some .hif
  | 17 => some .eng
  | 19 => none
  | _ => some .mem

/-- Whether a target takes no transactions: its domain is held, or goes idle (R418). -/
def State.targetShut (s : State) (t : Nat) : Bool :=
  match targetDom t with
  | none => false
  | some d => s.held d || s.quiescing d

/-! ### Arbitration (R345, R349, R363) -/

/-- QoS of a transaction before aging. -/
def State.baseQos (s : State) (t : YardTx) : Nat :=
  let q := s.fget (F.YRD_MST_QOS t.master)
  if t.master = 20 then
    (if 12 ≤ yardTarget t.addr ∨ Tbl.get s.weevil.had 0 (yardTarget t.addr) < s.wvShare then 14 else 0)
  else if 6 ≤ t.master ∧ t.master ≤ 9 then min t.qos q
  else if (10 ≤ t.master ∧ t.master ≤ 13) ∨ 18 ≤ t.master then min q 14
  else q

/-- Effective QoS: 0 to 13 rise by 1 for every AGE cycles waited, up to 13; Weevil's does not. -/
def State.effQos (s : State) (t : YardTx) : Nat :=
  let q := s.baseQos t
  if 14 ≤ q ∨ t.master = 20 then q else min 13 (q + t.waited / max 1 (s.fget F.YRD_CTRL_AGE))

/-- Places after the master that the target granted last, in master order. -/
def State.turn (s : State) (t : YardTx) : Nat := (t.master + 23 - Tbl.get s.yard.last 23 (yardTarget t.addr) % 24) % 24

/-- Whether `a` goes before `b` at their target. -/
def State.goesFirst (s : State) (a b : YardTx) : Bool :=
  decide (s.effQos b < s.effQos a) || (decide (s.effQos a = s.effQos b) && decide (s.turn a < s.turn b))

/-- The exclusive sequence open on a Stall. -/
def State.exclOf (s : State) (k : Nat) : Option ExclSeq := Tbl.get s.yard.excl none k

/-- Store it. -/
def State.setExcl (s : State) (k : Nat) (e : Option ExclSeq) : State :=
  { s with yard := { s.yard with excl := Tbl.set s.yard.excl none k e } }

/-- Whether a transaction waits behind another master's exclusive sequence (R351). -/
def State.txBlocked (s : State) (t : YardTx) : Bool :=
  decide (yardTarget t.addr < 12) && decide (t.master ≠ 20) &&
    (match s.exclOf (stallOf t.addr) with
     | some e => decide (e.master ≠ t.master)
     | none => false)

/-! ### Beats -/

/-- A 64-bit word with the bytes that `strobe` enables taken from `v`. -/
def mergeBytes (old v strobe : Nat) : Nat :=
  leNat ((List.range 8).map (fun i => if bit strobe i then v / 256 ^ i % 256 else old / 256 ^ i % 256))

/-- Whether a Stall address lies in the region that Weevil tests (R362). -/
def State.underWeevil (s : State) (a : Nat) : Bool :=
  let p := a / 0x200000
  (s.wvOn || Tbl.get s.weevil.held false p) && !s.underBist p && decide (s.wvPos p = 520 * (a / 0x40000 % 8) + a % 0x40000 / 512)

/-- R356: what an alias window makes of a word. -/
def aliasWord (window old v strobe : Nat) : Nat :=
  let v0 := mergeBytes 0 v strobe
  match window with
  | 0 => mergeBytes old v strobe
  | 1 => (old + v0) % 2 ^ 64
  | 2 => mergeBytes old v strobe
  | 3 => old ||| v0
  | _ => old &&& (2 ^ 64 - 1 - v0)

/-- Whether a beat of kind `kind` at a Stall breaks OWNER (R353, R354). -/
def State.ownerRefuses (s : State) (k master kind : Nat) : Bool :=
  let o := s.fget (F.MEM_STALL_OWNER k)
  s.fon (F.MEM_STALL_PEND k) || decide (o = 31) || (decide (o ≤ 23) && decide (o ≠ master)) ||
    (decide (o = 30) && decide (kind ≠ 0) && decide (master ≠ 20))

/-- A beat at a Stall (R352, R353, R355, R356). What the stages keep in Stalls 0 to 63 is not laid out by the rules: reads
of them return free values. -/
def State.stallBeat (s : State) (t : YardTx) (a : Nat) (b : YardBeat) : BeatAns × State :=
  let w := a / 0x2000000
  let o := a % 0x2000000
  let k := o / 0x40000
  let burst := decide (t.beats.length ≠ 1)
  if (k < 64 ∧ w ≠ 0) ∨ (w = 0 ∧ t.kind = 2) ∨ ((w = 1 ∨ w = 2) ∧ burst) then (refuse 2, s)
  else if s.ownerRefuses k t.master t.kind then (refuse 1, s)
  else if t.kind = 0 ∧ k < 64 ∧ b.meets ∧ ¬ s.underWeevil o then
    let d := s.draw 64
    ({ status := 1, data := d.1 }, (d.2.fset (F.MEM_STALL_BUSY k) 1).bump (A.YRD_CONF t.master))
  else
    let reads := decide (t.kind = 0) || decide (w ≠ 0)
    if reads ∧ b.chk = .double then (refuse 2, s.stallEcc o true)
    else
      let s := if reads ∧ b.chk = .single then s.stallEcc o false else s
      let d := if k < 64 then s.draw 64 else (leNat ((List.range 8).map (fun i => (s.stallByte (o + i)).toNat)), s)
      let s := d.2
      if t.kind = 0 then ({ data := d.1 }, s)
      else ({ data := if t.kind = 2 then d.1 else 0 }, s.setStallBytes o (leBytes 8 (aliasWord w d.1 b.data.toNat b.strobe.toNat)))

/-- The registers of a beat that its byte enables pick: whole registers only (R7). -/
def beatRegs (o strobe : Nat) : Option (List (Nat × Nat)) :=
  if (strobe % 16 ≠ 0 ∧ strobe % 16 ≠ 15) ∨ (strobe / 16 ≠ 0 ∧ strobe / 16 ≠ 15) then none
  else some ((if strobe % 16 = 15 then [(o, 0)] else []) ++ (if strobe / 16 = 15 then [(o + 4, 32)] else []))

/-- A beat at the register space. -/
def State.regBeat (s : State) (t : YardTx) (a : Nat) (b : YardBeat) : BeatAns × State :=
  match beatRegs (a - 0x10000000) b.strobe.toNat with
  | none => (refuse 2, s)
  | some l =>
    if l.any (fun r => !allocated r.1) then (unmapped, s)
    else if t.kind = 2 ∨ l.any (fun r => match regDef r.1 with | some d => s.quiescing d.dom | none => false) then (refuse 2, s)
    else if t.kind = 1 then
      ({}, forEach l s (fun s r => s.writeReg t.rid r.1 (BitVec.ofNat 32 (b.data.toNat / 2 ^ r.2))))
    else
      let r := l.foldl (fun (acc : Nat × State) r =>
        let x := acc.2.readReg t.master t.rid r.1
        (acc.1 + x.1.toNat * 2 ^ r.2, x.2)) (0, s)
      ({ data := r.1 }, r.2)

/-- A beat at the Tack room and the backup registers (R428, R429). -/
def State.tackBeat (s : State) (t : YardTx) (a : Nat) (b : YardBeat) : BeatAns × State :=
  let o := a - tackBase
  if t.kind = 2 then (refuse 2, s)
  else if o < 0x1000 then
    let old := leAt s.mem a 8
    if t.kind = 0 then ({ data := old }, s) else ({}, s.writeTack o 8 (mergeBytes old b.data.toNat b.strobe.toNat))
  else
    let n := (o - 0x1000) / 4
    let old := (s.reg (A.RST_BKP n)).toNat + (s.reg (A.RST_BKP (n + 1))).toNat * 2 ^ 32
    if t.kind = 0 then ({ data := old }, s)
    else
      let v := mergeBytes old b.data.toNat b.strobe.toNat
      let put := fun (s : State) (i lanes : Nat) => if lanes = 0 then s else s.writeBackup (n + i) (BitVec.ofNat 32 (v / 2 ^ (32 * i)))
      ({}, put (put s 0 (b.strobe.toNat % 16)) 1 (b.strobe.toNat / 16))

/-- A beat at a Scarab core's local RAM (R113, R114). -/
def State.ramBeat (s : State) (t : YardTx) (a : Nat) (b : YardBeat) : BeatAns × State :=
  let old := leAt s.mem a 8
  if t.kind = 2 then (refuse 2, s)
  else if t.kind = 0 then
    (if b.chk = .double then (refuse 2, s)
     else ({ data := old }, if b.chk = .single then s.bump (A.SCB_ECC_CNT ((a - 0x12000000) / 0x10000)) else s))
  else ({}, { s with mem := setLe s.mem a 8 (mergeBytes old b.data.toNat b.strobe.toNat) })

/-- Whether a bulk address lies in the delay region of a program that has bulk delay lines: its layout is the engine's own
(R368). -/
def State.inDelayRegion (s : State) (a : Nat) : Bool :=
  let base := s.fget F.BLK_DLY_BASE_BASE * 2 ^ 26
  decide (base ≤ a) && decide (a < base + 2 ^ 29) && s.running.any (fun p => p.nodes.any (fun n => decide (n.type = T.bulkDly)))

/-- Bulk address of an address of the bulk window, by the window register of the master (R350). -/
def State.bulkAddr (s : State) (master a : Nat) : Nat := s.fget (F.YRD_MST_BWIN master) * 2 ^ 31 + (a - 0x80000000)

/-- The doubleword at bulk address `ba`: a free value in the delay region (R368). -/
def State.bulkRead (s : State) (ba : Nat) : BeatAns × State :=
  if s.inDelayRegion ba then ({ data := (s.draw 64).1 }, (s.draw 64).2) else ({ data := leAt s.bulk ba 8 }, s)

/-- A beat at the bulk window (R350, R367). -/
def State.bulkBeat (s : State) (t : YardTx) (a : Nat) (b : YardBeat) : BeatAns × State :=
  let ba := s.bulkAddr t.master a
  if t.kind = 2 ∨ ¬ s.fon F.BLK_STAT_READY ∨ s.bulkBytes < ba + 8 then (refuse 2, s)
  else if t.kind = 1 then ({}, { s with bulk := setLe s.bulk ba 8 (mergeBytes (leAt s.bulk ba 8) b.data.toNat b.strobe.toNat) })
  else if b.chk = .double then (refuse 2, s.bulkEcc ba true)
  else
    (if b.chk = .single then s.bulkEcc ba false else s).bulkRead ba

/-- Host address of an address of the host memory window (R346, R411). -/
def State.windowAddr (s : State) (a : Nat) : Nat := (s.reg A.HIF_HMW).toNat * 2 ^ 30 + (a - 0x40000000)

/-- A beat at the host memory window. -/
def State.hostBeat (s : State) (t : YardTx) (a : Nat) (b : YardBeat) : BeatAns × State :=
  let h := s.windowAddr a
  let old := leAt s.host h 8
  if t.kind = 2 then (refuse 2, s)
  else if t.kind = 0 then ({ data := old }, s)
  else ({}, { s with host := setLe s.host h 8 (mergeBytes old b.data.toNat b.strobe.toNat) })

/-- R438: a beat at the Loft. A record with an uncorrectable error is counted once, and reads with CODE FFFFh; the other bytes of
the word that the error is in are free. -/
def State.loftBeat (s : State) (t : YardTx) (a : Nat) (b : YardBeat) : BeatAns × State :=
  let rec' := a / 32 * 32
  if t.kind ≠ 0 then (refuse 2, s)
  else if b.chk = .double then
    let s := if leAt s.mem rec' 2 = 0xFFFF then s else ({ s with mem := setLe s.mem rec' 2 0xFFFF } : State).bump A.TST_LOFT_LOST
    let d := s.draw 64
    ({ data := if a = rec' then d.1 / 2 ^ 16 * 2 ^ 16 + 0xFFFF else d.1 }, d.2)
  else ({ data := leAt s.mem a 8 }, s)

/-- A beat at a memory that is read only: the flash. -/
def romBeat (t : YardTx) (bytes : List Nat) : BeatAns := if t.kind = 0 then { data := leNat bytes } else refuse 2

/-- One beat at address `a` (R346, R348). -/
def State.beat (s : State) (t : YardTx) (a : Nat) (b : YardBeat) : BeatAns × State :=
  let tg := yardTarget a
  if s.targetShut tg then (refuse 2, s)
  else if tg < 12 then s.stallBeat t a b
  else
    match tg with
    | 12 => s.bulkBeat t a b
    | 13 => s.regBeat t a b
    | 14 => s.tackBeat t a b
    | 15 => (romBeat t ((List.range 8).map (fun i => s.flashByte (a - 0x20000000 + i))), s)
    | 16 => s.hostBeat t a b
    | 17 => s.ramBeat t a b
    | 18 => s.loftBeat t a b
    | _ => (unmapped, s)

/-- The beats of a transaction from address `a` up, in order. -/
def State.beats (s : State) (t : YardTx) (a : Nat) : List YardBeat → List BeatAns × State
  | [] => ([], s)
  | b :: rest =>
    let r := s.beat t a b
    let l := r.2.beats t (a + 8) rest
    (r.1 :: l.1, l.2)

/-! ### Transactions (R347, R348, R351) -/

/-- Whether a burst crosses a 4 KiB boundary, or an atomic has more than one beat. -/
def txIllFormed (t : YardTx) : Bool :=
  decide (t.addr / 4096 ≠ (t.addr + 8 * t.beats.length - 1) / 4096) || (decide (t.kind = 2) && decide (t.beats.length ≠ 1))

/-- The first access of a transaction that is logged, and its cause. -/
def firstCause (a : Nat) : List BeatAns → Option (Nat × Nat)
  | [] => none
  | x :: rest =>
    match x.cause with
    | some c => some (a, c)
    | none => firstCause (a + 8) rest

/-- The log of a transaction's answers. -/
def State.logTx (s : State) (t : YardTx) (l : List BeatAns) : State :=
  match firstCause t.addr l with
  | none => s
  | some (a, c) => s.yardErr t.master t.queue t.kind c a

/-- The Stall on which a master has an exclusive sequence open. -/
def State.ownSequence (s : State) (master : Nat) : Option Nat :=
  (s.yard.excl.find? (fun e => match e.2 with | some x => decide (x.master = master) | none => false)).map (·.1)

/-- A transaction of `n` beats on Stall `k` was answered: its master's sequence goes on, begins or ends (R351). -/
def State.stepExcl (s : State) (t : YardTx) (k : Nat) (refused : Bool) : State :=
  let close := fun (e : ExclSeq) => if t.exclEnd ∨ 4 ≤ e.txs ∨ 64 ≤ e.beats then none else some e
  match s.exclOf k with
  | some e =>
    if e.master = t.master then
      s.setExcl k (close { master := e.master, txs := e.txs + 1, beats := e.beats + t.beats.length })
    else s
  | none =>
    if t.excl ∧ ¬ refused then s.setExcl k (close { master := t.master, txs := 1, beats := t.beats.length }) else s

/-- A granted transaction: its answers. -/
def State.serveTx (s : State) (t : YardTx) : List BeatAns × State :=
  let no := t.beats.map (fun _ => refuse 2)
  let stall := yardTarget t.addr < 12
  let k := stallOf t.addr
  let own := s.ownSequence t.master
  if txIllFormed t then (no, s.logTx t no)
  else if stall ∧ own.isSome ∧ own ≠ some k ∧ (t.excl ∨ t.exclEnd) then (no, (s.setExcl (own.getD 0) none).logTx t no)
  else if stall ∧ own = some k ∧ s.fon (F.MEM_STALL_PEND k) then
    let no := t.beats.map (fun _ => refuse 1)
    (no, (s.setExcl k none).logTx t no)
  else
    let r := s.beats t t.addr t.beats
    let s := r.2.logTx t r.1
    (r.1, if stall then s.stepExcl t k (r.1.all (fun x => decide (2 ≤ x.status))) else s)

/-- Whether a transaction is one at all (R345, R348), from a master whose domain runs and is not going idle (R418). -/
def State.txIssues (s : State) (t : YardTx) : Bool :=
  decide (t.master < 24) && decide (t.kind ≤ 2) && decide (1 ≤ t.beats.length) && decide (t.beats.length ≤ 16) &&
    decide (t.addr % 8 = 0) && decide (t.addr < 2 ^ 32) &&
    (if 6 ≤ t.master ∧ t.master ≤ 9 then decide (t.rid < 32) && decide (t.rid / 8 = t.master - 6)
     else decide (t.rid = masterRid t.master)) &&
    (match ridDomain t.rid with
     | some d => s.up d && !s.quiescing d
     | none => false)

/-- The transaction that is granted next: the lowest target first, at a target by R349. -/
def State.pickTx (s : State) (l : List YardTx) : Option YardTx :=
  let open_ := l.filter (fun t => !s.txBlocked t)
  let tg := (open_.map (fun t => yardTarget t.addr)).foldl min 19
  match open_.filter (fun t => decide (yardTarget t.addr = tg)) with
  | [] => none
  | t :: rest => some (rest.foldl (fun b x => if s.goesFirst x b then x else b) t)

/-- A grant is noted: the target's turn, and the cycles that Weevil had (R349, R363). -/
def State.noteGrant (s : State) (t : YardTx) : State :=
  let tg := yardTarget t.addr
  let s := { s with yard := { s.yard with last := Tbl.set s.yard.last 23 tg t.master } }
  if t.master = 20 ∧ tg < 12 then
    { s with weevil := { s.weevil with had := Tbl.set s.weevil.had 0 tg (Tbl.get s.weevil.had 0 tg + t.beats.length) } }
  else s

/-- R348: what the requester sees of the answers: the data of a read beat that was not performed are free. -/
def State.seenAnswers (s : State) (kind : Nat) (l : List BeatAns) : List (Nat × Nat) × State :=
  let d := s.undefinedData kind l.length
  ((l.zipIdx).map (fun x => (x.1.status, if 2 ≤ x.1.status then d.1.getD x.2 0 else x.1.data)), d.2)

/-- Grant transactions while one can be granted, at most `fuel` of them: answers in order, those left waiting, the state. -/
def State.grantAll : Nat → State → List YardTx → List YardAnswer × List YardTx × State
  | 0, s, l => ([], l, s)
  | fuel + 1, s, l =>
    match s.pickTx l with
    | none => ([], l, s)
    | some t =>
      let r := (s.noteGrant t).serveTx t
      let a := r.2.seenAnswers t.kind r.1
      let rest := State.grantAll fuel a.2 (l.erase t)
      ({ master := t.master, addr := t.addr, beats := a.1 : YardAnswer } :: rest.1, rest.2)

/-- YARD_TRANSACTION (R345 to R356): transactions are presented beside those that wait; each target grants and answers them,
and those behind another master's exclusive sequence wait. -/
def execYardTransaction (txs : List YardTx) (s : State) : Out :=
  .next (if s.held .mem then s
    else
      let l := s.yard.waiting ++ txs.filter s.txIssues
      let r := State.grantAll l.length s l
      { r.2.2 with yard := { r.2.2.yard with waiting := r.2.1, answers := r.1 } })

/-! ### The end of a mover transfer (R142, R149) -/

/-- Doubleword `i` of a transfer as a transaction. -/
def MoverJob.tx (j : MoverJob) (n i : Nat) (data : Nat) : YardTx :=
  { master := 6 + n / 8, rid := n, queue := 0, kind := if j.toYard then 1 else 0, addr := j.rem / 8 * 8 + 8 * i,
    beats := [{ data := BitVec.ofNat 64 data, strobe := 255, chk := .clean, meets := false }], excl := false, exclEnd := false,
    qos := j.qos, waited := 0 }

/-- The local word address of doubleword `i`. -/
def MoverJob.local' (j : MoverJob) (i : Nat) : Nat := j.loc / 2 * 2 + 2 * i

/-- Copy doublewords from `i` on, `m` of them: whether every one was answered, and the state. -/
def State.moveFrom (s : State) (n : Nat) (j : MoverJob) (i : Nat) : Nat → Bool × State
  | 0 => (true, s)
  | m + 1 =>
    let w := j.local' i
    let data := (s.storedWord n w).toNat + (s.storedWord n (w + 1)).toNat * 2 ^ 32
    let r := s.serveTx (j.tx n i data)
    match r.1 with
    | [x] =>
      if 2 ≤ x.status then (false, r.2)
      else
        let s := if j.toYard then r.2
          else (r.2.setLocal n w (BitVec.ofNat 32 x.data)).setLocal n (w + 1) (BitVec.ofNat 32 (x.data / 2 ^ 32))
        s.moveFrom n j (i + 1) m
    | _ => (false, r.2)

/-- MOVER_DONE (R142): a transfer ends; an error in its local reads is the task's (R114, R148). -/
def execMoverDone (core : Nat) (e : MoveEnd) (s : State) : Out :=
  .next (match (s.core core).mover with
    | none => s
    | some j =>
      let waits := (List.range (min j.len e.done)).any (fun i => s.txBlocked (j.tx core i 0))
      if s.held .eng ∨ 32 ≤ core ∨ waits then s
      else
        let fits := j.base ≤ j.loc ∧ j.loc / 2 * 2 + 2 * j.len ≤ j.base + j.size
        let r := if fits then s.moveFrom core j 0 (min j.len e.done) else (false, s)
        let ok : Bool := r.1 && decide (j.len ≤ e.done)
        let s := r.2
        let c := { s.core core with mover := none }
        let c := if ok then c else { c.setErr 1 with mvErr := true }
        let s := s.setCore core c
        if j.toYard ∧ e.chk = .double then s.taskFault core 4
        else
          let s := if j.toYard ∧ e.chk = .single then s.bump (A.SCB_ECC_CNT core) else s
          (s.waitTo core e.cycle).resume core)

end Sys2Proof.Machine
end

