-- ==== Sys2Proof/Machine/Mgmt.lean ====
section
/-! DEFINITION. Link management: the MGMT operations, their authentication and their answers (R268, R283 to R285). -/

namespace Sys2Proof.Machine

open Sys2Proof.Arith

/-! ### The fields of an operation (R268) -/

/-- A little-endian field of a payload. -/
def Sect.field (x : Sect) (o n : Nat) : Nat := leNat ((x.payload.drop o).take n)

/-- OP. -/
def Sect.op (x : Sect) : Nat := x.field 0 1

/-- ARG i. -/
def Sect.arg (x : Sect) (i : Nat) : Nat := x.field (0x10 + 4 * i) 4

/-- NONCE. -/
def Sect.nonce (x : Sect) : Nat := x.field 8 8

/-- The oldest MGMT section of operation `op` that was taken. -/
def State.takeMgmt (s : State) (op : Nat) : Option (Taken × State) :=
  s.takeFirst (fun t => decide (t.sect.type = 7) && decide (t.sect.op = op))

/-! ### Authentication (R284) -/

/-- The 32 bytes of the key. -/
def State.mgmtKey (s : State) : List Nat := (List.range 8).flatMap (fun i => leBytes 4 (s.reg (A.LNK_KEY i)).toNat)

/-- The MAC that a section should carry. -/
def State.mac (s : State) (x : Sect) : List Nat := (Sha.hmac s.mgmtKey ({ x with hops := 0 : Sect }.bytes.take 44)).take 16

/-- Whether the MAC is right; a key of zeros fails every operation. -/
def State.macOk (s : State) (x : Sect) : Bool :=
  s.mgmtKey.any (fun b => decide (b ≠ 0)) && decide ((x.payload.drop 0x20).take 16 = s.mac x)

/-- Time-of-day seconds, bits 31 to 0. -/
def State.todSeconds (s : State) : Nat := s.mainTime / secUnits % 2 ^ 32

/-- The nonces that were accepted in the last 4 s. -/
def State.recentNonces (s : State) : List (Nat × Nat) := s.link.nonces.filter (fun n => decide (s.now < n.2 + 4096))

/-- R284: the first check that an authenticated operation fails, as a STATUS, or 0; `enabled` tells its enable. -/
def State.authStatus (s : State) (x : Sect) (enabled : Bool) : Nat :=
  if ¬ s.macOk x then 1
  else if ¬ s.mainSet ∨ 2 < (sdiff s.todSeconds (x.field 4 4)).natAbs then 2
  else if s.recentNonces.any (fun n => decide (n.1 = x.nonce)) then 3
  else if ¬ enabled then 4
  else if 256 ≤ s.recentNonces.length then 6
  else 0

/-- An accepted nonce is kept. -/
def State.keepNonce (s : State) (n : Nat) : State :=
  { s with link := { s.link with nonces := s.recentNonces ++ [(n, s.now)] } }

/-- A failed MAC is counted and recorded. -/
def State.authFailed (s : State) (t : Taken) : State :=
  (s.bump A.LNK_AUTH_FAIL).record 0x502 t.port [t.sect.origin, t.sect.op]

/-! ### Answers (R283) -/

/-- A RESPONSE to a request, sent on the port by which it came; NONCE is the sender's choice, a free value; where the
request was authenticated, so is the answer. -/
def State.respond (s : State) (t : Taken) (auth : Bool) (status arg : Nat) : State :=
  let r := t.sect
  let n := s.draw 64
  let s := n.2
  let head := leBytes 1 0x80 ++ leBytes 1 status ++ leBytes 2 (r.field 2 2) ++ leBytes 4 s.todSeconds ++ leBytes 8 n.1 ++
    leBytes 4 arg ++ List.replicate 12 0
  let x : Sect := { type := 7, dmode := 1, origin := s.ownAddr, dest := r.origin, seq := s.link.mgmtSeq, hops := 127, stream := 0,
                    payload := head ++ List.replicate 16 0 }
  let x : Sect := if auth then { x with payload := head ++ s.mac x } else x
  let s := { s with link := { s.link with mgmtSeq := (s.link.mgmtSeq + 1) % 65536 } }
  s.setLinkPort t.port { (s.linkPort t.port) with own := (s.linkPort t.port).own ++ [x] }

/-- An operation that answers: the checks where it is authenticated, then `act` with its STATUS, ARG0 and state. -/
def State.mgmtRun (s : State) (t : Taken) (auth enabled : Bool) (act : State → Nat × Nat × State) : State :=
  let st := if auth then s.authStatus t.sect enabled else 0
  if st ≠ 0 then (if st = 1 then s.authFailed t else s).respond t auth st 0
  else
    let r := act (if auth then s.keepNonce t.sect.nonce else s)
    r.2.2.respond t auth r.1 r.2.1

/-- The link's Yard master at BAR0 (R283, R345). -/
def mgmtAccess (off : Nat) : BusAccess := { master := 18, queue := 0, off := off, size := 4 }

/-! ### The commands -/

/-- MGMT_ASSIGN (R255, R283): an unassigned device takes its address. -/
def execMgmtAssign (s : State) : Out :=
  .next (if s.held .lnk then s
    else
      match s.takeMgmt 1 with
      | none => s
      | some (t, s') =>
        let uid := t.sect.arg 0 + t.sect.arg 1 * 2 ^ 32
        if s.assigned ∨ ¬ s.fon F.LNK_MGMT_ASSIGN_EN ∨ uid ≠ Config.uid.toNat then s' else s'.setAddr (t.sect.arg 2 % 2 ^ 14))

/-- MGMT_READ (R283, R284). -/
def execMgmtRead (s : State) : Out :=
  .next (if s.held .lnk then s
    else
      match s.takeMgmt 2 with
      | none => s
      | some (t, s') =>
        s'.mgmtRun t (s.fon F.LNK_MGMT_AUTH_READ) true (fun s =>
          let u := s.busRead (mgmtAccess (t.sect.arg 0))
          (if u.reply.abort then 5 else 0, u.reply.data.toNat, { u with reply := s.reply })))

/-- MGMT_WRITE (R283, R284). -/
def execMgmtWrite (s : State) : Out :=
  .next (if s.held .lnk then s
    else
      match s.takeMgmt 3 with
      | none => s
      | some (t, s') =>
        s'.mgmtRun t true true (fun s =>
          let u := s.busWrite (mgmtAccess (t.sect.arg 0)) (BitVec.ofNat 32 (t.sect.arg 1))
          (if u.reply.abort then 5 else 0, 0, { u with reply := s.reply })))

/-- MGMT_RESET (R283 to R285): LINKCMD reaches CTL, ENG and APT. -/
def execMgmtReset (s : State) : Out :=
  .next (if s.held .lnk then s
    else
      match s.takeMgmt 4 with
      | none => s
      | some (t, s') => s'.mgmtRun t true (s.fon F.LNK_MGMT_RESET_EN) (fun s => (0, 0, s.askReset 9 0xC8)))

/-- MGMT_HOSTMSG (R283, R396): four words for the host's event ring. -/
def execMgmtHostmsg (s : State) : Out :=
  .next (if s.held .lnk then s
    else
      match s.takeMgmt 5 with
      | none => s
      | some (t, s') => s'.fwEvent 6 (t.sect.origin :: (List.range 4).map t.sect.arg))

/-- MGMT_RESPONSE (R283): an answer to a request of this device is kept for whoever sent it. -/
def execMgmtResponse (s : State) : Out :=
  .next (if s.held .lnk then s
    else
      match s.takeMgmt 0x80 with
      | none => s
      | some (t, s') => { s' with link := { s'.link with answers := s'.link.answers ++ [t.sect] } })

end Sys2Proof.Machine
end

