-- ==== Sys2Proof/Machine/ScarabAlu.lean ====
section
/-! DEFINITION. Scarab arithmetic and logic, opcodes 00h to 1Bh (R124). -/

namespace Sys2Proof.Machine

open Sys2Proof.Arith

/-- Narrow to a data register, and tell whether sat32 changed the value. -/
def narrow (v : Int) : W32 × Bool := (toW (sat32 v), decide (sat32 v ≠ v))

/-- R6: RSR's rounding right shift with saturation. -/
def rsr (s : W32) (n : Nat) : W32 × Bool := narrow (rnd s.toInt n)

/-- NOP, opcode 00h (R124). R124 asks no register field of it to be zero. Another opcode is one that R124 does not list:
ILLEGAL (R125). -/
def execNop (core : Nat) (w : OpWord) (s : State) : Out :=
  .next (s.issueReg core (w.op = 0 && w.f.z = 0) (fun c => c))

/-- ADD, opcode 01h (R124). -/
def execAdd (core : Nat) (f : RFmt) (s : State) : Out :=
  .next (s.issueR core f true 1 (fun a b => (a + b, false)))

/-- SUB, opcode 02h (R124). -/
def execSub (core : Nat) (f : RFmt) (s : State) : Out :=
  .next (s.issueR core f true 1 (fun a b => (a - b, false)))

/-- ADDS, opcode 03h (R124). -/
def execAdds (core : Nat) (f : RFmt) (s : State) : Out :=
  .next (s.issueR core f true 1 (fun a b => narrow (a.toInt + b.toInt)))

/-- SUBS, opcode 04h (R124). -/
def execSubs (core : Nat) (f : RFmt) (s : State) : Out :=
  .next (s.issueR core f true 1 (fun a b => narrow (a.toInt - b.toInt)))

/-- AND, opcode 05h (R124). -/
def execAnd (core : Nat) (f : RFmt) (s : State) : Out :=
  .next (s.issueR core f true 1 (fun a b => (a &&& b, false)))

/-- OR, opcode 06h (R124). -/
def execOr (core : Nat) (f : RFmt) (s : State) : Out :=
  .next (s.issueR core f true 1 (fun a b => (a ||| b, false)))

/-- XOR, opcode 07h (R124). -/
def execXor (core : Nat) (f : RFmt) (s : State) : Out :=
  .next (s.issueR core f true 1 (fun a b => (a ^^^ b, false)))

/-- SHL, opcode 08h (R124): by t[4:0]. -/
def execShl (core : Nat) (f : RFmt) (s : State) : Out :=
  .next (s.issueR core f true 1 (fun a b => (a <<< (b.toNat % 32), false)))

/-- SHR, opcode 09h (R124). -/
def execShr (core : Nat) (f : RFmt) (s : State) : Out :=
  .next (s.issueR core f true 1 (fun a b => (a >>> (b.toNat % 32), false)))

/-- SRA, opcode 0Ah (R124). -/
def execSra (core : Nat) (f : RFmt) (s : State) : Out :=
  .next (s.issueR core f true 1 (fun a b => (a.sshiftRight (b.toNat % 32), false)))

/-- RSR, opcode 0Bh (R124). -/
def execRsr (core : Nat) (f : RFmt) (s : State) : Out :=
  .next (s.issueR core f true 1 (fun a b => rsr a (b.toNat % 32)))

/-- MIN, opcode 0Ch (R124), signed. -/
def execMin (core : Nat) (f : RFmt) (s : State) : Out :=
  .next (s.issueR core f true 1 (fun a b => (if a.toInt ≤ b.toInt then a else b, false)))

/-- MAX, opcode 0Dh (R124), signed. -/
def execMax (core : Nat) (f : RFmt) (s : State) : Out :=
  .next (s.issueR core f true 1 (fun a b => (if a.toInt ≤ b.toInt then b else a, false)))

/-- ABS, opcode 0Eh (R124, R68). R124 does not ask T to be 0. -/
def execAbs (core : Nat) (f : RFmt) (s : State) : Out :=
  .next (s.issueR core f true 1 (fun a _ => narrow (if a.toInt < 0 then -a.toInt else a.toInt)))

/-- NEG, opcode 0Fh (R124). -/
def execNeg (core : Nat) (f : RFmt) (s : State) : Out :=
  .next (s.issueR core f true 1 (fun a _ => narrow (-a.toInt)))

/-- SLT, opcode 10h (R124), signed. -/
def execSlt (core : Nat) (f : RFmt) (s : State) : Out :=
  .next (s.issueR core f true 1 (fun a b => (if a.toInt < b.toInt then 1 else 0, false)))

/-- SEQ, opcode 11h (R124). -/
def execSeq (core : Nat) (f : RFmt) (s : State) : Out :=
  .next (s.issueR core f true 1 (fun a b => (if a = b then 1 else 0, false)))

/-- ADDI, opcode 12h (R124). -/
def execAddi (core : Nat) (f : IFmt) (s : State) : Out :=
  .next (s.issueI core f true (fun a => (a + f.imm.signExtend 32, false)))

/-- ANDI, opcode 13h (R124). -/
def execAndi (core : Nat) (f : IFmt) (s : State) : Out :=
  .next (s.issueI core f true (fun a => (a &&& f.imm.setWidth 32, false)))

/-- ORI, opcode 14h (R124). -/
def execOri (core : Nat) (f : IFmt) (s : State) : Out :=
  .next (s.issueI core f true (fun a => (a ||| f.imm.setWidth 32, false)))

/-- LUI, opcode 15h (R124): S must be 0. -/
def execLui (core : Nat) (f : IFmt) (s : State) : Out :=
  .next (s.issueI core f (f.s = 0) (fun _ => (f.imm.setWidth 32 <<< 16, false)))

/-- R124 SHI: IMM[6:5] selects SHL, SHR, SRA or RSR. -/
def shiftBy (kind : Nat) (a : W32) (n : Nat) : W32 × Bool :=
  match kind with
  | 0 => (a <<< n, false)
  | 1 => (a >>> n, false)
  | 2 => (a.sshiftRight n, false)
  | _ => rsr a n

/-- SHI, opcode 16h (R124): IMM[15:7] must be zero. -/
def execShi (core : Nat) (f : IFmt) (s : State) : Out :=
  .next (s.issueI core f (decide (f.imm.toNat < 128))
    (fun a => shiftBy (f.imm.toNat / 32 % 4) a (f.imm.toNat % 32)))

/-- MULC, opcode 18h (R124): gain(s, t). -/
def execMulc (core : Nat) (f : RFmt) (s : State) : Out :=
  .next (s.issueR core f true 3 (fun a b => narrow (rnd (a.toInt * b.toInt) 28)))

/-- MULA, opcode 19h (R124). -/
def execMula (core : Nat) (f : RFmt) (s : State) : Out :=
  .next (s.issueR core f true 3 (fun a b => narrow (rnd (a.toInt * b.toInt) 31)))

/-- LVL, opcode 1Ah (R124, R81): T must be 0. -/
def execLvl (core : Nat) (f : RFmt) (s : State) : Out :=
  .next (s.issueR core f (f.t = 0) 3 (fun a _ => (toW (log2lv (mag a.toInt)), false)))

/-- EXPC, opcode 1Bh (R124, R82): T must be 0. -/
def execExpc (core : Nat) (f : RFmt) (s : State) : Out :=
  .next (s.issueR core f (f.t = 0) 3 (fun a _ => (toW (exp2c a.toInt), false)))

end Sys2Proof.Machine
end

