-- ==== Sys2Proof/Machine/Dispatch.lean ====
section
/-! DEFINITION. The effect of every command: one arm for each row of spec/opcode_table.json. -/

namespace Sys2Proof.Machine

/-- The effect of command `i` on everything but the queue. -/
def exec (i : Instr) (s : State) : Host.Outcome State Fault Refusal :=
  match i with
  | .tick inp => Sys2Proof.Machine.execTick inp s
  | .stageOverrun stage unwritten => Sys2Proof.Machine.execStageOverrun stage unwritten s
  | .taskDispatch start => Sys2Proof.Machine.execTaskDispatch start s
  | .taskOverrun core => Sys2Proof.Machine.execTaskOverrun core s
  | .nop core w => Sys2Proof.Machine.execNop core w s
  | .add core f => Sys2Proof.Machine.execAdd core f s
  | .sub core f => Sys2Proof.Machine.execSub core f s
  | .adds core f => Sys2Proof.Machine.execAdds core f s
  | .subs core f => Sys2Proof.Machine.execSubs core f s
  | .and core f => Sys2Proof.Machine.execAnd core f s
  | .or core f => Sys2Proof.Machine.execOr core f s
  | .xor core f => Sys2Proof.Machine.execXor core f s
  | .shl core f => Sys2Proof.Machine.execShl core f s
  | .shr core f => Sys2Proof.Machine.execShr core f s
  | .sra core f => Sys2Proof.Machine.execSra core f s
  | .rsr core f => Sys2Proof.Machine.execRsr core f s
  | .min core f => Sys2Proof.Machine.execMin core f s
  | .max core f => Sys2Proof.Machine.execMax core f s
  | .abs core f => Sys2Proof.Machine.execAbs core f s
  | .neg core f => Sys2Proof.Machine.execNeg core f s
  | .slt core f => Sys2Proof.Machine.execSlt core f s
  | .seq core f => Sys2Proof.Machine.execSeq core f s
  | .addi core f => Sys2Proof.Machine.execAddi core f s
  | .andi core f => Sys2Proof.Machine.execAndi core f s
  | .ori core f => Sys2Proof.Machine.execOri core f s
  | .lui core f => Sys2Proof.Machine.execLui core f s
  | .shi core f => Sys2Proof.Machine.execShi core f s
  | .mulc core f => Sys2Proof.Machine.execMulc core f s
  | .mula core f => Sys2Proof.Machine.execMula core f s
  | .lvl core f => Sys2Proof.Machine.execLvl core f s
  | .expc core f => Sys2Proof.Machine.execExpc core f s
  | .mac core f => Sys2Proof.Machine.execMac core f s
  | .msu core f => Sys2Proof.Machine.execMsu core f s
  | .maca core f => Sys2Proof.Machine.execMaca core f s
  | .msua core f => Sys2Proof.Machine.execMsua core f s
  | .mac2 core f => Sys2Proof.Machine.execMac2 core f s
  | .fmac core f chk => Sys2Proof.Machine.execFmac core f chk s
  | .accadd core f => Sys2Proof.Machine.execAccadd core f s
  | .ldacc core f => Sys2Proof.Machine.execLdacc core f s
  | .rnda core f => Sys2Proof.Machine.execRnda core f s
  | .clra core f => Sys2Proof.Machine.execClra core f s
  | .hwRepeat core f => Sys2Proof.Machine.execHwRepeat core f s
  | .tend core f => Sys2Proof.Machine.execTend core f s
  | .csrr core f => Sys2Proof.Machine.execCsrr core f s
  | .csrw core f => Sys2Proof.Machine.execCsrw core f s
  | .mbpost core f => Sys2Proof.Machine.execMbpost core f s
  | .fft core f => Sys2Proof.Machine.execFft core f s
  | .ld core f chk => Sys2Proof.Machine.execLd core f chk s
  | .st core f => Sys2Proof.Machine.execSt core f s
  | .ld2 core f chk => Sys2Proof.Machine.execLd2 core f chk s
  | .st2 core f => Sys2Proof.Machine.execSt2 core f s
  | .fwait core f => Sys2Proof.Machine.execFwait core f s
  | .mv core f => Sys2Proof.Machine.execMv core f s
  | .lia core f => Sys2Proof.Machine.execLia core f s
  | .adda core f => Sys2Proof.Machine.execAdda core f s
  | .br core f => Sys2Proof.Machine.execBr core f s
  | .call core f => Sys2Proof.Machine.execCall core f s
  | .jr core f => Sys2Proof.Machine.execJr core f s
  | .reti core f => Sys2Proof.Machine.execReti core f s
  | .mbpop core f => Sys2Proof.Machine.execMbpop core f s
  | .mvGo core f => Sys2Proof.Machine.execMvGo core f s
  | .moverDone core e => Sys2Proof.Machine.execMoverDone core e s
  | .lkReq core f => Sys2Proof.Machine.execLkReq core f s
  | .lkRel core f => Sys2Proof.Machine.execLkRel core f s
  | .fftJobStart unit => Sys2Proof.Machine.execFftJobStart unit s
  | .fftJobDone unit e => Sys2Proof.Machine.execFftJobDone unit e s
  | .mboxInterrupt point => Sys2Proof.Machine.execMboxInterrupt point s
  | .errInterrupt point => Sys2Proof.Machine.execErrInterrupt point s
  | .mbinEnqueue core value => Sys2Proof.Machine.execMbinEnqueue core value s
  | .mboutPop core value => Sys2Proof.Machine.execMboutPop core value s
  | .load cmd slot addrLo addrHi len readOk => Sys2Proof.Machine.execLoad cmd slot addrLo addrHi len readOk s
  | .loadDone => Sys2Proof.Machine.execLoadDone s
  | .unload cmd slot => Sys2Proof.Machine.execUnload cmd slot s
  | .activate cmd slot target => Sys2Proof.Machine.execActivate cmd slot target s
  | .activateXf cmd slot target len => Sys2Proof.Machine.execActivateXf cmd slot target len s
  | .stopSlot cmd slot target => Sys2Proof.Machine.execStopSlot cmd slot target s
  | .activationTakesEffect => Sys2Proof.Machine.execActivationTakesEffect s
  | .stopTakesEffect => Sys2Proof.Machine.execStopTakesEffect s
  | .stopComplete => Sys2Proof.Machine.execStopComplete s
  | .xfWarmupStart => Sys2Proof.Machine.execXfWarmupStart s
  | .xfFadeStart => Sys2Proof.Machine.execXfFadeStart s
  | .xfRetire => Sys2Proof.Machine.execXfRetire s
  | .commit cmd slot group target fence => Sys2Proof.Machine.execCommit cmd slot group target fence s
  | .commitArrival => Sys2Proof.Machine.execCommitArrival s
  | .commitLand slot group => Sys2Proof.Machine.execCommitLand slot group s
  | .zcTimeout slot pset word => Sys2Proof.Machine.execZcTimeout slot pset word s
  | .gainRampEnd slot pset word => Sys2Proof.Machine.execGainRampEnd slot pset word s
  | .fadeComplete id => Sys2Proof.Machine.execFadeComplete id s
  | .taskRestart cmd slot task target => Sys2Proof.Machine.execTaskRestart cmd slot task target s
  | .taskRestartLand slot task => Sys2Proof.Machine.execTaskRestartLand slot task s
  | .parameterWrite e => Sys2Proof.Machine.execParameterWrite e s
  | .pwIndirectFetch readOk => Sys2Proof.Machine.execPwIndirectFetch readOk s
  | .progBaseWrite value => Sys2Proof.Machine.execProgBaseWrite value s
  | .voiceEnded slot node => Sys2Proof.Machine.execVoiceEnded slot node s
  | .recorderFull slot node => Sys2Proof.Machine.execRecorderFull slot node s
  | .silenceHoldExpiry slot node => Sys2Proof.Machine.execSilenceHoldExpiry slot node s
  | .prioHoldExpiry slot node input => Sys2Proof.Machine.execPrioHoldExpiry slot node input s
  | .estimatorPeriodEnd zone ref => Sys2Proof.Machine.execEstimatorPeriodEnd zone ref s
  | .noiseDelivery zone late => Sys2Proof.Machine.execNoiseDelivery zone late s
  | .adaptiveStep zone => Sys2Proof.Machine.execAdaptiveStep zone s
  | .adaptiveWrite w => Sys2Proof.Machine.execAdaptiveWrite w s
  | .adaptiveWriteApply zone => Sys2Proof.Machine.execAdaptiveWriteApply zone s
  | .anaLock value => Sys2Proof.Machine.execAnaLock value s
  | .adaptEnWrite value => Sys2Proof.Machine.execAdaptEnWrite value s
  | .howlAnalysis slot task chan h => Sys2Proof.Machine.execHowlAnalysis slot task chan h s
  | .portRun port => Sys2Proof.Machine.execPortRun port s
  | .portStop port => Sys2Proof.Machine.execPortStop port s
  | .portRunning port => Sys2Proof.Machine.execPortRunning port s
  | .portStopped port => Sys2Proof.Machine.execPortStopped port s
  | .maskCommit port => Sys2Proof.Machine.execMaskCommit port s
  | .maskLatch port => Sys2Proof.Machine.execMaskLatch port s
  | .portFrameReceived port words => Sys2Proof.Machine.execPortFrameReceived port words s
  | .portFrameTransmit port => Sys2Proof.Machine.execPortFrameTransmit port s
  | .portRefill port => Sys2Proof.Machine.execPortRefill port s
  | .slotZcTimeout port tx slot => Sys2Proof.Machine.execSlotZcTimeout port tx slot s
  | .portClockLost port => Sys2Proof.Machine.execPortClockLost port s
  | .asrcLock port ratio => Sys2Proof.Machine.execAsrcLock port ratio s
  | .portCfgWrite port fofs value => Sys2Proof.Machine.execPortCfgWrite port fofs value s
  | .pdmMaskWrite value => Sys2Proof.Machine.execPdmMaskWrite value s
  | .pdmCtrlWrite value => Sys2Proof.Machine.execPdmCtrlWrite value s
  | .pdmSettleEnd mic => Sys2Proof.Machine.execPdmSettleEnd mic s
  | .laneSignalChange lane sig cdr => Sys2Proof.Machine.execLaneSignalChange lane sig cdr s
  | .blockReceived lane hdr payload => Sys2Proof.Machine.execBlockReceived lane hdr payload s
  | .adaptDone lane => Sys2Proof.Machine.execAdaptDone lane s
  | .bringupFail lane => Sys2Proof.Machine.execBringupFail lane s
  | .laneRestart lane => Sys2Proof.Machine.execLaneRestart lane s
  | .laneCtrlWrite lane value => Sys2Proof.Machine.execLaneCtrlWrite lane value s
  | .txeqWrite lane value => Sys2Proof.Machine.execTxeqWrite lane value s
  | .rxeqWrite lane value => Sys2Proof.Machine.execRxeqWrite lane value s
  | .prbsTestWrite lane value => Sys2Proof.Machine.execPrbsTestWrite lane value s
  | .portModeWrite port value => Sys2Proof.Machine.execPortModeWrite port value s
  | .ethFrameReceived lane bytes at_ => Sys2Proof.Machine.execEthFrameReceived lane bytes at_ s
  | .rtpRefill stream => Sys2Proof.Machine.execRtpRefill stream s
  | .rtpPacketLaunch stream => Sys2Proof.Machine.execRtpPacketLaunch stream s
  | .rtpRxEntryWrite stream word value => Sys2Proof.Machine.execRtpRxEntryWrite stream word value s
  | .rtpTxEntryWrite stream word value => Sys2Proof.Machine.execRtpTxEntryWrite stream word value s
  | .thetexFrameSend port => Sys2Proof.Machine.execThetexFrameSend port s
  | .relayFrameLaunch port => Sys2Proof.Machine.execRelayFrameLaunch port s
  | .relayFrameTimeout port => Sys2Proof.Machine.execRelayFrameTimeout port s
  | .thetexFrameReceived lane bytes cycle at_ => Sys2Proof.Machine.execThetexFrameReceived lane bytes cycle at_ s
  | .sectionReceived lane bytes errored => Sys2Proof.Machine.execSectionReceived lane bytes errored s
  | .secondCopyTimeout port => Sys2Proof.Machine.execSecondCopyTimeout port s
  | .linkLost lane => Sys2Proof.Machine.execLinkLost lane s
  | .laneStreamRefill port stream => Sys2Proof.Machine.execLaneStreamRefill port stream s
  | .bulkSectionSend port => Sys2Proof.Machine.execBulkSectionSend port s
  | .mgmtAssign => Sys2Proof.Machine.execMgmtAssign s
  | .mgmtRead => Sys2Proof.Machine.execMgmtRead s
  | .mgmtWrite => Sys2Proof.Machine.execMgmtWrite s
  | .mgmtReset => Sys2Proof.Machine.execMgmtReset s
  | .mgmtHostmsg => Sys2Proof.Machine.execMgmtHostmsg s
  | .mgmtResponse => Sys2Proof.Machine.execMgmtResponse s
  | .addrWrite value => Sys2Proof.Machine.execAddrWrite value s
  | .spanEnWrite j value => Sys2Proof.Machine.execSpanEnWrite j value s
  | .portmapWrite value => Sys2Proof.Machine.execPortmapWrite value s
  | .laneStreamEntryWrite tx port stream word value => Sys2Proof.Machine.execLaneStreamEntryWrite tx port stream word value s
  | .frequencyReading readings => Sys2Proof.Machine.execFrequencyReading readings s
  | .inputPresenceChange input present mult => Sys2Proof.Machine.execInputPresenceChange input present mult s
  | .phaseComparison input err => Sys2Proof.Machine.execPhaseComparison input err s
  | .clkModeWrite value => Sys2Proof.Machine.execClkModeWrite value s
  | .fsyncOutPulse out cycle predicted => Sys2Proof.Machine.execFsyncOutPulse out cycle predicted s
  | .fsyncOutLost out => Sys2Proof.Machine.execFsyncOutLost out s
  | .tsIncWrite ts value => Sys2Proof.Machine.execTsIncWrite ts value s
  | .tsSetGo ts value => Sys2Proof.Machine.execTsSetGo ts value s
  | .tsAdj ts value => Sys2Proof.Machine.execTsAdj ts value s
  | .tsLossTimeout ts => Sys2Proof.Machine.execTsLossTimeout ts s
  | .mainReturn => Sys2Proof.Machine.execMainReturn s
  | .scntAlign => Sys2Proof.Machine.execScntAlign s
  | .secondCheck => Sys2Proof.Machine.execSecondCheck s
  | .timeRequestSend ts => Sys2Proof.Machine.execTimeRequestSend ts s
  | .timeRequestReceived => Sys2Proof.Machine.execTimeRequestReceived s
  | .timeResponseReceived => Sys2Proof.Machine.execTimeResponseReceived s
  | .ptpEventMessage lane tx kind domain seq at_ offset => Sys2Proof.Machine.execPtpEventMessage lane tx kind domain seq at_ offset s
  | .ptpCfg cmd lane role prio intervals => Sys2Proof.Machine.execPtpCfg cmd lane role prio intervals s
  | .fireflyArm ff value => Sys2Proof.Machine.execFireflyArm ff value s
  | .fireflyDisarm ff value => Sys2Proof.Machine.execFireflyDisarm ff value s
  | .fireflyPulse ff => Sys2Proof.Machine.execFireflyPulse ff s
  | .timedFrameLaunch lane at_ => Sys2Proof.Machine.execTimedFrameLaunch lane at_ s
  | .cricketReceived => Sys2Proof.Machine.execCricketReceived s
  | .cricketMissed => Sys2Proof.Machine.execCricketMissed s
  | .fatalFaultFailed => Sys2Proof.Machine.execFatalFaultFailed s
  | .seekTimeout => Sys2Proof.Machine.execSeekTimeout s
  | .autoRejoin => Sys2Proof.Machine.execAutoRejoin s
  | .pairFail => Sys2Proof.Machine.execPairFail s
  | .pairRejoin => Sys2Proof.Machine.execPairRejoin s
  | .handback => Sys2Proof.Machine.execHandback s
  | .handbackTakesEffect => Sys2Proof.Machine.execHandbackTakesEffect s
  | .hashCompare => Sys2Proof.Machine.execHashCompare s
  | .joinTimeout => Sys2Proof.Machine.execJoinTimeout s
  | .inputRecord => Sys2Proof.Machine.execInputRecord s
  | .noiseRecord => Sys2Proof.Machine.execNoiseRecord s
  | .adaptRecord => Sys2Proof.Machine.execAdaptRecord s
  | .taskmsgRecord core task tick words => Sys2Proof.Machine.execTaskmsgRecord core task tick words s
  | .joinRecord target => Sys2Proof.Machine.execJoinRecord target s
  | .regionRecord core task first count => Sys2Proof.Machine.execRegionRecord core task first count s
  | .laneErrorsSummary lane => Sys2Proof.Machine.execLaneErrorsSummary lane s
  | .yardTransaction txs => Sys2Proof.Machine.execYardTransaction txs s
  | .stallHandover stall owner => Sys2Proof.Machine.execStallHandover stall owner s
  | .handoverComplete stall => Sys2Proof.Machine.execHandoverComplete stall s
  | .lockRequest rid queue lock => Sys2Proof.Machine.execLockRequest rid queue lock s
  | .lockRelease rid queue lock => Sys2Proof.Machine.execLockRelease rid queue lock s
  | .lockTimeout lock => Sys2Proof.Machine.execLockTimeout lock s
  | .weevilRegionDone paddock fail => Sys2Proof.Machine.execWeevilRegionDone paddock fail s
  | .weevilShareWindow paddock => Sys2Proof.Machine.execWeevilShareWindow paddock s
  | .weevilPassDone => Sys2Proof.Machine.execWeevilPassDone s
  | .coverageLate => Sys2Proof.Machine.execCoverageLate s
  | .blkCfgWrite value => Sys2Proof.Machine.execBlkCfgWrite value s
  | .blkDlyBaseWrite value => Sys2Proof.Machine.execBlkDlyBaseWrite value s
  | .bulkTrainingStart density => Sys2Proof.Machine.execBulkTrainingStart density s
  | .bulkTrainingDone pass => Sys2Proof.Machine.execBulkTrainingDone pass s
  | .bulkRequest r deadline beats cycle => Sys2Proof.Machine.execBulkRequest r deadline beats cycle s
  | .bulkBurstDone cycle => Sys2Proof.Machine.execBulkBurstDone cycle s
  | .backoffExpiry r cycle => Sys2Proof.Machine.execBackoffExpiry r cycle s
  | .arbWindow => Sys2Proof.Machine.execArbWindow s
  | .arbBiasWrite r value cycle => Sys2Proof.Machine.execArbBiasWrite r value cycle s
  | .bulkRefill slot node => Sys2Proof.Machine.execBulkRefill slot node s
  | .controlRingDoorbell ring value => Sys2Proof.Machine.execControlRingDoorbell ring value s
  | .streamRingDoorbell ring value => Sys2Proof.Machine.execStreamRingDoorbell ring value s
  | .heartbeat queue => Sys2Proof.Machine.execHeartbeat queue s
  | .heartbeatLapse queue => Sys2Proof.Machine.execHeartbeatLapse queue s
  | .statusBlockArm value => Sys2Proof.Machine.execStatusBlockArm value s
  | .ringEnable ring value => Sys2Proof.Machine.execRingEnable ring value s
  | .streamRingCfgWrite ring start value => Sys2Proof.Machine.execStreamRingCfgWrite ring start value s
  | .echo cmd arg => Sys2Proof.Machine.execEcho cmd arg s
  | .status cmd cls index => Sys2Proof.Machine.execStatus cmd cls index s
  | .eventCfg cmd mask => Sys2Proof.Machine.execEventCfg cmd mask s
  | .hostReset cmd arg => Sys2Proof.Machine.execHostReset cmd arg s
  | .badOpcode cmd opcode readable => Sys2Proof.Machine.execBadOpcode cmd opcode readable s
  | .completionWrite => Sys2Proof.Machine.execCompletionWrite s
  | .eventRingPost ev => Sys2Proof.Machine.execEventRingPost ev s
  | .frameSend readOk at_ => Sys2Proof.Machine.execFrameSend readOk at_ s
  | .streamSlotFetch ring => Sys2Proof.Machine.execStreamSlotFetch ring s
  | .streamRingRefill ring => Sys2Proof.Machine.execStreamRingRefill ring s
  | .streamSlotWrite ring => Sys2Proof.Machine.execStreamSlotWrite ring s
  | .fwGo value => Sys2Proof.Machine.execFwGo value s
  | .firmwareCheck readOk => Sys2Proof.Machine.execFirmwareCheck readOk s
  | .firmwareReady => Sys2Proof.Machine.execFirmwareReady s
  | .watchdogExpiry => Sys2Proof.Machine.execWatchdogExpiry s
  | .neighbourBootTimeout => Sys2Proof.Machine.execNeighbourBootTimeout s
  | .por straps => Sys2Proof.Machine.execPor straps s
  | .supplyReset low => Sys2Proof.Machine.execSupplyReset low s
  | .resetN low => Sys2Proof.Machine.execResetN low s
  | .therm hot => Sys2Proof.Machine.execTherm hot s
  | .tjHigh t0 t1 t2 t3 => Sys2Proof.Machine.execTjHigh t0 t1 t2 t3 s
  | .clkloss clock => Sys2Proof.Machine.execClkloss clock s
  | .clockGood clock => Sys2Proof.Machine.execClockGood clock s
  | .bulkClockLoss => Sys2Proof.Machine.execBulkClockLoss s
  | .softPulse value => Sys2Proof.Machine.execSoftPulse value s
  | .softHold value => Sys2Proof.Machine.execSoftHold value s
  | .pcieReset kind => Sys2Proof.Machine.execPcieReset kind s
  | .quiesceDone timedOut => Sys2Proof.Machine.execQuiesceDone timedOut s
  | .domainRelease => Sys2Proof.Machine.execDomainRelease s
  | .supplyWarning below pfail => Sys2Proof.Machine.execSupplyWarning below pfail s
  | .supplyRecovery => Sys2Proof.Machine.execSupplyRecovery s
  | .tackSeal value => Sys2Proof.Machine.execTackSeal value s
  | .tackDataAccess write value => Sys2Proof.Machine.execTackDataAccess write value s
  | .backupWrite n value => Sys2Proof.Machine.execBackupWrite n value s
  | .eventRecord code inst params => Sys2Proof.Machine.execEventRecord code inst params s
  | .tokenRefill => Sys2Proof.Machine.execTokenRefill s
  | .timeMark => Sys2Proof.Machine.execTimeMark s
  | .loftFlush => Sys2Proof.Machine.execLoftFlush s
  | .flashProgramDone ok => Sys2Proof.Machine.execFlashProgramDone ok s
  | .eventPostWrite value => Sys2Proof.Machine.execEventPostWrite value s
  | .counterLoad value => Sys2Proof.Machine.execCounterLoad value s
  | .selftestStart value => Sys2Proof.Machine.execSelftestStart value s
  | .selftestGroupDone obs => Sys2Proof.Machine.execSelftestGroupDone obs s
  | .repairAdd entry => Sys2Proof.Machine.execRepairAdd entry s
  | .repairCopyDone => Sys2Proof.Machine.execRepairCopyDone s
  | .extest cells => Sys2Proof.Machine.execExtest cells s
  | .samplePreload cells => Sys2Proof.Machine.execSamplePreload cells s
  | .idcode => Sys2Proof.Machine.execIdcode s
  | .highz => Sys2Proof.Machine.execHighz s
  | .clamp => Sys2Proof.Machine.execClamp s
  | .extestPulse cells => Sys2Proof.Machine.execExtestPulse cells s
  | .extestTrain cells => Sys2Proof.Machine.execExtestTrain cells s
  | .bypass opcode => Sys2Proof.Machine.execBypass opcode s
  | .testLogicReset => Sys2Proof.Machine.execTestLogicReset s
  | .registerWrite acc value => Sys2Proof.Machine.execRegisterWrite acc value s
  | .readClear acc => Sys2Proof.Machine.execReadClear acc s
  | .snapshotRead acc => Sys2Proof.Machine.execSnapshotRead acc s
  | .chkSync lane errors => Sys2Proof.Machine.execChkSync lane errors s

end Sys2Proof.Machine
end

