-- ==== Sys2Proof/Safety.lean ====
section
/-! DEFINITION. What a safe run is: no command ends in a fault or a refusal, and every memory and table of the block stays
in canonical form. The words that the statements about the block use stand here too. -/

namespace Sys2Proof.Machine

/-- An outcome is a next state that satisfies `p`. -/
def Does (i : Instr) (s : State) (p : State → Prop) : Prop := ∃ t, exec i s = .next t ∧ p t

/-! ### Canonical form -/

/-- The memories: addresses rise, and no byte listed equals what an unlisted address reads as. The Yard's memory reads as
`State.memDefault` where nothing is listed, which differs from 0 in Stalls alone. -/
def State.memCanonical (s : State) : Bool :=
  Tbl.wf s.memDefault s.mem && Memory.wf s.bulk && Memory.wf s.host && Memory.wf s.flash &&
    Tbl.wf (fun _ => none) s.tst.spoiled && s.tst.spoiled.all (fun e => decide (e.1 < 96))

/-- The register file: no entry equals the register's reset value. -/
def State.regsCanonical (s : State) : Bool := Tbl.wf resetWord s.regs && Tbl.wf (fun _ => none) s.snaps

/-- The tables of the engine. -/
def Eng.canonical (e : Eng) : Bool :=
  Tbl.wf (fun _ => {}) e.slots && Tbl.wf (fun _ => {}) e.zones && Tbl.wf (fun _ => {}) e.vendor && Tbl.wf (fun _ => []) e.portOut

/-- The tables of the host interface. -/
def Hif.canonical (h : Hif) : Bool :=
  Tbl.wf (fun o => if o % 16 = 12 then 1 else 0) h.msixTbl && Tbl.wf (fun _ => false) h.msixPend && Tbl.wf (fun _ => 0) h.msix &&
    Tbl.wf (fun _ => 0) h.sinceIrq && Tbl.wf (fun _ => {}) h.streams && Tbl.wf (fun _ => 0) h.hbAge

/-- The tables of the reference and clock unit. -/
def ClkSt.canonical (c : ClkSt) : Bool := Tbl.wf (fun _ => {}) c.inputs && Tbl.wf (fun _ => {}) c.fs

/-- The tables of the time unit. -/
def TimSt.canonical (t : TimSt) : Bool :=
  Tbl.wf (fun _ => {}) t.ts && Tbl.wf (fun _ => {}) t.ff && Tbl.wf (fun _ => []) t.timed && Tbl.wf (fun _ => []) t.sched &&
    Tbl.wf (fun _ => []) t.skews && Tbl.wf (fun _ => {}) t.ptp

/-- The tables of the link. -/
def Link.canonical (l : Link) : Bool :=
  Tbl.wf (fun _ => {}) l.lanes && Tbl.wf (fun _ => {}) l.ports && Tbl.wf (fun _ => {}) l.spans && Tbl.wf (fun _ => {}) l.streams &&
    l.audio.all (fun e => Tbl.wf (fun _ => []) e.2) && Tbl.wf (fun _ => []) l.audioNext && Tbl.wf (fun _ => 0) l.flowSeq

/-- The tables of the pair unit. -/
def Pair.canonical (p : Pair) : Bool :=
  Tbl.wf (fun _ => []) p.inputs && Tbl.wf (fun _ => []) p.own && Tbl.wf (fun _ => {}) p.rx

/-- The tables of the Yard. -/
def YardSt.canonical (y : YardSt) : Bool :=
  Tbl.wf (fun _ => 23) y.last && Tbl.wf (fun _ => none) y.excl && Tbl.wf (fun _ => none) y.handover

/-- The tables of Weevil. -/
def Weevil.canonical (w : Weevil) : Bool :=
  Tbl.wf (fun _ => 0) w.pos && Tbl.wf (fun _ => false) w.held && Tbl.wf (fun _ => 0) w.had

/-- The tables that belong to no unit. -/
def State.unitsCanonical (s : State) : Bool :=
  Tbl.wf (fun _ => {}) s.cores && Tbl.wf (fun _ => {}) s.ffts && Tbl.wf (fun _ => []) s.waiters && Tbl.wf (fun _ => {}) s.lockReqs &&
    Tbl.wf (fun _ => {}) s.ports && Tbl.wf (fun _ => {}) s.mics && Tbl.wf (fun _ => {}) s.lanes && Tbl.wf (fun _ => {}) s.rtpRx &&
    Tbl.wf (fun _ => {}) s.rtpTx

/-- The canonical form of the block: equal machines are equal data. -/
def State.canonical (s : State) : Bool :=
  s.memCanonical && s.regsCanonical && s.unitsCanonical && s.eng.canonical && s.hif.canonical && s.clk.canonical &&
    s.tim.canonical && s.link.canonical && s.pair.canonical && s.yard.canonical && s.weevil.canonical &&
    Tbl.wf (fun _ => none) s.blk.reqs

/-! ### The words of the statements: Scarab -/

/-- Core `n` as the instruction that issues now reads it: the results that are due have landed (R128). -/
def State.reads (s : State) (n : Nat) : Core := (s.settle n).core n

/-- Core `n` issues an instruction of task `t` now: it does not stall, the tick is not over, the instruction lies in the
task's region, and no error check finds anything as it is fetched and reads its registers (R112, R114, R120, R131). -/
def State.issues (s : State) (n : Nat) (t : Task) : Prop :=
  s.canIssue n = true ∧ (s.reads n).current = some t ∧ t.inRegion (s.reads n).pc = true ∧ (s.reads n).struck = []

/-- Core `n` issues outside every delay slot and REPEAT body, so that a control transfer may stand there (R132, R133). -/
def State.mayTransfer (s : State) (n : Nat) : Prop := (s.reads n).delay = none ∧ (s.reads n).loops = []

/-- The outcome of an instruction that leaves core `n` as `c` and moves on after `cost` cycles; nothing else changes but
what lands. -/
def State.leaves (s : State) (n : Nat) (c : Core) (cost : Nat) : Out := .next (((s.settle n).setCore n c).advance n cost)

/-- Instruction `i` of core `n` gives d[`d`], `lat` cycles after it issues, a value that satisfies `p`; SATF is raised
exactly where `sat`; nothing else of the core changes, and it moves on in one cycle. -/
def Computes (i : Instr) (s : State) (n d lat : Nat) (sat : Bool) (p : W32 → Prop) : Prop :=
  ∃ v, p v ∧ exec i s = s.leaves n (((s.reads n).toD lat d v).flag 2 sat) 1

/-- Instruction `i` of core `n` gives d[`d`], `lat` cycles after it issues, the exact value `v` limited to 32 bits; SATF is
raised where the limit changes it. -/
def Narrows (i : Instr) (s : State) (n d lat : Nat) (v : Int) : Prop :=
  Computes i s n d lat (decide (v < -(2 ^ 31) ∨ 2 ^ 31 ≤ v)) (fun w =>
    (v < -(2 ^ 31) → w.toInt = -(2 ^ 31)) ∧ (2 ^ 31 ≤ v → w.toInt = 2 ^ 31 - 1) ∧
      (-(2 ^ 31) ≤ v → v < 2 ^ 31 → w.toInt = v))

/-- A core whose accumulator `k` takes the exact value `v` mod 2^72; ACCOV is raised where `v` lies outside the range
(R127). -/
def Core.accumulates (c c' : Core) (k : Nat) (v : Int) : Prop :=
  ∃ w : W72, (w.toInt - v) % 2 ^ 72 = 0 ∧ c' = (c.toAcc k w).flag 1 (decide (v < -(2 ^ 71) ∨ 2 ^ 71 ≤ v))

/-- R126: the effective address of a format M instruction. -/
def Core.address (c : Core) (f : MFmt) : Nat :=
  if f.mode = 0 then (((c.ra f.a.toNat : Int) + f.ofs.toInt) % 2 ^ 16).toNat else c.ra f.a.toNat

/-- R126: the update of a[A] by a format M instruction, linear with MODE 1 and circular with MODE 2. -/
def Core.postUpdated (c : Core) (f : MFmt) : Core :=
  if f.mode = 0 then c else c.toA 1 f.a.toNat (c.upd f.a.toNat f.ofs.toInt (f.mode = 2))

/-! ### The words of the statements: host commands -/

/-- The firmware takes `cmd` from the command ring, and no reserved field of it is set (R384, R387, R391, R392). -/
def State.takes (s : State) (cmd : CmdHdr) : Prop :=
  s.takesCommand = true ∧ cmd.reserved = false ∧ cmd.flags.toNat < 4 ∧ cmd.queue.toNat < 16

/-- What the completions of a command taken now carry: its opcode, its tag and the ring index of its entry (R389). -/
def State.refOf (s : State) (cmd : CmdHdr) (op : Nat) : CmdRef :=
  { op := op, tag := cmd.tag.toNat, index := s.ringEng 0, late := false }

/-- R185: a command with TARGET whose warm-up is `w` ends in outcome `o` of a state `s`: accepted for an engine tick, late or
not, by `take`, or refused with TOO_LATE or TOO_FAR by `refuse`. -/
def State.Targets (s : State) (target : W32) (w : Nat) (lateOk : Bool) (o : Out) (refuse : Nat → State)
    (take : Nat → Bool → State) : Prop :=
  let d := Arith.sdiff target.toNat s.scnt
  (2 ≤ d - w → d - w ≤ 2 ^ 30 → o = .next (take (s.eng.tick + d.toNat) false)) ∧
  (d - w < 2 → lateOk = true → o = .next (take (s.eng.tick + 2 + w) true)) ∧
  (d - w < 2 → lateOk = false → o = .next (refuse 0xA01)) ∧
  (2 ^ 30 < d - w → o = .next (refuse 0xA02))

/-- A program in slot `k` runs, or works in the warm-up of its crossfade (R198). -/
def State.works (s : State) (k : Nat) : Prop :=
  (3 ≤ s.slotState k ∧ s.slotState k ≤ 5) ∨ ∃ r, s.eng.xf = some r ∧ r.new = k

end Sys2Proof.Machine
end

