-- ==== Sys2Proof/Certificates/Slice0/Obligations.lean ====
section
/-! DEFINITION. The statements for the provers. -/

open Sys2Proof Sys2Proof.Machine Sys2Proof.Arith

/-! ### Scarab instructions -/

/-- R124, R125, R127, R128: the arithmetic and logical instructions give d[D] the value of R124's table after one cycle, and leave
everything else; a word whose opcode R124 does not list is ILLEGAL. -/
def Obligations.ScarabArithmeticGivesItsTableValue : Prop :=
  ∀ (s : State) (n : Nat) (t : Task) (f : RFmt), s.issues n t → f.z = 0 →
    let a := (s.reads n).rd f.s.toNat
    let b := (s.reads n).rd f.t.toNat
    let gives := fun (i : Instr) (p : W32 → Prop) => Computes i s n f.d.toNat 1 false p
    let k := b.toNat % 32
    exec (.nop n ⟨0, f⟩) s = s.leaves n (s.reads n) 1 ∧
    (∀ op, op ≠ 0 → exec (.nop n ⟨op, f⟩) s = .next ((s.settle n).taskFault n 1)) ∧
    gives (.add n f) (fun v => v.toNat = (a.toNat + b.toNat) % 2 ^ 32) ∧
    gives (.sub n f) (fun v => (v.toNat : Int) = ((a.toNat : Int) - b.toNat) % 2 ^ 32) ∧
    gives (.and n f) (fun v => ∀ i, v.getLsbD i = (a.getLsbD i && b.getLsbD i)) ∧
    gives (.or n f) (fun v => ∀ i, v.getLsbD i = (a.getLsbD i || b.getLsbD i)) ∧
    gives (.xor n f) (fun v => ∀ i, v.getLsbD i = (a.getLsbD i ^^ b.getLsbD i)) ∧
    gives (.shl n f) (fun v => v.toNat = a.toNat * 2 ^ k % 2 ^ 32) ∧
    gives (.shr n f) (fun v => v.toNat = a.toNat / 2 ^ k) ∧
    gives (.sra n f) (fun v => v.toInt = a.toInt / 2 ^ k) ∧
    gives (.min n f) (fun v => v.toInt = min a.toInt b.toInt) ∧
    gives (.max n f) (fun v => v.toInt = max a.toInt b.toInt) ∧
    gives (.slt n f) (fun v => v = if a.toInt < b.toInt then 1 else 0) ∧
    gives (.seq n f) (fun v => v = if a = b then 1 else 0)

/-- R124: the immediate instructions; SHI takes the kind of shift from IMM[6:5] and the amount from IMM[4:0]. -/
def Obligations.ScarabImmediatesGiveTheirTableValue : Prop :=
  ∀ (s : State) (n : Nat) (t : Task) (f : IFmt), s.issues n t →
    let a := (s.reads n).rd f.s.toNat
    let gives := fun (i : Instr) (p : W32 → Prop) => Computes i s n f.d.toNat 1 false p
    let k := f.imm.toNat % 32
    let kind := f.imm.toNat / 32
    gives (.addi n f) (fun v => (v.toInt - (a.toInt + f.imm.toInt)) % 2 ^ 32 = 0) ∧
    gives (.andi n f) (fun v => ∀ i, v.getLsbD i = (a.getLsbD i && f.imm.getLsbD i)) ∧
    gives (.ori n f) (fun v => ∀ i, v.getLsbD i = (a.getLsbD i || f.imm.getLsbD i)) ∧
    (f.s = 0 → gives (.lui n f) (fun v => v.toNat = f.imm.toNat * 2 ^ 16)) ∧
    (kind = 0 → gives (.shi n f) (fun v => v.toNat = a.toNat * 2 ^ k % 2 ^ 32)) ∧
    (kind = 1 → gives (.shi n f) (fun v => v.toNat = a.toNat / 2 ^ k)) ∧
    (kind = 2 → gives (.shi n f) (fun v => v.toInt = a.toInt / 2 ^ k)) ∧
    (kind = 3 → Narrows (.shi n f) s n f.d.toNat 1 (rnd a.toInt k))

/-- R124, R127: the instructions that narrow an exact value limit it to 32 bits, and raise SATF exactly where that changes
it; LVL and EXPC give the functions of R81 and R82. -/
def Obligations.ScarabNarrowingsSaturateAndFlag : Prop :=
  ∀ (s : State) (n : Nat) (t : Task) (f : RFmt), s.issues n t → f.z = 0 →
    let a := ((s.reads n).rd f.s.toNat).toInt
    let b := ((s.reads n).rd f.t.toNat).toInt
    let k := ((s.reads n).rd f.t.toNat).toNat % 32
    Narrows (.adds n f) s n f.d.toNat 1 (a + b) ∧
    Narrows (.subs n f) s n f.d.toNat 1 (a - b) ∧
    Narrows (.rsr n f) s n f.d.toNat 1 (rnd a k) ∧
    Narrows (.abs n f) s n f.d.toNat 1 a.natAbs ∧
    Narrows (.neg n f) s n f.d.toNat 1 (-a) ∧
    Narrows (.mulc n f) s n f.d.toNat 3 (rnd (a * b) 28) ∧
    Narrows (.mula n f) s n f.d.toNat 3 (rnd (a * b) 31) ∧
    (f.t = 0 → Computes (.lvl n f) s n f.d.toNat 3 false (fun v => v = toW (log2lv (min (a.natAbs : Int) (2 ^ 31 - 1))))) ∧
    (f.t = 0 → Computes (.expc n f) s n f.d.toNat 3 false (fun v => v = toW (exp2c a)))

/-- R127, R128: the accumulator instructions take their products exactly, wrap mod 2^72 and raise ACCOV where they wrap; RNDA
rounds an accumulator at SH, less BEXP where XB is 1, limits it to 32 bits into d[D] after two cycles, and with CLR clears it. -/
def Obligations.ScarabAccumulatorsAreExactUntilRnda : Prop :=
  (∀ (s : State) (n : Nat) (t : Task) (f : XFmt), s.issues n t → f.z1 = 0 → f.z = 0 →
     let c := s.reads n
     let a := c.ri f.s.toNat
     let b := c.ri f.t.toNat
     let k := f.acc.toNat
     let takes := fun (i : Instr) (v : Int) => ∃ c', c.accumulates c' k v ∧ exec i s = s.leaves n c' 1
     takes (.mac n f) (c.racc k + a * b * 2 ^ 4) ∧
     takes (.msu n f) (c.racc k - a * b * 2 ^ 4) ∧
     takes (.maca n f) (c.racc k + a * b * 2) ∧
     takes (.msua n f) (c.racc k - a * b * 2) ∧
     (f.s = 0 → f.t = 0 → takes (.accadd n f) (c.racc k + c.raccR f.acc2.toNat)) ∧
     (f.t = 0 → ∃ w : W72, w.toInt = a * 2 ^ 32 ∧ exec (.ldacc n f) s = s.leaves n (c.toAcc k w) 1) ∧
     exec (.clra n f) s = s.leaves n (c.toAcc k 0) 1 ∧
     (f.s.toNat % 2 = 0 → f.t.toNat % 2 = 0 →
       let m : Int := if k % 2 = 1 then 2 else 2 ^ 4
       let p := k / 2
       ∃ e o, c.accumulates e (2 * p) (c.racc (2 * p) + a * b * m) ∧
         e.accumulates o (2 * p + 1) (c.racc (2 * p + 1) + c.ri (f.s.toNat + 1) * c.ri (f.t.toNat + 1) * m) ∧
         exec (.mac2 n f) s = s.leaves n o 1)) ∧
  (∀ (s : State) (n : Nat) (t : Task) (f : NFmt), s.issues n t → f.z1 = 0 → f.z = 0 →
     let c := s.reads n
     let e : Int := f.sh.toNat - (if f.xb = 1 then (c.bexp : Int) else 0)
     let r : Int := if 1 ≤ e then rnd (c.raccR f.acc.toNat) e.toNat else c.raccR f.acc.toNat * 2 ^ (-e).toNat
     ∃ v : W32, v.toInt = max (-(2 ^ 31)) (min r (2 ^ 31 - 1)) ∧
       let c' := (c.toD 2 f.d.toNat v).flag 2 (decide (v.toInt ≠ r))
       exec (.rnda n f) s = s.leaves n (if f.clr = 1 then c'.toAcc f.acc.toNat 0 else c') 1)

/-- R112, R126, R131: FMAC multiplies the doublewords at a[AX] and a[AY] into its pair, then updates both address
registers; it takes two cycles outside a REPEAT body and one inside. An odd address is an ALIGN fault, one outside the
task's memory a BOUNDS fault. -/
def Obligations.FmacMultipliesDoublewordsAndUpdatesAddresses : Prop :=
  ∀ (s : State) (n : Nat) (t : Task) (f : FFmt), s.issues n t →
    let c := s.reads n
    let u := s.settle n
    let x := c.ra f.ax.toNat
    let y := c.ra f.ay.toNat
    let word := fun (w : Nat) => (u.localWord n w).toInt
    let m : Int := if f.ka = 1 then 2 else 2 ^ 4
    let p := f.pair.toNat
    ((x % 2 = 1 ∨ y % 2 = 1) → exec (.fmac n f .clean) s = .next (u.taskFault n 3)) ∧
    (x % 2 = 0 → y % 2 = 0 → ¬ (t.mayRead x && t.mayRead (x + 1) && t.mayRead y && t.mayRead (y + 1)) →
      exec (.fmac n f .clean) s = .next (u.taskFault n 2)) ∧
    (x % 2 = 0 → y % 2 = 0 → t.mayRead x → t.mayRead (x + 1) → t.mayRead y → t.mayRead (y + 1) →
      (∀ w ∈ [x, x + 1, y, y + 1], u.fftPoint n w = false) →
      ∃ e o, c.accumulates e (2 * p) (c.racc (2 * p) + word x * word y * m) ∧
        e.accumulates o (2 * p + 1) (c.racc (2 * p + 1) + word (x + 1) * word (y + 1) * m) ∧
        let ax := o.upd f.ax.toNat f.incx.toInt (f.cx = 1)
        let o' := { o with a := Tbl.set o.a 0 f.ax.toNat (BitVec.ofNat 16 ax) }
        let ay := o'.upd f.ay.toNat f.incy.toInt (f.cy = 1)
        exec (.fmac n f .clean) s =
          s.leaves n ((o.toA 1 f.ax.toNat ax).toA 1 f.ay.toNat ay) (if c.loops = [] then 2 else 1))

/-! ### Scarab memory, moves and control -/

/-- R126, R112, R130, R148: loads and stores form EA by MODE; a load reaches d[D] (and d[D + 1]) after three cycles, a store
is readable three cycles later; both post-update a[A]; an odd doubleword, a word outside the task's memory and an uncorrectable
error are the faults 3, 2 and 4 or 5. -/
def Obligations.LoadsAndStoresActOnTheTasksMemory : Prop :=
  (∀ (s : State) (n : Nat) (t : Task) (f : MFmt), s.issues n t → f.mode ≠ 3 →
     let c := s.reads n
     let u := s.settle n
     let ea := c.address f
     let d := f.d.toNat
     (t.mayRead ea = false → ∀ chk, exec (.ld n f chk) s = .next (u.taskFault n 2)) ∧
     (t.mayRead ea = true →
       exec (.ld n f .double) s = .next (u.taskFault n 4) ∧ exec (.ld n f .parity) s = .next (u.taskFault n 5) ∧
       (u.fftPoint n ea = false →
         exec (.ld n f .clean) s = s.leaves n ((c.toD 3 d (u.localWord n ea)).postUpdated f) 1)) ∧
     (d % 2 = 0 → ea % 2 = 1 → ∀ chk, exec (.ld2 n f chk) s = .next (u.taskFault n 3)) ∧
     (d % 2 = 0 → ea % 2 = 0 → (t.mayRead ea && t.mayRead (ea + 1)) = false →
       ∀ chk, exec (.ld2 n f chk) s = .next (u.taskFault n 2)) ∧
     (d % 2 = 0 → ea % 2 = 0 → t.mayRead ea = true → t.mayRead (ea + 1) = true →
       u.fftPoint n ea = false → u.fftPoint n (ea + 1) = false →
         exec (.ld2 n f .clean) s = s.leaves n
           (((c.toD 3 d (u.localWord n ea)).toD 3 (d + 1) (u.localWord n (ea + 1))).postUpdated f) 1)) ∧
  (∀ (s : State) (n : Nat) (t : Task) (f : MFmt), s.canonical = true → s.issues n t → f.mode ≠ 3 →
     let c := s.reads n
     let u := s.settle n
     let ea := c.address f
     let d := f.d.toNat
     (t.mayWrite ea = false → exec (.st n f) s = .next (u.taskFault n 2)) ∧
     (t.mayWrite ea = true → u.fftPoint n ea = false →
       exec (.st n f) s = s.leaves n ((c.postUpdated f).later 3 (.mem ea) ((c.rd d).setWidth 72)) 1) ∧
     (d % 2 = 0 → ea % 2 = 1 → exec (.st2 n f) s = .next (u.taskFault n 3)) ∧
     (d % 2 = 0 → ea % 2 = 0 → (t.mayWrite ea && t.mayWrite (ea + 1)) = false →
       exec (.st2 n f) s = .next (u.taskFault n 2)) ∧
     (d % 2 = 0 → ea % 2 = 0 → t.mayWrite ea = true → t.mayWrite (ea + 1) = true →
       u.fftPoint n ea = false → u.fftPoint n (ea + 1) = false →
         exec (.st2 n f) s = s.leaves n (((c.postUpdated f).later 3 (.mem ea) ((c.rd d).setWidth 72)).later 3
           (.mem (ea + 1)) ((c.rd (d + 1)).setWidth 72)) 1))

/-- R123, R124, R128: MV by KIND, LIA by CLASS, and ADDA; each result has the latency of its destination. -/
def Obligations.MovesReachEveryRegisterClass : Prop :=
  ∀ (s : State) (n : Nat) (t : Task), s.issues n t →
    let c := s.reads n
    (∀ f : VFmt, f.z = 0 →
      let low := BitVec.ofNat 72 ((c.rd f.s.toNat).toNat % 2 ^ 16)
      let d := f.d.toNat
      let r := f.s.toNat
      let gives := fun (c' : Core) => exec (.mv n f) s = s.leaves n c' 1
      (f.kind = 0 → gives (c.toD 1 d (c.rd r))) ∧
      (d < 8 → f.kind = 1 → gives (c.later 2 (.a d) low)) ∧
      (d < 8 → f.kind = 2 → gives (c.later 3 (.b d) low)) ∧
      (d < 8 → f.kind = 3 → gives (c.later 3 (.l d) low)) ∧
      (r < 8 → f.kind = 4 → gives (c.toD 1 d (BitVec.ofNat 32 (c.ra r)))) ∧
      (r < 8 → f.kind = 5 → gives (c.toD 1 d (BitVec.ofNat 32 (c.rb r)))) ∧
      (r < 8 → f.kind = 6 → gives (c.toD 1 d (BitVec.ofNat 32 (c.rl r))))) ∧
    (∀ f : LFmt, f.z1 = 0 →
      let v := BitVec.ofNat 72 f.imm.toNat
      let gives := fun (c' : Core) => exec (.lia n f) s = s.leaves n c' 1
      (f.cls = 1 → gives (c.later 2 (.a f.n.toNat) v)) ∧ (f.cls = 2 → gives (c.later 3 (.b f.n.toNat) v)) ∧
      (f.cls = 3 → gives (c.later 3 (.l f.n.toNat) v))) ∧
    (∀ f : LFmt, f.z1 = 0 → f.cls = 1 →
      exec (.adda n f) s = s.leaves n (c.toA 1 f.n.toNat (c.upd f.n.toNat f.imm.toInt (f.circ = 1))) 1)

/-- R124, R132: a control transfer outside delay slots and bodies leaves its target pending over its two delay slots; one
that leaves the region is a BOUNDS fault, and one in a slot or body ILLEGAL. -/
def Obligations.ControlTransfersWaitForTheirDelaySlots : Prop :=
  ∀ (s : State) (n : Nat) (t : Task) (f : BFmt), s.issues n t →
    let c := s.reads n
    let u := s.settle n
    let v := c.ri f.s.toNat
    let holds := match f.cond.toNat with
      | 0 => true | 1 => v = 0 | 2 => v ≠ 0 | 3 => v < 0 | 4 => 0 ≤ v | 5 => 0 < v | _ => v ≤ 0
    let off : Int := c.pc + f.ofs.toInt
    let inside : Int → Prop := fun x => 0 ≤ x ∧ x < 2 ^ 14 ∧ t.inRegion x.toNat = true
    let after := fun (c' : Core) (x : Transfer) => s.leaves n { c' with delay := some ⟨x, 3⟩ } 1
    (s.mayTransfer n →
      (f.cond ≠ 7 → ¬ holds → exec (.br n f) s = after c (.goto (c.pc + 3))) ∧
      (f.cond ≠ 7 → holds → inside off → exec (.br n f) s = after c (.goto off.toNat)) ∧
      (f.cond ≠ 7 → holds → ¬ inside off → exec (.br n f) s = .next (u.taskFault n 2)) ∧
      (f.s = 0 → f.cond = 0 → inside off →
        exec (.call n f) s = after (c.toD 1 31 (BitVec.ofNat 32 (c.pc + 3))) (.goto off.toNat)) ∧
      (let x : Nat := (c.rd f.s.toNat).toNat % 2 ^ 14
       f.cond = 0 → f.ofs = 0 → inside x → exec (.jr n f) s = after c (.goto x)) ∧
      (f.s = 0 → f.cond = 0 → f.ofs = 0 → exec (.reti n f) s = after c .ret) ∧
      (f.s = 0 → f.cond = 0 → f.ofs = 0 → c.inHandler = false → exec (.tend n f) s = after c .endTask)) ∧
    (¬ s.mayTransfer n → (f.cond ≠ 7 → exec (.br n f) s = .next (u.taskFault n 1)) ∧
      (f.s = 0 → f.cond = 0 → f.ofs = 0 → ∀ i ∈ [Instr.call n f, .jr n f, .reti n f, .tend n f],
        exec i s = .next (u.taskFault n 1)))

/-- R133: REPEAT outside a handler and a delay slot, at nesting below two, with its body inside the region and the outer
body: it costs one cycle, the first of a nest also ceil(LEN / 4), and a COUNT of 0 goes on after the body. -/
def Obligations.RepeatLoopsOverItsBody : Prop :=
  ∀ (s : State) (n : Nat) (t : Task) (f : PFmt), s.issues n t → f.z1 = 0 → (f.cr = 1 → f.count.toNat < 32) →
    let c := s.reads n
    let len := f.len1.toNat + 1
    let count := if f.cr = 1 then (c.rd f.count.toNat).toNat % 2 ^ 16 else f.count.toNat
    let fits := c.inHandler = false ∧ c.delay = none ∧ c.loops.length < 2 ∧
      (∀ o ∈ c.loops, c.pc + 1 + len ≤ o.start + o.len)
    let inside := t.inRegion (c.pc + 1) = true ∧ t.inRegion (c.pc + len) = true
    (fits → inside → count = 0 → exec (.hwRepeat n f) s = s.leaves n { c with pc := c.pc + len } 1) ∧
    (fits → inside → 0 < count → exec (.hwRepeat n f) s =
      s.leaves n { c with loops := ⟨c.pc + 1, len, count⟩ :: c.loops } (if c.loops = [] then 1 + (len + 3) / 4 else 1)) ∧
    (fits → ¬ inside → exec (.hwRepeat n f) s = .next ((s.settle n).taskFault n 2)) ∧
    (¬ fits → exec (.hwRepeat n f) s = .next ((s.settle n).taskFault n 1))

/-- R141 to R144: CSRR returns, two cycles later, the value of R141's table; CSRW of a writable CSR takes effect for the next
instruction, an access that the table forbids is ILLEGAL; MBPOP removes the oldest released message, MV_GO starts the transfer
that MV_LOC, MV_REM and MV_LEN describe (that it clears ERROR in MV_STAT is the model's choice, log entry 111), LK_REQ and LK_REL
act on a Stall lock as the core; the task that asked is kept beside the lock. -/
def Obligations.CsrsReadWriteAndAct : Prop :=
  (∀ (s : State) (n : Nat) (t : Task) (f : IFmt), s.issues n t →
     let c := s.reads n
     let u := s.settle n
     let x := (c.rd f.s.toNat).toNat
     let returns := fun (k v : Nat) => f.s = 0 → f.imm.toNat = k →
       exec (.csrr n f) s = s.leaves n (c.toD 2 f.d.toNat (BitVec.ofNat 32 v)) 1
     let writes := fun (k : Nat) (c' : Core) => f.d = 0 → f.imm.toNat = k → exec (.csrw n f) s = s.leaves n c' 1
     returns 0x000 c.bexp ∧ returns 0x001 c.ien ∧ returns 0x002 c.flags ∧ returns 0x003 c.errst ∧ returns 0x004 u.scnt ∧
     returns 0x005 c.cycle ∧ returns 0x008 c.releasedMsgs.length ∧ returns 0x010 c.mvLoc ∧ returns 0x011 c.mvRem ∧
     returns 0x012 c.mvLen ∧ returns 0x014 ((if c.mover = none then 0 else 1) + (if c.mvErr then 2 else 0)) ∧
     returns 0x019 (c.lkState + (if c.lkBroken then 4 else 0) + 256 * c.lkLock) ∧ returns 0x01C c.retPc ∧
     (∀ m rest, c.releasedMsgs = m :: rest → ∀ k < 4, returns (0x009 + k) (m.words.getD k 0).toNat) ∧
     writes 0x000 { c with bexp := x % 32 } ∧ writes 0x001 { c with ien := x % 4 } ∧
     writes 0x002 { c with flags := c.flags &&& (3 - x % 4) } ∧ writes 0x003 { c with errst := c.errst &&& (15 - x % 16) } ∧
     writes 0x010 { c with mvLoc := x % 2 ^ 14 } ∧ writes 0x011 { c with mvRem := x } ∧
     writes 0x012 { c with mvLen := x % 2 ^ 13 } ∧
     (f.s = 0 → f.imm.toNat ∉ [0x000, 0x001, 0x002, 0x003, 0x004, 0x005, 0x008, 0x009, 0x00A, 0x00B, 0x00C, 0x010, 0x011,
         0x012, 0x014, 0x019, 0x01C] → exec (.csrr n f) s = .next (u.taskFault n 1)) ∧
     (f.d = 0 → f.imm.toNat ∉ [0x000, 0x001, 0x002, 0x003, 0x00D, 0x010, 0x011, 0x012, 0x013, 0x018, 0x01A] →
       exec (.csrw n f) s = .next (u.taskFault n 1))) ∧
  (∀ (s : State) (n : Nat) (t : Task) (f : IFmt), s.issues n t → f.d = 0 →
     let c := s.reads n
     let u := s.settle n
     let x := c.rd f.s.toNat
     (∀ m rest pre, c.mbin = pre ++ m :: rest → m.released = true → c.running = some (m.slot, m.task) →
       (∀ o ∈ pre, ¬ (o.released = true ∧ (o.slot, o.task) = (m.slot, m.task))) →
         exec (.mbpop n f) s = s.leaves n { c with mbin := pre ++ rest } 1) ∧
     (c.mover = none → exec (.mvGo n f) s = s.leaves n { c with
       mvErr := false
       mover := some { base := t.base, size := t.size, toYard := x.getLsbD 0, qos := x.toNat / 2 % 16, loc := c.mvLoc,
                       rem := c.mvRem, len := c.mvLen } } 1) ∧
     (c.mover ≠ none → exec (.mvGo n f) s = s.leaves n (c.setErr 1) 1) ∧
     (let v := u.lockRequest (coreOwner n) (x.toNat % 256)
      let w := v.core n
      u.up .mem = true → w.running = some (t.slot, t.idx) →
       ((w.lkState = 1 ∨ w.lkState = 2) → w.lkLock = x.toNat % 256 →
         exec (.lkReq n f) s = .next ((v.setCore n { w with
           holds := (x.toNat % 256, t.slot, t.idx) :: w.holds.filter (fun h => decide (h.1 ≠ x.toNat % 256)) }).advance n 1)) ∧
       (¬ ((w.lkState = 1 ∨ w.lkState = 2) ∧ w.lkLock = x.toNat % 256) → exec (.lkReq n f) s = .next (v.advance n 1))) ∧
     (u.up .mem = true → exec (.lkRel n f) s = .next ((u.lockRelease (coreOwner n) (x.toNat % 256)).advance n 1)) ∧
     (u.up .mem = false → exec (.lkReq n f) s = .next (u.advance n 1) ∧ exec (.lkRel n f) s = .next (u.advance n 1)))

/-- R144, R145, R151: MBPOST queues d[S] to d[S + 3] with the task and SCNT, or answers 0 and counts a drop when 16 wait;
MBIN_ENQUEUE queues the staged message of a task (while both programs of a crossfade have the task, the ACTIVE slot's, which is
the model's choice, log entry 116); MBOUT_POP with POP removes the oldest outbound message. -/
def Obligations.MailboxesQueueSixteenMessages : Prop :=
  ∀ (s : State) (n : Nat),
    (∀ (t : Task) (f : RFmt), s.issues n t → f.z = 0 → f.s.toNat ≤ 28 → f.t = 0 →
      let c := s.reads n
      let d := f.d.toNat
      (c.mbout.length < 16 → exec (.mbpost n f) s = s.leaves n { (c.toD 1 d 1) with mbout := c.mbout ++ [{
          words := [c.rd f.s.toNat, c.rd (f.s.toNat + 1), c.rd (f.s.toNat + 2), c.rd (f.s.toNat + 3)]
          task := t.idx, tick := BitVec.ofNat 32 (s.settle n).scnt }] } 1) ∧
      (16 ≤ c.mbout.length → exec (.mbpost n f) s =
        .next ((((s.settle n).setCore n (c.toD 1 d 0)).count (F.SCB_MBOUT_STAT_DROP n) 1).advance n 1))) ∧
    (∀ (v : W32) (k : Nat), s.held .eng = false →
      let c := s.core n
      let task := v.toNat % 65536
      let mode := v.toNat / 2 ^ 31
      let now : Bool := mode = 1 ∧ c.running = some (k, task) ∧ c.ien % 2 = 1
      (c.mbin.length < 16 → (∃ t ∈ c.tasks, t.idx = task ∧ t.slot = k) →
        (∀ t ∈ c.tasks, t.idx = task → t.slot = k ∨ (s.slotState k = 3 ∧ s.slotState t.slot ≠ 3)) →
        exec (.mbinEnqueue n v) s = .next (s.setCore n { c with
          mbin := c.mbin ++ [{ words := [s.reg (A.SCB_MBIN_W n 0), s.reg (A.SCB_MBIN_W n 1), s.reg (A.SCB_MBIN_W n 2),
                                 s.reg (A.SCB_MBIN_W n 3)]
                               slot := k, task := task, mode := mode, tick := s.reg (A.SCB_MBIN_TICK n), released := now }]
          mboxReq := c.mboxReq || now })) ∧
      ((16 ≤ c.mbin.length ∨ ∀ t ∈ c.tasks, t.idx ≠ task) →
        exec (.mbinEnqueue n v) s = .next (s.count (F.SCB_MBIN_STAT_DROP n) 1))) ∧
    (∀ v : W32, s.held .eng = false →
      (v.getLsbD 0 = true → exec (.mboutPop n v) s = .next (s.setCore n { (s.core n) with mbout := (s.core n).mbout.drop 1 })) ∧
      (v.getLsbD 0 = false → exec (.mboutPop n v) s = .next s))

/-! ### FFT jobs, interrupts, dispatch and the end of a tick on the cores -/

/-- R131, R138 to R142: FFT queues a job whose points lie in the region at an even address, else sets FFT in ERRST; FFT and
FWAIT stall while the core's own job runs; a unit runs its oldest job and leaves R140's result; a mover transfer that ends
leaves MV_STAT idle, with ERROR and MOVER where a doubleword failed; a core that stalls goes on at the cycle of the end; an
uncorrectable error in a job's points or in a transfer's local reads is fault 4. -/
def Obligations.FftJobsAndMoverTransfersRun : Prop :=
  (∀ (s : State) (n : Nat) (t : Task), s.issues n t →
     let c := s.reads n
     let u := s.settle n
     let unit := u.fftUnit (n / 8)
     let may := c.inHandler = false ∧ c.loops = []
     let stalls := fun (x : Stall) => Host.Outcome.next (u.setCore n { c with stall := some x, atPoint := true })
     (∀ f : GFmt, f.z1 = 0 → f.z = 0 → f.size.toNat ≤ 6 →
       let base := c.ra f.ax.toNat
       let lg := f.size.toNat + 4
       let fits := base % 2 = 0 ∧ t.base ≤ base ∧ base + 2 ^ (lg + 1) ≤ t.base + t.size
       (may → u.fftBusy n = false → fits → exec (.fft n f) s = .next ((u.setFftUnit (n / 8) { unit with
         waiting := unit.waiting ++ [⟨n, base, lg, f.inv = 1, f.keep = 1, false⟩] }).advance n 1)) ∧
       (may → u.fftBusy n = false → ¬ fits → exec (.fft n f) s = s.leaves n (c.setErr 8) 1) ∧
       (may → u.fftBusy n = true → exec (.fft n f) s = stalls (.fft f)) ∧
       (¬ may → exec (.fft n f) s = .next (u.taskFault n 1))) ∧
     (∀ f : RFmt, f.d = 0 → f.s = 0 → f.t = 0 → f.z = 0 →
       (may → u.fftBusy n = false → exec (.fwait n f) s = s.leaves n c.takeExp 1) ∧
       (may → u.fftBusy n = true → exec (.fwait n f) s = stalls .fwait) ∧
       (¬ may → exec (.fwait n f) s = .next (u.taskFault n 1)))) ∧
  (∀ (s : State) (unit cycle : Nat),
     (∀ j rest, s.fftUnit unit = ⟨none, j :: rest⟩ → s.up .eng = true →
       exec (.fftJobStart unit) s = .next (s.setFftUnit unit ⟨some j, rest⟩)) ∧
     (∀ j rest, s.fftUnit unit = ⟨some j, rest⟩ →
       let u := s.setFftUnit unit ⟨none, rest⟩
       let r := fftRun j.inv j.lg (u.fftPoints j)
       let v := (u.setCore j.core ((u.core j.core).dropStores j)).setFftPoints j r.1
       exec (.fftJobStart unit) s = .next s ∧
       exec (.fftJobDone unit ⟨.double, cycle⟩) s = .next (u.taskFault j.core 4) ∧
       (j.spoiled = false → exec (.fftJobDone unit ⟨.clean, cycle⟩) s =
         .next (((v.setCore j.core { v.core j.core with fftDone := (v.core j.core).fftDone ++ [(r.2, j.keep)] }).waitTo j.core
           cycle).resume j.core)))) ∧
  (∀ (s : State) (n done cycle : Nat) (j : MoverJob), (s.core n).mover = some j → s.held .eng = false → n < 32 →
     let fits := j.base ≤ j.loc ∧ j.loc / 2 * 2 + 2 * j.len ≤ j.base + j.size
     let m := min j.len done
     let stops := fun (u : State) (ok : Bool) => u.setCore n (
       if ok then { u.core n with mover := none } else { (u.core n).setErr 1 with mover := none, mvErr := true })
     let ends := fun (u : State) (ok : Bool) => Host.Outcome.next (((stops u ok).waitTo n cycle).resume n)
     ((∀ i < m, s.txBlocked (j.tx n i 0) = false) →
       (¬ fits → exec (.moverDone n ⟨done, .clean, cycle⟩) s = ends s false) ∧
       (fits → exec (.moverDone n ⟨done, .clean, cycle⟩) s = ends (s.moveFrom n j 0 m).2 ((s.moveFrom n j 0 m).1 && decide (j.len ≤ done))) ∧
       (fits → j.toYard = true → exec (.moverDone n ⟨done, .double, cycle⟩) s =
         .next ((stops (s.moveFrom n j 0 m).2 ((s.moveFrom n j 0 m).1 && decide (j.len ≤ done))).taskFault n 4))) ∧
     ((∃ i < m, s.txBlocked (j.tx n i 0) = true) → exec (.moverDone n ⟨done, .clean, cycle⟩) s = .next s))

/-- R134, R136: an interrupt that is pending, enabled and has a handler is taken at an interrupt point: IEN clears, the pc,
loops, delay slots and IEN are saved, RET_PC shows the pc, and the handler starts; ERR goes before MBOX. -/
def Obligations.InterruptsAreTakenAtInterruptPoints : Prop :=
  ∀ (s : State) (n cycle : Nat) (t : Task), s.canonical = true →
    let c := s.core n
    let taken := fun (c' : Core) (handler : Nat) => Host.Outcome.next (s.setCore n { c' with
      saved := ⟨c.pc, c.loops, c.delay, if c.stall = some .tend then some .tend else none, c.ien⟩
      retPc := c.pc, ien := 0, loops := [], delay := none, stall := none, inHandler := true, atPoint := false
      pc := t.base + handler, cycle := (if c.stall = none then c.cycle else max c.cycle cycle) + 4 })
    let errDue := c.errReq = true ∧ c.ien / 2 % 2 = 1 ∧ t.errHandler ≠ 0xFFFF
    s.up .eng = true → c.current = some t → c.inHandler = false → (c.atPoint = true ∨ c.stall ≠ none) → c.cycle < 25600 →
      c.inflight = [] →
      (errDue → exec (.errInterrupt ⟨n, cycle⟩) s = taken { c with errReq := false } t.errHandler ∧ exec (.mboxInterrupt ⟨n, cycle⟩) s = .next s) ∧
      (¬ errDue → exec (.errInterrupt ⟨n, cycle⟩) s = .next s) ∧
      (¬ errDue → c.mboxReq = true → c.ien % 2 = 1 → t.mbHandler ≠ 0xFFFF →
        exec (.mboxInterrupt ⟨n, cycle⟩) s = taken { c with mboxReq := false } t.mbHandler)

/-- R121: at its dispatch a task runs from its entry with the register values of R121's table, every other register of the
core zero; no other core and nothing outside the cores changes. -/
def Obligations.DispatchGivesTheTaskItsEntryRegisters : Prop :=
  ∀ (s : State) (n : Nat) (t : Task) (upsets : List (Nat × MemCheck)), s.canonical = true → s.held .eng = false → n < 32 → (s.core n).running = none →
    (s.core n).tasks.find? (fun t => decide (t.run = .waiting)) = some t → (s.core n).cycle < 25600 →
    t.base < 2 ^ 14 → t.xb < 2 ^ 11 → t.yb < 2 ^ 11 →
    ∃ u : State, exec (.taskDispatch ⟨n, upsets⟩) s = .next u ∧
      let c := u.core n
      c.running = some (t.slot, t.idx) ∧ c.pc = t.base + t.entry ∧
      (∀ r, c.ra r = if r = 0 then t.base else if r = 6 then 0x4000 + t.xb else if r = 7 then 0x4800 + t.yb else 0) ∧
      (∀ r, c.rb r = 0 ∧ c.rl r = 0 ∧ c.racc r = 0 ∧ c.raccR r = 0) ∧
      c.rd 0 = BitVec.ofNat 32 s.tphase ∧ c.rd 1 = BitVec.ofNat 32 s.scnt ∧ c.rd 2 = BitVec.ofNat 32 t.idx ∧
      c.rd 3 = BitVec.ofNat 32 ((if t.first then 1 else 0) + (if s.eng.xf.isSome then 2 else 0) + (if t.wasIdle then 4 else 0)) ∧
      c.rd 4 = BitVec.ofNat 32 c.releasedMsgs.length ∧ (∀ r, 4 < r → c.rd r = 0) ∧
      c.bexp = 0 ∧ c.flags = 0 ∧ c.errst = 0 ∧ c.ien = 0 ∧ c.mvLoc = 0 ∧ c.mvRem = 0 ∧ c.mvLen = 0 ∧ c.mvErr = false ∧ c.retPc = 0 ∧
      (∀ k, k ≠ n → u.core k = s.core k) ∧ u = { s with cores := u.cores }

/-! ### Programs, commits and gains -/

/-- R60, R61, R388: LOAD copies at most 64 MB into the slot's bulk space and leaves the slot LOADING; what R61 and step 1 of
R57 refuse changes nothing but LAST_ERR, and completes with the refusal's code. -/
def Obligations.LoadCopiesAnImageIntoItsSlot : Prop :=
  ∀ (s : State) (cmd : CmdHdr) (slot lo hi len : W32) (ok : Bool), s.takes cmd →
    let u := s.consumed 0
    let r := s.refOf cmd 0x10
    let k := slot.toNat
    let o := exec (.load cmd slot lo hi len ok) s
    let ready := u.held .eng = false ∧ u.fon F.BLK_STAT_READY = true
    let free := u.slotState k = 0 ∧ u.slotState (1 - k) ≠ 4
    let room := u.imageAddr k + 2 ^ 26 ≤ u.bulkBytes
    (2 ≤ k → o = .next (u.answer r 0xB02)) ∧ (k < 2 → ¬ ready → o = .next (u.slotRefuse k r 0xB04)) ∧
    (k < 2 → ready → ¬ free → o = .next (u.slotRefuse k r 0x801)) ∧
    (k < 2 → ready → free → ¬ room → o = .next (u.slotRefuse k r 0x803)) ∧
    (k < 2 → ready → free → room → ok = false → o = .next (u.slotRefuse k r 0xB03)) ∧
    (k < 2 → ready → free → room → ok = true →
      let n := min len.toNat (2 ^ 26)
      let img := bytesAt u.host (lo.toNat + hi.toNat * 2 ^ 32) n
      o = .next ({ u with
        bulk := setBytes (eraseRange u.bulk (u.imageAddr k) n) (u.imageAddr k) img
        eng := { u.eng with loads := u.eng.loads ++ [(⟨k, len.toNat, r⟩ : LoadJob)] } }.setSlotState k 1))

/-- R57, R61, R67: a load that fails its checks leaves ENG_ERR and an EMPTY slot, one that passes leaves the slot LOADED with
its program and id; UNLOAD empties a LOADED slot; ENG_PROG_BASE changes only while both slots are EMPTY. -/
def Obligations.LoadsEndLoadedOrEmpty : Prop :=
  ∀ s : State,
    (∀ l rest, s.eng.loads = l :: rest → s.held .eng = false →
      let u := { s with eng := { s.eng with loads := rest } }
      let img := bytesAt u.bulk (u.imageAddr l.slot) l.len
      let p := parseImage img
      let old := u.slot (1 - l.slot)
      let pred := p.pred ≠ 0 ∧ u.slotState (1 - l.slot) = 3 ∧ p.pred = old.prog.pid
      (∀ e, u.verdict l.slot l.len = some e →
        exec .loadDone s = .next (((u.noteLoadErr e).setSlotState l.slot 0).slotRefuse l.slot l.ref e.code)) ∧
      (u.verdict l.slot l.len = none → ∃ xfOk, exec .loadDone s =
        .next ((((u.setSlot l.slot { prog := p, xfOk := xfOk, checked := if pred then some old.prog else none }).setReg
          (A.ENG_SLOT_PID l.slot) (BitVec.ofNat 32 p.pid)).setSlotState l.slot 2).slotRefuse l.slot l.ref 0))) ∧
    (∀ cmd slot, s.takes cmd → slot.toNat < 2 →
      let u := s.consumed 0
      let k := slot.toNat
      let ends := fun (v : State) (code : Nat) => exec (.unload cmd slot) s = .next (v.slotRefuse k (s.refOf cmd 0x11) code)
      (3 ≤ u.slotState k → u.slotState k ≤ 5 → ends u 0x802) ∧
      (u.slotState k < 2 → ends u 0x801) ∧
      (u.slotState k = 2 → u.slotBusy = true → ends u 0x801) ∧
      (u.slotState k = 2 → u.slotBusy = false →
        ends (((u.setSlot k {}).setSlotState k 0).setReg (A.ENG_SLOT_PID k) 0) 0)) ∧
    (∀ v : W32, (s.slotState 0 = 0 ∧ s.slotState 1 = 0) ∨ v.toNat % 128 = s.fget F.ENG_PROG_BASE_BASE →
      exec (.progBaseWrite v) s = .next (s.writePlain A.ENG_PROG_BASE v)) ∧
    (∀ v : W32, v.toNat % 128 ≠ s.fget F.ENG_PROG_BASE_BASE → (s.slotState 0 ≠ 0 ∨ s.slotState 1 ≠ 0) →
      exec (.progBaseWrite v) s = .next s)

/-- R185, R195 to R197: ACTIVATE, STOP and ACTIVATE_XF meet R196's refusals, then R185's target test, and wait for their
tick; a STOP cancels the slot's commits at or after its tick, a crossfade the old slot's from its warm-up on. -/
def Obligations.SlotCommandsWaitForTheirTick : Prop :=
  ∀ (s : State) (cmd : CmdHdr) (slot target : W32), s.takes cmd → slot.toNat < 2 →
    let u := s.consumed 0
    let k := slot.toNat
    let o := 1 - k
    let late := cmd.flags.getLsbD 0
    let ack := cmd.flags.getLsbD 1
    let accepts := fun (op : Nat) (what : SlotOp) (res : List W32) (start : State → Nat → State) (due : Nat) (l : Bool) =>
      let r := { s.refOf cmd op with late := l }
      (start { u with eng := { u.eng with cmd := some ⟨what, k, due, r⟩ } } due).accepted ack r due res
    let act := exec (.activate cmd slot target) s
    let stop := exec (.stopSlot cmd slot target) s
    let xf := fun (len : W32) => exec (.activateXf cmd slot target len) s
    (u.slotState k ≠ 2 ∨ (u.slotState o ≠ 0 ∧ u.slotState o ≠ 2) ∨ u.slotBusy = true → act = .next (u.slotRefuse k (s.refOf cmd 0x12) 0x801)) ∧
    (u.slotState k = 2 → (u.slotState o = 0 ∨ u.slotState o = 2) → u.slotBusy = false →
      u.Targets target 0 late act (u.slotRefuse k (s.refOf cmd 0x12)) (accepts 0x12 .activate [] (fun v _ => v))) ∧
    (u.slotState k ≠ 3 → stop = .next (u.slotRefuse k (s.refOf cmd 0x14) 0x802)) ∧
    (∀ c, u.slotState k = 3 → u.eng.cmd = some c →
      stop = .next (u.slotRefuse k (s.refOf cmd 0x14) (if c.op.isXf = true ∧ c.slot ≠ k then 0x802 else 0x801))) ∧
    (u.slotState k = 3 → u.slotBusy = false →
      u.Targets target 0 late stop (u.slotRefuse k (s.refOf cmd 0x14)) (accepts 0x14 .stop [] (fun v due =>
        v.cancelCommits (fun c => decide (c.slot = k) && decide (due ≤ c.due))))) ∧
    (∀ len : W32, 1 ≤ len.toNat → len.toNat ≤ 4096 → u.slotState k = 2 → u.slotState o = 3 →
      (u.slot k).prog.pred ≠ 0 → (u.slot k).prog.pred = (u.slot o).prog.pid → u.slotBusy = false →
      let w := warmUp (u.slot o).prog (u.slot k).prog
      (∀ e, u.xfChecks k = some e → xf len = .next ((u.noteLoadErr e).slotRefuse k (s.refOf cmd 0x13) e.code)) ∧
      (u.xfChecks k = none → u.Targets target w late (xf len) (u.slotRefuse k (s.refOf cmd 0x13))
        (accepts 0x13 (.crossfade len.toNat w) [BitVec.ofNat 32 w] (fun v due =>
          let x := v.cancelCommits (fun c => decide (c.slot = o) && decide (due ≤ c.due + w))
          (x.setReg A.ENG_XF_STAT (BitVec.ofNat 32 (w * 2 ^ 26 + len.toNat * 2 ^ 13))).setReg A.ENG_XF_TICK (x.scntOf due))))) ∧
    (∀ len : W32, 1 ≤ len.toNat → len.toNat ≤ 4096 → u.slotState k = 2 → (u.slotState o = 4 ∨ u.slotState o = 5) →
      xf len = .next (u.slotRefuse k (s.refOf cmd 0x13) 0x801))

/-- R61, R195, R198: at the tick they settled on, an activation starts its slot, a stop begins its slot's fade-out for 64
ticks and then leaves it LOADED, a crossfade begins its warm-up W ticks earlier, its fade at T and retires the old slot at
T + L; before that nothing changes. -/
def Obligations.SlotChangesHappenAtTheirTick : Prop :=
  ∀ s : State, s.up .eng = true →
    let t := s.eng.tick + 1
    (∀ k due r, s.eng.cmd = some ⟨.activate, k, due, r⟩ →
      (due ≤ t → exec .activationTakesEffect s =
        .next (({ s with eng := { s.eng with cmd := none } }.startSlot k).slotAnswer k r 0 (s.scntOf due))) ∧
      (t < due → exec .activationTakesEffect s = .next s)) ∧
    (∀ k due r, s.eng.cmd = some ⟨.stop, k, due, r⟩ → (t < due → exec .stopTakesEffect s = .next s) ∧
      (due ≤ t → Tbl.rising (s.slot k).nodes = true → ∃ nodes : Tbl NodeSt, (∀ i, Tbl.get nodes {} i =
          let st := (s.slot k).node i
          match (s.slot k).prog.nodes[i]? with
          | some n => if n.isSink then { st with fade := fadeTo st.fade 0 (sinkFade n.rate) } else st
          | none => st) ∧ exec .stopTakesEffect s = .next (((({ s with
        eng := { s.eng with cmd := none, stopping := some (k, due + 64) } }.setSlot k
          { s.slot k with nodes := nodes }).setSlotState k 5).reown).slotAnswer k r 0 (s.scntOf due)))) ∧
    (∀ k due, s.eng.stopping = some (k, due) → (t < due → exec .stopComplete s = .next s) ∧
      (due ≤ t → exec .stopComplete s = .next ((({ s with eng := { s.eng with stopping := none } }.setSlot k
        { s.slot k with nodes := [], outs := [], gains := [] }).dropTasks (fun tk => tk.slot = k)).setSlotState k 2))) ∧
    (∀ k len warm due r, s.eng.cmd = some ⟨.crossfade len warm, k, due, r⟩ → s.eng.xf = none →
      (t + warm < due → exec .xfWarmupStart s = .next s) ∧
      (due ≤ t + warm →
        let o := 1 - k
        let pn := (s.slot k).prog
        let pairs := retainedPairs (s.slot o).prog pn
        let name := fun (j : Nat) => ((s.slot o).prog.tasks[j]?).bind (fun e => (newOf pairs e.node).bind (fun i =>
          pn.tasks.findIdx? (fun f => decide (f.node = i))))
        let u := s.setSlot k (carryOver (s.slot o) (s.slot k))
        let w := u.setSlot o { u.slot o with gains := gainsLeft (s.slot o) (s.slot k) }
        let v := ((w.dropTasks (fun tk => tk.slot = k)).liftTasks o k name).placeTasks pn
          ((placeXf pn pairs k (s.slotTasks o)).getD []) (fun tk => (oldOf pairs tk.node).isNone)
        exec .xfWarmupStart s =
          .next ({ v with eng := { v.eng with xf := some ⟨o, k, due, len, warm, r⟩ } }.fset F.ENG_XF_STAT_PHASE 1))) ∧
    (∀ x c, s.eng.xf = some x → s.eng.cmd = some c → (t < x.t ∨ c.op.isXf = false → exec .xfFadeStart s = .next s) ∧
      (x.t ≤ t → c.op.isXf = true → Tbl.rising (s.slot x.new).nodes = true → ∃ nodes : Tbl NodeSt,
        (∀ i, ((s.slot x.new).prog.node i).type ≠ T.snkRec → Tbl.get nodes {} i = (s.slot x.new).node i) ∧
        exec .xfFadeStart s = .next (((((({ s with
          eng := { s.eng with cmd := none } }.setSlot x.new
            { s.slot x.new with nodes := nodes }).setSlotState x.new 3).setSlotState
          x.old 4).fset F.ENG_XF_STAT_PHASE 2)).reown))) ∧
    (∀ x, s.eng.xf = some x → (t < x.t + x.len → exec .xfRetire s = .next s) ∧
      (x.t + x.len ≤ t →
        let changed := (s.eng.zones.map (·.1)).filter (fun z => s.zoneHeld z)
        let u := changed.foldl (fun v z => v.setZone z { v.zone z with gainOwned := false, offset := 0, eqOwned := [] }) s
        let v := (((({ u with eng := { u.eng with xf := none } }.setSlot x.old {}).setSlotState x.old 0).setReg
          (A.ENG_SLOT_PID x.old) 0).dropTasks (fun tk => tk.slot = x.old)).fset F.ENG_XF_STAT_PHASE 0
        let w := v.fset F.ENG_XF_STAT_K 0
        exec .xfRetire s = .next (((changed.foldl (fun v z => v.reownZone z true) w).reown).slotAnswer x.new x.ref 0 (w.scntOf x.t) [BitVec.ofNat 32 x.warm])))

/-- R148, R184 to R187, R388: COMMIT waits for its fence, or for a free place of 64; the fence met, it meets R185 and R186 and
becomes pending; commits leave the fence wait in order and land at their tick; TASK_RESTART meets R185 too, and at its tick
every placed copy of the task loses its fault and is FIRST again. -/
def Obligations.CommitsAndRestartsWaitAndLand : Prop :=
  (∀ s : State,
     (∀ cmd (slot group target fence : W32), s.takes cmd → slot.toNat < 2 → group.toNat < 4096 →
       let u := s.consumed 0
       let w : FenceWait := ⟨slot.toNat, group.toNat, target, fence, cmd.flags.getLsbD 0, cmd.flags.getLsbD 1, s.refOf cmd 0x15⟩
       let o := exec (.commit cmd slot group target fence) s
       let met := sdiff fence.toNat (u.ringEng 3) ≤ 0
       (¬ met → u.eng.fences.length < 64 → o = .next { u with eng := { u.eng with fences := u.eng.fences ++ [w] } }) ∧
       (¬ met → 64 ≤ u.eng.fences.length → o = .next (u.answer w.ref 0xA03)) ∧
       (met →
         let refuse := u.answer w.ref
         u.Targets target 0 w.lateOk o refuse (fun due l =>
           if u.slotState w.slot ≠ 3 ∨ u.endsBy w.slot due = true then refuse 0xA04
           else if (u.slot w.slot).prog.groupEntry w.group = none then refuse 0x402
           else if ∃ p ∈ u.eng.pend, p.slot = w.slot ∧ p.group = w.group then refuse 0xA06
           else if u.anaLocked = true ∧ u.groupClampOk w.slot w.group = false then refuse 0x404
           else
             let r := { w.ref with late := l }
             { u with eng := { u.eng with pend := u.eng.pend ++ [(⟨w.slot, w.group, due, r⟩ : PendCommit)] } }.accepted w.ack r due))) ∧
     (s.eng.fences = [] → exec .commitArrival s = .next s) ∧
     (∀ w rest, s.eng.fences = w :: rest → 0 < sdiff w.fence.toNat (s.ringEng 3) → exec .commitArrival s = .next s) ∧
     (∀ w rest, s.eng.fences = w :: rest → sdiff w.fence.toNat (s.ringEng 3) ≤ 0 →
       exec .commitArrival s = .next (({ s with eng := { s.eng with fences := rest } }.arriveCommit w).drainFences 63)) ∧
     (∀ p pre post, s.eng.pend = pre ++ p :: post → (∀ q ∈ pre ++ post, ¬ (q.slot = p.slot ∧ q.group = p.group)) →
       (p.due ≤ s.eng.tick + 1 → exec (.commitLand p.slot p.group) s =
         .next (({ s with eng := { s.eng with pend := pre ++ post } }.landGroup p.slot p.group p.due).complete
           (p.ref.done 0 (s.scntOf p.due) []))) ∧
       (s.eng.tick + 1 < p.due → exec (.commitLand p.slot p.group) s = .next s))) ∧
  (∀ s : State,
     (∀ cmd (slot task target : W32), s.takes cmd → slot.toNat < 2 →
       let u := s.consumed 0
       let r := s.refOf cmd 0x16
       let k := slot.toNat
       let o := exec (.taskRestart cmd slot task target) s
       (u.slotState k ≠ 3 → o = .next (u.answer r 0xA04)) ∧
       (u.slotState k = 3 → (u.slot k).prog.tasks.length ≤ task.toNat → o = .next (u.answer r 0xB05)) ∧
       (u.slotState k = 3 → task.toNat < (u.slot k).prog.tasks.length →
         u.Targets target 0 (cmd.flags.getLsbD 0) o (u.answer r) (fun due l =>
           let r := { r with late := l }
           { u with eng := { u.eng with restarts := u.eng.restarts ++ [(⟨k, task.toNat, due, r⟩ : Restart)] } }.accepted
             (cmd.flags.getLsbD 1) r due))) ∧
     (∀ x pre post, s.eng.restarts = pre ++ x :: post → (∀ q ∈ pre ++ post, ¬ (q.slot = x.slot ∧ q.task = x.task)) →
       (s.eng.tick + 1 < x.due → exec (.taskRestartLand x.slot x.task) s = .next s) ∧
       (x.due ≤ s.eng.tick + 1 →
         let v := forEach (s.cores.map (·.1)) { s with eng := { s.eng with restarts := pre ++ post } } (fun v n =>
           match (v.core n).task x.slot x.task with
           | none => v
           | some tk =>
             let w := v.fillRegion n (v.slot x.slot).prog tk
             w.setCore n ((w.core n).setTask { tk with faulted := false, first := true }))
         exec (.taskRestartLand x.slot x.task) s = .next (v.complete (x.ref.done 0 (v.scntOf x.due) [])))))

/-- R395: a direct parameter write is judged and consumed; an INDIRECT one waits for its words, which the fetch delivers or
fails with HOST_READ_ERROR; accepted words go to the shadow set, refusals are counted. -/
def Obligations.ParameterWritesReachTheShadowWords : Prop :=
  ∀ s : State,
    (∀ e : PwEntry, s.ringHasEntry 3 = true → s.backlogged = false → s.hif.indirect = none →
      let bad := e.reserved = true ∨ 1 < e.slot ∨ e.count < 1 ∨ 16384 < e.count ∨
        (e.indirect = false ∧ (12 < e.count ∨ e.addr ≠ 0))
      let words := (List.range e.count).map (fun i => e.data.getD i 0)
      let o := exec (.parameterWrite e) s
      (bad → o = .next (s.endWrite e 0xB02 [])) ∧
      (¬ bad → e.indirect = true → o = .next { s with hif := { s.hif with indirect := some e } }) ∧
      (¬ bad → e.indirect = false → o = .next (s.endWrite e (s.judgeWrite e.slot e.pset e.first words) words))) ∧
    (∀ e : PwEntry, s.hif.indirect = some e → s.held .hif = false → s.backlogged = false →
      let u := { s with hif := { s.hif with indirect := none } }
      let words := (List.range e.count).map (fun i => BitVec.ofNat 32 (leAt s.host (e.addr.toNat + 4 * i) 4))
      exec (.pwIndirectFetch false) s = .next (u.endWrite e 0xB03 []) ∧
      exec (.pwIndirectFetch true) s = .next (u.endWrite e (u.judgeWrite e.slot e.pset e.first words) words)) ∧
    (∀ (e : PwEntry) (code : Nat) (words : List W32),
      let u := s.consumed 3
      let r : CmdRef := ⟨0, s.ringEng 3 % 65536, s.ringEng 3, false⟩
      (code = 0 → s.endWrite e code words =
        let v := u.setSlot e.slot ((u.slot e.slot).putShadow e.pset e.first words)
        (if e.notify then v.answer r 0 else v).drainFences 64) ∧
      (code ≠ 0 → s.endWrite e code words = ((u.bump A.HIF_PW_REFUSED).answer r code).drainFences 64))

/-- R76, R95, R103, R108, R109, R191, R193: what a boundary does to one gain or node: a wait that ran out becomes a 64-sample
ramp, or a DEPTH's value; a ramp past its end leaves the gain STEADY; a voice past its end, a recorder at LENGTH, a silence
detector or a priority input whose hold ran out, a fade that is complete. -/
def Obligations.GainsAndNodesSettleAtABoundary : Prop :=
  (∀ (s : State) (k pset word : Nat) (g : GainSt),
     let key := pset * 32768 + word
     let x := s.slot k
     Tbl.find x.gains key = some g →
       (g.timedOut (s.eng.tick + 1) = false → exec (.zcTimeout k pset word) s = .next s) ∧
       (g.timedOut (s.eng.tick + 1) = true → x.isDepth key = false → exec (.zcTimeout k pset word) s =
         .next ((s.setSlot k { x with gains := Tbl.put x.gains key { g with ramp := true, k := 0 } }).bump A.ENG_ZC_FALLBACK_CNT)) ∧
       (g.timedOut (s.eng.tick + 1) = true → x.isDepth key = true → exec (.zcTimeout k pset word) s =
         .next (s.setSlot k { x with gains := Tbl.del x.gains key })) ∧
       (g.ramp = true → 64 ≤ g.k → exec (.gainRampEnd k pset word) s =
         .next (s.setSlot k { x with gains := Tbl.del x.gains key })) ∧
       ((g.ramp = false ∨ g.k < 64) → exec (.gainRampEnd k pset word) s = .next s)) ∧
  (∀ (s : State) (k i : Nat), s.works k →
     let x := s.slot k
     let n := x.prog.node i
     let st := x.node i
     (n.type = T.srcVoice →
       let r := voiceSettle (x.word n) st
       let u := s.setSlot k (x.setNode i r.1)
       exec (.voiceEnded k i) s = .next (if r.2 then u.fwEvent 5 [0, n.bind] else u)) ∧
     (n.type = T.snkRec →
       let r := recorderSettle (x.word n) st
       let u := s.setSlot k (x.setNode i r.1)
       exec (.recorderFull k i) s = .next (if r.2 then u.fwEvent 5 [1, n.bind] else u)) ∧
     (n.type = T.silence → st.active = true → (x.word n 1).toNat ≤ st.quiet →
       let u := s.setSlot k (x.setNode i { st with active := false })
       exec (.silenceHoldExpiry k i) s = .next (if n.config.testBit 7 then u.fwEvent 3 [k, i, 0] else u)) ∧
     (n.type = T.silence → (st.active = false ∨ st.quiet < (x.word n 1).toNat) → exec (.silenceHoldExpiry k i) s = .next s) ∧
     (∀ input, n.type = T.prio →
       let p := Tbl.get st.prio {} input
       (p.act = true → p.hc = 0 → exec (.prioHoldExpiry k i input) s =
         .next (s.setSlot k (x.setNode i { st with prio := Tbl.set st.prio {} input { p with act := false } }))) ∧
       (p.act = false ∨ p.hc ≠ 0 → exec (.prioHoldExpiry k i input) s = .next s)) ∧
     (s.held .eng = false →
       let r := voiceSettle (x.word n) st
       let u := s.setSlot k (x.setNode i r.1)
       let v := if n.type ≠ T.srcVoice then s else if r.2 then u.fwEvent 5 [0, n.bind] else u
       exec (.fadeComplete (.node k i)) s = .next (v.setSlot k ((v.slot k).setNode i
         { (v.slot k).node i with fade := settleFade ((v.slot k).node i).fade })))) ∧
  (∀ s : State,
     (∀ m, s.held .hif = false → m < 32 → exec (.fadeComplete (.hostRing m)) s =
       .next (s.setStream m { s.stream m with fade := settleFade (s.stream m).fade })) ∧
     (∀ i, s.held .lnk = false → i < 64 → exec (.fadeComplete (.rtp i)) s =
       .next (s.setRxStream i { s.rxStream i with fade := settleFade (s.rxStream i).fade })) ∧
     (∀ p i, s.held .lnk = false → p < 4 → i < 256 → exec (.fadeComplete (.laneStream p i)) s =
       .next (s.setLaneStream (256 * p + i) { s.laneStream (256 * p + i) with
         fade := settleFade (s.laneStream (256 * p + i)).fade })) ∧
     (∀ p k, s.held .apt = false → p < 16 → k < 32 →
       let x := s.port p
       exec (.fadeComplete (.portSlot p true k)) s = .next (s.setPort p { x with tx := x.tx.modSlot k SlotSt.settled }) ∧
       exec (.fadeComplete (.portSlot p false k)) s = .next (s.setPort p { x with rx := x.rx.modSlot k SlotSt.settled })) ∧
     (∀ n f, s.held .apt = false → n < 32 → (s.mic n).settle = none → (s.mic n).fade = some f → f.over = true →
       exec (.fadeComplete (.mic n)) s = .next (s.setMic n (if f.g1 = unity then { s.mic n with fade := none } else {}))) ∧
     (∀ f, s.rst.mute = some f →
       (f.over = true → f.g1 = unity → exec (.fadeComplete .outputs) s =
         .next ({ s with rst := { s.rst with mute := none } }.fset F.RST_SUP_STAT_MUTED 0)) ∧
       (f.over = false ∨ f.g1 ≠ unity → exec (.fadeComplete .outputs) s = .next s)))

/-! ### The host interface and the boot loader -/

/-- R388, R389, R391: ECHO, STATUS, EVENT_CFG, PTP_CFG and HOST_RESET do what R388 says and complete; an entry with an opcode
outside R388 completes with 0B01h, an unreadable one with 0B03h and OPCODE FFh. -/
def Obligations.HostCommandsCompleteWithTheirResult : Prop :=
  ∀ (s : State) (cmd : CmdHdr), s.takes cmd →
    let u := s.consumed 0
    let word := fun (v : Nat) => BitVec.ofNat 32 v
    (∀ v : W32, exec (.echo cmd v) s = .next (u.answer (s.refOf cmd 0x01) 0 [v])) ∧
    (∀ cls index : W32, 2 ≤ cls.toNat ∨ 256 ≤ index.toNat →
      exec (.status cmd cls index) s = .next (u.answer (s.refOf cmd 0x20) 0xB02)) ∧
    (∀ cls index : W32, cls.toNat < 2 → index.toNat < 256 →
      let o := exec (.status cmd cls index) s
      let found := u.boundNode (if cls = 0 then T.srcVoice else T.snkRec) index.toNat
      (found = none → o = .next (u.answer (s.refOf cmd 0x20) 0 [0, 0])) ∧
      (∀ k i, found = some (k, i) →
        let st := (u.slot k).node i
        let state := if cls = 0 then (if st.voice = .idle then 0 else if st.voice = .ended then 2 else 1)
          else (if st.recd = .idle then 0 else if st.recd = .full then 2 else 1)
        o = .next (u.answer (s.refOf cmd 0x20) 0 [word state, word st.pos]))) ∧
    (∀ mask : W32, exec (.eventCfg cmd mask) s =
      .next ({ u with hif := { u.hif with mask := mask.toNat } }.answer (s.refOf cmd 0x21) 0)) ∧
    (∀ lane role prio intervals : W32,
      let ok := lane.toNat < 8 ∧ role.toNat < 16 ∧ role.toNat % 4 ≠ 3 ∧ prio.toNat < 2 ^ 24 ∧ intervals.toNat < 2 ^ 24
      let o := exec (.ptpCfg cmd lane role prio intervals) s
      let cfg : PtpCfg := { role := role.toNat, prio := prio.toNat, intervals := intervals.toNat }
      (ok → o = .next ({ u with tim := { u.tim with ptp := Tbl.set u.tim.ptp {} lane.toNat cfg } }.answer
        (s.refOf cmd 0x22) 0)) ∧
      (¬ ok → o = .next (u.answer (s.refOf cmd 0x22) 0xB02))) ∧
    (exec (.hostReset cmd 0xC7A5) s = .next ((u.answer (s.refOf cmd 0x30) 0).askReset 7 8)) ∧
    (∀ v : W32, v ≠ 0xC7A5 → exec (.hostReset cmd v) s = .next (u.answer (s.refOf cmd 0x30) 0xB02)) ∧
    (∀ op < 256, op ∉ [0x01, 0x10, 0x11, 0x12, 0x13, 0x14, 0x15, 0x16, 0x20, 0x21, 0x22, 0x30] →
      exec (.badOpcode cmd op true) s = .next (u.answer (s.refOf cmd op) 0xB01)) ∧
    (∀ op, exec (.badOpcode cmd op false) s =
      .next (u.answer ⟨0xFF, s.ringEng 0 % 65536, s.ringEng 0, false⟩ 0xB03))

/-- R387, R391, R392, R406: no command is taken unless the firmware is READY, the command ring holds an entry and fewer than
192 completions wait; a command with a reserved field set completes with BAD_ARG and does nothing else. -/
def Obligations.CommandsAreTakenOnlyWhenTheyMay : Prop :=
  ∀ (s : State) (cmd : CmdHdr) (a b c d : W32) (ok : Bool),
    let all := [(Instr.echo cmd a, 0x01), (.load cmd a b c d ok, 0x10), (.unload cmd a, 0x11), (.activate cmd a b, 0x12),
      (.activateXf cmd a b c, 0x13), (.stopSlot cmd a b, 0x14), (.commit cmd a b c d, 0x15), (.taskRestart cmd a b c, 0x16),
      (.status cmd a b, 0x20), (.eventCfg cmd a, 0x21), (.ptpCfg cmd a b c d, 0x22), (.hostReset cmd a, 0x30)]
    let may := s.up .ctl = true ∧ s.fget F.HIF_FW_STAT_STATE = 4 ∧ s.up .hif = true ∧ s.fon (F.HIF_RING_CFG_EN 0) = true ∧
      0 < sdiff (s.ringHost 0) (s.ringEng 0) ∧ s.hif.comps.length < 192
    (¬ may → ∀ x ∈ all, exec x.1 s = .next s) ∧
    (may → (cmd.reserved = true ∨ 4 ≤ cmd.flags.toNat ∨ 16 ≤ cmd.queue.toNat) →
      ∀ x ∈ all, exec x.1 s = .next ((s.consumed 0).answer (s.refOf cmd x.2) 0xB02))

/-- R383 to R386, R392, R396, R397: a doorbell moves its ring's index only forward and within the limits, else RING_ERR is
set and vector 0 fires; EN written 1 clears both indices; the status block is armed where HIF_SB_LO is written; queued
completions and events are written where their ring has room. -/
def Obligations.ControlRingsMoveWithinTheirLimits : Prop :=
  ∀ s : State, s.held .hif = false →
    (∀ k (v : W32), k < 6 → s.fon (F.HIF_RING_CFG_EN k) = true →
      let forward := 0 ≤ sdiff v.toNat (s.ringHost k)
      let fits := if k = 0 ∨ k = 3 ∨ k = 5 then sdiff v.toNat (s.ringEng k) ≤ 2 ^ s.fget (F.HIF_RING_CFG_LOG2SIZE k)
        else sdiff v.toNat (s.ringEng k) ≤ 0
      (forward ∧ fits → exec (.controlRingDoorbell k v) s = .next (s.setReg (A.HIF_RING_HOST k) v).drainQueues) ∧
      (¬ (forward ∧ fits) → exec (.controlRingDoorbell k v) s =
        .next (((s.fset F.HIF_STAT_RING_ERR 1).fset F.HIF_STAT_RING_ERR_ID k).msix 0))) ∧
    (∀ k (v : W32), s.fon (F.HIF_RING_CFG_EN k) = false → exec (.controlRingDoorbell k v) s = .next s) ∧
    (∀ k (v : W32), k < 6 →
      let u := s.writePlain (A.HIF_RING_CFG k) v
      let o := exec (.ringEnable k v) s
      (v.getLsbD 31 = false → o = .next u) ∧
      (v.getLsbD 31 = true → ringLogOk k (u.fget (F.HIF_RING_CFG_LOG2SIZE k)) = false →
        o = .next (u.fset (F.HIF_RING_CFG_EN k) 0)) ∧
      (v.getLsbD 31 = true → ringLogOk k (u.fget (F.HIF_RING_CFG_LOG2SIZE k)) = true →
        let w := ((u.setReg (A.HIF_RING_HOST k) 0).setReg (A.HIF_RING_ENG k) 0).sbChanged
        o = .next { w with hif := { w.hif with sinceIrq := Tbl.set w.hif.sinceIrq 0 k 0 } }.drainQueues)) ∧
    (∀ v : W32,
      let u := s.writePlain A.HIF_SB_LO v
      exec (.statusBlockArm v) s = .next { u with hif := { u.hif with
        sb := some ((u.reg A.HIF_SB_LO).toNat / 64 * 64 + (u.reg A.HIF_SB_HI).toNat * 2 ^ 32) } }) ∧
    (∀ c rest, s.hif.comps = c :: rest →
      (s.ringHasRoom 1 = true →
        exec .completionWrite s = .next ({ s with hif := { s.hif with comps := rest } }.publish 1 c.bytes)) ∧
      (s.ringHasRoom 1 = false → exec .completionWrite s = .next s)) ∧
    (∀ e : Event, e.kind = 1 ∨ (2 ≤ e.kind ∧ e.kind ≤ 7 ∧ s.fwReady = true) →
      exec (.eventRingPost e) s = .next (s.drainEvent.postEvent e)) ∧
    (∀ e : Event, 2 ≤ e.kind → s.fwReady = false → exec (.eventRingPost e) s = .next s)

/-- R384, R399 to R401: the audio stream rings: doorbells, set-up, the fetch of the next slot, the refill after an underrun
and the write of a slot to the host. -/
def Obligations.StreamRingsFetchAndWriteSlots : Prop :=
  ∀ (s : State) (n : Nat), s.held .hif = false → n < 32 →
    let x := s.stream n
    let old := (s.reg (A.HIF_SR_HOST n)).toNat
    let size : Int := 2 ^ s.fget (F.HIF_SR_CFG_LOG2SIZE n)
    let on := s.fon (F.HIF_SR_CFG_EN n)
    let out := s.fon (F.HIF_SR_CFG_DIR n)
    (∀ v : W32, on = true →
      let ok := 0 ≤ sdiff v.toNat old ∧ (if out then sdiff v.toNat x.eng.toNat ≤ 0 else sdiff v.toNat x.eng.toNat ≤ size)
      let u := s.setReg (A.HIF_SR_HOST n) v
      (ok → out = true → exec (.streamRingDoorbell n v) s = .next (u.count (F.HIF_SR_LATE_COUNT n) 0)) ∧
      (ok → out = false → exec (.streamRingDoorbell n v) s =
        .next (u.count (F.HIF_SR_LATE_COUNT n) (min (s.srSlot n + 1) v.toNat - old).toNat)) ∧
      (¬ ok → exec (.streamRingDoorbell n v) s =
        .next (((s.fset F.HIF_STAT_RING_ERR 1).fset F.HIF_STAT_RING_ERR_ID (32 + n)).msix 0))) ∧
    (∀ v : W32, on = false →
      let t := s.writePlain (A.HIF_SR_CFG n) v
      let w := s.writePlain (A.HIF_SR_START n) v
      let lg := t.fget (F.HIF_SR_CFG_LOG2SIZE n)
      (breaksBinding s t = false → v.getLsbD 31 = false → exec (.streamRingCfgWrite n false v) s = .next t) ∧
      (breaksBinding s t = false → v.getLsbD 31 = true → 4 ≤ lg → lg ≤ 16 →
        exec (.streamRingCfgWrite n false v) s = .next ((t.setStream n {}).setReg (A.HIF_SR_HOST n) 0).sbChanged) ∧
      (breaksBinding s t = false → v.getLsbD 31 = true → (lg < 4 ∨ 16 < lg) →
        exec (.streamRingCfgWrite n false v) s = .next (t.fset (F.HIF_SR_CFG_EN n) 0)) ∧
      (breaksBinding s t = true → exec (.streamRingCfgWrite n false v) s = .next (s.fset (F.HIF_SR_CFG_CFG_REJ n) 1)) ∧
      (breaksBinding s w = false → exec (.streamRingCfgWrite n true v) s = .next w) ∧
      (breaksBinding s w = true → exec (.streamRingCfgWrite n true v) s = .next (s.fset (F.HIF_SR_CFG_CFG_REJ n) 1))) ∧
    (∀ v : W32, on = true → exec (.streamRingCfgWrite n true v) s = .next (s.fset (F.HIF_SR_CFG_CFG_REJ n) 1)) ∧
    (∀ (v : W32) (d : RegDef), on = true → regDef (A.HIF_SR_CFG n) = some d →
      let t := s.writePlain (A.HIF_SR_CFG n) v
      let rw := d.mask (fun a => decide (a = .rw))
      let same := ((s.reg (A.HIF_SR_CFG n)).toNat &&& rw) % 2 ^ 31 = (v.toNat &&& rw) % 2 ^ 31
      (same → v.getLsbD 31 = true → exec (.streamRingCfgWrite n false v) s = .next t) ∧
      (same → v.getLsbD 31 = false → exec (.streamRingCfgWrite n false v) s =
        .next (t.setStream n (if out then {} else x.stop))) ∧
      (¬ same → exec (.streamRingCfgWrite n false v) s = .next (s.fset (F.HIF_SR_CFG_CFG_REJ n) 1))) ∧
    (∀ k < 8, on = true → out = false → 0 ≤ s.srSlot n + k + 1 →
      let i := (s.srSlot n + k + 1).toNat
      0 < sdiff old i → (∀ h ∈ x.held, h.1 ≠ i) →
      (∀ j < k, 0 ≤ s.srSlot n + j + 1 → sdiff old (s.srSlot n + j + 1).toNat ≤ 0 ∨
        ∃ h ∈ x.held, h.1 = (s.srSlot n + j + 1).toNat) →
      exec (.streamSlotFetch n) s = .next (s.setStream n { x with held := x.held ++ [(i,
        (List.range (s.srM n * s.srChannels n)).map (fun j => BitVec.ofNat 32 (leAt s.host (s.srAddr n i + 4 * j) 4)))] })) ∧
    (on = true → out = false → x.starved = true → 0 ≤ s.srSlot n →
      ((∀ k < 9, ∃ h ∈ x.held, h.1 = (s.srSlot n).toNat + k) → exec (.streamRingRefill n) s =
        .next (s.setStream n { x with starved := false, fade := fadeTo x.fade unity 64 })) ∧
      (¬ (∀ k < 9, ∃ h ∈ x.held, h.1 = (s.srSlot n).toNat + k) → exec (.streamRingRefill n) s = .next s)) ∧
    (∀ i ws rest, x.queued = (i, ws) :: rest → on = true → (i : Int) < s.srSlot n →
      let u := (s.setStream n { x with queued := rest, eng := BitVec.ofNat 32 (i + 1) }).sbChanged
      let withheld := s.withholds (s.eng.tick - (s.srSlot n - i).toNat)
      let full := size ≤ sdiff i old
      (withheld = true → exec (.streamSlotWrite n) s = .next u) ∧
      (withheld = false → full → exec (.streamSlotWrite n) s = .next (u.count (F.HIF_SR_OVER_COUNT n) 1)) ∧
      (withheld = false → ¬ full → exec (.streamSlotWrite n) s =
        .next { u with host := setBytes u.host (s.srAddr n i) (ws.flatMap (fun w => leBytes 4 w.toNat)) }))

/-- R402 to R407, R413, R426, R427: heartbeats and their lapse; the loader's verdict on an image; the firmware's READY, its
watchdog and FW_GO, which reset CTL. -/
def Obligations.FirmwareStartsAndIsWatched : Prop :=
  ∀ s : State,
    (∀ q, s.held .hif = false → q < 16 → exec (.heartbeat q) s =
      .next ({ s with hif := { s.hif with hbAge := Tbl.set s.hif.hbAge 0 q s.now } }.fset ⟨A.HIF_HQ_STAT, q, q⟩ 0)) ∧
    (∀ q, s.held .hif = false → q < 16 → (s.fget F.HIF_HB_EN).testBit q = true → (s.reg A.HIF_HQ_STAT).getLsbD q = false →
      max 1 (s.fget F.HIF_HB_TMO) * 1024 ≤ (s.now + 1 - Tbl.get s.hif.hbAge 0 q) * 1000 →
      exec (.heartbeatLapse q) s = .next ((((s.breakLocks (fun o => o = hostOwner q) 1).fset ⟨A.HIF_HQ_STAT, q, q⟩ 1).record
        0x701 q []).msix 0)) ∧
    (∀ q, (s.fget F.HIF_HB_EN).testBit q = false → exec (.heartbeatLapse q) s = .next s) ∧
    (∀ ok : Bool,
      let t := if s.held .lnk then s else s.deliverBulk
      t.held .ctl = false → t.fget F.HIF_FW_STAT_STATE = 1 →
        (t.offers = [] → exec (.firmwareCheck ok) s = .next (if t.hif.neighbour then t else t.setFwState 2)) ∧
        (∀ i rest, t.offers = i :: rest →
          let reads := ok && (if i = 2 then t.up .hif else t.up .mem)
          (∀ why, t.imageReason i reads = some why → exec (.firmwareCheck ok) s = .next (t.imageFails i why)) ∧
          (t.imageReason i reads = none → exec (.firmwareCheck ok) s = .next (t.imagePasses i)))) ∧
    (s.held .ctl = false → s.fget F.HIF_FW_STAT_STATE = 1 →
      exec .neighbourBootTimeout s = .next { s with hif := { s.hif with neighbour := false } }) ∧
    (s.held .ctl = false → s.fget F.HIF_FW_STAT_STATE = 3 →
      let u := { s with hif := { s.hif with wdogRun := true } }.setFwState 4
      exec .firmwareReady s = .next (u.fwEvent 7 [u.fget F.HIF_STAT_CTL_EPOCH, (u.reg A.RST_CAUSE).toNat,
        (u.reg A.HIF_FW_VER).toNat]).restoreAddr) ∧
    (s.fget F.HIF_FW_STAT_STATE ≠ 3 → exec .firmwareReady s = .next s) ∧
    (s.up .ctl = true → s.fget F.HIF_FW_STAT_STATE = 4 → s.hif.wdogRun = true → exec .watchdogExpiry s =
      let u := { s with hif := { s.hif with wdogRun := false } }.count F.HIF_WDOG_EXPIRED 1
      .next (u.askReset 4 s.wdogReach)) ∧
    (∀ v : W32, s.held .aon = false →
      let u := s.writePlain A.HIF_FW_CTRL v
      (v.getLsbD 1 = true → exec (.fwGo v) s = .next (u.askReset 6 8)) ∧
      (v.getLsbD 1 = false → exec (.fwGo v) s = .next u))

/-! ### References and time -/

/-- R290 to R301: readings, presence changes, phase comparisons, mode writes and FSYNC edges act while CLK is out of reset;
a comparison records the phase error, which leaves TRACK above 1,024 cycles, and gives the DCO a word that the rules leave
open; an FSYNC output's pulse follows its reference instant, or with a negative OFFSET the instant that the mean spacing of the
last 16 predicts. That no pulse comes before two instants are known is the model's choice (log entry 128). -/
def Obligations.ReferencesAreReadComparedAndSelected : Prop :=
  ∀ s : State, s.held .clk = false →
    (∀ readings : List (Nat × Int),
      let a := forEach (List.range 15) s.closeSecond (fun v i => (v.offsetOf readings i).2.readInput i (v.offsetOf readings i).1)
      let u := (forEach [0, 1] a (fun v n => v.setTsc n (v.tsc n).note)).settleDisagree
      let v := (if u.clkState = 1 ∧ u.clk.calm = true ∧ u.clk.words ≠ [] then u.fset F.CLK_STAT_STATE 2 else u).evaluate
      let w := v.fset F.CLK_STAT_HO_VALID (if v.hoValid then 1 else 0)
      exec (.frequencyReading readings) s = .next { w with clk := { w.clk with
        words := [], calm := true, steady := decide (w.clkState = 2) && decide (w.inState w.clkSel = 2) } }) ∧
    (∀ i here mult, i < 15 →
      let u := if i < 5 then s.setRefIn i { s.refIn i with here := here } else s
      exec (.inputPresenceChange i here mult) s =
        .next ((if i < 2 ∧ here = true then u.fset (F.CLK_IN_STAT_MULT i) mult else u).settleInput i)) ∧
    (∀ i (err : Int), s.clkSel = i → i < 15 → (s.clkState = 1 ∨ s.clkState = 2) →
      let u := if s.clk.built then s.alignStep i else { s with clk := { s.clk with built := true, b := err * 10 ^ 9 } }
      let e := err - divHalfUp u.clk.b (10 ^ 9)
      let v := u.setReg (A.CLK_IN_PHERR i) (toW (sat32 e))
      let w := if v.clkState = 2 ∧ 1024 < e.natAbs then
          { v.fset F.CLK_STAT_STATE 1 with clk := { (v.fset F.CLK_STAT_STATE 1).clk with steady := false } } else v
      let x := w.drawWord.2.setWord w.drawWord.1.toInt
      exec (.phaseComparison i err) s = .next { x with clk := { x.clk with
        calm := x.clk.calm && decide (e.natAbs ≤ 256), words := x.clk.words ++ [x.regInt A.CLK_DCO_WORD] } }) ∧
    (∀ i err, (s.clkSel ≠ i ∨ (s.clkState ≠ 1 ∧ s.clkState ≠ 2)) → exec (.phaseComparison i err) s = .next s) ∧
    (∀ v : W32,
      let u := s.writePlain A.CLK_CTRL v
      let old := s.fget F.CLK_CTRL_MODE
      let mode := u.fget F.CLK_CTRL_MODE
      let again := exec (.clkModeWrite v) s = .next (u.setWord u.clk.ask)
      (mode = old ∨ 2 < mode → again) ∧
      (mode ≠ old → mode = 0 → exec (.clkModeWrite v) s = .next u.enterFree.evaluate) ∧
      (mode ≠ old → mode = 1 → exec (.clkModeWrite v) s =
        let w := u.deselect.fset F.CLK_STAT_STATE 4
        .next (w.setWord (u.regInt A.CLK_DCO_MAN))) ∧
      (mode ≠ old → mode = 2 → u.clkState = 3 → u.hoValid = true → again) ∧
      (mode ≠ old → mode = 2 → (u.clkState ≠ 3 ∨ u.hoValid = false) → exec (.clkModeWrite v) s = .next u.enterHoldover)) ∧
    (∀ (o cycle : Nat) (predicted : Bool), o < 4 →
      let src := s.fget (F.CLK_FS_CFG_SOURCE o)
      let per := s.fsPeriod o
      let old := s.fsOut o
      let x := { old with edges := old.edges + 1, missed := if predicted then old.missed + 1 else 0, stopped := false }
      let u := s.fset (F.CLK_FS_CFG_FLY o) (if predicted then 1 else 0)
      1 ≤ src → src ≤ 6 → fsPeriodOk src per = true →
      (predicted = false → 2 ≤ src → src ≤ 5 → s.inHere (src - 2) = true) →
      (predicted = true → 2 ≤ src ∧ src ≤ 5 ∧ old.missed < 8 ∧ old.stopped = false) →
      (src = 6 → s.mainSet = true) →
      let due := if src = 1 then u.scnt % per = 0 else if src = 6 then u.nearSecond % per = 0 else x.edges % per = 0
      let at_ : Int := u.ecnt + cycle
      let ofs := u.regInt (A.CLK_FS_OFFSET o)
      let width : Int := (min (u.fget ⟨A.CLK_FS_WIDTH o, 23, 0⟩) (u.fsSpacing o / 2) : Nat)
      let pulse := fun (at' : Int) => exec (.fsyncOutPulse o cycle predicted) s = .next ((u.setFsOut o x).setFsOut o { x with
        refs := (at_ :: x.refs).take 16, pulses := ((at' + ofs, at' + ofs + width) :: x.pulses).take 2 })
      s.canonical = true →
      (¬ due → exec (.fsyncOutPulse o cycle predicted) s = .next (u.setFsOut o x)) ∧
      (due → 0 ≤ ofs → pulse at_) ∧
      (due → ofs < 0 → x.refs = [] → exec (.fsyncOutPulse o cycle predicted) s =
        .next ((u.setFsOut o x).setFsOut o { x with refs := [at_] })) ∧
      (due → ofs < 0 → ∀ last, ((at_ :: x.refs).take 16).getLast? = some last → x.refs ≠ [] →
        pulse (at_ + divHalfUp (at_ - last) (((at_ :: x.refs).take 16).length - 1)))) ∧
    (∀ o, o < 4 → ((s.fsOut o).missed < 8 → exec (.fsyncOutLost o) s = .next s) ∧
      (8 ≤ (s.fsOut o).missed → exec (.fsyncOutLost o) s = .next (s.fsStop o)))

/-- R302 to R306, R314: INC, SET_GO, ADJ, the loss of measurements, main time's return, the alignment of SCNT to main time and
the check at each second; a Firefly arms for its start or its first occurrence far enough ahead, is refused with a bad setting,
counts each pulse, and a one-shot disarms. -/
def Obligations.TimescalesAndFirefliesFollowTheirCommands : Prop :=
  (∀ s : State, s.held .clk = false →
     (∀ ts (v : W32), ts < 2 →
       exec (.tsIncWrite ts v) s = .next (s.setInc ts v.toNat) ∧
       exec (.tsAdj ts v) s = .next (s.adjustTs ts v.toInt) ∧
       (v.getLsbD 0 = false → exec (.tsSetGo ts v) s = .next s) ∧
       (v.getLsbD 0 = true →
         let sec := (s.reg (A.TIM_TS_SET_SLO ts)).toNat + 2 ^ 32 * s.fget ⟨A.TIM_TS_SET_SHI ts, 15, 0⟩
         exec (.tsSetGo ts v) s = .next (s.stepTs ts (sec * (10 ^ 9 * 2 ^ 32) + (s.reg (A.TIM_TS_SET_NS ts)).toNat * 2 ^ 32 : Nat)))) ∧
     (∀ ts, ts < 2 → s.tsState ts = 1 → (s.tsSource ts = 1 ∨ s.tsSource ts = 2) →
       (s.tsLoss ts ≤ (s.tsc ts).quiet → exec (.tsLossTimeout ts) s = .next (s.setTsState ts 2)) ∧
       ((s.tsc ts).quiet < s.tsLoss ts → exec (.tsLossTimeout ts) s = .next s)) ∧
     exec .mainReturn s = .next s.settleMain ∧
     (s.up .eng = true ∨ s.mainSet = false → exec .scntAlign s = .next (s.fset F.TIM_STAT_ALIGN_REJ 1)) ∧
     (s.held .eng = true → s.mainSet = true →
       let unit := 10 ^ 9 * 2 ^ 32
       let sec := s.mainTime / unit + 1
       let ticks := ((sec * unit - s.mainTime) * s.baseHz + unit / 2) / unit
       exec .scntAlign s = .next ((s.setReg A.TIM_SCNT (BitVec.ofNat 32 (sec * s.baseHz + 2 ^ 32 * 6 - ticks))).fset
         F.TIM_TPHASE_VALUE ((sec * s.baseHz + 6 * s.baseHz - ticks) % 6))) ∧
     (let sec := s.nearSecond
      let off : Int := (s.mainTime : Int) - (sec * (10 ^ 9 * 2 ^ 32) : Nat)
      let want := sec * s.baseHz % 2 ^ 32
      let u := { s with tim := { s.tim with checked := some sec } }
      s.mainSet = true → 2 * s.baseHz * off.natAbs ≤ 10 ^ 9 * 2 ^ 32 → s.tim.checked ≠ some sec →
        (s.scnt = want → exec .secondCheck s =
          .next (u.fset F.TIM_STAT_TICK_ALIGNED (if off.natAbs ≤ 1000 * 2 ^ 32 then 1 else 0))) ∧
        (s.scnt ≠ want → exec .secondCheck s =
          let v := u.fset F.TIM_STAT_TICK_ALIGNED 0
          .next ((v.fset F.TIM_STAT_TICK_MISALIGN 1).record 0x206 0 [v.scnt, want]))) ∧
     (s.mainSet = false → exec .secondCheck s = .next s)) ∧
  (∀ (s : State) (n : Nat) (v : W32), s.held .clk = false → n < 8 →
     let u := s.writePlain (A.TIM_FF_CTRL n) v
     let w := u.fset (F.TIM_FF_CTRL_ARM n) 0
     let per := w.ffPeriod n
     let soon := w.mainTime + 10000 * 2 ^ 32
     let bad := w.mainSet = false ∨ (per ≠ 0 ∧ per ≤ (w.reg (A.TIM_FF_WIDTH n)).toNat)
     let armed := fun (x : State) (next : Nat) =>
       ((x.setFirefly n { x.firefly n with next := some next }).fset (F.TIM_FF_CTRL_ARMED n) 1).fset (F.TIM_FF_CTRL_ARM n) 1
     let o := exec (.fireflyArm n v) s
     ((s.firefly n).next ≠ none → o = .next (u.fset (F.TIM_FF_CTRL_ARM n) 1)) ∧
     ((s.firefly n).next = none →
       (bad → o = .next (w.fset (F.TIM_FF_CTRL_CFG_REJ n) 1)) ∧
       (¬ bad → soon ≤ w.ffStart n * 2 ^ 32 → o = .next (armed w (w.ffStart n))) ∧
       (¬ bad → w.ffStart n * 2 ^ 32 < soon → per = 0 → o = .next (w.fset (F.TIM_FF_CTRL_LATE n) 1)) ∧
       (¬ bad → w.ffStart n * 2 ^ 32 < soon → per ≠ 0 → o =
         let x := w.fset (F.TIM_FF_CTRL_SKIPPED n) 1
         .next (armed x (w.ffFirst n soon)))) ∧
     exec (.fireflyDisarm n v) s = .next (u.disarm n) ∧
     (∀ next, (s.firefly n).next = some next → next * 2 ^ 32 < s.mainTime + 10 ^ 9 * 2 ^ 32 / s.baseHz →
       let x := (s.setFirefly n { next := some (next + s.ffPeriod n), start := next, stop := next + (s.reg (A.TIM_FF_WIDTH n)).toNat }).bump
         (A.TIM_FF_COUNT n)
       (s.ffPeriod n = 0 → exec (.fireflyPulse n) s = .next (x.disarm n)) ∧
       (s.ffPeriod n ≠ 0 → exec (.fireflyPulse n) s = .next x)) ∧
     ((s.firefly n).next = none → exec (.fireflyPulse n) s = .next s))

/-! ### Serial lanes -/

/-- R236, R238, R239, R241: the receiver's state table: signal and CDR lock, RESTART, bring-up failure and adaptation; LANE_UP
follows the lane. -/
def Obligations.LaneReceiversFollowTheirStateTable : Prop :=
  ∀ (s : State) (l : Nat), s.held .lnk = false → l < 8 →
    (∀ sig cdr : Bool,
      let u := (s.fset (F.LNP_STAT_SIG_DET l) (if sig then 1 else 0)).fset (F.LNP_STAT_CDR_LOCK l) (if cdr then 1 else 0)
      let o := exec (.laneSignalChange l sig cdr) s
      (sig = true → cdr = true → u.blkState l = 0 → o = .next ((u.unlock l 1 false).settleLane l)) ∧
      (sig = true → cdr = true → u.blkState l ≠ 0 → o = .next (u.settleLane l)) ∧
      (sig = false ∨ cdr = false → u.blkState l ≠ 0 → o = .next ((u.unlock l 0 true).settleLane l)) ∧
      (sig = false ∨ cdr = false → u.blkState l = 0 → o = .next (u.settleLane l))) ∧
    exec (.laneRestart l) s = .next (((s.restartAdapt l).unlock l 0 false).settleLane l) ∧
    (s.fon (F.LNP_STAT_SIG_DET l) = true → s.fon (F.LNP_STAT_LANE_UP l) = false → exec (.bringupFail l) s =
      .next ((((s.fset (F.LNP_STAT_BRINGUP_FAIL l) 1).restartAdapt l).unlock l 0 false).settleLane l)) ∧
    (s.fon (F.LNP_STAT_LANE_UP l) = true → exec (.bringupFail l) s = .next s) ∧
    (s.fon (F.LNP_STAT_SIG_DET l) = true → s.fon (F.LNP_CTRL_RX_FIXED l) = false → ∃ eq < 2 ^ 10, exec (.adaptDone l) s =
      let u := { s with freeCtr := s.freeCtr + 1 }
      .next (((u.setReg (A.LNP_RXEQ l) (BitVec.ofNat 32 eq)).fset (F.LNP_STAT_ADAPT_DONE l) 1).settleLane l)) ∧
    (∀ (st : Nat) (loss : Bool), s.blkState l ≠ 2 ∨ loss = false →
      let v := s.setLane l { s.lane l with
        good := 0, win := 0, winBad := 0, age := 0, bad := [], open_ := false, ident := none, blk := none }
      s.unlock l st loss =
        ((v.fset (F.LNP_STAT_BLK_STATE l) st).fset (F.LNP_STAT_HI_BER l) 0).fset (F.LNP_STAT_PEER_VALID l) 0) ∧
    (∀ st, s.blkState l = 2 → s.unlock l st true =
      let v := s.setLane l { s.lane l with
        good := 0, win := 0, winBad := 0, age := 0, bad := [], open_ := false, ident := none, blk := none }
      ((((v.fset (F.LNP_STAT_BLK_STATE l) st).fset (F.LNP_STAT_HI_BER l) 0).fset (F.LNP_STAT_PEER_VALID l) 0).fset
        (F.LNP_STAT_LOCK_LOST l) 1).bump (A.LNP_LOCK_LOSS l))

/-- R231, R236, R237, R242, R243: a block at a lane whose signal is locked: POL_RX inverts it, LOOP 3 sends it out again, a
synchronised checker counts its errors; HUNT counts valid headers to 64 and slips the boundary by a bit at an invalid one, LOCKED
delivers each block, 16 invalid headers in a window of 64 lose the lock; every invalid header counts, and 16 of them within
19,531 blocks are a high error rate. -/
def Obligations.BlocksLockAndReachTheLink : Prop :=
  ∀ (s : State) (l : Nat) (hdr : BitVec 2) (payload : W64), s.held .lnk = false → l < 8 →
    s.fon (F.LNP_STAT_SIG_DET l) = true → s.fon (F.LNP_STAT_CDR_LOCK l) = true →
    let loop := s.fget (F.LNP_CTRL_LOOP l)
    let a := if loop = 3 then s.setLane l { s.lane l with echo := (s.lane l).echo ++ [(hdr.toNat, payload.toNat)] } else s
    let h := if s.fon (F.LNP_CTRL_POL_RX l) then 3 - hdr.toNat else hdr.toNat
    let w := if s.fon (F.LNP_CTRL_POL_RX l) then 2 ^ 64 - 1 - payload.toNat else payload.toNat
    let c := a.checkLine l (h, w)
    let u := if c.blkState l = 0 then c.unlock l 1 false else c
    let x := u.lane l
    let d := descramble x.rxScr w
    let y := { x with rxScr := d.2, rxBits := min 58 (x.rxBits + 64) }
    let valid := h = 1 ∨ h = 2
    let o := exec (.blockReceived l hdr payload) s
    let v := if valid then u else (u.bump (A.LNP_HDR_ERR l)).laneError l 3
    let k := v.count48 (A.LNP_RXBLK_LO l) (A.LNP_RXBLK_HI l) 1
    let winBad := if valid then x.winBad else x.winBad + 1
    (loop = 1 ∨ loop = 2 → o = .next s) ∧
    (loop ≠ 1 → loop ≠ 2 →
      (v.blkState l = 1 → valid → x.good + 1 ≠ 64 → o = .next (v.setLane l { y with good := x.good + 1 })) ∧
      (v.blkState l = 1 → valid → x.good + 1 = 64 →
        o = .next (((v.setLane l { y with good := 0 }).fset (F.LNP_STAT_BLK_STATE l) 2).settleLane l)) ∧
      (v.blkState l = 1 → ¬ valid → o = .next ((v.setLane l { y with good := 0 }).slip l)) ∧
      (v.blkState l ≠ 1 → winBad = 16 → o = .next ((((k.setLane l y).unlock l 1 true).slip l).settleLane l)) ∧
      (v.blkState l ≠ 1 → winBad ≠ 16 →
        let z := { y with
          win := if x.win = 63 then 0 else x.win + 1, winBad := if x.win = 63 then 0 else winBad
          age := x.age + 1, bad := if valid then x.bad else ((x.age + 1) :: x.bad).take 16 }
        let was := k.fon (F.LNP_STAT_HI_BER l)
        let m := k.setLane l z
        let n := if z.hiBer = true ∧ was = false then
            ((m.fset (F.LNP_STAT_HI_BER l) 1).fset (F.LNP_STAT_HI_BER_SEEN l) 1).bump (A.LNP_HIBER_CNT l)
          else if was = true ∧ z.hiBer = false then m.fset (F.LNP_STAT_HI_BER l) 0 else m
        o = .next ((n.settleLane l).deliverBlock l (decide valid) h d.1)))

/-- R230, R239 to R243, R250: the writes of a lane's registers: a generator starts at a place of its pattern that is free, and a
checker that synchronises goes on from the last bits received. -/
def Obligations.LaneRegistersTakeTheirWrites : Prop :=
  ∀ (s : State) (l : Nat) (v : W32), s.held .lnk = false → l < 8 →
    let field := fun (hi lo : Nat) => v.toNat / 2 ^ lo % 2 ^ (hi + 1 - lo)
    (let pre := field 11 8
     let main := field 17 12
     let post := field 4 0
     let ok := pre + main + post ≤ 63 ∧ pre + post ≤ main
     (ok → exec (.txeqWrite l v) s = .next (s.writePlain (A.LNP_TXEQ l) v)) ∧
     (¬ ok → exec (.txeqWrite l v) s = .next (s.fset (F.LNP_STAT_EQ_REJ l) 1))) ∧
    (s.fon (F.LNP_CTRL_RX_FIXED l) = true → exec (.rxeqWrite l v) s = .next (s.writePlain (A.LNP_RXEQ l) v)) ∧
    (s.fon (F.LNP_CTRL_RX_FIXED l) = false → exec (.rxeqWrite l v) s = .next s) ∧
    (let u := s.writePlain (A.LNP_CTRL l) v
     let same := u.fon (F.LNP_CTRL_RX_FIXED l) = s.fon (F.LNP_CTRL_RX_FIXED l)
     (same → v.getLsbD 8 = false → u.fget (F.LNP_CTRL_LOOP l) = s.fget (F.LNP_CTRL_LOOP l) →
       exec (.laneCtrlWrite l v) s = .next (u.settleLane l)) ∧
     (same → v.getLsbD 8 = true →
       exec (.laneCtrlWrite l v) s = .next (((u.restartAdapt l).unlock l 0 false).settleLane l)) ∧
     (same → v.getLsbD 8 = false → u.fget (F.LNP_CTRL_LOOP l) ≠ s.fget (F.LNP_CTRL_LOOP l) →
       exec (.laneCtrlWrite l v) s = .next ((u.unlock l 0 false).settleLane l)) ∧
     (¬ same → v.getLsbD 8 = true → exec (.laneCtrlWrite l v) s =
       .next ((((u.fset (F.LNP_STAT_ADAPT_DONE l) (if s.fon (F.LNP_CTRL_RX_FIXED l) then 0 else 1)).restartAdapt l).unlock
         l 0 false).settleLane l))) ∧
    (let u := s.writePlain (A.LNP_TEST l) v
     let pat := u.fget (F.LNP_TEST_PATTERN l)
     let changed := s.fget (F.LNP_TEST_PATTERN l) ≠ pat
     let w := if u.fon (F.LNP_TEST_RX_CHK l) ≠ s.fon (F.LNP_TEST_RX_CHK l) ∨ changed then u.fset (F.LNP_TEST_CHK_SYNC l) 0 else u
     let starts := w.fon (F.LNP_TEST_TX_GEN l) = true ∧ (s.fon (F.LNP_TEST_TX_GEN l) = false ∨ changed)
     let mode := fun (x : State) => (x.reg (A.LNP_TEST l)).toNat / 4 % 4
     let ends := fun (x : State) => if mode x = mode s then x else (x.unlock l 0 false).settleLane l
     (¬ starts → exec (.prbsTestWrite l v) s = .next (ends w)) ∧
     (starts → ∃ g, (pat = 3 → g < 16) ∧ (pat ≠ 3 → 0 < g ∧ g < 2 ^ (if pat = 1 then 9 else 31)) ∧
       exec (.prbsTestWrite l v) s =
         .next (ends ({ w with freeCtr := w.freeCtr + 1 }.setLane l { w.lane l with gen := g })))) ∧
    (∀ seed,
      let pat := s.fget (F.LNP_TEST_PATTERN l)
      let st := seed % 2 ^ (if pat = 1 then 9 else 31)
      let syncs := s.fon (F.LNP_TEST_RX_CHK l) = true ∧ (pat = 1 ∨ pat = 2) ∧ st ≠ 0
      (syncs → exec (.chkSync l seed) s =
        .next ((s.setLane l { s.lane l with chk := st }).fset (F.LNP_TEST_CHK_SYNC l) 1)) ∧
      (¬ syncs → exec (.chkSync l seed) s = .next s)) ∧
    (∀ p, p < 4 →
      let mode := v.toNat / 2 % 2
      let u := s.writePlain (A.LNP_PORT_CFG p) v
      let b := if u.fon (F.LNP_PORT_CFG_ENABLE p) then u else u.setLinkPort p { u.linkPort p with out := none }
      let cut := fun (x : State) (l : Nat) => if x.transmits l then x else x.setLane l { x.lane l with txq := [], line := [] }
      let w := cut (cut b (2 * p)) (2 * p + 1)
      (s.fon (F.LNP_PORT_CFG_ENABLE p) = true → mode ≠ s.fget (F.LNP_PORT_CFG_MODE p) →
        exec (.portModeWrite p v) s = .next (s.fset (F.LNP_PORT_STAT_CFG_REJ p) 1)) ∧
      ((s.fon (F.LNP_PORT_CFG_ENABLE p) = false ∨ mode = s.fget (F.LNP_PORT_CFG_MODE p)) →
        exec (.portModeWrite p v) s = .next ((w.settleLane (2 * p)).settleLane (2 * p + 1)).refreshPpm))

/-! ### The Thetex link -/

/-- R27, R255 to R260, R269 to R273, R342: what a frame header and a section copy do at a port: a lane's queue holds three frames
and a fourth displaces the oldest; a bad or stale header counts, a good one notes its sender, credit and flags; a bad copy counts
and the rest of its frame is discarded; the first good copy of a section is used, the other path's copy of it is only compared;
a second copy that never came is relayed no more. When a queue is read is the model's choice (log entry 123). -/
def Obligations.ThetexFramesAndSectionsAreTaken : Prop :=
  ∀ (s : State) (l : Nat) (bytes : List Nat), s.held .lnk = false → l < 8 →
    let p := l / 2
    let x := s.linkLane l
    let q := s.linkPort p
    (∀ cycle at_, s.thetex p = true → s.fon (F.LNP_STAT_LANE_UP l) = true →
      let o := exec (.thetexFrameReceived l bytes cycle at_) s
      let fr : RxFrame := { bytes := bytes, cycle := cycle, at_ := at_, stamps := s.stampsAt at_, scnt := s.scnt, sects := [] }
      let inter := s.interDistrict p
      (x.read = true ∨ x.waiting ≠ [] →
        let v := s.setLinkLane l { x with waiting := (if 3 ≤ x.waiting.length then x.waiting.drop 1 else x.waiting) ++ [fr] }
        o = .next (if 3 ≤ x.waiting.length ∧ inter = false then v.linkCount (A.LNK_PORT_RXQ_OVER p) 1 else v)) ∧
      (x.read = false → x.waiting = [] →
        let u := s.setLinkLane l { x with drop := false, hdr := none, nth := 0, cycle := at_, stamps := s.stampsAt at_, read := true }
        (parseHdr bytes = none →
          let e := u.laneError l 1
          let m := (e.linkPort p).badHdr ||| 2 ^ (l % 2)
          let v := e.setLinkPort p { e.linkPort p with badHdr := m }
          o = .next (if m = 3 then v.linkCount (A.LNK_PORT_HDR_CRC p) 1 else v)) ∧
        (∀ h, parseHdr bytes = some h → inter = false → (sdiff s.scnt h.tick < 0 ∨ 15 < sdiff s.scnt h.tick) →
          o = .next (u.linkCount (A.LNK_PORT_STALE p) 1)) ∧
        (∀ h, parseHdr bytes = some h → (inter = true ∨ (0 ≤ sdiff s.scnt h.tick ∧ sdiff s.scnt h.tick ≤ 15)) →
          let a := u.seeAddress l h.src
          let v := if u.linkSt l = 2 ∧ x.src ≠ none ∧ x.src ≠ some h.src then a.peerChanged l else a
          let y := v.linkLane l
          let frames := if y.src = some h.src ∧ 0 < y.frames then (if y.got then y.frames else y.frames + 1) else 1
          let w := v.setLinkLane l { y with
            frames := frames, src := some h.src, got := true, miss := 0, hdr := if v.linkSt l = 2 then some h else none }
          let r := w.linkPort p
          let first := r.rxTick ≠ some h.tick
          let z := w.setLinkPort p { r with
            got := true, peerGrant := h.credit, peerUp := bit h.flags 3
            consumed := if bit h.flags 3 = true ∧ r.peerUp = false then 0 else r.consumed
            peerUnassigned := bit h.flags 1, rxTick := some h.tick, offset := if first then cycle else r.offset }
          let la := z.linkLane (2 * p)
          let lb := z.linkLane (2 * p + 1)
          let skews := (((lb.cycle : Int) - la.cycle) :: Tbl.get z.tim.skews [] p).take 256
          let k := if ¬ first ∧ la.got = true ∧ lb.got = true then
              { z with tim := { z.tim with skews := Tbl.set z.tim.skews [] p skews } }.setReg (A.TIM_PORT_SKEW p)
                (toW (meanHalfUp skews))
            else z
          let up := k.setLinkSt l 2
          let forms := k.linkSt l = 1 ∧ 8 ≤ frames ∧ k.fon (F.LNP_STAT_PEER_VALID l) = true ∧ k.crossedPeer l = false
          o = .next (if forms then up.setLinkLane l { up.linkLane l with src := some h.src, got := true } else k)))) ∧
    (∀ errored : Bool,
      let o := exec (.sectionReceived l bytes errored) s
      (∀ pre f, x.waiting = pre ++ [f] →
        o = .next (s.setLinkLane l { x with waiting := pre ++ [{ f with sects := f.sects ++ [(bytes, errored)] }] })) ∧
      (x.waiting = [] → (x.hdr = none ∨ x.drop = true ∨ s.linkSt l ≠ 2) → o = .next s) ∧
      (∀ h, x.waiting = [] → s.linkSt l = 2 → x.hdr = some h → x.drop = false →
        let c := parseSect bytes
        let st := copyState bytes errored
        let formed := c.type < 8 ∧ dmodeOk c.type c.dmode = true ∧ (isoType c.type = true → c.seq = h.tick % 65536)
        let u := if c.type = 0 then s else s.setLinkLane l { x with nth := x.nth + 1 }
        let late := q.cut.contains (h.tick, x.nth)
        let q' := { q with await := q.await.filter (fun a => !(decide (a.1 = h.tick) && decide (a.2.2 = x.nth))) }
        let other := fun (k : UsedCopy) => sameCopy h.tick c k && decide (k.path ≠ l % 2) && !k.seen
        let used := (q'.used.filter (fun k => decide (sdiff h.tick k.tick < 16))) ++ [⟨h.tick, l % 2, c, bytes, false⟩]
        let v := u.setLinkPort p { q' with used := used }
        let taken := fun (gap : Bool) => (⟨p, l % 2, h.tick, x.stamps, gap, c⟩ : Taken)
        (st ≠ 0 → o =
          let b := (s.linkCount (if st = 1 then A.LNK_PORT_STOMPED p else A.LNK_PORT_SECT_CRC p) 1).setLinkLane l
            { x with drop := true, nth := x.nth + 1 }
          let y := b.linkLane (2 * p + (1 - l % 2))
          let has := y.hdr.map (·.tick) = some h.tick ∧ x.nth < y.nth
          .next ((if has then b else b.setLinkPort p { q with
            await := (q.await ++ [(h.tick, l % 2, x.nth)]).drop (q.await.length + 1 - 8) }).laneError l 0)) ∧
        (st = 0 → ¬ formed → o = .next (u.linkCount (A.LNK_PORT_SECT_CRC p) 1)) ∧
        (st = 0 → formed → c.type = 0 → o = .next s) ∧
        (∀ k, st = 0 → formed → c.type ≠ 0 → q'.used.find? other = some k →
          let w := u.setLinkPort p { q' with used := (q'.used.erase k) ++ [{ k with seen := true }] }
          o = .next (if k.bytes = bytes then w else (w.linkCount (A.LNK_PORT_AB_MISMATCH p) 1).laneError l 2)) ∧
        (st = 0 → formed → c.type ≠ 0 → q'.used.find? other = none → isoType c.type = true →
          o = .next (v.dispatchSect (taken false) late)) ∧
        (st = 0 → formed → c.type ≠ 0 → q'.used.find? other = none → isoType c.type = false →
          let key := c.type * 2 ^ 24 + c.origin * 2 ^ 8 + c.stream
          let d : Int := (Tbl.get q'.seqs none key).elim 0 (fun e => sdiffN 16 c.seq e)
          let w := if 0 < d then v.linkCount (A.LNK_PORT_SEQ_GAP p) 1 else v
          let z := w.setLinkPort p { w.linkPort p with seqs := Tbl.set (w.linkPort p).seqs none key (some ((c.seq + 1) % 65536)) }
          (d < 0 → o = .next v) ∧ (0 ≤ d → o = .next (z.dispatchSect (taken (decide ((0 : Int) < d))) late))))) ∧
    (∀ u path k rest, q.await = (u, path, k) :: rest → exec (.secondCopyTimeout p) s =
      .next (s.setLinkPort p { q with await := rest, cut := (q.cut ++ [(u, k)]).drop (q.cut.length + 1 - 8) })) ∧
    (q.await = [] → exec (.secondCopyTimeout p) s = .next s)

/-- R261, R273, R275, R276: a port sends at most one frame a tick: at cycle 256 where it starts a chain or stands alone, 512
cycles after the upstream header where it relays, its own sections only where no header came; a BULK section needs credit. -/
def Obligations.ThetexPortsSendOneFrameATick : Prop :=
  ∀ (s : State) (p : Nat), p < 4 →
    let x := s.linkPort p
    let now := s.scnt
    (s.sendsFrames p = false → ∀ i ∈ [Instr.thetexFrameSend p, .relayFrameLaunch p, .relayFrameTimeout p], exec i s = .next s) ∧
    (x.lastTick = some now → exec (.thetexFrameSend p) s = .next s) ∧
    (s.sendsFrames p = true → x.lastTick ≠ some now → s.direction p = none →
      exec (.thetexFrameSend p) s = .next (s.buildFrame p now 256 [] false false)) ∧
    (∀ east, s.sendsFrames p = true → x.lastTick ≠ some now → s.direction p = some east →
      (s.chainOrigin east now = true → exec (.thetexFrameSend p) s =
        .next (s.buildFrame p now 256 (if s.assigned then s.originSpans east now else []) false false)) ∧
      (s.chainOrigin east now = false → exec (.thetexFrameSend p) s = .next s)) ∧
    (∀ east up u, s.sendsFrames p = true → s.direction p = some east → s.upstream east = some up →
      (s.linkPort up).rxTick = some u →
      (s.chainOrigin east u = false → x.lastTick ≠ some u → exec (.relayFrameLaunch p) s =
        .next (s.buildFrame p u ((s.linkPort up).offset + 512) [] false true)) ∧
      (s.chainOrigin east u = true ∨ x.lastTick = some u → exec (.relayFrameLaunch p) s = .next s)) ∧
    (∀ east up, s.sendsFrames p = true → s.direction p = some east → s.upstream east = some up →
      let u := match x.lastTick with | some last => (last + 1) % 2 ^ 32 | none => now
      let due := s.chainOrigin east u = false ∧ (s.linkPort up).rxTick ≠ some u ∧ sdiff u now ≤ 0
      (due → exec (.relayFrameTimeout p) s = .next (s.buildFrame p u ((s.linkPort up).offset + 1536) [] true false)) ∧
      (¬ due → exec (.relayFrameTimeout p) s = .next s)) ∧
    (∀ b rest, x.bulk = b :: rest → s.held .lnk = false → s.portUp p = true → x.peerUp = true →
      let credit := (x.peerGrant + 65536 - x.consumed) % 65536
      let u := s.setLinkPort p { x with bulk := rest, consumed := (x.consumed + credits b.sect) % 65536 }
      (credit < credits b.sect → exec (.bulkSectionSend p) s = .next s) ∧
      (credits b.sect ≤ credit → exec (.bulkSectionSend p) s =
        .next (match b.buf with
          | none => u.setLinkPort p { u.linkPort p with own := (u.linkPort p).own ++ [b.sect] }
          | some o => (u.relayNext p b.sect).freeCredits o b.sect)))

/-- R303, R310 to R312: a slave asks every TX_INT ticks, a master owes an answer to the oldest request, and a slave computes
MDLY and MOFS from the oldest response and steers its timescale. -/
def Obligations.TimeRequestsAndResponsesMeasureATimescale : Prop :=
  ∀ (s : State) (n : Nat), s.held .clk = false → n < 2 →
    (s.held .lnk = false → s.tsSource n = 1 → (s.tsc n).due ≤ s.eng.tick → exec (.timeRequestSend n) s =
      .next (s.setTsc n { s.tsc n with want := true, due := s.eng.tick + max 16 (s.fget (F.TIM_TS_CTRL_TX_INT n)) })) ∧
    ((s.tsSource n ≠ 1 ∨ s.eng.tick < (s.tsc n).due) → exec (.timeRequestSend n) s = .next s) ∧
    (let kind := fun (k : Nat) (t : Taken) => decide (t.sect.type = 5) && decide (leNat (t.sect.payload.take 4) % 2 = k)
     (s.takeFirst (kind 0) = none → exec .timeRequestReceived s = .next s) ∧
     (s.takeFirst (kind 1) = none → exec .timeResponseReceived s = .next s) ∧
     (∀ t u, s.takeFirst (kind 0) = some (t, u) → t.sect.stream = n → s.serves n t.port = true →
       exec .timeRequestReceived s = .next (u.setTsc n { u.tsc n with
         owed := Tbl.set (u.tsc n).owed none t.port (some (timeOf (t.sect.payload.drop 4), (u.rxStamp t n).toNat)) })) ∧
     (∀ t u t1 tick, s.takeFirst (kind 1) = some (t, u) → t.sect.stream = n → (u.tsc n).sent = some (t1, tick) →
       let pl := t.sect.payload
       let t2 : Int := timeOf (pl.drop 16)
       let t3 : Int := timeOf (pl.drop 28)
       let corr := (BitVec.ofNat 64 (leNat ((pl.drop 40).take 8))).toInt
       let t4 := u.rxStamp t n
       let trip := (t4 - t1) - (t3 - t2)
       u.tsSource n = 1 → u.fget (F.TIM_TS_CTRL_UPORT n) = t.port → timeOf (pl.drop 4) = t1 / 2 ^ 16 * 2 ^ 16 →
       u.eng.tick ≤ tick + 8 → 0 ≤ divHalfUp trip 2 →
         let m := divHalfUp ((t2 - t1) - (t4 - t3)) 2 + corr
         let w := (BitVec.ofInt 64 m).toNat
         let v := (u.setReg (A.TIM_TS_MOFS_LO n) (BitVec.ofNat 32 w)).setReg (A.TIM_TS_MOFS_HI n) (BitVec.ofNat 32 (w / 2 ^ 32))
         let z := (v.setReg (A.TIM_TS_MDLY n) (BitVec.ofNat 32 (min (divHalfUp trip 2).toNat (2 ^ 32 - 1)))).setReg
           (A.TIM_TS_MTICK n) (v.reg A.TIM_SCNT)
         exec .timeResponseReceived s =
           .next (((z.setTsc n { z.tsc n with sent := none, last := some z.eng.tick }).measured n).fwServo n m)))

/-- R253, R255, R262, R271, R277, R287, R342: an enabled stream entry takes only the write that clears EN; PORTMAP has at most
one east and one west port; a write of LNK_ADDR makes the address valid; four ticks without an accepted frame lose the link;
the errors that a lane gathered for 60 s are recorded once, and not at all where there are none. -/
def Obligations.LinkRegistersAndLossesFollowTheirRules : Prop :=
  (∀ (s : State) (p m k : Nat) (v : W32), s.held .lnk = false → p < 4 → m < 256 → k < 4 →
     let off := fun (tx : Bool) => (if tx then A.LNK_TX_W0 p m else A.LNK_RX_W0 p m) + 4 * k
     let en := fun (tx : Bool) => s.fon (if tx then F.LNK_TX_W0_EN p m else F.LNK_RX_W0_EN p m)
     let rejected := fun (tx : Bool) => s.fset (if tx then F.LNK_TX_W2_CFG_REJ p m else F.LNK_RX_W3_CFG_REJ p m) 1
     (∀ tx, 2 ≤ k → exec (.laneStreamEntryWrite tx p m k v) s = .next (s.writePlain (off tx) v)) ∧
     (∀ tx, k < 2 → en tx = false →
       let t := s.writePlain (off tx) v
       (breaksBinding s t = false → exec (.laneStreamEntryWrite tx p m k v) s = .next t) ∧
       (breaksBinding s t = true → exec (.laneStreamEntryWrite tx p m k v) s = .next (rejected tx))) ∧
     (∀ tx, k = 1 → en tx = true → exec (.laneStreamEntryWrite tx p m k v) s = .next (rejected tx)) ∧
     (∀ tx (d : RegDef), k = 0 → en tx = true → regDef (off tx) = some d →
       let rw := d.mask (fun a => decide (a = .rw))
       let same := ((s.reg (off tx)).toNat &&& rw) / 2 = (v.toNat &&& rw) / 2
       (same → v.getLsbD 0 = false → exec (.laneStreamEntryWrite tx p m k v) s = .next (s.writePlain (off tx) v)) ∧
       (¬ same ∨ v.getLsbD 0 = true → exec (.laneStreamEntryWrite tx p m k v) s = .next (rejected tx))) ∧
     exec (.laneStreamRefill p m) s = .next (s.laneRefill (256 * p + m)) ∧
     exec (.spanEnWrite k v) s = .next (s.writePlain (A.LNK_SPAN_EN k) v) ∧
     exec (.addrWrite v) s = .next ((s.writePlain A.LNK_ADDR v).fset F.LNK_ADDR_VALID 1) ∧
     (let role := fun (j : Nat) => v.toNat / 4 ^ j % 4
      ((∃ i < 4, ∃ j < 4, i ≠ j ∧ role i = role j ∧ (role i = 1 ∨ role i = 2)) → exec (.portmapWrite v) s = .next s) ∧
      ((∀ i < 4, ∀ j < 4, i ≠ j → role i = 1 ∨ role i = 2 → role i ≠ role j) →
        exec (.portmapWrite v) s = .next (s.writePlain A.LNK_PORTMAP v)))) ∧
  (∀ (s : State) (l : Nat), s.held .lnk = false → l < 8 →
     let x := s.linkLane l
     (s.linkSt l = 2 → 4 ≤ x.miss → exec (.linkLost l) s = .next ((s.setLinkSt l 1).linkLost l)) ∧
     ((s.linkSt l ≠ 2 ∨ x.miss < 4) → exec (.linkLost l) s = .next s) ∧
     (x.gather = false → exec (.laneErrorsSummary l) s = .next s) ∧
     (x.gather = true →
       let u := s.setLinkLane l { x with errs := [0, 0, 0, 0], gather := false }
       ((∀ e ∈ x.errs, e = 0) → exec (.laneErrorsSummary l) s = .next u) ∧
       ((∃ e ∈ x.errs, e ≠ 0) → exec (.laneErrorsSummary l) s = .next (u.record 0x504 l x.errs))))

/-! ### The Yard, Stall locks, Weevil, bulk memory and its arbiter -/

/-- R7, R8, R13, R381, R418: a misaligned or wide access is aborted; a register access writes or reads the register and replies;
it is refused, logged with CAUSE 2 and aborted, while the register's domain goes idle for a reset; an unallocated offset reaches
the default target, which logs it; a held domain ignores writes. What the host sees of the refusal is the model's reading (log
entry 131). -/
def Obligations.RegisterAccessesReplyOrAbort : Prop :=
  ∀ (s : State) (a : BusAccess) (v : W32),
    let rid := masterRid a.master
    let aborted := fun (u : State) => Host.Outcome.next { u with reply := { abort := true, data := 0 } }
    ((a.size ≠ 4 ∨ a.off % 4 ≠ 0) → ∀ i ∈ [Instr.registerWrite a v, .readClear a, .snapshotRead a], exec i s = aborted s) ∧
    (a.size = 4 → a.off % 4 = 0 → a.off < 0x1000000 → allocated a.off = true →
      ∃ d, regDef a.off = some d ∧
        (s.quiescing d.dom = false →
          exec (.registerWrite a v) s = .next { s.writeReg rid a.off v with reply := {} } ∧
          (∀ i ∈ [Instr.readClear a, .snapshotRead a], exec i s =
            let r := s.readReg a.master rid a.off
            .next { r.2 with reply := { abort := false, data := r.1 } }) ∧
          (s.held d.dom = true → exec (.registerWrite a v) s = .next { s with reply := {} })) ∧
        (s.quiescing d.dom = true →
          exec (.registerWrite a v) s = aborted (s.yardErr a.master a.queue 1 2 (0x10000000 + a.off)) ∧
          (∀ i ∈ [Instr.readClear a, .snapshotRead a], exec i s =
            aborted (s.yardErr a.master a.queue 0 2 (0x10000000 + a.off))))) ∧
    (a.size = 4 → a.off % 4 = 0 → a.off < 0x1000000 → allocated a.off = false →
      exec (.registerWrite a v) s = aborted (s.yardErr a.master a.queue 1 0 (0x10000000 + a.off)) ∧
      (∀ i ∈ [Instr.readClear a, .snapshotRead a], exec i s = aborted (s.yardErr a.master a.queue 0 0 (0x10000000 + a.off)))) ∧
    (a.size = 4 → a.off % 4 = 0 → 0x1000000 ≤ a.off → a.off < 0x1004000 → a.master = 13 →
      exec (.registerWrite a v) s = .next { s.writeBar2 (a.off - 0x1000000) v with reply := {} } ∧
      (∀ i ∈ [Instr.readClear a, .snapshotRead a], exec i s =
        .next { s with reply := { abort := false, data := s.readBar2 (a.off - 0x1000000) } }))

/-- R345 to R356, R438: a transaction that its master may issue is granted and answered, free data where a read beat was not
performed (R348), unless another master's exclusive sequence holds its Stall, where it waits; a beat reads or writes its Stall or
bulk doubleword where OWNER, R350 and R367 allow, and is refused elsewhere; a record of the Loft with an uncorrectable error is
counted once and reads as CODE FFFFh (its other bytes are free, log entry 132); the default target answers UNMAPPED. -/
def Obligations.YardTransactionsAreGrantedAndAnswered : Prop :=
  ∀ (s : State) (t : YardTx), s.held .mem = false → s.yard.waiting = [] →
    (s.txIssues t = true → s.txBlocked t = false →
      let r := (s.noteGrant t).serveTx t
      let d := r.2.undefinedData t.kind r.1.length
      let seen := (r.1.zipIdx).map (fun x => (x.1.status, if 2 ≤ x.1.status then d.1.getD x.2 0 else x.1.data))
      exec (.yardTransaction [t]) s = .next { d.2 with yard := { d.2.yard with
        waiting := [], answers := [⟨t.master, t.addr, seen⟩] } }) ∧
    (s.txIssues t = true → s.txBlocked t = true → exec (.yardTransaction [t]) s =
      .next { s with yard := { s.yard with waiting := [t], answers := [] } }) ∧
    (s.txIssues t = false → exec (.yardTransaction [t]) s =
      .next { s with yard := { s.yard with waiting := [], answers := [] } }) ∧
    (∀ (a : Nat) (b : YardBeat), s.targetShut 18 = false → yardTarget a = 18 → t.kind = 0 → b.chk = .double →
      let r := a / 32 * 32
      let lost := leAt s.mem r 2 = 0xFFFF
      let u := if lost then s else ({ s with mem := setLe s.mem r 2 0xFFFF } : State).bump A.TST_LOFT_LOST
      let d := u.draw 64
      s.beat t a b = ({ data := if a = r then d.1 / 65536 * 65536 + 0xFFFF else d.1 }, d.2)) ∧
    (∀ (a : Nat) (b : YardBeat), s.targetShut (yardTarget a) = false → b.chk = .clean →
      let k := a / 0x40000
      let old := leNat ((List.range 8).map (fun i => (s.stallByte (a + i)).toNat))
      let shut := s.ownerRefuses k t.master t.kind
      let ba := s.fget (F.YRD_MST_BWIN t.master) * 2 ^ 31 + (a - 0x80000000)
      let usable := s.fon F.BLK_STAT_READY = true ∧ ba + 8 ≤ s.bulkBytes
      (yardTarget a = 19 → s.beat t a b = (unmapped, s)) ∧
      (yardTarget a < 12 → 64 ≤ k → k < 96 → shut = true → t.kind ≠ 2 → s.beat t a b = (refuse 1, s)) ∧
      (yardTarget a < 12 → 64 ≤ k → k < 96 → shut = false → t.kind = 0 → s.beat t a b = ({ data := old }, s)) ∧
      (yardTarget a < 12 → 64 ≤ k → k < 96 → shut = false → t.kind = 1 → s.beat t a b =
        ({}, s.setStallBytes a (leBytes 8 (mergeBytes old b.data.toNat b.strobe.toNat)))) ∧
      (yardTarget a = 12 → ¬ usable → s.beat t a b = (refuse 2, s)) ∧
      (yardTarget a = 12 → usable → t.kind = 0 → s.inDelayRegion ba = false → s.beat t a b = ({ data := leAt s.bulk ba 8 }, s)) ∧
      (yardTarget a = 12 → usable → t.kind = 1 → s.beat t a b =
        ({}, { s with bulk := setLe s.bulk ba 8 (mergeBytes (leAt s.bulk ba 8) b.data.toNat b.strobe.toNat) })))

/-- R353, R354, R357 to R360: a lock request meets R358's rows in order; a release frees the lock for its oldest waiter; a
hold that times out is broken; a write of OWNER of Stalls 64 to 95 begins a handover that completes when the Stall's
transactions are done. -/
def Obligations.StallLocksAndOwnersChangeHands : Prop :=
  ∀ (s : State) (rid queue k : Nat), s.held .mem = false → k < 256 →
    (∀ o, ridOwner rid queue = some o →
      let result := fun (u : State) (res why : Nat) =>
        Host.Outcome.next (u.setLockReq o { result := res, reason := why, broken := false, lock := k })
      let above := ∃ j < 256, k < j ∧ s.lockHeldBy j o = true
      let free := s.fget (F.MEM_LOCK_STATE k) = 0 ∧ s.lockWaiters k = []
      let req := exec (.lockRequest rid queue k) s
      let rel := exec (.lockRelease rid queue k) s
      (above → req = result s 3 1) ∧ (¬ above → s.lockHeldBy k o = true → req = result s 3 2) ∧
      (¬ above → s.lockHeldBy k o = false → s.lockPending o = true → req = result s 3 3) ∧
      (¬ above → s.lockHeldBy k o = false → s.lockPending o = false → free → req = .next (s.grantLock k o)) ∧
      (¬ above → s.lockHeldBy k o = false → s.lockPending o = false → ¬ free →
        req = result (s.setWaiters k (s.lockWaiters k ++ [o])) 1 0) ∧
      (s.lockHeldBy k o = true →
        let r := s.lockReq o
        rel = .next ((if r.lock = k then s.setLockReq o { r with result := 0 } else s).freeLock k)) ∧
      (s.lockHeldBy k o = false → o ∈ s.lockWaiters k → rel =
        .next ((s.setWaiters k ((s.lockWaiters k).filter (fun x => x ≠ o))).setLockReq o { lock := k })) ∧
      (s.lockHeldBy k o = false → o ∉ s.lockWaiters k → rel = .next s)) ∧
    (ridOwner rid queue = none → exec (.lockRequest rid queue k) s = .next s ∧ exec (.lockRelease rid queue k) s = .next s) ∧
    (s.fget (F.MEM_LOCK_STATE k) = 1 → exec (.lockTimeout k) s = .next (s.breakLock k 2)) ∧
    (s.fget (F.MEM_LOCK_STATE k) ≠ 1 → exec (.lockTimeout k) s = .next s) ∧
    (∀ j o, 64 ≤ j → j < 96 → (o < 24 ∨ (29 ≤ o ∧ o ≤ 31)) → exec (.stallHandover j o) s =
      .next ({ s with yard := { s.yard with handover := Tbl.set s.yard.handover none j (some o) } }.fset (F.MEM_STALL_PEND j) 1)) ∧
    (∀ j o, (j < 64 ∨ 96 ≤ j ∨ 31 < o ∨ (24 ≤ o ∧ o ≤ 28)) → exec (.stallHandover j o) s = .next s) ∧
    (∀ j o, Tbl.get s.yard.handover none j = some o → (Tbl.get s.yard.excl none j = none →
        exec (.handoverComplete j) s =
          .next (({ s with yard := { s.yard with handover := Tbl.set s.yard.handover none j none } }.fset
            (F.MEM_STALL_OWNER j) o).fset (F.MEM_STALL_PEND j) 0)) ∧
      (Tbl.get s.yard.excl none j ≠ none → exec (.handoverComplete j) s = .next s))

/-- R362 to R370, R379: Weevil's windows and passes, the settings and the training of bulk memory, and the refill of a bulk
delay line. -/
def Obligations.WeevilPassesAndBulkTraining : Prop :=
  ∀ s : State, s.held .mem = false →
    let secs := (s.now - s.weevil.start) / 1024
    (∀ p, p < 12 → exec (.weevilShareWindow p) s =
      .next { s with weevil := { s.weevil with had := Tbl.set s.weevil.had 0 p 0 } }) ∧
    (s.fon F.MEM_WV_CTRL_EN = true → (∀ p < 12, 4160 ≤ s.wvPos p) →
      let u := (s.count F.MEM_WV_PASS_COUNT 1).fset F.MEM_WV_PASS_LAST (min secs 65535)
      (secs ≤ u.wvPeriod → exec .weevilPassDone s = .next (u.fset F.MEM_WV_STAT_COVERAGE_LATE 0).startPass) ∧
      (u.wvPeriod < secs → exec .weevilPassDone s = .next u.startPass)) ∧
    ((s.fon F.MEM_WV_CTRL_EN = false ∨ ∃ p < 12, s.wvPos p < 4160) → exec .weevilPassDone s = .next s) ∧
    (s.wvPeriod < secs → s.weevil.noted = false → exec .coverageLate s =
      .next (({ s with weevil := { s.weevil with noted := true } }.fset F.MEM_WV_STAT_COVERAGE_LATE 1).record 0x306 0 [secs])) ∧
    ((secs ≤ s.wvPeriod ∨ s.weevil.noted = true) → exec .coverageLate s = .next s) ∧
    (∀ v : W32,
      let t := s.writePlain A.BLK_CFG v
      let same := t.fget F.BLK_CFG_SIZE = s.fget F.BLK_CFG_SIZE ∧ t.fget F.BLK_CFG_RATE = s.fget F.BLK_CFG_RATE
      let empty := s.slotState 0 = 0 ∧ s.slotState 1 = 0
      (same → exec (.blkCfgWrite v) s = .next t) ∧ (¬ same → ¬ empty → exec (.blkCfgWrite v) s = .next s) ∧
      (¬ same → empty → exec (.blkCfgWrite v) s = .next
        (({ t with bulk := [], blk := { t.blk with training := false } }.fset F.BLK_STAT_READY 0).fset F.BLK_STAT_TRAIN_FAIL 0))) ∧
    (∀ v : W32,
      let used := ∃ k < 2, ∃ n ∈ (s.slot k).prog.nodes, n.type = T.bulkDly
      (¬ used → exec (.blkDlyBaseWrite v) s = .next (s.writePlain A.BLK_DLY_BASE v)) ∧
      (used → exec (.blkDlyBaseWrite v) s = .next s)) ∧
    (∀ density, s.held .ctl = false → s.fon F.BLK_STAT_READY = false → s.fon F.BLK_STAT_TRAIN_FAIL = false →
      s.blk.training = false →
      let u := if s.blk.trained = false ∧ s.fon F.BLK_CFG_LOCK = false then s.fset F.BLK_CFG_SIZE (density % 4) else s
      exec (.bulkTrainingStart density) s = .next { u with blk := { u.blk with training := true, trained := true } }) ∧
    (∀ pass : Bool, s.blk.training = true → exec (.bulkTrainingDone pass) s =
      .next ({ s with blk := { s.blk with training := false } }.fset (if pass then F.BLK_STAT_READY else F.BLK_STAT_TRAIN_FAIL) 1)) ∧
    (∀ k i, s.works k →
      let x := s.slot k
      let st := x.node i
      let ty := (x.prog.node i).type
      (st.starved = true → (ty = T.bulkDly ∨ ty = T.srcVoice) → exec (.bulkRefill k i) s =
        .next (s.setSlot k (x.setNode i { st with starved := false, fade := fadeTo st.fade unity 64 }))) ∧
      ((st.starved = false ∨ (ty ≠ T.bulkDly ∧ ty ≠ T.srcVoice)) → exec (.bulkRefill k i) s = .next s))

/-- R371 to R377: a request stands with its deadline and the arbiter evaluates it, an end of a burst frees the port for the
next contest, a loser returns after its back-off, a window and a BIAS take effect. -/
def Obligations.TheBulkArbiterTakesRequests : Prop :=
  ∀ (s : State) (r cycle : Nat), s.held .mem = false → r < 8 →
    let cyc := s.ecnt + cycle
    (∀ deadline beats, 1 ≤ beats → beats ≤ 16 → s.arbReq r = none →
      let d := if r < 4 then deadline % 2 ^ 20 else (cyc / 64 + s.fget (F.YRD_ARB_AGE_VALUE r)) % 2 ^ 20
      exec (.bulkRequest r deadline beats cycle) s = .next ((s.setArbReq r (some ⟨d, beats, true, 0⟩)).arbEval cyc)) ∧
    (∀ deadline beats, (s.arbReq r ≠ none ∨ beats = 0 ∨ 16 < beats) → exec (.bulkRequest r deadline beats cycle) s = .next s) ∧
    (s.portIdle = true → exec (.bulkBurstDone cycle) s = .next s) ∧
    (∀ q, s.portIdle = false → s.arbReq s.portOwner = some q →
      let u := s.setArbReq s.portOwner none
      let v := if s.portOwner = 7 then { u with blk := { u.blk with had := u.blk.had + q.beats } } else u
      let w := v.fset F.YRD_ARB_GRANT_IDLE 1
      exec (.bulkBurstDone cycle) s = .next ((w.arbWake (v.ecnt + cycle)).arbContest (v.ecnt + cycle))) ∧
    (∀ q, s.arbReq r = some q →
      (q.here = false → q.till ≤ cyc → exec (.backoffExpiry r cycle) s = .next (s.arbEval cyc)) ∧
      ((q.here = true ∨ cyc < q.till) → exec (.backoffExpiry r cycle) s = .next s)) ∧
    exec .arbWindow s = .next { s with blk := { s.blk with had := 0 } } ∧
    (∀ v : W32,
      let u := s.writePlain (A.YRD_ARB_BIAS r) v
      (u.portIdle = true → exec (.arbBiasWrite r v cycle) s = .next u) ∧
      (u.portIdle = false → exec (.arbBiasWrite r v cycle) s = .next (u.arbPreempt (u.ecnt + cycle + 1))))

/-! ### Audio ports, microphones and the test access port -/

/-- R215 to R219, R221, R223, R227: RUN and the port's own events move it through its state table; a CFG write takes effect
only while it is STOPPED and breaks no binding; a COMMIT arms, and the latch point takes the masks or refuses them. -/
def Obligations.PortsFollowTheirStateTable : Prop :=
  ∀ (s : State) (p : Nat), s.held .apt = false → p < 16 →
    let st := s.portState p
    let x := s.port p
    let mode := s.portMode p
    let rxm := s.fget (F.APT_PORT_RXACT_MASK p)
    let txm := s.fget (F.APT_PORT_TXACT_MASK p)
    (st = 0 → s.portRunReason p = 0 → exec (.portRun p) s = .next ((s.setPortState p 1).fset (F.APT_PORT_CTRL_RUN p) 1)) ∧
    (st = 0 → s.portRunReason p ≠ 0 → exec (.portRun p) s =
      .next ((s.fset (F.APT_PORT_STAT_CFG_REJ p) 1).fset (F.APT_PORT_STAT_CFG_REASON p) (s.portRunReason p))) ∧
    (st = 1 ∨ st = 2 → exec (.portRun p) s = .next s) ∧
    (st = 3 → exec (.portRun p) s = .next ((s.setPortState p 1).fset (F.APT_PORT_CTRL_RUN p) 1)) ∧
    (st = 0 ∨ st = 3 → exec (.portStop p) s = .next s) ∧
    (st = 1 ∨ st = 2 →
      let down := fun (sl : SlotSt) => if x.tx.faded = true ∧ sl.ph ≠ .fadeOut then { sl with ph := .silent, fade := none }
        else sl.stopDown s.eng.tick
      exec (.portStop p) s = .next (((s.setPort p { x with
        rx := { x.rx with acts := x.rx.acts ++ [.stop rxm s.eng.tick] }, tx := x.tx.modEnabled txm down
        quiet := 0 }).setPortState p 3).fset (F.APT_PORT_CTRL_RUN p) 0)) ∧
    (let may := (mode = 0 → x.clk = true) ∧ (mode = 1 → 2 ≤ x.good) ∧ (2 ≤ mode → s.fon (F.APT_PORT_STAT_ASRC_LOCK p) = true)
     let r := s.asrcMask p rxm
     let t := s.asrcMask p txm
     let anew := fun (d : PortDir) => if d.primed = true ∧ d.starved = false then d
       else { d with queue := [], ready := [], line := [], primed := false, starved := false, fade := none, pos := 0 }
     let tx := anew (x.tx.modEnabled t (fun sl => sl.startUp s.eng.tick x.tx.starved))
     (s.canonical = true → st = 1 → may → exec (.portRunning p) s =
       .next ((((s.fset (F.APT_PORT_RXACT_MASK p) r).fset (F.APT_PORT_TXACT_MASK p) t).setPort p { x with
         rx := { anew x.rx with acts := (anew x.rx).acts ++ [.start r s.eng.tick x.rx.starved] }
         tx := { tx with queue := if mode = 0 then x.tx.queue else tx.queue }, good := 0, quiet := 0 }).setPortState p 2)) ∧
     (st ≠ 1 ∨ ¬ may → exec (.portRunning p) s = .next s)) ∧
    (let ended := st = 3 ∧ x.rx.silent = true ∧ x.tx.silent = true ∧ 2 ≤ x.quiet
     let idle := fun (d : PortDir) (q : List QFrame) => { d with
       queue := q, ready := [], line := [], primed := false, starved := false, fade := none, last := [], pos := 0 }
     (ended → exec (.portStopped p) s = .next ((s.setPort p
       { rx := idle x.rx [], tx := idle x.tx (if mode = 0 then x.tx.queue else []) }).setPortState p 0)) ∧
     (¬ ended → exec (.portStopped p) s = .next s)) ∧
    (st = 2 → mode ≠ 0 →
      let dry := fun (d : PortDir) =>
        { d with starved := true, fade := if d.starved then d.fade else fadeTo d.fade 0 16, queue := [], line := [] }
      exec (.portClockLost p) s = .next (((((s.setPort p { x with rx := dry x.rx, tx := dry x.tx, good := 0 }).setPortState
        p 1).fset (F.APT_PORT_STAT_CLK_LOST p) 1).fset (F.APT_PORT_STAT_ASRC_LOCK p) 0).setReg (A.APT_PORT_ASRC p) 0)) ∧
    (st ≠ 2 ∨ mode = 0 → exec (.portClockLost p) s = .next s) ∧
    (∀ ratio, mode ≠ 2 ∨ st = 0 → exec (.asrcLock p ratio) s = .next s) ∧
    (∀ ratio, mode = 2 → st ≠ 0 → exec (.asrcLock p ratio) s =
      .next ((s.fset (F.APT_PORT_STAT_ASRC_LOCK p) (if ratio = 0 then 0 else 1)).setReg (A.APT_PORT_ASRC p) (BitVec.ofNat 32 ratio))) ∧
    (∀ (fofs : Bool) (v : W32),
      let t := s.writePlain (if fofs then A.APT_PORT_FOFS p else A.APT_PORT_CFG p) v
      let rejected := fun (why : Nat) => Host.Outcome.next
        ((s.fset (F.APT_PORT_STAT_CFG_REJ p) 1).fset (F.APT_PORT_STAT_CFG_REASON p) why)
      (st ≠ 0 → exec (.portCfgWrite p fofs v) s = rejected 1) ∧
      (st = 0 → breaksBinding s t = true → exec (.portCfgWrite p fofs v) s = rejected 2) ∧
      (st = 0 → breaksBinding s t = false → exec (.portCfgWrite p fofs v) s = .next t)) ∧
    (let u := s.fset (F.APT_PORT_STAT_ARMED p) 1
     (x.latched = false → exec (.maskCommit p) s = .next u) ∧
     (x.latched = true → exec (.maskCommit p) s = .next ((u.fset (F.APT_PORT_STAT_LATE p) 1).bump (A.APT_PORT_LATE_CNT p)))) ∧
    (let armed := s.fon (F.APT_PORT_STAT_ARMED p)
     let u := s.fset (F.APT_PORT_STAT_ARMED p) 0
     let r := u.fget (F.APT_PORT_RXMASK_MASK p)
     let t := u.fget (F.APT_PORT_TXMASK_MASK p)
     let n := u.portSlots p
     let bad := 2 ^ n ≤ r ∨ 2 ^ n ≤ t ∨ (u.portMode p = 2 ∧ (16 < popCount r ∨ 16 < popCount t))
     (st = 0 → exec (.maskLatch p) s = .next s) ∧
     (st ≠ 0 → armed = false → exec (.maskLatch p) s = .next (s.setPort p { x with latched := true })) ∧
     (st ≠ 0 → armed = true → bad → exec (.maskLatch p) s =
       .next ((u.setPort p { x with latched := true }).fset (F.APT_PORT_STAT_MASK_REJ p) 1)) ∧
     (st ≠ 0 → armed = true → ¬ bad → exec (.maskLatch p) s = .next (u.setPort p { x with
       latched := true, rx := { x.rx with mask := some r }, tx := { x.tx with mask := some t } })))

/-- R206, R207, R211, R214, R218, R220, R222, R226: a received frame enters its queue with what its slots meet, and loses the
oldest frame of a full one; a launched frame leaves its queue, or the slots repeat their last words and fade; waits for zero
crossings, refills, and the microphones' masks, rate and settling. A mode 1 queue's reader takes a frame for each that arrives,
which is the model's choice (log entry 118). -/
def Obligations.PortFramesAndMicrophonesMove : Prop :=
  ∀ s : State, s.held .apt = false →
    (∀ p levels, p < 16 → s.pinsCut = false →
      let x := s.port p
      let right := levels.length = s.frameBits p ∨ s.portMode p = 0
      let xs := s.frameSamples p levels
      let o := exec (.portFrameReceived p levels) s
      (s.portState p = 0 → o = .next s) ∧
      (s.portState p = 1 →
        let u := s.setPort p { x with good := if right then x.good + 1 else 0, latched := false }
        let goes := x.rx.primed = true ∧ x.rx.starved = false ∧ right
        (goes → o = .next ((u.pushPort p xs).applyMask p false)) ∧ (¬ goes → o = .next (u.applyMask p false))) ∧
      (2 ≤ s.portState p → ¬ right → o = .next (s.losePortClock p)) ∧
      (2 ≤ s.portState p → right → o = .next (((s.setPort p { x with latched := false }).pushPort p xs).applyMask p false))) ∧
    (∀ p (xs : List Int), p < 16 → s.canonical = true →
      let x := s.port p
      let q := x.rx.queue
      let f : QFrame := { acts := x.rx.acts, xs := xs }
      let full := s.portDepth p ≤ q.length
      let d : PortDir := { x.rx with acts := [], queue := (if full then q.drop 1 else q) ++ [f] }
      (s.portMode p = 0 → s.pushPort p xs = s.setPort p { x with rx := d }) ∧
      (2 ≤ s.portMode p →
        let u := s.setPort p { x with rx := d.refill (s.portFill p) }
        s.pushPort p xs = if full then u.bump (A.APT_PORT_RX_OVER p) else u) ∧
      (s.portMode p = 1 → x.rx.ready.length < s.portM p → x.rx.primed = true → x.rx.starved = false → q.length ≤ s.portDepth p →
        let v := (s.setPort p { x with rx := { x.rx with acts := [], queue := q ++ [f] } }).readPort p
        s.pushPort p xs = v.setPort p { v.port p with rx := (v.port p).rx.refill (s.portFill p) })) ∧
    (∀ p, p < 16 →
      let u := s.applyMask p true
      let x := u.port p
      let n := u.portSlots p
      let stopping := decide (u.portState p = 3)
      let quiet := if x.tx.silent = true ∧ x.rx.silent = true then x.quiet + 1 else 0
      let off := s.portState p = 0 ∨ (s.portMode p = 0 ∧ ((s.port p).clk = false ∨ s.portM p ≤ (s.port p).sent))
      let sent := fun (v : State) (o : List Int × PortDir) => Host.Outcome.next ((v.setPort p { x with
        tx := o.2, out := v.sdoFrame p o.2 o.1, latched := false, quiet := quiet, sent := x.sent + 1 }).feedTx p)
      let o := exec (.portFrameTransmit p) s
      (off → o = .next s) ∧
      (¬ off → u.portMode p = 0 → o = sent u (({ x.tx with queue := x.tx.queue.drop 1 } : PortDir).play n u.eng.tick stopping
        ((x.tx.queue.head?.map (·.xs)).getD (List.replicate n 0)))) ∧
      (¬ off → u.portMode p ≠ 0 →
        let met : PortDir := { x.tx.takeActs x.tx.acts with acts := [] }
        let dried : PortDir := { met with starved := true, fade := fadeTo x.tx.fade 0 16 }
        (x.tx.primed = false → o = sent u (List.replicate n 0, x.tx)) ∧
        (x.tx.primed = true → x.tx.starved = true → o = sent u (met.play n u.eng.tick stopping x.tx.last)) ∧
        (x.tx.primed = true → x.tx.starved = false → x.tx.queue = [] →
          o = sent (u.bump (A.APT_PORT_TX_UNDER p)) (dried.play n u.eng.tick stopping x.tx.last)) ∧
        (∀ f rest, x.tx.primed = true → x.tx.starved = false → x.tx.queue = f :: rest →
          o = sent u ((({ x.tx with queue := rest } : PortDir).takeActs f.acts).play n u.eng.tick stopping f.xs))) ∧
      (2 ≤ s.portState p → s.portMode p ≠ 0 → exec (.portRefill p) s = .next (s.setPort p { s.port p with
        rx := (s.port p).rx.refill (s.portFill p), tx := (s.port p).tx.refill (s.portFill p) })) ∧
      (s.portState p < 2 ∨ s.portMode p = 0 → exec (.portRefill p) s = .next s) ∧
      (∀ k,
        let f := fun (sl : SlotSt) => sl.timeout (s.eng.tick + 1) (max (s.fget (F.APT_PORT_ZC_TIMEOUT p)) 1)
        let y := s.port p
        exec (.slotZcTimeout p true k) s = .next (s.setPort p { y with tx := y.tx.modSlot k f }) ∧
        exec (.slotZcTimeout p false k) s = .next (s.setPort p { y with rx := y.rx.modSlot k f }))) ∧
    (∀ m, m < 32 → exec (.pdmSettleEnd m) s = .next (s.setMic m ((s.mic m).settleAt (s.eng.tick + 1)))) ∧
    (∀ v : W32,
      let old := s.reg A.APT_PDM_MASK
      let u := s.writePlain A.APT_PDM_MASK v
      exec (.pdmMaskWrite v) s = .next (forEach (List.range 32) u (fun w m =>
        let x := w.mic m
        if v.getLsbD m = true ∧ old.getLsbD m = false then
          w.setMic m (if x.run then { x with fade := fadeTo x.fade unity 64 }
            else { run := true, settle := some (w.eng.tick + 1 + w.fget F.APT_PDM_CTRL_SETTLE) })
        else if v.getLsbD m = false ∧ old.getLsbD m = true then
          w.setMic m (if x.settle.isSome then {} else { x with fade := fadeTo x.fade 0 64 })
        else w))) ∧
    (∀ v : W32,
      let same := v.toNat / 2 ^ 16 % 2 = s.fget F.APT_PDM_CTRL_PDM_RATE
      (same ∨ s.reg A.APT_PDM_MASK = 0 → exec (.pdmCtrlWrite v) s = .next (s.writePlain A.APT_PDM_CTRL v)) ∧
      (¬ same → s.reg A.APT_PDM_MASK ≠ 0 → exec (.pdmCtrlWrite v) s = .next (s.record 0x803 0 [v.toNat])))

/-- R469, R470: each opcode of the test access port selects its instruction and data register, and changes nothing else of
the block; every other opcode selects BYPASS. The captured pin states are free. -/
def Obligations.TheTestPortSelectsItsDataRegister : Prop :=
  ∀ s : State,
    let idcode := 0x1 * 2 ^ 28 + 0x0600 * 2 ^ 12 + 0x2F5 * 2 + 1
    let scans := fun (i : Instr) (ir : JtagIr) (v : Nat) =>
      exec i s = .next { s with jtag := { s.jtag with ir := ir, captured := v } }
    (∀ cells : List Bool, ∃ v < 2 ^ cells.length, ∀ x ∈ [(Instr.extest cells, JtagIr.extest), (.samplePreload cells, .samplePreload),
        (.extestPulse cells, .extestPulse), (.extestTrain cells, .extestTrain)],
      exec x.1 s = .next { s with freeCtr := s.freeCtr + 1, jtag := ⟨x.2, cells, v⟩ }) ∧
    scans .idcode .idcode idcode ∧ scans .testLogicReset .idcode idcode ∧ scans .highz .highz 0 ∧ scans .clamp .clamp 0 ∧
    (∀ op, 6 < op → op < 256 → scans (.bypass op) .bypass 0) ∧ (∀ op, op ≤ 6 → exec (.bypass op) s = .next s)

/-! ### Ethernet, RTP and link management -/

/-- R245, R247, R308, R312, R313, R315, R398: a received frame is checked and goes to its RTP stream or to the host; event
messages are timestamped; a frame-send entry leaves, waits for its launch time or for stream packets, or completes with its error
(that of a unicast entry for a role-0 port is the model's choice, log entry 121); a timed frame leaves at its time, or is late. -/
def Obligations.EthernetFramesAndTimestamps : Prop :=
  ∀ (s : State) (l at_ : Nat), l < 8 → s.thetex (l / 2) = false → s.held .lnk = false →
    (∀ bytes : List Nat, s.fon (F.LNP_STAT_LANE_UP l) = true →
      let n := bytes.length
      let bs := bytes.take (n - 4)
      let good := 4 ≤ n ∧ fcs bs = leNat (bytes.drop (n - 4))
      let sized := 64 ≤ n ∧ n ≤ 1522
      let o := exec (.ethFrameReceived l bytes at_) s
      let u := s.bump (A.LNP_ETH_RXF l)
      let t := u.mainAt at_ - u.inLat l
      (¬ good → sized → o = .next (s.bump (A.LNP_ETH_FCS l))) ∧
      (good → ¬ sized → o = .next (s.bump (A.LNP_ETH_DROP l))) ∧
      (good → sized → s.macTakes l (beAt bs 0 6) = false → o = .next s) ∧
      (good → sized → s.macTakes l (beAt bs 0 6) = true → udpOf bs = none → ptpOf bs = none → o = .next (u.frameToHost l t bs)) ∧
      (∀ d r i, good → sized → s.macTakes l (beAt bs 0 6) = true → udpOf bs = some d → rtpOf d.data = some r →
        (List.range 64).find? (fun i => u.rtpMatches i l (etherHead bs).1 d r) = some i →
        (d.sum ≠ 0 → checksumOk d.covered = false → o = .next (u.bump (A.LNP_ETH_DROP l))) ∧
        (d.sum = 0 ∨ checksumOk d.covered = true → o = .next (u.rtpAccept i r.ts r.seq r.ssrc
          (rtpFrames (u.fget (F.RTP_RX_W0_FORMAT i)) (u.fget (F.RTP_RX_W0_CHANNELS i) + 1) r.payload))))) ∧
    (∀ (tx : Bool) kind domain seq, s.held .clk = false → bit (s.fget F.TIM_PTP_LANE_EN) l = true → ptpEvent kind = true →
      let lat := if tx then s.egLat l else -(s.inLat l)
      let u := s.stamp ⟨l, tx, kind, domain, seq, s.tsAt 0 at_ + lat, s.tsAt 1 at_ + lat⟩
      let v := if tx = true ∧ u.transmits l = true then u.bump (A.LNP_ETH_TXF l) else u
      exec (.ptpEventMessage l tx kind domain seq at_ none) s = .next v ∧
      (∀ n o, v.ptpTimescale domain = some n → v.tsSource n = 2 →
        exec (.ptpEventMessage l tx kind domain seq at_ (some o)) s = .next (v.fwServo n o))) ∧
    (s.held .hif = false → s.ringHasEntry 5 = true → s.backlogged = false →
      let bs := bytesAt s.host (s.ringAddr 5 (s.ringEng 5)) 2048
      let e := parseSend bs (s.ringEng 5)
      let u := s.consumed 5
      let o := fun ok => exec (.frameSend ok at_) s
      o false = .next (u.frameDone e 0xB03 0) ∧
      (sendOk bs = false → o true = .next (u.frameDone e 0xB02 0)) ∧
      (sendOk bs = true → e.kind = 1 → u.thetex (e.place / 2) = false → o true = .next (u.sendFrame e at_)) ∧
      (let unicastOnHop := u.portRole e.place = 0 ∧ bit e.xflags 4 = true
       (sendOk bs = true → e.kind = 3 → u.thetex e.place = false ∨ unicastOnHop → o true = .next (u.frameDone e 0xB02 0)) ∧
       (sendOk bs = true → e.kind = 3 → u.thetex e.place = true → ¬ unicastOnHop → e.launch = 0 → e.report = false →
        o true = .next (u.queueBulk e.place e))) ∧
      (sendOk bs = true → e.kind = 2 → u.thetex (e.place / 2) = false →
        let q := Tbl.get u.tim.timed [] e.place
        (u.mainSet = false → o true = .next (u.frameDone e 0xC03 0)) ∧
        (u.mainSet = true → 32 ≤ q.length → o true = .next (u.frameDone e 0xC02 0)) ∧
        (u.mainSet = true → q.length < 32 → o true =
          .next { u with tim := { u.tim with timed := Tbl.set u.tim.timed [] e.place (insertTimed e q) } }))) ∧
    (∀ e rest, s.held .clk = false → Tbl.get s.tim.timed [] l = e :: rest →
      let now := s.mainAt at_
      let due : Int := (e.launch : Int) * 2 ^ 16
      let u := { s with tim := { s.tim with timed := Tbl.set s.tim.timed [] l rest } }
      let late : Int := ((e.launch + u.lateTol : Nat) : Int) * 2 ^ 16
      (now < due → exec (.timedFrameLaunch l at_) s = .next s) ∧
      (due ≤ now → late < now →
        exec (.timedFrameLaunch l at_) s = .next ((u.bump A.TIM_LAUNCH_LATE).frameDone e 0xC01 0)) ∧
      (due ≤ now → now ≤ late →
        exec (.timedFrameLaunch l at_) s = .next (u.sendFrame { e with report := true } at_))) ∧
    (Tbl.get s.tim.timed [] l = [] → exec (.timedFrameLaunch l at_) s = .next s) ∧
    (∀ e : SendEntry,
      let u := s.emitFrame e.place e.data
      let v := if u.transmits e.place = true then u.bump (A.LNP_ETH_TXF e.place) else u
      (s.streamsWait e.place = true → s.sendFrame e at_ =
        s.setLane e.place { s.lane e.place with wait := (s.lane e.place).wait ++ [e] }) ∧
      (s.streamsWait e.place = false → s.sendFrame e at_ =
        if e.report = true then v.frameDone e 0 (v.mainAt at_ + v.egLat e.place) else v))

/-- R246 to R249: RTP stream entries take their writes only while EN is 0, but the write that clears EN; an underrun refills
once half the depth is held; a complete packet leaves in the tick after its last sample, or is withheld, and host frames that
waited for it follow. What R248 leaves open of a packet's headers is free (log entry 129). -/
def Obligations.RtpStreamsRefillAndLaunchPackets : Prop :=
  ∀ (s : State) (i : Nat), s.held .lnk = false → i < 64 →
    let x := s.rxStream i
    let y := s.txStream i
    let rxOff := fun (k : Nat) => A.RTP_RX_W0 i + 4 * k
    let txOff := fun (k : Nat) => A.RTP_TX_W0 i + 4 * k
    let lanes := rtpLanes (s.fget (F.RTP_TX_W0_PORT i)) (s.fget (F.RTP_TX_W0_LANES i))
    let flushed := fun (u : State) => Host.Outcome.next (forEach lanes u (fun v l => v.flushWait l))
    (let full := x.starved = true ∧ s.fon (F.RTP_RX_W0_EN i) = true ∧ s.rxHolds i (1 + s.fget (F.RTP_RX_W1_DEPTH i) / 2) = true
     (full → exec (.rtpRefill i) s = .next (s.setRxStream i { x with starved := false, fade := fadeTo x.fade unity 64 })) ∧
     (¬ full → exec (.rtpRefill i) s = .next s)) ∧
    (∀ ts t frames rest, y.ready = (ts, t, frames) :: rest →
      let payload := frames.flatMap (fun f => f.flatMap (rtpFromA32 (s.fget (F.RTP_TX_W0_FORMAT i))))
      let u := s.setTxStream i { y with
        ready := rest, seq := (y.seq + 1) % 65536, sent := some (s.fget (F.RTP_TX_W0_LANES i), y.seq, ts, payload) }
      (s.eng.tick ≤ t → exec (.rtpPacketLaunch i) s = flushed s) ∧
      (t < s.eng.tick → s.withholds t = true → exec (.rtpPacketLaunch i) s =
        flushed (s.setTxStream i { y with ready := rest })) ∧
      (t < s.eng.tick → s.withholds t = false → exec (.rtpPacketLaunch i) s =
        flushed (forEach lanes (u.count (F.RTP_TX_W8_PKTS i) 1) (fun v l =>
          let a := v.draw 16
          let b := a.2.draw 1
          let c := b.2.draw 1
          if v.transmits l = true ∧ v.thetex (l / 2) = false then
            (c.2.emitFrame l (c.2.rtpFrame i l y.seq ts payload a.1 b.1 c.1)).bump (A.LNP_ETH_TXF l)
          else v)))) ∧
    (y.ready = [] → exec (.rtpPacketLaunch i) s = flushed s) ∧
    (∀ l, (s.lane l).wait = [] ∨ s.streamsWait l = true → s.flushWait l = s) ∧
    (∀ k (v : W32), 5 ≤ k → k < 16 → exec (.rtpRxEntryWrite i k v) s = .next (s.writePlain (rxOff k) v)) ∧
    (∀ k (v : W32), k ≤ 4 → s.fon (F.RTP_RX_W0_EN i) = true → (k ≠ 0 ∨ clearsEn (s.reg (rxOff k)) v = false) →
      exec (.rtpRxEntryWrite i k v) s = .next (s.fset (F.RTP_RX_W5_CFG_REJ i) 1)) ∧
    (∀ k (v : W32), k ≤ 4 → s.fon (F.RTP_RX_W0_EN i) = false →
      let t := s.writePlain (rxOff k) v
      breaksBinding s t = false →
      (t.fon (F.RTP_RX_W0_EN i) = false → exec (.rtpRxEntryWrite i k v) s = .next t) ∧
      (t.fon (F.RTP_RX_W0_EN i) = true → t.fget (F.RTP_RX_W0_LANES i) ≠ 0 → 48 ≤ t.fget (F.RTP_RX_W1_DEPTH i) →
        t.fget (F.RTP_RX_W1_DEPTH i) ≤ 960 → exec (.rtpRxEntryWrite i k v) s = .next (t.setRxStream i {}))) ∧
    (∀ k (v : W32), 7 ≤ k → k < 16 → exec (.rtpTxEntryWrite i k v) s = .next (s.writePlain (txOff k) v)) ∧
    (∀ k (v : W32), k ≤ 6 → s.fon (F.RTP_TX_W0_EN i) = true → (k ≠ 0 ∨ clearsEn (s.reg (txOff k)) v = false) →
      exec (.rtpTxEntryWrite i k v) s = .next (s.fset (F.RTP_TX_W7_CFG_REJ i) 1)) ∧
    (∀ k (v : W32), k ≤ 6 → s.fon (F.RTP_TX_W0_EN i) = false →
      let t := s.writePlain (txOff k) v
      breaksBinding s t = false → t.fon (F.RTP_TX_W0_EN i) = false → exec (.rtpTxEntryWrite i k v) s = .next t)

/-- R255, R283 to R285: ASSIGN gives an unassigned device with the operation's UID its address; READ, WRITE and RESET act
where their checks pass, and answer with the first check that fails; HOSTMSG reaches the host; a RESPONSE is kept. -/
def Obligations.ManagementOperationsActAndAnswer : Prop :=
  ∀ s : State, s.held .lnk = false →
    (∀ op i, (op, i) ∈ [(1, Instr.mgmtAssign), (2, .mgmtRead), (3, .mgmtWrite), (4, .mgmtReset), (5, .mgmtHostmsg),
      (0x80, .mgmtResponse)] → s.takeMgmt op = none → exec i s = .next s) ∧
    (∀ t u, s.takeMgmt 1 = some (t, u) →
      let mine := s.assigned = false ∧ s.fon F.LNK_MGMT_ASSIGN_EN = true ∧
        t.sect.arg 0 + t.sect.arg 1 * 2 ^ 32 = Config.uid.toNat
      (mine → exec .mgmtAssign s = .next (u.setAddr (t.sect.arg 2 % 2 ^ 14))) ∧ (¬ mine → exec .mgmtAssign s = .next u)) ∧
    (∀ t u, s.takeMgmt 2 = some (t, u) → s.fon F.LNK_MGMT_AUTH_READ = false →
      let r := u.busRead ⟨18, 0, t.sect.arg 0, 4⟩
      exec .mgmtRead s = .next ({ r with reply := u.reply }.respond t false (if r.reply.abort then 5 else 0) r.reply.data.toNat)) ∧
    (∀ t u, s.takeMgmt 3 = some (t, u) →
      let st := u.authStatus t.sect true
      let v := u.keepNonce t.sect.nonce
      let w := v.busWrite ⟨18, 0, t.sect.arg 0, 4⟩ (BitVec.ofNat 32 (t.sect.arg 1))
      (st = 0 → exec .mgmtWrite s = .next ({ w with reply := v.reply }.respond t true (if w.reply.abort then 5 else 0) 0)) ∧
      (st = 1 → exec .mgmtWrite s = .next ((u.authFailed t).respond t true 1 0)) ∧
      (1 < st → exec .mgmtWrite s = .next (u.respond t true st 0))) ∧
    (∀ t u, s.takeMgmt 4 = some (t, u) →
      let st := u.authStatus t.sect (s.fon F.LNK_MGMT_RESET_EN)
      (st = 0 → exec .mgmtReset s = .next (((u.keepNonce t.sect.nonce).askReset 9 0xC8).respond t true 0 0)) ∧
      (st = 1 → exec .mgmtReset s = .next ((u.authFailed t).respond t true 1 0)) ∧
      (1 < st → exec .mgmtReset s = .next (u.respond t true st 0))) ∧
    (∀ t u, s.takeMgmt 5 = some (t, u) → exec .mgmtHostmsg s =
      .next (u.fwEvent 6 [t.sect.origin, t.sect.arg 0, t.sect.arg 1, t.sect.arg 2, t.sect.arg 3])) ∧
    (∀ t u, s.takeMgmt 0x80 = some (t, u) → exec .mgmtResponse s =
      .next { u with link := { u.link with answers := u.link.answers ++ [t.sect] } }) ∧
    (∀ (x : Sect) (on : Bool),
      let late := s.mainSet = false ∨ 2 < (sdiff s.todSeconds (x.field 4 4)).natAbs
      let seen := ∃ n ∈ s.recentNonces, n.1 = x.nonce
      (s.macOk x = false → s.authStatus x on = 1) ∧ (s.macOk x = true → late → s.authStatus x on = 2) ∧
      (s.macOk x = true → ¬ late → seen → s.authStatus x on = 3) ∧
      (s.macOk x = true → ¬ late → ¬ seen → on = false → s.authStatus x on = 4))

/-! ### Pairs -/

/-- R322, R324, R325, R327, R339, R344: Crickets, their misses and the commands of RED_CTRL move a device through the states
of R322: three misses in a row declare the partner failed, a secondary that hears none for 2 s leads alone, a failed device
rejoins on request or by itself, a handback passes the lead at a Cricket tick. -/
def Obligations.PairsFollowTheirStateTable : Prop :=
  ∀ s : State, s.held .lnk = false →
    let st := s.fget F.RED_STAT_STATE
    let leader := s.fon F.RED_STAT_LEADER
    (s.takeFirst (fun t => decide (t.sect.type = 4)) = none → exec .cricketReceived s = .next s) ∧
    (∀ t u, s.takeFirst (fun t => decide (t.sect.type = 4)) = some (t, u) →
      (u.paired = false ∨ u.fromPartner 4 t = false ∨ u.pair.lastSeq = some t.sect.seq → exec .cricketReceived s = .next u) ∧
      (u.paired = true → u.fromPartner 4 t = true → u.pair.lastSeq ≠ some t.sect.seq →
        let tick := leNat ((t.sect.payload.drop 8).take 4)
        let cricket := fun (v : State) => v.onCricket (t.sect.payload.getD 1 0) (leNat ((t.sect.payload.drop 2).take 2))
        let noted := u.setPair { u.pair with lastSeq := some t.sect.seq }
        (tick % 12 = 0 → sdiff u.scnt tick < 12 → exec .cricketReceived s = .next (cricket (noted.setPair { noted.pair with
          came := (tick :: noted.pair.came).take 8, misses := 0 }))) ∧
        (tick % 12 ≠ 0 ∨ 12 ≤ sdiff u.scnt tick → exec .cricketReceived s = .next (cricket noted)))) ∧
    (let t := (s.scnt + 2 ^ 32 - 12) % 2 ^ 32
     let u := (s.setPair { s.pair with came := (t :: s.pair.came).take 8, misses := s.pair.misses + 1 }).bump A.RED_CRICKET_MISS
     (s.paired = true → s.scnt % 12 = 0 → t ∉ s.pair.came →
       (s.pair.misses = 2 → exec .cricketMissed s = .next (u.declareFailed 0)) ∧
       (s.pair.misses ≠ 2 → exec .cricketMissed s = .next u)) ∧
     (s.paired = false ∨ s.scnt % 12 ≠ 0 ∨ t ∈ s.pair.came → exec .cricketMissed s = .next s)) ∧
    exec .fatalFaultFailed s = .next s.takeFatal ∧
    (st = 1 → s.fget F.RED_CFG_ROLE = 2 → 2 * s.ticksPerSecond ≤ s.pair.entered → 2 * s.ticksPerSecond ≤ s.pair.sinceCricket →
      exec .seekTimeout s = .next ((s.setPairState 4).fset F.RED_STAT_LEADER 1).settleDriving) ∧
    (st ≠ 1 ∨ s.fget F.RED_CFG_ROLE ≠ 2 → exec .seekTimeout s = .next s) ∧
    (s.held .eng = false → st = 5 → s.fon F.RED_CFG_AUTO_REJOIN = true → s.ticksPerSecond ≤ s.pair.calm →
      s.fget F.RED_STAT_REASON ≠ 4 →
      (s.pair.fails.filter (fun u => decide (s.eng.tick < u + 600 * s.ticksPerSecond))).length < 3 →
      exec .autoRejoin s = .next s.leaveFailed) ∧
    (s.fon F.RED_CFG_AUTO_REJOIN = false → exec .autoRejoin s = .next s) ∧
    exec .pairFail s = .next (s.enterFailed 2 s.eng.tick) ∧
    (s.held .eng = false → st = 5 → exec .pairRejoin s = .next (s.setPair { s.pair with fails := [] }).leaveFailed) ∧
    (st ≠ 5 → exec .pairRejoin s = .next s) ∧
    (st = 3 → leader = true → exec .handback s = .next (s.setPair { s.pair with handback := true })) ∧
    (st ≠ 3 ∨ leader = false → exec .handback s = .next s) ∧
    (st = 3 → s.scnt % 12 = 0 →
      (leader = true → s.pair.handback = true → exec .handbackTakesEffect s =
        .next ((s.setPair { s.pair with handback := false, records := [] }).fset F.RED_STAT_LEADER 0).settleDriving) ∧
      (leader = true → s.pair.handback = false → exec .handbackTakesEffect s = .next s) ∧
      (leader = false → exec .handbackTakesEffect s = .next (s.fset F.RED_STAT_LEADER 1).settleDriving)) ∧
    (st = 2 → max 1 (s.fget F.RED_LIMITS_TIMEOUT) * s.ticksPerSecond ≤ s.pair.entered →
      exec .joinTimeout s = .next (s.enterFailed 3 s.eng.tick)) ∧
    (st ≠ 2 → exec .joinTimeout s = .next s)

/-- R329 to R334, R338, R343: the hashes of a tick are compared once, equal ones lengthen a join's run and different ones fail the
partner or return to JOIN, but change nothing while the partner joins; a leader sends its records and a follower takes them, the
oldest first. That a leader's mismatch counts nothing while its partner joins is the model's reading (log entry 130). -/
def Obligations.PairsCompareHashesAndMirrorRecords : Prop :=
  ∀ s : State, s.held .lnk = false →
    (let t := (s.scnt + 2 ^ 32 - s.hlat) % 2 ^ 32
     let m := s.takeMirror
     let u := m.setPair { m.pair with judged := some t }
     let heard := (u.pair.hashes.find? (fun h => decide (h.1 = t))).map (·.2)
     let may := s.mirrors = true ∧ s.pair.judged ≠ some t
     (¬ may → exec .hashCompare s = .next s) ∧
     (may → u.hashOf t = none → exec .hashCompare s = .next u) ∧
     (∀ own, may → u.hashOf t = some own →
       (heard = none → exec .hashCompare s = .next ((u.setPair { u.pair with run := 0 }).bump A.RED_HASH_MISS)) ∧
       (∀ h, heard = some h →
         let run := u.pair.run + 1
         (u.pairState = 2 → h ≠ own → exec .hashCompare s = .next (u.setPair { u.pair with run := 0 })) ∧
         (u.pairState = 2 → h = own → max 1 (u.fget F.RED_TIMING_JOIN_RUN) ≤ run →
           exec .hashCompare s = .next (u.setPairState 3).settleDriving) ∧
         (u.pairState = 2 → h = own → run < max 1 (u.fget F.RED_TIMING_JOIN_RUN) →
           exec .hashCompare s = .next (u.setPair { u.pair with run := run })) ∧
         (u.pairState ≠ 2 → h = own → exec .hashCompare s = .next u) ∧
         (u.pairState ≠ 2 → h ≠ own → u.pair.faults % 2 = 1 → exec .hashCompare s = .next (u.declareFailed 1)) ∧
         (u.pairState ≠ 2 → h ≠ own → u.pair.faults % 2 = 0 → u.fget F.RED_STAT_PSTATE = 2 → exec .hashCompare s = .next u) ∧
         (u.pairState ≠ 2 → h ≠ own → u.pair.faults % 2 = 0 → u.fget F.RED_STAT_PSTATE ≠ 2 → exec .hashCompare s =
           .next (((u.fset F.RED_STAT_PAIR_DIVERGE 1).bump A.RED_DIVERGE_CNT).record 0x602 0 [t]).toJoin)))) ∧
    exec .inputRecord s = .next (s.takeRecordOnce 1) ∧ exec .noiseRecord s = .next (s.takeRecordOnce 2) ∧
    exec .adaptRecord s = .next (s.takeRecordOnce 3) ∧
    (∀ core task tick words, s.mirrorLeader = false → exec (.taskmsgRecord core task tick words) s = .next (s.takeRecordOnce 4)) ∧
    (∀ core task tick (a b c d : W32), s.mirrorLeader = true → s.fwReady = true → s.held .eng = false → core < 32 → task < 65536 →
      exec (.taskmsgRecord core task tick [a, b, c, d]) s =
        .next ((s.mirrorRecord ⟨4, core + 32 * task, [tick.toNat, a.toNat, b.toNat, c.toNat, d.toNat]⟩).enqueueMsg
          core task 0 tick [a, b, c, d])) ∧
    (∀ target, s.held .eng = false → s.fwReady = true → s.mirrorLeader = true → s.fon F.RED_TWIN_READY = true →
      bit s.pair.faults 7 = false → s.fget F.RED_STAT_PSTATE = 2 → s.slotBusy = false →
      let len := BitVec.ofNat 32 (s.fget F.RED_TWIN_LEN)
      exec (.joinRecord target) s = .next ((s.mirrorRecord ⟨5, s.twinSlot, [target.toNat, len.toNat]⟩).activateTwin
        s.twinSlot target len)) ∧
    (∀ target u r, s.held .eng = false → s.fwReady = true → s.mirrorLeader = false →
      s.takeMirror.pair.incoming.find? (fun r => decide (r.2.kind = 5)) = some (u, r) →
      let v := s.takeMirror.setPair { s.takeMirror.pair with incoming := s.takeMirror.pair.incoming.erase (u, r) }
      (v.pairState = 2 → exec (.joinRecord target) s =
        .next (v.activateTwin (r.target % 2) (BitVec.ofNat 32 (r.words.getD 0 0)) (BitVec.ofNat 32 (r.words.getD 1 0)))) ∧
      (v.pairState ≠ 2 → exec (.joinRecord target) s = .next v)) ∧
    (∀ core task first count t, s.held .eng = false → s.mirrorLeader = true → s.fwReady = true → core < 32 →
      s.taskOn core task = some t → 1 ≤ count → 2 * first + count ≤ t.size →
      exec (.regionRecord core task first count) s = .next (s.mirrorRecord ⟨6, core + 32 * task, first ::
        (List.range count).map (fun i => (s.localWord core (t.base + 2 * first + i)).toNat)⟩)) ∧
    (∀ core task first count u r t, s.held .eng = false → s.mirrorLeader = false →
      s.takeMirror.pair.incoming.find? (fun r => decide (r.2.kind = 6)) = some (u, r) →
      let v := s.takeMirror.setPair { s.takeMirror.pair with incoming := s.takeMirror.pair.incoming.erase (u, r) }
      let n := r.target % 32
      v.taskOn n (bits r.target 20 5) = some t → v.pairState = 2 →
      exec (.regionRecord core task first count) s = .next (forEach (r.words.drop 1).zipIdx v (fun w x =>
        if 2 * r.words.headD 0 + x.2 < t.size then
          w.setLocal n (t.base + 2 * r.words.headD 0 + x.2) (BitVec.ofNat 32 x.1) else w)))

/-! ### Resets, clocks and supplies -/

/-- R413, R414, R416, R417, R418, R432: each reset source reaches its domains, at once where it does not quiesce and after
the handshake where it does; a level source asserts once and covers its domains until it ends. -/
def Obligations.ResetSourcesReachTheirDomains : Prop :=
  ∀ s : State,
    let raised := fun (v : State) n => { v with rst := { v.rst with level := v.rst.level ||| 2 ^ n } }
    let lowered := fun n => { s with rst := { s.rst with level := s.rst.level &&& (0x3FF - 2 ^ n) } }
    let calm := ({ s with rst := { s.rst with warn := none, mute := none } } : State).fset F.RST_SUP_STAT_MUTED 0
    (bit s.rst.level 1 = false → exec (.supplyReset true) s = .next ((raised calm 1).assertNow 1 0xFE)) ∧
    (bit s.rst.level 1 = true → exec (.supplyReset true) s = .next calm) ∧
    exec (.supplyReset false) s = .next (lowered 1) ∧
    (bit s.rst.level 2 = false → exec (.resetN true) s = .next ((raised s 2).assertNow 2 0xFE)) ∧
    (bit s.rst.level 2 = true → exec (.resetN true) s = .next s) ∧
    exec (.resetN false) s = .next (lowered 2) ∧
    (bit s.rst.level 3 = false → exec (.therm true) s = .next ((raised s 3).assertNow 3 0xFE)) ∧
    (bit s.rst.level 3 = true → exec (.therm true) s = .next s) ∧
    exec (.therm false) s = .next (lowered 3) ∧
    (bit s.rst.level 8 = false → exec (.pcieReset 0) s = .next ((raised s 8).assertNow 8 0x10)) ∧
    exec (.pcieReset 1) s = .next (lowered 8) ∧ exec (.pcieReset 2) s = .next (s.askReset 8 0x10) ∧
    (∀ src reach rest, s.rst.quiesce = (src, reach) :: rest →
      (let ended := fun v : State => { v with rst := { v.rst with quiesce := rest } }
       let timed := ended (s.count F.RST_QTMO_TIMEOUTS 1)
       (src ≠ 16 → exec (.quiesceDone false) s = .next ((ended s).assertSource src reach)) ∧
       (src ≠ 16 → exec (.quiesceDone true) s = .next (timed.assertSource src reach)) ∧
       (src = 16 → reach &&& s.fget F.RST_SOFT_HOLD = 0 → exec (.quiesceDone false) s = .next (ended s)) ∧
       (src = 16 → reach &&& s.fget F.RST_SOFT_HOLD ≠ 0 →
         let on := reach &&& s.fget F.RST_SOFT_HOLD
         exec (.quiesceDone false) s =
           .next (({ s with rst := { s.rst with quiesce := rest, hold := s.rst.hold ||| on } } : State).assertSource 6 on)))) ∧
    (s.rst.quiesce = [] → ∀ timedOut, exec (.quiesceDone timedOut) s = .next s) ∧
    (∀ value : W32,
      (s.held .aon = true → exec (.softPulse value) s = .next s ∧ exec (.softHold value) s = .next s) ∧
      (s.held .aon = false →
        let want := (value.toNat / 2 ^ 8 &&& 0xE8) ||| (if s.held .clk then 0x40 else 0)
        let old := s.fget F.RST_SOFT_HOLD
        let fall := old &&& (255 - want)
        let set := s.fset F.RST_SOFT_HOLD want
        let off : State := { set with rst := { set.rst with hold := set.rst.hold &&& (255 - fall) } }
        let done' := ((if bit fall 6 then off.abortGroup else off).askReset 16 (want &&& (255 - old))).askReset 6
          (value.toNat % 256 &&& 0xFE)
        exec (.softPulse value) s = .next done' ∧ exec (.softHold value) s = .next done')) ∧
    (∀ clock, 1 ≤ clock → clock ≤ 3 → s.clockOk clock = true →
      let gone := if clock = 1 then 6 else 2 ^ clock
      let lost := ({ s with rst := { s.rst with clocks := s.rst.clocks &&& (15 - gone) } } : State).clockLoss
      exec (.clkloss clock) s = .next (forEach lost.rst.quiesce lost (fun v _ => v.endQuiesce))) ∧
    (∀ clock, clock ≤ 3 → s.clockOk clock = false → exec (.clkloss clock) s = .next s) ∧
    (∀ clock, clock = 1 ∨ clock = 3 ∨ (clock = 2 ∧ s.clockOk 1 = true ∧ s.held .clk = false) →
      exec (.clockGood clock) s = .next ({ s with rst := { s.rst with clocks := s.rst.clocks ||| 2 ^ clock } } : State).showClocks) ∧
    (s.clockOk 1 = false ∨ s.held .clk = true → exec (.clockGood 2) s = .next s) ∧
    (s.held .mem = false →
      let u := s.record 0x307 0 [(s.reg A.BLK_STAT).toNat]
      exec .bulkClockLoss s =
        .next (({ u with bulk := [], blk := { trained := u.blk.trained } } : State).fset F.BLK_STAT_READY 0)) ∧
    (s.held .mem = true → exec .bulkClockLoss s = .next s)

/-- R413, R415, R417, R419 to R421, R423 to R425, R458, R466: a POR puts every domain in reset, takes the strap and loses all that
the device held; a release takes the first eligible domain of the order AON, CLK, MEM, CTL, HIF, LNK, ENG, APT out of reset
and starts it, AON with the I²C address that its pins spell; a warning is recorded for each rail and for PFAIL_N, mutes where enabled and starts a flush; a recovery records
how long it lasted and restores the gain; a junction temperature outside its range is recorded on entry. -/
def Obligations.PowerOnReleaseAndSuppliesAreActedOn : Prop :=
  ∀ s : State,
    (∀ code (i2c : BitVec 2), ∃ t, exec (.por ⟨code, i2c⟩) s = .next t ∧ t.rst.i2cPins = i2c.toNat ∧ t.fget F.RST_DOMAIN_HELD = 0xFF ∧
      (t.fget F.RST_STRAP_CODE = min code 63 ∧ t.fget F.RST_STRAP_BAND = min code 63 / 4) ∧
      t.mem = [] ∧ t.bulk = [] ∧ t.cores = [] ∧ t.eng = {} ∧ t.clk = {} ∧ t.lanes = [] ∧ t.ports = [] ∧
      t.rst.quiesce = [] ∧ t.rst.hold = 0 ∧ t.rst.level = s.rst.level ∧
      t.host = s.host ∧ t.flash = s.flash ∧ t.gpioIn = s.gpioIn ∧ t.pending = s.pending) ∧
    ((∀ d ∈ domains, s.eligible d = false) → exec .domainRelease s = .next s) ∧
    (∀ pre d post, domains = pre ++ d :: post → (∀ e ∈ pre, s.eligible e = false) → s.eligible d = true →
      let u := (s.fset F.RST_DOMAIN_HELD (s.fget F.RST_DOMAIN_HELD &&& (255 - 2 ^ d.bit))).sbChanged
      let v : State := { u with rst := { u.rst with first := some (min d.bit (u.rst.first.getD 8)) } }
      (d = .aon → exec .domainRelease s =
        .next ({ v with rst := { v.rst with i2cAddr := 0x58 + v.rst.i2cPins % 4 } } : State).endSequence) ∧
      (d = .mem → exec .domainRelease s = .next v.releaseMem.endSequence) ∧
      (d = .ctl → exec .domainRelease s = .next v.releaseCtl.endSequence) ∧
      (d = .lnk → exec .domainRelease s = .next v.releaseLnk.endSequence) ∧
      (d = .eng → exec .domainRelease s = .next v.releaseEng.endSequence) ∧
      (d ≠ .aon → d ≠ .mem → d ≠ .ctl → d ≠ .lnk → d ≠ .eng → exec .domainRelease s = .next v.endSequence)) ∧
    (∀ below pfail,
      let rails := (List.range 8).filter (fun i => bit below i && !bit (s.fget F.RST_SUP_STAT_BELOW) i)
      let pin := pfail && s.fon F.RST_SUP_CTRL_PFAIL_EN && (!s.fon F.RST_SUP_STAT_PFAIL || decide (s.rst.warn = none))
      let shown := (s.fset F.RST_SUP_STAT_BELOW below).fset F.RST_SUP_STAT_PFAIL (b2n pfail)
      let seen := fun (v : State) => forEach rails v (fun v i => v.fset ⟨A.RST_SUP_STAT, i, i⟩ 1)
      let told := fun (v : State) (insts : List Nat) =>
        forEach insts v (fun v i => v.record 0x103 i [(v.reg A.RST_SUP_STAT).toNat])
      (rails = [] → pin = false → exec (.supplyWarning below pfail) s = .next shown) ∧
      (s.canonical → s.rst.warn.isSome = true → rails ≠ [] → pin = false →
        exec (.supplyWarning below pfail) s = .next (told (seen shown) rails)) ∧
      (∀ i rest, s.canonical → s.rst.warn = none → s.fon F.RST_SUP_CTRL_WARN_MUTE = true → rails = i :: rest → pin = false →
        let w := told (((seen shown).muteTo 0).fset F.RST_SUP_STAT_MUTED 1) rails
        exec (.supplyWarning below pfail) s =
          .next ({ w with rst := { w.rst with warn := some (i, w.now) } } : State).abortGroup.capFlush.startFlush) ∧
      (s.canonical → s.rst.warn = none → s.fon F.RST_SUP_CTRL_WARN_MUTE = false → rails = [] → pin = true →
        let w := told (shown.fset F.RST_SUP_STAT_PFAIL_SEEN 1) [8]
        exec (.supplyWarning below pfail) s =
          .next ({ w with rst := { w.rst with warn := some (8, w.now) } } : State).abortGroup.capFlush.startFlush)) ∧
    (s.rst.warn = none → exec .supplyRecovery s = .next s) ∧
    (∀ i t0, s.rst.warn = some (i, t0) →
      let clear := (s.fset F.RST_SUP_STAT_BELOW 0).fset F.RST_SUP_STAT_PFAIL 0
      let calm : State := { clear with rst := { clear.rst with warn := none } }
      let u := calm.record 0x104 i [(calm.now - t0) * 1000 / 1024]
      (u.rst.mute = none → exec .supplyRecovery s = .next u) ∧
      (∀ g, u.rst.mute = some g → exec .supplyRecovery s = .next (u.muteTo unity))) ∧
    (∀ a b c d : Int, a ≤ b → b ≤ c → c ≤ d →
      let inside := -800 ≤ b + c ∧ b + c ≤ 2500
      let noted := fun out => s.setPair { s.pair with tjHigh := out }
      (inside → exec (.tjHigh a b c d) s = .next (noted false)) ∧
      (¬ inside → s.pair.tjHigh = true → exec (.tjHigh a b c d) s = .next (noted true)) ∧
      (¬ inside → s.pair.tjHigh = false → ∃ i < 4, exec (.tjHigh a b c d) s =
        .next ((noted true).record 0x105 i [((b + c) / 2 % 2 ^ 32).toNat])))

/-! ### Records, counters, the flash, the Tack room -/

/-- R428, R429, R435 to R437, R440, R442, R444, R445, R456: events and post writes are recorded, the token bucket and the
operating time run on XO, the counters load once, a flush programs a page and moves its pointers, and the Tack room and the
backup registers take their writes. -/
def Obligations.RecordsCountersAndFlushesFollowTheirRules : Prop :=
  ∀ s : State,
    (∀ code inst params, code < 0xFFFF → inst < 4096 →
      exec (.eventRecord code inst params) s = .next (s.record code inst (params.map (· % 2 ^ 32)))) ∧
    (∀ value : W32, s.held .mem = false →
      let code := value.toNat % 65536
      (0x8000 ≤ code → code < 0xFFFF → exec (.eventPostWrite value) s = .next (s.record code (value.toNat / 65536 % 4096)
        [(s.reg (A.TST_EVT_POST_W 0)).toNat, (s.reg (A.TST_EVT_POST_W 1)).toNat, (s.reg (A.TST_EVT_POST_W 2)).toNat,
         (s.reg (A.TST_EVT_POST_W 3)).toNat])) ∧
      (code < 0x8000 ∨ code = 0xFFFF → exec (.eventPostWrite value) s = .next s)) ∧
    (let l := s.loft
     let more := fun f => { s with loft := { l with tokens := min 256 (l.tokens + 1), sincePor := l.sincePor + 1, frac := f } }
     (l.frac < 63 → exec .tokenRefill s = .next (more (l.frac + 1))) ∧
     (l.frac = 63 → s.canonical → ∃ t, exec .tokenRefill s = .next t ∧ t.optime = (s.optime + 1) % 2 ^ 40 ∧
       t.loft = (more 0).loft ∧ t.mem = s.mem ∧
       ∀ off, off ≠ A.TST_OPTIME_LO → off ≠ A.TST_OPTIME_HI → t.reg off = s.reg off)) ∧
    (s.optime < s.loft.nextMark → exec .timeMark s = .next s) ∧
    (s.loft.nextMark ≤ s.optime → exec .timeMark s =
      .next (({ s with loft := { s.loft with nextMark := nextMarkAfter s.optime } } : State).record 0xA02 0 [])) ∧
    (∀ value : W32,
      (value.toNat % 2 = 0 ∨ s.fon F.TST_PERSIST_LOADED = true → exec (.counterLoad value) s = .next s) ∧
      (value.toNat % 2 = 1 → s.fon F.TST_PERSIST_LOADED = false → s.canonical →
        let l := s.loft
        ∃ t, exec (.counterLoad value) s = .next t ∧
          t.optime = ((l.lo.getD 0).toNat + (l.hi.getD 0).toNat % 256 * 2 ^ 32 + s.optime) % 2 ^ 40 ∧
          t.fget F.TST_PCYC_VALUE = min ((l.pcyc.getD 0xFFFFFF).toNat % 2 ^ 24 + 1) 0xFFFFFE ∧
          t.fon F.TST_PERSIST_LOADED = true ∧ t.loft.nextMark = nextMarkAfter t.optime ∧ t.mem = s.mem)) ∧
    (s.flushAble = false ∨ s.fon F.TST_EVF_STAT_FLUSHING = false ∨ s.tst.prog.isSome = true → exec .loftFlush s = .next s) ∧
    (s.flushAble = true → s.fon F.TST_EVF_STAT_FLUSHING = true → s.tst.prog = none →
      (s.unflushed = 0 → exec .loftFlush s = .next (s.fset F.TST_EVF_STAT_FLUSHING 0)) ∧
      (s.unflushed ≠ 0 → s.flushCount = 0 → exec .loftFlush s = .next (s.fset F.TST_EVF_STAT_FLASH_STALL 1)) ∧
      (s.unflushed ≠ 0 → s.flushCount ≠ 0 →
        let first := (s.reg A.TST_LOFT_FLUSHED + 1).toNat
        let page := (List.range s.flushCount).flatMap (fun i => bytesAt s.mem (loftAddr ((first + i) % 2 ^ 32)) 32)
        let work := some ((first + s.flushCount - 1) % 2 ^ 32, page)
        exec .loftFlush s = .next { s with tst := { s.tst with prog := work } })) ∧
    (s.tst.prog = none → ∀ ok, exec (.flashProgramDone ok) s = .next s) ∧
    (∀ last bs, s.tst.prog = some (last, bs) → s.held .mem = false →
      let idle := fun v : State => { v with tst := { v.tst with prog := none } }
      exec (.flashProgramDone false) s = .next ((idle s).fset F.TST_EVF_STAT_FLASH_ERR 1) ∧
      (let base := s.fget F.TST_EVF_CFG_BASE * 65536
       let wrote := (forEach bs.zipIdx (idle s) (fun v b => v.programByte (base + s.flashPos + b.2) b.1)).setReg A.TST_EVF_WPTR
         (BitVec.ofNat 32 ((s.flashPos + bs.length) % s.flashRing))
       let moved := wrote.setReg A.TST_LOFT_FLUSHED (BitVec.ofNat 32 last)
       0 < sdiff last (wrote.reg A.TST_LOFT_FLUSHED).toNat →
         (moved.unflushed = 0 → exec (.flashProgramDone true) s = .next (moved.fset F.TST_EVF_STAT_FLUSHING 0)) ∧
         (moved.unflushed ≠ 0 → exec (.flashProgramDone true) s = .next moved))) ∧
    (s.held .aon = false → ∀ value : W32,
      (value.toNat % 2 = 1 → exec (.tackSeal value) s =
        .next (({ s with mem := setLe s.mem (tackBase + 4092) 4 s.tackCrc } : State).fset F.RST_TACK_STAT_TACK_VALID 1)) ∧
      (value.toNat % 2 = 0 → exec (.tackSeal value) s = .next s) ∧
      (let o := s.fget F.RST_TACK_PTR_OFFSET / 4 * 4
       let next := (o + 4) % 4096
       let word := BitVec.ofNat 32 (leAt s.mem (tackBase + o) 4)
       exec (.tackDataAccess false value) s =
         .next (({ s with reply := { abort := false, data := word } } : State).fset F.RST_TACK_PTR_OFFSET next) ∧
       exec (.tackDataAccess true value) s = .next ((({ s with mem := setLe s.mem (tackBase + o) 4 value.toNat } : State).fset
         F.RST_TACK_STAT_TACK_VALID 0).fset F.RST_TACK_PTR_OFFSET next)) ∧
      (∀ n, n < 8 → s.canonical → ∃ t, exec (.backupWrite n value) s = .next t ∧ t.reg (A.RST_BKP n) = value ∧
        t.fget F.RST_TACK_STAT_BKP_VALID = s.fget F.RST_TACK_STAT_BKP_VALID ||| 2 ^ n ∧
        (∀ off, off ≠ A.RST_BKP n → off ≠ A.RST_TACK_STAT → t.reg off = s.reg off) ∧ t.mem = s.mem)) ∧
    (s.held .aon = true → ∀ value : W32, exec (.tackSeal value) s = .next s ∧
      (∀ w, exec (.tackDataAccess w value) s = .next s) ∧ ∀ n, exec (.backupWrite n value) s = .next s)

/-- R361, R362, R447 to R451, R453, R454: a repair word maps a row or marks a spare dead, a finished copy enters the map, the
march moves on or stops at a row it cannot give back, and self-test runs its groups in order. -/
def Obligations.RepairsMarchesAndSelfTestsFollowTheirRules : Prop :=
  ∀ s : State, s.held .mem = false →
    (∀ word : W32, parseRpr word.toNat = none → exec (.repairAdd word) s = .next (s.count F.TST_RPR_STAT_BAD 1)) ∧
    (∀ word : W32, ∀ e, parseRpr word.toNat = some e →
      (95 < e.stall ∨ s.spareFree e.stall e.spare = false ∨ (e.dead = false ∧ s.rowMapped e.stall e.row = true) ∨
        126 ≤ s.rprCount + s.tst.copies.length → exec (.repairAdd word) s = .next (s.count F.TST_RPR_STAT_BAD 1)) ∧
      (e.stall ≤ 95 → s.spareFree e.stall e.spare = true → s.rprCount + s.tst.copies.length < 126 →
        (e.dead = true → exec (.repairAdd word) s = .next (s.writeMap (s.mapWords ++ [e.word]))) ∧
        (e.dead = false → s.rowMapped e.stall e.row = false →
          exec (.repairAdd word) s = .next (s.queueCopy { stall := e.stall, row := e.row, spare := e.spare, cause := 2 })))) ∧
    (s.tst.copies = [] → exec .repairCopyDone s = .next s) ∧
    (∀ c d rest, s.tst.copies = c :: d :: rest → s.rprCount < 126 → Tbl.get s.weevil.held false (c.stall / 8) = false →
      let u : State := { s with tst := { s.tst with copies := d :: rest } }
      let e : RprEntry := { dead := false, row := c.row, spare := c.spare, stall := c.stall }
      exec .repairCopyDone s = .next ((u.writeMap (u.mapWords ++ [e.word])).record 0x304 c.stall [c.row, c.spare, c.cause])) ∧
    (∀ c, s.tst.copies = [c] → s.rprCount < 126 → Tbl.get s.weevil.held false (c.stall / 8) = false →
      let u : State := { s with tst := { s.tst with copies := [] } }
      let e : RprEntry := { dead := false, row := c.row, spare := c.spare, stall := c.stall }
      exec .repairCopyDone s = .next (((u.writeMap (u.mapWords ++ [e.word])).record 0x304 c.stall
        [c.row, c.spare, c.cause]).fset F.TST_RPR_STAT_BUSY 0)) ∧
    (∀ p, p < 12 → s.wvPos p < 4160 → s.wvOn = true → Tbl.get s.weevil.held false p = false → s.underBist p = false →
      let pos := s.wvPos p
      let stall := 8 * p + pos / 520
      let r := pos % 520
      let on := fun v : State => ({ v with weevil := { v.weevil with pos := Tbl.set v.weevil.pos 0 p (pos + 1) } } : State).showWeevil
      let stuck := fun v : State => ({ v with weevil := { v.weevil with held := Tbl.set v.weevil.held false p true } } : State).showWeevil
      exec (.weevilRegionDone p none) s = .next (on s) ∧
      (∀ w b, let t := (s.record 0x303 stall [regionAddr stall r (w % 64), b % 72]).fset F.MEM_WV_STAT_FAIL 1
        (r < 512 → (stuck t).fon F.TST_CTRL_AUTO_REPAIR = false → exec (.weevilRegionDone p (some (w, b))) s = .next (stuck t)) ∧
        (r < 512 → (stuck t).fon F.TST_CTRL_AUTO_REPAIR = true →
          exec (.weevilRegionDone p (some (w, b))) s = .next ((stuck t).autoRepair stall (r / 2) 0)) ∧
        (512 ≤ r → t.spareUsed stall ((r - 512) / 2) = false → t.fon F.TST_CTRL_AUTO_REPAIR = false →
          exec (.weevilRegionDone p (some (w, b))) s = .next (on t)))) ∧
    (∀ p o, s.wvOn = false ∨ Tbl.get s.weevil.held false p = true ∨ s.underBist p = true →
      exec (.weevilRegionDone p o) s = .next s) ∧
    (∀ value : W32,
      let t := s.writePlain A.TST_CTRL value
      (bit value.toNat 4 = false ∨ s.tst.cur.isSome = true → exec (.selftestStart value) s = .next t) ∧
      (bit value.toNat 4 = true → s.tst.cur = none → t.fget F.TST_CTRL_GROUPS = 8 → s.canonical →
        ∃ u, exec (.selftestStart value) s = .next u ∧ u.tst.cur = some 4 ∧ u.tst.groups = [] ∧ u.fget F.TST_STAT_RUN = 1 ∧
          u.reg A.TST_FAIL_CNT = 0 ∧ u.reg A.TST_ANA = 0)) ∧
    (s.tst.cur = none → ∀ o, exec (.selftestGroupDone o) s = .next s) ∧
    (∀ o a b c d e, s.tst.cur = some 4 → o.checks = [a, b, c, d, e] → a < 4 → b < 4 → c < 4 → d < 4 → e < 4 →
      let t := s.setReg A.TST_ANA (BitVec.ofNat 32 (a + b * 4 + c * 16 + d * 64 + e * 256))
      ((∀ x ∈ o.checks, x ≠ 2) → exec (.selftestGroupDone o) s = .next ((t.groupResult 4 1 0 0).nextGroup s.tst.groups)) ∧
      (a = 2 → b ≠ 2 → c ≠ 2 → d ≠ 2 → e ≠ 2 →
        exec (.selftestGroupDone o) s = .next ((t.groupResult 4 2 1 0).nextGroup s.tst.groups))) ∧
    (∀ o g, s.tst.cur = some g → g < 4 → (s.reportGroup g o).2.1 = 0 →
      let r := (s.reportGroup g o).1
      let t := forEach (s.groupStalls g) r (fun v k => v.spoilStall k)
      let u := t.groupResult g 1 0 (s.reportGroup g o).2.2
      u.fon F.TST_CTRL_AUTO_REPAIR = false → exec (.selftestGroupDone o) s = .next (u.nextGroup s.tst.groups))

/-! ### The clamp path's policy, and the tick -/

/-- R160 to R166, R169, R170, R172, R173, R175 to R179: a level that is due reaches the ZONE nodes of its position, FORCE_N in its
place where it is set, or waits one more tick and counts where the write is late; at the end of an estimator's period the zone's
record is written, its level queued for T_end + LEAD + 1, and the record posted. What a record says is what the estimator
measured (log entry 117). Firmware's adaptive writes are taken while it runs and is no follower, refused with a reason or left
waiting for their tick, where they apply unless a crossfade holds them; a write of ANA_CTRL locks the limits and checks the
active words; a step follows R178 from the latest record that qualifies. Every 256 samples the suppressor analyses a channel: a
component 24 dB above the average that grew over three analyses deepens the notch at its frequency by 3 dB, places one, or moves
the oldest; the others age. The width within which a notch stands at a frequency, and how a notch shallows, are the model's
choices (log entries 112, 113). -/
def Obligations.NoiseAndAdaptiveWritesFollowTheirRules : Prop :=
  (∀ (s : State) (zone : Nat), s.held .eng = false → zone < 512 →
     (let zs := s.zone zone
      let t := s.eng.tick + 1
      let due := zs.queued.filter (fun q => decide (q.1 ≤ t))
      let forced := s.fon (F.ANA_POL_W0_FORCE_N zone)
      let served := s.cores.any (fun c => c.2.tasks.any (fun tk => decide (tk.kind = 2) && (s.servedZones tk).contains zone))
      (∀ late, zs.queued ≠ [] → late = false ∨ due = [] → exec (.noiseDelivery zone late) s =
        .next (forEach due (s.setZone zone { zs with queued := zs.queued.filter (fun q => decide (t < q.1)) }) (fun v q =>
          if v.fon (F.ANA_POL_W0_FORCE_N zone) = true then v.deliverNoise zone (v.regInt (A.ANA_POL_W4 zone))
          else match q.2 with | none => v | some n => v.deliverNoise zone n))) ∧
      (due ≠ [] → exec (.noiseDelivery zone true) s = .next ((s.setZone zone { zs with
        queued := zs.queued.map (fun q => if q.1 ≤ t then (t + 1, q.2) else q) }).bump A.ANA_LATE_CNT)) ∧
      (∀ late, zs.queued = [] → forced = true → served = false → exec (.noiseDelivery zone late) s =
        .next (s.deliverNoise zone (s.regInt (A.ANA_POL_W4 zone)))) ∧
      (∀ late, zs.queued = [] → forced = false ∨ served = true → exec (.noiseDelivery zone late) s = .next s)) ∧
     (∀ n k i, s.canonical = true → k < 2 → i < (s.slot k).prog.nodes.length →
       let u := s.deliverNoise zone n
       let at_ := s.slotWorks k = true ∧ ((s.slot k).prog.node i).type = T.zone ∧ ((s.slot k).prog.node i).position = zone
       (u.slot k).node i = if at_ then { (s.slot k).node i with noise := n } else (s.slot k).node i) ∧
     (∀ slot task, s.findTask slot task = none → exec (.estimatorPeriodEnd zone ⟨slot, task⟩) s = .next s) ∧
     (∀ slot task c t a e i, s.findTask slot task = some (c, t) → t.period = some a →
       periodEnd a s.periodTicks s.eng.tick = some e → (s.servedZones t).findIdx? (fun z => decide (z = zone)) = some i →
       (t.kind ≠ 2 ∨ t.faulted = true ∨ (s.zone zone).lastEnd = some e →
         exec (.estimatorPeriodEnd zone ⟨slot, task⟩) s = .next s) ∧
       (t.kind = 2 → t.faulted = false → (s.zone zone).lastEnd ≠ some e →
         let zs := s.zone zone
         let get := (s.slot slot).word ((s.slot slot).prog.node t.node)
         let w := (get 0).toNat
         let v := s.vendorSt c t
         let z := Tbl.get v.zones {} i
         let m := z.measure (estCfg get i) (w / 2 ^ 4 % 2 ^ 4) (w / 2 ^ 8 % 2 ^ 8) (w / 2 ^ 16 % 2 ^ 8)
         let r := m.1
         let missing := if r.noise.isSome = true then 0 else zs.missing + 1
         let last := r.noise.orElse (fun _ => zs.lastN)
         let u := (s.setVendor c t { v with zones := Tbl.set v.zones {} i (z.report m.2) }).writeResult zone e r
           (last.getD (-2031616)) (decide (30 ≤ missing))
         let due := e + u.fget F.ANA_CTRL_LEAD + 1 + (if u.mirrors then u.mlat else 0)
         let late := due ≤ u.eng.tick
         let queued := if u.mirrorFollower = true then zs.queued
           else zs.queued ++ [(if late then u.eng.tick + 1 else due, r.noise)]
         let q := u.setZone zone { zs with
           missing := missing, queued := queued, lastEnd := some e, result := some (r, e), lastN := last }
         let out := if q.fon (F.ANA_POL_W0_FORCE_N zone) = true then some (q.regInt (A.ANA_POL_W4 zone)) else r.noise
         let y := if late ∧ out.isSome = true ∧ q.mirrorFollower = false then q.bump A.ANA_LATE_CNT else q
         let x := match out with
           | none => y
           | some n => y.mirrorRecord ⟨2, zone, [(toW n).toNat, (y.scntOf e).toNat]⟩
         exec (.estimatorPeriodEnd zone ⟨slot, task⟩) s =
           .next (if x.fon (F.ANA_POL_W0_POST zone) = true then x.fwEvent 2 (zone :: x.resultWords zone) else x))) ∧
     (∀ e (r : EstResult) n stale, s.canonical = true →
       let u := s.writeResult zone e r n stale
       let word := fun (i : Nat) => u.reg (A.ANA_RES_W0 zone + 4 * i)
       word 0 = s.reg (A.ANA_RES_W0 zone) + 1 ∧ (word 1).toNat % 2 ^ 16 = r.sti % 1024 ∧ word 2 = toW n ∧
       u.fget (F.ANA_RES_W3_VALID zone) = b2n r.valid ∧ (word 3).toNat % 2 ^ 24 = r.delay % 2 ^ 24 ∧
       bit (word 3).toNat 25 = stale ∧ word 4 = toW r.speech ∧ word 5 = s.scntOf e ∧ (word 7).toNat / 2 ^ 24 = (word 0).toNat % 256 ∧
       (∀ off, off < A.ANA_RES_W0 zone ∨ A.ANA_RES_W0 zone + 28 < off → u.reg off = s.reg off) ∧ u.mem = s.mem)) ∧
  (∀ s : State,
     (∀ w : AdaptW, w.zone < 512 → w.band < 7 → s.fwReady = true → s.mirrorFollower = false →
       let u := s.mirrorRecord ⟨3, w.zone, [b2n w.eq + 2 * w.band + 16 * w.entry, w.value.toNat, w.tick.toNat]⟩
       let why := u.adaptReason w
       (why ≠ 0 →
         let v := (u.bump A.ANA_CLAMP_CNT).setReg A.ANA_LAST_REFUSE (BitVec.ofNat 32 (why * 2 ^ 12 + b2n w.eq * 2 ^ 9 + w.zone % 512))
         exec (.adaptiveWrite w) s = .next (v.record 0x802 w.zone [(v.reg A.ANA_LAST_REFUSE).toNat])) ∧
       (why = 0 → exec (.adaptiveWrite w) s = .next { u with eng := { u.eng with
         adapts := u.eng.adapts ++ [⟨w, u.eng.tick + (sdiff w.tick.toNat u.scnt).toNat⟩] } })) ∧
     (∀ w : AdaptW, s.fwReady = false ∨ s.mirrorFollower = true ∨ 512 ≤ w.zone ∨ 7 ≤ w.band →
       exec (.adaptiveWrite w) s = .next s) ∧
     (∀ w : AdaptW,
       let zs := s.zone w.zone
       let owned := s.fon F.ANA_CTRL_ADAPT_EN = true ∧
         if w.eq = true then ∃ b ∈ zs.eqOwned, b.1 = w.band else zs.gainOwned = true
       let e := s.eqEntry w.band w.entry
       let inside := if w.eq = true then w.entry < 16 ∧
           ∃ j < 16, (s.eqRange w.zone w.band).1 ≤ j ∧ j ≤ (s.eqRange w.zone w.band).2 ∧ s.eqEntry w.band j = e
         else s.regInt (A.ANA_LIM_W0 w.zone) ≤ w.value.toInt ∧ w.value.toInt ≤ s.regInt (A.ANA_LIM_W1 w.zone)
       let stable := w.eq = true → (coefAt (fun i => e.getD i 0) 0).ok = true
       (¬ owned → s.adaptReason w = 1) ∧ (owned → ¬ inside → s.adaptReason w = 2) ∧
       (owned → inside → ¬ stable → s.adaptReason w = 3) ∧
       (owned → inside → stable → sdiff w.tick.toNat s.scnt < 1 → s.adaptReason w = 4) ∧
       (owned → inside → stable → 1 ≤ sdiff w.tick.toNat s.scnt → s.adaptReason w = 0)) ∧
     (∀ zone,
       let now := fun (a : AdaptPend) => decide (a.due ≤ s.eng.tick + 1 ∧ a.w.zone = zone) && !s.zoneHeld a.w.zone
       exec (.adaptiveWriteApply zone) s =
         .next (forEach (s.eng.adapts.filter now) { s with eng := { s.eng with adapts := s.eng.adapts.filter (fun a => !now a) } }
           (fun v a => v.applyAdapt a (s.eng.tick + 1)))) ∧
     (∀ value, ∀ i ∈ [Instr.anaLock value, .adaptEnWrite value],
       let t := s.writePlain A.ANA_CTRL value
       let off := t.fset F.ANA_CTRL_ADAPT_EN 0
       (s.held .ctl = true → exec i s = .next s) ∧
       (s.held .ctl = false → s.canonical = true → t.fon F.ANA_CTRL_LOCK = false → exec i s = .next off.reown) ∧
       (s.held .ctl = false → s.fon F.ANA_CTRL_LOCK = true → t.fon F.ANA_CTRL_LOCK = true → exec i s = .next t.reown) ∧
       (s.held .ctl = false → s.fon F.ANA_CTRL_LOCK = false → t.fon F.ANA_CTRL_LOCK = true →
         (t.violations = [] → exec i s = .next t.reown) ∧
         (t.violations ≠ [] → exec i s = .next (forEach t.violations (t.fset F.ANA_STAT_VIOL_AT_LOCK 1)
           (fun v z => v.record 0x801 z [])).reown))) ∧
     (∀ zone, (s.zone zone).result = none → exec (.adaptiveStep zone) s = .next s) ∧
     (∀ zone r e, (s.zone zone).result = some (r, e) →
       let far := ∀ p, (s.zone zone).stepAt = some p → p + max (s.fget (F.ANA_POL_W0_INTERVAL zone)) 1 * s.periodTicks ≤ e
       let may := s.fwReady = true ∧ s.mirrorFollower = false ∧ s.fon F.ANA_CTRL_ADAPT_EN = true ∧ far ∧
         s.fon (F.ANA_RES_W3_VALID zone) = true ∧ s.fget (F.ANA_POL_W0_CONF_MIN zone) ≤ r.conf % 256
       let tick := s.scntOf (e + 2 * s.fget F.ANA_CTRL_LEAD + (if s.mirrors = true then s.mlat else 0))
       let u := s.setZone zone { s.zone zone with result := none, stepAt := some e }
       let v := if u.fon (F.ANA_POL_W0_ADAPT_GAIN zone) = true then u.stepGain zone (r.sti % 1024) tick else u
       (¬ may → exec (.adaptiveStep zone) s = .next s) ∧
       (may → exec (.adaptiveStep zone) s =
         .next (if v.fon (F.ANA_POL_W0_ADAPT_EQ zone) = true then v.stepEq zone (r.mti.map (· % 256)) tick else v))) ∧
     (∀ zone sti tick,
       let zs := s.zone zone
       let target := s.fget (F.ANA_POL_W1_TARGET zone)
       let hyst := s.fget (F.ANA_POL_W1_HYST zone)
       let g := s.regInt (A.ANA_POL_W2 zone)
       let gain := fun (o : Int) => sat32 (rnd (zs.gainBase * exp2c o) 28)
       let stepped := fun (o : Int) => (s.setZone zone { zs with offset := o }).firmwareAdapt ⟨zone, false, 0, 0, toW (gain o), tick⟩
       (zs.gainOwned = false ∨ (target ≤ sti + hyst ∧ sti ≤ target + hyst) → s.stepGain zone sti tick = s) ∧
       (zs.gainOwned = true → sti + hyst < target → 0 < g → gain (zs.offset + g) ≤ s.regInt (A.ANA_LIM_W1 zone) →
         s.stepGain zone sti tick = stepped (zs.offset + g)) ∧
       (zs.gainOwned = true → sti + hyst < target → s.regInt (A.ANA_LIM_W1 zone) < gain (zs.offset + g) →
         s.stepGain zone sti tick = s))) ∧
  (∀ (s : State) (slot task chan : Nat) (h : HowlObs), s.held .eng = false →
     (s.findTask slot task = none → exec (.howlAnalysis slot task chan h) s = .next s) ∧
     (∀ c t, s.findTask slot task = some (c, t) →
       let get := (s.slot slot).word ((s.slot slot).prog.node t.node)
       let v := s.vendorSt c t
       let ch := Tbl.get v.howl {} chan
       let w := (get (1 + 2 * chan)).toNat
       let deep := (get (2 + 2 * chan)).toInt
       let ready := t.kind = 3 ∧ t.faulted = false ∧ chan < (get 0).toNat % 32 ∧ 256 ≤ ch.count
       let seen := ((h.freq, h.level) :: ch.seen).take 3
       let howls := 261251 ≤ h.level ∧ (∃ b a, ch.seen.take 2 = [b, a] ∧ sameNotch h.freq b.1 = true ∧ sameNotch h.freq a.1 = true ∧
         a.2 < b.2 ∧ b.2 < h.level)
       let left := fun (l : List Notch) => Host.Outcome.next (s.setVendor c t { v with
         howl := Tbl.set v.howl {} chan { notches := l, count := ch.count - 256, seen := seen } })
       let aged := ageNotches s.ticksPerSecond (w / 65536) (some h.freq) ch.notches
       let there := ∃ m ∈ aged, sameNotch h.freq m.freq = true
       (¬ ready → exec (.howlAnalysis slot task chan h) s = .next s) ∧
       (ready → ¬ howls ∨ w % 16 = 0 → exec (.howlAnalysis slot task chan h) s =
         left (ageNotches s.ticksPerSecond (w / 65536) none ch.notches)) ∧
       (ready → howls → 0 < w % 16 → there → exec (.howlAnalysis slot task chan h) s = left (modFirst
         (fun m => sameNotch h.freq m.freq) (fun m => { m with depth := max deep (m.depth - threeDb) }) aged)) ∧
       (ready → howls → 0 < w % 16 → ¬ there → deep ≤ 0 → ∃ depth : Int, deep ≤ depth ∧ depth ≤ 0 ∧
         let new : Notch := { freq := h.freq, depth := depth, quiet := 0 }
         (aged.length < w % 16 → exec (.howlAnalysis slot task chan h) s = left (aged ++ [new])) ∧
         (aged.length = w % 16 → exec (.howlAnalysis slot task chan h) s = left (aged.drop 1 ++ [new])))))

/-- R17 to R21, R67, R147, R299, R305, R316: a tick passes only while ECLK is good and CLK is out of reset: what ends with it, the
boundary, the counters, what the pins bring, the work of the tick that begins; its counters are the sample counter, the phase
within six ticks, and the ECLK count, which a tick advances by 25,600. A core that has not finished when the tick ends stops: its
running task ends with its outputs zero and its locks released, waiting tasks are skipped, SCB_OVERRUN_CNT counts and an event is
recorded; a stage that has not finished leaves zeros, counts once a tick and is recorded. -/
def Obligations.TicksCountAndOverrunsStop : Prop :=
  ∀ s : State,
    (∀ inp, s.held .clk = true ∨ s.clockOk 2 = false → exec (.tick inp) s = .next s) ∧
    (∀ inp, s.held .clk = false → s.clockOk 2 = true →
      let t := s.eng.tick
      let begun := s.ringTick.drainFences 64
      let ended := if begun.up .eng = true then
          (((begun.endCores begun.tphase).vendorTick t).exchangeReads inp.exch).taskOutputs t begun.tphase else begun
      let judged := if ended.up .lnk = true then ended.takeFatal else ended
      let bound := if judged.up .eng = true then (judged.engineBoundary (t + 1)).takeTests inp.test.toNat else judged
      let passed := bound.settleMute.release.countTick.passTick.linkTick.pairTick.markOrigins
      let sent := (forEach (List.range 8) passed (fun v l => (v.flushWait l).txBlocks l)).streamTick
      let ported := sent.ageYard.tickPorts sent.eng.tick
      let pins := ported.seenTick inp
      let seen := ({ pins.2.2 with gpioIn := pins.1 } : State).pdmTick pins.2.2.eng.tick pins.2.1
      exec (.tick inp) s = .next (if seen.up .eng = true then seen.compute inp.bulkLate inp.bulkFull
        else forEach (List.range 64) seen (fun v i => v.idleRtp i))) ∧
    (s.canonical →
      s.countTick.scnt = (s.scnt + 1) % 2 ^ 32 ∧
      (s.tphase < 5 → s.countTick.tphase = s.tphase + 1) ∧ (5 ≤ s.tphase → s.countTick.tphase = 0) ∧
      s.countTick.ecnt = (s.ecnt + 25600) % 2 ^ 64 ∧ s.countTick.eng.tick = s.eng.tick + 1 ∧
      (∀ off, off ∉ [A.TIM_SCNT, A.TIM_TPHASE, A.TIM_ECNT_LO, A.TIM_ECNT_HI] → s.countTick.reg off = s.reg off) ∧
      s.countTick.mem = s.mem) ∧
    (∀ n, s.up .eng = true → (s.core n).running = none → (s.core n).inflight = [] → s.canonical = true →
      (∃ t ∈ (s.core n).tasks, t.run = TaskRun.waiting) →
      let c := s.core n
      let v := s.noteFault n 0xFFFF 6 c.pc
      let w := v.setCore n ({ (v.core n) with tasks := c.tasks.map (fun (t : Task) =>
        if t.run = TaskRun.waiting then { t with run := TaskRun.skipped } else t) }).halt
      exec (.taskOverrun n) s = .next ((w.bump (A.SCB_OVERRUN_CNT n)).fatalFault.record 0x402 n [0xFFFF, c.pc, w.scnt])) ∧
    (∀ n r, s.up .eng = true → (s.core n).running = some r →
      let g := (s.noteFault n r.2 6 (s.core n).pc).settleAll n
      let h := match (g.core n).current with
        | none => g
        | some t => (g.lockWithdraw (coreOwner n)).breakTaskLocks n t
      let d := match (g.core n).current with
        | none => h.core n
        | some t => ((h.core n).zeroOut t).setTask { t with run := .stopped }
      let w := h.setCore n ({ d with tasks := d.tasks.map (fun (t : Task) =>
        if t.run = TaskRun.waiting then { t with run := TaskRun.skipped } else t) }).halt
      exec (.taskOverrun n) s = .next ((w.bump (A.SCB_OVERRUN_CNT n)).fatalFault.record 0x402 n [r.2, d.pc, w.scnt])) ∧
    (∀ n, s.up .eng = false ∨ ((s.core n).running = none ∧ ∀ t ∈ (s.core n).tasks, t.run ≠ TaskRun.waiting) →
      exec (.taskOverrun n) s = .next s) ∧
    (∀ stage (unwritten : List Nat), s.held .eng = false → 1 ≤ stage → stage ≤ 4 →
      let z := forEach unwritten s (fun v a =>
        let n := v.nodeAt (a / 65536, a % 65536)
        let zeros := List.replicate (n.samples v.tphase) (0 : Int)
        if n.stage ≠ stage ∨ n.isTask = true ∨ n.samples v.tphase = 0 then v
        else v.pushOut (v.xfView s.eng.tick) (a / 65536) (a % 65536) { tick := s.eng.tick
                                                                       ports := List.replicate n.outputs zeros
                                                                       exact := if n.type = T.mix then zeros else [] })
      let u := if z.eng.overAt = some s.eng.tick then z
        else { z with eng := { z.eng with overAt := some s.eng.tick } }.bump A.ENG_OVERRUN_CNT
      exec (.stageOverrun stage unwritten) s =
        .next ((u.fset F.ENG_OVERRUN_SRC_STAGE stage).fatalFault.record 0x401 stage [u.scnt])) ∧
    (∀ stage unwritten, s.held .eng = true ∨ stage = 0 ∨ 4 < stage → exec (.stageOverrun stage unwritten) s = .next s)

/-! ### The fixed stages' arithmetic -/

/-- R78, R81: a biquad takes its five words in the order B0, B1, B2, A1, A2, rounds once, and feeds its narrowed outputs back;
a magnitude becomes a level by its most significant 1 and R81's corrected fraction. -/
def Obligations.BiquadsAndLevelsAreExact : Prop :=
  (∀ (act : Nat → W32) (r : Run) (key w : Nat) (x : Int), (Tbl.rising r.st.bqs) = true →
    let h := Tbl.get r.st.bqs {} key
    let v := (act w).toInt * x + (act (w + 1)).toInt * h.x1 + (act (w + 2)).toInt * h.x2 - (act (w + 3)).toInt * h.y1 -
      (act (w + 4)).toInt * h.y2
    let o := r.biq act key w x
    let h' := Tbl.get o.2.st.bqs {} key
    ∃ n : Int, (2 ^ 28 * n ≤ v + 2 ^ 27 ∧ v + 2 ^ 27 < 2 ^ 28 * (n + 1)) ∧
      (n < -(2 ^ 31) → o.1 = -(2 ^ 31)) ∧ (2 ^ 31 ≤ n → o.1 = 2 ^ 31 - 1) ∧ (-(2 ^ 31) ≤ n → n < 2 ^ 31 → o.1 = n) ∧
      h'.x1 = x ∧ h'.x2 = h.x1 ∧ h'.y1 = o.1 ∧ h'.y2 = h.y1 ∧
      (∀ k, k ≠ key → Tbl.get o.2.st.bqs {} k = Tbl.get r.st.bqs {} k)) ∧
  log2lv 0 = -2031616 ∧
  ∀ (m e : Nat) (f : Int), e ≤ 30 → 2 ^ e ≤ m → m < 2 ^ (e + 1) →
    2 ^ 14 * f ≤ (m : Int) * 2 ^ (30 - e) - 2 ^ 30 + 2 ^ 13 → (m : Int) * 2 ^ (30 - e) - 2 ^ 30 + 2 ^ 13 < 2 ^ 14 * (f + 1) →
    (f = 65536 → log2lv m = ((e : Int) + 1 - 31) * 65536) ∧
    (f ≠ 65536 → ∃ c : Int, 2 ^ 21 * c ≤ 11 * f * (65536 - f) + 2 ^ 20 ∧ 11 * f * (65536 - f) + 2 ^ 20 < 2 ^ 21 * (c + 1) ∧
      log2lv m = ((e : Int) - 31) * 65536 + f + c)

/-! ### Registers, reset, steps, words -/

/-- R9, R11, R13: a write to a register out of reset sets its RW bits and, until their lock is set, its RWL bits, clears the
W1C bits that it writes 1, and leaves RO, WO, RC and reserved bits and every other register as they are; a write to a held
domain is ignored; the scratch register reads back what was written. -/
def Obligations.RegisterBitsFollowTheirAccessTypes : Prop :=
  ∀ (s : State) (off : Nat) (d : RegDef) (v : W32), s.canonical → regDef off = some d →
    (s.held d.dom = true → s.writePlain off v = s) ∧
    (s.held d.dom = false →
      let t := s.writePlain off v
      (∀ f ∈ d.fields, ∀ i, f.lo ≤ i → i ≤ f.hi →
        (f.acc = .rw ∨ (f.acc = .rwl ∧ s.lockedReg d = false) → (t.reg off).getLsbD i = v.getLsbD i) ∧
        (f.acc = .rwl → s.lockedReg d = true → (t.reg off).getLsbD i = (s.reg off).getLsbD i) ∧
        (f.acc = .w1c → (t.reg off).getLsbD i = ((s.reg off).getLsbD i && !v.getLsbD i)) ∧
        (f.acc = .ro ∨ f.acc = .wo ∨ f.acc = .rc → (t.reg off).getLsbD i = (s.reg off).getLsbD i)) ∧
      (∀ i, (∀ f ∈ d.fields, i < f.lo ∨ f.hi < i) → (t.reg off).getLsbD i = (s.reg off).getLsbD i) ∧
      (∀ o, o ≠ off → t.reg o = s.reg o) ∧ t.mem = s.mem ∧ t.pending = s.pending) ∧
    (∀ a : BusAccess, a.size = 4 → a.off = A.GLB_SCRATCH → s.held .aon = false → s.quiescing .aon = false →
      ∃ t, exec (.registerWrite a v) s = .next t ∧ t.reg A.GLB_SCRATCH = v ∧ (∀ o, o ≠ A.GLB_SCRATCH → t.reg o = s.reg o) ∧
        ∃ u, exec (.readClear a) t = .next u ∧ u.reply = { abort := false, data := v } ∧ u.reg A.GLB_SCRATCH = v)

/-- R13, R14, R412, R417: after a power-on reset every register holds its table's value, the identity reads as R14 says, all
domains but AON are held, and nothing waits; memory that nothing has written reads as zero, which is the model's choice (log
entry 3). -/
def Obligations.ResetLeavesTheTablesValues : Prop :=
  (∀ off d, regDef off = some d → indexedReset off = none → off ≠ A.GLB_UID_LO → off ≠ A.GLB_UID_HI →
    ∀ f ∈ d.fields, State.reset.fget ⟨off, f.hi, f.lo⟩ = f.reset) ∧
  (∀ k, k < 96 → State.reset.fget (F.MEM_STALL_OWNER k) = if k < 64 then 30 else 29) ∧
  State.reset.reg A.GLB_ID = 0x5E7A0600#32 ∧ State.reset.reg A.GLB_STEP = 0x4200#32 ∧
  State.reset.fget F.RST_CAUSE_SOURCE = 1 ∧ State.reset.fget F.RST_DOMAIN_HELD = 0xFE ∧
  State.reset.held .aon = false ∧ (∀ d, d ≠ .aon → State.reset.held d = true) ∧
  State.reset.pending = [] ∧ State.reset.canonical = true ∧ ∀ a, byteAt State.reset.mem a = 0

/-- A command at the front of the queue runs on the state with the queue's rest; an empty queue idles, which is the model's
choice (log entry 50). -/
def Obligations.StepsRunTheFrontCommand : Prop :=
  ∀ (s : State) (c : Instr) (rest : List Instr),
    (s.pending = c :: rest → step s = exec c { s with pending := rest }) ∧ (s.pending = [] → step s = .next s)

/-- Every command completes in every state; a step removes exactly the front command of the queue, never takes a free value back,
and keeps the block canonical: tables rise and list nothing that an unlisted key reads as. That a command
whose condition does not hold leaves the state as it is, is the model's choice (log entry 7). -/
def Obligations.EveryStepKeepsTheBlockCanonical : Prop :=
  (∀ s t : State, s.canonical = true → step s = .next t →
    t.canonical = true ∧ t.pending = s.pending.tail ∧ s.freeCtr ≤ t.freeCtr) ∧
  ∀ (s : State) (i : Instr), ∃ t, exec i s = .next t ∧ t.pending = s.pending ∧ s.freeCtr ≤ t.freeCtr ∧
    (s.canonical = true → t.canonical = true)

/-- R123, R124: decoding the word of a well-formed Scarab instruction gives the instruction back, and a word that decodes is the
word of what it decodes to, so no bit of a word is dropped. -/
def Obligations.ScarabWordsDecodeToTheirInstruction : Prop :=
  (∀ i core w, i.wf = true → encodeScarab i = some (core, w) → decodeScarab core w = some i.clean) ∧
  ∀ core w i, decodeScarab core w = some i → encodeScarab i = some (core, w) ∧ i.clean = i
end

