-- ==== Sys2Proof/Laws/Tbl.lean ====
section
/-! SUPPORT. Reading and writing sparse tables: read after write, the frame of a write, the canonical form is kept. -/

namespace Sys2Proof

/-- Every key of `t` exceeds `k`. -/
def Tbl.above {α : Type} (k : Nat) (t : Tbl α) : Prop := ∀ p ∈ t, k < p.1

theorem Tbl.rising_cons {α : Type} (k : Nat) (v : α) (t : Tbl α) :
    Tbl.rising ((k, v) :: t) = true ↔ Tbl.above k t ∧ Tbl.rising t = true := by
  induction t generalizing k v with
  | nil => simp [Tbl.rising, Tbl.above]
  | cons p rest ih =>
    obtain ⟨b, w⟩ := p
    have h2 := ih b w
    simp only [Tbl.rising, Bool.and_eq_true, decide_eq_true_eq, h2]
    constructor
    · rintro ⟨hkb, hab, hr⟩
      refine ⟨?_, ?_⟩
      · intro p hp
        rcases List.mem_cons.mp hp with rfl | hp
        · exact hkb
        · exact lt_trans hkb (hab p hp)
      · exact ⟨hab, hr⟩
    · rintro ⟨hk, hr⟩
      exact ⟨hk (b, w) (by simp), hr⟩

theorem Tbl.get_above {α : Type} (d : α) (k : Nat) (t : Tbl α) (h : Tbl.above k t) : Tbl.get t d k = d := by
  cases t with
  | nil => rfl
  | cons p rest =>
    obtain ⟨k', v⟩ := p
    have : k < k' := h (k', v) (by simp)
    simp [Tbl.get, this, Nat.ne_of_gt this]

theorem Tbl.get_put_same {α : Type} (d : α) (k : Nat) (v : α) (t : Tbl α) : Tbl.get (Tbl.put t k v) d k = v := by
  induction t with
  | nil => simp [Tbl.put, Tbl.get]
  | cons p rest ih =>
    obtain ⟨k', w⟩ := p
    unfold Tbl.put
    split
    · simp [Tbl.get]
    · split
      · simp [Tbl.get]
      · rename_i h1 h2
        simp [Tbl.get, h1, Ne.symm h2, ih]

theorem Tbl.get_put_other {α : Type} (d : α) (k j : Nat) (v : α) (t : Tbl α) (h : j ≠ k) (ht : Tbl.rising t = true) :
    Tbl.get (Tbl.put t k v) d j = Tbl.get t d j := by
  induction t with
  | nil => simp only [Tbl.put, Tbl.get]; split <;> (try split) <;> first | rfl | (exfalso; omega)
  | cons p rest ih =>
    obtain ⟨k', w⟩ := p
    have hr := (Tbl.rising_cons k' w rest).mp ht
    unfold Tbl.put
    split
    · rename_i h1
      by_cases hj : j < k
      · have : k ≠ j := Ne.symm h
        have h3 : k' ≠ j := by omega
        have h4 : j < k' := by omega
        simp [Tbl.get, this, hj, h3, h4]
      · have : k ≠ j := Ne.symm h
        conv_lhs => unfold Tbl.get
        simp [this, hj]
    · split
      · rename_i h1 h2
        subst h2
        have : k ≠ j := Ne.symm h
        simp [Tbl.get, this]
      · rename_i h1 h2
        simp only [Tbl.get]
        rw [ih hr.2]

theorem Tbl.get_del_same {α : Type} (d : α) (k : Nat) (t : Tbl α) (ht : Tbl.rising t = true) :
    Tbl.get (Tbl.del t k) d k = d := by
  induction t with
  | nil => rfl
  | cons p rest ih =>
    obtain ⟨k', w⟩ := p
    have hr := (Tbl.rising_cons k' w rest).mp ht
    unfold Tbl.del
    split
    · rename_i h1
      have : k' ≠ k := by omega
      simp [Tbl.get, this, h1]
    · split
      · rename_i h1 h2
        subst h2
        exact Tbl.get_above d k rest hr.1
      · rename_i h1 h2
        have : k' ≠ k := by omega
        simp [Tbl.get, this, h1, ih hr.2]

theorem Tbl.get_del_other {α : Type} (d : α) (k j : Nat) (t : Tbl α) (h : j ≠ k) (ht : Tbl.rising t = true) :
    Tbl.get (Tbl.del t k) d j = Tbl.get t d j := by
  induction t with
  | nil => rfl
  | cons p rest ih =>
    obtain ⟨k', w⟩ := p
    have hr := (Tbl.rising_cons k' w rest).mp ht
    unfold Tbl.del
    split
    · rfl
    · split
      · rename_i h1 h2
        subst h2
        have h3 : k ≠ j := Ne.symm h
        by_cases hj : j < k
        · have : Tbl.above j rest := fun p hp => lt_trans hj (hr.1 p hp)
          simp [Tbl.get, h3, hj, Tbl.get_above d j rest this]
        · simp [Tbl.get, h3, hj]
      · simp only [Tbl.get]
        rw [ih hr.2]

/-- Read after write. -/
theorem Tbl.get_set_same {α : Type} [DecidableEq α] (d v : α) (k : Nat) (t : Tbl α) (ht : Tbl.rising t = true) :
    Tbl.get (Tbl.set t d k v) d k = v := by
  unfold Tbl.set
  split
  · rename_i h; rw [Tbl.get_del_same d k t ht, h]
  · exact Tbl.get_put_same d k v t

/-- A write leaves every other key alone, whatever the default it is read with. -/
theorem Tbl.get_set_other {α : Type} [DecidableEq α] (d d' v : α) (k j : Nat) (t : Tbl α) (h : j ≠ k)
    (ht : Tbl.rising t = true) : Tbl.get (Tbl.set t d k v) d' j = Tbl.get t d' j := by
  unfold Tbl.set
  split
  · exact Tbl.get_del_other d' k j t h ht
  · exact Tbl.get_put_other d' k j v t h ht

theorem Tbl.above_put {α : Type} (k j : Nat) (v : α) (t : Tbl α) (hj : j < k) (h : Tbl.above j t) :
    Tbl.above j (Tbl.put t k v) := by
  induction t with
  | nil => intro p hp; simp [Tbl.put] at hp; subst hp; exact hj
  | cons q rest ih =>
    obtain ⟨k', w⟩ := q
    have hk' : j < k' := h (k', w) (by simp)
    have hrest : Tbl.above j rest := fun p hp => h p (List.mem_cons_of_mem _ hp)
    unfold Tbl.put
    split
    · intro p hp
      rcases List.mem_cons.mp hp with rfl | hp
      · exact hj
      · exact h p hp
    · split
      · intro p hp
        rcases List.mem_cons.mp hp with rfl | hp
        · exact hj
        · exact hrest p hp
      · intro p hp
        rcases List.mem_cons.mp hp with rfl | hp
        · exact hk'
        · exact ih hrest p hp

theorem Tbl.above_del {α : Type} (k j : Nat) (t : Tbl α) (h : Tbl.above j t) : Tbl.above j (Tbl.del t k) := by
  induction t with
  | nil => exact h
  | cons q rest ih =>
    obtain ⟨k', w⟩ := q
    have hrest : Tbl.above j rest := fun p hp => h p (List.mem_cons_of_mem _ hp)
    unfold Tbl.del
    split
    · exact h
    · split
      · exact hrest
      · intro p hp
        rcases List.mem_cons.mp hp with rfl | hp
        · exact h (k', w) (by simp)
        · exact ih hrest p hp

theorem Tbl.rising_put {α : Type} (k : Nat) (v : α) (t : Tbl α) (ht : Tbl.rising t = true) :
    Tbl.rising (Tbl.put t k v) = true := by
  induction t with
  | nil => rfl
  | cons q rest ih =>
    obtain ⟨k', w⟩ := q
    have hr := (Tbl.rising_cons k' w rest).mp ht
    unfold Tbl.put
    split
    · rename_i h1
      exact (Tbl.rising_cons k v _).mpr ⟨fun p hp => by
        rcases List.mem_cons.mp hp with rfl | hp
        · exact h1
        · exact lt_trans h1 (hr.1 p hp), ht⟩
    · split
      · rename_i h1 h2
        subst h2
        exact (Tbl.rising_cons k v rest).mpr hr
      · rename_i h1 h2
        exact (Tbl.rising_cons k' w _).mpr ⟨Tbl.above_put k k' v rest (by omega) hr.1, ih hr.2⟩

theorem Tbl.rising_del {α : Type} (k : Nat) (t : Tbl α) (ht : Tbl.rising t = true) :
    Tbl.rising (Tbl.del t k) = true := by
  induction t with
  | nil => rfl
  | cons q rest ih =>
    obtain ⟨k', w⟩ := q
    have hr := (Tbl.rising_cons k' w rest).mp ht
    unfold Tbl.del
    split
    · exact ht
    · split
      · exact hr.2
      · exact (Tbl.rising_cons k' w _).mpr ⟨Tbl.above_del k k' rest hr.1, ih hr.2⟩

/-- Every write keeps the keys strictly rising. -/
theorem Tbl.rising_set {α : Type} [DecidableEq α] (d v : α) (k : Nat) (t : Tbl α) (ht : Tbl.rising t = true) :
    Tbl.rising (Tbl.set t d k v) = true := by
  unfold Tbl.set
  split
  · exact Tbl.rising_del k t ht
  · exact Tbl.rising_put k v t ht

theorem Tbl.mem_put {α : Type} (k : Nat) (v : α) (t : Tbl α) (p : Nat × α) (h : p ∈ Tbl.put t k v) :
    p = (k, v) ∨ p ∈ t := by
  induction t with
  | nil => simpa [Tbl.put] using h
  | cons q rest ih =>
    obtain ⟨k', w⟩ := q
    unfold Tbl.put at h
    split at h
    · rcases List.mem_cons.mp h with h | h
      · exact .inl h
      · exact .inr h
    · split at h
      · rcases List.mem_cons.mp h with h | h
        · exact .inl h
        · exact .inr (List.mem_cons_of_mem _ h)
      · rcases List.mem_cons.mp h with h | h
        · exact .inr (by simp [h])
        · rcases ih h with h | h
          · exact .inl h
          · exact .inr (List.mem_cons_of_mem _ h)

theorem Tbl.mem_del {α : Type} (k : Nat) (t : Tbl α) (p : Nat × α) (h : p ∈ Tbl.del t k) : p ∈ t := by
  induction t with
  | nil => exact h
  | cons q rest ih =>
    obtain ⟨k', w⟩ := q
    unfold Tbl.del at h
    split at h
    · exact h
    · split at h
      · exact List.mem_cons_of_mem _ h
      · rcases List.mem_cons.mp h with h | h
        · simp [h]
        · exact List.mem_cons_of_mem _ (ih h)

/-- Every write keeps the canonical form. -/
theorem Tbl.wf_set {α : Type} [DecidableEq α] (d : Nat → α) (v : α) (k : Nat) (t : Tbl α) (ht : Tbl.wf d t = true) :
    Tbl.wf d (Tbl.set t (d k) k v) = true := by
  simp only [Tbl.wf, Bool.and_eq_true, List.all_eq_true, decide_eq_true_eq] at ht ⊢
  refine ⟨Tbl.rising_set (d k) v k t ht.1, ?_⟩
  intro p hp
  unfold Tbl.set at hp
  split at hp
  · exact ht.2 p (Tbl.mem_del k t p hp)
  · rename_i hv
    rcases Tbl.mem_put k v t p hp with rfl | hp
    · exact hv
    · exact ht.2 p hp

theorem Tbl.wf_rising {α : Type} [DecidableEq α] (d : Nat → α) (t : Tbl α) (ht : Tbl.wf d t = true) :
    Tbl.rising t = true := by
  simp only [Tbl.wf, Bool.and_eq_true] at ht
  exact ht.1

end Sys2Proof
end

