-- ==== Sys2Proof/Laws/Keeps.lean ====
section
/-! SUPPORT. What every operation of the block keeps: the queue of commands, the count of free values drawn, and the canonical
form of every memory and table. One lemma for each way a state is written. -/

namespace Sys2Proof.Machine

open Sys2Proof.Arith

/-- `t` comes from `s` by operations that leave the queue as it is and keep the canonical form. -/
structure Keeps (s t : State) : Prop where
  queue : t.pending = s.pending
  free : s.freeCtr ≤ t.freeCtr
  canon : s.canonical = true → t.canonical = true

theorem Keeps.refl (s : State) : Keeps s s := ⟨rfl, Nat.le_refl _, id⟩

theorem Keeps.trans {s t u : State} (h : Keeps s t) (g : Keeps t u) : Keeps s u :=
  ⟨g.queue.trans h.queue, Nat.le_trans h.free g.free, fun c => g.canon (h.canon c)⟩

theorem Keeps.cut {s t : State} {p : Prop} (h : Keeps s t) (g : Keeps s t → p) : p := g h

/-! ### Tables -/

theorem Tbl.wf_const {α : Type} [DecidableEq α] (d v : α) (k : Nat) (t : Tbl α) (ht : Tbl.wf (fun _ => d) t = true) :
    Tbl.wf (fun _ => d) (Tbl.set t d k v) = true := Tbl.wf_set (fun _ => d) v k t ht

theorem Tbl.wf_nil {α : Type} [DecidableEq α] (d : Nat → α) : Tbl.wf d ([] : Tbl α) = true := rfl

theorem Tbl.above_filter {α : Type} (k : Nat) (t : Tbl α) (p : Nat × α → Bool) (h : Tbl.above k t) : Tbl.above k (t.filter p) :=
  fun q hq => h q (List.mem_of_mem_filter hq)

theorem Tbl.rising_filter {α : Type} (t : Tbl α) (p : Nat × α → Bool) (h : Tbl.rising t = true) : Tbl.rising (t.filter p) = true := by
  induction t with
  | nil => rfl
  | cons q rest ih =>
    obtain ⟨k, v⟩ := q
    rw [Tbl.rising_cons] at h
    by_cases hp : p (k, v) = true
    · rw [List.filter_cons_of_pos hp, Tbl.rising_cons]
      exact ⟨Tbl.above_filter k rest p h.1, ih h.2⟩
    · rw [List.filter_cons_of_neg hp]
      exact ih h.2

/-- Dropping entries keeps the canonical form. -/
theorem Tbl.wf_filter {α : Type} [DecidableEq α] (d : Nat → α) (t : Tbl α) (p : Nat × α → Bool) (h : Tbl.wf d t = true) :
    Tbl.wf d (t.filter p) = true := by
  simp only [Tbl.wf, Bool.and_eq_true, List.all_eq_true] at h ⊢
  exact ⟨Tbl.rising_filter t p h.1, fun q hq => h.2 q (List.mem_of_mem_filter hq)⟩

theorem Tbl.above_mapVals {α : Type} [DecidableEq α] (k : Nat) (d : α) (f : Nat → α → α) (t : Tbl α) (h : Tbl.above k t) :
    Tbl.above k (Tbl.mapVals d f t) := by
  induction t with
  | nil => exact h
  | cons q rest ih =>
    obtain ⟨j, v⟩ := q
    have hr : Tbl.above k rest := fun q hq => h q (List.mem_cons_of_mem _ hq)
    unfold Tbl.mapVals
    split
    · exact ih hr
    · intro q hq
      rcases List.mem_cons.mp hq with rfl | hq
      · exact h (j, v) (List.mem_cons_self)
      · exact ih hr q hq

/-- Changing values keeps the canonical form. -/
theorem Tbl.wf_mapVals {α : Type} [DecidableEq α] (d : α) (f : Nat → α → α) (t : Tbl α) (h : Tbl.wf (fun _ => d) t = true) :
    Tbl.wf (fun _ => d) (Tbl.mapVals d f t) = true := by
  induction t with
  | nil => rfl
  | cons q rest ih =>
    obtain ⟨k, v⟩ := q
    simp only [Tbl.wf, Bool.and_eq_true, List.all_cons] at h ih ⊢
    rw [Tbl.rising_cons] at h
    have hr := ih ⟨h.1.2, h.2.2⟩
    unfold Tbl.mapVals
    split
    · exact hr
    · rename_i hne
      rw [Tbl.rising_cons]
      refine ⟨⟨Tbl.above_mapVals k d f rest h.1.1, hr.1⟩, ?_⟩
      simp only [List.all_cons, Bool.and_eq_true, decide_eq_true_eq]
      exact ⟨hne, hr.2⟩

/-- A table built by writes is canonical. -/
theorem Tbl.wf_foldl {α β : Type} [DecidableEq α] (d : Nat → α) (f : Tbl α → β → Tbl α)
    (hf : ∀ t b, Tbl.wf d t = true → Tbl.wf d (f t b) = true) (l : List β) (t : Tbl α) (ht : Tbl.wf d t = true) :
    Tbl.wf d (l.foldl f t) = true := by
  induction l generalizing t with
  | nil => exact ht
  | cons b rest ih => exact ih _ (hf t b ht)

theorem Memory.wf_setByte (m : List Host.Cell) (a : Nat) (b : BitVec 8) (h : Memory.wf m = true) : Memory.wf (setByte m a b) = true :=
  Tbl.wf_const 0 b a m h

theorem Memory.wf_setBytes (m : List Host.Cell) (a : Nat) (bs : List Nat) (h : Memory.wf m = true) :
    Memory.wf (setBytes m a bs) = true := by
  induction bs generalizing m a with
  | nil => exact h
  | cons b rest ih => exact ih _ _ (Memory.wf_setByte m a _ h)

theorem Memory.wf_setLe (m : List Host.Cell) (a n v : Nat) (h : Memory.wf m = true) : Memory.wf (setLe m a n v) = true :=
  Memory.wf_setBytes m a _ h

theorem Memory.wf_eraseRange (m : List Host.Cell) (a n : Nat) (h : Memory.wf m = true) : Memory.wf (eraseRange m a n) = true :=
  Tbl.wf_filter _ m _ h

/-! ### The canonical form, unit by unit -/

/-- The canonical form, taken apart. -/
theorem State.canonical_iff (s : State) : s.canonical = true ↔
    s.memCanonical = true ∧ s.regsCanonical = true ∧ s.unitsCanonical = true ∧ s.eng.canonical = true ∧ s.hif.canonical = true ∧
    s.clk.canonical = true ∧ s.tim.canonical = true ∧ s.link.canonical = true ∧ s.pair.canonical = true ∧
    s.yard.canonical = true ∧ s.weevil.canonical = true ∧ Tbl.wf (fun _ => none) s.blk.reqs = true := by
  simp only [State.canonical, Bool.and_eq_true, and_assoc]

theorem State.unitsCanonical_iff (s : State) : s.unitsCanonical = true ↔
    Tbl.wf (fun _ => {}) s.cores = true ∧ Tbl.wf (fun _ => {}) s.ffts = true ∧ Tbl.wf (fun _ => []) s.waiters = true ∧
    Tbl.wf (fun _ => {}) s.lockReqs = true ∧ Tbl.wf (fun _ => {}) s.ports = true ∧ Tbl.wf (fun _ => {}) s.mics = true ∧
    Tbl.wf (fun _ => {}) s.lanes = true ∧ Tbl.wf (fun _ => {}) s.rtpRx = true ∧ Tbl.wf (fun _ => {}) s.rtpTx = true := by
  simp only [State.unitsCanonical, Bool.and_eq_true, and_assoc]

theorem State.memCanonical_iff (s : State) : s.memCanonical = true ↔
    Tbl.wf s.memDefault s.mem = true ∧ Memory.wf s.bulk = true ∧ Memory.wf s.host = true ∧ Memory.wf s.flash = true ∧
    Tbl.wf (fun _ => none) s.tst.spoiled = true ∧ s.tst.spoiled.all (fun e => decide (e.1 < 96)) = true := by
  simp only [State.memCanonical, Bool.and_eq_true, and_assoc]

theorem State.regsCanonical_iff (s : State) :
    s.regsCanonical = true ↔ Tbl.wf resetWord s.regs = true ∧ Tbl.wf (fun _ => none) s.snaps = true := by
  simp only [State.regsCanonical, Bool.and_eq_true]

/-- A state whose parts are those of a canonical state, but for the named one. -/
theorem Keeps.of {s u t : State} (h : Keeps s u) (hq : t.pending = u.pending) (hf : u.freeCtr ≤ t.freeCtr)
    (hc : u.canonical = true → t.canonical = true) : Keeps s t :=
  h.trans ⟨hq, hf, hc⟩

theorem Keeps.set_loft {s u : State} (h : Keeps s u) (x : Loft) : Keeps s { u with loft := x } :=
  h.of rfl (Nat.le_refl _) id

theorem Keeps.set_gpioIn {s u : State} (h : Keeps s u) (x : Nat) : Keeps s { u with gpioIn := x } :=
  h.of rfl (Nat.le_refl _) id

theorem Keeps.set_reply {s u : State} (h : Keeps s u) (x : Reply) : Keeps s { u with reply := x } :=
  h.of rfl (Nat.le_refl _) id

theorem Keeps.set_rst {s u : State} (h : Keeps s u) (x : RstSt) : Keeps s { u with rst := x } :=
  h.of rfl (Nat.le_refl _) id

theorem Keeps.set_jtag {s u : State} (h : Keeps s u) (x : JtagSt) : Keeps s { u with jtag := x } :=
  h.of rfl (Nat.le_refl _) id

theorem Keeps.set_eng {s u : State} (h : Keeps s u) (x : Eng) (hx : u.canonical = true → x.canonical = true) :
    Keeps s { u with eng := x } := by
  refine h.of rfl (Nat.le_refl _) (fun hu => ?_)
  obtain ⟨c0, c1, c2, c3, c4, c5, c6, c7, c8, c9, c10, c11⟩ := (State.canonical_iff u).mp hu
  exact (State.canonical_iff _).mpr ⟨c0, c1, c2, hx hu, c4, c5, c6, c7, c8, c9, c10, c11⟩

theorem Keeps.set_hif {s u : State} (h : Keeps s u) (x : Hif) (hx : u.canonical = true → x.canonical = true) :
    Keeps s { u with hif := x } := by
  refine h.of rfl (Nat.le_refl _) (fun hu => ?_)
  obtain ⟨c0, c1, c2, c3, c4, c5, c6, c7, c8, c9, c10, c11⟩ := (State.canonical_iff u).mp hu
  exact (State.canonical_iff _).mpr ⟨c0, c1, c2, c3, hx hu, c5, c6, c7, c8, c9, c10, c11⟩

theorem Keeps.set_clk {s u : State} (h : Keeps s u) (x : ClkSt) (hx : u.canonical = true → x.canonical = true) :
    Keeps s { u with clk := x } := by
  refine h.of rfl (Nat.le_refl _) (fun hu => ?_)
  obtain ⟨c0, c1, c2, c3, c4, c5, c6, c7, c8, c9, c10, c11⟩ := (State.canonical_iff u).mp hu
  exact (State.canonical_iff _).mpr ⟨c0, c1, c2, c3, c4, hx hu, c6, c7, c8, c9, c10, c11⟩

theorem Keeps.set_tim {s u : State} (h : Keeps s u) (x : TimSt) (hx : u.canonical = true → x.canonical = true) :
    Keeps s { u with tim := x } := by
  refine h.of rfl (Nat.le_refl _) (fun hu => ?_)
  obtain ⟨c0, c1, c2, c3, c4, c5, c6, c7, c8, c9, c10, c11⟩ := (State.canonical_iff u).mp hu
  exact (State.canonical_iff _).mpr ⟨c0, c1, c2, c3, c4, c5, hx hu, c7, c8, c9, c10, c11⟩

theorem Keeps.set_link {s u : State} (h : Keeps s u) (x : Link) (hx : u.canonical = true → x.canonical = true) :
    Keeps s { u with link := x } := by
  refine h.of rfl (Nat.le_refl _) (fun hu => ?_)
  obtain ⟨c0, c1, c2, c3, c4, c5, c6, c7, c8, c9, c10, c11⟩ := (State.canonical_iff u).mp hu
  exact (State.canonical_iff _).mpr ⟨c0, c1, c2, c3, c4, c5, c6, hx hu, c8, c9, c10, c11⟩

theorem Keeps.set_pair {s u : State} (h : Keeps s u) (x : Pair) (hx : u.canonical = true → x.canonical = true) :
    Keeps s { u with pair := x } := by
  refine h.of rfl (Nat.le_refl _) (fun hu => ?_)
  obtain ⟨c0, c1, c2, c3, c4, c5, c6, c7, c8, c9, c10, c11⟩ := (State.canonical_iff u).mp hu
  exact (State.canonical_iff _).mpr ⟨c0, c1, c2, c3, c4, c5, c6, c7, hx hu, c9, c10, c11⟩

theorem Keeps.set_yard {s u : State} (h : Keeps s u) (x : YardSt) (hx : u.canonical = true → x.canonical = true) :
    Keeps s { u with yard := x } := by
  refine h.of rfl (Nat.le_refl _) (fun hu => ?_)
  obtain ⟨c0, c1, c2, c3, c4, c5, c6, c7, c8, c9, c10, c11⟩ := (State.canonical_iff u).mp hu
  exact (State.canonical_iff _).mpr ⟨c0, c1, c2, c3, c4, c5, c6, c7, c8, hx hu, c10, c11⟩

theorem Keeps.set_weevil {s u : State} (h : Keeps s u) (x : Weevil) (hx : u.canonical = true → x.canonical = true) :
    Keeps s { u with weevil := x } := by
  refine h.of rfl (Nat.le_refl _) (fun hu => ?_)
  obtain ⟨c0, c1, c2, c3, c4, c5, c6, c7, c8, c9, c10, c11⟩ := (State.canonical_iff u).mp hu
  exact (State.canonical_iff _).mpr ⟨c0, c1, c2, c3, c4, c5, c6, c7, c8, c9, hx hu, c11⟩

theorem Keeps.set_blk {s u : State} (h : Keeps s u) (x : BulkCtl)
    (hx : u.canonical = true → Tbl.wf (fun _ => none) x.reqs = true) : Keeps s { u with blk := x } := by
  refine h.of rfl (Nat.le_refl _) (fun hu => ?_)
  obtain ⟨c0, c1, c2, c3, c4, c5, c6, c7, c8, c9, c10, c11⟩ := (State.canonical_iff u).mp hu
  exact (State.canonical_iff _).mpr ⟨c0, c1, c2, c3, c4, c5, c6, c7, c8, c9, c10, hx hu⟩

theorem Keeps.set_tst {s u : State} (h : Keeps s u) (x : TstSt) (hx : x.spoiled = u.tst.spoiled) : Keeps s { u with tst := x } := by
  refine h.of rfl (Nat.le_refl _) (fun hu => ?_)
  obtain ⟨c0, c1, c2, c3, c4, c5, c6, c7, c8, c9, c10, c11⟩ := (State.canonical_iff u).mp hu
  refine (State.canonical_iff _).mpr ⟨?_, c1, c2, c3, c4, c5, c6, c7, c8, c9, c10, c11⟩
  rw [State.memCanonical_iff] at c0 ⊢
  have hd : ({ u with tst := x } : State).memDefault = u.memDefault := by
    funext a; simp only [State.memDefault, hx]
  obtain ⟨d0, d1, d2, d3, d4, d5⟩ := c0
  refine ⟨?_, d1, d2, d3, ?_, ?_⟩
  · rw [hd]; exact d0
  · show Tbl.wf _ x.spoiled = true
    rw [hx]; exact d4
  · show x.spoiled.all _ = true
    rw [hx]; exact d5

theorem Keeps.set_freeCtr {s u : State} (h : Keeps s u) (n : Nat) (hn : u.freeCtr ≤ n) : Keeps s { u with freeCtr := n } :=
  h.of rfl hn id

theorem Keeps.set_bulk {s u : State} (h : Keeps s u) (m : List Host.Cell) (hx : u.canonical = true → Memory.wf m = true) :
    Keeps s { u with bulk := m } := by
  refine h.of rfl (Nat.le_refl _) (fun hu => ?_)
  obtain ⟨c0, c1, c2, c3, c4, c5, c6, c7, c8, c9, c10, c11⟩ := (State.canonical_iff u).mp hu
  obtain ⟨d0, d1, d2, d3, d4, d5⟩ := (State.memCanonical_iff u).mp c0
  exact (State.canonical_iff _).mpr ⟨(State.memCanonical_iff _).mpr ⟨d0, hx hu, d2, d3, d4, d5⟩, c1, c2, c3, c4, c5, c6, c7, c8, c9, c10, c11⟩

theorem Keeps.set_host {s u : State} (h : Keeps s u) (m : List Host.Cell) (hx : u.canonical = true → Memory.wf m = true) :
    Keeps s { u with host := m } := by
  refine h.of rfl (Nat.le_refl _) (fun hu => ?_)
  obtain ⟨c0, c1, c2, c3, c4, c5, c6, c7, c8, c9, c10, c11⟩ := (State.canonical_iff u).mp hu
  obtain ⟨d0, d1, d2, d3, d4, d5⟩ := (State.memCanonical_iff u).mp c0
  exact (State.canonical_iff _).mpr ⟨(State.memCanonical_iff _).mpr ⟨d0, d1, hx hu, d3, d4, d5⟩, c1, c2, c3, c4, c5, c6, c7, c8, c9, c10, c11⟩

theorem Keeps.set_flash {s u : State} (h : Keeps s u) (m : List Host.Cell) (hx : u.canonical = true → Memory.wf m = true) :
    Keeps s { u with flash := m } := by
  refine h.of rfl (Nat.le_refl _) (fun hu => ?_)
  obtain ⟨c0, c1, c2, c3, c4, c5, c6, c7, c8, c9, c10, c11⟩ := (State.canonical_iff u).mp hu
  obtain ⟨d0, d1, d2, d3, d4, d5⟩ := (State.memCanonical_iff u).mp c0
  exact (State.canonical_iff _).mpr ⟨(State.memCanonical_iff _).mpr ⟨d0, d1, d2, hx hu, d4, d5⟩, c1, c2, c3, c4, c5, c6, c7, c8, c9, c10, c11⟩

theorem Keeps.set_mem {s u : State} (h : Keeps s u) (m : List Host.Cell)
    (hx : u.canonical = true → Tbl.wf u.memDefault m = true) : Keeps s { u with mem := m } := by
  refine h.of rfl (Nat.le_refl _) (fun hu => ?_)
  obtain ⟨c0, c1, c2, c3, c4, c5, c6, c7, c8, c9, c10, c11⟩ := (State.canonical_iff u).mp hu
  obtain ⟨d0, d1, d2, d3, d4, d5⟩ := (State.memCanonical_iff u).mp c0
  exact (State.canonical_iff _).mpr ⟨(State.memCanonical_iff _).mpr ⟨hx hu, d1, d2, d3, d4, d5⟩, c1, c2, c3, c4, c5, c6, c7, c8, c9, c10, c11⟩

theorem Keeps.set_regs {s u : State} (h : Keeps s u) (r : Tbl W32) (hx : u.canonical = true → Tbl.wf resetWord r = true) :
    Keeps s { u with regs := r } := by
  refine h.of rfl (Nat.le_refl _) (fun hu => ?_)
  obtain ⟨c0, c1, c2, c3, c4, c5, c6, c7, c8, c9, c10, c11⟩ := (State.canonical_iff u).mp hu
  exact (State.canonical_iff _).mpr ⟨c0, (State.regsCanonical_iff _).mpr ⟨hx hu, ((State.regsCanonical_iff u).mp c1).2⟩, c2, c3, c4, c5, c6, c7, c8, c9, c10, c11⟩

theorem Keeps.set_snaps {s u : State} (h : Keeps s u) (r : Tbl (Option W32)) (hx : u.canonical = true → Tbl.wf (fun _ => none) r = true) :
    Keeps s { u with snaps := r } := by
  refine h.of rfl (Nat.le_refl _) (fun hu => ?_)
  obtain ⟨c0, c1, c2, c3, c4, c5, c6, c7, c8, c9, c10, c11⟩ := (State.canonical_iff u).mp hu
  exact (State.canonical_iff _).mpr ⟨c0, (State.regsCanonical_iff _).mpr ⟨((State.regsCanonical_iff u).mp c1).1, hx hu⟩, c2, c3, c4, c5, c6, c7, c8, c9, c10, c11⟩

theorem Keeps.set_cores {s u : State} (h : Keeps s u) (x : Tbl Core) (hx : u.canonical = true → Tbl.wf (fun _ => {}) x = true) :
    Keeps s { u with cores := x } := by
  refine h.of rfl (Nat.le_refl _) (fun hu => ?_)
  obtain ⟨c0, c1, c2, c3, c4, c5, c6, c7, c8, c9, c10, c11⟩ := (State.canonical_iff u).mp hu
  obtain ⟨d0, d1, d2, d3, d4, d5, d6, d7, d8⟩ := (State.unitsCanonical_iff u).mp c2
  exact (State.canonical_iff _).mpr ⟨c0, c1, (State.unitsCanonical_iff _).mpr ⟨hx hu, d1, d2, d3, d4, d5, d6, d7, d8⟩, c3, c4, c5, c6, c7, c8, c9, c10, c11⟩

theorem Keeps.set_ffts {s u : State} (h : Keeps s u) (x : Tbl FftUnit) (hx : u.canonical = true → Tbl.wf (fun _ => {}) x = true) :
    Keeps s { u with ffts := x } := by
  refine h.of rfl (Nat.le_refl _) (fun hu => ?_)
  obtain ⟨c0, c1, c2, c3, c4, c5, c6, c7, c8, c9, c10, c11⟩ := (State.canonical_iff u).mp hu
  obtain ⟨d0, d1, d2, d3, d4, d5, d6, d7, d8⟩ := (State.unitsCanonical_iff u).mp c2
  exact (State.canonical_iff _).mpr ⟨c0, c1, (State.unitsCanonical_iff _).mpr ⟨d0, hx hu, d2, d3, d4, d5, d6, d7, d8⟩, c3, c4, c5, c6, c7, c8, c9, c10, c11⟩

theorem Keeps.set_waiters {s u : State} (h : Keeps s u) (x : Tbl (List Nat)) (hx : u.canonical = true → Tbl.wf (fun _ => []) x = true) :
    Keeps s { u with waiters := x } := by
  refine h.of rfl (Nat.le_refl _) (fun hu => ?_)
  obtain ⟨c0, c1, c2, c3, c4, c5, c6, c7, c8, c9, c10, c11⟩ := (State.canonical_iff u).mp hu
  obtain ⟨d0, d1, d2, d3, d4, d5, d6, d7, d8⟩ := (State.unitsCanonical_iff u).mp c2
  exact (State.canonical_iff _).mpr ⟨c0, c1, (State.unitsCanonical_iff _).mpr ⟨d0, d1, hx hu, d3, d4, d5, d6, d7, d8⟩, c3, c4, c5, c6, c7, c8, c9, c10, c11⟩

theorem Keeps.set_lockReqs {s u : State} (h : Keeps s u) (x : Tbl LockReq) (hx : u.canonical = true → Tbl.wf (fun _ => {}) x = true) :
    Keeps s { u with lockReqs := x } := by
  refine h.of rfl (Nat.le_refl _) (fun hu => ?_)
  obtain ⟨c0, c1, c2, c3, c4, c5, c6, c7, c8, c9, c10, c11⟩ := (State.canonical_iff u).mp hu
  obtain ⟨d0, d1, d2, d3, d4, d5, d6, d7, d8⟩ := (State.unitsCanonical_iff u).mp c2
  exact (State.canonical_iff _).mpr ⟨c0, c1, (State.unitsCanonical_iff _).mpr ⟨d0, d1, d2, hx hu, d4, d5, d6, d7, d8⟩, c3, c4, c5, c6, c7, c8, c9, c10, c11⟩

theorem Keeps.set_ports {s u : State} (h : Keeps s u) (x : Tbl PortSt) (hx : u.canonical = true → Tbl.wf (fun _ => {}) x = true) :
    Keeps s { u with ports := x } := by
  refine h.of rfl (Nat.le_refl _) (fun hu => ?_)
  obtain ⟨c0, c1, c2, c3, c4, c5, c6, c7, c8, c9, c10, c11⟩ := (State.canonical_iff u).mp hu
  obtain ⟨d0, d1, d2, d3, d4, d5, d6, d7, d8⟩ := (State.unitsCanonical_iff u).mp c2
  exact (State.canonical_iff _).mpr ⟨c0, c1, (State.unitsCanonical_iff _).mpr ⟨d0, d1, d2, d3, hx hu, d5, d6, d7, d8⟩, c3, c4, c5, c6, c7, c8, c9, c10, c11⟩

theorem Keeps.set_mics {s u : State} (h : Keeps s u) (x : Tbl MicSt) (hx : u.canonical = true → Tbl.wf (fun _ => {}) x = true) :
    Keeps s { u with mics := x } := by
  refine h.of rfl (Nat.le_refl _) (fun hu => ?_)
  obtain ⟨c0, c1, c2, c3, c4, c5, c6, c7, c8, c9, c10, c11⟩ := (State.canonical_iff u).mp hu
  obtain ⟨d0, d1, d2, d3, d4, d5, d6, d7, d8⟩ := (State.unitsCanonical_iff u).mp c2
  exact (State.canonical_iff _).mpr ⟨c0, c1, (State.unitsCanonical_iff _).mpr ⟨d0, d1, d2, d3, d4, hx hu, d6, d7, d8⟩, c3, c4, c5, c6, c7, c8, c9, c10, c11⟩

theorem Keeps.set_lanes {s u : State} (h : Keeps s u) (x : Tbl LaneSt) (hx : u.canonical = true → Tbl.wf (fun _ => {}) x = true) :
    Keeps s { u with lanes := x } := by
  refine h.of rfl (Nat.le_refl _) (fun hu => ?_)
  obtain ⟨c0, c1, c2, c3, c4, c5, c6, c7, c8, c9, c10, c11⟩ := (State.canonical_iff u).mp hu
  obtain ⟨d0, d1, d2, d3, d4, d5, d6, d7, d8⟩ := (State.unitsCanonical_iff u).mp c2
  exact (State.canonical_iff _).mpr ⟨c0, c1, (State.unitsCanonical_iff _).mpr ⟨d0, d1, d2, d3, d4, d5, hx hu, d7, d8⟩, c3, c4, c5, c6, c7, c8, c9, c10, c11⟩

theorem Keeps.set_rtpRx {s u : State} (h : Keeps s u) (x : Tbl RtpRx) (hx : u.canonical = true → Tbl.wf (fun _ => {}) x = true) :
    Keeps s { u with rtpRx := x } := by
  refine h.of rfl (Nat.le_refl _) (fun hu => ?_)
  obtain ⟨c0, c1, c2, c3, c4, c5, c6, c7, c8, c9, c10, c11⟩ := (State.canonical_iff u).mp hu
  obtain ⟨d0, d1, d2, d3, d4, d5, d6, d7, d8⟩ := (State.unitsCanonical_iff u).mp c2
  exact (State.canonical_iff _).mpr ⟨c0, c1, (State.unitsCanonical_iff _).mpr ⟨d0, d1, d2, d3, d4, d5, d6, hx hu, d8⟩, c3, c4, c5, c6, c7, c8, c9, c10, c11⟩

theorem Keeps.set_rtpTx {s u : State} (h : Keeps s u) (x : Tbl RtpTx) (hx : u.canonical = true → Tbl.wf (fun _ => {}) x = true) :
    Keeps s { u with rtpTx := x } := by
  refine h.of rfl (Nat.le_refl _) (fun hu => ?_)
  obtain ⟨c0, c1, c2, c3, c4, c5, c6, c7, c8, c9, c10, c11⟩ := (State.canonical_iff u).mp hu
  obtain ⟨d0, d1, d2, d3, d4, d5, d6, d7, d8⟩ := (State.unitsCanonical_iff u).mp c2
  exact (State.canonical_iff _).mpr ⟨c0, c1, (State.unitsCanonical_iff _).mpr ⟨d0, d1, d2, d3, d4, d5, d6, d7, hx hu⟩, c3, c4, c5, c6, c7, c8, c9, c10, c11⟩

theorem State.canonical_eng {s : State} (h : s.canonical = true) : s.eng.canonical = true := by
  simp only [State.canonical, Bool.and_eq_true] at h
  simp only [h]

theorem State.canonical_hif {s : State} (h : s.canonical = true) : s.hif.canonical = true := by
  simp only [State.canonical, Bool.and_eq_true] at h
  simp only [h]

theorem State.canonical_clk {s : State} (h : s.canonical = true) : s.clk.canonical = true := by
  simp only [State.canonical, Bool.and_eq_true] at h
  simp only [h]

theorem State.canonical_tim {s : State} (h : s.canonical = true) : s.tim.canonical = true := by
  simp only [State.canonical, Bool.and_eq_true] at h
  simp only [h]

theorem State.canonical_link {s : State} (h : s.canonical = true) : s.link.canonical = true := by
  simp only [State.canonical, Bool.and_eq_true] at h
  simp only [h]

theorem State.canonical_pair {s : State} (h : s.canonical = true) : s.pair.canonical = true := by
  simp only [State.canonical, Bool.and_eq_true] at h
  simp only [h]

theorem State.canonical_yard {s : State} (h : s.canonical = true) : s.yard.canonical = true := by
  simp only [State.canonical, Bool.and_eq_true] at h
  simp only [h]

theorem State.canonical_weevil {s : State} (h : s.canonical = true) : s.weevil.canonical = true := by
  simp only [State.canonical, Bool.and_eq_true] at h
  simp only [h]

theorem State.canonical_cores {s : State} (h : s.canonical = true) : Tbl.wf (fun _ => {}) s.cores = true := by
  simp only [State.canonical, State.unitsCanonical, Bool.and_eq_true] at h
  simp only [h]

theorem State.canonical_ffts {s : State} (h : s.canonical = true) : Tbl.wf (fun _ => {}) s.ffts = true := by
  simp only [State.canonical, State.unitsCanonical, Bool.and_eq_true] at h
  simp only [h]

theorem State.canonical_waiters {s : State} (h : s.canonical = true) : Tbl.wf (fun _ => []) s.waiters = true := by
  simp only [State.canonical, State.unitsCanonical, Bool.and_eq_true] at h
  simp only [h]

theorem State.canonical_lockReqs {s : State} (h : s.canonical = true) : Tbl.wf (fun _ => {}) s.lockReqs = true := by
  simp only [State.canonical, State.unitsCanonical, Bool.and_eq_true] at h
  simp only [h]

theorem State.canonical_ports {s : State} (h : s.canonical = true) : Tbl.wf (fun _ => {}) s.ports = true := by
  simp only [State.canonical, State.unitsCanonical, Bool.and_eq_true] at h
  simp only [h]

theorem State.canonical_mics {s : State} (h : s.canonical = true) : Tbl.wf (fun _ => {}) s.mics = true := by
  simp only [State.canonical, State.unitsCanonical, Bool.and_eq_true] at h
  simp only [h]

theorem State.canonical_lanes {s : State} (h : s.canonical = true) : Tbl.wf (fun _ => {}) s.lanes = true := by
  simp only [State.canonical, State.unitsCanonical, Bool.and_eq_true] at h
  simp only [h]

theorem State.canonical_rtpRx {s : State} (h : s.canonical = true) : Tbl.wf (fun _ => {}) s.rtpRx = true := by
  simp only [State.canonical, State.unitsCanonical, Bool.and_eq_true] at h
  simp only [h]

theorem State.canonical_rtpTx {s : State} (h : s.canonical = true) : Tbl.wf (fun _ => {}) s.rtpTx = true := by
  simp only [State.canonical, State.unitsCanonical, Bool.and_eq_true] at h
  simp only [h]

theorem State.canonical_regs {s : State} (h : s.canonical = true) : Tbl.wf resetWord s.regs = true := by
  simp only [State.canonical, State.memCanonical, State.regsCanonical, Bool.and_eq_true] at h
  simp only [h]

theorem State.canonical_snaps {s : State} (h : s.canonical = true) : Tbl.wf (fun _ => none) s.snaps = true := by
  simp only [State.canonical, State.memCanonical, State.regsCanonical, Bool.and_eq_true] at h
  simp only [h]

theorem State.canonical_bulk {s : State} (h : s.canonical = true) : Memory.wf s.bulk = true := by
  simp only [State.canonical, State.memCanonical, State.regsCanonical, Bool.and_eq_true] at h
  simp only [h]

theorem State.canonical_host {s : State} (h : s.canonical = true) : Memory.wf s.host = true := by
  simp only [State.canonical, State.memCanonical, State.regsCanonical, Bool.and_eq_true] at h
  simp only [h]

theorem State.canonical_flash {s : State} (h : s.canonical = true) : Memory.wf s.flash = true := by
  simp only [State.canonical, State.memCanonical, State.regsCanonical, Bool.and_eq_true] at h
  simp only [h]

theorem State.canonical_mem {s : State} (h : s.canonical = true) : Tbl.wf s.memDefault s.mem = true := by
  simp only [State.canonical, State.memCanonical, State.regsCanonical, Bool.and_eq_true] at h
  simp only [h]

theorem State.canonical_spoiled {s : State} (h : s.canonical = true) : Tbl.wf (fun _ => none) s.tst.spoiled = true := by
  simp only [State.canonical, State.memCanonical, State.regsCanonical, Bool.and_eq_true] at h
  simp only [h]

theorem State.canonical_spoiled_lt {s : State} (h : s.canonical = true) : s.tst.spoiled.all (fun e => decide (e.1 < 96)) = true := by
  simp only [State.canonical, State.memCanonical, State.regsCanonical, Bool.and_eq_true] at h
  simp only [h]

theorem State.canonical_reqs {s : State} (h : s.canonical = true) : Tbl.wf (fun _ => none) s.blk.reqs = true := by
  simp only [State.canonical, State.memCanonical, State.regsCanonical, Bool.and_eq_true] at h
  simp only [h]

/-! ### Writes of several parts -/

theorem Keeps.set_host_hif {s u : State} (h : Keeps s u) (x_host : List Host.Cell) (h_host : u.canonical = true → Memory.wf x_host = true) (x_hif : Hif) (h_hif : u.canonical = true → x_hif.canonical = true) :
    Keeps s { u with host := x_host, hif := x_hif } := by
  refine h.of rfl (Nat.le_refl _) (fun hu => ?_)
  obtain ⟨c0, c1, c2, c3, c4, c5, c6, c7, c8, c9, c10, c11⟩ := (State.canonical_iff u).mp hu
  obtain ⟨d0, d1, d2, d3, d4, d5⟩ := (State.memCanonical_iff u).mp c0
  obtain ⟨e0, e1, e2, e3, e4, e5, e6, e7, e8⟩ := (State.unitsCanonical_iff u).mp c2
  exact (State.canonical_iff _).mpr ⟨(State.memCanonical_iff _).mpr ⟨d0, d1, h_host hu, d3, d4, d5⟩, c1, (State.unitsCanonical_iff _).mpr ⟨e0, e1, e2, e3, e4, e5, e6, e7, e8⟩, c3, h_hif hu, c5, c6, c7, c8, c9, c10, c11⟩

theorem Keeps.set_eng_link {s u : State} (h : Keeps s u) (x_eng : Eng) (h_eng : u.canonical = true → x_eng.canonical = true) (x_link : Link) (h_link : u.canonical = true → x_link.canonical = true) :
    Keeps s { u with eng := x_eng, link := x_link } := by
  refine h.of rfl (Nat.le_refl _) (fun hu => ?_)
  obtain ⟨c0, c1, c2, c3, c4, c5, c6, c7, c8, c9, c10, c11⟩ := (State.canonical_iff u).mp hu
  obtain ⟨d0, d1, d2, d3, d4, d5⟩ := (State.memCanonical_iff u).mp c0
  obtain ⟨e0, e1, e2, e3, e4, e5, e6, e7, e8⟩ := (State.unitsCanonical_iff u).mp c2
  exact (State.canonical_iff _).mpr ⟨(State.memCanonical_iff _).mpr ⟨d0, d1, d2, d3, d4, d5⟩, c1, (State.unitsCanonical_iff _).mpr ⟨e0, e1, e2, e3, e4, e5, e6, e7, e8⟩, h_eng hu, c4, c5, c6, h_link hu, c8, c9, c10, c11⟩

theorem Keeps.set_bulk_eng {s u : State} (h : Keeps s u) (x_bulk : List Host.Cell) (h_bulk : u.canonical = true → Memory.wf x_bulk = true) (x_eng : Eng) (h_eng : u.canonical = true → x_eng.canonical = true) :
    Keeps s { u with bulk := x_bulk, eng := x_eng } := by
  refine h.of rfl (Nat.le_refl _) (fun hu => ?_)
  obtain ⟨c0, c1, c2, c3, c4, c5, c6, c7, c8, c9, c10, c11⟩ := (State.canonical_iff u).mp hu
  obtain ⟨d0, d1, d2, d3, d4, d5⟩ := (State.memCanonical_iff u).mp c0
  obtain ⟨e0, e1, e2, e3, e4, e5, e6, e7, e8⟩ := (State.unitsCanonical_iff u).mp c2
  exact (State.canonical_iff _).mpr ⟨(State.memCanonical_iff _).mpr ⟨d0, h_bulk hu, d2, d3, d4, d5⟩, c1, (State.unitsCanonical_iff _).mpr ⟨e0, e1, e2, e3, e4, e5, e6, e7, e8⟩, h_eng hu, c4, c5, c6, c7, c8, c9, c10, c11⟩

theorem Keeps.set_bulk_blk {s u : State} (h : Keeps s u) (x_bulk : List Host.Cell) (h_bulk : u.canonical = true → Memory.wf x_bulk = true) (x_blk : BulkCtl) (h_blk : u.canonical = true → Tbl.wf (fun _ => none) x_blk.reqs = true) :
    Keeps s { u with bulk := x_bulk, blk := x_blk } := by
  refine h.of rfl (Nat.le_refl _) (fun hu => ?_)
  obtain ⟨c0, c1, c2, c3, c4, c5, c6, c7, c8, c9, c10, c11⟩ := (State.canonical_iff u).mp hu
  obtain ⟨d0, d1, d2, d3, d4, d5⟩ := (State.memCanonical_iff u).mp c0
  obtain ⟨e0, e1, e2, e3, e4, e5, e6, e7, e8⟩ := (State.unitsCanonical_iff u).mp c2
  exact (State.canonical_iff _).mpr ⟨(State.memCanonical_iff _).mpr ⟨d0, h_bulk hu, d2, d3, d4, d5⟩, c1, (State.unitsCanonical_iff _).mpr ⟨e0, e1, e2, e3, e4, e5, e6, e7, e8⟩, c3, c4, c5, c6, c7, c8, c9, c10, h_blk hu⟩

theorem Keeps.set_eng_cores_ffts {s u : State} (h : Keeps s u) (x_eng : Eng) (h_eng : u.canonical = true → x_eng.canonical = true) (x_cores : Tbl Core) (h_cores : u.canonical = true → Tbl.wf (fun _ => {}) x_cores = true) (x_ffts : Tbl FftUnit) (h_ffts : u.canonical = true → Tbl.wf (fun _ => {}) x_ffts = true) :
    Keeps s { u with eng := x_eng, cores := x_cores, ffts := x_ffts } := by
  refine h.of rfl (Nat.le_refl _) (fun hu => ?_)
  obtain ⟨c0, c1, c2, c3, c4, c5, c6, c7, c8, c9, c10, c11⟩ := (State.canonical_iff u).mp hu
  obtain ⟨d0, d1, d2, d3, d4, d5⟩ := (State.memCanonical_iff u).mp c0
  obtain ⟨e0, e1, e2, e3, e4, e5, e6, e7, e8⟩ := (State.unitsCanonical_iff u).mp c2
  exact (State.canonical_iff _).mpr ⟨(State.memCanonical_iff _).mpr ⟨d0, d1, d2, d3, d4, d5⟩, c1, (State.unitsCanonical_iff _).mpr ⟨h_cores hu, h_ffts hu, e2, e3, e4, e5, e6, e7, e8⟩, h_eng hu, c4, c5, c6, c7, c8, c9, c10, c11⟩

theorem Keeps.set_eng_tim_blk_hif {s u : State} (h : Keeps s u) (x_eng : Eng) (h_eng : u.canonical = true → x_eng.canonical = true) (x_tim : TimSt) (h_tim : u.canonical = true → x_tim.canonical = true) (x_blk : BulkCtl) (h_blk : u.canonical = true → Tbl.wf (fun _ => none) x_blk.reqs = true) (x_hif : Hif) (h_hif : u.canonical = true → x_hif.canonical = true) :
    Keeps s { u with eng := x_eng, tim := x_tim, blk := x_blk, hif := x_hif } := by
  refine h.of rfl (Nat.le_refl _) (fun hu => ?_)
  obtain ⟨c0, c1, c2, c3, c4, c5, c6, c7, c8, c9, c10, c11⟩ := (State.canonical_iff u).mp hu
  obtain ⟨d0, d1, d2, d3, d4, d5⟩ := (State.memCanonical_iff u).mp c0
  obtain ⟨e0, e1, e2, e3, e4, e5, e6, e7, e8⟩ := (State.unitsCanonical_iff u).mp c2
  exact (State.canonical_iff _).mpr ⟨(State.memCanonical_iff _).mpr ⟨d0, d1, d2, d3, d4, d5⟩, c1, (State.unitsCanonical_iff _).mpr ⟨e0, e1, e2, e3, e4, e5, e6, e7, e8⟩, h_eng hu, h_hif hu, c5, h_tim hu, c7, c8, c9, c10, h_blk hu⟩

theorem Keeps.set_waiters_lockReqs_cores_yard_weevil_blk_tst_hif {s u : State} (h : Keeps s u) (x_waiters : Tbl (List Nat)) (h_waiters : u.canonical = true → Tbl.wf (fun _ => []) x_waiters = true) (x_lockReqs : Tbl LockReq) (h_lockReqs : u.canonical = true → Tbl.wf (fun _ => {}) x_lockReqs = true) (x_cores : Tbl Core) (h_cores : u.canonical = true → Tbl.wf (fun _ => {}) x_cores = true) (x_yard : YardSt) (h_yard : u.canonical = true → x_yard.canonical = true) (x_weevil : Weevil) (h_weevil : u.canonical = true → x_weevil.canonical = true) (x_blk : BulkCtl) (h_blk : u.canonical = true → Tbl.wf (fun _ => none) x_blk.reqs = true) (x_tst : TstSt) (h_tst : x_tst.spoiled = u.tst.spoiled) (x_hif : Hif) (h_hif : u.canonical = true → x_hif.canonical = true) :
    Keeps s { u with waiters := x_waiters, lockReqs := x_lockReqs, cores := x_cores, yard := x_yard, weevil := x_weevil, blk := x_blk, tst := x_tst, hif := x_hif } := by
  refine h.of rfl (Nat.le_refl _) (fun hu => ?_)
  obtain ⟨c0, c1, c2, c3, c4, c5, c6, c7, c8, c9, c10, c11⟩ := (State.canonical_iff u).mp hu
  obtain ⟨d0, d1, d2, d3, d4, d5⟩ := (State.memCanonical_iff u).mp c0
  obtain ⟨e0, e1, e2, e3, e4, e5, e6, e7, e8⟩ := (State.unitsCanonical_iff u).mp c2
  exact (State.canonical_iff _).mpr ⟨(State.memCanonical_iff _).mpr ⟨(by rw [show State.memDefault _ = u.memDefault from by funext a; simp only [State.memDefault, h_tst]]; exact d0), d1, d2, d3, (by show Tbl.wf _ x_tst.spoiled = true; rw [h_tst]; exact d4), (by show x_tst.spoiled.all _ = true; rw [h_tst]; exact d5)⟩, c1, (State.unitsCanonical_iff _).mpr ⟨h_cores hu, e1, h_waiters hu, h_lockReqs hu, e4, e5, e6, e7, e8⟩, c3, h_hif hu, c5, c6, c7, c8, h_yard hu, h_weevil hu, h_blk hu⟩

theorem Keeps.set_lanes_rtpRx_rtpTx_link_pair {s u : State} (h : Keeps s u) (x_lanes : Tbl LaneSt) (h_lanes : u.canonical = true → Tbl.wf (fun _ => {}) x_lanes = true) (x_rtpRx : Tbl RtpRx) (h_rtpRx : u.canonical = true → Tbl.wf (fun _ => {}) x_rtpRx = true) (x_rtpTx : Tbl RtpTx) (h_rtpTx : u.canonical = true → Tbl.wf (fun _ => {}) x_rtpTx = true) (x_link : Link) (h_link : u.canonical = true → x_link.canonical = true) (x_pair : Pair) (h_pair : u.canonical = true → x_pair.canonical = true) :
    Keeps s { u with lanes := x_lanes, rtpRx := x_rtpRx, rtpTx := x_rtpTx, link := x_link, pair := x_pair } := by
  refine h.of rfl (Nat.le_refl _) (fun hu => ?_)
  obtain ⟨c0, c1, c2, c3, c4, c5, c6, c7, c8, c9, c10, c11⟩ := (State.canonical_iff u).mp hu
  obtain ⟨d0, d1, d2, d3, d4, d5⟩ := (State.memCanonical_iff u).mp c0
  obtain ⟨e0, e1, e2, e3, e4, e5, e6, e7, e8⟩ := (State.unitsCanonical_iff u).mp c2
  exact (State.canonical_iff _).mpr ⟨(State.memCanonical_iff _).mpr ⟨d0, d1, d2, d3, d4, d5⟩, c1, (State.unitsCanonical_iff _).mpr ⟨e0, e1, e2, e3, e4, e5, h_lanes hu, h_rtpRx hu, h_rtpTx hu⟩, c3, c4, c5, c6, h_link hu, h_pair hu, c9, c10, c11⟩

theorem Keeps.set_ports_mics {s u : State} (h : Keeps s u) (x_ports : Tbl PortSt) (h_ports : u.canonical = true → Tbl.wf (fun _ => {}) x_ports = true) (x_mics : Tbl MicSt) (h_mics : u.canonical = true → Tbl.wf (fun _ => {}) x_mics = true) :
    Keeps s { u with ports := x_ports, mics := x_mics } := by
  refine h.of rfl (Nat.le_refl _) (fun hu => ?_)
  obtain ⟨c0, c1, c2, c3, c4, c5, c6, c7, c8, c9, c10, c11⟩ := (State.canonical_iff u).mp hu
  obtain ⟨d0, d1, d2, d3, d4, d5⟩ := (State.memCanonical_iff u).mp c0
  obtain ⟨e0, e1, e2, e3, e4, e5, e6, e7, e8⟩ := (State.unitsCanonical_iff u).mp c2
  exact (State.canonical_iff _).mpr ⟨(State.memCanonical_iff _).mpr ⟨d0, d1, d2, d3, d4, d5⟩, c1, (State.unitsCanonical_iff _).mpr ⟨e0, e1, e2, e3, h_ports hu, h_mics hu, e6, e7, e8⟩, c3, c4, c5, c6, c7, c8, c9, c10, c11⟩

theorem Keeps.set_clk_tim {s u : State} (h : Keeps s u) (x_clk : ClkSt) (h_clk : u.canonical = true → x_clk.canonical = true) (x_tim : TimSt) (h_tim : u.canonical = true → x_tim.canonical = true) :
    Keeps s { u with clk := x_clk, tim := x_tim } := by
  refine h.of rfl (Nat.le_refl _) (fun hu => ?_)
  obtain ⟨c0, c1, c2, c3, c4, c5, c6, c7, c8, c9, c10, c11⟩ := (State.canonical_iff u).mp hu
  obtain ⟨d0, d1, d2, d3, d4, d5⟩ := (State.memCanonical_iff u).mp c0
  obtain ⟨e0, e1, e2, e3, e4, e5, e6, e7, e8⟩ := (State.unitsCanonical_iff u).mp c2
  exact (State.canonical_iff _).mpr ⟨(State.memCanonical_iff _).mpr ⟨d0, d1, d2, d3, d4, d5⟩, c1, (State.unitsCanonical_iff _).mpr ⟨e0, e1, e2, e3, e4, e5, e6, e7, e8⟩, c3, c4, h_clk hu, h_tim hu, c7, c8, c9, c10, c11⟩

/-! ### The Yard's memory beyond the Stalls -/

theorem State.memDefault_high {s : State} (hc : s.canonical = true) (a : Nat) (ha : 0x1800000 ≤ a) : s.memDefault a = 0 := by
  have h1 := State.canonical_spoiled hc
  have h2 := State.canonical_spoiled_lt hc
  have key : Tbl.get s.tst.spoiled none (a / 0x40000) = none := by
    have hk : 96 ≤ a / 0x40000 := by omega
    clear h1
    generalize s.tst.spoiled = t at h2
    induction t with
    | nil => rfl
    | cons p rest ih =>
      obtain ⟨k, v⟩ := p
      simp only [List.all_cons, Bool.and_eq_true, decide_eq_true_eq] at h2
      unfold Tbl.get
      rw [if_neg (by omega), if_neg (by omega)]
      exact ih h2.2
  simp only [State.memDefault, key]

theorem Memory.wf_setByte_high {s : State} {m : List Host.Cell} (hc : s.canonical = true) (a : Nat) (b : BitVec 8)
    (ha : 0x1800000 ≤ a) (h : Tbl.wf s.memDefault m = true) : Tbl.wf s.memDefault (setByte m a b) = true := by
  unfold setByte
  have := Tbl.wf_set s.memDefault b a m h
  rw [State.memDefault_high hc a ha] at this
  exact this

theorem Memory.wf_setBytes_high' {s : State} {m : List Host.Cell} (hc : s.canonical = true) (a : Nat) (bs : List Nat)
    (ha : 0x1800000 ≤ a) (h : Tbl.wf s.memDefault m = true) : Tbl.wf s.memDefault (setBytes m a bs) = true := by
  induction bs generalizing m a with
  | nil => exact h
  | cons b rest ih => exact ih (a + 1) (by omega) (Memory.wf_setByte_high hc a _ ha h)

theorem Memory.wf_setBytes_high {s : State} (hc : s.canonical = true) (a : Nat) (bs : List Nat) (ha : 0x1800000 ≤ a) :
    Tbl.wf s.memDefault (setBytes s.mem a bs) = true :=
  Memory.wf_setBytes_high' hc a bs ha (State.canonical_mem hc)

theorem Memory.wf_setLe_high {s : State} (hc : s.canonical = true) (a n v : Nat) (ha : 0x1800000 ≤ a) :
    Tbl.wf s.memDefault (setLe s.mem a n v) = true := Memory.wf_setBytes_high hc a _ ha

/-! ### Choices and loops -/

theorem Keeps.ite {s a b : State} {c : Prop} [Decidable c] (ha : Keeps s a) (hb : Keeps s b) : Keeps s (if c then a else b) := by
  split
  · exact ha
  · exact hb

theorem Keeps.ite_snd {α : Type} {s : State} {a b : α × State} {c : Prop} [Decidable c] (ha : Keeps s a.2) (hb : Keeps s b.2) :
    Keeps s (if c then a else b).2 := by
  split
  · exact ha
  · exact hb

theorem Keeps.ite_fst {α : Type} {s : State} {a b : State × α} {c : Prop} [Decidable c] (ha : Keeps s a.1) (hb : Keeps s b.1) :
    Keeps s (if c then a else b).1 := by
  split
  · exact ha
  · exact hb


theorem forEach_keeps {α : Type} {s u : State} (h : Keeps s u) (l : List α) (f : State → α → State)
    (hf : ∀ v x, Keeps s v → Keeps s (f v x)) : Keeps s (forEach l u f) := by
  unfold forEach
  induction l generalizing u with
  | nil => exact h
  | cons b rest ih => exact ih (hf u b h)

theorem foldl_keeps_snd {α β : Type} {s : State} (l : List β) (f : α × State → β → α × State) (i : α × State) (h : Keeps s i.2)
    (hf : ∀ acc x, Keeps s acc.2 → Keeps s (f acc x).2) : Keeps s (l.foldl f i).2 := by
  induction l generalizing i with
  | nil => exact h
  | cons b rest ih => exact ih _ (hf i b h)

theorem foldl_keeps_fst {α β : Type} {s : State} (l : List β) (f : State × α → β → State × α) (i : State × α) (h : Keeps s i.1)
    (hf : ∀ acc x, Keeps s acc.1 → Keeps s (f acc x).1) : Keeps s (l.foldl f i).1 := by
  induction l generalizing i with
  | nil => exact h
  | cons b rest ih => exact ih _ (hf i b h)

theorem foldl_keeps {β : Type} {s : State} (l : List β) (f : State → β → State) (i : State) (h : Keeps s i)
    (hf : ∀ v x, Keeps s v → Keeps s (f v x)) : Keeps s (l.foldl f i) := by
  induction l generalizing i with
  | nil => exact h
  | cons b rest ih => exact ih _ (hf i b h)

end Sys2Proof.Machine
end

