-- ==== Sys2Proof/Laws/Keeps/Ops.lean ====
section
/-! SUPPORT. What the operations of Machine/Ops.lean keep. -/

namespace Sys2Proof.Machine

open Sys2Proof.Arith

set_option linter.unreachableTactic false
set_option linter.unusedTactic false
set_option linter.unusedVariables false
set_option linter.unusedSimpArgs false

theorem State.setReg_keeps {s u : State} (h : Keeps s u) (off : Nat) (w : W32) : Keeps s (State.setReg u off w) := by
  unfold State.setReg
  repeat' first
    | with_reducible assumption
    | (intro zz; refine Keeps.cut (s := s) (t := zz) ?_ (fun hz => ?_); unfold zz)
    | (intro zz; subst zz)
    | lift_lets -underBinder
    | split
    | ((fail_if_success (with_reducible refine Keeps.set_jtag ?_ _)); (with_reducible refine Keeps.set_regs ?_ _ ?_); rotate_left; first | exact fun hc => Tbl.wf_set resetWord _ _ _ (State.canonical_regs hc))

theorem State.fset_keeps {s u : State} (h : Keeps s u) (f : Field) (v : Nat) : Keeps s (State.fset u f v) := by
  unfold State.fset
  repeat' first
    | with_reducible assumption
    | with_reducible first | apply State.setReg_keeps
    | split

theorem State.count_keeps {s u : State} (h : Keeps s u) (f : Field) (n : Nat) : Keeps s (State.count u f n) := by
  unfold State.count
  repeat' first
    | with_reducible assumption
    | with_reducible first | apply State.fset_keeps
    | split

theorem State.bump_keeps {s u : State} (h : Keeps s u) (off : Nat) : Keeps s (State.bump u off) := by
  unfold State.bump
  repeat' first
    | with_reducible assumption
    | with_reducible first | apply State.count_keeps
    | split

theorem State.writePlain_keeps {s u : State} (h : Keeps s u) (off : Nat) (v : W32) : Keeps s (State.writePlain u off v) := by
  unfold State.writePlain
  repeat' first
    | with_reducible assumption
    | (intro zz; refine Keeps.cut (s := s) (t := zz) ?_ (fun hz => ?_); unfold zz)
    | (intro zz; subst zz)
    | lift_lets -underBinder
    | with_reducible first | apply State.setReg_keeps | apply Keeps.ite
    | split

theorem State.draw_keeps {s u : State} (h : Keeps s u) (n : Nat) : Keeps s (State.draw u n).2 := by
  unfold State.draw
  repeat' first
    | with_reducible assumption
    | (intro zz; refine Keeps.cut (s := s) (t := zz) ?_ (fun hz => ?_); unfold zz)
    | (intro zz; subst zz)
    | lift_lets -underBinder
    | split
    | ((fail_if_success (with_reducible refine Keeps.set_jtag ?_ _)); (with_reducible refine Keeps.set_freeCtr ?_ _ ?_); rotate_left; first | exact Nat.le_add_right _ _)

theorem State.undefinedData_keeps {s u : State} (h : Keeps s u) (kind n : Nat) : Keeps s (State.undefinedData u kind n).2 := by
  induction n generalizing u with
  | zero => exact h
  | succ n ih =>
    rw [State.undefinedData]
    split
    · exact ih (State.draw_keeps h _)
    · exact ih h

theorem State.drawWord_keeps {s u : State} (h : Keeps s u)  : Keeps s (State.drawWord u).2 := by
  unfold State.drawWord
  repeat' first
    | with_reducible assumption
    | with_reducible first | apply State.draw_keeps | apply Keeps.ite_snd | apply Keeps.ite_fst
    | split

theorem State.seenBits_keeps {s u : State} (h : Keeps s u) (levels : List Bool) : Keeps s (State.seenBits u levels).2 := by
  unfold State.seenBits
  repeat' first
    | with_reducible assumption
    | (intro zz; refine Keeps.cut (s := s) (t := zz) ?_ (fun hz => ?_); unfold zz)
    | (intro zz; subst zz)
    | lift_lets -underBinder
    | with_reducible first | apply Keeps.ite | apply Keeps.ite_snd | apply Keeps.ite_fst
    | split
    | ((fail_if_success (with_reducible refine Keeps.set_jtag ?_ _)); (with_reducible refine Keeps.set_freeCtr ?_ _ ?_); rotate_left; first | exact Nat.le_add_right _ _)

theorem State.ageYard_keeps {s u : State} (h : Keeps s u)  : Keeps s (State.ageYard u) := by
  unfold State.ageYard
  repeat' first
    | with_reducible assumption
    | (intro zz; refine Keeps.cut (s := s) (t := zz) ?_ (fun hz => ?_); unfold zz)
    | (intro zz; subst zz)
    | lift_lets -underBinder
    | split
    | ((fail_if_success (with_reducible refine Keeps.set_jtag ?_ _)); (with_reducible refine Keeps.set_yard ?_ _ ?_); rotate_left; first | (intro hc; have q := State.canonical_yard hc; simp only [YardSt.canonical, Bool.and_eq_true] at q ⊢; simp only [q, Tbl.wf_const, Tbl.wf_nil, List.all_nil, and_self]) | exact fun _ => by decide)

theorem State.setStallByte_keeps {s u : State} (h : Keeps s u) (a : Nat) (b : BitVec 8) : Keeps s (u.setStallByte a b) := by
  unfold State.setStallByte
  exact h.set_mem _ (fun hc => Tbl.wf_set _ _ _ _ (State.canonical_mem hc))

theorem State.setStallBytes_keeps {s u : State} (h : Keeps s u) (a : Nat) (bs : List Nat) : Keeps s (u.setStallBytes a bs) := by
  induction bs generalizing u a with
  | nil => rw [State.setStallBytes]; exact h
  | cons b rest ih => rw [State.setStallBytes]; exact ih (State.setStallByte_keeps h a _) (a + 1)

theorem State.memDefault_spoil (u : State) (m : List Host.Cell) (n k a : Nat) (hc : Tbl.rising u.tst.spoiled = true)
    (ha : a / 0x40000 ≠ k) :
    State.memDefault { u with mem := m, freeCtr := n + 1, tst := { u.tst with spoiled := Tbl.set u.tst.spoiled none k (some n) } } a =
      u.memDefault a := by
  simp only [State.memDefault]
  rw [Tbl.get_set_other none none (some n) k (a / 0x40000) u.tst.spoiled ha hc]

theorem State.spoilStall_keeps {s u : State} (h : Keeps s u) (k : Nat) (hk : k < 96) : Keeps s (u.spoilStall k) := by
  unfold State.spoilStall
  refine h.of rfl (Nat.le_succ _) (fun hu => ?_)
  obtain ⟨c0, c1, c2, c3, c4, c5, c6, c7, c8, c9, c10, c11⟩ := (State.canonical_iff u).mp hu
  obtain ⟨d0, d1, d2, d3, d4, d5⟩ := (State.memCanonical_iff u).mp c0
  refine (State.canonical_iff _).mpr ⟨(State.memCanonical_iff _).mpr ⟨?_, d1, d2, d3, ?_, ?_⟩, c1, c2, c3, c4, c5, c6, c7, c8, c9, c10, c11⟩
  · have d0' := d0
    simp only [Tbl.wf, Bool.and_eq_true, List.all_eq_true, decide_eq_true_eq] at d0' ⊢
    refine ⟨Tbl.rising_filter _ _ d0'.1, fun p hp => ?_⟩
    have hp' := List.mem_filter.mp hp
    have hn : p.1 / 0x40000 ≠ k := by
      have := hp'.2
      simp only [Bool.or_eq_true, decide_eq_true_eq] at this
      omega
    rw [State.memDefault_spoil u _ _ k p.1 (Tbl.wf_rising _ _ d4) hn]
    exact d0'.2 p hp'.1
  · show Tbl.wf _ (Tbl.set u.tst.spoiled none k (some u.freeCtr)) = true
    exact Tbl.wf_const _ _ _ _ d4
  · show (Tbl.set u.tst.spoiled none k (some u.freeCtr)).all _ = true
    rw [List.all_eq_true] at d5 ⊢
    intro p hp
    unfold Tbl.set at hp
    split at hp
    · exact d5 p (Tbl.mem_del _ _ _ hp)
    · rcases Tbl.mem_put _ _ _ _ hp with rfl | hp
      · simpa using hk
      · exact d5 p hp

theorem State.setCore_keeps {s u : State} (h : Keeps s u) (n : Nat) (c : Core) : Keeps s (State.setCore u n c) := by
  unfold State.setCore
  repeat' first
    | with_reducible assumption
    | (intro zz; refine Keeps.cut (s := s) (t := zz) ?_ (fun hz => ?_); unfold zz)
    | (intro zz; subst zz)
    | lift_lets -underBinder
    | split
    | ((fail_if_success (with_reducible refine Keeps.set_jtag ?_ _)); (with_reducible refine Keeps.set_cores ?_ _ ?_); rotate_left; first | exact fun hc => Tbl.wf_const _ _ _ _ (State.canonical_cores hc) | exact fun _ => Tbl.wf_nil _ | exact fun hc => Tbl.wf_mapVals _ _ _ (State.canonical_cores hc))

theorem State.setFftUnit_keeps {s u : State} (h : Keeps s u) (n : Nat) (u' : FftUnit) : Keeps s (State.setFftUnit u n u') := by
  unfold State.setFftUnit
  repeat' first
    | with_reducible assumption
    | (intro zz; refine Keeps.cut (s := s) (t := zz) ?_ (fun hz => ?_); unfold zz)
    | (intro zz; subst zz)
    | lift_lets -underBinder
    | split
    | ((fail_if_success (with_reducible refine Keeps.set_jtag ?_ _)); (with_reducible refine Keeps.set_ffts ?_ _ ?_); rotate_left; first | exact fun hc => Tbl.wf_const _ _ _ _ (State.canonical_ffts hc) | exact fun _ => Tbl.wf_nil _ | exact fun hc => Tbl.wf_mapVals _ _ _ (State.canonical_ffts hc))

theorem State.setSlot_keeps {s u : State} (h : Keeps s u) (k : Nat) (x : Slot) : Keeps s (State.setSlot u k x) := by
  unfold State.setSlot
  repeat' first
    | with_reducible assumption
    | (intro zz; refine Keeps.cut (s := s) (t := zz) ?_ (fun hz => ?_); unfold zz)
    | (intro zz; subst zz)
    | lift_lets -underBinder
    | split
    | ((fail_if_success (with_reducible refine Keeps.set_jtag ?_ _)); (with_reducible refine Keeps.set_eng ?_ _ ?_); rotate_left; first | (intro hc; have q := State.canonical_eng hc; simp only [Eng.canonical, Bool.and_eq_true] at q ⊢; simp only [q, Tbl.wf_const, Tbl.wf_nil, List.all_nil, and_self]) | exact fun _ => by decide)

theorem State.setZone_keeps {s u : State} (h : Keeps s u) (z : Nat) (x : ZoneSt) : Keeps s (State.setZone u z x) := by
  unfold State.setZone
  repeat' first
    | with_reducible assumption
    | (intro zz; refine Keeps.cut (s := s) (t := zz) ?_ (fun hz => ?_); unfold zz)
    | (intro zz; subst zz)
    | lift_lets -underBinder
    | split
    | ((fail_if_success (with_reducible refine Keeps.set_jtag ?_ _)); (with_reducible refine Keeps.set_eng ?_ _ ?_); rotate_left; first | (intro hc; have q := State.canonical_eng hc; simp only [Eng.canonical, Bool.and_eq_true] at q ⊢; simp only [q, Tbl.wf_const, Tbl.wf_nil, List.all_nil, and_self]) | exact fun _ => by decide)

end Sys2Proof.Machine
end

