-- ==== Sys2Proof/Laws/Keeps/Records.lean ====
section
/-! SUPPORT. What the operations of Machine/Records.lean keep. -/

namespace Sys2Proof.Machine

open Sys2Proof.Arith

set_option linter.unreachableTactic false
set_option linter.unusedTactic false
set_option linter.unusedVariables false
set_option linter.unusedSimpArgs false

theorem State.writeStatusBlock_keeps {s u : State} (h : Keeps s u) : Keeps s u.writeStatusBlock := by
  unfold State.writeStatusBlock
  split
  · exact h
  · exact Keeps.set_host_hif h _ (fun hc => Memory.wf_setBytes _ _ _ (State.canonical_host hc)) _ (fun hc => State.canonical_hif hc)

theorem State.sbChanged_keeps {s u : State} (h : Keeps s u)  : Keeps s (State.sbChanged u) := by
  unfold State.sbChanged
  repeat' first
    | with_reducible assumption
    | (intro zz; refine Keeps.cut (s := s) (t := zz) ?_ (fun hz => ?_); unfold zz)
    | (intro zz; subst zz)
    | lift_lets -underBinder
    | split
    | ((fail_if_success (with_reducible refine Keeps.set_jtag ?_ _)); (with_reducible refine Keeps.set_hif ?_ _ ?_); rotate_left; first | (intro hc; have q := State.canonical_hif hc; simp only [Hif.canonical, Bool.and_eq_true] at q ⊢; simp only [q, Tbl.wf_const, Tbl.wf_nil, List.all_nil, and_self]) | exact fun _ => by decide)

theorem State.setMsixWord_keeps {s u : State} (h : Keeps s u) (o : Nat) (w : W32) : Keeps s (u.setMsixWord o w) := by
  unfold State.setMsixWord
  refine Keeps.set_hif h _ (fun hc => ?_)
  have q := State.canonical_hif hc
  simp only [Hif.canonical, Bool.and_eq_true] at q ⊢
  exact ⟨⟨⟨⟨⟨Tbl.wf_set (fun o => if o % 16 = 12 then 1 else 0) w o _ q.1.1.1.1.1, q.1.1.1.1.2⟩, q.1.1.1.2⟩, q.1.1.2⟩, q.1.2⟩, q.2⟩

theorem State.msix_keeps {s u : State} (h : Keeps s u) (v : Nat) : Keeps s (State.msix u v) := by
  unfold State.msix
  repeat' first
    | with_reducible assumption
    | (intro zz; refine Keeps.cut (s := s) (t := zz) ?_ (fun hz => ?_); unfold zz)
    | (intro zz; subst zz)
    | lift_lets -underBinder
    | with_reducible first | apply State.writeStatusBlock_keeps | apply Keeps.ite
    | split
    | ((fail_if_success (with_reducible refine Keeps.set_jtag ?_ _)); (with_reducible refine Keeps.set_hif ?_ _ ?_); rotate_left; first | (intro hc; have q := State.canonical_hif hc; simp only [Hif.canonical, Bool.and_eq_true] at q ⊢; simp only [q, Tbl.wf_const, Tbl.wf_nil, List.all_nil, and_self]) | exact fun _ => by decide)

theorem State.published_keeps {s u : State} (h : Keeps s u) (k : Nat) : Keeps s (State.published u k) := by
  unfold State.published
  repeat' first
    | with_reducible assumption
    | (intro zz; refine Keeps.cut (s := s) (t := zz) ?_ (fun hz => ?_); unfold zz)
    | (intro zz; subst zz)
    | lift_lets -underBinder
    | with_reducible first | apply State.msix_keeps | apply State.sbChanged_keeps | apply State.setReg_keeps | apply Keeps.ite
    | split
    | ((fail_if_success (with_reducible refine Keeps.set_jtag ?_ _)); (with_reducible refine Keeps.set_hif ?_ _ ?_); rotate_left; first | (intro hc; have q := State.canonical_hif hc; simp only [Hif.canonical, Bool.and_eq_true] at q ⊢; simp only [q, Tbl.wf_const, Tbl.wf_nil, List.all_nil, and_self]) | exact fun _ => by decide)

theorem State.publish_keeps {s u : State} (h : Keeps s u) (k : Nat) (bs : List Nat) : Keeps s (State.publish u k bs) := by
  unfold State.publish
  repeat' first
    | with_reducible assumption
    | (intro zz; refine Keeps.cut (s := s) (t := zz) ?_ (fun hz => ?_); unfold zz)
    | (intro zz; subst zz)
    | lift_lets -underBinder
    | with_reducible first | apply State.published_keeps
    | split
    | ((fail_if_success (with_reducible refine Keeps.set_jtag ?_ _)); (with_reducible refine Keeps.set_host ?_ _ ?_); rotate_left; first | exact fun hc => Memory.wf_setBytes _ _ _ (State.canonical_host hc) | exact fun _ => Tbl.wf_nil _)

theorem State.consumed_keeps {s u : State} (h : Keeps s u) (k : Nat) : Keeps s (State.consumed u k) := by
  unfold State.consumed
  repeat' first
    | with_reducible assumption
    | (intro zz; refine Keeps.cut (s := s) (t := zz) ?_ (fun hz => ?_); unfold zz)
    | (intro zz; subst zz)
    | lift_lets -underBinder
    | with_reducible first | apply State.msix_keeps | apply State.sbChanged_keeps | apply State.setReg_keeps | apply Keeps.ite
    | split
    | ((fail_if_success (with_reducible refine Keeps.set_jtag ?_ _)); (with_reducible refine Keeps.set_hif ?_ _ ?_); rotate_left; first | (intro hc; have q := State.canonical_hif hc; simp only [Hif.canonical, Bool.and_eq_true] at q ⊢; simp only [q, Tbl.wf_const, Tbl.wf_nil, List.all_nil, and_self]) | exact fun _ => by decide)

theorem State.drainCompletion_keeps {s u : State} (h : Keeps s u)  : Keeps s (State.drainCompletion u) := by
  unfold State.drainCompletion
  repeat' first
    | with_reducible assumption
    | (intro zz; refine Keeps.cut (s := s) (t := zz) ?_ (fun hz => ?_); unfold zz)
    | (intro zz; subst zz)
    | lift_lets -underBinder
    | with_reducible first | apply State.publish_keeps | apply Keeps.ite
    | split
    | ((fail_if_success (with_reducible refine Keeps.set_jtag ?_ _)); (with_reducible refine Keeps.set_hif ?_ _ ?_); rotate_left; first | (intro hc; have q := State.canonical_hif hc; simp only [Hif.canonical, Bool.and_eq_true] at q ⊢; simp only [q, Tbl.wf_const, Tbl.wf_nil, List.all_nil, and_self]) | exact fun _ => by decide)

theorem State.complete_keeps {s u : State} (h : Keeps s u) (c : Completion) : Keeps s (State.complete u c) := by
  unfold State.complete
  repeat' first
    | with_reducible assumption
    | (intro zz; refine Keeps.cut (s := s) (t := zz) ?_ (fun hz => ?_); unfold zz)
    | (intro zz; subst zz)
    | lift_lets -underBinder
    | with_reducible first | apply State.publish_keeps | apply Keeps.ite
    | split
    | ((fail_if_success (with_reducible refine Keeps.set_jtag ?_ _)); (with_reducible refine Keeps.set_hif ?_ _ ?_); rotate_left; first | (intro hc; have q := State.canonical_hif hc; simp only [Hif.canonical, Bool.and_eq_true] at q ⊢; simp only [q, Tbl.wf_const, Tbl.wf_nil, List.all_nil, and_self]) | exact fun _ => by decide)

theorem State.publishEvent_keeps {s u : State} (h : Keeps s u) (x : Nat × Event) : Keeps s (State.publishEvent u x) := by
  unfold State.publishEvent
  repeat' first
    | with_reducible assumption
    | (intro zz; refine Keeps.cut (s := s) (t := zz) ?_ (fun hz => ?_); unfold zz)
    | (intro zz; refine Keeps.cut (s := s) (t := zz.2) ?_ (fun hz => ?_); unfold zz; rotate_left; (try clear_value zz); rotate_right)
    | (intro zz; refine Keeps.cut (s := s) (t := zz.1) ?_ (fun hz => ?_); unfold zz; rotate_left; (try clear_value zz); rotate_right)
    | (intro zz; refine Keeps.cut (s := s) (t := zz.2.2) ?_ (fun hz => ?_); unfold zz; rotate_left; (try clear_value zz); rotate_right)
    | (intro zz; subst zz)
    | lift_lets -underBinder
    | with_reducible first | apply State.publish_keeps | apply Keeps.ite_snd | apply Keeps.ite_fst
    | split
    | ((fail_if_success (with_reducible refine Keeps.set_jtag ?_ _)); (with_reducible refine Keeps.set_hif ?_ _ ?_); rotate_left; first | (intro hc; have q := State.canonical_hif hc; simp only [Hif.canonical, Bool.and_eq_true] at q ⊢; simp only [q, Tbl.wf_const, Tbl.wf_nil, List.all_nil, and_self]) | exact fun _ => by decide)

theorem State.drainEvent_keeps {s u : State} (h : Keeps s u)  : Keeps s (State.drainEvent u) := by
  unfold State.drainEvent
  repeat' first
    | with_reducible assumption
    | (intro zz; refine Keeps.cut (s := s) (t := zz) ?_ (fun hz => ?_); unfold zz)
    | (intro zz; subst zz)
    | lift_lets -underBinder
    | with_reducible first | apply State.publishEvent_keeps | apply Keeps.ite
    | split
    | ((fail_if_success (with_reducible refine Keeps.set_jtag ?_ _)); (with_reducible refine Keeps.set_hif ?_ _ ?_); rotate_left; first | (intro hc; have q := State.canonical_hif hc; simp only [Hif.canonical, Bool.and_eq_true] at q ⊢; simp only [q, Tbl.wf_const, Tbl.wf_nil, List.all_nil, and_self]) | exact fun _ => by decide)

theorem State.postEvent_keeps {s u : State} (h : Keeps s u) (e : Event) : Keeps s (State.postEvent u e) := by
  unfold State.postEvent
  repeat' first
    | with_reducible assumption
    | (intro zz; refine Keeps.cut (s := s) (t := zz) ?_ (fun hz => ?_); unfold zz)
    | (intro zz; subst zz)
    | lift_lets -underBinder
    | with_reducible first | apply State.drainEvent_keeps | apply State.bump_keeps | apply Keeps.ite | refine forEach_keeps ?_ _ _ (fun _ _ _ => ?_)
    | split
    | ((fail_if_success (with_reducible refine Keeps.set_jtag ?_ _)); (with_reducible refine Keeps.set_hif ?_ _ ?_); rotate_left; first | (intro hc; have q := State.canonical_hif hc; simp only [Hif.canonical, Bool.and_eq_true] at q ⊢; simp only [q, Tbl.wf_const, Tbl.wf_nil, List.all_nil, and_self]) | exact fun _ => by decide)

theorem State.fwEvent_keeps {s u : State} (h : Keeps s u) (kind : Nat) (payload : List Nat) : Keeps s (State.fwEvent u kind payload) := by
  unfold State.fwEvent
  repeat' first
    | with_reducible assumption
    | with_reducible first | apply State.postEvent_keeps | apply Keeps.ite
    | split

theorem State.loftAccept_keeps {s u : State} (h : Keeps s u) (code : Nat) (inst : Nat) (params : List Nat) : Keeps s (State.loftAccept u code inst params) := by
  unfold State.loftAccept
  repeat' first
    | with_reducible assumption
    | (intro zz; refine Keeps.cut (s := s) (t := zz) ?_ (fun hz => ?_); unfold zz)
    | (intro zz; subst zz)
    | lift_lets -underBinder
    | with_reducible first | apply State.postEvent_keeps | apply State.bump_keeps | apply State.setReg_keeps | apply Keeps.ite
    | split
    | ((fail_if_success (with_reducible refine Keeps.set_jtag ?_ _)); (with_reducible refine Keeps.set_mem ?_ _ ?_); rotate_left; first | exact fun hc => Memory.wf_setBytes_high hc _ _ (by simp only [ramAddr, loftAddr, tackBase]; omega) | exact fun hc => Memory.wf_setLe_high hc _ _ _ (by simp only [ramAddr, loftAddr, tackBase]; omega) | exact fun hc => Memory.wf_setLe_high hc _ _ _ (by omega))

theorem State.startFlush_keeps {s u : State} (h : Keeps s u)  : Keeps s (State.startFlush u) := by
  unfold State.startFlush
  repeat' first
    | with_reducible assumption
    | with_reducible first | apply State.fset_keeps | apply Keeps.ite
    | split

theorem State.record_keeps {s u : State} (h : Keeps s u) (code : Nat) (inst : Nat) (params : List Nat) : Keeps s (State.record u code inst params) := by
  unfold State.record
  repeat' first
    | with_reducible assumption
    | (intro zz; refine Keeps.cut (s := s) (t := zz) ?_ (fun hz => ?_); unfold zz)
    | (intro zz; subst zz)
    | lift_lets -underBinder
    | with_reducible first | apply State.startFlush_keeps | apply State.loftAccept_keeps | apply State.bump_keeps | apply Keeps.ite
    | split
    | ((fail_if_success (with_reducible refine Keeps.set_jtag ?_ _)); (with_reducible refine Keeps.set_loft ?_ _))

theorem State.mirrorRecord_keeps {s u : State} (h : Keeps s u) (r : MirrorRec) : Keeps s (State.mirrorRecord u r) := by
  unfold State.mirrorRecord
  repeat' first
    | with_reducible assumption
    | (intro zz; refine Keeps.cut (s := s) (t := zz) ?_ (fun hz => ?_); unfold zz)
    | (intro zz; subst zz)
    | lift_lets -underBinder
    | with_reducible first | apply Keeps.ite
    | split
    | ((fail_if_success (with_reducible refine Keeps.set_jtag ?_ _)); (with_reducible refine Keeps.set_pair ?_ _ ?_); rotate_left; first | (intro hc; have q := State.canonical_pair hc; simp only [Pair.canonical, Bool.and_eq_true] at q ⊢; simp only [q, Tbl.wf_const, Tbl.wf_nil, List.all_nil, and_self]) | exact fun _ => by decide)

end Sys2Proof.Machine
end

