-- ==== Sys2Proof/Laws/Keeps/Locks.lean ====
section
/-! SUPPORT. What the operations of Machine/Locks.lean keep. -/

namespace Sys2Proof.Machine

open Sys2Proof.Arith

set_option linter.unreachableTactic false
set_option linter.unusedTactic false
set_option linter.unusedVariables false
set_option linter.unusedSimpArgs false

theorem State.setWaiters_keeps {s u : State} (h : Keeps s u) (k : Nat) (w : List Nat) : Keeps s (State.setWaiters u k w) := by
  unfold State.setWaiters
  repeat' first
    | with_reducible assumption
    | (intro zz; refine Keeps.cut (s := s) (t := zz) ?_ (fun hz => ?_); unfold zz)
    | (intro zz; subst zz)
    | lift_lets -underBinder
    | with_reducible first | apply State.fset_keeps
    | split
    | ((fail_if_success (with_reducible refine Keeps.set_jtag ?_ _)); (with_reducible refine Keeps.set_waiters ?_ _ ?_); rotate_left; first | exact fun hc => Tbl.wf_const _ _ _ _ (State.canonical_waiters hc) | exact fun _ => Tbl.wf_nil _ | exact fun hc => Tbl.wf_mapVals _ _ _ (State.canonical_waiters hc))

theorem State.setLockReq_keeps {s u : State} (h : Keeps s u) (o : Nat) (r : LockReq) : Keeps s (State.setLockReq u o r) := by
  unfold State.setLockReq
  repeat' first
    | with_reducible assumption
    | (intro zz; refine Keeps.cut (s := s) (t := zz) ?_ (fun hz => ?_); unfold zz)
    | (intro zz; subst zz)
    | lift_lets -underBinder
    | with_reducible first | apply State.setCore_keeps | apply State.fset_keeps | apply Keeps.ite
    | split
    | ((fail_if_success (with_reducible refine Keeps.set_jtag ?_ _)); (with_reducible refine Keeps.set_lockReqs ?_ _ ?_); rotate_left; first | exact fun hc => Tbl.wf_const _ _ _ _ (State.canonical_lockReqs hc) | exact fun _ => Tbl.wf_nil _ | exact fun hc => Tbl.wf_mapVals _ _ _ (State.canonical_lockReqs hc))

theorem State.grantLock_keeps {s u : State} (h : Keeps s u) (k : Nat) (o : Nat) : Keeps s (State.grantLock u k o) := by
  unfold State.grantLock
  repeat' first
    | with_reducible assumption
    | (intro zz; refine Keeps.cut (s := s) (t := zz) ?_ (fun hz => ?_); unfold zz)
    | (intro zz; subst zz)
    | lift_lets -underBinder
    | with_reducible first | apply State.setLockReq_keeps | apply State.fset_keeps
    | split

theorem State.lockRequest_keeps {s u : State} (h : Keeps s u) (o : Nat) (k : Nat) : Keeps s (State.lockRequest u o k) := by
  unfold State.lockRequest
  repeat' first
    | with_reducible assumption
    | (intro zz; refine Keeps.cut (s := s) (t := zz) ?_ (fun hz => ?_); unfold zz)
    | (intro zz; subst zz)
    | lift_lets -underBinder
    | with_reducible first | apply State.grantLock_keeps | apply State.setLockReq_keeps | apply State.setWaiters_keeps | apply Keeps.ite
    | split

theorem State.freeLock_keeps {s u : State} (h : Keeps s u) (k : Nat) : Keeps s (State.freeLock u k) := by
  unfold State.freeLock
  repeat' first
    | with_reducible assumption
    | (intro zz; refine Keeps.cut (s := s) (t := zz) ?_ (fun hz => ?_); unfold zz)
    | (intro zz; subst zz)
    | lift_lets -underBinder
    | with_reducible first | apply State.grantLock_keeps | apply State.setWaiters_keeps | apply State.fset_keeps
    | split

theorem State.lockRelease_keeps {s u : State} (h : Keeps s u) (o : Nat) (k : Nat) : Keeps s (State.lockRelease u o k) := by
  unfold State.lockRelease
  repeat' first
    | with_reducible assumption
    | (intro zz; refine Keeps.cut (s := s) (t := zz) ?_ (fun hz => ?_); unfold zz)
    | (intro zz; subst zz)
    | lift_lets -underBinder
    | with_reducible first | apply State.freeLock_keeps | apply State.setLockReq_keeps | apply State.setWaiters_keeps | apply Keeps.ite
    | split

theorem State.lockWithdraw_keeps {s u : State} (h : Keeps s u) (o : Nat) : Keeps s (State.lockWithdraw u o) := by
  unfold State.lockWithdraw
  repeat' first
    | with_reducible assumption
    | (intro zz; refine Keeps.cut (s := s) (t := zz) ?_ (fun hz => ?_); unfold zz)
    | (intro zz; refine Keeps.cut (s := s) (t := zz.2) ?_ (fun hz => ?_); unfold zz; rotate_left; (try clear_value zz); rotate_right)
    | (intro zz; refine Keeps.cut (s := s) (t := zz.1) ?_ (fun hz => ?_); unfold zz; rotate_left; (try clear_value zz); rotate_right)
    | (intro zz; refine Keeps.cut (s := s) (t := zz.2.2) ?_ (fun hz => ?_); unfold zz; rotate_left; (try clear_value zz); rotate_right)
    | (intro zz; subst zz)
    | lift_lets -underBinder
    | with_reducible first | apply State.setLockReq_keeps | apply State.setWaiters_keeps | apply Keeps.ite | apply Keeps.ite_fst | refine forEach_keeps ?_ _ _ (fun _ _ _ => ?_)
    | split

theorem State.breakLock_keeps {s u : State} (h : Keeps s u) (k : Nat) (cause : Nat) : Keeps s (State.breakLock u k cause) := by
  unfold State.breakLock
  repeat' first
    | with_reducible assumption
    | (intro zz; refine Keeps.cut (s := s) (t := zz) ?_ (fun hz => ?_); unfold zz)
    | (intro zz; subst zz)
    | lift_lets -underBinder
    | with_reducible first | apply State.freeLock_keeps | apply State.record_keeps | apply State.bump_keeps | apply State.fset_keeps
    | split

theorem State.breakLocks_keeps {s u : State} (h : Keeps s u) (p : Nat → Bool) (cause : Nat) : Keeps s (State.breakLocks u p cause) := by
  unfold State.breakLocks
  repeat' first
    | with_reducible assumption
    | (intro zz; refine Keeps.cut (s := s) (t := zz) ?_ (fun hz => ?_); unfold zz)
    | (intro zz; refine Keeps.cut (s := s) (t := zz.2) ?_ (fun hz => ?_); unfold zz; rotate_left; (try clear_value zz); rotate_right)
    | (intro zz; refine Keeps.cut (s := s) (t := zz.1) ?_ (fun hz => ?_); unfold zz; rotate_left; (try clear_value zz); rotate_right)
    | (intro zz; refine Keeps.cut (s := s) (t := zz.2.2) ?_ (fun hz => ?_); unfold zz; rotate_left; (try clear_value zz); rotate_right)
    | (intro zz; subst zz)
    | lift_lets -underBinder
    | with_reducible first | apply State.breakLock_keeps | apply State.lockWithdraw_keeps | apply Keeps.ite | apply Keeps.ite_snd | refine forEach_keeps ?_ _ _ (fun _ _ _ => ?_)
    | split

end Sys2Proof.Machine
end

