-- ==== Sys2Proof/Laws/Keeps/Scarab.lean ====
section
/-! SUPPORT. What the operations of Machine/Scarab.lean keep. -/

namespace Sys2Proof.Machine

open Sys2Proof.Arith

set_option linter.unreachableTactic false
set_option linter.unusedTactic false
set_option linter.unusedVariables false
set_option linter.unusedSimpArgs false

theorem State.setLocal_keeps {s u : State} (h : Keeps s u) (n : Nat) (w : Nat) (v : W32) : Keeps s (State.setLocal u n w v) := by
  unfold State.setLocal
  repeat' first
    | with_reducible assumption
    | (intro zz; refine Keeps.cut (s := s) (t := zz) ?_ (fun hz => ?_); unfold zz)
    | (intro zz; subst zz)
    | lift_lets -underBinder
    | with_reducible first | apply State.setCore_keeps | apply Keeps.ite
    | split
    | ((fail_if_success (with_reducible refine Keeps.set_jtag ?_ _)); (with_reducible refine Keeps.set_mem ?_ _ ?_); rotate_left; first | exact fun hc => Memory.wf_setBytes_high hc _ _ (by simp only [ramAddr, loftAddr, tackBase]; omega) | exact fun hc => Memory.wf_setLe_high hc _ _ _ (by simp only [ramAddr, loftAddr, tackBase]; omega) | exact fun hc => Memory.wf_setLe_high hc _ _ _ (by omega))

theorem State.landResult_keeps {s u : State} (h : Keeps s u) (n : Nat) (r : Inflight) : Keeps s (State.landResult u n r) := by
  unfold State.landResult
  repeat' first
    | with_reducible assumption
    | (intro zz; refine Keeps.cut (s := s) (t := zz) ?_ (fun hz => ?_); unfold zz)
    | (intro zz; subst zz)
    | lift_lets -underBinder
    | with_reducible first | apply State.setLocal_keeps | apply State.setCore_keeps
    | split

theorem State.settle_keeps {s u : State} (h : Keeps s u) (n : Nat) : Keeps s (State.settle u n) := by
  unfold State.settle
  repeat' first
    | with_reducible assumption
    | (intro zz; refine Keeps.cut (s := s) (t := zz) ?_ (fun hz => ?_); unfold zz)
    | (intro zz; subst zz)
    | lift_lets -underBinder
    | with_reducible first | apply State.landResult_keeps | apply State.setCore_keeps | refine forEach_keeps ?_ _ _ (fun _ _ _ => ?_)
    | split

theorem State.settleAll_keeps {s u : State} (h : Keeps s u) (n : Nat) : Keeps s (State.settleAll u n) := by
  unfold State.settleAll
  repeat' first
    | with_reducible assumption
    | (intro zz; refine Keeps.cut (s := s) (t := zz) ?_ (fun hz => ?_); unfold zz)
    | (intro zz; subst zz)
    | lift_lets -underBinder
    | with_reducible first | apply State.landResult_keeps | apply State.setCore_keeps | refine forEach_keeps ?_ _ _ (fun _ _ _ => ?_)
    | split

theorem State.fatalFault_keeps {s u : State} (h : Keeps s u)  : Keeps s (State.fatalFault u) := by
  unfold State.fatalFault
  repeat' first
    | with_reducible assumption
    | (intro zz; refine Keeps.cut (s := s) (t := zz) ?_ (fun hz => ?_); unfold zz)
    | (intro zz; subst zz)
    | lift_lets -underBinder
    | with_reducible first | apply Keeps.ite
    | split
    | ((fail_if_success (with_reducible refine Keeps.set_jtag ?_ _)); (with_reducible refine Keeps.set_eng ?_ _ ?_); rotate_left; first | (intro hc; have q := State.canonical_eng hc; simp only [Eng.canonical, Bool.and_eq_true] at q ⊢; simp only [q, Tbl.wf_const, Tbl.wf_nil, List.all_nil, and_self]) | exact fun _ => by decide)

theorem State.noteFault_keeps {s u : State} (h : Keeps s u) (n : Nat) (idx : Nat) (code : Nat) (pc : Nat) : Keeps s (State.noteFault u n idx code pc) := by
  unfold State.noteFault
  repeat' first
    | with_reducible assumption
    | (intro zz; refine Keeps.cut (s := s) (t := zz) ?_ (fun hz => ?_); unfold zz)
    | (intro zz; subst zz)
    | lift_lets -underBinder
    | with_reducible first | apply State.setCore_keeps | apply State.fset_keeps | apply Keeps.ite
    | split

theorem State.breakTaskLocks_keeps {s u : State} (h : Keeps s u) (n : Nat) (t' : Task) : Keeps s (State.breakTaskLocks u n t') := by
  unfold State.breakTaskLocks
  repeat' first
    | with_reducible assumption
    | (intro zz; refine Keeps.cut (s := s) (t := zz) ?_ (fun hz => ?_); unfold zz)
    | (intro zz; refine Keeps.cut (s := s) (t := zz.2) ?_ (fun hz => ?_); unfold zz; rotate_left; (try clear_value zz); rotate_right)
    | (intro zz; refine Keeps.cut (s := s) (t := zz.1) ?_ (fun hz => ?_); unfold zz; rotate_left; (try clear_value zz); rotate_right)
    | (intro zz; refine Keeps.cut (s := s) (t := zz.2.2) ?_ (fun hz => ?_); unfold zz; rotate_left; (try clear_value zz); rotate_right)
    | (intro zz; subst zz)
    | lift_lets -underBinder
    | with_reducible first | apply State.breakLock_keeps | apply State.setCore_keeps | apply Keeps.ite | apply Keeps.ite_snd | apply Keeps.ite_fst | refine forEach_keeps ?_ _ _ (fun _ _ _ => ?_)
    | split

theorem State.failTask_keeps {s u : State} (h : Keeps s u) (n : Nat) (t' : Task) (code : Nat) (pc : Nat) : Keeps s (State.failTask u n t' code pc) := by
  unfold State.failTask
  repeat' first
    | with_reducible assumption
    | (intro zz; refine Keeps.cut (s := s) (t := zz) ?_ (fun hz => ?_); unfold zz)
    | (intro zz; subst zz)
    | lift_lets -underBinder
    | with_reducible first | apply State.breakTaskLocks_keeps | apply State.noteFault_keeps | apply State.fatalFault_keeps | apply State.record_keeps | apply State.setCore_keeps | apply Keeps.ite
    | split
    | ((fail_if_success (with_reducible refine Keeps.set_jtag ?_ _)); (with_reducible refine Keeps.set_pair ?_ _ ?_); rotate_left; first | (intro hc; have q := State.canonical_pair hc; simp only [Pair.canonical, Bool.and_eq_true] at q ⊢; simp only [q, Tbl.wf_const, Tbl.wf_nil, List.all_nil, and_self]) | exact fun _ => by decide)

theorem State.taskFault_keeps {s u : State} (h : Keeps s u) (n : Nat) (code : Nat) : Keeps s (State.taskFault u n code) := by
  unfold State.taskFault
  repeat' first
    | with_reducible assumption
    | (intro zz; refine Keeps.cut (s := s) (t := zz) ?_ (fun hz => ?_); unfold zz)
    | (intro zz; subst zz)
    | lift_lets -underBinder
    | with_reducible first | apply State.failTask_keeps | apply State.settleAll_keeps | apply State.lockWithdraw_keeps | apply State.setCore_keeps
    | split

theorem State.finishTask_keeps {s u : State} (h : Keeps s u) (n : Nat) : Keeps s (State.finishTask u n) := by
  unfold State.finishTask
  repeat' first
    | with_reducible assumption
    | (intro zz; refine Keeps.cut (s := s) (t := zz) ?_ (fun hz => ?_); unfold zz)
    | (intro zz; subst zz)
    | lift_lets -underBinder
    | with_reducible first | apply State.settleAll_keeps | apply State.lockWithdraw_keeps | apply State.setCore_keeps | apply State.bump_keeps | apply Keeps.ite
    | split

theorem State.tryEnd_keeps {s u : State} (h : Keeps s u) (n : Nat) : Keeps s (State.tryEnd u n) := by
  unfold State.tryEnd
  repeat' first
    | with_reducible assumption
    | (intro zz; refine Keeps.cut (s := s) (t := zz) ?_ (fun hz => ?_); unfold zz)
    | (intro zz; subst zz)
    | lift_lets -underBinder
    | with_reducible first | apply State.finishTask_keeps | apply State.setCore_keeps | apply Keeps.ite
    | split

theorem State.advance_keeps {s u : State} (h : Keeps s u) (n : Nat) (cost : Nat) : Keeps s (State.advance u n cost) := by
  unfold State.advance
  repeat' first
    | with_reducible assumption
    | (intro zz; refine Keeps.cut (s := s) (t := zz) ?_ (fun hz => ?_); unfold zz)
    | (intro zz; refine Keeps.cut (s := s) (t := zz.2) ?_ (fun hz => ?_); unfold zz; rotate_left; (try clear_value zz); rotate_right)
    | (intro zz; refine Keeps.cut (s := s) (t := zz.1) ?_ (fun hz => ?_); unfold zz; rotate_left; (try clear_value zz); rotate_right)
    | (intro zz; refine Keeps.cut (s := s) (t := zz.2.2) ?_ (fun hz => ?_); unfold zz; rotate_left; (try clear_value zz); rotate_right)
    | (intro zz; subst zz)
    | lift_lets -underBinder
    | with_reducible first | apply State.tryEnd_keeps | apply State.setCore_keeps | apply Keeps.ite | apply Keeps.ite_snd | apply Keeps.ite_fst
    | split

theorem State.mended_keeps {s u : State} (h : Keeps s u) (n : Nat) (l : List MemCheck) : Keeps s (State.mended u n l) := by
  unfold State.mended
  repeat' first
    | with_reducible assumption
    | (intro zz; refine Keeps.cut (s := s) (t := zz) ?_ (fun hz => ?_); unfold zz)
    | (intro zz; refine Keeps.cut (s := s) (t := zz.2) ?_ (fun hz => ?_); unfold zz; rotate_left; (try clear_value zz); rotate_right)
    | (intro zz; refine Keeps.cut (s := s) (t := zz.1) ?_ (fun hz => ?_); unfold zz; rotate_left; (try clear_value zz); rotate_right)
    | (intro zz; refine Keeps.cut (s := s) (t := zz.2.2) ?_ (fun hz => ?_); unfold zz; rotate_left; (try clear_value zz); rotate_right)
    | (intro zz; subst zz)
    | lift_lets -underBinder
    | with_reducible first | apply State.setCore_keeps | apply State.count_keeps | apply Keeps.ite | apply Keeps.ite_fst
    | split

/-- What an instruction's body leaves keeps what the state before it kept. -/
def EffKeeps (s : State) (e : Eff) : Prop :=
  match e with
  | .ok v _ => Keeps s v
  | .trap _ => True
  | .wait _ => True

theorem EffKeeps.ok {s v : State} {c : Nat} (h : Keeps s v) : EffKeeps s (.ok v c) := h

theorem EffKeeps.trap {s : State} (c : Nat) : EffKeeps s (.trap c) := True.intro

theorem EffKeeps.wait {s : State} (r : Stall) : EffKeeps s (.wait r) := True.intro

theorem EffKeeps.ite {s : State} {a b : Eff} {c : Prop} [Decidable c] (ha : EffKeeps s a) (hb : EffKeeps s b) :
    EffKeeps s (if c then a else b) := by
  split
  · exact ha
  · exact hb

theorem State.issue_keeps {s u : State} (h : Keeps s u) (n : Nat) (legal : Bool) (body : State → Core → Task → Eff)
    (hb : ∀ v c t, Keeps s v → EffKeeps s (body v c t)) : Keeps s (u.issue n legal body) := by
  unfold State.issue
  have h1 := State.settle_keeps h n
  split
  · exact h
  · generalize u.settle n = v at h1
    dsimp only
    split
    · exact h1
    · rename_i t _
      split
      · exact State.taskFault_keeps h1 n 2
      · have h3 := State.mended_keeps h1 n (v.core n).struck
        generalize v.mended n (v.core n).struck = w at h3
        split
        · exact State.taskFault_keeps h3 n _
        · split
          · exact State.taskFault_keeps h3 n 1
          · have h2 := hb w (w.core n) t h3
            split
            · rename_i s' cost he
              rw [he] at h2
              exact State.advance_keeps h2 n cost
            · exact State.taskFault_keeps h3 n _
            · exact State.setCore_keeps h3 n _

theorem State.issueReg_keeps {s u : State} (h : Keeps s u) (n : Nat) (legal : Bool) (f : Core → Core) : Keeps s (State.issueReg u n legal f) := by
  unfold State.issueReg
  repeat' first
    | with_reducible assumption
    | with_reducible first | refine State.issue_keeps ?_ _ _ _ (fun _ _ _ _ => ?_) | apply State.setCore_keeps | apply EffKeeps.ok | exact EffKeeps.trap _ | exact EffKeeps.wait _ | apply EffKeeps.ite
    | split

theorem State.issueR_keeps {s u : State} (h : Keeps s u) (n : Nat) (f : RFmt) (legal : Bool) (lat : Nat) (g : W32 → W32 → W32 × Bool) : Keeps s (State.issueR u n f legal lat g) := by
  unfold State.issueR
  repeat' first
    | with_reducible assumption
    | (intro zz; refine Keeps.cut (s := s) (t := zz) ?_ (fun hz => ?_); unfold zz)
    | (intro zz; refine Keeps.cut (s := s) (t := zz.2) ?_ (fun hz => ?_); unfold zz; rotate_left; (try clear_value zz); rotate_right)
    | (intro zz; refine Keeps.cut (s := s) (t := zz.1) ?_ (fun hz => ?_); unfold zz; rotate_left; (try clear_value zz); rotate_right)
    | (intro zz; refine Keeps.cut (s := s) (t := zz.2.2) ?_ (fun hz => ?_); unfold zz; rotate_left; (try clear_value zz); rotate_right)
    | (intro zz; subst zz)
    | lift_lets -underBinder
    | with_reducible first | apply State.issueReg_keeps | apply Keeps.ite_snd | apply Keeps.ite_fst
    | split

theorem State.issueI_keeps {s u : State} (h : Keeps s u) (n : Nat) (f : IFmt) (legal : Bool) (g : W32 → W32 × Bool) : Keeps s (State.issueI u n f legal g) := by
  unfold State.issueI
  repeat' first
    | with_reducible assumption
    | (intro zz; refine Keeps.cut (s := s) (t := zz) ?_ (fun hz => ?_); unfold zz)
    | (intro zz; refine Keeps.cut (s := s) (t := zz.2) ?_ (fun hz => ?_); unfold zz; rotate_left; (try clear_value zz); rotate_right)
    | (intro zz; refine Keeps.cut (s := s) (t := zz.1) ?_ (fun hz => ?_); unfold zz; rotate_left; (try clear_value zz); rotate_right)
    | (intro zz; refine Keeps.cut (s := s) (t := zz.2.2) ?_ (fun hz => ?_); unfold zz; rotate_left; (try clear_value zz); rotate_right)
    | (intro zz; subst zz)
    | lift_lets -underBinder
    | with_reducible first | apply State.issueReg_keeps | apply Keeps.ite_snd | apply Keeps.ite_fst
    | split

end Sys2Proof.Machine
end

