-- ==== Sys2Proof/Laws/Keeps/Scenes.lean ====
section
/-! SUPPORT. What the operations of Machine/Scenes.lean keep. -/

namespace Sys2Proof.Machine

open Sys2Proof.Arith

set_option linter.unreachableTactic false
set_option linter.unusedTactic false
set_option linter.unusedVariables false
set_option linter.unusedSimpArgs false

theorem State.setSlotState_keeps {s u : State} (h : Keeps s u) (k : Nat) (v : Nat) : Keeps s (State.setSlotState u k v) := by
  unfold State.setSlotState
  repeat' first
    | with_reducible assumption
    | with_reducible first | apply State.fset_keeps
    | split

theorem State.answer_keeps {s u : State} (h : Keeps s u) (r : CmdRef) (code : Nat) (res : List W32) : Keeps s (State.answer u r code res) := by
  unfold State.answer
  repeat' first
    | with_reducible assumption
    | with_reducible first | apply State.complete_keeps
    | split

theorem State.slotAnswer_keeps {s u : State} (h : Keeps s u) (k : Nat) (r : CmdRef) (code : Nat) (tick : W32) (res : List W32) : Keeps s (State.slotAnswer u k r code tick res) := by
  unfold State.slotAnswer
  repeat' first
    | with_reducible assumption
    | (intro zz; refine Keeps.cut (s := s) (t := zz) ?_ (fun hz => ?_); unfold zz)
    | (intro zz; subst zz)
    | lift_lets -underBinder
    | with_reducible first | apply State.complete_keeps | apply State.fset_keeps | apply Keeps.ite
    | split

theorem State.slotRefuse_keeps {s u : State} (h : Keeps s u) (k : Nat) (r : CmdRef) (code : Nat) : Keeps s (State.slotRefuse u k r code) := by
  unfold State.slotRefuse
  repeat' first
    | with_reducible assumption
    | with_reducible first | apply State.slotAnswer_keeps
    | split

theorem State.setVendor_keeps {s u : State} (h : Keeps s u) (n : Nat) (t' : Task) (v : VendorSt) : Keeps s (State.setVendor u n t' v) := by
  unfold State.setVendor
  repeat' first
    | with_reducible assumption
    | (intro zz; refine Keeps.cut (s := s) (t := zz) ?_ (fun hz => ?_); unfold zz)
    | (intro zz; subst zz)
    | lift_lets -underBinder
    | split
    | ((fail_if_success (with_reducible refine Keeps.set_jtag ?_ _)); (with_reducible refine Keeps.set_eng ?_ _ ?_); rotate_left; first | (intro hc; have q := State.canonical_eng hc; simp only [Eng.canonical, Bool.and_eq_true] at q ⊢; simp only [q, Tbl.wf_const, Tbl.wf_nil, List.all_nil, and_self]) | exact fun _ => by decide)

theorem State.clearVendor_keeps {s u : State} (h : Keeps s u) (n : Nat) (t' : Task) : Keeps s (State.clearVendor u n t') := by
  unfold State.clearVendor
  repeat' first
    | with_reducible assumption
    | with_reducible first | apply State.setVendor_keeps
    | split

theorem State.dropTasks_keeps {s u : State} (h : Keeps s u) (p : Task → Bool) : Keeps s (State.dropTasks u p) := by
  unfold State.dropTasks
  repeat' first
    | with_reducible assumption
    | (intro zz; refine Keeps.cut (s := s) (t := zz) ?_ (fun hz => ?_); unfold zz)
    | (intro zz; refine Keeps.cut (s := s) (t := zz.2) ?_ (fun hz => ?_); unfold zz; rotate_left; (try clear_value zz); rotate_right)
    | (intro zz; refine Keeps.cut (s := s) (t := zz.1) ?_ (fun hz => ?_); unfold zz; rotate_left; (try clear_value zz); rotate_right)
    | (intro zz; refine Keeps.cut (s := s) (t := zz.2.2) ?_ (fun hz => ?_); unfold zz; rotate_left; (try clear_value zz); rotate_right)
    | (intro zz; subst zz)
    | lift_lets -underBinder
    | with_reducible first | apply State.clearVendor_keeps | apply State.breakTaskLocks_keeps | apply State.setCore_keeps | apply Keeps.ite_fst | refine forEach_keeps ?_ _ _ (fun _ _ _ => ?_)
    | split

theorem State.liftTasks_keeps {s u : State} (h : Keeps s u) (o : Nat) (k : Nat) (name : Nat → Option Nat) : Keeps s (State.liftTasks u o k name) := by
  unfold State.liftTasks
  repeat' first
    | with_reducible assumption
    | (intro zz; refine Keeps.cut (s := s) (t := zz) ?_ (fun hz => ?_); unfold zz)
    | (intro zz; refine Keeps.cut (s := s) (t := zz.2) ?_ (fun hz => ?_); unfold zz; rotate_left; (try clear_value zz); rotate_right)
    | (intro zz; refine Keeps.cut (s := s) (t := zz.1) ?_ (fun hz => ?_); unfold zz; rotate_left; (try clear_value zz); rotate_right)
    | (intro zz; refine Keeps.cut (s := s) (t := zz.2.2) ?_ (fun hz => ?_); unfold zz; rotate_left; (try clear_value zz); rotate_right)
    | (intro zz; subst zz)
    | lift_lets -underBinder
    | with_reducible first | apply State.setCore_keeps | apply Keeps.ite | apply Keeps.ite_snd | apply Keeps.ite_fst | refine forEach_keeps ?_ _ _ (fun _ _ _ => ?_)
    | split

theorem State.fillRegion_keeps {s u : State} (h : Keeps s u) (n : Nat) (p : Prog) (t : Task) : Keeps s (u.fillRegion n p t) := by
  unfold State.fillRegion
  split
  · exact h
  · have hv := State.clearVendor_keeps h n t
    exact Keeps.set_mem hv _ (fun hc => Memory.wf_setBytes_high' hc _ _ (by simp only [ramAddr]; omega)
      (Tbl.wf_filter _ (u.clearVendor n t).mem _ (State.canonical_mem hc)))

theorem State.placeTasks_keeps {s u : State} (h : Keeps s u) (p : Prog) (l : List (Nat × Task)) (fresh : Task → Bool) : Keeps s (State.placeTasks u p l fresh) := by
  unfold State.placeTasks
  repeat' first
    | with_reducible assumption
    | (intro zz; refine Keeps.cut (s := s) (t := zz) ?_ (fun hz => ?_); unfold zz)
    | (intro zz; refine Keeps.cut (s := s) (t := zz.2) ?_ (fun hz => ?_); unfold zz; rotate_left; (try clear_value zz); rotate_right)
    | (intro zz; refine Keeps.cut (s := s) (t := zz.1) ?_ (fun hz => ?_); unfold zz; rotate_left; (try clear_value zz); rotate_right)
    | (intro zz; refine Keeps.cut (s := s) (t := zz.2.2) ?_ (fun hz => ?_); unfold zz; rotate_left; (try clear_value zz); rotate_right)
    | (intro zz; subst zz)
    | lift_lets -underBinder
    | with_reducible first | apply State.fillRegion_keeps | apply State.setCore_keeps | apply Keeps.ite | apply Keeps.ite_snd | apply Keeps.ite_fst | refine forEach_keeps ?_ _ _ (fun _ _ _ => ?_)
    | split

theorem State.reownZone_keeps {s u : State} (h : Keeps s u) (z : Nat) (image : Bool) : Keeps s (State.reownZone u z image) := by
  unfold State.reownZone
  repeat' first
    | with_reducible assumption
    | (intro zz; refine Keeps.cut (s := s) (t := zz) ?_ (fun hz => ?_); unfold zz)
    | (intro zz; refine Keeps.cut (s := s) (t := zz.2) ?_ (fun hz => ?_); unfold zz; rotate_left; (try clear_value zz); rotate_right)
    | (intro zz; refine Keeps.cut (s := s) (t := zz.1) ?_ (fun hz => ?_); unfold zz; rotate_left; (try clear_value zz); rotate_right)
    | (intro zz; refine Keeps.cut (s := s) (t := zz.2.2) ?_ (fun hz => ?_); unfold zz; rotate_left; (try clear_value zz); rotate_right)
    | (intro zz; subst zz)
    | lift_lets -underBinder
    | with_reducible first | apply State.setZone_keeps | apply State.draw_keeps | apply Keeps.ite | apply Keeps.ite_snd | apply Keeps.ite_fst | refine foldl_keeps_snd _ _ _ ?_ (fun _ _ _ => ?_) | refine foldl_keeps_fst _ _ _ ?_ (fun _ _ _ => ?_) | refine foldl_keeps _ _ _ ?_ (fun _ _ _ => ?_)
    | split
    | ((fail_if_success (with_reducible refine Keeps.set_jtag ?_ _)); (with_reducible refine Keeps.set_eng ?_ _ ?_); rotate_left; first | (intro hc; have q := State.canonical_eng hc; simp only [Eng.canonical, Bool.and_eq_true] at q ⊢; simp only [q, Tbl.wf_const, Tbl.wf_nil, List.all_nil, and_self]) | exact fun _ => by decide)

theorem State.reown_keeps {s u : State} (h : Keeps s u)  : Keeps s (State.reown u) := by
  unfold State.reown
  repeat' first
    | with_reducible assumption
    | (intro zz; refine Keeps.cut (s := s) (t := zz) ?_ (fun hz => ?_); unfold zz)
    | (intro zz; refine Keeps.cut (s := s) (t := zz.2) ?_ (fun hz => ?_); unfold zz; rotate_left; (try clear_value zz); rotate_right)
    | (intro zz; refine Keeps.cut (s := s) (t := zz.1) ?_ (fun hz => ?_); unfold zz; rotate_left; (try clear_value zz); rotate_right)
    | (intro zz; refine Keeps.cut (s := s) (t := zz.2.2) ?_ (fun hz => ?_); unfold zz; rotate_left; (try clear_value zz); rotate_right)
    | (intro zz; subst zz)
    | lift_lets -underBinder
    | with_reducible first | apply State.reownZone_keeps | apply Keeps.ite | apply Keeps.ite_fst | refine forEach_keeps ?_ _ _ (fun _ _ _ => ?_)
    | split

theorem State.accepted_keeps {s u : State} (h : Keeps s u) (ack : Bool) (r : CmdRef) (due : Nat) (res : List W32) : Keeps s (State.accepted u ack r due res) := by
  unfold State.accepted
  repeat' first
    | with_reducible assumption
    | (intro zz; refine Keeps.cut (s := s) (t := zz) ?_ (fun hz => ?_); unfold zz)
    | (intro zz; subst zz)
    | lift_lets -underBinder
    | with_reducible first | apply State.complete_keeps | apply State.bump_keeps | apply Keeps.ite
    | split

theorem State.arriveAt_keeps {s u : State} (h : Keeps s u) (w : FenceWait) (settled : Except Nat (Nat × Bool)) : Keeps s (State.arriveAt u w settled) := by
  unfold State.arriveAt
  repeat' first
    | with_reducible assumption
    | (intro zz; refine Keeps.cut (s := s) (t := zz) ?_ (fun hz => ?_); unfold zz)
    | (intro zz; subst zz)
    | lift_lets -underBinder
    | with_reducible first | apply State.accepted_keeps | apply State.answer_keeps | apply Keeps.ite
    | split
    | ((fail_if_success (with_reducible refine Keeps.set_jtag ?_ _)); (with_reducible refine Keeps.set_eng ?_ _ ?_); rotate_left; first | (intro hc; have q := State.canonical_eng hc; simp only [Eng.canonical, Bool.and_eq_true] at q ⊢; simp only [q, Tbl.wf_const, Tbl.wf_nil, List.all_nil, and_self]) | exact fun _ => by decide)

theorem State.arriveCommit_keeps {s u : State} (h : Keeps s u) (w : FenceWait) : Keeps s (State.arriveCommit u w) := by
  unfold State.arriveCommit
  repeat' first
    | with_reducible assumption
    | with_reducible first | apply State.arriveAt_keeps
    | split

theorem State.drainFences_keeps {s u : State} (h : Keeps s u) (fuel : Nat) : Keeps s (u.drainFences fuel) := by
  induction fuel generalizing u with
  | zero => unfold State.drainFences; exact h
  | succ fuel ih =>
    unfold State.drainFences
    split
    · exact h
    · split
      · apply ih
        apply State.arriveCommit_keeps
        exact Keeps.set_eng h _ (by intro hc; have q := State.canonical_eng hc; simp only [Eng.canonical, Bool.and_eq_true] at q ⊢; simp only [q, and_self])
      · exact h

theorem State.cancelCommits_keeps {s u : State} (h : Keeps s u) (p : PendCommit → Bool) : Keeps s (State.cancelCommits u p) := by
  unfold State.cancelCommits
  repeat' first
    | with_reducible assumption
    | (intro zz; refine Keeps.cut (s := s) (t := zz) ?_ (fun hz => ?_); unfold zz)
    | (intro zz; subst zz)
    | lift_lets -underBinder
    | with_reducible first | apply State.answer_keeps | refine forEach_keeps ?_ _ _ (fun _ _ _ => ?_)
    | split
    | ((fail_if_success (with_reducible refine Keeps.set_jtag ?_ _)); (with_reducible refine Keeps.set_eng ?_ _ ?_); rotate_left; first | (intro hc; have q := State.canonical_eng hc; simp only [Eng.canonical, Bool.and_eq_true] at q ⊢; simp only [q, Tbl.wf_const, Tbl.wf_nil, List.all_nil, and_self]) | exact fun _ => by decide)

theorem State.landGroup_keeps {s u : State} (h : Keeps s u) (k : Nat) (g : Nat) (t' : Nat) : Keeps s (State.landGroup u k g t') := by
  unfold State.landGroup
  repeat' first
    | with_reducible assumption
    | (intro zz; refine Keeps.cut (s := s) (t := zz) ?_ (fun hz => ?_); unfold zz)
    | (intro zz; refine Keeps.cut (s := s) (t := zz.2) ?_ (fun hz => ?_); unfold zz; rotate_left; (try clear_value zz); rotate_right)
    | (intro zz; refine Keeps.cut (s := s) (t := zz.1) ?_ (fun hz => ?_); unfold zz; rotate_left; (try clear_value zz); rotate_right)
    | (intro zz; refine Keeps.cut (s := s) (t := zz.2.2) ?_ (fun hz => ?_); unfold zz; rotate_left; (try clear_value zz); rotate_right)
    | (intro zz; subst zz)
    | lift_lets -underBinder
    | with_reducible first | apply State.setSlot_keeps | apply Keeps.ite | apply Keeps.ite_snd | apply Keeps.ite_fst | refine foldl_keeps_snd _ _ _ ?_ (fun _ _ _ => ?_) | refine foldl_keeps_fst _ _ _ ?_ (fun _ _ _ => ?_) | refine foldl_keeps _ _ _ ?_ (fun _ _ _ => ?_)
    | split

theorem State.landCommits_keeps {s u : State} (h : Keeps s u) (t' : Nat) (p : PendCommit → Bool) : Keeps s (State.landCommits u t' p) := by
  unfold State.landCommits
  repeat' first
    | with_reducible assumption
    | (intro zz; refine Keeps.cut (s := s) (t := zz) ?_ (fun hz => ?_); unfold zz)
    | (intro zz; subst zz)
    | lift_lets -underBinder
    | with_reducible first | apply State.landGroup_keeps | apply State.complete_keeps | refine forEach_keeps ?_ _ _ (fun _ _ _ => ?_)
    | split
    | ((fail_if_success (with_reducible refine Keeps.set_jtag ?_ _)); (with_reducible refine Keeps.set_eng ?_ _ ?_); rotate_left; first | (intro hc; have q := State.canonical_eng hc; simp only [Eng.canonical, Bool.and_eq_true] at q ⊢; simp only [q, Tbl.wf_const, Tbl.wf_nil, List.all_nil, and_self]) | exact fun _ => by decide)

theorem State.startSlot_keeps {s u : State} (h : Keeps s u) (k : Nat) : Keeps s (State.startSlot u k) := by
  unfold State.startSlot
  repeat' first
    | with_reducible assumption
    | (intro zz; refine Keeps.cut (s := s) (t := zz) ?_ (fun hz => ?_); unfold zz)
    | (intro zz; refine Keeps.cut (s := s) (t := zz.2) ?_ (fun hz => ?_); unfold zz; rotate_left; (try clear_value zz); rotate_right)
    | (intro zz; refine Keeps.cut (s := s) (t := zz.1) ?_ (fun hz => ?_); unfold zz; rotate_left; (try clear_value zz); rotate_right)
    | (intro zz; refine Keeps.cut (s := s) (t := zz.2.2) ?_ (fun hz => ?_); unfold zz; rotate_left; (try clear_value zz); rotate_right)
    | (intro zz; subst zz)
    | lift_lets -underBinder
    | with_reducible first | apply State.reown_keeps | apply State.placeTasks_keeps | apply State.dropTasks_keeps | apply State.setSlotState_keeps | apply State.setSlot_keeps | apply Keeps.ite | apply Keeps.ite_snd | apply Keeps.ite_fst | refine foldl_keeps_snd _ _ _ ?_ (fun _ _ _ => ?_) | refine foldl_keeps_fst _ _ _ ?_ (fun _ _ _ => ?_) | refine foldl_keeps _ _ _ ?_ (fun _ _ _ => ?_)
    | split

theorem State.takeActivation_keeps {s u : State} (h : Keeps s u) (t' : Nat) : Keeps s (State.takeActivation u t') := by
  unfold State.takeActivation
  repeat' first
    | with_reducible assumption
    | (intro zz; refine Keeps.cut (s := s) (t := zz) ?_ (fun hz => ?_); unfold zz)
    | (intro zz; subst zz)
    | lift_lets -underBinder
    | with_reducible first | apply State.startSlot_keeps | apply State.slotAnswer_keeps | apply Keeps.ite
    | split
    | ((fail_if_success (with_reducible refine Keeps.set_jtag ?_ _)); (with_reducible refine Keeps.set_eng ?_ _ ?_); rotate_left; first | (intro hc; have q := State.canonical_eng hc; simp only [Eng.canonical, Bool.and_eq_true] at q ⊢; simp only [q, Tbl.wf_const, Tbl.wf_nil, List.all_nil, and_self]) | exact fun _ => by decide)

theorem State.takeStop_keeps {s u : State} (h : Keeps s u) (t' : Nat) : Keeps s (State.takeStop u t') := by
  unfold State.takeStop
  repeat' first
    | with_reducible assumption
    | (intro zz; refine Keeps.cut (s := s) (t := zz) ?_ (fun hz => ?_); unfold zz)
    | (intro zz; refine Keeps.cut (s := s) (t := zz.2) ?_ (fun hz => ?_); unfold zz; rotate_left; (try clear_value zz); rotate_right)
    | (intro zz; refine Keeps.cut (s := s) (t := zz.1) ?_ (fun hz => ?_); unfold zz; rotate_left; (try clear_value zz); rotate_right)
    | (intro zz; refine Keeps.cut (s := s) (t := zz.2.2) ?_ (fun hz => ?_); unfold zz; rotate_left; (try clear_value zz); rotate_right)
    | (intro zz; subst zz)
    | lift_lets -underBinder
    | with_reducible first | apply State.reown_keeps | apply State.slotAnswer_keeps | apply State.setSlotState_keeps | apply State.setSlot_keeps | apply Keeps.ite | apply Keeps.ite_snd | apply Keeps.ite_fst | refine foldl_keeps_snd _ _ _ ?_ (fun _ _ _ => ?_) | refine foldl_keeps_fst _ _ _ ?_ (fun _ _ _ => ?_) | refine foldl_keeps _ _ _ ?_ (fun _ _ _ => ?_)
    | split
    | ((fail_if_success (with_reducible refine Keeps.set_jtag ?_ _)); (with_reducible refine Keeps.set_eng ?_ _ ?_); rotate_left; first | (intro hc; have q := State.canonical_eng hc; simp only [Eng.canonical, Bool.and_eq_true] at q ⊢; simp only [q, Tbl.wf_const, Tbl.wf_nil, List.all_nil, and_self]) | exact fun _ => by decide)

theorem State.endStop_keeps {s u : State} (h : Keeps s u) (t' : Nat) : Keeps s (State.endStop u t') := by
  unfold State.endStop
  repeat' first
    | with_reducible assumption
    | (intro zz; refine Keeps.cut (s := s) (t := zz) ?_ (fun hz => ?_); unfold zz)
    | (intro zz; subst zz)
    | lift_lets -underBinder
    | with_reducible first | apply State.dropTasks_keeps | apply State.setSlotState_keeps | apply State.setSlot_keeps | apply Keeps.ite
    | split
    | ((fail_if_success (with_reducible refine Keeps.set_jtag ?_ _)); (with_reducible refine Keeps.set_eng ?_ _ ?_); rotate_left; first | (intro hc; have q := State.canonical_eng hc; simp only [Eng.canonical, Bool.and_eq_true] at q ⊢; simp only [q, Tbl.wf_const, Tbl.wf_nil, List.all_nil, and_self]) | exact fun _ => by decide)

theorem State.beginXf_keeps {s u : State} (h : Keeps s u) (t' : Nat) : Keeps s (State.beginXf u t') := by
  unfold State.beginXf
  repeat' first
    | with_reducible assumption
    | (intro zz; refine Keeps.cut (s := s) (t := zz) ?_ (fun hz => ?_); unfold zz)
    | (intro zz; subst zz)
    | lift_lets -underBinder
    | with_reducible first | apply State.placeTasks_keeps | apply State.liftTasks_keeps | apply State.dropTasks_keeps | apply State.setSlot_keeps | apply State.fset_keeps | apply Keeps.ite
    | split
    | ((fail_if_success (with_reducible refine Keeps.set_jtag ?_ _)); (with_reducible refine Keeps.set_eng ?_ _ ?_); rotate_left; first | (intro hc; have q := State.canonical_eng hc; simp only [Eng.canonical, Bool.and_eq_true] at q ⊢; simp only [q, Tbl.wf_const, Tbl.wf_nil, List.all_nil, and_self]) | exact fun _ => by decide)

theorem State.beginFade_keeps {s u : State} (h : Keeps s u) (t' : Nat) : Keeps s (State.beginFade u t') := by
  unfold State.beginFade
  repeat' first
    | with_reducible assumption
    | (intro zz; refine Keeps.cut (s := s) (t := zz) ?_ (fun hz => ?_); unfold zz)
    | (intro zz; refine Keeps.cut (s := s) (t := zz.2) ?_ (fun hz => ?_); unfold zz; rotate_left; (try clear_value zz); rotate_right)
    | (intro zz; refine Keeps.cut (s := s) (t := zz.1) ?_ (fun hz => ?_); unfold zz; rotate_left; (try clear_value zz); rotate_right)
    | (intro zz; refine Keeps.cut (s := s) (t := zz.2.2) ?_ (fun hz => ?_); unfold zz; rotate_left; (try clear_value zz); rotate_right)
    | (intro zz; subst zz)
    | lift_lets -underBinder
    | with_reducible first | apply State.reown_keeps | apply State.setSlotState_keeps | apply State.setSlot_keeps | apply State.fset_keeps | apply Keeps.ite | apply Keeps.ite_snd | apply Keeps.ite_fst | refine foldl_keeps_snd _ _ _ ?_ (fun _ _ _ => ?_) | refine foldl_keeps_fst _ _ _ ?_ (fun _ _ _ => ?_) | refine foldl_keeps _ _ _ ?_ (fun _ _ _ => ?_)
    | split
    | ((fail_if_success (with_reducible refine Keeps.set_jtag ?_ _)); (with_reducible refine Keeps.set_eng ?_ _ ?_); rotate_left; first | (intro hc; have q := State.canonical_eng hc; simp only [Eng.canonical, Bool.and_eq_true] at q ⊢; simp only [q, Tbl.wf_const, Tbl.wf_nil, List.all_nil, and_self]) | exact fun _ => by decide)

theorem State.retireXf_keeps {s u : State} (h : Keeps s u) (t' : Nat) : Keeps s (State.retireXf u t') := by
  unfold State.retireXf
  repeat' first
    | with_reducible assumption
    | (intro zz; refine Keeps.cut (s := s) (t := zz) ?_ (fun hz => ?_); unfold zz)
    | (intro zz; refine Keeps.cut (s := s) (t := zz.2) ?_ (fun hz => ?_); unfold zz; rotate_left; (try clear_value zz); rotate_right)
    | (intro zz; refine Keeps.cut (s := s) (t := zz.1) ?_ (fun hz => ?_); unfold zz; rotate_left; (try clear_value zz); rotate_right)
    | (intro zz; refine Keeps.cut (s := s) (t := zz.2.2) ?_ (fun hz => ?_); unfold zz; rotate_left; (try clear_value zz); rotate_right)
    | (intro zz; subst zz)
    | lift_lets -underBinder
    | with_reducible first | apply State.reown_keeps | apply State.reownZone_keeps | apply State.dropTasks_keeps | apply State.slotAnswer_keeps | apply State.setSlotState_keeps | apply State.setZone_keeps | apply State.setSlot_keeps | apply State.fset_keeps | apply State.setReg_keeps | apply Keeps.ite | apply Keeps.ite_fst | refine forEach_keeps ?_ _ _ (fun _ _ _ => ?_)
    | split
    | ((fail_if_success (with_reducible refine Keeps.set_jtag ?_ _)); (with_reducible refine Keeps.set_eng ?_ _ ?_); rotate_left; first | (intro hc; have q := State.canonical_eng hc; simp only [Eng.canonical, Bool.and_eq_true] at q ⊢; simp only [q, Tbl.wf_const, Tbl.wf_nil, List.all_nil, and_self]) | exact fun _ => by decide)

theorem State.timeoutGain_keeps {s u : State} (h : Keeps s u) (k : Nat) (key : Nat) (t' : Nat) : Keeps s (State.timeoutGain u k key t') := by
  unfold State.timeoutGain
  repeat' first
    | with_reducible assumption
    | (intro zz; refine Keeps.cut (s := s) (t := zz) ?_ (fun hz => ?_); unfold zz)
    | (intro zz; subst zz)
    | lift_lets -underBinder
    | with_reducible first | apply State.setSlot_keeps | apply State.bump_keeps | apply Keeps.ite
    | split

theorem State.endGainRamp_keeps {s u : State} (h : Keeps s u) (k : Nat) (key : Nat) : Keeps s (State.endGainRamp u k key) := by
  unfold State.endGainRamp
  repeat' first
    | with_reducible assumption
    | (intro zz; refine Keeps.cut (s := s) (t := zz) ?_ (fun hz => ?_); unfold zz)
    | (intro zz; subst zz)
    | lift_lets -underBinder
    | with_reducible first | apply State.setSlot_keeps | apply Keeps.ite
    | split

theorem State.settleGains_keeps {s u : State} (h : Keeps s u) (t' : Nat) : Keeps s (State.settleGains u t') := by
  unfold State.settleGains
  repeat' first
    | with_reducible assumption
    | with_reducible first | apply State.endGainRamp_keeps | apply State.timeoutGain_keeps | apply Keeps.ite_fst | refine forEach_keeps ?_ _ _ (fun _ _ _ => ?_)
    | split

theorem State.takeRestarts_keeps {s u : State} (h : Keeps s u) (t' : Nat) (p : Restart → Bool) : Keeps s (State.takeRestarts u t' p) := by
  unfold State.takeRestarts
  repeat' first
    | with_reducible assumption
    | (intro zz; refine Keeps.cut (s := s) (t := zz) ?_ (fun hz => ?_); unfold zz)
    | (intro zz; refine Keeps.cut (s := s) (t := zz.2) ?_ (fun hz => ?_); unfold zz; rotate_left; (try clear_value zz); rotate_right)
    | (intro zz; refine Keeps.cut (s := s) (t := zz.1) ?_ (fun hz => ?_); unfold zz; rotate_left; (try clear_value zz); rotate_right)
    | (intro zz; refine Keeps.cut (s := s) (t := zz.2.2) ?_ (fun hz => ?_); unfold zz; rotate_left; (try clear_value zz); rotate_right)
    | (intro zz; subst zz)
    | lift_lets -underBinder
    | with_reducible first | apply State.fillRegion_keeps | apply State.complete_keeps | apply State.setCore_keeps | apply Keeps.ite_fst | refine forEach_keeps ?_ _ _ (fun _ _ _ => ?_)
    | split
    | ((fail_if_success (with_reducible refine Keeps.set_jtag ?_ _)); (with_reducible refine Keeps.set_eng ?_ _ ?_); rotate_left; first | (intro hc; have q := State.canonical_eng hc; simp only [Eng.canonical, Bool.and_eq_true] at q ⊢; simp only [q, Tbl.wf_const, Tbl.wf_nil, List.all_nil, and_self]) | exact fun _ => by decide)

theorem State.abortEngine_keeps {s u : State} (h : Keeps s u)  : Keeps s (State.abortEngine u) := by
  unfold State.abortEngine
  repeat' first
    | with_reducible assumption
    | (intro zz; refine Keeps.cut (s := s) (t := zz) ?_ (fun hz => ?_); unfold zz)
    | (intro zz; subst zz)
    | lift_lets -underBinder
    | with_reducible first | apply State.cancelCommits_keeps | apply State.answer_keeps | apply Keeps.ite | refine forEach_keeps ?_ _ _ (fun _ _ _ => ?_)
    | split

end Sys2Proof.Machine
end

