-- ==== Sys2Proof/Laws/Keeps/SceneCmds.lean ====
section
/-! SUPPORT. What the operations of Machine/SceneCmds.lean keep. -/

namespace Sys2Proof.Machine

open Sys2Proof.Arith

set_option linter.unreachableTactic false
set_option linter.unusedTactic false
set_option linter.unusedVariables false
set_option linter.unusedSimpArgs false

theorem State.takeCommand_keeps {s u : State} (h : Keeps s u) (cmd : CmdHdr) (op : Nat) (act : State → CmdRef → State)
    (ha : ∀ v r, Keeps s v → Keeps s (act v r)) : Keeps s (u.takeCommand cmd op act) := by
  unfold State.takeCommand
  split
  · exact h
  · have h1 := State.consumed_keeps h 0
    dsimp only
    split
    · exact State.answer_keeps h1 _ _ _
    · exact ha _ _ h1

theorem execLoad_keeps {s u : State} (h : Keeps s u) (cmd : CmdHdr) (slot : W32) (addrLo : W32) (addrHi : W32) (len : W32) (readOk : Bool) : ∀ t, execLoad cmd slot addrLo addrHi len readOk u = .next t → Keeps s t := by
  intro t ht
  unfold execLoad at ht
  obtain rfl := Host.Outcome.next.inj ht
  refine State.takeCommand_keeps h _ _ _ (fun v r hv => ?_)
  dsimp only
  repeat' first
    | with_reducible first | exact hv | apply State.slotRefuse_keeps | apply State.answer_keeps | apply Keeps.ite
  apply State.setSlotState_keeps
  refine Keeps.set_bulk_eng hv _ (fun hc => Memory.wf_setBytes _ _ _ (Memory.wf_eraseRange _ _ _ (State.canonical_bulk hc))) _ ?_
  intro hc
  have q := State.canonical_eng hc
  simp only [Eng.canonical, Bool.and_eq_true] at q ⊢
  simp only [q, and_self]

theorem State.noteLoadErr_keeps {s u : State} (h : Keeps s u) (e : LoadErr) : Keeps s (State.noteLoadErr u e) := by
  unfold State.noteLoadErr
  repeat' first
    | with_reducible assumption
    | with_reducible first | apply State.setReg_keeps
    | split

theorem execLoadDone_keeps {s u : State} (h : Keeps s u)  : ∀ t, execLoadDone u = .next t → Keeps s t := by
  intro t ht
  unfold execLoadDone at ht
  obtain rfl := Host.Outcome.next.inj ht
  repeat' first
    | with_reducible assumption
    | (intro zz; refine Keeps.cut (s := s) (t := zz) ?_ (fun hz => ?_); unfold zz)
    | (intro zz; subst zz)
    | lift_lets -underBinder
    | with_reducible first | apply State.noteLoadErr_keeps | apply State.slotRefuse_keeps | apply State.setSlotState_keeps | apply State.setSlot_keeps | apply State.count_keeps | apply State.setReg_keeps | apply Keeps.ite
    | split
    | ((fail_if_success (with_reducible refine Keeps.set_jtag ?_ _)); (with_reducible refine Keeps.set_eng ?_ _ ?_); rotate_left; first | (intro hc; have q := State.canonical_eng hc; simp only [Eng.canonical, Bool.and_eq_true] at q ⊢; simp only [q, Tbl.wf_const, Tbl.wf_nil, List.all_nil, and_self]) | exact fun _ => by decide)

theorem execUnload_keeps {s u : State} (h : Keeps s u) (cmd : CmdHdr) (slot : W32) : ∀ t, execUnload cmd slot u = .next t → Keeps s t := by
  intro t ht
  unfold execUnload at ht
  obtain rfl := Host.Outcome.next.inj ht
  repeat' first
    | with_reducible assumption
    | (intro zz; refine Keeps.cut (s := s) (t := zz) ?_ (fun hz => ?_); unfold zz)
    | (intro zz; subst zz)
    | lift_lets -underBinder
    | with_reducible first | refine State.takeCommand_keeps ?_ _ _ _ (fun _ _ _ => ?_) | apply State.slotRefuse_keeps | apply State.answer_keeps | apply State.setSlotState_keeps | apply State.setSlot_keeps | apply State.setReg_keeps | apply Keeps.ite
    | split

theorem State.slotAt_keeps {s u : State} (h : Keeps s u) (cmd : CmdHdr) (r : CmdRef) (k : Nat) (op : SlotOp)
    (res : List W32) (start : State → Nat → State) (hs : ∀ v d, Keeps s v → Keeps s (start v d))
    (settled : Except Nat (Nat × Bool)) : Keeps s (u.slotAt cmd r k op res start settled) := by
  unfold State.slotAt
  split
  · exact State.slotRefuse_keeps h _ _ _
  · apply State.accepted_keeps
    apply hs
    exact Keeps.set_eng h _ (by intro hc; have q := State.canonical_eng hc; simp only [Eng.canonical, Bool.and_eq_true] at q ⊢; simp only [q, and_self])

theorem State.slotTarget_keeps {s u : State} (h : Keeps s u) (cmd : CmdHdr) (r : CmdRef) (k : Nat) (target : W32) (op : SlotOp)
    (w : Nat) (res : List W32) (start : State → Nat → State) (hs : ∀ v d, Keeps s v → Keeps s (start v d)) :
    Keeps s (u.slotTarget cmd r k target op w res start) :=
  State.slotAt_keeps h _ _ _ _ _ _ hs _

theorem execActivate_keeps {s u : State} (h : Keeps s u) (cmd : CmdHdr) (slot : W32) (target : W32) : ∀ t, execActivate cmd slot target u = .next t → Keeps s t := by
  intro t ht
  unfold execActivate at ht
  obtain rfl := Host.Outcome.next.inj ht
  repeat' first
    | with_reducible assumption
    | (intro zz; refine Keeps.cut (s := s) (t := zz) ?_ (fun hz => ?_); unfold zz)
    | (intro zz; subst zz)
    | lift_lets -underBinder
    | with_reducible first | refine State.slotTarget_keeps ?_ _ _ _ _ _ _ _ _ (fun _ _ _ => ?_) | refine State.takeCommand_keeps ?_ _ _ _ (fun _ _ _ => ?_) | apply State.slotRefuse_keeps | apply State.answer_keeps | apply Keeps.ite
    | split

theorem State.activateXf_keeps {s u : State} (h : Keeps s u) (cmd : CmdHdr) (r : CmdRef) (slot : W32) (target : W32) (len : W32) : Keeps s (State.activateXf u cmd r slot target len) := by
  unfold State.activateXf
  repeat' first
    | with_reducible assumption
    | (intro zz; refine Keeps.cut (s := s) (t := zz) ?_ (fun hz => ?_); unfold zz)
    | (intro zz; subst zz)
    | lift_lets -underBinder
    | with_reducible first | refine State.slotTarget_keeps ?_ _ _ _ _ _ _ _ _ (fun _ _ _ => ?_) | apply State.noteLoadErr_keeps | apply State.cancelCommits_keeps | apply State.slotRefuse_keeps | apply State.answer_keeps | apply State.setReg_keeps | apply Keeps.ite
    | split

theorem execActivateXf_keeps {s u : State} (h : Keeps s u) (cmd : CmdHdr) (slot : W32) (target : W32) (len : W32) : ∀ t, execActivateXf cmd slot target len u = .next t → Keeps s t := by
  intro t ht
  unfold execActivateXf at ht
  obtain rfl := Host.Outcome.next.inj ht
  repeat' first
    | with_reducible assumption
    | with_reducible first | apply State.activateXf_keeps | refine State.takeCommand_keeps ?_ _ _ _ (fun _ _ _ => ?_)
    | split

theorem execStopSlot_keeps {s u : State} (h : Keeps s u) (cmd : CmdHdr) (slot : W32) (target : W32) : ∀ t, execStopSlot cmd slot target u = .next t → Keeps s t := by
  intro t ht
  unfold execStopSlot at ht
  obtain rfl := Host.Outcome.next.inj ht
  repeat' first
    | with_reducible assumption
    | (intro zz; refine Keeps.cut (s := s) (t := zz) ?_ (fun hz => ?_); unfold zz)
    | (intro zz; subst zz)
    | lift_lets -underBinder
    | with_reducible first | refine State.slotTarget_keeps ?_ _ _ _ _ _ _ _ _ (fun _ _ _ => ?_) | refine State.takeCommand_keeps ?_ _ _ _ (fun _ _ _ => ?_) | apply State.cancelCommits_keeps | apply State.slotRefuse_keeps | apply State.answer_keeps | apply Keeps.ite
    | split

theorem execActivationTakesEffect_keeps {s u : State} (h : Keeps s u)  : ∀ t, execActivationTakesEffect u = .next t → Keeps s t := by
  intro t ht
  unfold execActivationTakesEffect at ht
  obtain rfl := Host.Outcome.next.inj ht
  repeat' first
    | with_reducible assumption
    | with_reducible first | apply State.takeActivation_keeps | apply Keeps.ite
    | split

theorem execStopTakesEffect_keeps {s u : State} (h : Keeps s u)  : ∀ t, execStopTakesEffect u = .next t → Keeps s t := by
  intro t ht
  unfold execStopTakesEffect at ht
  obtain rfl := Host.Outcome.next.inj ht
  repeat' first
    | with_reducible assumption
    | with_reducible first | apply State.takeStop_keeps | apply Keeps.ite
    | split

theorem execStopComplete_keeps {s u : State} (h : Keeps s u)  : ∀ t, execStopComplete u = .next t → Keeps s t := by
  intro t ht
  unfold execStopComplete at ht
  obtain rfl := Host.Outcome.next.inj ht
  repeat' first
    | with_reducible assumption
    | with_reducible first | apply State.endStop_keeps | apply Keeps.ite
    | split

theorem execXfWarmupStart_keeps {s u : State} (h : Keeps s u)  : ∀ t, execXfWarmupStart u = .next t → Keeps s t := by
  intro t ht
  unfold execXfWarmupStart at ht
  obtain rfl := Host.Outcome.next.inj ht
  repeat' first
    | with_reducible assumption
    | with_reducible first | apply State.beginXf_keeps | apply Keeps.ite
    | split

theorem execXfFadeStart_keeps {s u : State} (h : Keeps s u)  : ∀ t, execXfFadeStart u = .next t → Keeps s t := by
  intro t ht
  unfold execXfFadeStart at ht
  obtain rfl := Host.Outcome.next.inj ht
  repeat' first
    | with_reducible assumption
    | with_reducible first | apply State.beginFade_keeps | apply Keeps.ite
    | split

theorem execXfRetire_keeps {s u : State} (h : Keeps s u)  : ∀ t, execXfRetire u = .next t → Keeps s t := by
  intro t ht
  unfold execXfRetire at ht
  obtain rfl := Host.Outcome.next.inj ht
  repeat' first
    | with_reducible assumption
    | with_reducible first | apply State.retireXf_keeps | apply Keeps.ite
    | split

theorem execCommit_keeps {s u : State} (h : Keeps s u) (cmd : CmdHdr) (slot : W32) (group : W32) (target : W32) (fence : W32) : ∀ t, execCommit cmd slot group target fence u = .next t → Keeps s t := by
  intro t ht
  unfold execCommit at ht
  obtain rfl := Host.Outcome.next.inj ht
  repeat' first
    | with_reducible assumption
    | (intro zz; refine Keeps.cut (s := s) (t := zz) ?_ (fun hz => ?_); unfold zz)
    | (intro zz; subst zz)
    | lift_lets -underBinder
    | with_reducible first | refine State.takeCommand_keeps ?_ _ _ _ (fun _ _ _ => ?_) | apply State.arriveCommit_keeps | apply State.answer_keeps | apply Keeps.ite
    | split
    | ((fail_if_success (with_reducible refine Keeps.set_jtag ?_ _)); (with_reducible refine Keeps.set_eng ?_ _ ?_); rotate_left; first | (intro hc; have q := State.canonical_eng hc; simp only [Eng.canonical, Bool.and_eq_true] at q ⊢; simp only [q, Tbl.wf_const, Tbl.wf_nil, List.all_nil, and_self]) | exact fun _ => by decide)

theorem execCommitArrival_keeps {s u : State} (h : Keeps s u)  : ∀ t, execCommitArrival u = .next t → Keeps s t := by
  intro t ht
  unfold execCommitArrival at ht
  obtain rfl := Host.Outcome.next.inj ht
  repeat' first
    | with_reducible assumption
    | with_reducible first | apply State.drainFences_keeps
    | split

theorem execCommitLand_keeps {s u : State} (h : Keeps s u) (slot : Nat) (group : Nat) : ∀ t, execCommitLand slot group u = .next t → Keeps s t := by
  intro t ht
  unfold execCommitLand at ht
  obtain rfl := Host.Outcome.next.inj ht
  repeat' first
    | with_reducible assumption
    | with_reducible first | apply State.landCommits_keeps
    | split

theorem execZcTimeout_keeps {s u : State} (h : Keeps s u) (slot : Nat) (pset : Nat) (word : Nat) : ∀ t, execZcTimeout slot pset word u = .next t → Keeps s t := by
  intro t ht
  unfold execZcTimeout at ht
  obtain rfl := Host.Outcome.next.inj ht
  repeat' first
    | with_reducible assumption
    | with_reducible first | apply State.timeoutGain_keeps
    | split

theorem execGainRampEnd_keeps {s u : State} (h : Keeps s u) (slot : Nat) (pset : Nat) (word : Nat) : ∀ t, execGainRampEnd slot pset word u = .next t → Keeps s t := by
  intro t ht
  unfold execGainRampEnd at ht
  obtain rfl := Host.Outcome.next.inj ht
  repeat' first
    | with_reducible assumption
    | with_reducible first | apply State.endGainRamp_keeps
    | split

theorem State.restartAt_keeps {s u : State} (h : Keeps s u) (cmd : CmdHdr) (r : CmdRef) (k : Nat) (task : Nat) (settled : Except Nat (Nat × Bool)) : Keeps s (State.restartAt u cmd r k task settled) := by
  unfold State.restartAt
  repeat' first
    | with_reducible assumption
    | (intro zz; refine Keeps.cut (s := s) (t := zz) ?_ (fun hz => ?_); unfold zz)
    | (intro zz; subst zz)
    | lift_lets -underBinder
    | with_reducible first | apply State.accepted_keeps | apply State.answer_keeps
    | split
    | ((fail_if_success (with_reducible refine Keeps.set_jtag ?_ _)); (with_reducible refine Keeps.set_eng ?_ _ ?_); rotate_left; first | (intro hc; have q := State.canonical_eng hc; simp only [Eng.canonical, Bool.and_eq_true] at q ⊢; simp only [q, Tbl.wf_const, Tbl.wf_nil, List.all_nil, and_self]) | exact fun _ => by decide)

theorem execTaskRestart_keeps {s u : State} (h : Keeps s u) (cmd : CmdHdr) (slot : W32) (task : W32) (target : W32) : ∀ t, execTaskRestart cmd slot task target u = .next t → Keeps s t := by
  intro t ht
  unfold execTaskRestart at ht
  obtain rfl := Host.Outcome.next.inj ht
  repeat' first
    | with_reducible assumption
    | (intro zz; refine Keeps.cut (s := s) (t := zz) ?_ (fun hz => ?_); unfold zz)
    | (intro zz; subst zz)
    | lift_lets -underBinder
    | with_reducible first | apply State.restartAt_keeps | refine State.takeCommand_keeps ?_ _ _ _ (fun _ _ _ => ?_) | apply State.answer_keeps | apply Keeps.ite
    | split

theorem execTaskRestartLand_keeps {s u : State} (h : Keeps s u) (slot : Nat) (task : Nat) : ∀ t, execTaskRestartLand slot task u = .next t → Keeps s t := by
  intro t ht
  unfold execTaskRestartLand at ht
  obtain rfl := Host.Outcome.next.inj ht
  repeat' first
    | with_reducible assumption
    | with_reducible first | apply State.takeRestarts_keeps
    | split

theorem State.endWrite_keeps {s u : State} (h : Keeps s u) (e : PwEntry) (code : Nat) (words : List W32) : Keeps s (State.endWrite u e code words) := by
  unfold State.endWrite
  repeat' first
    | with_reducible assumption
    | (intro zz; refine Keeps.cut (s := s) (t := zz) ?_ (fun hz => ?_); unfold zz)
    | (intro zz; subst zz)
    | lift_lets -underBinder
    | with_reducible first | apply State.drainFences_keeps | apply State.answer_keeps | apply State.consumed_keeps | apply State.setSlot_keeps | apply State.bump_keeps | apply Keeps.ite
    | split

theorem execParameterWrite_keeps {s u : State} (h : Keeps s u) (e : PwEntry) : ∀ t, execParameterWrite e u = .next t → Keeps s t := by
  intro t ht
  unfold execParameterWrite at ht
  obtain rfl := Host.Outcome.next.inj ht
  repeat' first
    | with_reducible assumption
    | (intro zz; refine Keeps.cut (s := s) (t := zz) ?_ (fun hz => ?_); unfold zz)
    | (intro zz; subst zz)
    | lift_lets -underBinder
    | with_reducible first | apply State.endWrite_keeps | apply State.count_keeps | apply Keeps.ite
    | split
    | ((fail_if_success (with_reducible refine Keeps.set_jtag ?_ _)); (with_reducible refine Keeps.set_hif ?_ _ ?_); rotate_left; first | (intro hc; have q := State.canonical_hif hc; simp only [Hif.canonical, Bool.and_eq_true] at q ⊢; simp only [q, Tbl.wf_const, Tbl.wf_nil, List.all_nil, and_self]) | exact fun _ => by decide)

theorem execPwIndirectFetch_keeps {s u : State} (h : Keeps s u) (readOk : Bool) : ∀ t, execPwIndirectFetch readOk u = .next t → Keeps s t := by
  intro t ht
  unfold execPwIndirectFetch at ht
  obtain rfl := Host.Outcome.next.inj ht
  repeat' first
    | with_reducible assumption
    | (intro zz; refine Keeps.cut (s := s) (t := zz) ?_ (fun hz => ?_); unfold zz)
    | (intro zz; subst zz)
    | lift_lets -underBinder
    | with_reducible first | apply State.endWrite_keeps | apply State.count_keeps | apply Keeps.ite
    | split
    | ((fail_if_success (with_reducible refine Keeps.set_jtag ?_ _)); (with_reducible refine Keeps.set_hif ?_ _ ?_); rotate_left; first | (intro hc; have q := State.canonical_hif hc; simp only [Hif.canonical, Bool.and_eq_true] at q ⊢; simp only [q, Tbl.wf_const, Tbl.wf_nil, List.all_nil, and_self]) | exact fun _ => by decide)

theorem execProgBaseWrite_keeps {s u : State} (h : Keeps s u) (value : W32) : ∀ t, execProgBaseWrite value u = .next t → Keeps s t := by
  intro t ht
  unfold execProgBaseWrite at ht
  obtain rfl := Host.Outcome.next.inj ht
  repeat' first
    | with_reducible assumption
    | with_reducible first | apply State.writePlain_keeps | apply Keeps.ite
    | split

theorem State.settleVoice_keeps {s u : State} (h : Keeps s u) (k : Nat) (i : Nat) : Keeps s (State.settleVoice u k i) := by
  unfold State.settleVoice
  repeat' first
    | with_reducible assumption
    | (intro zz; refine Keeps.cut (s := s) (t := zz) ?_ (fun hz => ?_); unfold zz)
    | (intro zz; refine Keeps.cut (s := s) (t := zz.2) ?_ (fun hz => ?_); unfold zz; rotate_left; (try clear_value zz); rotate_right)
    | (intro zz; refine Keeps.cut (s := s) (t := zz.1) ?_ (fun hz => ?_); unfold zz; rotate_left; (try clear_value zz); rotate_right)
    | (intro zz; refine Keeps.cut (s := s) (t := zz.2.2) ?_ (fun hz => ?_); unfold zz; rotate_left; (try clear_value zz); rotate_right)
    | (intro zz; subst zz)
    | lift_lets -underBinder
    | with_reducible first | apply State.fwEvent_keeps | apply State.setSlot_keeps | apply Keeps.ite | apply Keeps.ite_snd | apply Keeps.ite_fst
    | split

theorem State.settleRecorder_keeps {s u : State} (h : Keeps s u) (k : Nat) (i : Nat) : Keeps s (State.settleRecorder u k i) := by
  unfold State.settleRecorder
  repeat' first
    | with_reducible assumption
    | (intro zz; refine Keeps.cut (s := s) (t := zz) ?_ (fun hz => ?_); unfold zz)
    | (intro zz; refine Keeps.cut (s := s) (t := zz.2) ?_ (fun hz => ?_); unfold zz; rotate_left; (try clear_value zz); rotate_right)
    | (intro zz; refine Keeps.cut (s := s) (t := zz.1) ?_ (fun hz => ?_); unfold zz; rotate_left; (try clear_value zz); rotate_right)
    | (intro zz; refine Keeps.cut (s := s) (t := zz.2.2) ?_ (fun hz => ?_); unfold zz; rotate_left; (try clear_value zz); rotate_right)
    | (intro zz; subst zz)
    | lift_lets -underBinder
    | with_reducible first | apply State.fwEvent_keeps | apply State.setSlot_keeps | apply Keeps.ite | apply Keeps.ite_snd | apply Keeps.ite_fst
    | split

theorem State.settleSilence_keeps {s u : State} (h : Keeps s u) (k : Nat) (i : Nat) : Keeps s (State.settleSilence u k i) := by
  unfold State.settleSilence
  repeat' first
    | with_reducible assumption
    | (intro zz; refine Keeps.cut (s := s) (t := zz) ?_ (fun hz => ?_); unfold zz)
    | (intro zz; subst zz)
    | lift_lets -underBinder
    | with_reducible first | apply State.fwEvent_keeps | apply State.setSlot_keeps | apply Keeps.ite
    | split

theorem execVoiceEnded_keeps {s u : State} (h : Keeps s u) (slot : Nat) (node : Nat) : ∀ t, execVoiceEnded slot node u = .next t → Keeps s t := by
  intro t ht
  unfold execVoiceEnded at ht
  obtain rfl := Host.Outcome.next.inj ht
  repeat' first
    | with_reducible assumption
    | with_reducible first | apply State.settleVoice_keeps
    | split

theorem execRecorderFull_keeps {s u : State} (h : Keeps s u) (slot : Nat) (node : Nat) : ∀ t, execRecorderFull slot node u = .next t → Keeps s t := by
  intro t ht
  unfold execRecorderFull at ht
  obtain rfl := Host.Outcome.next.inj ht
  repeat' first
    | with_reducible assumption
    | with_reducible first | apply State.settleRecorder_keeps
    | split

theorem execSilenceHoldExpiry_keeps {s u : State} (h : Keeps s u) (slot : Nat) (node : Nat) : ∀ t, execSilenceHoldExpiry slot node u = .next t → Keeps s t := by
  intro t ht
  unfold execSilenceHoldExpiry at ht
  obtain rfl := Host.Outcome.next.inj ht
  repeat' first
    | with_reducible assumption
    | with_reducible first | apply State.settleSilence_keeps
    | split

theorem execPrioHoldExpiry_keeps {s u : State} (h : Keeps s u) (slot : Nat) (node : Nat) (input : Nat) : ∀ t, execPrioHoldExpiry slot node input u = .next t → Keeps s t := by
  intro t ht
  unfold execPrioHoldExpiry at ht
  obtain rfl := Host.Outcome.next.inj ht
  repeat' first
    | with_reducible assumption
    | (intro zz; refine Keeps.cut (s := s) (t := zz) ?_ (fun hz => ?_); unfold zz)
    | (intro zz; subst zz)
    | lift_lets -underBinder
    | with_reducible first | apply State.setSlot_keeps | apply Keeps.ite
    | split

end Sys2Proof.Machine
end

