-- ==== Sys2Proof/Laws/Keeps/Vendor.lean ====
section
/-! SUPPORT. What the operations of Machine/Vendor.lean keep. -/

namespace Sys2Proof.Machine

open Sys2Proof.Arith

set_option linter.unreachableTactic false
set_option linter.unusedTactic false
set_option linter.unusedVariables false
set_option linter.unusedSimpArgs false

theorem State.postMsg_keeps {s u : State} (h : Keeps s u) (n : Nat) (t' : Task) (words : List W32) : Keeps s (State.postMsg u n t' words) := by
  unfold State.postMsg
  repeat' first
    | with_reducible assumption
    | (intro zz; refine Keeps.cut (s := s) (t := zz) ?_ (fun hz => ?_); unfold zz)
    | (intro zz; subst zz)
    | lift_lets -underBinder
    | with_reducible first | apply State.setCore_keeps | apply State.count_keeps | apply Keeps.ite
    | split

theorem State.vendorTask_keeps {s u : State} (h : Keeps s u) (n : Nat) (tick : Nat) (t' : Task) : Keeps s (State.vendorTask u n tick t') := by
  unfold State.vendorTask
  repeat' first
    | with_reducible assumption
    | (intro zz; refine Keeps.cut (s := s) (t := zz) ?_ (fun hz => ?_); unfold zz)
    | (intro zz; refine Keeps.cut (s := s) (t := zz.2) ?_ (fun hz => ?_); unfold zz; rotate_left; (try clear_value zz); rotate_right)
    | (intro zz; refine Keeps.cut (s := s) (t := zz.1) ?_ (fun hz => ?_); unfold zz; rotate_left; (try clear_value zz); rotate_right)
    | (intro zz; refine Keeps.cut (s := s) (t := zz.2.2) ?_ (fun hz => ?_); unfold zz; rotate_left; (try clear_value zz); rotate_right)
    | (intro zz; subst zz)
    | lift_lets -underBinder
    | with_reducible first | apply State.setVendor_keeps | apply State.setCore_keeps | apply Keeps.ite | apply Keeps.ite_snd | apply Keeps.ite_fst
    | split

theorem State.vendorReports_keeps {s u : State} (h : Keeps s u) (n : Nat) (tick : Nat) (t' : Task) : Keeps s (State.vendorReports u n tick t') := by
  unfold State.vendorReports
  repeat' first
    | with_reducible assumption
    | (intro zz; refine Keeps.cut (s := s) (t := zz) ?_ (fun hz => ?_); unfold zz)
    | (intro zz; subst zz)
    | lift_lets -underBinder
    | with_reducible first | apply State.postMsg_keeps | apply State.setVendor_keeps | apply Keeps.ite | refine forEach_keeps ?_ _ _ (fun _ _ _ => ?_)
    | split

theorem State.vendorTick_keeps {s u : State} (h : Keeps s u) (tick : Nat) : Keeps s (State.vendorTick u tick) := by
  unfold State.vendorTick
  repeat' first
    | with_reducible assumption
    | (intro zz; refine Keeps.cut (s := s) (t := zz) ?_ (fun hz => ?_); unfold zz)
    | (intro zz; refine Keeps.cut (s := s) (t := zz.2) ?_ (fun hz => ?_); unfold zz; rotate_left; (try clear_value zz); rotate_right)
    | (intro zz; refine Keeps.cut (s := s) (t := zz.1) ?_ (fun hz => ?_); unfold zz; rotate_left; (try clear_value zz); rotate_right)
    | (intro zz; refine Keeps.cut (s := s) (t := zz.2.2) ?_ (fun hz => ?_); unfold zz; rotate_left; (try clear_value zz); rotate_right)
    | (intro zz; subst zz)
    | lift_lets -underBinder
    | with_reducible first | apply State.vendorReports_keeps | apply State.vendorTask_keeps | apply Keeps.ite | apply Keeps.ite_snd | apply Keeps.ite_fst | refine forEach_keeps ?_ _ _ (fun _ _ _ => ?_)
    | split

end Sys2Proof.Machine
end

