-- ==== Sys2Proof/Laws/Keeps/Adapt.lean ====
section
/-! SUPPORT. What the operations of Machine/Adapt.lean keep. -/

namespace Sys2Proof.Machine

open Sys2Proof.Arith

set_option linter.unreachableTactic false
set_option linter.unusedTactic false
set_option linter.unusedVariables false
set_option linter.unusedSimpArgs false

theorem State.deliverNoise_keeps {s u : State} (h : Keeps s u) (z : Nat) (n : Int) : Keeps s (State.deliverNoise u z n) := by
  unfold State.deliverNoise
  repeat' first
    | with_reducible assumption
    | (intro zz; refine Keeps.cut (s := s) (t := zz) ?_ (fun hz => ?_); unfold zz)
    | (intro zz; refine Keeps.cut (s := s) (t := zz.2) ?_ (fun hz => ?_); unfold zz; rotate_left; (try clear_value zz); rotate_right)
    | (intro zz; refine Keeps.cut (s := s) (t := zz.1) ?_ (fun hz => ?_); unfold zz; rotate_left; (try clear_value zz); rotate_right)
    | (intro zz; refine Keeps.cut (s := s) (t := zz.2.2) ?_ (fun hz => ?_); unfold zz; rotate_left; (try clear_value zz); rotate_right)
    | (intro zz; subst zz)
    | lift_lets -underBinder
    | with_reducible first | apply State.setSlot_keeps | apply Keeps.ite | apply Keeps.ite_snd | apply Keeps.ite_fst | refine forEach_keeps ?_ _ _ (fun _ _ _ => ?_) | refine foldl_keeps_snd _ _ _ ?_ (fun _ _ _ => ?_) | refine foldl_keeps_fst _ _ _ ?_ (fun _ _ _ => ?_) | refine foldl_keeps _ _ _ ?_ (fun _ _ _ => ?_)
    | split

theorem State.takeNoise_keeps {s u : State} (h : Keeps s u) (z : Nat) (t' : Nat) : Keeps s (State.takeNoise u z t') := by
  unfold State.takeNoise
  repeat' first
    | with_reducible assumption
    | (intro zz; refine Keeps.cut (s := s) (t := zz) ?_ (fun hz => ?_); unfold zz)
    | (intro zz; refine Keeps.cut (s := s) (t := zz.2) ?_ (fun hz => ?_); unfold zz; rotate_left; (try clear_value zz); rotate_right)
    | (intro zz; refine Keeps.cut (s := s) (t := zz.1) ?_ (fun hz => ?_); unfold zz; rotate_left; (try clear_value zz); rotate_right)
    | (intro zz; refine Keeps.cut (s := s) (t := zz.2.2) ?_ (fun hz => ?_); unfold zz; rotate_left; (try clear_value zz); rotate_right)
    | (intro zz; subst zz)
    | lift_lets -underBinder
    | with_reducible first | apply State.deliverNoise_keeps | apply State.setZone_keeps | apply Keeps.ite_snd | apply Keeps.ite_fst | refine forEach_keeps ?_ _ _ (fun _ _ _ => ?_)
    | split

theorem execNoiseDelivery_keeps {s u : State} (h : Keeps s u) (zone : Nat) (late : Bool) : ∀ t, execNoiseDelivery zone late u = .next t → Keeps s t := by
  intro t ht
  unfold execNoiseDelivery at ht
  obtain rfl := Host.Outcome.next.inj ht
  repeat' first
    | with_reducible assumption
    | (intro zz; refine Keeps.cut (s := s) (t := zz) ?_ (fun hz => ?_); unfold zz)
    | (intro zz; refine Keeps.cut (s := s) (t := zz.2) ?_ (fun hz => ?_); unfold zz; rotate_left; (try clear_value zz); rotate_right)
    | (intro zz; refine Keeps.cut (s := s) (t := zz.1) ?_ (fun hz => ?_); unfold zz; rotate_left; (try clear_value zz); rotate_right)
    | (intro zz; refine Keeps.cut (s := s) (t := zz.2.2) ?_ (fun hz => ?_); unfold zz; rotate_left; (try clear_value zz); rotate_right)
    | (intro zz; subst zz)
    | lift_lets -underBinder
    | with_reducible first | apply State.takeNoise_keeps | apply State.deliverNoise_keeps | apply State.setZone_keeps | apply State.bump_keeps | apply Keeps.ite | apply Keeps.ite_snd | apply Keeps.ite_fst
    | split

theorem State.writeResult_keeps {s u : State} (h : Keeps s u) (z : Nat) (e : Nat) (r : EstResult) (noise : Int) (stale : Bool) : Keeps s (State.writeResult u z e r noise stale) := by
  unfold State.writeResult
  repeat' first
    | with_reducible assumption
    | (intro zz; refine Keeps.cut (s := s) (t := zz) ?_ (fun hz => ?_); unfold zz)
    | (intro zz; refine Keeps.cut (s := s) (t := zz.2) ?_ (fun hz => ?_); unfold zz; rotate_left; (try clear_value zz); rotate_right)
    | (intro zz; refine Keeps.cut (s := s) (t := zz.1) ?_ (fun hz => ?_); unfold zz; rotate_left; (try clear_value zz); rotate_right)
    | (intro zz; refine Keeps.cut (s := s) (t := zz.2.2) ?_ (fun hz => ?_); unfold zz; rotate_left; (try clear_value zz); rotate_right)
    | (intro zz; subst zz)
    | lift_lets -underBinder
    | with_reducible first | apply State.setReg_keeps | apply Keeps.ite_snd | apply Keeps.ite_fst | refine forEach_keeps ?_ _ _ (fun _ _ _ => ?_)
    | split

theorem execEstimatorPeriodEnd_keeps {s u : State} (h : Keeps s u) (zone : Nat) (ref : TaskRef) : ∀ t, execEstimatorPeriodEnd zone ref u = .next t → Keeps s t := by
  intro t ht
  unfold execEstimatorPeriodEnd at ht
  obtain rfl := Host.Outcome.next.inj ht
  repeat' first
    | with_reducible assumption
    | (intro zz; refine Keeps.cut (s := s) (t := zz) ?_ (fun hz => ?_); unfold zz)
    | (intro zz; refine Keeps.cut (s := s) (t := zz.2) ?_ (fun hz => ?_); unfold zz; rotate_left; (try clear_value zz); rotate_right)
    | (intro zz; refine Keeps.cut (s := s) (t := zz.1) ?_ (fun hz => ?_); unfold zz; rotate_left; (try clear_value zz); rotate_right)
    | (intro zz; refine Keeps.cut (s := s) (t := zz.2.2) ?_ (fun hz => ?_); unfold zz; rotate_left; (try clear_value zz); rotate_right)
    | (intro zz; subst zz)
    | lift_lets -underBinder
    | with_reducible first | apply State.writeResult_keeps | apply State.setVendor_keeps | apply State.mirrorRecord_keeps | apply State.fwEvent_keeps | apply State.setZone_keeps | apply State.bump_keeps | apply Keeps.ite | apply Keeps.ite_snd | apply Keeps.ite_fst
    | split

theorem State.adaptWrite_keeps {s u : State} (h : Keeps s u) (w : AdaptW) : Keeps s (State.adaptWrite u w) := by
  unfold State.adaptWrite
  repeat' first
    | with_reducible assumption
    | (intro zz; refine Keeps.cut (s := s) (t := zz) ?_ (fun hz => ?_); unfold zz)
    | (intro zz; subst zz)
    | lift_lets -underBinder
    | with_reducible first | apply State.record_keeps | apply State.bump_keeps | apply State.setReg_keeps | apply Keeps.ite
    | split
    | ((fail_if_success (with_reducible refine Keeps.set_jtag ?_ _)); (with_reducible refine Keeps.set_eng ?_ _ ?_); rotate_left; first | (intro hc; have q := State.canonical_eng hc; simp only [Eng.canonical, Bool.and_eq_true] at q ⊢; simp only [q, Tbl.wf_const, Tbl.wf_nil, List.all_nil, and_self]) | exact fun _ => by decide)

theorem State.firmwareAdapt_keeps {s u : State} (h : Keeps s u) (w : AdaptW) : Keeps s (State.firmwareAdapt u w) := by
  unfold State.firmwareAdapt
  repeat' first
    | with_reducible assumption
    | with_reducible first | apply State.adaptWrite_keeps | apply State.mirrorRecord_keeps
    | split

theorem execAdaptiveWrite_keeps {s u : State} (h : Keeps s u) (w : AdaptW) : ∀ t, execAdaptiveWrite w u = .next t → Keeps s t := by
  intro t ht
  unfold execAdaptiveWrite at ht
  obtain rfl := Host.Outcome.next.inj ht
  repeat' first
    | with_reducible assumption
    | with_reducible first | apply State.firmwareAdapt_keeps | apply Keeps.ite
    | split

theorem State.applyAdapt_keeps {s u : State} (h : Keeps s u) (a : AdaptPend) (t' : Nat) : Keeps s (State.applyAdapt u a t') := by
  unfold State.applyAdapt
  repeat' first
    | with_reducible assumption
    | (intro zz; refine Keeps.cut (s := s) (t := zz) ?_ (fun hz => ?_); unfold zz)
    | (intro zz; refine Keeps.cut (s := s) (t := zz.2) ?_ (fun hz => ?_); unfold zz; rotate_left; (try clear_value zz); rotate_right)
    | (intro zz; refine Keeps.cut (s := s) (t := zz.1) ?_ (fun hz => ?_); unfold zz; rotate_left; (try clear_value zz); rotate_right)
    | (intro zz; refine Keeps.cut (s := s) (t := zz.2.2) ?_ (fun hz => ?_); unfold zz; rotate_left; (try clear_value zz); rotate_right)
    | (intro zz; subst zz)
    | lift_lets -underBinder
    | with_reducible first | apply State.setZone_keeps | apply State.setSlot_keeps | apply Keeps.ite | apply Keeps.ite_snd | apply Keeps.ite_fst | refine foldl_keeps_snd _ _ _ ?_ (fun _ _ _ => ?_) | refine foldl_keeps_fst _ _ _ ?_ (fun _ _ _ => ?_) | refine foldl_keeps _ _ _ ?_ (fun _ _ _ => ?_)
    | split

theorem State.takeAdapts_keeps {s u : State} (h : Keeps s u) (t' : Nat) (p : AdaptPend → Bool) : Keeps s (State.takeAdapts u t' p) := by
  unfold State.takeAdapts
  repeat' first
    | with_reducible assumption
    | (intro zz; refine Keeps.cut (s := s) (t := zz) ?_ (fun hz => ?_); unfold zz)
    | (intro zz; subst zz)
    | lift_lets -underBinder
    | with_reducible first | apply State.applyAdapt_keeps | refine forEach_keeps ?_ _ _ (fun _ _ _ => ?_)
    | split
    | ((fail_if_success (with_reducible refine Keeps.set_jtag ?_ _)); (with_reducible refine Keeps.set_eng ?_ _ ?_); rotate_left; first | (intro hc; have q := State.canonical_eng hc; simp only [Eng.canonical, Bool.and_eq_true] at q ⊢; simp only [q, Tbl.wf_const, Tbl.wf_nil, List.all_nil, and_self]) | exact fun _ => by decide)

theorem execAdaptiveWriteApply_keeps {s u : State} (h : Keeps s u) (zone : Nat) : ∀ t, execAdaptiveWriteApply zone u = .next t → Keeps s t := by
  intro t ht
  unfold execAdaptiveWriteApply at ht
  obtain rfl := Host.Outcome.next.inj ht
  repeat' first
    | with_reducible assumption
    | with_reducible first | apply State.takeAdapts_keeps
    | split

theorem State.writeAnaCtrl_keeps {s u : State} (h : Keeps s u) (value : W32) : Keeps s (State.writeAnaCtrl u value) := by
  unfold State.writeAnaCtrl
  repeat' first
    | with_reducible assumption
    | (intro zz; refine Keeps.cut (s := s) (t := zz) ?_ (fun hz => ?_); unfold zz)
    | (intro zz; subst zz)
    | lift_lets -underBinder
    | with_reducible first | apply State.reown_keeps | apply State.record_keeps | apply State.writePlain_keeps | apply State.fset_keeps | apply Keeps.ite | refine forEach_keeps ?_ _ _ (fun _ _ _ => ?_)
    | split

theorem execAnaLock_keeps {s u : State} (h : Keeps s u) (value : W32) : ∀ t, execAnaLock value u = .next t → Keeps s t := by
  intro t ht
  unfold execAnaLock at ht
  obtain rfl := Host.Outcome.next.inj ht
  repeat' first
    | with_reducible assumption
    | with_reducible first | apply State.writeAnaCtrl_keeps
    | split

theorem execAdaptEnWrite_keeps {s u : State} (h : Keeps s u) (value : W32) : ∀ t, execAdaptEnWrite value u = .next t → Keeps s t := by
  intro t ht
  unfold execAdaptEnWrite at ht
  obtain rfl := Host.Outcome.next.inj ht
  repeat' first
    | with_reducible assumption
    | with_reducible first | apply State.writeAnaCtrl_keeps
    | split

theorem State.stepGain_keeps {s u : State} (h : Keeps s u) (z : Nat) (sti : Nat) (tick : W32) : Keeps s (State.stepGain u z sti tick) := by
  unfold State.stepGain
  repeat' first
    | with_reducible assumption
    | (intro zz; refine Keeps.cut (s := s) (t := zz) ?_ (fun hz => ?_); unfold zz)
    | (intro zz; subst zz)
    | lift_lets -underBinder
    | with_reducible first | apply State.firmwareAdapt_keeps | apply State.setZone_keeps | apply Keeps.ite
    | split

theorem State.stepEq_keeps {s u : State} (h : Keeps s u) (z : Nat) (mti : List Nat) (tick : W32) : Keeps s (State.stepEq u z mti tick) := by
  unfold State.stepEq
  repeat' first
    | with_reducible assumption
    | (intro zz; refine Keeps.cut (s := s) (t := zz) ?_ (fun hz => ?_); unfold zz)
    | (intro zz; refine Keeps.cut (s := s) (t := zz.2) ?_ (fun hz => ?_); unfold zz; rotate_left; (try clear_value zz); rotate_right)
    | (intro zz; refine Keeps.cut (s := s) (t := zz.1) ?_ (fun hz => ?_); unfold zz; rotate_left; (try clear_value zz); rotate_right)
    | (intro zz; refine Keeps.cut (s := s) (t := zz.2.2) ?_ (fun hz => ?_); unfold zz; rotate_left; (try clear_value zz); rotate_right)
    | (intro zz; subst zz)
    | lift_lets -underBinder
    | with_reducible first | apply State.firmwareAdapt_keeps | apply State.setZone_keeps | apply Keeps.ite | apply Keeps.ite_snd | apply Keeps.ite_fst | refine forEach_keeps ?_ _ _ (fun _ _ _ => ?_) | refine foldl_keeps_snd _ _ _ ?_ (fun _ _ _ => ?_) | refine foldl_keeps_fst _ _ _ ?_ (fun _ _ _ => ?_) | refine foldl_keeps _ _ _ ?_ (fun _ _ _ => ?_)
    | split

theorem execAdaptiveStep_keeps {s u : State} (h : Keeps s u) (zone : Nat) : ∀ t, execAdaptiveStep zone u = .next t → Keeps s t := by
  intro t ht
  unfold execAdaptiveStep at ht
  obtain rfl := Host.Outcome.next.inj ht
  repeat' first
    | with_reducible assumption
    | (intro zz; refine Keeps.cut (s := s) (t := zz) ?_ (fun hz => ?_); unfold zz)
    | (intro zz; subst zz)
    | lift_lets -underBinder
    | with_reducible first | apply State.stepEq_keeps | apply State.stepGain_keeps | apply State.setZone_keeps | apply Keeps.ite
    | split

theorem execHowlAnalysis_keeps {s u : State} (h : Keeps s u) (slot : Nat) (task : Nat) (chan : Nat) (h' : HowlObs) : ∀ t, execHowlAnalysis slot task chan h' u = .next t → Keeps s t := by
  intro t ht
  unfold execHowlAnalysis at ht
  obtain rfl := Host.Outcome.next.inj ht
  repeat' first
    | with_reducible assumption
    | (intro zz; refine Keeps.cut (s := s) (t := zz) ?_ (fun hz => ?_); unfold zz)
    | (intro zz; subst zz)
    | lift_lets -underBinder
    | with_reducible first | apply State.setVendor_keeps | apply State.count_keeps | apply Keeps.ite
    | split

end Sys2Proof.Machine
end

