-- ==== Sys2Proof/Laws/Keeps/Ports.lean ====
section
/-! SUPPORT. What the operations of Machine/Ports.lean keep. -/

namespace Sys2Proof.Machine

open Sys2Proof.Arith

set_option linter.unreachableTactic false
set_option linter.unusedTactic false
set_option linter.unusedVariables false
set_option linter.unusedSimpArgs false

theorem State.setPort_keeps {s u : State} (h : Keeps s u) (p : Nat) (x : PortSt) : Keeps s (State.setPort u p x) := by
  unfold State.setPort
  repeat' first
    | with_reducible assumption
    | (intro zz; refine Keeps.cut (s := s) (t := zz) ?_ (fun hz => ?_); unfold zz)
    | (intro zz; subst zz)
    | lift_lets -underBinder
    | split
    | ((fail_if_success (with_reducible refine Keeps.set_jtag ?_ _)); (with_reducible refine Keeps.set_ports ?_ _ ?_); rotate_left; first | exact fun hc => Tbl.wf_const _ _ _ _ (State.canonical_ports hc) | exact fun _ => Tbl.wf_nil _ | exact fun hc => Tbl.wf_mapVals _ _ _ (State.canonical_ports hc))

theorem State.setPortState_keeps {s u : State} (h : Keeps s u) (p : Nat) (v : Nat) : Keeps s (State.setPortState u p v) := by
  unfold State.setPortState
  repeat' first
    | with_reducible assumption
    | with_reducible first | apply State.fset_keeps
    | split

theorem State.applyMask_keeps {s u : State} (h : Keeps s u) (p : Nat) (tx : Bool) : Keeps s (State.applyMask u p tx) := by
  unfold State.applyMask
  repeat' first
    | with_reducible assumption
    | (intro zz; refine Keeps.cut (s := s) (t := zz) ?_ (fun hz => ?_); unfold zz)
    | (intro zz; subst zz)
    | lift_lets -underBinder
    | with_reducible first | apply State.setPort_keeps | apply State.fset_keeps | apply Keeps.ite
    | split

theorem execMaskCommit_keeps {s u : State} (h : Keeps s u) (port : Nat) : ∀ t, execMaskCommit port u = .next t → Keeps s t := by
  intro t ht
  unfold execMaskCommit at ht
  obtain rfl := Host.Outcome.next.inj ht
  repeat' first
    | with_reducible assumption
    | (intro zz; refine Keeps.cut (s := s) (t := zz) ?_ (fun hz => ?_); unfold zz)
    | (intro zz; subst zz)
    | lift_lets -underBinder
    | with_reducible first | apply State.bump_keeps | apply State.fset_keeps | apply Keeps.ite
    | split

theorem execMaskLatch_keeps {s u : State} (h : Keeps s u) (port : Nat) : ∀ t, execMaskLatch port u = .next t → Keeps s t := by
  intro t ht
  unfold execMaskLatch at ht
  obtain rfl := Host.Outcome.next.inj ht
  repeat' first
    | with_reducible assumption
    | (intro zz; refine Keeps.cut (s := s) (t := zz) ?_ (fun hz => ?_); unfold zz)
    | (intro zz; subst zz)
    | lift_lets -underBinder
    | with_reducible first | apply State.setPort_keeps | apply State.fset_keeps | apply Keeps.ite
    | split

theorem State.stopPort_keeps {s u : State} (h : Keeps s u) (p : Nat) : Keeps s (State.stopPort u p) := by
  unfold State.stopPort
  repeat' first
    | with_reducible assumption
    | (intro zz; refine Keeps.cut (s := s) (t := zz) ?_ (fun hz => ?_); unfold zz)
    | (intro zz; subst zz)
    | lift_lets -underBinder
    | with_reducible first | apply State.setPortState_keeps | apply State.setPort_keeps | apply State.fset_keeps
    | split

theorem State.writeRun_keeps {s u : State} (h : Keeps s u) (p : Nat) (run : Bool) : Keeps s (State.writeRun u p run) := by
  unfold State.writeRun
  repeat' first
    | with_reducible assumption
    | (intro zz; refine Keeps.cut (s := s) (t := zz) ?_ (fun hz => ?_); unfold zz)
    | (intro zz; subst zz)
    | lift_lets -underBinder
    | with_reducible first | apply State.stopPort_keeps | apply State.setPortState_keeps | apply State.fset_keeps | apply Keeps.ite
    | split

theorem execPortRun_keeps {s u : State} (h : Keeps s u) (port : Nat) : ∀ t, execPortRun port u = .next t → Keeps s t := by
  intro t ht
  unfold execPortRun at ht
  obtain rfl := Host.Outcome.next.inj ht
  repeat' first
    | with_reducible assumption
    | with_reducible first | apply State.writeRun_keeps
    | split

theorem execPortStop_keeps {s u : State} (h : Keeps s u) (port : Nat) : ∀ t, execPortStop port u = .next t → Keeps s t := by
  intro t ht
  unfold execPortStop at ht
  obtain rfl := Host.Outcome.next.inj ht
  repeat' first
    | with_reducible assumption
    | with_reducible first | apply State.writeRun_keeps
    | split

theorem execPortRunning_keeps {s u : State} (h : Keeps s u) (port : Nat) : ∀ t, execPortRunning port u = .next t → Keeps s t := by
  intro t ht
  unfold execPortRunning at ht
  obtain rfl := Host.Outcome.next.inj ht
  repeat' first
    | with_reducible assumption
    | (intro zz; refine Keeps.cut (s := s) (t := zz) ?_ (fun hz => ?_); unfold zz)
    | (intro zz; subst zz)
    | lift_lets -underBinder
    | with_reducible first | apply State.setPortState_keeps | apply State.setPort_keeps | apply State.fset_keeps | apply Keeps.ite
    | split

theorem execPortStopped_keeps {s u : State} (h : Keeps s u) (port : Nat) : ∀ t, execPortStopped port u = .next t → Keeps s t := by
  intro t ht
  unfold execPortStopped at ht
  obtain rfl := Host.Outcome.next.inj ht
  repeat' first
    | with_reducible assumption
    | (intro zz; refine Keeps.cut (s := s) (t := zz) ?_ (fun hz => ?_); unfold zz)
    | (intro zz; subst zz)
    | lift_lets -underBinder
    | with_reducible first | apply State.setPortState_keeps | apply State.setPort_keeps | apply Keeps.ite
    | split

theorem State.losePortClock_keeps {s u : State} (h : Keeps s u) (p : Nat) : Keeps s (State.losePortClock u p) := by
  unfold State.losePortClock
  repeat' first
    | with_reducible assumption
    | (intro zz; refine Keeps.cut (s := s) (t := zz) ?_ (fun hz => ?_); unfold zz)
    | (intro zz; subst zz)
    | lift_lets -underBinder
    | with_reducible first | apply State.setPortState_keeps | apply State.setPort_keeps | apply State.fset_keeps | apply State.setReg_keeps | apply Keeps.ite
    | split

theorem execPortClockLost_keeps {s u : State} (h : Keeps s u) (port : Nat) : ∀ t, execPortClockLost port u = .next t → Keeps s t := by
  intro t ht
  unfold execPortClockLost at ht
  obtain rfl := Host.Outcome.next.inj ht
  repeat' first
    | with_reducible assumption
    | with_reducible first | apply State.losePortClock_keeps
    | split

theorem execAsrcLock_keeps {s u : State} (h : Keeps s u) (port : Nat) (ratio : Nat) : ∀ t, execAsrcLock port ratio u = .next t → Keeps s t := by
  intro t ht
  unfold execAsrcLock at ht
  obtain rfl := Host.Outcome.next.inj ht
  repeat' first
    | with_reducible assumption
    | with_reducible first | apply State.fset_keeps | apply State.setReg_keeps | apply Keeps.ite
    | split

theorem execSlotZcTimeout_keeps {s u : State} (h : Keeps s u) (port : Nat) (tx : Bool) (slot : Nat) : ∀ t, execSlotZcTimeout port tx slot u = .next t → Keeps s t := by
  intro t ht
  unfold execSlotZcTimeout at ht
  obtain rfl := Host.Outcome.next.inj ht
  repeat' first
    | with_reducible assumption
    | (intro zz; refine Keeps.cut (s := s) (t := zz) ?_ (fun hz => ?_); unfold zz)
    | (intro zz; subst zz)
    | lift_lets -underBinder
    | with_reducible first | apply State.setPort_keeps | apply Keeps.ite
    | split

theorem execPortCfgWrite_keeps {s u : State} (h : Keeps s u) (port : Nat) (fofs : Bool) (value : W32) : ∀ t, execPortCfgWrite port fofs value u = .next t → Keeps s t := by
  intro t ht
  unfold execPortCfgWrite at ht
  obtain rfl := Host.Outcome.next.inj ht
  repeat' first
    | with_reducible assumption
    | (intro zz; refine Keeps.cut (s := s) (t := zz) ?_ (fun hz => ?_); unfold zz)
    | (intro zz; subst zz)
    | lift_lets -underBinder
    | with_reducible first | apply State.writePlain_keeps | apply State.fset_keeps | apply Keeps.ite
    | split

theorem execPortRefill_keeps {s u : State} (h : Keeps s u) (port : Nat) : ∀ t, execPortRefill port u = .next t → Keeps s t := by
  intro t ht
  unfold execPortRefill at ht
  obtain rfl := Host.Outcome.next.inj ht
  repeat' first
    | with_reducible assumption
    | (intro zz; refine Keeps.cut (s := s) (t := zz) ?_ (fun hz => ?_); unfold zz)
    | (intro zz; subst zz)
    | lift_lets -underBinder
    | with_reducible first | apply State.setPort_keeps | apply Keeps.ite
    | split

theorem State.freeFrame_keeps {s u : State} (h : Keeps s u) (n : Nat) : Keeps s (State.freeFrame u n).2 := by
  unfold State.freeFrame
  repeat' first
    | with_reducible assumption
    | (intro zz; refine Keeps.cut (s := s) (t := zz) ?_ (fun hz => ?_); unfold zz)
    | (intro zz; refine Keeps.cut (s := s) (t := zz.2) ?_ (fun hz => ?_); unfold zz; rotate_left; (try clear_value zz); rotate_right)
    | (intro zz; refine Keeps.cut (s := s) (t := zz.1) ?_ (fun hz => ?_); unfold zz; rotate_left; (try clear_value zz); rotate_right)
    | (intro zz; refine Keeps.cut (s := s) (t := zz.2.2) ?_ (fun hz => ?_); unfold zz; rotate_left; (try clear_value zz); rotate_right)
    | (intro zz; subst zz)
    | lift_lets -underBinder
    | with_reducible first | apply State.drawWord_keeps | apply Keeps.ite_snd | apply Keeps.ite_fst | refine foldl_keeps_snd _ _ _ ?_ (fun _ _ _ => ?_) | refine foldl_keeps_fst _ _ _ ?_ (fun _ _ _ => ?_) | refine foldl_keeps _ _ _ ?_ (fun _ _ _ => ?_)
    | split

theorem State.readPort_keeps {s u : State} (h : Keeps s u) (p : Nat) : Keeps s (State.readPort u p) := by
  unfold State.readPort
  repeat' first
    | with_reducible assumption
    | (intro zz; refine Keeps.cut (s := s) (t := zz) ?_ (fun hz => ?_); unfold zz)
    | (intro zz; refine Keeps.cut (s := s) (t := zz.2) ?_ (fun hz => ?_); unfold zz; rotate_left; (try clear_value zz); rotate_right)
    | (intro zz; refine Keeps.cut (s := s) (t := zz.1) ?_ (fun hz => ?_); unfold zz; rotate_left; (try clear_value zz); rotate_right)
    | (intro zz; refine Keeps.cut (s := s) (t := zz.2.2) ?_ (fun hz => ?_); unfold zz; rotate_left; (try clear_value zz); rotate_right)
    | (intro zz; subst zz)
    | lift_lets -underBinder
    | with_reducible first | apply State.setPort_keeps | apply State.bump_keeps | apply Keeps.ite | apply Keeps.ite_snd | apply Keeps.ite_fst
    | split

theorem State.pushPort_keeps {s u : State} (h : Keeps s u) (p : Nat) (xs : List Int) : Keeps s (State.pushPort u p xs) := by
  unfold State.pushPort
  repeat' first
    | with_reducible assumption
    | (intro zz; refine Keeps.cut (s := s) (t := zz) ?_ (fun hz => ?_); unfold zz)
    | (intro zz; refine Keeps.cut (s := s) (t := zz.2) ?_ (fun hz => ?_); unfold zz; rotate_left; (try clear_value zz); rotate_right)
    | (intro zz; refine Keeps.cut (s := s) (t := zz.1) ?_ (fun hz => ?_); unfold zz; rotate_left; (try clear_value zz); rotate_right)
    | (intro zz; refine Keeps.cut (s := s) (t := zz.2.2) ?_ (fun hz => ?_); unfold zz; rotate_left; (try clear_value zz); rotate_right)
    | (intro zz; subst zz)
    | lift_lets -underBinder
    | with_reducible first | apply State.readPort_keeps | apply State.setPort_keeps | apply State.bump_keeps | apply Keeps.ite | apply Keeps.ite_snd | apply Keeps.ite_fst
    | split

theorem execPortFrameReceived_keeps {s u : State} (h : Keeps s u) (port : Nat) (levels : List Bool) : ∀ t, execPortFrameReceived port levels u = .next t → Keeps s t := by
  intro t ht
  unfold execPortFrameReceived at ht
  obtain rfl := Host.Outcome.next.inj ht
  repeat' first
    | with_reducible assumption
    | (intro zz; refine Keeps.cut (s := s) (t := zz) ?_ (fun hz => ?_); unfold zz)
    | (intro zz; refine Keeps.cut (s := s) (t := zz.2) ?_ (fun hz => ?_); unfold zz; rotate_left; (try clear_value zz); rotate_right)
    | (intro zz; refine Keeps.cut (s := s) (t := zz.1) ?_ (fun hz => ?_); unfold zz; rotate_left; (try clear_value zz); rotate_right)
    | (intro zz; refine Keeps.cut (s := s) (t := zz.2.2) ?_ (fun hz => ?_); unfold zz; rotate_left; (try clear_value zz); rotate_right)
    | (intro zz; subst zz)
    | lift_lets -underBinder
    | with_reducible first | apply State.pushPort_keeps | apply State.losePortClock_keeps | apply State.applyMask_keeps | apply State.setPort_keeps | apply State.seenBits_keeps | apply Keeps.ite | apply Keeps.ite_snd | apply Keeps.ite_fst
    | split

theorem State.readAsrc_keeps {s u : State} (h : Keeps s u) (p : Nat) : Keeps s (State.readAsrc u p).2 := by
  unfold State.readAsrc
  repeat' first
    | with_reducible assumption
    | (intro zz; refine Keeps.cut (s := s) (t := zz) ?_ (fun hz => ?_); unfold zz)
    | (intro zz; refine Keeps.cut (s := s) (t := zz.2) ?_ (fun hz => ?_); unfold zz; rotate_left; (try clear_value zz); rotate_right)
    | (intro zz; refine Keeps.cut (s := s) (t := zz.1) ?_ (fun hz => ?_); unfold zz; rotate_left; (try clear_value zz); rotate_right)
    | (intro zz; refine Keeps.cut (s := s) (t := zz.2.2) ?_ (fun hz => ?_); unfold zz; rotate_left; (try clear_value zz); rotate_right)
    | (intro zz; subst zz)
    | lift_lets -underBinder
    | with_reducible first | apply State.freeFrame_keeps | apply State.setPort_keeps | apply State.bump_keeps | apply Keeps.ite | apply Keeps.ite_snd | apply Keeps.ite_fst
    | split

theorem State.readMaster_keeps {s u : State} (h : Keeps s u) (p : Nat) : Keeps s (State.readMaster u p).2 := by
  unfold State.readMaster
  repeat' first
    | with_reducible assumption
    | (intro zz; refine Keeps.cut (s := s) (t := zz) ?_ (fun hz => ?_); unfold zz)
    | (intro zz; refine Keeps.cut (s := s) (t := zz.2) ?_ (fun hz => ?_); unfold zz; rotate_left; (try clear_value zz); rotate_right)
    | (intro zz; refine Keeps.cut (s := s) (t := zz.1) ?_ (fun hz => ?_); unfold zz; rotate_left; (try clear_value zz); rotate_right)
    | (intro zz; refine Keeps.cut (s := s) (t := zz.2.2) ?_ (fun hz => ?_); unfold zz; rotate_left; (try clear_value zz); rotate_right)
    | (intro zz; subst zz)
    | lift_lets -underBinder
    | with_reducible first | apply State.setPort_keeps | apply Keeps.ite_snd | apply Keeps.ite_fst
    | split

theorem State.gatherPort_keeps {s u : State} (h : Keeps s u) (p : Nat) : Keeps s (State.gatherPort u p) := by
  unfold State.gatherPort
  repeat' first
    | with_reducible assumption
    | (intro zz; refine Keeps.cut (s := s) (t := zz) ?_ (fun hz => ?_); unfold zz)
    | (intro zz; refine Keeps.cut (s := s) (t := zz.2) ?_ (fun hz => ?_); unfold zz; rotate_left; (try clear_value zz); rotate_right)
    | (intro zz; refine Keeps.cut (s := s) (t := zz.1) ?_ (fun hz => ?_); unfold zz; rotate_left; (try clear_value zz); rotate_right)
    | (intro zz; refine Keeps.cut (s := s) (t := zz.2.2) ?_ (fun hz => ?_); unfold zz; rotate_left; (try clear_value zz); rotate_right)
    | (intro zz; subst zz)
    | lift_lets -underBinder
    | with_reducible first | apply State.readMaster_keeps | apply State.readAsrc_keeps | apply State.readPort_keeps | apply State.setPort_keeps | apply Keeps.ite | apply Keeps.ite_snd | apply Keeps.ite_fst | refine forEach_keeps ?_ _ _ (fun _ _ _ => ?_) | refine foldl_keeps_snd _ _ _ ?_ (fun _ _ _ => ?_) | refine foldl_keeps_fst _ _ _ ?_ (fun _ _ _ => ?_) | refine foldl_keeps _ _ _ ?_ (fun _ _ _ => ?_)
    | split

theorem State.pushTx_keeps {s u : State} (h : Keeps s u) (p : Nat) (xs : List Int) : Keeps s (State.pushTx u p xs) := by
  unfold State.pushTx
  repeat' first
    | with_reducible assumption
    | (intro zz; refine Keeps.cut (s := s) (t := zz) ?_ (fun hz => ?_); unfold zz)
    | (intro zz; refine Keeps.cut (s := s) (t := zz.2) ?_ (fun hz => ?_); unfold zz; rotate_left; (try clear_value zz); rotate_right)
    | (intro zz; refine Keeps.cut (s := s) (t := zz.1) ?_ (fun hz => ?_); unfold zz; rotate_left; (try clear_value zz); rotate_right)
    | (intro zz; refine Keeps.cut (s := s) (t := zz.2.2) ?_ (fun hz => ?_); unfold zz; rotate_left; (try clear_value zz); rotate_right)
    | (intro zz; subst zz)
    | lift_lets -underBinder
    | with_reducible first | apply State.setPort_keeps | apply State.bump_keeps | apply Keeps.ite | apply Keeps.ite_snd | apply Keeps.ite_fst
    | split

theorem State.deliverFrame_keeps {s u : State} (h : Keeps s u) (p : Nat) (xs : List Int) : Keeps s (State.deliverFrame u p xs) := by
  unfold State.deliverFrame
  repeat' first
    | with_reducible assumption
    | (intro zz; refine Keeps.cut (s := s) (t := zz) ?_ (fun hz => ?_); unfold zz)
    | (intro zz; refine Keeps.cut (s := s) (t := zz.2) ?_ (fun hz => ?_); unfold zz; rotate_left; (try clear_value zz); rotate_right)
    | (intro zz; refine Keeps.cut (s := s) (t := zz.1) ?_ (fun hz => ?_); unfold zz; rotate_left; (try clear_value zz); rotate_right)
    | (intro zz; refine Keeps.cut (s := s) (t := zz.2.2) ?_ (fun hz => ?_); unfold zz; rotate_left; (try clear_value zz); rotate_right)
    | (intro zz; subst zz)
    | lift_lets -underBinder
    | with_reducible first | apply State.pushTx_keeps | apply State.freeFrame_keeps | apply State.setPort_keeps | apply Keeps.ite | apply Keeps.ite_snd | apply Keeps.ite_fst | refine forEach_keeps ?_ _ _ (fun _ _ _ => ?_)
    | split

theorem State.clearPorts_keeps {s u : State} (h : Keeps s u)  : Keeps s (State.clearPorts u) := by
  unfold State.clearPorts
  repeat' first
    | with_reducible assumption
    | (intro zz; refine Keeps.cut (s := s) (t := zz) ?_ (fun hz => ?_); unfold zz)
    | (intro zz; refine Keeps.cut (s := s) (t := zz.2) ?_ (fun hz => ?_); unfold zz; rotate_left; (try clear_value zz); rotate_right)
    | (intro zz; refine Keeps.cut (s := s) (t := zz.1) ?_ (fun hz => ?_); unfold zz; rotate_left; (try clear_value zz); rotate_right)
    | (intro zz; refine Keeps.cut (s := s) (t := zz.2.2) ?_ (fun hz => ?_); unfold zz; rotate_left; (try clear_value zz); rotate_right)
    | (intro zz; subst zz)
    | lift_lets -underBinder
    | with_reducible first | apply State.pushTx_keeps | apply State.setPort_keeps | apply Keeps.ite | apply Keeps.ite_fst | refine forEach_keeps ?_ _ _ (fun _ _ _ => ?_)
    | split

theorem State.feedTx_keeps {s u : State} (h : Keeps s u) (p : Nat) : Keeps s (State.feedTx u p) := by
  unfold State.feedTx
  repeat' first
    | with_reducible assumption
    | (intro zz; refine Keeps.cut (s := s) (t := zz) ?_ (fun hz => ?_); unfold zz)
    | (intro zz; subst zz)
    | lift_lets -underBinder
    | with_reducible first | apply State.pushTx_keeps | apply State.setPort_keeps | apply Keeps.ite
    | split

theorem execPortFrameTransmit_keeps {s u : State} (h : Keeps s u) (port : Nat) : ∀ t, execPortFrameTransmit port u = .next t → Keeps s t := by
  intro t ht
  unfold execPortFrameTransmit at ht
  obtain rfl := Host.Outcome.next.inj ht
  repeat' first
    | with_reducible assumption
    | (intro zz; refine Keeps.cut (s := s) (t := zz) ?_ (fun hz => ?_); unfold zz)
    | (intro zz; refine Keeps.cut (s := s) (t := zz.2) ?_ (fun hz => ?_); unfold zz; rotate_left; (try clear_value zz); rotate_right)
    | (intro zz; refine Keeps.cut (s := s) (t := zz.1) ?_ (fun hz => ?_); unfold zz; rotate_left; (try clear_value zz); rotate_right)
    | (intro zz; refine Keeps.cut (s := s) (t := zz.2.2) ?_ (fun hz => ?_); unfold zz; rotate_left; (try clear_value zz); rotate_right)
    | (intro zz; subst zz)
    | lift_lets -underBinder
    | with_reducible first | apply State.feedTx_keeps | apply State.applyMask_keeps | apply State.setPort_keeps | apply State.bump_keeps | apply Keeps.ite | apply Keeps.ite_snd | apply Keeps.ite_fst
    | split

theorem State.setMic_keeps {s u : State} (h : Keeps s u) (m : Nat) (x : MicSt) : Keeps s (State.setMic u m x) := by
  unfold State.setMic
  repeat' first
    | with_reducible assumption
    | (intro zz; refine Keeps.cut (s := s) (t := zz) ?_ (fun hz => ?_); unfold zz)
    | (intro zz; subst zz)
    | lift_lets -underBinder
    | split
    | ((fail_if_success (with_reducible refine Keeps.set_jtag ?_ _)); (with_reducible refine Keeps.set_mics ?_ _ ?_); rotate_left; first | exact fun hc => Tbl.wf_const _ _ _ _ (State.canonical_mics hc) | exact fun _ => Tbl.wf_nil _ | exact fun hc => Tbl.wf_mapVals _ _ _ (State.canonical_mics hc))

theorem execPdmSettleEnd_keeps {s u : State} (h : Keeps s u) (mic : Nat) : ∀ t, execPdmSettleEnd mic u = .next t → Keeps s t := by
  intro t ht
  unfold execPdmSettleEnd at ht
  obtain rfl := Host.Outcome.next.inj ht
  repeat' first
    | with_reducible assumption
    | with_reducible first | apply State.setMic_keeps | apply Keeps.ite
    | split

theorem execPdmMaskWrite_keeps {s u : State} (h : Keeps s u) (value : W32) : ∀ t, execPdmMaskWrite value u = .next t → Keeps s t := by
  intro t ht
  unfold execPdmMaskWrite at ht
  obtain rfl := Host.Outcome.next.inj ht
  repeat' first
    | with_reducible assumption
    | (intro zz; refine Keeps.cut (s := s) (t := zz) ?_ (fun hz => ?_); unfold zz)
    | (intro zz; subst zz)
    | lift_lets -underBinder
    | with_reducible first | apply State.setMic_keeps | apply State.settle_keeps | apply State.writePlain_keeps | apply Keeps.ite | refine forEach_keeps ?_ _ _ (fun _ _ _ => ?_)
    | split

theorem execPdmCtrlWrite_keeps {s u : State} (h : Keeps s u) (value : W32) : ∀ t, execPdmCtrlWrite value u = .next t → Keeps s t := by
  intro t ht
  unfold execPdmCtrlWrite at ht
  obtain rfl := Host.Outcome.next.inj ht
  repeat' first
    | with_reducible assumption
    | with_reducible first | apply State.record_keeps | apply State.writePlain_keeps | apply Keeps.ite
    | split

theorem State.pdmTick_keeps {s u : State} (h : Keeps s u) (t' : Nat) (pdm : List (Nat × Nat)) : Keeps s (State.pdmTick u t' pdm) := by
  unfold State.pdmTick
  repeat' first
    | with_reducible assumption
    | (intro zz; refine Keeps.cut (s := s) (t := zz) ?_ (fun hz => ?_); unfold zz)
    | (intro zz; refine Keeps.cut (s := s) (t := zz.2) ?_ (fun hz => ?_); unfold zz; rotate_left; (try clear_value zz); rotate_right)
    | (intro zz; refine Keeps.cut (s := s) (t := zz.1) ?_ (fun hz => ?_); unfold zz; rotate_left; (try clear_value zz); rotate_right)
    | (intro zz; refine Keeps.cut (s := s) (t := zz.2.2) ?_ (fun hz => ?_); unfold zz; rotate_left; (try clear_value zz); rotate_right)
    | (intro zz; subst zz)
    | lift_lets -underBinder
    | with_reducible first | apply State.setMic_keeps | apply State.fset_keeps | apply Keeps.ite | apply Keeps.ite_snd | apply Keeps.ite_fst | refine forEach_keeps ?_ _ _ (fun _ _ _ => ?_)
    | split

end Sys2Proof.Machine
end

