-- ==== Sys2Proof/Laws/Keeps/Clock.lean ====
section
/-! SUPPORT. What the operations of Machine/Clock.lean keep. -/

namespace Sys2Proof.Machine

open Sys2Proof.Arith

set_option linter.unreachableTactic false
set_option linter.unusedTactic false
set_option linter.unusedVariables false
set_option linter.unusedSimpArgs false

theorem State.setRefIn_keeps {s u : State} (h : Keeps s u) (i : Nat) (x : RefIn) : Keeps s (State.setRefIn u i x) := by
  unfold State.setRefIn
  repeat' first
    | with_reducible assumption
    | (intro zz; refine Keeps.cut (s := s) (t := zz) ?_ (fun hz => ?_); unfold zz)
    | (intro zz; subst zz)
    | lift_lets -underBinder
    | split
    | ((fail_if_success (with_reducible refine Keeps.set_jtag ?_ _)); (with_reducible refine Keeps.set_clk ?_ _ ?_); rotate_left; first | (intro hc; have q := State.canonical_clk hc; simp only [ClkSt.canonical, Bool.and_eq_true] at q ⊢; simp only [q, Tbl.wf_const, Tbl.wf_nil, List.all_nil, and_self]) | exact fun _ => by decide)

theorem State.refreshPpm_keeps {s u : State} (h : Keeps s u)  : Keeps s (State.refreshPpm u) := by
  unfold State.refreshPpm
  repeat' first
    | with_reducible assumption
    | with_reducible first | apply State.fset_keeps | refine forEach_keeps ?_ _ _ (fun _ _ _ => ?_)
    | split

theorem State.setWord_keeps {s u : State} (h : Keeps s u) (ask : Int) : Keeps s (State.setWord u ask) := by
  unfold State.setWord
  repeat' first
    | with_reducible assumption
    | (intro zz; refine Keeps.cut (s := s) (t := zz) ?_ (fun hz => ?_); unfold zz)
    | (intro zz; subst zz)
    | lift_lets -underBinder
    | with_reducible first | apply State.refreshPpm_keeps | apply State.fset_keeps | apply State.setReg_keeps
    | split
    | ((fail_if_success (with_reducible refine Keeps.set_jtag ?_ _)); (with_reducible refine Keeps.set_clk ?_ _ ?_); rotate_left; first | (intro hc; have q := State.canonical_clk hc; simp only [ClkSt.canonical, Bool.and_eq_true] at q ⊢; simp only [q, Tbl.wf_const, Tbl.wf_nil, List.all_nil, and_self]) | exact fun _ => by decide)

theorem State.deselect_keeps {s u : State} (h : Keeps s u)  : Keeps s (State.deselect u) := by
  unfold State.deselect
  repeat' first
    | with_reducible assumption
    | (intro zz; refine Keeps.cut (s := s) (t := zz) ?_ (fun hz => ?_); unfold zz)
    | (intro zz; subst zz)
    | lift_lets -underBinder
    | with_reducible first | apply State.fset_keeps | apply State.setReg_keeps
    | split
    | ((fail_if_success (with_reducible refine Keeps.set_jtag ?_ _)); (with_reducible refine Keeps.set_clk ?_ _ ?_); rotate_left; first | (intro hc; have q := State.canonical_clk hc; simp only [ClkSt.canonical, Bool.and_eq_true] at q ⊢; simp only [q, Tbl.wf_const, Tbl.wf_nil, List.all_nil, and_self]) | exact fun _ => by decide)

theorem State.enterFree_keeps {s u : State} (h : Keeps s u)  : Keeps s (State.enterFree u) := by
  unfold State.enterFree
  repeat' first
    | with_reducible assumption
    | with_reducible first | apply State.deselect_keeps | apply State.setWord_keeps | apply State.fset_keeps
    | split

theorem State.enterHoldover_keeps {s u : State} (h : Keeps s u)  : Keeps s (State.enterHoldover u) := by
  unfold State.enterHoldover
  repeat' first
    | with_reducible assumption
    | (intro zz; refine Keeps.cut (s := s) (t := zz) ?_ (fun hz => ?_); unfold zz)
    | (intro zz; subst zz)
    | lift_lets -underBinder
    | with_reducible first | apply State.enterFree_keeps | apply State.deselect_keeps | apply State.setWord_keeps | apply State.fset_keeps | apply State.setReg_keeps | apply Keeps.ite
    | split

theorem State.choose_keeps {s u : State} (h : Keeps s u) (l : List Nat) : Keeps s (State.choose u l).2 := by
  unfold State.choose
  repeat' first
    | with_reducible assumption
    | (intro zz; refine Keeps.cut (s := s) (t := zz) ?_ (fun hz => ?_); unfold zz)
    | (intro zz; refine Keeps.cut (s := s) (t := zz.2) ?_ (fun hz => ?_); unfold zz; rotate_left; (try clear_value zz); rotate_right)
    | (intro zz; refine Keeps.cut (s := s) (t := zz.1) ?_ (fun hz => ?_); unfold zz; rotate_left; (try clear_value zz); rotate_right)
    | (intro zz; refine Keeps.cut (s := s) (t := zz.2.2) ?_ (fun hz => ?_); unfold zz; rotate_left; (try clear_value zz); rotate_right)
    | (intro zz; subst zz)
    | lift_lets -underBinder
    | with_reducible first | apply State.record_keeps | apply State.fset_keeps | apply Keeps.ite | apply Keeps.ite_snd | apply Keeps.ite_fst | refine forEach_keeps ?_ _ _ (fun _ _ _ => ?_)
    | split

theorem State.selectInput_keeps {s u : State} (h : Keeps s u) (i : Nat) : Keeps s (State.selectInput u i) := by
  unfold State.selectInput
  repeat' first
    | with_reducible assumption
    | (intro zz; refine Keeps.cut (s := s) (t := zz) ?_ (fun hz => ?_); unfold zz)
    | (intro zz; subst zz)
    | lift_lets -underBinder
    | with_reducible first | apply State.deselect_keeps | apply State.record_keeps | apply State.bump_keeps | apply State.fset_keeps | apply Keeps.ite
    | split

theorem State.settleDisagree_keeps {s u : State} (h : Keeps s u)  : Keeps s (State.settleDisagree u) := by
  unfold State.settleDisagree
  repeat' first
    | with_reducible assumption
    | with_reducible first | apply State.fset_keeps | apply Keeps.ite
    | split

theorem State.evaluate_keeps {s u : State} (h : Keeps s u)  : Keeps s (State.evaluate u) := by
  unfold State.evaluate
  repeat' first
    | with_reducible assumption
    | (intro zz; refine Keeps.cut (s := s) (t := zz) ?_ (fun hz => ?_); unfold zz)
    | (intro zz; refine Keeps.cut (s := s) (t := zz.2) ?_ (fun hz => ?_); unfold zz; rotate_left; (try clear_value zz); rotate_right)
    | (intro zz; refine Keeps.cut (s := s) (t := zz.1) ?_ (fun hz => ?_); unfold zz; rotate_left; (try clear_value zz); rotate_right)
    | (intro zz; refine Keeps.cut (s := s) (t := zz.2.2) ?_ (fun hz => ?_); unfold zz; rotate_left; (try clear_value zz); rotate_right)
    | (intro zz; subst zz)
    | lift_lets -underBinder
    | with_reducible first | apply State.settleDisagree_keeps | apply State.selectInput_keeps | apply State.choose_keeps | apply State.enterHoldover_keeps | apply Keeps.ite | apply Keeps.ite_snd | apply Keeps.ite_fst | refine foldl_keeps_snd _ _ _ ?_ (fun _ _ _ => ?_) | refine foldl_keeps_fst _ _ _ ?_ (fun _ _ _ => ?_) | refine foldl_keeps _ _ _ ?_ (fun _ _ _ => ?_)
    | split

theorem State.settleInput_keeps {s u : State} (h : Keeps s u) (i : Nat) : Keeps s (State.settleInput u i) := by
  unfold State.settleInput
  repeat' first
    | with_reducible assumption
    | (intro zz; refine Keeps.cut (s := s) (t := zz) ?_ (fun hz => ?_); unfold zz)
    | (intro zz; subst zz)
    | lift_lets -underBinder
    | with_reducible first | apply State.evaluate_keeps | apply State.setRefIn_keeps | apply State.record_keeps | apply State.fset_keeps | apply Keeps.ite
    | split

theorem State.recheckSelection_keeps {s u : State} (h : Keeps s u)  : Keeps s (State.recheckSelection u) := by
  unfold State.recheckSelection
  repeat' first
    | with_reducible assumption
    | with_reducible first | apply State.evaluate_keeps | apply Keeps.ite
    | split

theorem State.readInput_keeps {s u : State} (h : Keeps s u) (i : Nat) (m : Int) : Keeps s (State.readInput u i m) := by
  unfold State.readInput
  repeat' first
    | with_reducible assumption
    | (intro zz; refine Keeps.cut (s := s) (t := zz) ?_ (fun hz => ?_); unfold zz)
    | (intro zz; refine Keeps.cut (s := s) (t := zz.2) ?_ (fun hz => ?_); unfold zz; rotate_left; (try clear_value zz); rotate_right)
    | (intro zz; refine Keeps.cut (s := s) (t := zz.1) ?_ (fun hz => ?_); unfold zz; rotate_left; (try clear_value zz); rotate_right)
    | (intro zz; refine Keeps.cut (s := s) (t := zz.2.2) ?_ (fun hz => ?_); unfold zz; rotate_left; (try clear_value zz); rotate_right)
    | (intro zz; subst zz)
    | lift_lets -underBinder
    | with_reducible first | apply State.setRefIn_keeps | apply State.record_keeps | apply State.fset_keeps | apply State.setReg_keeps | apply Keeps.ite | apply Keeps.ite_snd | apply Keeps.ite_fst
    | split

theorem State.closeSecond_keeps {s u : State} (h : Keeps s u)  : Keeps s (State.closeSecond u) := by
  unfold State.closeSecond
  repeat' first
    | with_reducible assumption
    | (intro zz; refine Keeps.cut (s := s) (t := zz) ?_ (fun hz => ?_); unfold zz)
    | (intro zz; subst zz)
    | lift_lets -underBinder
    | with_reducible first | apply Keeps.ite
    | split
    | ((fail_if_success (with_reducible refine Keeps.set_jtag ?_ _)); (with_reducible refine Keeps.set_clk ?_ _ ?_); rotate_left; first | (intro hc; have q := State.canonical_clk hc; simp only [ClkSt.canonical, Bool.and_eq_true] at q ⊢; simp only [q, Tbl.wf_const, Tbl.wf_nil, List.all_nil, and_self]) | exact fun _ => by decide)

theorem State.offsetOf_keeps {s u : State} (h : Keeps s u) (readings : List (Nat × Int)) (i : Nat) : Keeps s (State.offsetOf u readings i).2 := by
  unfold State.offsetOf
  repeat' first
    | with_reducible assumption
    | (intro zz; refine Keeps.cut (s := s) (t := zz) ?_ (fun hz => ?_); unfold zz)
    | (intro zz; refine Keeps.cut (s := s) (t := zz.2) ?_ (fun hz => ?_); unfold zz; rotate_left; (try clear_value zz); rotate_right)
    | (intro zz; refine Keeps.cut (s := s) (t := zz.1) ?_ (fun hz => ?_); unfold zz; rotate_left; (try clear_value zz); rotate_right)
    | (intro zz; refine Keeps.cut (s := s) (t := zz.2.2) ?_ (fun hz => ?_); unfold zz; rotate_left; (try clear_value zz); rotate_right)
    | (intro zz; subst zz)
    | lift_lets -underBinder
    | with_reducible first | apply State.drawWord_keeps | apply Keeps.ite | apply Keeps.ite_snd | apply Keeps.ite_fst
    | split

theorem execFrequencyReading_keeps {s u : State} (h : Keeps s u) (readings : List (Nat × Int)) : ∀ t, execFrequencyReading readings u = .next t → Keeps s t := by
  intro t ht
  unfold execFrequencyReading at ht
  obtain rfl := Host.Outcome.next.inj ht
  repeat' first
    | with_reducible assumption
    | (intro zz; refine Keeps.cut (s := s) (t := zz) ?_ (fun hz => ?_); unfold zz)
    | (intro zz; refine Keeps.cut (s := s) (t := zz.2) ?_ (fun hz => ?_); unfold zz; rotate_left; (try clear_value zz); rotate_right)
    | (intro zz; refine Keeps.cut (s := s) (t := zz.1) ?_ (fun hz => ?_); unfold zz; rotate_left; (try clear_value zz); rotate_right)
    | (intro zz; refine Keeps.cut (s := s) (t := zz.2.2) ?_ (fun hz => ?_); unfold zz; rotate_left; (try clear_value zz); rotate_right)
    | (intro zz; subst zz)
    | lift_lets -underBinder
    | with_reducible first | apply State.offsetOf_keeps | apply State.closeSecond_keeps | apply State.readInput_keeps | apply State.evaluate_keeps | apply State.settleDisagree_keeps | apply State.fset_keeps | apply Keeps.ite | apply Keeps.ite_snd | apply Keeps.ite_fst | refine forEach_keeps ?_ _ _ (fun _ _ _ => ?_)
    | split
    | ((fail_if_success (with_reducible refine Keeps.set_jtag ?_ _)); (with_reducible refine Keeps.set_clk ?_ _ ?_); rotate_left; first | (intro hc; have q := State.canonical_clk hc; simp only [ClkSt.canonical, Bool.and_eq_true] at q ⊢; simp only [q, Tbl.wf_const, Tbl.wf_nil, List.all_nil, and_self]) | exact fun _ => by decide)
    | ((fail_if_success (with_reducible refine Keeps.set_jtag ?_ _)); (with_reducible refine Keeps.set_tim ?_ _ ?_); rotate_left; first | (intro hc; have q := State.canonical_tim hc; simp only [TimSt.canonical, Bool.and_eq_true] at q ⊢; simp only [q, Tbl.wf_const, Tbl.wf_nil, List.all_nil, and_self]) | exact fun _ => by decide)
    | ((with_reducible refine Keeps.set_clk_tim ?_ _ ?_ _ ?_); rotate_left; (first | (intro hc; have q := State.canonical_clk hc; simp only [ClkSt.canonical, Bool.and_eq_true] at q ⊢; simp only [q, Tbl.wf_const, Tbl.wf_nil, List.all_nil, and_self]) | exact fun _ => by decide) ; (first | (intro hc; have q := State.canonical_tim hc; simp only [TimSt.canonical, Bool.and_eq_true] at q ⊢; simp only [q, Tbl.wf_const, Tbl.wf_nil, List.all_nil, and_self]) | exact fun _ => by decide))

theorem execInputPresenceChange_keeps {s u : State} (h : Keeps s u) (input : Nat) (present : Bool) (mult : Nat) : ∀ t, execInputPresenceChange input present mult u = .next t → Keeps s t := by
  intro t ht
  unfold execInputPresenceChange at ht
  obtain rfl := Host.Outcome.next.inj ht
  repeat' first
    | with_reducible assumption
    | (intro zz; refine Keeps.cut (s := s) (t := zz) ?_ (fun hz => ?_); unfold zz)
    | (intro zz; subst zz)
    | lift_lets -underBinder
    | with_reducible first | apply State.settleInput_keeps | apply State.setRefIn_keeps | apply State.fset_keeps | apply Keeps.ite
    | split

theorem State.alignStep_keeps {s u : State} (h : Keeps s u) (i : Nat) : Keeps s (State.alignStep u i) := by
  unfold State.alignStep
  repeat' first
    | with_reducible assumption
    | (intro zz; refine Keeps.cut (s := s) (t := zz) ?_ (fun hz => ?_); unfold zz)
    | (intro zz; subst zz)
    | lift_lets -underBinder
    | with_reducible first | apply State.fset_keeps | apply Keeps.ite
    | split
    | ((fail_if_success (with_reducible refine Keeps.set_jtag ?_ _)); (with_reducible refine Keeps.set_clk ?_ _ ?_); rotate_left; first | (intro hc; have q := State.canonical_clk hc; simp only [ClkSt.canonical, Bool.and_eq_true] at q ⊢; simp only [q, Tbl.wf_const, Tbl.wf_nil, List.all_nil, and_self]) | exact fun _ => by decide)

theorem execPhaseComparison_keeps {s u : State} (h : Keeps s u) (input : Nat) (err : Int) : ∀ t, execPhaseComparison input err u = .next t → Keeps s t := by
  intro t ht
  unfold execPhaseComparison at ht
  obtain rfl := Host.Outcome.next.inj ht
  have hclk : ∀ {v : State} (_ : Keeps s v) (x : ClkSt), (v.clk.canonical = true → x.canonical = true) → Keeps s { v with clk := x } :=
    fun hv x hx => Keeps.set_clk hv x (fun hc => hx (State.canonical_clk hc))
  refine Keeps.ite h ?_
  lift_lets -underBinder
  intro _ v1
  have h1 : Keeps s v1 := Keeps.ite (State.alignStep_keeps h _) (hclk h _ id)
  intro e v2
  have h2 : Keeps s v2 := State.setReg_keeps h1 _ _
  intro _ _ v3
  have h3 : Keeps s v3 := Keeps.ite (hclk (State.fset_keeps h2 _ _) _ (fun hc => (by
    have q : (v2.fset F.CLK_STAT_STATE 1).clk = v2.clk := rfl
    rw [q] at hc; exact hc))) h2
  intro w v4 _
  have h4 : Keeps s v4 := State.setWord_keeps (State.drawWord_keeps h3) _
  exact hclk h4 _ (fun hc => hc)

theorem State.timescaleStepped_keeps {s u : State} (h : Keeps s u) (n : Nat) : Keeps s (State.timescaleStepped u n) := by
  unfold State.timescaleStepped
  repeat' first
    | with_reducible assumption
    | (intro zz; refine Keeps.cut (s := s) (t := zz) ?_ (fun hz => ?_); unfold zz)
    | (intro zz; subst zz)
    | lift_lets -underBinder
    | with_reducible first | apply Keeps.ite
    | split
    | ((fail_if_success (with_reducible refine Keeps.set_jtag ?_ _)); (with_reducible refine Keeps.set_clk ?_ _ ?_); rotate_left; first | (intro hc; have q := State.canonical_clk hc; simp only [ClkSt.canonical, Bool.and_eq_true] at q ⊢; simp only [q, Tbl.wf_const, Tbl.wf_nil, List.all_nil, and_self]) | exact fun _ => by decide)

theorem execClkModeWrite_keeps {s u : State} (h : Keeps s u) (value : W32) : ∀ t, execClkModeWrite value u = .next t → Keeps s t := by
  intro t ht
  unfold execClkModeWrite at ht
  obtain rfl := Host.Outcome.next.inj ht
  repeat' first
    | with_reducible assumption
    | (intro zz; refine Keeps.cut (s := s) (t := zz) ?_ (fun hz => ?_); unfold zz)
    | (intro zz; subst zz)
    | lift_lets -underBinder
    | with_reducible first | apply State.evaluate_keeps | apply State.enterHoldover_keeps | apply State.enterFree_keeps | apply State.deselect_keeps | apply State.setWord_keeps | apply State.writePlain_keeps | apply State.fset_keeps | apply Keeps.ite
    | split

end Sys2Proof.Machine
end

