-- ==== Sys2Proof/Laws/Keeps/Time.lean ====
section
/-! SUPPORT. What the operations of Machine/Time.lean keep. -/

namespace Sys2Proof.Machine

open Sys2Proof.Arith

set_option linter.unreachableTactic false
set_option linter.unusedTactic false
set_option linter.unusedVariables false
set_option linter.unusedSimpArgs false

theorem State.setTsc_keeps {s u : State} (h : Keeps s u) (n : Nat) (x : Timescale) : Keeps s (State.setTsc u n x) := by
  unfold State.setTsc
  repeat' first
    | with_reducible assumption
    | (intro zz; refine Keeps.cut (s := s) (t := zz) ?_ (fun hz => ?_); unfold zz)
    | (intro zz; subst zz)
    | lift_lets -underBinder
    | split
    | ((fail_if_success (with_reducible refine Keeps.set_jtag ?_ _)); (with_reducible refine Keeps.set_tim ?_ _ ?_); rotate_left; first | (intro hc; have q := State.canonical_tim hc; simp only [TimSt.canonical, Bool.and_eq_true] at q ⊢; simp only [q, Tbl.wf_const, Tbl.wf_nil, List.all_nil, and_self]) | exact fun _ => by decide)

theorem State.setFirefly_keeps {s u : State} (h : Keeps s u) (n : Nat) (x : Firefly) : Keeps s (State.setFirefly u n x) := by
  unfold State.setFirefly
  repeat' first
    | with_reducible assumption
    | (intro zz; refine Keeps.cut (s := s) (t := zz) ?_ (fun hz => ?_); unfold zz)
    | (intro zz; subst zz)
    | lift_lets -underBinder
    | split
    | ((fail_if_success (with_reducible refine Keeps.set_jtag ?_ _)); (with_reducible refine Keeps.set_tim ?_ _ ?_); rotate_left; first | (intro hc; have q := State.canonical_tim hc; simp only [TimSt.canonical, Bool.and_eq_true] at q ⊢; simp only [q, Tbl.wf_const, Tbl.wf_nil, List.all_nil, and_self]) | exact fun _ => by decide)

theorem State.disarm_keeps {s u : State} (h : Keeps s u) (n : Nat) : Keeps s (State.disarm u n) := by
  unfold State.disarm
  repeat' first
    | with_reducible assumption
    | (intro zz; refine Keeps.cut (s := s) (t := zz) ?_ (fun hz => ?_); unfold zz)
    | (intro zz; subst zz)
    | lift_lets -underBinder
    | with_reducible first | apply State.setFirefly_keeps | apply State.fset_keeps
    | split

theorem State.fireflyStep_keeps {s u : State} (h : Keeps s u)  : Keeps s (State.fireflyStep u) := by
  unfold State.fireflyStep
  repeat' first
    | with_reducible assumption
    | (intro zz; refine Keeps.cut (s := s) (t := zz) ?_ (fun hz => ?_); unfold zz)
    | (intro zz; subst zz)
    | lift_lets -underBinder
    | with_reducible first | apply State.disarm_keeps | apply State.setFirefly_keeps | apply State.fset_keeps | apply Keeps.ite | refine forEach_keeps ?_ _ _ (fun _ _ _ => ?_)
    | split

theorem execFireflyArm_keeps {s u : State} (h : Keeps s u) (ff : Nat) (value : W32) : ∀ t, execFireflyArm ff value u = .next t → Keeps s t := by
  intro t ht
  unfold execFireflyArm at ht
  obtain rfl := Host.Outcome.next.inj ht
  repeat' first
    | with_reducible assumption
    | (intro zz; refine Keeps.cut (s := s) (t := zz) ?_ (fun hz => ?_); unfold zz)
    | (intro zz; subst zz)
    | lift_lets -underBinder
    | with_reducible first | apply State.setFirefly_keeps | apply State.writePlain_keeps | apply State.fset_keeps | apply Keeps.ite
    | split

theorem execFireflyDisarm_keeps {s u : State} (h : Keeps s u) (ff : Nat) (value : W32) : ∀ t, execFireflyDisarm ff value u = .next t → Keeps s t := by
  intro t ht
  unfold execFireflyDisarm at ht
  obtain rfl := Host.Outcome.next.inj ht
  repeat' first
    | with_reducible assumption
    | with_reducible first | apply State.disarm_keeps | apply State.writePlain_keeps | apply Keeps.ite
    | split

theorem execFireflyPulse_keeps {s u : State} (h : Keeps s u) (ff : Nat) : ∀ t, execFireflyPulse ff u = .next t → Keeps s t := by
  intro t ht
  unfold execFireflyPulse at ht
  obtain rfl := Host.Outcome.next.inj ht
  repeat' first
    | with_reducible assumption
    | (intro zz; refine Keeps.cut (s := s) (t := zz) ?_ (fun hz => ?_); unfold zz)
    | (intro zz; subst zz)
    | lift_lets -underBinder
    | with_reducible first | apply State.disarm_keeps | apply State.setFirefly_keeps | apply State.bump_keeps | apply Keeps.ite
    | split

theorem State.useTimescale_keeps {s u : State} (h : Keeps s u) (n : Nat) : Keeps s (State.useTimescale u n) := by
  unfold State.useTimescale
  repeat' first
    | with_reducible assumption
    | (intro zz; refine Keeps.cut (s := s) (t := zz) ?_ (fun hz => ?_); unfold zz)
    | (intro zz; subst zz)
    | lift_lets -underBinder
    | with_reducible first | apply State.fset_keeps | apply Keeps.ite
    | split
    | ((fail_if_success (with_reducible refine Keeps.set_jtag ?_ _)); (with_reducible refine Keeps.set_tim ?_ _ ?_); rotate_left; first | (intro hc; have q := State.canonical_tim hc; simp only [TimSt.canonical, Bool.and_eq_true] at q ⊢; simp only [q, Tbl.wf_const, Tbl.wf_nil, List.all_nil, and_self]) | exact fun _ => by decide)

theorem State.settleMain_keeps {s u : State} (h : Keeps s u)  : Keeps s (State.settleMain u) := by
  unfold State.settleMain
  repeat' first
    | with_reducible assumption
    | (intro zz; refine Keeps.cut (s := s) (t := zz) ?_ (fun hz => ?_); unfold zz)
    | (intro zz; subst zz)
    | lift_lets -underBinder
    | with_reducible first | apply State.useTimescale_keeps | apply State.record_keeps | apply State.fset_keeps | apply Keeps.ite
    | split
    | ((fail_if_success (with_reducible refine Keeps.set_jtag ?_ _)); (with_reducible refine Keeps.set_tim ?_ _ ?_); rotate_left; first | (intro hc; have q := State.canonical_tim hc; simp only [TimSt.canonical, Bool.and_eq_true] at q ⊢; simp only [q, Tbl.wf_const, Tbl.wf_nil, List.all_nil, and_self]) | exact fun _ => by decide)

theorem State.setTsState_keeps {s u : State} (h : Keeps s u) (n : Nat) (v : Nat) : Keeps s (State.setTsState u n v) := by
  unfold State.setTsState
  repeat' first
    | with_reducible assumption
    | (intro zz; refine Keeps.cut (s := s) (t := zz) ?_ (fun hz => ?_); unfold zz)
    | (intro zz; subst zz)
    | lift_lets -underBinder
    | with_reducible first | apply State.settleMain_keeps | apply State.setTsc_keeps | apply State.settleInput_keeps | apply State.fset_keeps
    | split

theorem State.measured_keeps {s u : State} (h : Keeps s u) (n : Nat) : Keeps s (State.measured u n) := by
  unfold State.measured
  repeat' first
    | with_reducible assumption
    | (intro zz; refine Keeps.cut (s := s) (t := zz) ?_ (fun hz => ?_); unfold zz)
    | (intro zz; subst zz)
    | lift_lets -underBinder
    | with_reducible first | apply State.setTsState_keeps | apply State.setTsc_keeps | apply Keeps.ite
    | split

theorem State.settleTs_keeps {s u : State} (h : Keeps s u) (n : Nat) : Keeps s (State.settleTs u n) := by
  unfold State.settleTs
  repeat' first
    | with_reducible assumption
    | with_reducible first | apply State.setTsState_keeps | apply State.settleMain_keeps | apply Keeps.ite
    | split

theorem State.stepTs_keeps {s u : State} (h : Keeps s u) (n : Nat) (t' : Int) : Keeps s (State.stepTs u n t') := by
  unfold State.stepTs
  repeat' first
    | with_reducible assumption
    | (intro zz; refine Keeps.cut (s := s) (t := zz) ?_ (fun hz => ?_); unfold zz)
    | (intro zz; subst zz)
    | lift_lets -underBinder
    | with_reducible first | apply State.setTsState_keeps | apply State.settleMain_keeps | apply State.fireflyStep_keeps | apply State.setTsc_keeps | apply State.timescaleStepped_keeps | apply State.fset_keeps | apply Keeps.ite
    | split

theorem State.adjustTs_keeps {s u : State} (h : Keeps s u) (n : Nat) (ns : Int) : Keeps s (State.adjustTs u n ns) := by
  unfold State.adjustTs
  repeat' first
    | with_reducible assumption
    | (intro zz; refine Keeps.cut (s := s) (t := zz) ?_ (fun hz => ?_); unfold zz)
    | (intro zz; subst zz)
    | lift_lets -underBinder
    | with_reducible first | apply State.stepTs_keeps | apply State.measured_keeps | apply Keeps.ite
    | split

theorem State.setInc_keeps {s u : State} (h : Keeps s u) (n : Nat) (hi : Nat) : Keeps s (State.setInc u n hi) := by
  unfold State.setInc
  repeat' first
    | with_reducible assumption
    | (intro zz; refine Keeps.cut (s := s) (t := zz) ?_ (fun hz => ?_); unfold zz)
    | (intro zz; subst zz)
    | lift_lets -underBinder
    | with_reducible first | apply State.measured_keeps | apply State.setTsc_keeps | apply State.setReg_keeps | apply Keeps.ite
    | split

theorem execTsIncWrite_keeps {s u : State} (h : Keeps s u) (ts : Nat) (value : W32) : ∀ t, execTsIncWrite ts value u = .next t → Keeps s t := by
  intro t ht
  unfold execTsIncWrite at ht
  obtain rfl := Host.Outcome.next.inj ht
  repeat' first
    | with_reducible assumption
    | with_reducible first | apply State.setInc_keeps | apply Keeps.ite
    | split

theorem execTsSetGo_keeps {s u : State} (h : Keeps s u) (ts : Nat) (value : W32) : ∀ t, execTsSetGo ts value u = .next t → Keeps s t := by
  intro t ht
  unfold execTsSetGo at ht
  obtain rfl := Host.Outcome.next.inj ht
  repeat' first
    | with_reducible assumption
    | (intro zz; refine Keeps.cut (s := s) (t := zz) ?_ (fun hz => ?_); unfold zz)
    | (intro zz; subst zz)
    | lift_lets -underBinder
    | with_reducible first | apply State.stepTs_keeps | apply Keeps.ite
    | split

theorem execTsAdj_keeps {s u : State} (h : Keeps s u) (ts : Nat) (value : W32) : ∀ t, execTsAdj ts value u = .next t → Keeps s t := by
  intro t ht
  unfold execTsAdj at ht
  obtain rfl := Host.Outcome.next.inj ht
  repeat' first
    | with_reducible assumption
    | with_reducible first | apply State.adjustTs_keeps | apply Keeps.ite
    | split

theorem execTsLossTimeout_keeps {s u : State} (h : Keeps s u) (ts : Nat) : ∀ t, execTsLossTimeout ts u = .next t → Keeps s t := by
  intro t ht
  unfold execTsLossTimeout at ht
  obtain rfl := Host.Outcome.next.inj ht
  repeat' first
    | with_reducible assumption
    | with_reducible first | apply State.setTsState_keeps | apply Keeps.ite
    | split

theorem execMainReturn_keeps {s u : State} (h : Keeps s u)  : ∀ t, execMainReturn u = .next t → Keeps s t := by
  intro t ht
  unfold execMainReturn at ht
  obtain rfl := Host.Outcome.next.inj ht
  repeat' first
    | with_reducible assumption
    | with_reducible first | apply State.settleMain_keeps | apply Keeps.ite
    | split

theorem State.fwServo_keeps {s u : State} (h : Keeps s u) (n : Nat) (offset : Int) : Keeps s (State.fwServo u n offset) := by
  unfold State.fwServo
  repeat' first
    | with_reducible assumption
    | (intro zz; refine Keeps.cut (s := s) (t := zz) ?_ (fun hz => ?_); unfold zz)
    | (intro zz; refine Keeps.cut (s := s) (t := zz.2) ?_ (fun hz => ?_); unfold zz; rotate_left; (try clear_value zz); rotate_right)
    | (intro zz; refine Keeps.cut (s := s) (t := zz.1) ?_ (fun hz => ?_); unfold zz; rotate_left; (try clear_value zz); rotate_right)
    | (intro zz; refine Keeps.cut (s := s) (t := zz.2.2) ?_ (fun hz => ?_); unfold zz; rotate_left; (try clear_value zz); rotate_right)
    | (intro zz; subst zz)
    | lift_lets -underBinder
    | with_reducible first | apply State.setInc_keeps | apply State.adjustTs_keeps | apply State.drawWord_keeps | apply State.draw_keeps | apply State.setReg_keeps | apply Keeps.ite | apply Keeps.ite_snd | apply Keeps.ite_fst
    | split

theorem State.passTick_keeps {s u : State} (h : Keeps s u)  : Keeps s (State.passTick u) := by
  unfold State.passTick
  repeat' first
    | with_reducible assumption
    | (intro zz; refine Keeps.cut (s := s) (t := zz) ?_ (fun hz => ?_); unfold zz)
    | (intro zz; subst zz)
    | lift_lets -underBinder
    | with_reducible first | apply State.setTsc_keeps | apply Keeps.ite | refine forEach_keeps ?_ _ _ (fun _ _ _ => ?_)
    | split
    | ((fail_if_success (with_reducible refine Keeps.set_jtag ?_ _)); (with_reducible refine Keeps.set_tim ?_ _ ?_); rotate_left; first | (intro hc; have q := State.canonical_tim hc; simp only [TimSt.canonical, Bool.and_eq_true] at q ⊢; simp only [q, Tbl.wf_const, Tbl.wf_nil, List.all_nil, and_self]) | exact fun _ => by decide)

theorem execScntAlign_keeps {s u : State} (h : Keeps s u)  : ∀ t, execScntAlign u = .next t → Keeps s t := by
  intro t ht
  unfold execScntAlign at ht
  obtain rfl := Host.Outcome.next.inj ht
  repeat' first
    | with_reducible assumption
    | (intro zz; refine Keeps.cut (s := s) (t := zz) ?_ (fun hz => ?_); unfold zz)
    | (intro zz; subst zz)
    | lift_lets -underBinder
    | with_reducible first | apply State.count_keeps | apply State.fset_keeps | apply State.setReg_keeps | apply Keeps.ite
    | split

theorem execSecondCheck_keeps {s u : State} (h : Keeps s u)  : ∀ t, execSecondCheck u = .next t → Keeps s t := by
  intro t ht
  unfold execSecondCheck at ht
  obtain rfl := Host.Outcome.next.inj ht
  repeat' first
    | with_reducible assumption
    | (intro zz; refine Keeps.cut (s := s) (t := zz) ?_ (fun hz => ?_); unfold zz)
    | (intro zz; subst zz)
    | lift_lets -underBinder
    | with_reducible first | apply State.record_keeps | apply State.fset_keeps | apply Keeps.ite
    | split
    | ((fail_if_success (with_reducible refine Keeps.set_jtag ?_ _)); (with_reducible refine Keeps.set_tim ?_ _ ?_); rotate_left; first | (intro hc; have q := State.canonical_tim hc; simp only [TimSt.canonical, Bool.and_eq_true] at q ⊢; simp only [q, Tbl.wf_const, Tbl.wf_nil, List.all_nil, and_self]) | exact fun _ => by decide)

theorem State.setFsOut_keeps {s u : State} (h : Keeps s u) (n : Nat) (x : FsOut) : Keeps s (State.setFsOut u n x) := by
  unfold State.setFsOut
  repeat' first
    | with_reducible assumption
    | (intro zz; refine Keeps.cut (s := s) (t := zz) ?_ (fun hz => ?_); unfold zz)
    | (intro zz; subst zz)
    | lift_lets -underBinder
    | split
    | ((fail_if_success (with_reducible refine Keeps.set_jtag ?_ _)); (with_reducible refine Keeps.set_clk ?_ _ ?_); rotate_left; first | (intro hc; have q := State.canonical_clk hc; simp only [ClkSt.canonical, Bool.and_eq_true] at q ⊢; simp only [q, Tbl.wf_const, Tbl.wf_nil, List.all_nil, and_self]) | exact fun _ => by decide)

theorem State.fsStop_keeps {s u : State} (h : Keeps s u) (n : Nat) : Keeps s (State.fsStop u n) := by
  unfold State.fsStop
  repeat' first
    | with_reducible assumption
    | (intro zz; refine Keeps.cut (s := s) (t := zz) ?_ (fun hz => ?_); unfold zz)
    | (intro zz; refine Keeps.cut (s := s) (t := zz.2) ?_ (fun hz => ?_); unfold zz; rotate_left; (try clear_value zz); rotate_right)
    | (intro zz; refine Keeps.cut (s := s) (t := zz.1) ?_ (fun hz => ?_); unfold zz; rotate_left; (try clear_value zz); rotate_right)
    | (intro zz; refine Keeps.cut (s := s) (t := zz.2.2) ?_ (fun hz => ?_); unfold zz; rotate_left; (try clear_value zz); rotate_right)
    | (intro zz; subst zz)
    | lift_lets -underBinder
    | with_reducible first | apply State.setFsOut_keeps | apply State.fset_keeps | apply Keeps.ite_fst
    | split

theorem State.fsRestart_keeps {s u : State} (h : Keeps s u) (n : Nat) : Keeps s (State.fsRestart u n) := by
  unfold State.fsRestart
  repeat' first
    | with_reducible assumption
    | (intro zz; refine Keeps.cut (s := s) (t := zz) ?_ (fun hz => ?_); unfold zz)
    | (intro zz; subst zz)
    | lift_lets -underBinder
    | with_reducible first | apply State.fsStop_keeps | apply State.setFsOut_keeps | apply State.fset_keeps | apply Keeps.ite
    | split

theorem State.fsRef_keeps {s u : State} (h : Keeps s u) (n : Nat) (at_ : Int) : Keeps s (State.fsRef u n at_) := by
  unfold State.fsRef
  repeat' first
    | with_reducible assumption
    | (intro zz; refine Keeps.cut (s := s) (t := zz) ?_ (fun hz => ?_); unfold zz)
    | (intro zz; subst zz)
    | lift_lets -underBinder
    | with_reducible first | apply State.setFsOut_keeps | apply Keeps.ite
    | split

theorem execFsyncOutPulse_keeps {s u : State} (h : Keeps s u) (out : Nat) (cycle : Nat) (predicted : Bool) : ∀ t, execFsyncOutPulse out cycle predicted u = .next t → Keeps s t := by
  intro t ht
  unfold execFsyncOutPulse at ht
  obtain rfl := Host.Outcome.next.inj ht
  repeat' first
    | with_reducible assumption
    | (intro zz; refine Keeps.cut (s := s) (t := zz) ?_ (fun hz => ?_); unfold zz)
    | (intro zz; subst zz)
    | lift_lets -underBinder
    | with_reducible first | apply State.fsRef_keeps | apply State.setFsOut_keeps | apply State.fset_keeps | apply Keeps.ite
    | split

theorem execFsyncOutLost_keeps {s u : State} (h : Keeps s u) (out : Nat) : ∀ t, execFsyncOutLost out u = .next t → Keeps s t := by
  intro t ht
  unfold execFsyncOutLost at ht
  obtain rfl := Host.Outcome.next.inj ht
  repeat' first
    | with_reducible assumption
    | with_reducible first | apply State.fsStop_keeps | apply Keeps.ite
    | split

end Sys2Proof.Machine
end

