-- ==== Sys2Proof/Laws/Keeps/LinkState.lean ====
section
/-! SUPPORT. What the operations of Machine/LinkState.lean keep. -/

namespace Sys2Proof.Machine

open Sys2Proof.Arith

set_option linter.unreachableTactic false
set_option linter.unusedTactic false
set_option linter.unusedVariables false
set_option linter.unusedSimpArgs false

theorem State.setLinkLane_keeps {s u : State} (h : Keeps s u) (l : Nat) (x : LinkLane) : Keeps s (State.setLinkLane u l x) := by
  unfold State.setLinkLane
  repeat' first
    | with_reducible assumption
    | (intro zz; refine Keeps.cut (s := s) (t := zz) ?_ (fun hz => ?_); unfold zz)
    | (intro zz; subst zz)
    | lift_lets -underBinder
    | split
    | ((fail_if_success (with_reducible refine Keeps.set_jtag ?_ _)); (with_reducible refine Keeps.set_link ?_ _ ?_); rotate_left; first | (intro hc; have q := State.canonical_link hc; simp only [Link.canonical, Bool.and_eq_true] at q ⊢; simp only [q, Tbl.wf_const, Tbl.wf_nil, List.all_nil, and_self]) | exact fun _ => by decide)
    | ((fail_if_success (with_reducible refine Keeps.set_jtag ?_ _)); (with_reducible refine Keeps.set_lanes ?_ _ ?_); rotate_left; first | exact fun hc => Tbl.wf_const _ _ _ _ (State.canonical_lanes hc) | exact fun _ => Tbl.wf_nil _ | exact fun hc => Tbl.wf_mapVals _ _ _ (State.canonical_lanes hc))

theorem State.setLinkPort_keeps {s u : State} (h : Keeps s u) (p : Nat) (x : LinkPort) : Keeps s (State.setLinkPort u p x) := by
  unfold State.setLinkPort
  repeat' first
    | with_reducible assumption
    | (intro zz; refine Keeps.cut (s := s) (t := zz) ?_ (fun hz => ?_); unfold zz)
    | (intro zz; subst zz)
    | lift_lets -underBinder
    | split
    | ((fail_if_success (with_reducible refine Keeps.set_jtag ?_ _)); (with_reducible refine Keeps.set_link ?_ _ ?_); rotate_left; first | (intro hc; have q := State.canonical_link hc; simp only [Link.canonical, Bool.and_eq_true] at q ⊢; simp only [q, Tbl.wf_const, Tbl.wf_nil, List.all_nil, and_self]) | exact fun _ => by decide)
    | ((fail_if_success (with_reducible refine Keeps.set_jtag ?_ _)); (with_reducible refine Keeps.set_ports ?_ _ ?_); rotate_left; first | exact fun hc => Tbl.wf_const _ _ _ _ (State.canonical_ports hc) | exact fun _ => Tbl.wf_nil _ | exact fun hc => Tbl.wf_mapVals _ _ _ (State.canonical_ports hc))

theorem State.portEntersUp_keeps {s u : State} (h : Keeps s u) (p : Nat) : Keeps s (State.portEntersUp u p) := by
  unfold State.portEntersUp
  repeat' first
    | with_reducible assumption
    | (intro zz; refine Keeps.cut (s := s) (t := zz) ?_ (fun hz => ?_); unfold zz)
    | (intro zz; subst zz)
    | lift_lets -underBinder
    | with_reducible first | apply State.setLinkPort_keeps
    | split

theorem State.portLeavesUp_keeps {s u : State} (h : Keeps s u) (p : Nat) : Keeps s (State.portLeavesUp u p) := by
  unfold State.portLeavesUp
  repeat' first
    | with_reducible assumption
    | (intro zz; refine Keeps.cut (s := s) (t := zz) ?_ (fun hz => ?_); unfold zz)
    | (intro zz; subst zz)
    | lift_lets -underBinder
    | with_reducible first | apply State.setLinkPort_keeps | apply State.count_keeps | refine forEach_keeps ?_ _ _ (fun _ _ _ => ?_)
    | split
    | ((fail_if_success (with_reducible refine Keeps.set_jtag ?_ _)); (with_reducible refine Keeps.set_link ?_ _ ?_); rotate_left; first | (intro hc; have q := State.canonical_link hc; simp only [Link.canonical, Bool.and_eq_true] at q ⊢; simp only [q, Tbl.wf_const, Tbl.wf_nil, List.all_nil, and_self]) | exact fun _ => by decide)
    | ((fail_if_success (with_reducible refine Keeps.set_jtag ?_ _)); (with_reducible refine Keeps.set_bulk ?_ _ ?_); rotate_left; first | exact fun _ => Tbl.wf_nil _)

theorem State.setLinkSt_keeps {s u : State} (h : Keeps s u) (l : Nat) (v : Nat) : Keeps s (State.setLinkSt u l v) := by
  unfold State.setLinkSt
  repeat' first
    | with_reducible assumption
    | (intro zz; refine Keeps.cut (s := s) (t := zz) ?_ (fun hz => ?_); unfold zz)
    | (intro zz; subst zz)
    | lift_lets -underBinder
    | with_reducible first | apply State.portLeavesUp_keeps | apply State.portEntersUp_keeps | apply State.setLinkLane_keeps | apply State.fset_keeps | apply Keeps.ite
    | split

theorem State.linkLost_keeps {s u : State} (h : Keeps s u) (l : Nat) : Keeps s (State.linkLost u l) := by
  unfold State.linkLost
  repeat' first
    | with_reducible assumption
    | (intro zz; refine Keeps.cut (s := s) (t := zz) ?_ (fun hz => ?_); unfold zz)
    | (intro zz; subst zz)
    | lift_lets -underBinder
    | with_reducible first | apply State.record_keeps | apply State.fset_keeps
    | split

theorem State.stepLink_keeps {s u : State} (h : Keeps s u) (l : Nat) : Keeps s (State.stepLink u l) := by
  unfold State.stepLink
  repeat' first
    | with_reducible assumption
    | (intro zz; refine Keeps.cut (s := s) (t := zz) ?_ (fun hz => ?_); unfold zz)
    | (intro zz; subst zz)
    | lift_lets -underBinder
    | with_reducible first | apply State.linkLost_keeps | apply State.setLinkSt_keeps | apply Keeps.ite
    | split

theorem State.settleLink_keeps {s u : State} (h : Keeps s u) (l : Nat) : Keeps s (State.settleLink u l) := by
  unfold State.settleLink
  repeat' first
    | with_reducible assumption
    | with_reducible first | apply State.stepLink_keeps
    | split

theorem State.peerChanged_keeps {s u : State} (h : Keeps s u) (l : Nat) : Keeps s (State.peerChanged u l) := by
  unfold State.peerChanged
  repeat' first
    | with_reducible assumption
    | with_reducible first | apply State.setLinkSt_keeps | apply State.fset_keeps | apply Keeps.ite
    | split

theorem State.seeAddress_keeps {s u : State} (h : Keeps s u) (l : Nat) (addr : Nat) : Keeps s (State.seeAddress u l addr) := by
  unfold State.seeAddress
  repeat' first
    | with_reducible assumption
    | (intro zz; refine Keeps.cut (s := s) (t := zz) ?_ (fun hz => ?_); unfold zz)
    | (intro zz; subst zz)
    | lift_lets -underBinder
    | with_reducible first | apply State.record_keeps | apply State.fset_keeps | apply Keeps.ite
    | split

theorem State.laneError_keeps {s u : State} (h : Keeps s u) (l : Nat) (kind : Nat) : Keeps s (State.laneError u l kind) := by
  unfold State.laneError
  repeat' first
    | with_reducible assumption
    | (intro zz; refine Keeps.cut (s := s) (t := zz) ?_ (fun hz => ?_); unfold zz)
    | (intro zz; subst zz)
    | lift_lets -underBinder
    | with_reducible first | apply State.setLinkLane_keeps | apply State.record_keeps | apply Keeps.ite
    | split

theorem execLaneErrorsSummary_keeps {s u : State} (h : Keeps s u) (lane : Nat) : ∀ t, execLaneErrorsSummary lane u = .next t → Keeps s t := by
  intro t ht
  unfold execLaneErrorsSummary at ht
  obtain rfl := Host.Outcome.next.inj ht
  repeat' first
    | with_reducible assumption
    | (intro zz; refine Keeps.cut (s := s) (t := zz) ?_ (fun hz => ?_); unfold zz)
    | (intro zz; subst zz)
    | lift_lets -underBinder
    | with_reducible first | apply State.setLinkLane_keeps | apply State.record_keeps | apply Keeps.ite
    | split

theorem execLinkLost_keeps {s u : State} (h : Keeps s u) (lane : Nat) : ∀ t, execLinkLost lane u = .next t → Keeps s t := by
  intro t ht
  unfold execLinkLost at ht
  obtain rfl := Host.Outcome.next.inj ht
  repeat' first
    | with_reducible assumption
    | with_reducible first | apply State.linkLost_keeps | apply State.setLinkSt_keeps | apply Keeps.ite
    | split

end Sys2Proof.Machine
end

