-- ==== Sys2Proof/Laws/Keeps/Lanes.lean ====
section
/-! SUPPORT. What the operations of Machine/Lanes.lean keep. -/

namespace Sys2Proof.Machine

open Sys2Proof.Arith

set_option linter.unreachableTactic false
set_option linter.unusedTactic false
set_option linter.unusedVariables false
set_option linter.unusedSimpArgs false

theorem State.setLane_keeps {s u : State} (h : Keeps s u) (l : Nat) (x : LaneSt) : Keeps s (State.setLane u l x) := by
  unfold State.setLane
  repeat' first
    | with_reducible assumption
    | (intro zz; refine Keeps.cut (s := s) (t := zz) ?_ (fun hz => ?_); unfold zz)
    | (intro zz; subst zz)
    | lift_lets -underBinder
    | split
    | ((fail_if_success (with_reducible refine Keeps.set_jtag ?_ _)); (with_reducible refine Keeps.set_lanes ?_ _ ?_); rotate_left; first | exact fun hc => Tbl.wf_const _ _ _ _ (State.canonical_lanes hc) | exact fun _ => Tbl.wf_nil _ | exact fun hc => Tbl.wf_mapVals _ _ _ (State.canonical_lanes hc))

theorem State.settleLane_keeps {s u : State} (h : Keeps s u) (l : Nat) : Keeps s (State.settleLane u l) := by
  unfold State.settleLane
  repeat' first
    | with_reducible assumption
    | (intro zz; refine Keeps.cut (s := s) (t := zz) ?_ (fun hz => ?_); unfold zz)
    | (intro zz; subst zz)
    | lift_lets -underBinder
    | with_reducible first | apply State.settleLink_keeps | apply State.settleInput_keeps | apply State.fset_keeps
    | split

theorem State.unlock_keeps {s u : State} (h : Keeps s u) (l : Nat) (st : Nat) (loss : Bool) : Keeps s (State.unlock u l st loss) := by
  unfold State.unlock
  repeat' first
    | with_reducible assumption
    | (intro zz; refine Keeps.cut (s := s) (t := zz) ?_ (fun hz => ?_); unfold zz)
    | (intro zz; subst zz)
    | lift_lets -underBinder
    | with_reducible first | apply State.setLane_keeps | apply State.bump_keeps | apply State.fset_keeps | apply Keeps.ite
    | split
    | ((fail_if_success (with_reducible refine Keeps.set_jtag ?_ _)); (with_reducible refine Keeps.set_blk ?_ _ ?_); rotate_left; first | exact fun hc => State.canonical_reqs hc | exact fun hc => Tbl.wf_const _ _ _ _ (State.canonical_reqs hc) | exact fun _ => Tbl.wf_nil _)

theorem execLaneSignalChange_keeps {s u : State} (h : Keeps s u) (lane : Nat) (sig : Bool) (cdr : Bool) : ∀ t, execLaneSignalChange lane sig cdr u = .next t → Keeps s t := by
  intro t ht
  unfold execLaneSignalChange at ht
  obtain rfl := Host.Outcome.next.inj ht
  repeat' first
    | with_reducible assumption
    | (intro zz; refine Keeps.cut (s := s) (t := zz) ?_ (fun hz => ?_); unfold zz)
    | (intro zz; subst zz)
    | lift_lets -underBinder
    | with_reducible first | apply State.unlock_keeps | apply State.settleLane_keeps | apply State.fset_keeps | apply Keeps.ite
    | split

theorem State.seeIdent_keeps {s u : State} (h : Keeps s u) (l : Nat) (v : Nat) : Keeps s (State.seeIdent u l v) := by
  unfold State.seeIdent
  repeat' first
    | with_reducible assumption
    | (intro zz; refine Keeps.cut (s := s) (t := zz) ?_ (fun hz => ?_); unfold zz)
    | (intro zz; subst zz)
    | lift_lets -underBinder
    | with_reducible first | apply State.setLane_keeps | apply State.seeAddress_keeps | apply State.peerChanged_keeps | apply State.settleLink_keeps | apply State.fset_keeps | apply State.setReg_keeps | apply Keeps.ite
    | split

theorem State.count48_keeps {s u : State} (h : Keeps s u) (lo : Nat) (hi : Nat) (n : Nat) : Keeps s (State.count48 u lo hi n) := by
  unfold State.count48
  repeat' first
    | with_reducible assumption
    | (intro zz; refine Keeps.cut (s := s) (t := zz) ?_ (fun hz => ?_); unfold zz)
    | (intro zz; subst zz)
    | lift_lets -underBinder
    | with_reducible first | apply State.setReg_keeps
    | split

theorem State.deliverBlock_keeps {s u : State} (h : Keeps s u) (l : Nat) (valid : Bool) (hdr : Nat) (payload : Nat) : Keeps s (State.deliverBlock u l valid hdr payload) := by
  unfold State.deliverBlock
  repeat' first
    | with_reducible assumption
    | (intro zz; refine Keeps.cut (s := s) (t := zz) ?_ (fun hz => ?_); unfold zz)
    | (intro zz; subst zz)
    | lift_lets -underBinder
    | with_reducible first | apply State.seeIdent_keeps | apply State.setLane_keeps | apply State.bump_keeps | apply Keeps.ite
    | split
    | ((fail_if_success (with_reducible refine Keeps.set_jtag ?_ _)); (with_reducible refine Keeps.set_blk ?_ _ ?_); rotate_left; first | exact fun hc => State.canonical_reqs hc | exact fun hc => Tbl.wf_const _ _ _ _ (State.canonical_reqs hc) | exact fun _ => Tbl.wf_nil _)

theorem State.slip_keeps {s u : State} (h : Keeps s u) (l : Nat) : Keeps s (State.slip u l) := by
  unfold State.slip
  repeat' first
    | with_reducible assumption
    | (intro zz; refine Keeps.cut (s := s) (t := zz) ?_ (fun hz => ?_); unfold zz)
    | (intro zz; subst zz)
    | lift_lets -underBinder
    | with_reducible first | apply State.setLane_keeps
    | split

theorem State.checkLine_keeps {s u : State} (h : Keeps s u) (l : Nat) (w : Nat × Nat) : Keeps s (State.checkLine u l w) := by
  unfold State.checkLine
  repeat' first
    | with_reducible assumption
    | (intro zz; refine Keeps.cut (s := s) (t := zz) ?_ (fun hz => ?_); unfold zz)
    | (intro zz; refine Keeps.cut (s := s) (t := zz.2) ?_ (fun hz => ?_); unfold zz; rotate_left; (try clear_value zz); rotate_right)
    | (intro zz; refine Keeps.cut (s := s) (t := zz.1) ?_ (fun hz => ?_); unfold zz; rotate_left; (try clear_value zz); rotate_right)
    | (intro zz; refine Keeps.cut (s := s) (t := zz.2.2) ?_ (fun hz => ?_); unfold zz; rotate_left; (try clear_value zz); rotate_right)
    | (intro zz; subst zz)
    | lift_lets -underBinder
    | with_reducible first | apply State.setLane_keeps | apply State.count_keeps | apply Keeps.ite | apply Keeps.ite_snd | apply Keeps.ite_fst
    | split

theorem State.blockIn_keeps {s u : State} (h : Keeps s u) (lane : Nat) (h' : Nat) (w : Nat) : Keeps s (State.blockIn u lane h' w) := by
  unfold State.blockIn
  repeat' first
    | with_reducible assumption
    | (intro zz; refine Keeps.cut (s := s) (t := zz) ?_ (fun hz => ?_); unfold zz)
    | (intro zz; refine Keeps.cut (s := s) (t := zz.2) ?_ (fun hz => ?_); unfold zz; rotate_left; (try clear_value zz); rotate_right)
    | (intro zz; refine Keeps.cut (s := s) (t := zz.1) ?_ (fun hz => ?_); unfold zz; rotate_left; (try clear_value zz); rotate_right)
    | (intro zz; refine Keeps.cut (s := s) (t := zz.2.2) ?_ (fun hz => ?_); unfold zz; rotate_left; (try clear_value zz); rotate_right)
    | (intro zz; subst zz)
    | lift_lets -underBinder
    | with_reducible first | apply State.checkLine_keeps | apply State.slip_keeps | apply State.deliverBlock_keeps | apply State.count48_keeps | apply State.unlock_keeps | apply State.settleLane_keeps | apply State.setLane_keeps | apply State.laneError_keeps | apply State.bump_keeps | apply State.fset_keeps | apply Keeps.ite | apply Keeps.ite_snd | apply Keeps.ite_fst
    | split

theorem execBlockReceived_keeps {s u : State} (h : Keeps s u) (lane : Nat) (hdr : BitVec 2) (payload : W64) : ∀ t, execBlockReceived lane hdr payload u = .next t → Keeps s t := by
  intro t ht
  unfold execBlockReceived at ht
  obtain rfl := Host.Outcome.next.inj ht
  repeat' first
    | with_reducible assumption
    | (intro zz; refine Keeps.cut (s := s) (t := zz) ?_ (fun hz => ?_); unfold zz)
    | (intro zz; refine Keeps.cut (s := s) (t := zz.2) ?_ (fun hz => ?_); unfold zz; rotate_left; (try clear_value zz); rotate_right)
    | (intro zz; refine Keeps.cut (s := s) (t := zz.1) ?_ (fun hz => ?_); unfold zz; rotate_left; (try clear_value zz); rotate_right)
    | (intro zz; refine Keeps.cut (s := s) (t := zz.2.2) ?_ (fun hz => ?_); unfold zz; rotate_left; (try clear_value zz); rotate_right)
    | (intro zz; subst zz)
    | lift_lets -underBinder
    | with_reducible first | apply State.blockIn_keeps | apply State.setLane_keeps | apply Keeps.ite | apply Keeps.ite_snd | apply Keeps.ite_fst
    | split

theorem State.restartAdapt_keeps {s u : State} (h : Keeps s u) (l : Nat) : Keeps s (State.restartAdapt u l) := by
  unfold State.restartAdapt
  repeat' first
    | with_reducible assumption
    | with_reducible first | apply State.fset_keeps | apply State.setReg_keeps | apply Keeps.ite
    | split

theorem execAdaptDone_keeps {s u : State} (h : Keeps s u) (lane : Nat) : ∀ t, execAdaptDone lane u = .next t → Keeps s t := by
  intro t ht
  unfold execAdaptDone at ht
  obtain rfl := Host.Outcome.next.inj ht
  repeat' first
    | with_reducible assumption
    | (intro zz; refine Keeps.cut (s := s) (t := zz) ?_ (fun hz => ?_); unfold zz)
    | (intro zz; refine Keeps.cut (s := s) (t := zz.2) ?_ (fun hz => ?_); unfold zz; rotate_left; (try clear_value zz); rotate_right)
    | (intro zz; refine Keeps.cut (s := s) (t := zz.1) ?_ (fun hz => ?_); unfold zz; rotate_left; (try clear_value zz); rotate_right)
    | (intro zz; refine Keeps.cut (s := s) (t := zz.2.2) ?_ (fun hz => ?_); unfold zz; rotate_left; (try clear_value zz); rotate_right)
    | (intro zz; subst zz)
    | lift_lets -underBinder
    | with_reducible first | apply State.settleLane_keeps | apply State.draw_keeps | apply State.fset_keeps | apply State.setReg_keeps | apply Keeps.ite | apply Keeps.ite_snd | apply Keeps.ite_fst
    | split

theorem execBringupFail_keeps {s u : State} (h : Keeps s u) (lane : Nat) : ∀ t, execBringupFail lane u = .next t → Keeps s t := by
  intro t ht
  unfold execBringupFail at ht
  obtain rfl := Host.Outcome.next.inj ht
  repeat' first
    | with_reducible assumption
    | with_reducible first | apply State.restartAdapt_keeps | apply State.unlock_keeps | apply State.settleLane_keeps | apply State.fset_keeps | apply Keeps.ite
    | split

theorem execLaneRestart_keeps {s u : State} (h : Keeps s u) (lane : Nat) : ∀ t, execLaneRestart lane u = .next t → Keeps s t := by
  intro t ht
  unfold execLaneRestart at ht
  obtain rfl := Host.Outcome.next.inj ht
  repeat' first
    | with_reducible assumption
    | with_reducible first | apply State.restartAdapt_keeps | apply State.unlock_keeps | apply State.settleLane_keeps | apply Keeps.ite
    | split

theorem execLaneCtrlWrite_keeps {s u : State} (h : Keeps s u) (lane : Nat) (value : W32) : ∀ t, execLaneCtrlWrite lane value u = .next t → Keeps s t := by
  intro t ht
  unfold execLaneCtrlWrite at ht
  obtain rfl := Host.Outcome.next.inj ht
  repeat' first
    | with_reducible assumption
    | (intro zz; refine Keeps.cut (s := s) (t := zz) ?_ (fun hz => ?_); unfold zz)
    | (intro zz; subst zz)
    | lift_lets -underBinder
    | with_reducible first | apply State.restartAdapt_keeps | apply State.unlock_keeps | apply State.settleLane_keeps | apply State.writePlain_keeps | apply State.fset_keeps | apply Keeps.ite
    | split

theorem execTxeqWrite_keeps {s u : State} (h : Keeps s u) (lane : Nat) (value : W32) : ∀ t, execTxeqWrite lane value u = .next t → Keeps s t := by
  intro t ht
  unfold execTxeqWrite at ht
  obtain rfl := Host.Outcome.next.inj ht
  repeat' first
    | with_reducible assumption
    | (intro zz; refine Keeps.cut (s := s) (t := zz) ?_ (fun hz => ?_); unfold zz)
    | (intro zz; subst zz)
    | lift_lets -underBinder
    | with_reducible first | apply State.writePlain_keeps | apply State.fset_keeps | apply Keeps.ite
    | split

theorem execRxeqWrite_keeps {s u : State} (h : Keeps s u) (lane : Nat) (value : W32) : ∀ t, execRxeqWrite lane value u = .next t → Keeps s t := by
  intro t ht
  unfold execRxeqWrite at ht
  obtain rfl := Host.Outcome.next.inj ht
  repeat' first
    | with_reducible assumption
    | with_reducible first | apply State.writePlain_keeps | apply Keeps.ite
    | split

theorem execPrbsTestWrite_keeps {s u : State} (h : Keeps s u) (lane : Nat) (value : W32) : ∀ t, execPrbsTestWrite lane value u = .next t → Keeps s t := by
  intro t ht
  unfold execPrbsTestWrite at ht
  obtain rfl := Host.Outcome.next.inj ht
  repeat' first
    | with_reducible assumption
    | (intro zz; refine Keeps.cut (s := s) (t := zz) ?_ (fun hz => ?_); unfold zz)
    | (intro zz; refine Keeps.cut (s := s) (t := zz.2) ?_ (fun hz => ?_); unfold zz; rotate_left; (try clear_value zz); rotate_right)
    | (intro zz; refine Keeps.cut (s := s) (t := zz.1) ?_ (fun hz => ?_); unfold zz; rotate_left; (try clear_value zz); rotate_right)
    | (intro zz; refine Keeps.cut (s := s) (t := zz.2.2) ?_ (fun hz => ?_); unfold zz; rotate_left; (try clear_value zz); rotate_right)
    | (intro zz; subst zz)
    | lift_lets -underBinder
    | with_reducible first | apply State.unlock_keeps | apply State.settleLane_keeps | apply State.setLane_keeps | apply State.draw_keeps | apply State.writePlain_keeps | apply State.fset_keeps | apply Keeps.ite | apply Keeps.ite_snd | apply Keeps.ite_fst
    | split

theorem execChkSync_keeps {s u : State} (h : Keeps s u) (lane : Nat) (seed : Nat) : ∀ t, execChkSync lane seed u = .next t → Keeps s t := by
  intro t ht
  unfold execChkSync at ht
  obtain rfl := Host.Outcome.next.inj ht
  repeat' first
    | with_reducible assumption
    | (intro zz; refine Keeps.cut (s := s) (t := zz) ?_ (fun hz => ?_); unfold zz)
    | (intro zz; refine Keeps.cut (s := s) (t := zz.2) ?_ (fun hz => ?_); unfold zz; rotate_left; (try clear_value zz); rotate_right)
    | (intro zz; refine Keeps.cut (s := s) (t := zz.1) ?_ (fun hz => ?_); unfold zz; rotate_left; (try clear_value zz); rotate_right)
    | (intro zz; refine Keeps.cut (s := s) (t := zz.2.2) ?_ (fun hz => ?_); unfold zz; rotate_left; (try clear_value zz); rotate_right)
    | (intro zz; subst zz)
    | lift_lets -underBinder
    | with_reducible first | apply State.setLane_keeps | apply State.fset_keeps | apply Keeps.ite | apply Keeps.ite_snd
    | split

theorem execPortModeWrite_keeps {s u : State} (h : Keeps s u) (port : Nat) (value : W32) : ∀ t, execPortModeWrite port value u = .next t → Keeps s t := by
  intro t ht
  unfold execPortModeWrite at ht
  obtain rfl := Host.Outcome.next.inj ht
  repeat' first
    | with_reducible assumption
    | (intro zz; refine Keeps.cut (s := s) (t := zz) ?_ (fun hz => ?_); unfold zz)
    | (intro zz; subst zz)
    | lift_lets -underBinder
    | with_reducible first | apply State.settleLane_keeps | apply State.setLane_keeps | apply State.setLinkPort_keeps | apply State.refreshPpm_keeps | apply State.writePlain_keeps | apply State.fset_keeps | apply Keeps.ite
    | split

theorem State.queueBlocks_keeps {s u : State} (h : Keeps s u) (l : Nat) (bs : List (Nat × Nat)) : Keeps s (State.queueBlocks u l bs) := by
  unfold State.queueBlocks
  repeat' first
    | with_reducible assumption
    | (intro zz; refine Keeps.cut (s := s) (t := zz) ?_ (fun hz => ?_); unfold zz)
    | (intro zz; subst zz)
    | lift_lets -underBinder
    | with_reducible first | apply State.setLane_keeps | apply Keeps.ite
    | split

theorem State.sendLine_keeps {s u : State} (h : Keeps s u) (l : Nat) (n : Nat) : Keeps s (State.sendLine u l n) := by
  unfold State.sendLine
  repeat' first
    | with_reducible assumption
    | (intro zz; refine Keeps.cut (s := s) (t := zz) ?_ (fun hz => ?_); unfold zz)
    | (intro zz; refine Keeps.cut (s := s) (t := zz.2) ?_ (fun hz => ?_); unfold zz; rotate_left; (try clear_value zz); rotate_right)
    | (intro zz; refine Keeps.cut (s := s) (t := zz.1) ?_ (fun hz => ?_); unfold zz; rotate_left; (try clear_value zz); rotate_right)
    | (intro zz; refine Keeps.cut (s := s) (t := zz.2.2) ?_ (fun hz => ?_); unfold zz; rotate_left; (try clear_value zz); rotate_right)
    | (intro zz; subst zz)
    | lift_lets -underBinder
    | with_reducible first | apply State.count48_keeps | apply State.setLane_keeps | apply Keeps.ite | apply Keeps.ite_snd | apply Keeps.ite_fst
    | split
    | ((fail_if_success (with_reducible refine Keeps.set_jtag ?_ _)); (with_reducible refine Keeps.set_freeCtr ?_ _ ?_); rotate_left; first | exact Nat.le_add_right _ _)

theorem State.txBlocks_keeps {s u : State} (h : Keeps s u) (l : Nat) : Keeps s (State.txBlocks u l) := by
  unfold State.txBlocks
  repeat' first
    | with_reducible assumption
    | (intro zz; refine Keeps.cut (s := s) (t := zz) ?_ (fun hz => ?_); unfold zz)
    | (intro zz; refine Keeps.cut (s := s) (t := zz.2) ?_ (fun hz => ?_); unfold zz; rotate_left; (try clear_value zz); rotate_right)
    | (intro zz; refine Keeps.cut (s := s) (t := zz.1) ?_ (fun hz => ?_); unfold zz; rotate_left; (try clear_value zz); rotate_right)
    | (intro zz; refine Keeps.cut (s := s) (t := zz.2.2) ?_ (fun hz => ?_); unfold zz; rotate_left; (try clear_value zz); rotate_right)
    | (intro zz; subst zz)
    | lift_lets -underBinder
    | with_reducible first | apply State.sendLine_keeps | apply State.blockIn_keeps | apply State.setLane_keeps | apply Keeps.ite | apply Keeps.ite_snd | apply Keeps.ite_fst | refine forEach_keeps ?_ _ _ (fun _ _ _ => ?_)
    | split

end Sys2Proof.Machine
end

