-- ==== Sys2Proof/Laws/Keeps/Rtp.lean ====
section
/-! SUPPORT. What the operations of Machine/Rtp.lean keep. -/

namespace Sys2Proof.Machine

open Sys2Proof.Arith

set_option linter.unreachableTactic false
set_option linter.unusedTactic false
set_option linter.unusedVariables false
set_option linter.unusedSimpArgs false

theorem State.setRxStream_keeps {s u : State} (h : Keeps s u) (i : Nat) (x : RtpRx) : Keeps s (State.setRxStream u i x) := by
  unfold State.setRxStream
  repeat' first
    | with_reducible assumption
    | (intro zz; refine Keeps.cut (s := s) (t := zz) ?_ (fun hz => ?_); unfold zz)
    | (intro zz; subst zz)
    | lift_lets -underBinder
    | split
    | ((fail_if_success (with_reducible refine Keeps.set_jtag ?_ _)); (with_reducible refine Keeps.set_rtpRx ?_ _ ?_); rotate_left; first | exact fun hc => Tbl.wf_const _ _ _ _ (State.canonical_rtpRx hc) | exact fun _ => Tbl.wf_nil _ | exact fun hc => Tbl.wf_mapVals _ _ _ (State.canonical_rtpRx hc))

theorem State.setTxStream_keeps {s u : State} (h : Keeps s u) (i : Nat) (x : RtpTx) : Keeps s (State.setTxStream u i x) := by
  unfold State.setTxStream
  repeat' first
    | with_reducible assumption
    | (intro zz; refine Keeps.cut (s := s) (t := zz) ?_ (fun hz => ?_); unfold zz)
    | (intro zz; subst zz)
    | lift_lets -underBinder
    | split
    | ((fail_if_success (with_reducible refine Keeps.set_jtag ?_ _)); (with_reducible refine Keeps.set_rtpTx ?_ _ ?_); rotate_left; first | exact fun hc => Tbl.wf_const _ _ _ _ (State.canonical_rtpTx hc) | exact fun _ => Tbl.wf_nil _ | exact fun hc => Tbl.wf_mapVals _ _ _ (State.canonical_rtpTx hc))

theorem State.rtpAccept_keeps {s u : State} (h : Keeps s u) (i : Nat) (ts : Nat) (seq : Nat) (ssrc : Nat) (frames : List (List Int)) : Keeps s (State.rtpAccept u i ts seq ssrc frames) := by
  unfold State.rtpAccept
  repeat' first
    | with_reducible assumption
    | (intro zz; refine Keeps.cut (s := s) (t := zz) ?_ (fun hz => ?_); unfold zz)
    | (intro zz; subst zz)
    | lift_lets -underBinder
    | with_reducible first | apply State.setRxStream_keeps | apply State.bump_keeps | apply State.fset_keeps | apply Keeps.ite | refine foldl_keeps_snd _ _ _ ?_ (fun _ _ _ => ?_) | refine foldl_keeps_fst _ _ _ ?_ (fun _ _ _ => ?_) | refine foldl_keeps _ _ _ ?_ (fun _ _ _ => ?_)
    | split

theorem State.rtpRefill_keeps {s u : State} (h : Keeps s u) (i : Nat) : Keeps s (State.rtpRefill u i) := by
  unfold State.rtpRefill
  repeat' first
    | with_reducible assumption
    | (intro zz; refine Keeps.cut (s := s) (t := zz) ?_ (fun hz => ?_); unfold zz)
    | (intro zz; subst zz)
    | lift_lets -underBinder
    | with_reducible first | apply State.setRxStream_keeps | apply Keeps.ite
    | split

theorem execRtpRefill_keeps {s u : State} (h : Keeps s u) (stream : Nat) : ∀ t, execRtpRefill stream u = .next t → Keeps s t := by
  intro t ht
  unfold execRtpRefill at ht
  obtain rfl := Host.Outcome.next.inj ht
  repeat' first
    | with_reducible assumption
    | with_reducible first | apply State.rtpRefill_keeps | apply Keeps.ite
    | split

theorem State.gatherRtp_keeps {s u : State} (h : Keeps s u) (i : Nat) : Keeps s (State.gatherRtp u i) := by
  unfold State.gatherRtp
  repeat' first
    | with_reducible assumption
    | (intro zz; refine Keeps.cut (s := s) (t := zz) ?_ (fun hz => ?_); unfold zz)
    | (intro zz; refine Keeps.cut (s := s) (t := zz.2) ?_ (fun hz => ?_); unfold zz; rotate_left; (try clear_value zz); rotate_right)
    | (intro zz; refine Keeps.cut (s := s) (t := zz.1) ?_ (fun hz => ?_); unfold zz; rotate_left; (try clear_value zz); rotate_right)
    | (intro zz; refine Keeps.cut (s := s) (t := zz.2.2) ?_ (fun hz => ?_); unfold zz; rotate_left; (try clear_value zz); rotate_right)
    | (intro zz; subst zz)
    | lift_lets -underBinder
    | with_reducible first | apply State.rtpRefill_keeps | apply State.setRxStream_keeps | apply State.bump_keeps | apply State.fset_keeps | apply Keeps.ite | apply Keeps.ite_snd | apply Keeps.ite_fst
    | split

theorem State.idleRtp_keeps {s u : State} (h : Keeps s u) (i : Nat) : Keeps s (State.idleRtp u i) := by
  unfold State.idleRtp
  repeat' first
    | with_reducible assumption
    | (intro zz; refine Keeps.cut (s := s) (t := zz) ?_ (fun hz => ?_); unfold zz)
    | (intro zz; subst zz)
    | lift_lets -underBinder
    | with_reducible first | apply State.setRxStream_keeps | apply State.fset_keeps | apply Keeps.ite
    | split

theorem State.deliverRtp_keeps {s u : State} (h : Keeps s u) (i : Nat) (frames : List (List Int)) : Keeps s (State.deliverRtp u i frames) := by
  unfold State.deliverRtp
  repeat' first
    | with_reducible assumption
    | (intro zz; refine Keeps.cut (s := s) (t := zz) ?_ (fun hz => ?_); unfold zz)
    | (intro zz; subst zz)
    | lift_lets -underBinder
    | with_reducible first | apply State.setTxStream_keeps | apply Keeps.ite
    | split

theorem State.emitFrame_keeps {s u : State} (h : Keeps s u) (l : Nat) (bs : List Nat) : Keeps s (State.emitFrame u l bs) := by
  unfold State.emitFrame
  repeat' first
    | with_reducible assumption
    | (intro zz; refine Keeps.cut (s := s) (t := zz) ?_ (fun hz => ?_); unfold zz)
    | (intro zz; subst zz)
    | lift_lets -underBinder
    | with_reducible first | apply State.queueBlocks_keeps | apply State.setLane_keeps
    | split

theorem State.launchRtp_keeps {s u : State} (h : Keeps s u) (stream : Nat) : Keeps s (State.launchRtp u stream) := by
  unfold State.launchRtp
  repeat' first
    | with_reducible assumption
    | (intro zz; refine Keeps.cut (s := s) (t := zz) ?_ (fun hz => ?_); unfold zz)
    | (intro zz; refine Keeps.cut (s := s) (t := zz.2) ?_ (fun hz => ?_); unfold zz; rotate_left; (try clear_value zz); rotate_right)
    | (intro zz; refine Keeps.cut (s := s) (t := zz.1) ?_ (fun hz => ?_); unfold zz; rotate_left; (try clear_value zz); rotate_right)
    | (intro zz; refine Keeps.cut (s := s) (t := zz.2.2) ?_ (fun hz => ?_); unfold zz; rotate_left; (try clear_value zz); rotate_right)
    | (intro zz; subst zz)
    | lift_lets -underBinder
    | with_reducible first | apply State.emitFrame_keeps | apply State.setTxStream_keeps | apply State.draw_keeps | apply State.bump_keeps | apply State.count_keeps | apply Keeps.ite | apply Keeps.ite_snd | apply Keeps.ite_fst | refine forEach_keeps ?_ _ _ (fun _ _ _ => ?_)
    | split
    | ((fail_if_success (with_reducible refine Keeps.set_jtag ?_ _)); (with_reducible refine Keeps.set_lanes ?_ _ ?_); rotate_left; first | exact fun hc => Tbl.wf_const _ _ _ _ (State.canonical_lanes hc) | exact fun _ => Tbl.wf_nil _ | exact fun hc => Tbl.wf_mapVals _ _ _ (State.canonical_lanes hc))

theorem execRtpRxEntryWrite_keeps {s u : State} (h : Keeps s u) (stream : Nat) (word : Nat) (value : W32) : ∀ t, execRtpRxEntryWrite stream word value u = .next t → Keeps s t := by
  intro t ht
  unfold execRtpRxEntryWrite at ht
  obtain rfl := Host.Outcome.next.inj ht
  repeat' first
    | with_reducible assumption
    | (intro zz; refine Keeps.cut (s := s) (t := zz) ?_ (fun hz => ?_); unfold zz)
    | (intro zz; subst zz)
    | lift_lets -underBinder
    | with_reducible first | apply State.setRxStream_keeps | apply State.writePlain_keeps | apply State.fset_keeps | apply Keeps.ite
    | split

theorem execRtpTxEntryWrite_keeps {s u : State} (h : Keeps s u) (stream : Nat) (word : Nat) (value : W32) : ∀ t, execRtpTxEntryWrite stream word value u = .next t → Keeps s t := by
  intro t ht
  unfold execRtpTxEntryWrite at ht
  obtain rfl := Host.Outcome.next.inj ht
  repeat' first
    | with_reducible assumption
    | (intro zz; refine Keeps.cut (s := s) (t := zz) ?_ (fun hz => ?_); unfold zz)
    | (intro zz; subst zz)
    | lift_lets -underBinder
    | with_reducible first | apply State.setTxStream_keeps | apply State.writePlain_keeps | apply State.fset_keeps | apply Keeps.ite
    | split

end Sys2Proof.Machine
end

