-- ==== Sys2Proof/Laws/Keeps/Eth.lean ====
section
/-! SUPPORT. What the operations of Machine/Eth.lean keep. -/

namespace Sys2Proof.Machine

open Sys2Proof.Arith

set_option linter.unreachableTactic false
set_option linter.unusedTactic false
set_option linter.unusedVariables false
set_option linter.unusedSimpArgs false

theorem State.frameToHost_keeps {s u : State} (h : Keeps s u) (l : Nat) (t' : Int) (data : List Nat) : Keeps s (State.frameToHost u l t' data) := by
  unfold State.frameToHost
  repeat' first
    | with_reducible assumption
    | with_reducible first | apply State.publish_keeps | apply State.bump_keeps | apply Keeps.ite
    | split

theorem State.frameDone_keeps {s u : State} (h : Keeps s u) (e : SendEntry) (code : Nat) (t' : Int) : Keeps s (State.frameDone u e code t') := by
  unfold State.frameDone
  repeat' first
    | with_reducible assumption
    | (intro zz; refine Keeps.cut (s := s) (t := zz) ?_ (fun hz => ?_); unfold zz)
    | (intro zz; refine Keeps.cut (s := s) (t := zz.2) ?_ (fun hz => ?_); unfold zz; rotate_left; (try clear_value zz); rotate_right)
    | (intro zz; refine Keeps.cut (s := s) (t := zz.1) ?_ (fun hz => ?_); unfold zz; rotate_left; (try clear_value zz); rotate_right)
    | (intro zz; refine Keeps.cut (s := s) (t := zz.2.2) ?_ (fun hz => ?_); unfold zz; rotate_left; (try clear_value zz); rotate_right)
    | (intro zz; subst zz)
    | lift_lets -underBinder
    | with_reducible first | apply State.complete_keeps | apply Keeps.ite | apply Keeps.ite_snd | apply Keeps.ite_fst
    | split

theorem State.sendNow_keeps {s u : State} (h : Keeps s u) (e : SendEntry) (at_ : Nat) : Keeps s (State.sendNow u e at_) := by
  unfold State.sendNow
  repeat' first
    | with_reducible assumption
    | (intro zz; refine Keeps.cut (s := s) (t := zz) ?_ (fun hz => ?_); unfold zz)
    | (intro zz; subst zz)
    | lift_lets -underBinder
    | with_reducible first | apply State.frameDone_keeps | apply State.emitFrame_keeps | apply State.bump_keeps | apply Keeps.ite
    | split

theorem State.sendFrame_keeps {s u : State} (h : Keeps s u) (e : SendEntry) (at_ : Nat) : Keeps s (State.sendFrame u e at_) := by
  unfold State.sendFrame
  repeat' first
    | with_reducible assumption
    | (intro zz; refine Keeps.cut (s := s) (t := zz) ?_ (fun hz => ?_); unfold zz)
    | (intro zz; subst zz)
    | lift_lets -underBinder
    | with_reducible first | apply State.sendNow_keeps | apply State.setLane_keeps | apply Keeps.ite
    | split

theorem State.flushWait_keeps {s u : State} (h : Keeps s u) (l : Nat) : Keeps s (State.flushWait u l) := by
  unfold State.flushWait
  repeat' first
    | with_reducible assumption
    | (intro zz; refine Keeps.cut (s := s) (t := zz) ?_ (fun hz => ?_); unfold zz)
    | (intro zz; refine Keeps.cut (s := s) (t := zz.2) ?_ (fun hz => ?_); unfold zz; rotate_left; (try clear_value zz); rotate_right)
    | (intro zz; refine Keeps.cut (s := s) (t := zz.1) ?_ (fun hz => ?_); unfold zz; rotate_left; (try clear_value zz); rotate_right)
    | (intro zz; refine Keeps.cut (s := s) (t := zz.2.2) ?_ (fun hz => ?_); unfold zz; rotate_left; (try clear_value zz); rotate_right)
    | (intro zz; subst zz)
    | lift_lets -underBinder
    | with_reducible first | apply State.sendNow_keeps | apply State.setLane_keeps | apply State.draw_keeps | apply Keeps.ite | apply Keeps.ite_snd | apply Keeps.ite_fst | refine forEach_keeps ?_ _ _ (fun _ _ _ => ?_)
    | split

theorem execRtpPacketLaunch_keeps {s u : State} (h : Keeps s u) (stream : Nat) : ∀ t, execRtpPacketLaunch stream u = .next t → Keeps s t := by
  intro t ht
  unfold execRtpPacketLaunch at ht
  obtain rfl := Host.Outcome.next.inj ht
  repeat' first
    | with_reducible assumption
    | with_reducible first | apply State.flushWait_keeps | apply State.launchRtp_keeps | apply Keeps.ite | refine forEach_keeps ?_ _ _ (fun _ _ _ => ?_)
    | split

theorem State.stamp_keeps {s u : State} (h : Keeps s u) (x : PtpStamp) : Keeps s (State.stamp u x) := by
  unfold State.stamp
  repeat' first
    | with_reducible assumption
    | (intro zz; refine Keeps.cut (s := s) (t := zz) ?_ (fun hz => ?_); unfold zz)
    | (intro zz; subst zz)
    | lift_lets -underBinder
    | split
    | ((fail_if_success (with_reducible refine Keeps.set_jtag ?_ _)); (with_reducible refine Keeps.set_tim ?_ _ ?_); rotate_left; first | (intro hc; have q := State.canonical_tim hc; simp only [TimSt.canonical, Bool.and_eq_true] at q ⊢; simp only [q, Tbl.wf_const, Tbl.wf_nil, List.all_nil, and_self]) | exact fun _ => by decide)

theorem execEthFrameReceived_keeps {s u : State} (h : Keeps s u) (lane : Nat) (bytes : List Nat) (at_ : Nat) : ∀ t, execEthFrameReceived lane bytes at_ u = .next t → Keeps s t := by
  intro t ht
  unfold execEthFrameReceived at ht
  obtain rfl := Host.Outcome.next.inj ht
  repeat' first
    | with_reducible assumption
    | (intro zz; refine Keeps.cut (s := s) (t := zz) ?_ (fun hz => ?_); unfold zz)
    | (intro zz; refine Keeps.cut (s := s) (t := zz.2) ?_ (fun hz => ?_); unfold zz; rotate_left; (try clear_value zz); rotate_right)
    | (intro zz; refine Keeps.cut (s := s) (t := zz.1) ?_ (fun hz => ?_); unfold zz; rotate_left; (try clear_value zz); rotate_right)
    | (intro zz; refine Keeps.cut (s := s) (t := zz.2.2) ?_ (fun hz => ?_); unfold zz; rotate_left; (try clear_value zz); rotate_right)
    | (intro zz; subst zz)
    | lift_lets -underBinder
    | with_reducible first | apply State.stamp_keeps | apply State.frameToHost_keeps | apply State.rtpAccept_keeps | apply State.bump_keeps | apply Keeps.ite | apply Keeps.ite_fst
    | split

theorem execPtpEventMessage_keeps {s u : State} (h : Keeps s u) (lane : Nat) (tx : Bool) (kind : Nat) (domain : Nat) (seq : Nat) (at_ : Nat) (offset : Option Int) : ∀ t, execPtpEventMessage lane tx kind domain seq at_ offset u = .next t → Keeps s t := by
  intro t ht
  unfold execPtpEventMessage at ht
  obtain rfl := Host.Outcome.next.inj ht
  repeat' first
    | with_reducible assumption
    | (intro zz; refine Keeps.cut (s := s) (t := zz) ?_ (fun hz => ?_); unfold zz)
    | (intro zz; subst zz)
    | lift_lets -underBinder
    | with_reducible first | apply State.stamp_keeps | apply State.fwServo_keeps | apply State.bump_keeps | apply Keeps.ite
    | split

theorem State.queueBulk_keeps {s u : State} (h : Keeps s u) (p : Nat) (e : SendEntry) : Keeps s (State.queueBulk u p e) := by
  unfold State.queueBulk
  repeat' first
    | with_reducible assumption
    | (intro zz; refine Keeps.cut (s := s) (t := zz) ?_ (fun hz => ?_); unfold zz)
    | (intro zz; subst zz)
    | lift_lets -underBinder
    | with_reducible first | apply State.setLinkPort_keeps
    | split
    | ((fail_if_success (with_reducible refine Keeps.set_jtag ?_ _)); (with_reducible refine Keeps.set_link ?_ _ ?_); rotate_left; first | (intro hc; have q := State.canonical_link hc; simp only [Link.canonical, Bool.and_eq_true] at q ⊢; simp only [q, Tbl.wf_const, Tbl.wf_nil, List.all_nil, and_self]) | exact fun _ => by decide)
    | ((fail_if_success (with_reducible refine Keeps.set_jtag ?_ _)); (with_reducible refine Keeps.set_bulk ?_ _ ?_); rotate_left; first | exact fun _ => Tbl.wf_nil _)

theorem execFrameSend_keeps {s u : State} (h : Keeps s u) (readOk : Bool) (at_ : Nat) : ∀ t, execFrameSend readOk at_ u = .next t → Keeps s t := by
  intro t ht
  unfold execFrameSend at ht
  obtain rfl := Host.Outcome.next.inj ht
  repeat' first
    | with_reducible assumption
    | (intro zz; refine Keeps.cut (s := s) (t := zz) ?_ (fun hz => ?_); unfold zz)
    | (intro zz; subst zz)
    | lift_lets -underBinder
    | with_reducible first | apply State.queueBulk_keeps | apply State.sendFrame_keeps | apply State.frameDone_keeps | apply State.consumed_keeps | apply Keeps.ite
    | split
    | ((fail_if_success (with_reducible refine Keeps.set_jtag ?_ _)); (with_reducible refine Keeps.set_tim ?_ _ ?_); rotate_left; first | (intro hc; have q := State.canonical_tim hc; simp only [TimSt.canonical, Bool.and_eq_true] at q ⊢; simp only [q, Tbl.wf_const, Tbl.wf_nil, List.all_nil, and_self]) | exact fun _ => by decide)

theorem execTimedFrameLaunch_keeps {s u : State} (h : Keeps s u) (lane : Nat) (at_ : Nat) : ∀ t, execTimedFrameLaunch lane at_ u = .next t → Keeps s t := by
  intro t ht
  unfold execTimedFrameLaunch at ht
  obtain rfl := Host.Outcome.next.inj ht
  repeat' first
    | with_reducible assumption
    | (intro zz; refine Keeps.cut (s := s) (t := zz) ?_ (fun hz => ?_); unfold zz)
    | (intro zz; subst zz)
    | lift_lets -underBinder
    | with_reducible first | apply State.sendFrame_keeps | apply State.frameDone_keeps | apply State.bump_keeps | apply Keeps.ite
    | split
    | ((fail_if_success (with_reducible refine Keeps.set_jtag ?_ _)); (with_reducible refine Keeps.set_tim ?_ _ ?_); rotate_left; first | (intro hc; have q := State.canonical_tim hc; simp only [TimSt.canonical, Bool.and_eq_true] at q ⊢; simp only [q, Tbl.wf_const, Tbl.wf_nil, List.all_nil, and_self]) | exact fun _ => by decide)

end Sys2Proof.Machine
end

