-- ==== Sys2Proof/Laws/Keeps/Link.lean ====
section
/-! SUPPORT. What the operations of Machine/Link.lean keep. -/

namespace Sys2Proof.Machine

open Sys2Proof.Arith

set_option linter.unreachableTactic false
set_option linter.unusedTactic false
set_option linter.unusedVariables false
set_option linter.unusedSimpArgs false

theorem State.setParts_keeps {s u : State} (h : Keeps s u) (east : Bool) (l : List SpanPart) : Keeps s (State.setParts u east l) := by
  unfold State.setParts
  repeat' first
    | with_reducible assumption
    | (intro zz; refine Keeps.cut (s := s) (t := zz) ?_ (fun hz => ?_); unfold zz)
    | (intro zz; subst zz)
    | lift_lets -underBinder
    | with_reducible first | apply Keeps.ite
    | split
    | ((fail_if_success (with_reducible refine Keeps.set_jtag ?_ _)); (with_reducible refine Keeps.set_link ?_ _ ?_); rotate_left; first | (intro hc; have q := State.canonical_link hc; simp only [Link.canonical, Bool.and_eq_true] at q ⊢; simp only [q, Tbl.wf_const, Tbl.wf_nil, List.all_nil, and_self]) | exact fun _ => by decide)

theorem State.linkCount_keeps {s u : State} (h : Keeps s u) (off : Nat) (n : Nat) : Keeps s (State.linkCount u off n) := by
  unfold State.linkCount
  repeat' first
    | with_reducible assumption
    | with_reducible first | apply State.count_keeps
    | split

theorem State.closeFrame_keeps {s u : State} (h : Keeps s u) (p : Nat) : Keeps s (State.closeFrame u p) := by
  unfold State.closeFrame
  repeat' first
    | with_reducible assumption
    | (intro zz; refine Keeps.cut (s := s) (t := zz) ?_ (fun hz => ?_); unfold zz)
    | (intro zz; subst zz)
    | lift_lets -underBinder
    | with_reducible first | apply State.queueBlocks_keeps | apply State.setLinkPort_keeps | apply Keeps.ite | refine forEach_keeps ?_ _ _ (fun _ _ _ => ?_)
    | split

theorem State.lostRelay_keeps {s u : State} (h : Keeps s u) (p : Nat) (x : Sect) : Keeps s (State.lostRelay u p x) := by
  unfold State.lostRelay
  repeat' first
    | with_reducible assumption
    | with_reducible first | apply State.linkCount_keeps | apply Keeps.ite
    | split

theorem State.relay_keeps {s u : State} (h : Keeps s u) (p : Nat) (q : Nat) (u' : Nat) (x : Sect) : Keeps s (State.relay u p q u' x) := by
  unfold State.relay
  repeat' first
    | with_reducible assumption
    | (intro zz; refine Keeps.cut (s := s) (t := zz) ?_ (fun hz => ?_); unfold zz)
    | (intro zz; refine Keeps.cut (s := s) (t := zz.2) ?_ (fun hz => ?_); unfold zz; rotate_left; (try clear_value zz); rotate_right)
    | (intro zz; refine Keeps.cut (s := s) (t := zz.1) ?_ (fun hz => ?_); unfold zz; rotate_left; (try clear_value zz); rotate_right)
    | (intro zz; refine Keeps.cut (s := s) (t := zz.2.2) ?_ (fun hz => ?_); unfold zz; rotate_left; (try clear_value zz); rotate_right)
    | (intro zz; subst zz)
    | lift_lets -underBinder
    | with_reducible first | apply State.lostRelay_keeps | apply State.linkCount_keeps | apply State.setLinkPort_keeps | apply Keeps.ite | apply Keeps.ite_snd | apply Keeps.ite_fst
    | split

theorem State.relayNext_keeps {s u : State} (h : Keeps s u) (q : Nat) (x : Sect) : Keeps s (State.relayNext u q x) := by
  unfold State.relayNext
  repeat' first
    | with_reducible assumption
    | (intro zz; refine Keeps.cut (s := s) (t := zz) ?_ (fun hz => ?_); unfold zz)
    | (intro zz; subst zz)
    | lift_lets -underBinder
    | with_reducible first | apply State.setLinkPort_keeps
    | split

theorem State.freeCredits_keeps {s u : State} (h : Keeps s u) (p : Nat) (x : Sect) : Keeps s (State.freeCredits u p x) := by
  unfold State.freeCredits
  repeat' first
    | with_reducible assumption
    | (intro zz; refine Keeps.cut (s := s) (t := zz) ?_ (fun hz => ?_); unfold zz)
    | (intro zz; subst zz)
    | lift_lets -underBinder
    | with_reducible first | apply State.setLinkPort_keeps
    | split

theorem State.forwardOn_keeps {s u : State} (h : Keeps s u) (p : Nat) (q : Nat) (u' : Nat) (x : Sect) : Keeps s (State.forwardOn u p q u' x) := by
  unfold State.forwardOn
  repeat' first
    | with_reducible assumption
    | (intro zz; refine Keeps.cut (s := s) (t := zz) ?_ (fun hz => ?_); unfold zz)
    | (intro zz; subst zz)
    | lift_lets -underBinder
    | with_reducible first | apply State.relayNext_keeps | apply State.relay_keeps | apply State.setLinkPort_keeps | apply Keeps.ite
    | split
    | ((fail_if_success (with_reducible refine Keeps.set_jtag ?_ _)); (with_reducible refine Keeps.set_bulk ?_ _ ?_); rotate_left; first | exact fun _ => Tbl.wf_nil _)

theorem State.noRoute_keeps {s u : State} (h : Keeps s u) (p : Nat) (x : Sect) : Keeps s (State.noRoute u p x) := by
  unfold State.noRoute
  repeat' first
    | with_reducible assumption
    | (intro zz; refine Keeps.cut (s := s) (t := zz) ?_ (fun hz => ?_); unfold zz)
    | (intro zz; subst zz)
    | lift_lets -underBinder
    | with_reducible first | apply State.freeCredits_keeps | apply State.linkCount_keeps | apply Keeps.ite
    | split

theorem State.takeAudio_keeps {s u : State} (h : Keeps s u) (p : Nat) (u' : Nat) (x : Sect) : Keeps s (State.takeAudio u p u' x) := by
  unfold State.takeAudio
  repeat' first
    | with_reducible assumption
    | (intro zz; refine Keeps.cut (s := s) (t := zz) ?_ (fun hz => ?_); unfold zz)
    | (intro zz; refine Keeps.cut (s := s) (t := zz.2) ?_ (fun hz => ?_); unfold zz; rotate_left; (try clear_value zz); rotate_right)
    | (intro zz; refine Keeps.cut (s := s) (t := zz.1) ?_ (fun hz => ?_); unfold zz; rotate_left; (try clear_value zz); rotate_right)
    | (intro zz; refine Keeps.cut (s := s) (t := zz.2.2) ?_ (fun hz => ?_); unfold zz; rotate_left; (try clear_value zz); rotate_right)
    | (intro zz; subst zz)
    | lift_lets -underBinder
    | with_reducible first | apply State.bump_keeps | apply Keeps.ite | apply Keeps.ite_fst | refine forEach_keeps ?_ _ _ (fun _ _ _ => ?_)
    | split
    | ((fail_if_success (with_reducible refine Keeps.set_jtag ?_ _)); (with_reducible refine Keeps.set_link ?_ _ ?_); rotate_left; first | (intro hc; have q := State.canonical_link hc; simp only [Link.canonical, Bool.and_eq_true] at q ⊢; simp only [q, Tbl.wf_const, Tbl.wf_nil, List.all_nil, and_self]) | exact fun _ => by decide)

theorem State.take_keeps {s u : State} (h : Keeps s u) (t' : Taken) : Keeps s (State.take u t') := by
  unfold State.take
  repeat' first
    | with_reducible assumption
    | (intro zz; refine Keeps.cut (s := s) (t := zz) ?_ (fun hz => ?_); unfold zz)
    | (intro zz; subst zz)
    | lift_lets -underBinder
    | with_reducible first | apply State.takeAudio_keeps | apply Keeps.ite
    | split
    | ((fail_if_success (with_reducible refine Keeps.set_jtag ?_ _)); (with_reducible refine Keeps.set_link ?_ _ ?_); rotate_left; first | (intro hc; have q := State.canonical_link hc; simp only [Link.canonical, Bool.and_eq_true] at q ⊢; simp only [q, Tbl.wf_const, Tbl.wf_nil, List.all_nil, and_self]) | exact fun _ => by decide)

theorem State.addPart_keeps {s u : State} (h : Keeps s u) (east : Bool) (x : SpanPart) : Keeps s (State.addPart u east x) := by
  unfold State.addPart
  repeat' first
    | with_reducible assumption
    | with_reducible first | apply State.setParts_keeps
    | split

theorem State.takeChain_keeps {s u : State} (h : Keeps s u) (p : Nat) (u' : Nat) (x : Sect) (late : Bool) : Keeps s (State.takeChain u p u' x late) := by
  unfold State.takeChain
  repeat' first
    | with_reducible assumption
    | (intro zz; refine Keeps.cut (s := s) (t := zz) ?_ (fun hz => ?_); unfold zz)
    | (intro zz; refine Keeps.cut (s := s) (t := zz.2) ?_ (fun hz => ?_); unfold zz; rotate_left; (try clear_value zz); rotate_right)
    | (intro zz; refine Keeps.cut (s := s) (t := zz.1) ?_ (fun hz => ?_); unfold zz; rotate_left; (try clear_value zz); rotate_right)
    | (intro zz; refine Keeps.cut (s := s) (t := zz.2.2) ?_ (fun hz => ?_); unfold zz; rotate_left; (try clear_value zz); rotate_right)
    | (intro zz; subst zz)
    | lift_lets -underBinder
    | with_reducible first | apply State.addPart_keeps | apply State.relay_keeps | apply State.linkCount_keeps | apply State.setParts_keeps | apply State.setLinkPort_keeps | apply Keeps.ite | apply Keeps.ite_snd | apply Keeps.ite_fst
    | split

theorem State.routeOn_keeps {s u : State} (h : Keeps s u) (p : Nat) (u' : Nat) (x : Sect) : Keeps s (State.routeOn u p u' x) := by
  unfold State.routeOn
  repeat' first
    | with_reducible assumption
    | with_reducible first | apply State.noRoute_keeps | apply State.forwardOn_keeps | apply Keeps.ite
    | split
    | dsimp only

theorem State.dispatchSect_keeps {s u : State} (h : Keeps s u) (t' : Taken) (late : Bool) : Keeps s (State.dispatchSect u t' late) := by
  unfold State.dispatchSect
  repeat' first
    | with_reducible assumption
    | (intro zz; refine Keeps.cut (s := s) (t := zz) ?_ (fun hz => ?_); unfold zz)
    | (intro zz; subst zz)
    | lift_lets -underBinder
    | with_reducible first | apply State.routeOn_keeps | apply State.takeChain_keeps | apply State.take_keeps | apply State.noRoute_keeps | apply State.forwardOn_keeps | apply State.setLinkPort_keeps | apply Keeps.ite
    | split

theorem State.takeHeader_keeps {s u : State} (h : Keeps s u) (lane : Nat) (fr : RxFrame) : Keeps s (State.takeHeader u lane fr) := by
  unfold State.takeHeader
  repeat' first
    | with_reducible assumption
    | (intro zz; refine Keeps.cut (s := s) (t := zz) ?_ (fun hz => ?_); unfold zz)
    | (intro zz; subst zz)
    | lift_lets -underBinder
    | with_reducible first | apply State.take_keeps | apply State.linkCount_keeps | apply State.laneError_keeps | apply State.seeAddress_keeps | apply State.peerChanged_keeps | apply State.setLinkSt_keeps | apply State.setLinkPort_keeps | apply State.setLinkLane_keeps | apply State.consumed_keeps | apply State.setReg_keeps | apply Keeps.ite
    | split
    | ((fail_if_success (with_reducible refine Keeps.set_jtag ?_ _)); (with_reducible refine Keeps.set_tim ?_ _ ?_); rotate_left; first | (intro hc; have q := State.canonical_tim hc; simp only [TimSt.canonical, Bool.and_eq_true] at q ⊢; simp only [q, Tbl.wf_const, Tbl.wf_nil, List.all_nil, and_self]) | exact fun _ => by decide)

theorem State.queueFrame_keeps {s u : State} (h : Keeps s u) (lane : Nat) (fr : RxFrame) : Keeps s (State.queueFrame u lane fr) := by
  unfold State.queueFrame
  repeat' first
    | with_reducible assumption
    | (intro zz; refine Keeps.cut (s := s) (t := zz) ?_ (fun hz => ?_); unfold zz)
    | (intro zz; subst zz)
    | lift_lets -underBinder
    | with_reducible first | apply State.linkCount_keeps | apply State.setLinkLane_keeps | apply Keeps.ite
    | split

theorem execThetexFrameReceived_keeps {s u : State} (h : Keeps s u) (lane : Nat) (bytes : List Nat) (cycle : Nat) (at_ : Nat) : ∀ t, execThetexFrameReceived lane bytes cycle at_ u = .next t → Keeps s t := by
  intro t ht
  unfold execThetexFrameReceived at ht
  obtain rfl := Host.Outcome.next.inj ht
  repeat' first
    | with_reducible assumption
    | (intro zz; refine Keeps.cut (s := s) (t := zz) ?_ (fun hz => ?_); unfold zz)
    | (intro zz; subst zz)
    | lift_lets -underBinder
    | with_reducible first | apply State.queueFrame_keeps | apply State.takeHeader_keeps | apply Keeps.ite
    | split

theorem State.takeSection_keeps {s u : State} (h : Keeps s u) (lane : Nat) (bytes : List Nat) (errored : Bool) : Keeps s (State.takeSection u lane bytes errored) := by
  unfold State.takeSection
  repeat' first
    | with_reducible assumption
    | (intro zz; refine Keeps.cut (s := s) (t := zz) ?_ (fun hz => ?_); unfold zz)
    | (intro zz; refine Keeps.cut (s := s) (t := zz.2) ?_ (fun hz => ?_); unfold zz; rotate_left; (try clear_value zz); rotate_right)
    | (intro zz; refine Keeps.cut (s := s) (t := zz.1) ?_ (fun hz => ?_); unfold zz; rotate_left; (try clear_value zz); rotate_right)
    | (intro zz; refine Keeps.cut (s := s) (t := zz.2.2) ?_ (fun hz => ?_); unfold zz; rotate_left; (try clear_value zz); rotate_right)
    | (intro zz; subst zz)
    | lift_lets -underBinder
    | with_reducible first | apply State.dispatchSect_keeps | apply State.linkCount_keeps | apply State.laneError_keeps | apply State.setLinkPort_keeps | apply State.setLinkLane_keeps | apply Keeps.ite | apply Keeps.ite_snd | apply Keeps.ite_fst
    | split

theorem execSectionReceived_keeps {s u : State} (h : Keeps s u) (lane : Nat) (bytes : List Nat) (errored : Bool) : ∀ t, execSectionReceived lane bytes errored u = .next t → Keeps s t := by
  intro t ht
  unfold execSectionReceived at ht
  obtain rfl := Host.Outcome.next.inj ht
  repeat' first
    | with_reducible assumption
    | (intro zz; refine Keeps.cut (s := s) (t := zz) ?_ (fun hz => ?_); unfold zz)
    | (intro zz; subst zz)
    | lift_lets -underBinder
    | with_reducible first | apply State.takeSection_keeps | apply State.setLinkLane_keeps | apply Keeps.ite
    | split

theorem execSecondCopyTimeout_keeps {s u : State} (h : Keeps s u) (port : Nat) : ∀ t, execSecondCopyTimeout port u = .next t → Keeps s t := by
  intro t ht
  unfold execSecondCopyTimeout at ht
  obtain rfl := Host.Outcome.next.inj ht
  repeat' first
    | with_reducible assumption
    | (intro zz; refine Keeps.cut (s := s) (t := zz) ?_ (fun hz => ?_); unfold zz)
    | (intro zz; subst zz)
    | lift_lets -underBinder
    | with_reducible first | apply State.setLinkPort_keeps | apply Keeps.ite
    | split

theorem State.timeSects_keeps {s u : State} (h : Keeps s u) (p : Nat) (u' : Nat) (at_ : Nat) (n : Nat) : Keeps s (State.timeSects u p u' at_ n).2 := by
  unfold State.timeSects
  repeat' first
    | with_reducible assumption
    | (intro zz; refine Keeps.cut (s := s) (t := zz) ?_ (fun hz => ?_); unfold zz)
    | (intro zz; refine Keeps.cut (s := s) (t := zz.2) ?_ (fun hz => ?_); unfold zz; rotate_left; (try clear_value zz); rotate_right)
    | (intro zz; refine Keeps.cut (s := s) (t := zz.1) ?_ (fun hz => ?_); unfold zz; rotate_left; (try clear_value zz); rotate_right)
    | (intro zz; refine Keeps.cut (s := s) (t := zz.2.2) ?_ (fun hz => ?_); unfold zz; rotate_left; (try clear_value zz); rotate_right)
    | (intro zz; subst zz)
    | lift_lets -underBinder
    | with_reducible first | apply State.stamp_keeps | apply State.setTsc_keeps | apply Keeps.ite | apply Keeps.ite_snd | apply Keeps.ite_fst
    | split

theorem State.releaseScheduled_keeps {s u : State} (h : Keeps s u) (p : Nat) (at_ : Nat) : Keeps s (State.releaseScheduled u p at_) := by
  unfold State.releaseScheduled
  repeat' first
    | with_reducible assumption
    | (intro zz; refine Keeps.cut (s := s) (t := zz) ?_ (fun hz => ?_); unfold zz)
    | (intro zz; subst zz)
    | lift_lets -underBinder
    | with_reducible first | apply State.queueBulk_keeps | apply State.frameDone_keeps | apply State.bump_keeps | apply Keeps.ite | refine forEach_keeps ?_ _ _ (fun _ _ _ => ?_)
    | split
    | ((fail_if_success (with_reducible refine Keeps.set_jtag ?_ _)); (with_reducible refine Keeps.set_tim ?_ _ ?_); rotate_left; first | (intro hc; have q := State.canonical_tim hc; simp only [TimSt.canonical, Bool.and_eq_true] at q ⊢; simp only [q, Tbl.wf_const, Tbl.wf_nil, List.all_nil, and_self]) | exact fun _ => by decide)

theorem State.buildFrame_keeps {s u : State} (h : Keeps s u) (p : Nat) (u' : Nat) (cycle : Nat) (spans : List Sect) (solo : Bool) (wait : Bool) : Keeps s (State.buildFrame u p u' cycle spans solo wait) := by
  unfold State.buildFrame
  repeat' first
    | with_reducible assumption
    | (intro zz; refine Keeps.cut (s := s) (t := zz) ?_ (fun hz => ?_); unfold zz)
    | (intro zz; refine Keeps.cut (s := s) (t := zz.2) ?_ (fun hz => ?_); unfold zz; rotate_left; (try clear_value zz); rotate_right)
    | (intro zz; refine Keeps.cut (s := s) (t := zz.1) ?_ (fun hz => ?_); unfold zz; rotate_left; (try clear_value zz); rotate_right)
    | (intro zz; refine Keeps.cut (s := s) (t := zz.2.2) ?_ (fun hz => ?_); unfold zz; rotate_left; (try clear_value zz); rotate_right)
    | (intro zz; subst zz)
    | lift_lets -underBinder
    | with_reducible first | apply State.releaseScheduled_keeps | apply State.timeSects_keeps | apply State.closeFrame_keeps | apply State.linkCount_keeps | apply State.setLinkPort_keeps | apply Keeps.ite | apply Keeps.ite_snd | apply Keeps.ite_fst
    | split

theorem execThetexFrameSend_keeps {s u : State} (h : Keeps s u) (port : Nat) : ∀ t, execThetexFrameSend port u = .next t → Keeps s t := by
  intro t ht
  unfold execThetexFrameSend at ht
  obtain rfl := Host.Outcome.next.inj ht
  repeat' first
    | with_reducible assumption
    | (intro zz; refine Keeps.cut (s := s) (t := zz) ?_ (fun hz => ?_); unfold zz)
    | (intro zz; subst zz)
    | lift_lets -underBinder
    | with_reducible first | apply State.buildFrame_keeps | apply Keeps.ite
    | split

theorem execRelayFrameLaunch_keeps {s u : State} (h : Keeps s u) (port : Nat) : ∀ t, execRelayFrameLaunch port u = .next t → Keeps s t := by
  intro t ht
  unfold execRelayFrameLaunch at ht
  obtain rfl := Host.Outcome.next.inj ht
  repeat' first
    | with_reducible assumption
    | (intro zz; refine Keeps.cut (s := s) (t := zz) ?_ (fun hz => ?_); unfold zz)
    | (intro zz; subst zz)
    | lift_lets -underBinder
    | with_reducible first | apply State.buildFrame_keeps | apply Keeps.ite
    | split

theorem execRelayFrameTimeout_keeps {s u : State} (h : Keeps s u) (port : Nat) : ∀ t, execRelayFrameTimeout port u = .next t → Keeps s t := by
  intro t ht
  unfold execRelayFrameTimeout at ht
  obtain rfl := Host.Outcome.next.inj ht
  repeat' first
    | with_reducible assumption
    | (intro zz; refine Keeps.cut (s := s) (t := zz) ?_ (fun hz => ?_); unfold zz)
    | (intro zz; subst zz)
    | lift_lets -underBinder
    | with_reducible first | apply State.buildFrame_keeps | apply Keeps.ite
    | split

theorem execBulkSectionSend_keeps {s u : State} (h : Keeps s u) (port : Nat) : ∀ t, execBulkSectionSend port u = .next t → Keeps s t := by
  intro t ht
  unfold execBulkSectionSend at ht
  obtain rfl := Host.Outcome.next.inj ht
  repeat' first
    | with_reducible assumption
    | (intro zz; refine Keeps.cut (s := s) (t := zz) ?_ (fun hz => ?_); unfold zz)
    | (intro zz; subst zz)
    | lift_lets -underBinder
    | with_reducible first | apply State.freeCredits_keeps | apply State.relayNext_keeps | apply State.setLinkPort_keeps | apply State.consumed_keeps | apply Keeps.ite
    | split
    | ((fail_if_success (with_reducible refine Keeps.set_jtag ?_ _)); (with_reducible refine Keeps.set_bulk ?_ _ ?_); rotate_left; first | exact fun _ => Tbl.wf_nil _)

theorem State.loaderStore_keeps {s u : State} (h : Keeps s u) (t' : Taken) : Keeps s (State.loaderStore u t') := by
  unfold State.loaderStore
  repeat' first
    | with_reducible assumption
    | (intro zz; refine Keeps.cut (s := s) (t := zz) ?_ (fun hz => ?_); unfold zz)
    | (intro zz; subst zz)
    | lift_lets -underBinder
    | with_reducible first | apply State.take_keeps | apply State.setStallBytes_keeps | apply Keeps.ite
    | split
    | ((fail_if_success (with_reducible refine Keeps.set_jtag ?_ _)); (with_reducible refine Keeps.set_hif ?_ _ ?_); rotate_left; first | (intro hc; have q := State.canonical_hif hc; simp only [Hif.canonical, Bool.and_eq_true] at q ⊢; simp only [q, Tbl.wf_const, Tbl.wf_nil, List.all_nil, and_self]) | exact fun _ => by decide)

theorem State.deliverBulkOnce_keeps {s u : State} (h : Keeps s u)  : Keeps s (State.deliverBulkOnce u) := by
  unfold State.deliverBulkOnce
  repeat' first
    | with_reducible assumption
    | (intro zz; refine Keeps.cut (s := s) (t := zz) ?_ (fun hz => ?_); unfold zz)
    | (intro zz; subst zz)
    | lift_lets -underBinder
    | with_reducible first | apply State.loaderStore_keeps | apply State.freeCredits_keeps | apply State.publish_keeps | apply Keeps.ite | refine forEach_keeps ?_ _ _ (fun _ _ _ => ?_)
    | split
    | ((fail_if_success (with_reducible refine Keeps.set_jtag ?_ _)); (with_reducible refine Keeps.set_link ?_ _ ?_); rotate_left; first | (intro hc; have q := State.canonical_link hc; simp only [Link.canonical, Bool.and_eq_true] at q ⊢; simp only [q, Tbl.wf_const, Tbl.wf_nil, List.all_nil, and_self]) | exact fun _ => by decide)

theorem State.deliverBulk_keeps {s u : State} (h : Keeps s u)  : Keeps s (State.deliverBulk u) := by
  unfold State.deliverBulk
  repeat' first
    | with_reducible assumption
    | with_reducible first | apply State.deliverBulkOnce_keeps | refine forEach_keeps ?_ _ _ (fun _ _ _ => ?_)
    | split

theorem State.takeFirst_keeps {s u : State} (h : Keeps s u) (f : Taken → Bool) : ∀ t, State.takeFirst u f = some t → Keeps s t.2 := by
  intro t ht
  unfold State.takeFirst at ht
  obtain ⟨y, -, rfl⟩ := Option.map_eq_some_iff.mp ht
  exact Keeps.set_link h _ (fun hc => State.canonical_link hc)

theorem execTimeRequestSend_keeps {s u : State} (h : Keeps s u) (ts : Nat) : ∀ t, execTimeRequestSend ts u = .next t → Keeps s t := by
  intro t ht
  unfold execTimeRequestSend at ht
  obtain rfl := Host.Outcome.next.inj ht
  repeat' first
    | with_reducible assumption
    | (intro zz; refine Keeps.cut (s := s) (t := zz) ?_ (fun hz => ?_); unfold zz)
    | (intro zz; subst zz)
    | lift_lets -underBinder
    | with_reducible first | apply State.setTsc_keeps | apply Keeps.ite
    | split

theorem execTimeRequestReceived_keeps {s u : State} (h : Keeps s u)  : ∀ t, execTimeRequestReceived u = .next t → Keeps s t := by
  intro t ht
  unfold execTimeRequestReceived at ht
  obtain rfl := Host.Outcome.next.inj ht
  repeat' first
    | with_reducible assumption
    | (intro zz; refine Keeps.cut (s := s) (t := zz) ?_ (fun hz => ?_); unfold zz)
    | (intro zz; subst zz)
    | lift_lets -underBinder
    | with_reducible first | (exact State.takeFirst_keeps h _ _ ‹State.takeFirst u _ = some _›) | apply State.take_keeps | apply State.setTsc_keeps | apply Keeps.ite
    | split

theorem execTimeResponseReceived_keeps {s u : State} (h : Keeps s u)  : ∀ t, execTimeResponseReceived u = .next t → Keeps s t := by
  intro t ht
  unfold execTimeResponseReceived at ht
  obtain rfl := Host.Outcome.next.inj ht
  repeat' first
    | with_reducible assumption
    | (intro zz; refine Keeps.cut (s := s) (t := zz) ?_ (fun hz => ?_); unfold zz)
    | (intro zz; subst zz)
    | lift_lets -underBinder
    | with_reducible first | (exact State.takeFirst_keeps h _ _ ‹State.takeFirst u _ = some _›) | apply State.take_keeps | apply State.fwServo_keeps | apply State.measured_keeps | apply State.setTsc_keeps | apply State.setReg_keeps | apply Keeps.ite
    | split

theorem State.setLaneStream_keeps {s u : State} (h : Keeps s u) (e : Nat) (x : LaneStream) : Keeps s (State.setLaneStream u e x) := by
  unfold State.setLaneStream
  repeat' first
    | with_reducible assumption
    | (intro zz; refine Keeps.cut (s := s) (t := zz) ?_ (fun hz => ?_); unfold zz)
    | (intro zz; subst zz)
    | lift_lets -underBinder
    | split
    | ((fail_if_success (with_reducible refine Keeps.set_jtag ?_ _)); (with_reducible refine Keeps.set_link ?_ _ ?_); rotate_left; first | (intro hc; have q := State.canonical_link hc; simp only [Link.canonical, Bool.and_eq_true] at q ⊢; simp only [q, Tbl.wf_const, Tbl.wf_nil, List.all_nil, and_self]) | exact fun _ => by decide)

theorem State.laneRefill_keeps {s u : State} (h : Keeps s u) (e : Nat) : Keeps s (State.laneRefill u e) := by
  unfold State.laneRefill
  repeat' first
    | with_reducible assumption
    | (intro zz; refine Keeps.cut (s := s) (t := zz) ?_ (fun hz => ?_); unfold zz)
    | (intro zz; subst zz)
    | lift_lets -underBinder
    | with_reducible first | apply State.setLaneStream_keeps | apply Keeps.ite
    | split

theorem execLaneStreamRefill_keeps {s u : State} (h : Keeps s u) (port : Nat) (stream : Nat) : ∀ t, execLaneStreamRefill port stream u = .next t → Keeps s t := by
  intro t ht
  unfold execLaneStreamRefill at ht
  obtain rfl := Host.Outcome.next.inj ht
  repeat' first
    | with_reducible assumption
    | with_reducible first | apply State.laneRefill_keeps | apply Keeps.ite
    | split

theorem State.gatherLane_keeps {s u : State} (h : Keeps s u) (e : Nat) : Keeps s (State.gatherLane u e) := by
  unfold State.gatherLane
  repeat' first
    | with_reducible assumption
    | (intro zz; refine Keeps.cut (s := s) (t := zz) ?_ (fun hz => ?_); unfold zz)
    | (intro zz; refine Keeps.cut (s := s) (t := zz.2) ?_ (fun hz => ?_); unfold zz; rotate_left; (try clear_value zz); rotate_right)
    | (intro zz; refine Keeps.cut (s := s) (t := zz.1) ?_ (fun hz => ?_); unfold zz; rotate_left; (try clear_value zz); rotate_right)
    | (intro zz; refine Keeps.cut (s := s) (t := zz.2.2) ?_ (fun hz => ?_); unfold zz; rotate_left; (try clear_value zz); rotate_right)
    | (intro zz; subst zz)
    | lift_lets -underBinder
    | with_reducible first | apply State.laneRefill_keeps | apply State.setLaneStream_keeps | apply Keeps.ite | apply Keeps.ite_snd | apply Keeps.ite_fst
    | split

theorem execLaneStreamEntryWrite_keeps {s u : State} (h : Keeps s u) (tx : Bool) (port : Nat) (stream : Nat) (word : Nat) (value : W32) : ∀ t, execLaneStreamEntryWrite tx port stream word value u = .next t → Keeps s t := by
  intro t ht
  unfold execLaneStreamEntryWrite at ht
  obtain rfl := Host.Outcome.next.inj ht
  repeat' first
    | with_reducible assumption
    | (intro zz; refine Keeps.cut (s := s) (t := zz) ?_ (fun hz => ?_); unfold zz)
    | (intro zz; subst zz)
    | lift_lets -underBinder
    | with_reducible first | apply State.writePlain_keeps | apply State.fset_keeps | apply Keeps.ite
    | split

theorem State.markOrigins_keeps {s u : State} (h : Keeps s u)  : Keeps s (State.markOrigins u) := by
  unfold State.markOrigins
  repeat' first
    | with_reducible assumption
    | (intro zz; refine Keeps.cut (s := s) (t := zz) ?_ (fun hz => ?_); unfold zz)
    | (intro zz; subst zz)
    | lift_lets -underBinder
    | with_reducible first | apply State.addPart_keeps | apply Keeps.ite | refine forEach_keeps ?_ _ _ (fun _ _ _ => ?_)
    | split

theorem State.gatherSpan_keeps {s u : State} (h : Keeps s u) (b : Nat) : Keeps s (State.gatherSpan u b) := by
  unfold State.gatherSpan
  repeat' first
    | with_reducible assumption
    | (intro zz; refine Keeps.cut (s := s) (t := zz) ?_ (fun hz => ?_); unfold zz)
    | (intro zz; refine Keeps.cut (s := s) (t := zz.2) ?_ (fun hz => ?_); unfold zz; rotate_left; (try clear_value zz); rotate_right)
    | (intro zz; refine Keeps.cut (s := s) (t := zz.1) ?_ (fun hz => ?_); unfold zz; rotate_left; (try clear_value zz); rotate_right)
    | (intro zz; refine Keeps.cut (s := s) (t := zz.2.2) ?_ (fun hz => ?_); unfold zz; rotate_left; (try clear_value zz); rotate_right)
    | (intro zz; subst zz)
    | lift_lets -underBinder
    | with_reducible first | apply State.bump_keeps | apply State.count_keeps | apply Keeps.ite | apply Keeps.ite_snd | apply Keeps.ite_fst
    | split
    | ((fail_if_success (with_reducible refine Keeps.set_jtag ?_ _)); (with_reducible refine Keeps.set_link ?_ _ ?_); rotate_left; first | (intro hc; have q := State.canonical_link hc; simp only [Link.canonical, Bool.and_eq_true] at q ⊢; simp only [q, Tbl.wf_const, Tbl.wf_nil, List.all_nil, and_self]) | exact fun _ => by decide)

theorem execSpanEnWrite_keeps {s u : State} (h : Keeps s u) (j : Nat) (value : W32) : ∀ t, execSpanEnWrite j value u = .next t → Keeps s t := by
  intro t ht
  unfold execSpanEnWrite at ht
  obtain rfl := Host.Outcome.next.inj ht
  repeat' first
    | with_reducible assumption
    | with_reducible first | apply State.writePlain_keeps | apply Keeps.ite
    | split

theorem execPortmapWrite_keeps {s u : State} (h : Keeps s u) (value : W32) : ∀ t, execPortmapWrite value u = .next t → Keeps s t := by
  intro t ht
  unfold execPortmapWrite at ht
  obtain rfl := Host.Outcome.next.inj ht
  repeat' first
    | with_reducible assumption
    | (intro zz; refine Keeps.cut (s := s) (t := zz) ?_ (fun hz => ?_); unfold zz)
    | (intro zz; subst zz)
    | lift_lets -underBinder
    | with_reducible first | apply State.writePlain_keeps | apply Keeps.ite
    | split

theorem State.setAddr_keeps {s u : State} (h : Keeps s u) (a : Nat) : Keeps s (State.setAddr u a) := by
  unfold State.setAddr
  repeat' first
    | with_reducible assumption
    | with_reducible first | apply State.fset_keeps
    | split

theorem execAddrWrite_keeps {s u : State} (h : Keeps s u) (value : W32) : ∀ t, execAddrWrite value u = .next t → Keeps s t := by
  intro t ht
  unfold execAddrWrite at ht
  obtain rfl := Host.Outcome.next.inj ht
  repeat' first
    | with_reducible assumption
    | with_reducible first | apply State.writePlain_keeps | apply State.fset_keeps | apply Keeps.ite
    | split

theorem State.readQueue_keeps {s u : State} (h : Keeps s u) (l : Nat) : Keeps s (State.readQueue u l) := by
  unfold State.readQueue
  repeat' first
    | with_reducible assumption
    | (intro zz; refine Keeps.cut (s := s) (t := zz) ?_ (fun hz => ?_); unfold zz)
    | (intro zz; refine Keeps.cut (s := s) (t := zz.2) ?_ (fun hz => ?_); unfold zz; rotate_left; (try clear_value zz); rotate_right)
    | (intro zz; refine Keeps.cut (s := s) (t := zz.1) ?_ (fun hz => ?_); unfold zz; rotate_left; (try clear_value zz); rotate_right)
    | (intro zz; refine Keeps.cut (s := s) (t := zz.2.2) ?_ (fun hz => ?_); unfold zz; rotate_left; (try clear_value zz); rotate_right)
    | (intro zz; subst zz)
    | lift_lets -underBinder
    | with_reducible first | apply State.takeSection_keeps | apply State.takeHeader_keeps | apply State.setLinkLane_keeps | apply Keeps.ite_snd | apply Keeps.ite_fst | refine forEach_keeps ?_ _ _ (fun _ _ _ => ?_)
    | split

theorem State.showChain_keeps {s u : State} (h : Keeps s u) (u' : Nat) : Keeps s (State.showChain u u') := by
  unfold State.showChain
  repeat' first
    | with_reducible assumption
    | (intro zz; refine Keeps.cut (s := s) (t := zz) ?_ (fun hz => ?_); unfold zz)
    | (intro zz; subst zz)
    | lift_lets -underBinder
    | with_reducible first | apply State.fset_keeps | apply Keeps.ite | refine forEach_keeps ?_ _ _ (fun _ _ _ => ?_)
    | split

theorem State.linkTick_keeps {s u : State} (h : Keeps s u)  : Keeps s (State.linkTick u) := by
  unfold State.linkTick
  repeat' first
    | with_reducible assumption
    | (intro zz; refine Keeps.cut (s := s) (t := zz) ?_ (fun hz => ?_); unfold zz)
    | (intro zz; subst zz)
    | lift_lets -underBinder
    | with_reducible first | apply State.showChain_keeps | apply State.readQueue_keeps | apply State.deliverBulk_keeps | apply State.closeFrame_keeps | apply State.linkCount_keeps | apply State.setLinkPort_keeps | apply State.setLinkLane_keeps | apply Keeps.ite | refine forEach_keeps ?_ _ _ (fun _ _ _ => ?_)
    | split
    | ((fail_if_success (with_reducible refine Keeps.set_jtag ?_ _)); (with_reducible refine Keeps.set_link ?_ _ ?_); rotate_left; first | (intro hc; have q := State.canonical_link hc; simp only [Link.canonical, Bool.and_eq_true] at q ⊢; simp only [q, Tbl.wf_const, Tbl.wf_nil, List.all_nil, and_self]) | exact fun _ => by decide)

end Sys2Proof.Machine
end

