-- ==== Sys2Proof/Laws/Keeps/ScarabMac.lean ====
section
/-! SUPPORT. What the operations of Machine/ScarabMac.lean keep. -/

namespace Sys2Proof.Machine

open Sys2Proof.Arith

set_option linter.unreachableTactic false
set_option linter.unusedTactic false
set_option linter.unusedVariables false
set_option linter.unusedSimpArgs false

theorem State.issueMac_keeps {s u : State} (h : Keeps s u) (n : Nat) (f : XFmt) (k : Int) : Keeps s (State.issueMac u n f k) := by
  unfold State.issueMac
  repeat' first
    | with_reducible assumption
    | with_reducible first | apply State.issueReg_keeps
    | split

theorem execMac_keeps {s u : State} (h : Keeps s u) (core : Nat) (f : XFmt) : ∀ t, execMac core f u = .next t → Keeps s t := by
  intro t ht
  unfold execMac at ht
  obtain rfl := Host.Outcome.next.inj ht
  repeat' first
    | with_reducible assumption
    | with_reducible first | apply State.issueMac_keeps
    | split

theorem execMsu_keeps {s u : State} (h : Keeps s u) (core : Nat) (f : XFmt) : ∀ t, execMsu core f u = .next t → Keeps s t := by
  intro t ht
  unfold execMsu at ht
  obtain rfl := Host.Outcome.next.inj ht
  repeat' first
    | with_reducible assumption
    | with_reducible first | apply State.issueMac_keeps
    | split

theorem execMaca_keeps {s u : State} (h : Keeps s u) (core : Nat) (f : XFmt) : ∀ t, execMaca core f u = .next t → Keeps s t := by
  intro t ht
  unfold execMaca at ht
  obtain rfl := Host.Outcome.next.inj ht
  repeat' first
    | with_reducible assumption
    | with_reducible first | apply State.issueMac_keeps
    | split

theorem execMsua_keeps {s u : State} (h : Keeps s u) (core : Nat) (f : XFmt) : ∀ t, execMsua core f u = .next t → Keeps s t := by
  intro t ht
  unfold execMsua at ht
  obtain rfl := Host.Outcome.next.inj ht
  repeat' first
    | with_reducible assumption
    | with_reducible first | apply State.issueMac_keeps
    | split

theorem execMac2_keeps {s u : State} (h : Keeps s u) (core : Nat) (f : XFmt) : ∀ t, execMac2 core f u = .next t → Keeps s t := by
  intro t ht
  unfold execMac2 at ht
  obtain rfl := Host.Outcome.next.inj ht
  repeat' first
    | with_reducible assumption
    | with_reducible first | apply State.issueReg_keeps
    | split

theorem State.eccChecked_keeps {s u : State} (h : Keeps s u) (n : Nat) (chk : MemCheck) : Keeps s (State.eccChecked u n chk) := by
  unfold State.eccChecked
  repeat' first
    | with_reducible assumption
    | with_reducible first | apply State.bump_keeps | apply Keeps.ite
    | split

theorem State.loadWord_keeps {s u : State} (h : Keeps s u) (n : Nat) (w : Nat) : Keeps s (State.loadWord u n w).2 := by
  unfold State.loadWord
  repeat' first
    | with_reducible assumption
    | with_reducible first | apply State.drawWord_keeps | apply Keeps.ite | apply Keeps.ite_snd | apply Keeps.ite_fst
    | split

theorem execFmac_keeps {s u : State} (h : Keeps s u) (core : Nat) (f : FFmt) (chk : MemCheck) : ∀ t, execFmac core f chk u = .next t → Keeps s t := by
  intro t ht
  unfold execFmac at ht
  obtain rfl := Host.Outcome.next.inj ht
  repeat' first
    | with_reducible assumption
    | (intro zz; refine Keeps.cut (s := s) (t := zz) ?_ (fun hz => ?_); unfold zz)
    | (intro zz; refine Keeps.cut (s := s) (t := zz.2) ?_ (fun hz => ?_); unfold zz; rotate_left; (try clear_value zz); rotate_right)
    | (intro zz; refine Keeps.cut (s := s) (t := zz.1) ?_ (fun hz => ?_); unfold zz; rotate_left; (try clear_value zz); rotate_right)
    | (intro zz; refine Keeps.cut (s := s) (t := zz.2.2) ?_ (fun hz => ?_); unfold zz; rotate_left; (try clear_value zz); rotate_right)
    | (intro zz; subst zz)
    | lift_lets -underBinder
    | with_reducible first | apply State.loadWord_keeps | apply State.eccChecked_keeps | refine State.issue_keeps ?_ _ _ _ (fun _ _ _ _ => ?_) | apply State.setCore_keeps | apply EffKeeps.ok | exact EffKeeps.trap _ | exact EffKeeps.wait _ | apply EffKeeps.ite | apply Keeps.ite | apply Keeps.ite_snd | apply Keeps.ite_fst
    | split

theorem execAccadd_keeps {s u : State} (h : Keeps s u) (core : Nat) (f : XFmt) : ∀ t, execAccadd core f u = .next t → Keeps s t := by
  intro t ht
  unfold execAccadd at ht
  obtain rfl := Host.Outcome.next.inj ht
  repeat' first
    | with_reducible assumption
    | with_reducible first | apply State.issueReg_keeps
    | split

theorem execLdacc_keeps {s u : State} (h : Keeps s u) (core : Nat) (f : XFmt) : ∀ t, execLdacc core f u = .next t → Keeps s t := by
  intro t ht
  unfold execLdacc at ht
  obtain rfl := Host.Outcome.next.inj ht
  repeat' first
    | with_reducible assumption
    | with_reducible first | apply State.issueReg_keeps
    | split

theorem execRnda_keeps {s u : State} (h : Keeps s u) (core : Nat) (f : NFmt) : ∀ t, execRnda core f u = .next t → Keeps s t := by
  intro t ht
  unfold execRnda at ht
  obtain rfl := Host.Outcome.next.inj ht
  repeat' first
    | with_reducible assumption
    | (intro zz; refine Keeps.cut (s := s) (t := zz) ?_ (fun hz => ?_); unfold zz)
    | (intro zz; subst zz)
    | lift_lets -underBinder
    | with_reducible first | apply State.issueReg_keeps | apply Keeps.ite
    | split

theorem execClra_keeps {s u : State} (h : Keeps s u) (core : Nat) (f : XFmt) : ∀ t, execClra core f u = .next t → Keeps s t := by
  intro t ht
  unfold execClra at ht
  obtain rfl := Host.Outcome.next.inj ht
  repeat' first
    | with_reducible assumption
    | with_reducible first | apply State.issueReg_keeps
    | split

end Sys2Proof.Machine
end

