-- ==== Sys2Proof/Laws/Keeps/ScarabMem.lean ====
section
/-! SUPPORT. What the operations of Machine/ScarabMem.lean keep. -/

namespace Sys2Proof.Machine

open Sys2Proof.Arith

set_option linter.unreachableTactic false
set_option linter.unusedTactic false
set_option linter.unusedVariables false
set_option linter.unusedSimpArgs false

theorem execLd_keeps {s u : State} (h : Keeps s u) (core : Nat) (f : MFmt) (chk : MemCheck) : ∀ t, execLd core f chk u = .next t → Keeps s t := by
  intro t ht
  unfold execLd at ht
  obtain rfl := Host.Outcome.next.inj ht
  repeat' first
    | with_reducible assumption
    | (intro zz; refine Keeps.cut (s := s) (t := zz) ?_ (fun hz => ?_); unfold zz)
    | (intro zz; refine Keeps.cut (s := s) (t := zz.2) ?_ (fun hz => ?_); unfold zz; rotate_left; (try clear_value zz); rotate_right)
    | (intro zz; refine Keeps.cut (s := s) (t := zz.1) ?_ (fun hz => ?_); unfold zz; rotate_left; (try clear_value zz); rotate_right)
    | (intro zz; refine Keeps.cut (s := s) (t := zz.2.2) ?_ (fun hz => ?_); unfold zz; rotate_left; (try clear_value zz); rotate_right)
    | (intro zz; subst zz)
    | lift_lets -underBinder
    | with_reducible first | apply State.loadWord_keeps | apply State.eccChecked_keeps | refine State.issue_keeps ?_ _ _ _ (fun _ _ _ _ => ?_) | apply State.setCore_keeps | apply EffKeeps.ok | exact EffKeeps.trap _ | exact EffKeeps.wait _ | apply EffKeeps.ite | apply Keeps.ite | apply Keeps.ite_snd | apply Keeps.ite_fst
    | split

theorem State.storeWord_keeps {s u : State} (h : Keeps s u) (n : Nat) (w : Nat) (v : W32) : Keeps s (State.storeWord u n w v) := by
  unfold State.storeWord
  repeat' first
    | with_reducible assumption
    | (intro zz; refine Keeps.cut (s := s) (t := zz) ?_ (fun hz => ?_); unfold zz)
    | (intro zz; subst zz)
    | lift_lets -underBinder
    | with_reducible first | apply State.setFftUnit_keeps | apply State.setCore_keeps | apply Keeps.ite
    | split

theorem execSt_keeps {s u : State} (h : Keeps s u) (core : Nat) (f : MFmt) : ∀ t, execSt core f u = .next t → Keeps s t := by
  intro t ht
  unfold execSt at ht
  obtain rfl := Host.Outcome.next.inj ht
  repeat' first
    | with_reducible assumption
    | (intro zz; refine Keeps.cut (s := s) (t := zz) ?_ (fun hz => ?_); unfold zz)
    | (intro zz; subst zz)
    | lift_lets -underBinder
    | with_reducible first | apply State.storeWord_keeps | refine State.issue_keeps ?_ _ _ _ (fun _ _ _ _ => ?_) | apply State.setCore_keeps | apply EffKeeps.ok | exact EffKeeps.trap _ | exact EffKeeps.wait _ | apply EffKeeps.ite | apply Keeps.ite
    | split

theorem execLd2_keeps {s u : State} (h : Keeps s u) (core : Nat) (f : MFmt) (chk : MemCheck) : ∀ t, execLd2 core f chk u = .next t → Keeps s t := by
  intro t ht
  unfold execLd2 at ht
  obtain rfl := Host.Outcome.next.inj ht
  repeat' first
    | with_reducible assumption
    | (intro zz; refine Keeps.cut (s := s) (t := zz) ?_ (fun hz => ?_); unfold zz)
    | (intro zz; refine Keeps.cut (s := s) (t := zz.2) ?_ (fun hz => ?_); unfold zz; rotate_left; (try clear_value zz); rotate_right)
    | (intro zz; refine Keeps.cut (s := s) (t := zz.1) ?_ (fun hz => ?_); unfold zz; rotate_left; (try clear_value zz); rotate_right)
    | (intro zz; refine Keeps.cut (s := s) (t := zz.2.2) ?_ (fun hz => ?_); unfold zz; rotate_left; (try clear_value zz); rotate_right)
    | (intro zz; subst zz)
    | lift_lets -underBinder
    | with_reducible first | apply State.loadWord_keeps | apply State.eccChecked_keeps | refine State.issue_keeps ?_ _ _ _ (fun _ _ _ _ => ?_) | apply State.setCore_keeps | apply EffKeeps.ok | exact EffKeeps.trap _ | exact EffKeeps.wait _ | apply EffKeeps.ite | apply Keeps.ite | apply Keeps.ite_snd | apply Keeps.ite_fst
    | split

theorem execSt2_keeps {s u : State} (h : Keeps s u) (core : Nat) (f : MFmt) : ∀ t, execSt2 core f u = .next t → Keeps s t := by
  intro t ht
  unfold execSt2 at ht
  obtain rfl := Host.Outcome.next.inj ht
  repeat' first
    | with_reducible assumption
    | (intro zz; refine Keeps.cut (s := s) (t := zz) ?_ (fun hz => ?_); unfold zz)
    | (intro zz; subst zz)
    | lift_lets -underBinder
    | with_reducible first | apply State.storeWord_keeps | refine State.issue_keeps ?_ _ _ _ (fun _ _ _ _ => ?_) | apply State.setCore_keeps | apply EffKeeps.ok | exact EffKeeps.trap _ | exact EffKeeps.wait _ | apply EffKeeps.ite | apply Keeps.ite
    | split

theorem execMv_keeps {s u : State} (h : Keeps s u) (core : Nat) (f : VFmt) : ∀ t, execMv core f u = .next t → Keeps s t := by
  intro t ht
  unfold execMv at ht
  obtain rfl := Host.Outcome.next.inj ht
  repeat' first
    | with_reducible assumption
    | (intro zz; refine Keeps.cut (s := s) (t := zz) ?_ (fun hz => ?_); unfold zz)
    | (intro zz; subst zz)
    | lift_lets -underBinder
    | with_reducible first | apply State.issueReg_keeps
    | split

theorem execLia_keeps {s u : State} (h : Keeps s u) (core : Nat) (f : LFmt) : ∀ t, execLia core f u = .next t → Keeps s t := by
  intro t ht
  unfold execLia at ht
  obtain rfl := Host.Outcome.next.inj ht
  repeat' first
    | with_reducible assumption
    | (intro zz; refine Keeps.cut (s := s) (t := zz) ?_ (fun hz => ?_); unfold zz)
    | (intro zz; subst zz)
    | lift_lets -underBinder
    | with_reducible first | apply State.issueReg_keeps
    | split

theorem execAdda_keeps {s u : State} (h : Keeps s u) (core : Nat) (f : LFmt) : ∀ t, execAdda core f u = .next t → Keeps s t := by
  intro t ht
  unfold execAdda at ht
  obtain rfl := Host.Outcome.next.inj ht
  repeat' first
    | with_reducible assumption
    | with_reducible first | apply State.issueReg_keeps
    | split

end Sys2Proof.Machine
end

