-- ==== Sys2Proof/Laws/Keeps/ScarabCtl.lean ====
section
/-! SUPPORT. What the operations of Machine/ScarabCtl.lean keep. -/

namespace Sys2Proof.Machine

open Sys2Proof.Arith

set_option linter.unreachableTactic false
set_option linter.unusedTactic false
set_option linter.unusedVariables false
set_option linter.unusedSimpArgs false

theorem execHwRepeat_keeps {s u : State} (h : Keeps s u) (core : Nat) (f : PFmt) : ∀ t, execHwRepeat core f u = .next t → Keeps s t := by
  intro t ht
  unfold execHwRepeat at ht
  obtain rfl := Host.Outcome.next.inj ht
  repeat' first
    | with_reducible assumption
    | (intro zz; refine Keeps.cut (s := s) (t := zz) ?_ (fun hz => ?_); unfold zz)
    | (intro zz; subst zz)
    | lift_lets -underBinder
    | with_reducible first | refine State.issue_keeps ?_ _ _ _ (fun _ _ _ _ => ?_) | apply State.setCore_keeps | apply State.count_keeps | apply EffKeeps.ok | exact EffKeeps.trap _ | exact EffKeeps.wait _ | apply EffKeeps.ite | apply Keeps.ite
    | split

theorem execTend_keeps {s u : State} (h : Keeps s u) (core : Nat) (f : BFmt) : ∀ t, execTend core f u = .next t → Keeps s t := by
  intro t ht
  unfold execTend at ht
  obtain rfl := Host.Outcome.next.inj ht
  repeat' first
    | with_reducible assumption
    | with_reducible first | refine State.issue_keeps ?_ _ _ _ (fun _ _ _ _ => ?_) | apply State.setCore_keeps | apply EffKeeps.ok | exact EffKeeps.trap _ | exact EffKeeps.wait _ | apply EffKeeps.ite | apply Keeps.ite
    | split

theorem goto_keeps {s u : State} (h : Keeps s u) (n : Nat) (c : Core) (t : Task) (target : Int) : EffKeeps s (goto u n c t target) := by
  unfold goto
  split
  · exact EffKeeps.ok (State.setCore_keeps h n _)
  · exact EffKeeps.trap _

theorem execBr_keeps {s u : State} (h : Keeps s u) (core : Nat) (f : BFmt) : ∀ t, execBr core f u = .next t → Keeps s t := by
  intro t ht
  unfold execBr at ht
  obtain rfl := Host.Outcome.next.inj ht
  repeat' first
    | with_reducible assumption
    | with_reducible first | apply goto_keeps | refine State.issue_keeps ?_ _ _ _ (fun _ _ _ _ => ?_) | apply State.setCore_keeps | apply EffKeeps.ok | exact EffKeeps.trap _ | exact EffKeeps.wait _ | apply EffKeeps.ite | apply Keeps.ite
    | split

theorem execCall_keeps {s u : State} (h : Keeps s u) (core : Nat) (f : BFmt) : ∀ t, execCall core f u = .next t → Keeps s t := by
  intro t ht
  unfold execCall at ht
  obtain rfl := Host.Outcome.next.inj ht
  repeat' first
    | with_reducible assumption
    | with_reducible first | apply goto_keeps | refine State.issue_keeps ?_ _ _ _ (fun _ _ _ _ => ?_) | apply EffKeeps.ok | exact EffKeeps.trap _ | exact EffKeeps.wait _ | apply EffKeeps.ite | apply Keeps.ite
    | split

theorem execJr_keeps {s u : State} (h : Keeps s u) (core : Nat) (f : BFmt) : ∀ t, execJr core f u = .next t → Keeps s t := by
  intro t ht
  unfold execJr at ht
  obtain rfl := Host.Outcome.next.inj ht
  refine State.issue_keeps h _ _ _ (fun v c tk hv => ?_)
  refine EffKeeps.ite ?_ ?_
  · exact EffKeeps.trap _
  · generalize (((c.rd f.s.toNat).toNat % 16384 : Nat) : Int) = x
    exact goto_keeps hv _ _ _ _

theorem execReti_keeps {s u : State} (h : Keeps s u) (core : Nat) (f : BFmt) : ∀ t, execReti core f u = .next t → Keeps s t := by
  intro t ht
  unfold execReti at ht
  obtain rfl := Host.Outcome.next.inj ht
  repeat' first
    | with_reducible assumption
    | with_reducible first | refine State.issue_keeps ?_ _ _ _ (fun _ _ _ _ => ?_) | apply State.setCore_keeps | apply EffKeeps.ok | exact EffKeeps.trap _ | exact EffKeeps.wait _ | apply EffKeeps.ite | apply Keeps.ite
    | split

theorem State.takeInterrupt_keeps {s u : State} (h : Keeps s u) (n : Nat) (handler : Nat) : Keeps s (State.takeInterrupt u n handler) := by
  unfold State.takeInterrupt
  repeat' first
    | with_reducible assumption
    | (intro zz; refine Keeps.cut (s := s) (t := zz) ?_ (fun hz => ?_); unfold zz)
    | (intro zz; subst zz)
    | lift_lets -underBinder
    | with_reducible first | apply State.settleAll_keeps | apply State.setCore_keeps | apply Keeps.ite
    | split

theorem execMboxInterrupt_keeps {s u : State} (h : Keeps s u) (point : CoreCycle) : ∀ t, execMboxInterrupt point u = .next t → Keeps s t := by
  intro t ht
  unfold execMboxInterrupt at ht
  obtain rfl := Host.Outcome.next.inj ht
  repeat' first
    | with_reducible assumption
    | (intro zz; refine Keeps.cut (s := s) (t := zz) ?_ (fun hz => ?_); unfold zz)
    | (intro zz; subst zz)
    | lift_lets -underBinder
    | with_reducible first | apply State.takeInterrupt_keeps | apply State.setCore_keeps | apply Keeps.ite
    | split

theorem execErrInterrupt_keeps {s u : State} (h : Keeps s u) (point : CoreCycle) : ∀ t, execErrInterrupt point u = .next t → Keeps s t := by
  intro t ht
  unfold execErrInterrupt at ht
  obtain rfl := Host.Outcome.next.inj ht
  repeat' first
    | with_reducible assumption
    | (intro zz; refine Keeps.cut (s := s) (t := zz) ?_ (fun hz => ?_); unfold zz)
    | (intro zz; subst zz)
    | lift_lets -underBinder
    | with_reducible first | apply State.takeInterrupt_keeps | apply State.setCore_keeps | apply Keeps.ite
    | split

theorem State.taskOverrun_keeps {s u : State} (h : Keeps s u) (n : Nat) : Keeps s (State.taskOverrun u n) := by
  unfold State.taskOverrun
  repeat' first
    | with_reducible assumption
    | (intro zz; refine Keeps.cut (s := s) (t := zz) ?_ (fun hz => ?_); unfold zz)
    | (intro zz; refine Keeps.cut (s := s) (t := zz.2) ?_ (fun hz => ?_); unfold zz; rotate_left; (try clear_value zz); rotate_right)
    | (intro zz; refine Keeps.cut (s := s) (t := zz.1) ?_ (fun hz => ?_); unfold zz; rotate_left; (try clear_value zz); rotate_right)
    | (intro zz; refine Keeps.cut (s := s) (t := zz.2.2) ?_ (fun hz => ?_); unfold zz; rotate_left; (try clear_value zz); rotate_right)
    | (intro zz; subst zz)
    | lift_lets -underBinder
    | with_reducible first | apply State.breakTaskLocks_keeps | apply State.noteFault_keeps | apply State.fatalFault_keeps | apply State.settleAll_keeps | apply State.lockWithdraw_keeps | apply State.record_keeps | apply State.setCore_keeps | apply State.bump_keeps | apply Keeps.ite | apply Keeps.ite_snd
    | split

theorem execTaskOverrun_keeps {s u : State} (h : Keeps s u) (core : Nat) : ∀ t, execTaskOverrun core u = .next t → Keeps s t := by
  intro t ht
  unfold execTaskOverrun at ht
  obtain rfl := Host.Outcome.next.inj ht
  repeat' first
    | with_reducible assumption
    | with_reducible first | apply State.taskOverrun_keeps | apply Keeps.ite
    | split

end Sys2Proof.Machine
end

