-- ==== Sys2Proof/Laws/Keeps/ScarabSys.lean ====
section
/-! SUPPORT. What the operations of Machine/ScarabSys.lean keep. -/

namespace Sys2Proof.Machine

open Sys2Proof.Arith

set_option linter.unreachableTactic false
set_option linter.unusedTactic false
set_option linter.unusedVariables false
set_option linter.unusedSimpArgs false

theorem execMbpost_keeps {s u : State} (h : Keeps s u) (core : Nat) (f : RFmt) : ∀ t, execMbpost core f u = .next t → Keeps s t := by
  intro t ht
  unfold execMbpost at ht
  obtain rfl := Host.Outcome.next.inj ht
  repeat' first
    | with_reducible assumption
    | (intro zz; refine Keeps.cut (s := s) (t := zz) ?_ (fun hz => ?_); unfold zz)
    | (intro zz; subst zz)
    | lift_lets -underBinder
    | with_reducible first | refine State.issue_keeps ?_ _ _ _ (fun _ _ _ _ => ?_) | apply State.setCore_keeps | apply State.count_keeps | apply EffKeeps.ok | exact EffKeeps.trap _ | exact EffKeeps.wait _ | apply EffKeeps.ite | apply Keeps.ite
    | split

theorem State.enqueueMsg_keeps {s u : State} (h : Keeps s u) (n : Nat) (task : Nat) (mode : Nat) (tick : W32) (words : List W32) : Keeps s (State.enqueueMsg u n task mode tick words) := by
  unfold State.enqueueMsg
  repeat' first
    | with_reducible assumption
    | (intro zz; refine Keeps.cut (s := s) (t := zz) ?_ (fun hz => ?_); unfold zz)
    | (intro zz; subst zz)
    | lift_lets -underBinder
    | with_reducible first | apply State.setCore_keeps | apply State.count_keeps | apply Keeps.ite
    | split

theorem execMbinEnqueue_keeps {s u : State} (h : Keeps s u) (core : Nat) (value : W32) : ∀ t, execMbinEnqueue core value u = .next t → Keeps s t := by
  intro t ht
  unfold execMbinEnqueue at ht
  obtain rfl := Host.Outcome.next.inj ht
  repeat' first
    | with_reducible assumption
    | with_reducible first | apply State.enqueueMsg_keeps | apply Keeps.ite
    | split

theorem execMboutPop_keeps {s u : State} (h : Keeps s u) (core : Nat) (value : W32) : ∀ t, execMboutPop core value u = .next t → Keeps s t := by
  intro t ht
  unfold execMboutPop at ht
  obtain rfl := Host.Outcome.next.inj ht
  repeat' first
    | with_reducible assumption
    | (intro zz; refine Keeps.cut (s := s) (t := zz) ?_ (fun hz => ?_); unfold zz)
    | (intro zz; subst zz)
    | lift_lets -underBinder
    | with_reducible first | apply State.setCore_keeps | apply Keeps.ite
    | split

theorem State.submitFft_keeps {s u : State} (h : Keeps s u) (n : Nat) (f : GFmt) (t' : Task) : Keeps s (State.submitFft u n f t') := by
  unfold State.submitFft
  repeat' first
    | with_reducible assumption
    | (intro zz; refine Keeps.cut (s := s) (t := zz) ?_ (fun hz => ?_); unfold zz)
    | (intro zz; subst zz)
    | lift_lets -underBinder
    | with_reducible first | apply State.setFftUnit_keeps | apply State.setCore_keeps | apply Keeps.ite
    | split

theorem execFft_keeps {s u : State} (h : Keeps s u) (core : Nat) (f : GFmt) : ∀ t, execFft core f u = .next t → Keeps s t := by
  intro t ht
  unfold execFft at ht
  obtain rfl := Host.Outcome.next.inj ht
  repeat' first
    | with_reducible assumption
    | with_reducible first | apply State.submitFft_keeps | refine State.issue_keeps ?_ _ _ _ (fun _ _ _ _ => ?_) | apply EffKeeps.ok | exact EffKeeps.trap _ | exact EffKeeps.wait _ | apply EffKeeps.ite | apply Keeps.ite
    | split

theorem execFwait_keeps {s u : State} (h : Keeps s u) (core : Nat) (f : RFmt) : ∀ t, execFwait core f u = .next t → Keeps s t := by
  intro t ht
  unfold execFwait at ht
  obtain rfl := Host.Outcome.next.inj ht
  repeat' first
    | with_reducible assumption
    | with_reducible first | refine State.issue_keeps ?_ _ _ _ (fun _ _ _ _ => ?_) | apply State.setCore_keeps | apply EffKeeps.ok | exact EffKeeps.trap _ | exact EffKeeps.wait _ | apply EffKeeps.ite | apply Keeps.ite
    | split

theorem State.waitTo_keeps {s u : State} (h : Keeps s u) (n : Nat) (cycle : Nat) : Keeps s (State.waitTo u n cycle) := by
  unfold State.waitTo
  repeat' first
    | with_reducible assumption
    | with_reducible first | apply State.setCore_keeps
    | split

theorem State.resume_keeps {s u : State} (h : Keeps s u) (n : Nat) : Keeps s (State.resume u n) := by
  unfold State.resume
  repeat' first
    | with_reducible assumption
    | (intro zz; refine Keeps.cut (s := s) (t := zz) ?_ (fun hz => ?_); unfold zz)
    | (intro zz; subst zz)
    | lift_lets -underBinder
    | with_reducible first | apply State.submitFft_keeps | apply State.advance_keeps | apply State.tryEnd_keeps | apply State.setCore_keeps | apply Keeps.ite
    | split

theorem execFftJobStart_keeps {s u : State} (h : Keeps s u) (unit : Nat) : ∀ t, execFftJobStart unit u = .next t → Keeps s t := by
  intro t ht
  unfold execFftJobStart at ht
  obtain rfl := Host.Outcome.next.inj ht
  repeat' first
    | with_reducible assumption
    | (intro zz; refine Keeps.cut (s := s) (t := zz) ?_ (fun hz => ?_); unfold zz)
    | (intro zz; subst zz)
    | lift_lets -underBinder
    | with_reducible first | apply State.setFftUnit_keeps | apply Keeps.ite
    | split

theorem State.setFftPoints_keeps {s u : State} (h : Keeps s u) (j : FftJob) (z : List Cpx) : Keeps s (State.setFftPoints u j z) := by
  unfold State.setFftPoints
  repeat' first
    | with_reducible assumption
    | with_reducible first | apply State.setLocal_keeps | apply Keeps.ite_snd | apply Keeps.ite_fst | refine forEach_keeps ?_ _ _ (fun _ _ _ => ?_)
    | split

theorem State.freePoints_keeps {s u : State} (h : Keeps s u) (j : FftJob) : Keeps s (State.freePoints u j) := by
  unfold State.freePoints
  repeat' first
    | with_reducible assumption
    | (intro zz; refine Keeps.cut (s := s) (t := zz) ?_ (fun hz => ?_); unfold zz)
    | (intro zz; refine Keeps.cut (s := s) (t := zz.2) ?_ (fun hz => ?_); unfold zz; rotate_left; (try clear_value zz); rotate_right)
    | (intro zz; refine Keeps.cut (s := s) (t := zz.1) ?_ (fun hz => ?_); unfold zz; rotate_left; (try clear_value zz); rotate_right)
    | (intro zz; refine Keeps.cut (s := s) (t := zz.2.2) ?_ (fun hz => ?_); unfold zz; rotate_left; (try clear_value zz); rotate_right)
    | (intro zz; subst zz)
    | lift_lets -underBinder
    | with_reducible first | apply State.setLocal_keeps | apply State.drawWord_keeps | apply Keeps.ite_snd | apply Keeps.ite_fst | refine forEach_keeps ?_ _ _ (fun _ _ _ => ?_)
    | split

theorem State.endJob_keeps {s u : State} (h : Keeps s u) (j : FftJob) (e : Nat) (cycle : Nat) : Keeps s (State.endJob u j e cycle) := by
  unfold State.endJob
  repeat' first
    | with_reducible assumption
    | (intro zz; refine Keeps.cut (s := s) (t := zz) ?_ (fun hz => ?_); unfold zz)
    | (intro zz; subst zz)
    | lift_lets -underBinder
    | with_reducible first | apply State.resume_keeps | apply State.waitTo_keeps | apply State.setCore_keeps
    | split

theorem execFftJobDone_keeps {s u : State} (h : Keeps s u) (unit : Nat) (e : JobEnd) : ∀ t, execFftJobDone unit e u = .next t → Keeps s t := by
  intro t ht
  unfold execFftJobDone at ht
  obtain rfl := Host.Outcome.next.inj ht
  repeat' first
    | with_reducible assumption
    | (intro zz; refine Keeps.cut (s := s) (t := zz) ?_ (fun hz => ?_); unfold zz)
    | (intro zz; refine Keeps.cut (s := s) (t := zz.2) ?_ (fun hz => ?_); unfold zz; rotate_left; (try clear_value zz); rotate_right)
    | (intro zz; refine Keeps.cut (s := s) (t := zz.1) ?_ (fun hz => ?_); unfold zz; rotate_left; (try clear_value zz); rotate_right)
    | (intro zz; refine Keeps.cut (s := s) (t := zz.2.2) ?_ (fun hz => ?_); unfold zz; rotate_left; (try clear_value zz); rotate_right)
    | (intro zz; subst zz)
    | lift_lets -underBinder
    | with_reducible first | apply State.endJob_keeps | apply State.freePoints_keeps | apply State.setFftPoints_keeps | apply State.taskFault_keeps | apply State.setFftUnit_keeps | apply State.setCore_keeps | apply State.draw_keeps | apply State.bump_keeps | apply Keeps.ite | apply Keeps.ite_snd | apply Keeps.ite_fst
    | split

theorem State.moverGo_keeps {s u : State} (h : Keeps s u) (n : Nat) (v : W32) : Keeps s (State.moverGo u n v) := by
  unfold State.moverGo
  repeat' first
    | with_reducible assumption
    | (intro zz; refine Keeps.cut (s := s) (t := zz) ?_ (fun hz => ?_); unfold zz)
    | (intro zz; refine Keeps.cut (s := s) (t := zz.2) ?_ (fun hz => ?_); unfold zz; rotate_left; (try clear_value zz); rotate_right)
    | (intro zz; refine Keeps.cut (s := s) (t := zz.1) ?_ (fun hz => ?_); unfold zz; rotate_left; (try clear_value zz); rotate_right)
    | (intro zz; refine Keeps.cut (s := s) (t := zz.2.2) ?_ (fun hz => ?_); unfold zz; rotate_left; (try clear_value zz); rotate_right)
    | (intro zz; subst zz)
    | lift_lets -underBinder
    | with_reducible first | apply State.setCore_keeps | apply Keeps.ite | apply Keeps.ite_snd | apply Keeps.ite_fst
    | split

theorem State.coreLockRequest_keeps {s u : State} (h : Keeps s u) (n : Nat) (k : Nat) : Keeps s (State.coreLockRequest u n k) := by
  unfold State.coreLockRequest
  repeat' first
    | with_reducible assumption
    | (intro zz; refine Keeps.cut (s := s) (t := zz) ?_ (fun hz => ?_); unfold zz)
    | (intro zz; refine Keeps.cut (s := s) (t := zz.2) ?_ (fun hz => ?_); unfold zz; rotate_left; (try clear_value zz); rotate_right)
    | (intro zz; refine Keeps.cut (s := s) (t := zz.1) ?_ (fun hz => ?_); unfold zz; rotate_left; (try clear_value zz); rotate_right)
    | (intro zz; refine Keeps.cut (s := s) (t := zz.2.2) ?_ (fun hz => ?_); unfold zz; rotate_left; (try clear_value zz); rotate_right)
    | (intro zz; subst zz)
    | lift_lets -underBinder
    | with_reducible first | apply State.lockRequest_keeps | apply State.setCore_keeps | apply Keeps.ite | apply Keeps.ite_fst
    | split

theorem State.csrWrite_keeps {s u : State} (h : Keeps s u) (n : Nat) (idx : Nat) (v : W32) : ∀ t, State.csrWrite u n idx v = some t → Keeps s t := by
  intro t ht
  unfold State.csrWrite at ht
  dsimp only at ht
  split at ht
  all_goals first
    | (obtain rfl := Option.some.inj ht; repeat' (with_reducible first | exact h | apply State.moverGo_keeps | apply State.lockRelease_keeps | apply State.coreLockRequest_keeps | apply State.setCore_keeps | apply Keeps.ite))
    | (exact absurd ht (by simp))

theorem execCsrr_keeps {s u : State} (h : Keeps s u) (core : Nat) (f : IFmt) : ∀ t, execCsrr core f u = .next t → Keeps s t := by
  intro t ht
  unfold execCsrr at ht
  obtain rfl := Host.Outcome.next.inj ht
  repeat' first
    | with_reducible assumption
    | (intro zz; refine Keeps.cut (s := s) (t := zz) ?_ (fun hz => ?_); unfold zz)
    | (intro zz; subst zz)
    | lift_lets -underBinder
    | with_reducible first | refine State.issue_keeps ?_ _ _ _ (fun _ _ _ _ => ?_) | apply State.setCore_keeps | apply EffKeeps.ok | exact EffKeeps.trap _ | exact EffKeeps.wait _ | apply EffKeeps.ite
    | split

theorem State.issueCsrw_keeps {s u : State} (h : Keeps s u) (n : Nat) (f : IFmt) (idx : Nat) : Keeps s (State.issueCsrw u n f idx) := by
  unfold State.issueCsrw
  repeat' first
    | with_reducible assumption
    | (intro zz; refine Keeps.cut (s := s) (t := zz) ?_ (fun hz => ?_); unfold zz)
    | (intro zz; subst zz)
    | lift_lets -underBinder
    | with_reducible first | (exact State.csrWrite_keeps (by assumption) _ _ _ _ (by assumption)) | refine State.issue_keeps ?_ _ _ _ (fun _ _ _ _ => ?_) | apply EffKeeps.ok | exact EffKeeps.trap _ | exact EffKeeps.wait _ | apply EffKeeps.ite
    | split

theorem execCsrw_keeps {s u : State} (h : Keeps s u) (core : Nat) (f : IFmt) : ∀ t, execCsrw core f u = .next t → Keeps s t := by
  intro t ht
  unfold execCsrw at ht
  obtain rfl := Host.Outcome.next.inj ht
  repeat' first
    | with_reducible assumption
    | with_reducible first | apply State.issueCsrw_keeps
    | split

theorem execMbpop_keeps {s u : State} (h : Keeps s u) (core : Nat) (f : IFmt) : ∀ t, execMbpop core f u = .next t → Keeps s t := by
  intro t ht
  unfold execMbpop at ht
  obtain rfl := Host.Outcome.next.inj ht
  repeat' first
    | with_reducible assumption
    | with_reducible first | apply State.issueCsrw_keeps
    | split

theorem execMvGo_keeps {s u : State} (h : Keeps s u) (core : Nat) (f : IFmt) : ∀ t, execMvGo core f u = .next t → Keeps s t := by
  intro t ht
  unfold execMvGo at ht
  obtain rfl := Host.Outcome.next.inj ht
  repeat' first
    | with_reducible assumption
    | with_reducible first | apply State.issueCsrw_keeps
    | split

theorem execLkReq_keeps {s u : State} (h : Keeps s u) (core : Nat) (f : IFmt) : ∀ t, execLkReq core f u = .next t → Keeps s t := by
  intro t ht
  unfold execLkReq at ht
  obtain rfl := Host.Outcome.next.inj ht
  repeat' first
    | with_reducible assumption
    | with_reducible first | apply State.issueCsrw_keeps
    | split

theorem execLkRel_keeps {s u : State} (h : Keeps s u) (core : Nat) (f : IFmt) : ∀ t, execLkRel core f u = .next t → Keeps s t := by
  intro t ht
  unfold execLkRel at ht
  obtain rfl := Host.Outcome.next.inj ht
  repeat' first
    | with_reducible assumption
    | with_reducible first | apply State.issueCsrw_keeps
    | split

end Sys2Proof.Machine
end

