-- ==== Sys2Proof/Laws/Keeps/Pair.lean ====
section
/-! SUPPORT. What the operations of Machine/Pair.lean keep. -/

namespace Sys2Proof.Machine

open Sys2Proof.Arith

set_option linter.unreachableTactic false
set_option linter.unusedTactic false
set_option linter.unusedVariables false
set_option linter.unusedSimpArgs false

theorem State.setPair_keeps {s u : State} (h : Keeps s u) (p : Pair) (hp : u.canonical = true → p.canonical = true) :
    Keeps s (State.setPair u p) := Keeps.set_pair h _ hp

theorem State.setPairState_keeps {s u : State} (h : Keeps s u) (v : Nat) : Keeps s (State.setPairState u v) := by
  unfold State.setPairState
  repeat' first
    | with_reducible assumption
    | (intro zz; refine Keeps.cut (s := s) (t := zz) ?_ (fun hz => ?_); unfold zz)
    | (intro zz; subst zz)
    | lift_lets -underBinder
    | with_reducible first | apply State.fset_keeps
    | split
    | ((with_reducible refine State.setPair_keeps ?_ _ ?_); rotate_left; first | (intro hc; have q := State.canonical_pair hc; simp only [Pair.canonical, Bool.and_eq_true] at q ⊢; simp only [q, Tbl.wf_const, Tbl.wf_nil, List.all_nil, and_self]) | exact fun _ => by decide)

theorem State.settleDriving_keeps {s u : State} (h : Keeps s u)  : Keeps s (State.settleDriving u) := by
  unfold State.settleDriving
  repeat' first
    | with_reducible assumption
    | (intro zz; refine Keeps.cut (s := s) (t := zz) ?_ (fun hz => ?_); unfold zz)
    | (intro zz; subst zz)
    | lift_lets -underBinder
    | split
    | ((with_reducible refine State.setPair_keeps ?_ _ ?_); rotate_left; first | (intro hc; have q := State.canonical_pair hc; simp only [Pair.canonical, Bool.and_eq_true] at q ⊢; simp only [q, Tbl.wf_const, Tbl.wf_nil, List.all_nil, and_self]) | exact fun _ => by decide)

theorem State.enterFailed_keeps {s u : State} (h : Keeps s u) (why : Nat) (t' : Nat) : Keeps s (State.enterFailed u why t') := by
  unfold State.enterFailed
  repeat' first
    | with_reducible assumption
    | (intro zz; refine Keeps.cut (s := s) (t := zz) ?_ (fun hz => ?_); unfold zz)
    | (intro zz; refine Keeps.cut (s := s) (t := zz.2) ?_ (fun hz => ?_); unfold zz; rotate_left; (try clear_value zz); rotate_right)
    | (intro zz; refine Keeps.cut (s := s) (t := zz.1) ?_ (fun hz => ?_); unfold zz; rotate_left; (try clear_value zz); rotate_right)
    | (intro zz; refine Keeps.cut (s := s) (t := zz.2.2) ?_ (fun hz => ?_); unfold zz; rotate_left; (try clear_value zz); rotate_right)
    | (intro zz; subst zz)
    | lift_lets -underBinder
    | with_reducible first | apply State.settleDriving_keeps | apply State.setPairState_keeps | apply State.take_keeps | apply State.record_keeps | apply State.fset_keeps | apply Keeps.ite | apply Keeps.ite_fst
    | split
    | ((with_reducible refine State.setPair_keeps ?_ _ ?_); rotate_left; first | (intro hc; have q := State.canonical_pair hc; simp only [Pair.canonical, Bool.and_eq_true] at q ⊢; simp only [q, Tbl.wf_const, Tbl.wf_nil, List.all_nil, and_self]) | exact fun _ => by decide)
    | ((fail_if_success (with_reducible refine Keeps.set_jtag ?_ _)); (with_reducible refine Keeps.set_link ?_ _ ?_); rotate_left; first | (intro hc; have q := State.canonical_link hc; simp only [Link.canonical, Bool.and_eq_true] at q ⊢; simp only [q, Tbl.wf_const, Tbl.wf_nil, List.all_nil, and_self]) | exact fun _ => by decide)

theorem State.leaveFailed_keeps {s u : State} (h : Keeps s u)  : Keeps s (State.leaveFailed u) := by
  unfold State.leaveFailed
  repeat' first
    | with_reducible assumption
    | (intro zz; refine Keeps.cut (s := s) (t := zz) ?_ (fun hz => ?_); unfold zz)
    | (intro zz; refine Keeps.cut (s := s) (t := zz.2) ?_ (fun hz => ?_); unfold zz; rotate_left; (try clear_value zz); rotate_right)
    | (intro zz; refine Keeps.cut (s := s) (t := zz.1) ?_ (fun hz => ?_); unfold zz; rotate_left; (try clear_value zz); rotate_right)
    | (intro zz; refine Keeps.cut (s := s) (t := zz.2.2) ?_ (fun hz => ?_); unfold zz; rotate_left; (try clear_value zz); rotate_right)
    | (intro zz; subst zz)
    | lift_lets -underBinder
    | with_reducible first | apply State.settleDriving_keeps | apply State.setPairState_keeps | apply State.fset_keeps | apply Keeps.ite_fst
    | split
    | ((with_reducible refine State.setPair_keeps ?_ _ ?_); rotate_left; first | (intro hc; have q := State.canonical_pair hc; simp only [Pair.canonical, Bool.and_eq_true] at q ⊢; simp only [q, Tbl.wf_const, Tbl.wf_nil, List.all_nil, and_self]) | exact fun _ => by decide)

theorem State.toJoin_keeps {s u : State} (h : Keeps s u)  : Keeps s (State.toJoin u) := by
  unfold State.toJoin
  repeat' first
    | with_reducible assumption
    | with_reducible first | apply State.settleDriving_keeps | apply State.setPairState_keeps | apply Keeps.ite
    | split

theorem State.declareFailed_keeps {s u : State} (h : Keeps s u) (cause : Nat) : Keeps s (State.declareFailed u cause) := by
  unfold State.declareFailed
  repeat' first
    | with_reducible assumption
    | (intro zz; refine Keeps.cut (s := s) (t := zz) ?_ (fun hz => ?_); unfold zz)
    | (intro zz; subst zz)
    | lift_lets -underBinder
    | with_reducible first | apply State.enterFailed_keeps | apply State.settleDriving_keeps | apply State.setPairState_keeps | apply State.record_keeps | apply State.bump_keeps | apply State.fset_keeps | apply Keeps.ite
    | split
    | ((with_reducible refine State.setPair_keeps ?_ _ ?_); rotate_left; first | (intro hc; have q := State.canonical_pair hc; simp only [Pair.canonical, Bool.and_eq_true] at q ⊢; simp only [q, Tbl.wf_const, Tbl.wf_nil, List.all_nil, and_self]) | exact fun _ => by decide)

theorem State.onCricket_keeps {s u : State} (h : Keeps s u) (st : Nat) (faults : Nat) : Keeps s (State.onCricket u st faults) := by
  unfold State.onCricket
  repeat' first
    | with_reducible assumption
    | (intro zz; refine Keeps.cut (s := s) (t := zz) ?_ (fun hz => ?_); unfold zz)
    | (intro zz; subst zz)
    | lift_lets -underBinder
    | with_reducible first | apply State.setPairState_keeps | apply State.fset_keeps | apply Keeps.ite
    | split
    | ((with_reducible refine State.setPair_keeps ?_ _ ?_); rotate_left; first | (intro hc; have q := State.canonical_pair hc; simp only [Pair.canonical, Bool.and_eq_true] at q ⊢; simp only [q, Tbl.wf_const, Tbl.wf_nil, List.all_nil, and_self]) | exact fun _ => by decide)

theorem execCricketReceived_keeps {s u : State} (h : Keeps s u)  : ∀ t, execCricketReceived u = .next t → Keeps s t := by
  intro t ht
  unfold execCricketReceived at ht
  obtain rfl := Host.Outcome.next.inj ht
  repeat' first
    | with_reducible assumption
    | (intro zz; refine Keeps.cut (s := s) (t := zz) ?_ (fun hz => ?_); unfold zz)
    | (intro zz; subst zz)
    | lift_lets -underBinder
    | with_reducible first | apply State.onCricket_keeps | (exact State.takeFirst_keeps h _ _ ‹State.takeFirst u _ = some _›) | apply State.take_keeps | apply Keeps.ite
    | split
    | ((with_reducible refine State.setPair_keeps ?_ _ ?_); rotate_left; first | (intro hc; have q := State.canonical_pair hc; simp only [Pair.canonical, Bool.and_eq_true] at q ⊢; simp only [q, Tbl.wf_const, Tbl.wf_nil, List.all_nil, and_self]) | exact fun _ => by decide)

theorem execCricketMissed_keeps {s u : State} (h : Keeps s u)  : ∀ t, execCricketMissed u = .next t → Keeps s t := by
  intro t ht
  unfold execCricketMissed at ht
  obtain rfl := Host.Outcome.next.inj ht
  repeat' first
    | with_reducible assumption
    | (intro zz; refine Keeps.cut (s := s) (t := zz) ?_ (fun hz => ?_); unfold zz)
    | (intro zz; subst zz)
    | lift_lets -underBinder
    | with_reducible first | apply State.declareFailed_keeps | apply State.take_keeps | apply State.bump_keeps | apply Keeps.ite
    | split
    | ((with_reducible refine State.setPair_keeps ?_ _ ?_); rotate_left; first | (intro hc; have q := State.canonical_pair hc; simp only [Pair.canonical, Bool.and_eq_true] at q ⊢; simp only [q, Tbl.wf_const, Tbl.wf_nil, List.all_nil, and_self]) | exact fun _ => by decide)

theorem State.takeFatal_keeps {s u : State} (h : Keeps s u)  : Keeps s (State.takeFatal u) := by
  unfold State.takeFatal
  repeat' first
    | with_reducible assumption
    | (intro zz; refine Keeps.cut (s := s) (t := zz) ?_ (fun hz => ?_); unfold zz)
    | (intro zz; subst zz)
    | lift_lets -underBinder
    | with_reducible first | apply State.enterFailed_keeps | apply Keeps.ite
    | split
    | ((with_reducible refine State.setPair_keeps ?_ _ ?_); rotate_left; first | (intro hc; have q := State.canonical_pair hc; simp only [Pair.canonical, Bool.and_eq_true] at q ⊢; simp only [q, Tbl.wf_const, Tbl.wf_nil, List.all_nil, and_self]) | exact fun _ => by decide)
    | ((fail_if_success (with_reducible refine Keeps.set_jtag ?_ _)); (with_reducible refine Keeps.set_eng ?_ _ ?_); rotate_left; first | (intro hc; have q := State.canonical_eng hc; simp only [Eng.canonical, Bool.and_eq_true] at q ⊢; simp only [q, Tbl.wf_const, Tbl.wf_nil, List.all_nil, and_self]) | exact fun _ => by decide)

theorem execFatalFaultFailed_keeps {s u : State} (h : Keeps s u)  : ∀ t, execFatalFaultFailed u = .next t → Keeps s t := by
  intro t ht
  unfold execFatalFaultFailed at ht
  obtain rfl := Host.Outcome.next.inj ht
  repeat' first
    | with_reducible assumption
    | with_reducible first | apply State.takeFatal_keeps | apply Keeps.ite
    | split

theorem execSeekTimeout_keeps {s u : State} (h : Keeps s u)  : ∀ t, execSeekTimeout u = .next t → Keeps s t := by
  intro t ht
  unfold execSeekTimeout at ht
  obtain rfl := Host.Outcome.next.inj ht
  repeat' first
    | with_reducible assumption
    | (intro zz; refine Keeps.cut (s := s) (t := zz) ?_ (fun hz => ?_); unfold zz)
    | (intro zz; subst zz)
    | lift_lets -underBinder
    | with_reducible first | apply State.settleDriving_keeps | apply State.setPairState_keeps | apply State.fset_keeps | apply Keeps.ite
    | split

theorem execAutoRejoin_keeps {s u : State} (h : Keeps s u)  : ∀ t, execAutoRejoin u = .next t → Keeps s t := by
  intro t ht
  unfold execAutoRejoin at ht
  obtain rfl := Host.Outcome.next.inj ht
  repeat' first
    | with_reducible assumption
    | (intro zz; refine Keeps.cut (s := s) (t := zz) ?_ (fun hz => ?_); unfold zz)
    | (intro zz; subst zz)
    | lift_lets -underBinder
    | with_reducible first | apply State.leaveFailed_keeps | apply Keeps.ite
    | split

theorem execPairFail_keeps {s u : State} (h : Keeps s u)  : ∀ t, execPairFail u = .next t → Keeps s t := by
  intro t ht
  unfold execPairFail at ht
  obtain rfl := Host.Outcome.next.inj ht
  repeat' first
    | with_reducible assumption
    | with_reducible first | apply State.enterFailed_keeps | apply Keeps.ite
    | split

theorem execPairRejoin_keeps {s u : State} (h : Keeps s u)  : ∀ t, execPairRejoin u = .next t → Keeps s t := by
  intro t ht
  unfold execPairRejoin at ht
  obtain rfl := Host.Outcome.next.inj ht
  repeat' first
    | with_reducible assumption
    | (intro zz; refine Keeps.cut (s := s) (t := zz) ?_ (fun hz => ?_); unfold zz)
    | (intro zz; subst zz)
    | lift_lets -underBinder
    | with_reducible first | apply State.leaveFailed_keeps | apply Keeps.ite
    | split
    | ((with_reducible refine State.setPair_keeps ?_ _ ?_); rotate_left; first | (intro hc; have q := State.canonical_pair hc; simp only [Pair.canonical, Bool.and_eq_true] at q ⊢; simp only [q, Tbl.wf_const, Tbl.wf_nil, List.all_nil, and_self]) | exact fun _ => by decide)

theorem execHandback_keeps {s u : State} (h : Keeps s u)  : ∀ t, execHandback u = .next t → Keeps s t := by
  intro t ht
  unfold execHandback at ht
  obtain rfl := Host.Outcome.next.inj ht
  repeat' first
    | with_reducible assumption
    | (intro zz; refine Keeps.cut (s := s) (t := zz) ?_ (fun hz => ?_); unfold zz)
    | (intro zz; subst zz)
    | lift_lets -underBinder
    | with_reducible first | apply Keeps.ite
    | split
    | ((with_reducible refine State.setPair_keeps ?_ _ ?_); rotate_left; first | (intro hc; have q := State.canonical_pair hc; simp only [Pair.canonical, Bool.and_eq_true] at q ⊢; simp only [q, Tbl.wf_const, Tbl.wf_nil, List.all_nil, and_self]) | exact fun _ => by decide)

theorem execHandbackTakesEffect_keeps {s u : State} (h : Keeps s u)  : ∀ t, execHandbackTakesEffect u = .next t → Keeps s t := by
  intro t ht
  unfold execHandbackTakesEffect at ht
  obtain rfl := Host.Outcome.next.inj ht
  repeat' first
    | with_reducible assumption
    | (intro zz; refine Keeps.cut (s := s) (t := zz) ?_ (fun hz => ?_); unfold zz)
    | (intro zz; subst zz)
    | lift_lets -underBinder
    | with_reducible first | apply State.settleDriving_keeps | apply State.fset_keeps | apply Keeps.ite
    | split
    | ((with_reducible refine State.setPair_keeps ?_ _ ?_); rotate_left; first | (intro hc; have q := State.canonical_pair hc; simp only [Pair.canonical, Bool.and_eq_true] at q ⊢; simp only [q, Tbl.wf_const, Tbl.wf_nil, List.all_nil, and_self]) | exact fun _ => by decide)

theorem execJoinTimeout_keeps {s u : State} (h : Keeps s u)  : ∀ t, execJoinTimeout u = .next t → Keeps s t := by
  intro t ht
  unfold execJoinTimeout at ht
  obtain rfl := Host.Outcome.next.inj ht
  repeat' first
    | with_reducible assumption
    | with_reducible first | apply State.enterFailed_keeps | apply Keeps.ite
    | split

theorem State.startPair_keeps {s u : State} (h : Keeps s u)  : Keeps s (State.startPair u) := by
  unfold State.startPair
  repeat' first
    | with_reducible assumption
    | (intro zz; refine Keeps.cut (s := s) (t := zz) ?_ (fun hz => ?_); unfold zz)
    | (intro zz; subst zz)
    | lift_lets -underBinder
    | with_reducible first | apply State.settleDriving_keeps | apply State.setPairState_keeps | apply State.fset_keeps | apply Keeps.ite
    | split
    | ((with_reducible refine State.setPair_keeps ?_ _ ?_); rotate_left; first | (intro hc; have q := State.canonical_pair hc; simp only [Pair.canonical, Bool.and_eq_true] at q ⊢; simp only [q, Tbl.wf_const, Tbl.wf_nil, List.all_nil, and_self]) | exact fun _ => by decide)

theorem State.formMirror_keeps {s u : State} (h : Keeps s u)  : Keeps s (State.formMirror u) := by
  unfold State.formMirror
  repeat' first
    | with_reducible assumption
    | (intro zz; refine Keeps.cut (s := s) (t := zz) ?_ (fun hz => ?_); unfold zz)
    | (intro zz; refine Keeps.cut (s := s) (t := zz.2) ?_ (fun hz => ?_); unfold zz; rotate_left; (try clear_value zz); rotate_right)
    | (intro zz; refine Keeps.cut (s := s) (t := zz.1) ?_ (fun hz => ?_); unfold zz; rotate_left; (try clear_value zz); rotate_right)
    | (intro zz; refine Keeps.cut (s := s) (t := zz.2.2) ?_ (fun hz => ?_); unfold zz; rotate_left; (try clear_value zz); rotate_right)
    | (intro zz; subst zz)
    | lift_lets -underBinder
    | with_reducible first | apply State.count_keeps | apply State.setReg_keeps | apply Keeps.ite | apply Keeps.ite_snd | apply Keeps.ite_fst
    | split
    | ((with_reducible refine State.setPair_keeps ?_ _ ?_); rotate_left; first | (intro hc; have q := State.canonical_pair hc; simp only [Pair.canonical, Bool.and_eq_true] at q ⊢; simp only [q, Tbl.wf_const, Tbl.wf_nil, List.all_nil, and_self]) | exact fun _ => by decide)

theorem State.takeMirrorOnce_keeps {s u : State} (h : Keeps s u)  : Keeps s (State.takeMirrorOnce u) := by
  unfold State.takeMirrorOnce
  repeat' first
    | with_reducible assumption
    | (intro zz; refine Keeps.cut (s := s) (t := zz) ?_ (fun hz => ?_); unfold zz)
    | (intro zz; refine Keeps.cut (s := s) (t := zz.2) ?_ (fun hz => ?_); unfold zz; rotate_left; (try clear_value zz); rotate_right)
    | (intro zz; refine Keeps.cut (s := s) (t := zz.1) ?_ (fun hz => ?_); unfold zz; rotate_left; (try clear_value zz); rotate_right)
    | (intro zz; refine Keeps.cut (s := s) (t := zz.2.2) ?_ (fun hz => ?_); unfold zz; rotate_left; (try clear_value zz); rotate_right)
    | (intro zz; subst zz)
    | lift_lets -underBinder
    | with_reducible first | (exact State.takeFirst_keeps h _ _ ‹State.takeFirst u _ = some _›) | apply State.take_keeps | apply Keeps.ite | apply Keeps.ite_fst
    | split
    | ((with_reducible refine State.setPair_keeps ?_ _ ?_); rotate_left; first | (intro hc; have q := State.canonical_pair hc; simp only [Pair.canonical, Bool.and_eq_true] at q ⊢; simp only [q, Tbl.wf_const, Tbl.wf_nil, List.all_nil, and_self]) | exact fun _ => by decide)

theorem State.takeMirror_keeps {s u : State} (h : Keeps s u)  : Keeps s (State.takeMirror u) := by
  unfold State.takeMirror
  repeat' first
    | with_reducible assumption
    | with_reducible first | apply State.takeMirrorOnce_keeps | refine forEach_keeps ?_ _ _ (fun _ _ _ => ?_)
    | split

theorem execHashCompare_keeps {s u : State} (h : Keeps s u)  : ∀ t, execHashCompare u = .next t → Keeps s t := by
  intro t ht
  unfold execHashCompare at ht
  obtain rfl := Host.Outcome.next.inj ht
  repeat' first
    | with_reducible assumption
    | (intro zz; refine Keeps.cut (s := s) (t := zz) ?_ (fun hz => ?_); unfold zz)
    | (intro zz; refine Keeps.cut (s := s) (t := zz.2) ?_ (fun hz => ?_); unfold zz; rotate_left; (try clear_value zz); rotate_right)
    | (intro zz; refine Keeps.cut (s := s) (t := zz.1) ?_ (fun hz => ?_); unfold zz; rotate_left; (try clear_value zz); rotate_right)
    | (intro zz; refine Keeps.cut (s := s) (t := zz.2.2) ?_ (fun hz => ?_); unfold zz; rotate_left; (try clear_value zz); rotate_right)
    | (intro zz; subst zz)
    | lift_lets -underBinder
    | with_reducible first | apply State.takeMirror_keeps | apply State.declareFailed_keeps | apply State.toJoin_keeps | apply State.settleDriving_keeps | apply State.setPairState_keeps | apply State.record_keeps | apply State.bump_keeps | apply State.fset_keeps | apply Keeps.ite | apply Keeps.ite_snd | apply Keeps.ite_fst
    | split
    | ((with_reducible refine State.setPair_keeps ?_ _ ?_); rotate_left; first | (intro hc; have q := State.canonical_pair hc; simp only [Pair.canonical, Bool.and_eq_true] at q ⊢; simp only [q, Tbl.wf_const, Tbl.wf_nil, List.all_nil, and_self]) | exact fun _ => by decide)

theorem State.setMirSource_keeps {s u : State} (h : Keeps s u) (i : Nat) (xs : List Int) : Keeps s (State.setMirSource u i xs) := by
  unfold State.setMirSource
  repeat' first
    | with_reducible assumption
    | (intro zz; refine Keeps.cut (s := s) (t := zz) ?_ (fun hz => ?_); unfold zz)
    | (intro zz; refine Keeps.cut (s := s) (t := zz.2) ?_ (fun hz => ?_); unfold zz; rotate_left; (try clear_value zz); rotate_right)
    | (intro zz; refine Keeps.cut (s := s) (t := zz.1) ?_ (fun hz => ?_); unfold zz; rotate_left; (try clear_value zz); rotate_right)
    | (intro zz; refine Keeps.cut (s := s) (t := zz.2.2) ?_ (fun hz => ?_); unfold zz; rotate_left; (try clear_value zz); rotate_right)
    | (intro zz; subst zz)
    | lift_lets -underBinder
    | with_reducible first | apply State.setMic_keeps | apply State.setPort_keeps | apply Keeps.ite | apply Keeps.ite_snd | apply Keeps.ite_fst
    | split

theorem State.mirrorInputs_keeps {s u : State} (h : Keeps s u)  : Keeps s (State.mirrorInputs u) := by
  unfold State.mirrorInputs
  repeat' first
    | with_reducible assumption
    | (intro zz; refine Keeps.cut (s := s) (t := zz) ?_ (fun hz => ?_); unfold zz)
    | (intro zz; refine Keeps.cut (s := s) (t := zz.2) ?_ (fun hz => ?_); unfold zz; rotate_left; (try clear_value zz); rotate_right)
    | (intro zz; refine Keeps.cut (s := s) (t := zz.1) ?_ (fun hz => ?_); unfold zz; rotate_left; (try clear_value zz); rotate_right)
    | (intro zz; refine Keeps.cut (s := s) (t := zz.2.2) ?_ (fun hz => ?_); unfold zz; rotate_left; (try clear_value zz); rotate_right)
    | (intro zz; subst zz)
    | lift_lets -underBinder
    | with_reducible first | apply State.setMirSource_keeps | apply State.toJoin_keeps | apply State.take_keeps | apply State.mirrorRecord_keeps | apply State.bump_keeps | apply Keeps.ite | apply Keeps.ite_snd | apply Keeps.ite_fst | refine forEach_keeps ?_ _ _ (fun _ _ _ => ?_)
    | split
    | ((with_reducible refine State.setPair_keeps ?_ _ ?_); rotate_left; first | (intro hc; have q := State.canonical_pair hc; simp only [Pair.canonical, Bool.and_eq_true] at q ⊢; simp only [q, Tbl.wf_const, Tbl.wf_nil, List.all_nil, and_self]) | exact fun _ => by decide)

theorem State.lateRecord_keeps {s u : State} (h : Keeps s u)  : Keeps s (State.lateRecord u) := by
  unfold State.lateRecord
  repeat' first
    | with_reducible assumption
    | with_reducible first | apply State.toJoin_keeps | apply State.bump_keeps
    | split

theorem State.takeRecord_keeps {s u : State} (h : Keeps s u) (u' : Nat) (r : MirrorRec) : Keeps s (State.takeRecord u u' r) := by
  unfold State.takeRecord
  repeat' first
    | with_reducible assumption
    | (intro zz; refine Keeps.cut (s := s) (t := zz) ?_ (fun hz => ?_); unfold zz)
    | (intro zz; subst zz)
    | lift_lets -underBinder
    | with_reducible first | apply State.lateRecord_keeps | apply State.enqueueMsg_keeps | apply State.take_keeps | apply State.adaptWrite_keeps | apply State.setZone_keeps | apply Keeps.ite
    | split
    | ((with_reducible refine State.setPair_keeps ?_ _ ?_); rotate_left; first | (intro hc; have q := State.canonical_pair hc; simp only [Pair.canonical, Bool.and_eq_true] at q ⊢; simp only [q, Tbl.wf_const, Tbl.wf_nil, List.all_nil, and_self]) | exact fun _ => by decide)

theorem State.takeRecordOnce_keeps {s u : State} (h : Keeps s u) (kind : Nat) : Keeps s (State.takeRecordOnce u kind) := by
  unfold State.takeRecordOnce
  repeat' first
    | with_reducible assumption
    | (intro zz; refine Keeps.cut (s := s) (t := zz) ?_ (fun hz => ?_); unfold zz)
    | (intro zz; refine Keeps.cut (s := s) (t := zz.2) ?_ (fun hz => ?_); unfold zz; rotate_left; (try clear_value zz); rotate_right)
    | (intro zz; refine Keeps.cut (s := s) (t := zz.1) ?_ (fun hz => ?_); unfold zz; rotate_left; (try clear_value zz); rotate_right)
    | (intro zz; refine Keeps.cut (s := s) (t := zz.2.2) ?_ (fun hz => ?_); unfold zz; rotate_left; (try clear_value zz); rotate_right)
    | (intro zz; subst zz)
    | lift_lets -underBinder
    | with_reducible first | apply State.takeRecord_keeps | apply State.takeMirror_keeps | apply Keeps.ite | apply Keeps.ite_snd
    | split
    | ((with_reducible refine State.setPair_keeps ?_ _ ?_); rotate_left; first | (intro hc; have q := State.canonical_pair hc; simp only [Pair.canonical, Bool.and_eq_true] at q ⊢; simp only [q, Tbl.wf_const, Tbl.wf_nil, List.all_nil, and_self]) | exact fun _ => by decide)

theorem execInputRecord_keeps {s u : State} (h : Keeps s u)  : ∀ t, execInputRecord u = .next t → Keeps s t := by
  intro t ht
  unfold execInputRecord at ht
  obtain rfl := Host.Outcome.next.inj ht
  repeat' first
    | with_reducible assumption
    | with_reducible first | apply State.takeRecordOnce_keeps
    | split

theorem execNoiseRecord_keeps {s u : State} (h : Keeps s u)  : ∀ t, execNoiseRecord u = .next t → Keeps s t := by
  intro t ht
  unfold execNoiseRecord at ht
  obtain rfl := Host.Outcome.next.inj ht
  repeat' first
    | with_reducible assumption
    | with_reducible first | apply State.takeRecordOnce_keeps
    | split

theorem execAdaptRecord_keeps {s u : State} (h : Keeps s u)  : ∀ t, execAdaptRecord u = .next t → Keeps s t := by
  intro t ht
  unfold execAdaptRecord at ht
  obtain rfl := Host.Outcome.next.inj ht
  repeat' first
    | with_reducible assumption
    | with_reducible first | apply State.takeRecordOnce_keeps
    | split

theorem execTaskmsgRecord_keeps {s u : State} (h : Keeps s u) (core : Nat) (task : Nat) (tick : W32) (words : List W32) : ∀ t, execTaskmsgRecord core task tick words u = .next t → Keeps s t := by
  intro t ht
  unfold execTaskmsgRecord at ht
  obtain rfl := Host.Outcome.next.inj ht
  repeat' first
    | with_reducible assumption
    | (intro zz; refine Keeps.cut (s := s) (t := zz) ?_ (fun hz => ?_); unfold zz)
    | (intro zz; subst zz)
    | lift_lets -underBinder
    | with_reducible first | apply State.takeRecordOnce_keeps | apply State.enqueueMsg_keeps | apply State.mirrorRecord_keeps | apply Keeps.ite
    | split

theorem State.settleRecords_keeps {s u : State} (h : Keeps s u)  : Keeps s (State.settleRecords u) := by
  unfold State.settleRecords
  repeat' first
    | with_reducible assumption
    | (intro zz; refine Keeps.cut (s := s) (t := zz) ?_ (fun hz => ?_); unfold zz)
    | (intro zz; refine Keeps.cut (s := s) (t := zz.2) ?_ (fun hz => ?_); unfold zz; rotate_left; (try clear_value zz); rotate_right)
    | (intro zz; refine Keeps.cut (s := s) (t := zz.1) ?_ (fun hz => ?_); unfold zz; rotate_left; (try clear_value zz); rotate_right)
    | (intro zz; refine Keeps.cut (s := s) (t := zz.2.2) ?_ (fun hz => ?_); unfold zz; rotate_left; (try clear_value zz); rotate_right)
    | (intro zz; subst zz)
    | lift_lets -underBinder
    | with_reducible first | apply State.takeRecordOnce_keeps | apply State.takeMirror_keeps | apply Keeps.ite | apply Keeps.ite_snd | refine forEach_keeps ?_ _ _ (fun _ _ _ => ?_)
    | split

theorem State.activateTwin_keeps {s u : State} (h : Keeps s u) (k : Nat) (target : W32) (len : W32) : Keeps s (State.activateTwin u k target len) := by
  unfold State.activateTwin
  repeat' first
    | with_reducible assumption
    | (intro zz; refine Keeps.cut (s := s) (t := zz) ?_ (fun hz => ?_); unfold zz)
    | (intro zz; subst zz)
    | lift_lets -underBinder
    | with_reducible first | apply State.activateXf_keeps | apply Keeps.ite
    | split
    | ((with_reducible refine State.setPair_keeps ?_ _ ?_); rotate_left; first | (intro hc; have q := State.canonical_pair hc; simp only [Pair.canonical, Bool.and_eq_true] at q ⊢; simp only [q, Tbl.wf_const, Tbl.wf_nil, List.all_nil, and_self]) | exact fun _ => by decide)

theorem execJoinRecord_keeps {s u : State} (h : Keeps s u) (target : W32) : ∀ t, execJoinRecord target u = .next t → Keeps s t := by
  intro t ht
  unfold execJoinRecord at ht
  obtain rfl := Host.Outcome.next.inj ht
  repeat' first
    | with_reducible assumption
    | (intro zz; refine Keeps.cut (s := s) (t := zz) ?_ (fun hz => ?_); unfold zz)
    | (intro zz; refine Keeps.cut (s := s) (t := zz.2) ?_ (fun hz => ?_); unfold zz; rotate_left; (try clear_value zz); rotate_right)
    | (intro zz; refine Keeps.cut (s := s) (t := zz.1) ?_ (fun hz => ?_); unfold zz; rotate_left; (try clear_value zz); rotate_right)
    | (intro zz; refine Keeps.cut (s := s) (t := zz.2.2) ?_ (fun hz => ?_); unfold zz; rotate_left; (try clear_value zz); rotate_right)
    | (intro zz; subst zz)
    | lift_lets -underBinder
    | with_reducible first | apply State.activateTwin_keeps | apply State.takeMirror_keeps | apply State.mirrorRecord_keeps | apply Keeps.ite | apply Keeps.ite_snd
    | split
    | ((with_reducible refine State.setPair_keeps ?_ _ ?_); rotate_left; first | (intro hc; have q := State.canonical_pair hc; simp only [Pair.canonical, Bool.and_eq_true] at q ⊢; simp only [q, Tbl.wf_const, Tbl.wf_nil, List.all_nil, and_self]) | exact fun _ => by decide)

theorem execRegionRecord_keeps {s u : State} (h : Keeps s u) (core : Nat) (task : Nat) (first : Nat) (count : Nat) : ∀ t, execRegionRecord core task first count u = .next t → Keeps s t := by
  intro t ht
  unfold execRegionRecord at ht
  obtain rfl := Host.Outcome.next.inj ht
  repeat' first
    | with_reducible assumption
    | (intro zz; refine Keeps.cut (s := s) (t := zz) ?_ (fun hz => ?_); unfold zz)
    | (intro zz; refine Keeps.cut (s := s) (t := zz.2) ?_ (fun hz => ?_); unfold zz; rotate_left; (try clear_value zz); rotate_right)
    | (intro zz; refine Keeps.cut (s := s) (t := zz.1) ?_ (fun hz => ?_); unfold zz; rotate_left; (try clear_value zz); rotate_right)
    | (intro zz; refine Keeps.cut (s := s) (t := zz.2.2) ?_ (fun hz => ?_); unfold zz; rotate_left; (try clear_value zz); rotate_right)
    | (intro zz; subst zz)
    | lift_lets -underBinder
    | with_reducible first | apply State.takeMirror_keeps | apply State.setLocal_keeps | apply State.mirrorRecord_keeps | apply State.count_keeps | apply Keeps.ite | apply Keeps.ite_snd | apply Keeps.ite_fst | refine forEach_keeps ?_ _ _ (fun _ _ _ => ?_)
    | split
    | ((with_reducible refine State.setPair_keeps ?_ _ ?_); rotate_left; first | (intro hc; have q := State.canonical_pair hc; simp only [Pair.canonical, Bool.and_eq_true] at q ⊢; simp only [q, Tbl.wf_const, Tbl.wf_nil, List.all_nil, and_self]) | exact fun _ => by decide)

theorem State.pairReceive_keeps {s u : State} (h : Keeps s u) (had : List (Option (List (List Int)) × Option (List (List Int)))) : Keeps s (State.pairReceive u had) := by
  unfold State.pairReceive
  repeat' first
    | with_reducible assumption
    | (intro zz; refine Keeps.cut (s := s) (t := zz) ?_ (fun hz => ?_); unfold zz)
    | (intro zz; refine Keeps.cut (s := s) (t := zz.2) ?_ (fun hz => ?_); unfold zz; rotate_left; (try clear_value zz); rotate_right)
    | (intro zz; refine Keeps.cut (s := s) (t := zz.1) ?_ (fun hz => ?_); unfold zz; rotate_left; (try clear_value zz); rotate_right)
    | (intro zz; refine Keeps.cut (s := s) (t := zz.2.2) ?_ (fun hz => ?_); unfold zz; rotate_left; (try clear_value zz); rotate_right)
    | (intro zz; subst zz)
    | lift_lets -underBinder
    | with_reducible first | apply State.setLaneStream_keeps | apply State.setRxStream_keeps | apply State.bump_keeps | apply Keeps.ite | apply Keeps.ite_snd | apply Keeps.ite_fst | refine forEach_keeps ?_ _ _ (fun _ _ _ => ?_)
    | split
    | ((with_reducible refine State.setPair_keeps ?_ _ ?_); rotate_left; first | (intro hc; have q := State.canonical_pair hc; simp only [Pair.canonical, Bool.and_eq_true] at q ⊢; simp only [q, Tbl.wf_const, Tbl.wf_nil, List.all_nil, and_self]) | exact fun _ => by decide)

theorem State.pairTick_keeps {s u : State} (h : Keeps s u)  : Keeps s (State.pairTick u) := by
  unfold State.pairTick
  repeat' first
    | with_reducible assumption
    | (intro zz; refine Keeps.cut (s := s) (t := zz) ?_ (fun hz => ?_); unfold zz)
    | (intro zz; subst zz)
    | lift_lets -underBinder
    | with_reducible first | apply State.formMirror_keeps | apply State.declareFailed_keeps | apply State.settleDriving_keeps | apply State.fset_keeps | apply Keeps.ite
    | split
    | ((with_reducible refine State.setPair_keeps ?_ _ ?_); rotate_left; first | (intro hc; have q := State.canonical_pair hc; simp only [Pair.canonical, Bool.and_eq_true] at q ⊢; simp only [q, Tbl.wf_const, Tbl.wf_nil, List.all_nil, and_self]) | exact fun _ => by decide)

end Sys2Proof.Machine
end

