-- ==== Sys2Proof/Laws/Keeps/Memory.lean ====
section
/-! SUPPORT. What the operations of Machine/Memory.lean keep. -/

namespace Sys2Proof.Machine

open Sys2Proof.Arith

set_option linter.unreachableTactic false
set_option linter.unusedTactic false
set_option linter.unusedVariables false
set_option linter.unusedSimpArgs false

theorem State.lockCommand_keeps {s u : State} (h : Keeps s u) (rid : Nat) (queue : Nat) (op : Nat) (k : Nat) : Keeps s (State.lockCommand u rid queue op k) := by
  unfold State.lockCommand
  repeat' first
    | with_reducible assumption
    | (intro zz; refine Keeps.cut (s := s) (t := zz) ?_ (fun hz => ?_); unfold zz)
    | (intro zz; subst zz)
    | lift_lets -underBinder
    | with_reducible first | apply State.lockRelease_keeps | apply State.lockRequest_keeps | apply Keeps.ite
    | split

theorem execLockRequest_keeps {s u : State} (h : Keeps s u) (rid : Nat) (queue : Nat) (lock : Nat) : ∀ t, execLockRequest rid queue lock u = .next t → Keeps s t := by
  intro t ht
  unfold execLockRequest at ht
  obtain rfl := Host.Outcome.next.inj ht
  repeat' first
    | with_reducible assumption
    | with_reducible first | apply State.lockCommand_keeps
    | split

theorem execLockRelease_keeps {s u : State} (h : Keeps s u) (rid : Nat) (queue : Nat) (lock : Nat) : ∀ t, execLockRelease rid queue lock u = .next t → Keeps s t := by
  intro t ht
  unfold execLockRelease at ht
  obtain rfl := Host.Outcome.next.inj ht
  repeat' first
    | with_reducible assumption
    | with_reducible first | apply State.lockCommand_keeps
    | split

theorem execLockTimeout_keeps {s u : State} (h : Keeps s u) (lock : Nat) : ∀ t, execLockTimeout lock u = .next t → Keeps s t := by
  intro t ht
  unfold execLockTimeout at ht
  obtain rfl := Host.Outcome.next.inj ht
  repeat' first
    | with_reducible assumption
    | with_reducible first | apply State.breakLock_keeps | apply Keeps.ite
    | split

theorem State.writeOwner_keeps {s u : State} (h : Keeps s u) (k : Nat) (owner : Nat) : Keeps s (State.writeOwner u k owner) := by
  unfold State.writeOwner
  repeat' first
    | with_reducible assumption
    | (intro zz; refine Keeps.cut (s := s) (t := zz) ?_ (fun hz => ?_); unfold zz)
    | (intro zz; subst zz)
    | lift_lets -underBinder
    | with_reducible first | apply State.fset_keeps | apply Keeps.ite
    | split
    | ((fail_if_success (with_reducible refine Keeps.set_jtag ?_ _)); (with_reducible refine Keeps.set_yard ?_ _ ?_); rotate_left; first | (intro hc; have q := State.canonical_yard hc; simp only [YardSt.canonical, Bool.and_eq_true] at q ⊢; simp only [q, Tbl.wf_const, Tbl.wf_nil, List.all_nil, and_self]) | exact fun _ => by decide)

theorem execStallHandover_keeps {s u : State} (h : Keeps s u) (stall : Nat) (owner : Nat) : ∀ t, execStallHandover stall owner u = .next t → Keeps s t := by
  intro t ht
  unfold execStallHandover at ht
  obtain rfl := Host.Outcome.next.inj ht
  repeat' first
    | with_reducible assumption
    | with_reducible first | apply State.writeOwner_keeps
    | split

theorem execHandoverComplete_keeps {s u : State} (h : Keeps s u) (stall : Nat) : ∀ t, execHandoverComplete stall u = .next t → Keeps s t := by
  intro t ht
  unfold execHandoverComplete at ht
  obtain rfl := Host.Outcome.next.inj ht
  repeat' first
    | with_reducible assumption
    | (intro zz; refine Keeps.cut (s := s) (t := zz) ?_ (fun hz => ?_); unfold zz)
    | (intro zz; subst zz)
    | lift_lets -underBinder
    | with_reducible first | apply State.fset_keeps | apply Keeps.ite
    | split
    | ((fail_if_success (with_reducible refine Keeps.set_jtag ?_ _)); (with_reducible refine Keeps.set_yard ?_ _ ?_); rotate_left; first | (intro hc; have q := State.canonical_yard hc; simp only [YardSt.canonical, Bool.and_eq_true] at q ⊢; simp only [q, Tbl.wf_const, Tbl.wf_nil, List.all_nil, and_self]) | exact fun _ => by decide)

theorem State.stallEcc_keeps {s u : State} (h : Keeps s u) (a : Nat) (double : Bool) : Keeps s (State.stallEcc u a double) := by
  unfold State.stallEcc
  repeat' first
    | with_reducible assumption
    | (intro zz; refine Keeps.cut (s := s) (t := zz) ?_ (fun hz => ?_); unfold zz)
    | (intro zz; subst zz)
    | lift_lets -underBinder
    | with_reducible first | apply State.record_keeps | apply State.bump_keeps | apply State.setReg_keeps | apply Keeps.ite
    | split
    | ((with_reducible refine State.setPair_keeps ?_ _ ?_); rotate_left; first | (intro hc; have q := State.canonical_pair hc; simp only [Pair.canonical, Bool.and_eq_true] at q ⊢; simp only [q, Tbl.wf_const, Tbl.wf_nil, List.all_nil, and_self]) | exact fun _ => by decide)

theorem State.bulkEcc_keeps {s u : State} (h : Keeps s u) (a : Nat) (double : Bool) : Keeps s (State.bulkEcc u a double) := by
  unfold State.bulkEcc
  repeat' first
    | with_reducible assumption
    | (intro zz; refine Keeps.cut (s := s) (t := zz) ?_ (fun hz => ?_); unfold zz)
    | (intro zz; subst zz)
    | lift_lets -underBinder
    | with_reducible first | apply State.record_keeps | apply State.bump_keeps | apply State.fset_keeps | apply State.setReg_keeps | apply Keeps.ite
    | split
    | ((with_reducible refine State.setPair_keeps ?_ _ ?_); rotate_left; first | (intro hc; have q := State.canonical_pair hc; simp only [Pair.canonical, Bool.and_eq_true] at q ⊢; simp only [q, Tbl.wf_const, Tbl.wf_nil, List.all_nil, and_self]) | exact fun _ => by decide)

theorem State.showWeevil_keeps {s u : State} (h : Keeps s u)  : Keeps s (State.showWeevil u) := by
  unfold State.showWeevil
  repeat' first
    | with_reducible assumption
    | (intro zz; refine Keeps.cut (s := s) (t := zz) ?_ (fun hz => ?_); unfold zz)
    | (intro zz; subst zz)
    | lift_lets -underBinder
    | with_reducible first | apply State.fset_keeps | refine forEach_keeps ?_ _ _ (fun _ _ _ => ?_)
    | split

theorem State.startPass_keeps {s u : State} (h : Keeps s u)  : Keeps s (State.startPass u) := by
  unfold State.startPass
  repeat' first
    | with_reducible assumption
    | (intro zz; refine Keeps.cut (s := s) (t := zz) ?_ (fun hz => ?_); unfold zz)
    | (intro zz; subst zz)
    | lift_lets -underBinder
    | with_reducible first | apply State.showWeevil_keeps
    | split
    | ((fail_if_success (with_reducible refine Keeps.set_jtag ?_ _)); (with_reducible refine Keeps.set_weevil ?_ _ ?_); rotate_left; first | (intro hc; have q := State.canonical_weevil hc; simp only [Weevil.canonical, Bool.and_eq_true] at q ⊢; simp only [q, Tbl.wf_const, Tbl.wf_nil, List.all_nil, and_self]) | exact fun _ => by decide)

theorem execWeevilShareWindow_keeps {s u : State} (h : Keeps s u) (paddock : Nat) : ∀ t, execWeevilShareWindow paddock u = .next t → Keeps s t := by
  intro t ht
  unfold execWeevilShareWindow at ht
  obtain rfl := Host.Outcome.next.inj ht
  repeat' first
    | with_reducible assumption
    | (intro zz; refine Keeps.cut (s := s) (t := zz) ?_ (fun hz => ?_); unfold zz)
    | (intro zz; subst zz)
    | lift_lets -underBinder
    | with_reducible first | apply Keeps.ite
    | split
    | ((fail_if_success (with_reducible refine Keeps.set_jtag ?_ _)); (with_reducible refine Keeps.set_weevil ?_ _ ?_); rotate_left; first | (intro hc; have q := State.canonical_weevil hc; simp only [Weevil.canonical, Bool.and_eq_true] at q ⊢; simp only [q, Tbl.wf_const, Tbl.wf_nil, List.all_nil, and_self]) | exact fun _ => by decide)

theorem execWeevilPassDone_keeps {s u : State} (h : Keeps s u)  : ∀ t, execWeevilPassDone u = .next t → Keeps s t := by
  intro t ht
  unfold execWeevilPassDone at ht
  obtain rfl := Host.Outcome.next.inj ht
  repeat' first
    | with_reducible assumption
    | (intro zz; refine Keeps.cut (s := s) (t := zz) ?_ (fun hz => ?_); unfold zz)
    | (intro zz; subst zz)
    | lift_lets -underBinder
    | with_reducible first | apply State.startPass_keeps | apply State.count_keeps | apply State.fset_keeps | apply Keeps.ite
    | split

theorem execCoverageLate_keeps {s u : State} (h : Keeps s u)  : ∀ t, execCoverageLate u = .next t → Keeps s t := by
  intro t ht
  unfold execCoverageLate at ht
  obtain rfl := Host.Outcome.next.inj ht
  repeat' first
    | with_reducible assumption
    | (intro zz; refine Keeps.cut (s := s) (t := zz) ?_ (fun hz => ?_); unfold zz)
    | (intro zz; subst zz)
    | lift_lets -underBinder
    | with_reducible first | apply State.record_keeps | apply State.fset_keeps | apply Keeps.ite
    | split
    | ((fail_if_success (with_reducible refine Keeps.set_jtag ?_ _)); (with_reducible refine Keeps.set_weevil ?_ _ ?_); rotate_left; first | (intro hc; have q := State.canonical_weevil hc; simp only [Weevil.canonical, Bool.and_eq_true] at q ⊢; simp only [q, Tbl.wf_const, Tbl.wf_nil, List.all_nil, and_self]) | exact fun _ => by decide)

theorem execBlkCfgWrite_keeps {s u : State} (h : Keeps s u) (value : W32) : ∀ t, execBlkCfgWrite value u = .next t → Keeps s t := by
  intro t ht
  unfold execBlkCfgWrite at ht
  obtain rfl := Host.Outcome.next.inj ht
  repeat' first
    | with_reducible assumption
    | (intro zz; refine Keeps.cut (s := s) (t := zz) ?_ (fun hz => ?_); unfold zz)
    | (intro zz; subst zz)
    | lift_lets -underBinder
    | with_reducible first | apply State.writePlain_keeps | apply State.fset_keeps | apply Keeps.ite
    | split
    | ((fail_if_success (with_reducible refine Keeps.set_jtag ?_ _)); (with_reducible refine Keeps.set_blk ?_ _ ?_); rotate_left; first | exact fun hc => State.canonical_reqs hc | exact fun hc => Tbl.wf_const _ _ _ _ (State.canonical_reqs hc) | exact fun _ => Tbl.wf_nil _)
    | ((fail_if_success (with_reducible refine Keeps.set_jtag ?_ _)); (with_reducible refine Keeps.set_bulk ?_ _ ?_); rotate_left; first | exact fun _ => Tbl.wf_nil _)
    | ((with_reducible refine Keeps.set_bulk_blk ?_ _ ?_ _ ?_); rotate_left; (first | exact fun _ => Tbl.wf_nil _) ; (first | exact fun hc => State.canonical_reqs hc | exact fun hc => Tbl.wf_const _ _ _ _ (State.canonical_reqs hc) | exact fun _ => Tbl.wf_nil _))

theorem execBlkDlyBaseWrite_keeps {s u : State} (h : Keeps s u) (value : W32) : ∀ t, execBlkDlyBaseWrite value u = .next t → Keeps s t := by
  intro t ht
  unfold execBlkDlyBaseWrite at ht
  obtain rfl := Host.Outcome.next.inj ht
  repeat' first
    | with_reducible assumption
    | with_reducible first | apply State.writePlain_keeps | apply Keeps.ite
    | split

theorem execBulkTrainingStart_keeps {s u : State} (h : Keeps s u) (density : Nat) : ∀ t, execBulkTrainingStart density u = .next t → Keeps s t := by
  intro t ht
  unfold execBulkTrainingStart at ht
  obtain rfl := Host.Outcome.next.inj ht
  repeat' first
    | with_reducible assumption
    | (intro zz; refine Keeps.cut (s := s) (t := zz) ?_ (fun hz => ?_); unfold zz)
    | (intro zz; subst zz)
    | lift_lets -underBinder
    | with_reducible first | apply State.fset_keeps | apply Keeps.ite
    | split
    | ((fail_if_success (with_reducible refine Keeps.set_jtag ?_ _)); (with_reducible refine Keeps.set_blk ?_ _ ?_); rotate_left; first | exact fun hc => State.canonical_reqs hc | exact fun hc => Tbl.wf_const _ _ _ _ (State.canonical_reqs hc) | exact fun _ => Tbl.wf_nil _)

theorem execBulkTrainingDone_keeps {s u : State} (h : Keeps s u) (pass : Bool) : ∀ t, execBulkTrainingDone pass u = .next t → Keeps s t := by
  intro t ht
  unfold execBulkTrainingDone at ht
  obtain rfl := Host.Outcome.next.inj ht
  repeat' first
    | with_reducible assumption
    | (intro zz; refine Keeps.cut (s := s) (t := zz) ?_ (fun hz => ?_); unfold zz)
    | (intro zz; subst zz)
    | lift_lets -underBinder
    | with_reducible first | apply State.fset_keeps | apply Keeps.ite
    | split
    | ((fail_if_success (with_reducible refine Keeps.set_jtag ?_ _)); (with_reducible refine Keeps.set_blk ?_ _ ?_); rotate_left; first | exact fun hc => State.canonical_reqs hc | exact fun hc => Tbl.wf_const _ _ _ _ (State.canonical_reqs hc) | exact fun _ => Tbl.wf_nil _)

theorem execBulkRefill_keeps {s u : State} (h : Keeps s u) (slot : Nat) (node : Nat) : ∀ t, execBulkRefill slot node u = .next t → Keeps s t := by
  intro t ht
  unfold execBulkRefill at ht
  obtain rfl := Host.Outcome.next.inj ht
  repeat' first
    | with_reducible assumption
    | (intro zz; refine Keeps.cut (s := s) (t := zz) ?_ (fun hz => ?_); unfold zz)
    | (intro zz; subst zz)
    | lift_lets -underBinder
    | with_reducible first | apply State.setSlot_keeps | apply Keeps.ite
    | split

theorem State.setArbReq_keeps {s u : State} (h : Keeps s u) (r : Nat) (q : Option ArbReq) : Keeps s (State.setArbReq u r q) := by
  unfold State.setArbReq
  repeat' first
    | with_reducible assumption
    | (intro zz; refine Keeps.cut (s := s) (t := zz) ?_ (fun hz => ?_); unfold zz)
    | (intro zz; subst zz)
    | lift_lets -underBinder
    | split
    | ((fail_if_success (with_reducible refine Keeps.set_jtag ?_ _)); (with_reducible refine Keeps.set_blk ?_ _ ?_); rotate_left; first | exact fun hc => State.canonical_reqs hc | exact fun hc => Tbl.wf_const _ _ _ _ (State.canonical_reqs hc) | exact fun _ => Tbl.wf_nil _)

theorem State.arbLose_keeps {s u : State} (h : Keeps s u) (cyc : Nat) (r : Nat) : Keeps s (State.arbLose u cyc r) := by
  unfold State.arbLose
  repeat' first
    | with_reducible assumption
    | (intro zz; refine Keeps.cut (s := s) (t := zz) ?_ (fun hz => ?_); unfold zz)
    | (intro zz; subst zz)
    | lift_lets -underBinder
    | with_reducible first | apply State.setArbReq_keeps | apply State.bump_keeps | apply State.fset_keeps
    | split

theorem State.arbContest_keeps {s u : State} (h : Keeps s u) (cyc : Nat) : Keeps s (State.arbContest u cyc) := by
  unfold State.arbContest
  repeat' first
    | with_reducible assumption
    | (intro zz; refine Keeps.cut (s := s) (t := zz) ?_ (fun hz => ?_); unfold zz)
    | (intro zz; refine Keeps.cut (s := s) (t := zz.2) ?_ (fun hz => ?_); unfold zz; rotate_left; (try clear_value zz); rotate_right)
    | (intro zz; refine Keeps.cut (s := s) (t := zz.1) ?_ (fun hz => ?_); unfold zz; rotate_left; (try clear_value zz); rotate_right)
    | (intro zz; refine Keeps.cut (s := s) (t := zz.2.2) ?_ (fun hz => ?_); unfold zz; rotate_left; (try clear_value zz); rotate_right)
    | (intro zz; subst zz)
    | lift_lets -underBinder
    | with_reducible first | apply State.arbLose_keeps | apply State.fset_keeps | apply Keeps.ite | apply Keeps.ite_fst | refine forEach_keeps ?_ _ _ (fun _ _ _ => ?_)
    | split
    | ((fail_if_success (with_reducible refine Keeps.set_jtag ?_ _)); (with_reducible refine Keeps.set_blk ?_ _ ?_); rotate_left; first | exact fun hc => State.canonical_reqs hc | exact fun hc => Tbl.wf_const _ _ _ _ (State.canonical_reqs hc) | exact fun _ => Tbl.wf_nil _)

theorem State.arbPreempt_keeps {s u : State} (h : Keeps s u) (cyc : Nat) : Keeps s (State.arbPreempt u cyc) := by
  unfold State.arbPreempt
  repeat' first
    | with_reducible assumption
    | (intro zz; refine Keeps.cut (s := s) (t := zz) ?_ (fun hz => ?_); unfold zz)
    | (intro zz; refine Keeps.cut (s := s) (t := zz.2) ?_ (fun hz => ?_); unfold zz; rotate_left; (try clear_value zz); rotate_right)
    | (intro zz; refine Keeps.cut (s := s) (t := zz.1) ?_ (fun hz => ?_); unfold zz; rotate_left; (try clear_value zz); rotate_right)
    | (intro zz; refine Keeps.cut (s := s) (t := zz.2.2) ?_ (fun hz => ?_); unfold zz; rotate_left; (try clear_value zz); rotate_right)
    | (intro zz; subst zz)
    | lift_lets -underBinder
    | with_reducible first | apply State.arbContest_keeps | apply State.arbLose_keeps | apply State.bump_keeps | apply State.fset_keeps | apply Keeps.ite | apply Keeps.ite_snd | apply Keeps.ite_fst
    | split
    | ((fail_if_success (with_reducible refine Keeps.set_jtag ?_ _)); (with_reducible refine Keeps.set_blk ?_ _ ?_); rotate_left; first | exact fun hc => State.canonical_reqs hc | exact fun hc => Tbl.wf_const _ _ _ _ (State.canonical_reqs hc) | exact fun _ => Tbl.wf_nil _)

theorem State.arbWake_keeps {s u : State} (h : Keeps s u) (cyc : Nat) : Keeps s (State.arbWake u cyc) := by
  unfold State.arbWake
  repeat' first
    | with_reducible assumption
    | (intro zz; refine Keeps.cut (s := s) (t := zz) ?_ (fun hz => ?_); unfold zz)
    | (intro zz; subst zz)
    | lift_lets -underBinder
    | with_reducible first | apply State.setArbReq_keeps | apply Keeps.ite | refine forEach_keeps ?_ _ _ (fun _ _ _ => ?_)
    | split

theorem State.arbEval_keeps {s u : State} (h : Keeps s u) (cyc : Nat) : Keeps s (State.arbEval u cyc) := by
  unfold State.arbEval
  repeat' first
    | with_reducible assumption
    | (intro zz; refine Keeps.cut (s := s) (t := zz) ?_ (fun hz => ?_); unfold zz)
    | (intro zz; subst zz)
    | lift_lets -underBinder
    | with_reducible first | apply State.arbWake_keeps | apply State.arbPreempt_keeps | apply State.arbContest_keeps | apply Keeps.ite
    | split

theorem execBulkRequest_keeps {s u : State} (h : Keeps s u) (r : Nat) (deadline : Nat) (beats : Nat) (cycle : Nat) : ∀ t, execBulkRequest r deadline beats cycle u = .next t → Keeps s t := by
  intro t ht
  unfold execBulkRequest at ht
  obtain rfl := Host.Outcome.next.inj ht
  repeat' first
    | with_reducible assumption
    | (intro zz; refine Keeps.cut (s := s) (t := zz) ?_ (fun hz => ?_); unfold zz)
    | (intro zz; subst zz)
    | lift_lets -underBinder
    | with_reducible first | apply State.arbEval_keeps | apply State.setArbReq_keeps | apply Keeps.ite
    | split

theorem execBulkBurstDone_keeps {s u : State} (h : Keeps s u) (cycle : Nat) : ∀ t, execBulkBurstDone cycle u = .next t → Keeps s t := by
  intro t ht
  unfold execBulkBurstDone at ht
  obtain rfl := Host.Outcome.next.inj ht
  repeat' first
    | with_reducible assumption
    | (intro zz; refine Keeps.cut (s := s) (t := zz) ?_ (fun hz => ?_); unfold zz)
    | (intro zz; subst zz)
    | lift_lets -underBinder
    | with_reducible first | apply State.arbWake_keeps | apply State.arbContest_keeps | apply State.setArbReq_keeps | apply State.fset_keeps | apply Keeps.ite
    | split
    | ((fail_if_success (with_reducible refine Keeps.set_jtag ?_ _)); (with_reducible refine Keeps.set_blk ?_ _ ?_); rotate_left; first | exact fun hc => State.canonical_reqs hc | exact fun hc => Tbl.wf_const _ _ _ _ (State.canonical_reqs hc) | exact fun _ => Tbl.wf_nil _)

theorem execBackoffExpiry_keeps {s u : State} (h : Keeps s u) (r : Nat) (cycle : Nat) : ∀ t, execBackoffExpiry r cycle u = .next t → Keeps s t := by
  intro t ht
  unfold execBackoffExpiry at ht
  obtain rfl := Host.Outcome.next.inj ht
  repeat' first
    | with_reducible assumption
    | (intro zz; refine Keeps.cut (s := s) (t := zz) ?_ (fun hz => ?_); unfold zz)
    | (intro zz; subst zz)
    | lift_lets -underBinder
    | with_reducible first | apply State.arbEval_keeps | apply Keeps.ite
    | split

theorem execArbWindow_keeps {s u : State} (h : Keeps s u)  : ∀ t, execArbWindow u = .next t → Keeps s t := by
  intro t ht
  unfold execArbWindow at ht
  obtain rfl := Host.Outcome.next.inj ht
  repeat' first
    | with_reducible assumption
    | (intro zz; refine Keeps.cut (s := s) (t := zz) ?_ (fun hz => ?_); unfold zz)
    | (intro zz; subst zz)
    | lift_lets -underBinder
    | with_reducible first | apply Keeps.ite
    | split
    | ((fail_if_success (with_reducible refine Keeps.set_jtag ?_ _)); (with_reducible refine Keeps.set_blk ?_ _ ?_); rotate_left; first | exact fun hc => State.canonical_reqs hc | exact fun hc => Tbl.wf_const _ _ _ _ (State.canonical_reqs hc) | exact fun _ => Tbl.wf_nil _)

theorem execArbBiasWrite_keeps {s u : State} (h : Keeps s u) (r : Nat) (value : W32) (cycle : Nat) : ∀ t, execArbBiasWrite r value cycle u = .next t → Keeps s t := by
  intro t ht
  unfold execArbBiasWrite at ht
  obtain rfl := Host.Outcome.next.inj ht
  repeat' first
    | with_reducible assumption
    | (intro zz; refine Keeps.cut (s := s) (t := zz) ?_ (fun hz => ?_); unfold zz)
    | (intro zz; subst zz)
    | lift_lets -underBinder
    | with_reducible first | apply State.arbPreempt_keeps | apply State.writePlain_keeps | apply Keeps.ite
    | split

end Sys2Proof.Machine
end

