-- ==== Sys2Proof/Laws/Keeps/Hif.lean ====
section
/-! SUPPORT. What the operations of Machine/Hif.lean keep. -/

namespace Sys2Proof.Machine

open Sys2Proof.Arith

set_option linter.unreachableTactic false
set_option linter.unusedTactic false
set_option linter.unusedVariables false
set_option linter.unusedSimpArgs false

theorem State.ringErr_keeps {s u : State} (h : Keeps s u) (ring : Nat) : Keeps s (State.ringErr u ring) := by
  unfold State.ringErr
  repeat' first
    | with_reducible assumption
    | with_reducible first | apply State.msix_keeps | apply State.fset_keeps
    | split

theorem State.drainQueues_keeps {s u : State} (h : Keeps s u)  : Keeps s (State.drainQueues u) := by
  unfold State.drainQueues
  repeat' first
    | with_reducible assumption
    | (intro zz; refine Keeps.cut (s := s) (t := zz) ?_ (fun hz => ?_); unfold zz)
    | (intro zz; subst zz)
    | lift_lets -underBinder
    | with_reducible first | apply State.drainEvent_keeps | apply State.drainCompletion_keeps | refine forEach_keeps ?_ _ _ (fun _ _ _ => ?_)
    | split

theorem execControlRingDoorbell_keeps {s u : State} (h : Keeps s u) (ring : Nat) (value : W32) : ∀ t, execControlRingDoorbell ring value u = .next t → Keeps s t := by
  intro t ht
  unfold execControlRingDoorbell at ht
  obtain rfl := Host.Outcome.next.inj ht
  repeat' first
    | with_reducible assumption
    | with_reducible first | apply State.drainQueues_keeps | apply State.ringErr_keeps | apply State.setReg_keeps | apply Keeps.ite
    | split

theorem State.setStream_keeps {s u : State} (h : Keeps s u) (n : Nat) (x : StreamSt) : Keeps s (State.setStream u n x) := by
  unfold State.setStream
  repeat' first
    | with_reducible assumption
    | (intro zz; refine Keeps.cut (s := s) (t := zz) ?_ (fun hz => ?_); unfold zz)
    | (intro zz; subst zz)
    | lift_lets -underBinder
    | split
    | ((fail_if_success (with_reducible refine Keeps.set_jtag ?_ _)); (with_reducible refine Keeps.set_hif ?_ _ ?_); rotate_left; first | (intro hc; have q := State.canonical_hif hc; simp only [Hif.canonical, Bool.and_eq_true] at q ⊢; simp only [q, Tbl.wf_const, Tbl.wf_nil, List.all_nil, and_self]) | exact fun _ => by decide)

theorem execStreamRingDoorbell_keeps {s u : State} (h : Keeps s u) (ring : Nat) (value : W32) : ∀ t, execStreamRingDoorbell ring value u = .next t → Keeps s t := by
  intro t ht
  unfold execStreamRingDoorbell at ht
  obtain rfl := Host.Outcome.next.inj ht
  repeat' first
    | with_reducible assumption
    | (intro zz; refine Keeps.cut (s := s) (t := zz) ?_ (fun hz => ?_); unfold zz)
    | (intro zz; subst zz)
    | lift_lets -underBinder
    | with_reducible first | apply State.ringErr_keeps | apply State.count_keeps | apply State.setReg_keeps | apply Keeps.ite
    | split

theorem execHeartbeat_keeps {s u : State} (h : Keeps s u) (queue : Nat) : ∀ t, execHeartbeat queue u = .next t → Keeps s t := by
  intro t ht
  unfold execHeartbeat at ht
  obtain rfl := Host.Outcome.next.inj ht
  repeat' first
    | with_reducible assumption
    | (intro zz; refine Keeps.cut (s := s) (t := zz) ?_ (fun hz => ?_); unfold zz)
    | (intro zz; subst zz)
    | lift_lets -underBinder
    | with_reducible first | apply State.fset_keeps | apply Keeps.ite
    | split
    | ((fail_if_success (with_reducible refine Keeps.set_jtag ?_ _)); (with_reducible refine Keeps.set_hif ?_ _ ?_); rotate_left; first | (intro hc; have q := State.canonical_hif hc; simp only [Hif.canonical, Bool.and_eq_true] at q ⊢; simp only [q, Tbl.wf_const, Tbl.wf_nil, List.all_nil, and_self]) | exact fun _ => by decide)

theorem execHeartbeatLapse_keeps {s u : State} (h : Keeps s u) (queue : Nat) : ∀ t, execHeartbeatLapse queue u = .next t → Keeps s t := by
  intro t ht
  unfold execHeartbeatLapse at ht
  obtain rfl := Host.Outcome.next.inj ht
  repeat' first
    | with_reducible assumption
    | (intro zz; refine Keeps.cut (s := s) (t := zz) ?_ (fun hz => ?_); unfold zz)
    | (intro zz; subst zz)
    | lift_lets -underBinder
    | with_reducible first | apply State.breakLocks_keeps | apply State.record_keeps | apply State.msix_keeps | apply State.fset_keeps | apply Keeps.ite
    | split

theorem State.writeHb_keeps {s u : State} (h : Keeps s u) (value : W32) : Keeps s (State.writeHb u value) := by
  unfold State.writeHb
  repeat' first
    | with_reducible assumption
    | (intro zz; refine Keeps.cut (s := s) (t := zz) ?_ (fun hz => ?_); unfold zz)
    | (intro zz; subst zz)
    | lift_lets -underBinder
    | with_reducible first | apply State.writePlain_keeps | apply Keeps.ite | refine forEach_keeps ?_ _ _ (fun _ _ _ => ?_)
    | split
    | ((fail_if_success (with_reducible refine Keeps.set_jtag ?_ _)); (with_reducible refine Keeps.set_hif ?_ _ ?_); rotate_left; first | (intro hc; have q := State.canonical_hif hc; simp only [Hif.canonical, Bool.and_eq_true] at q ⊢; simp only [q, Tbl.wf_const, Tbl.wf_nil, List.all_nil, and_self]) | exact fun _ => by decide)

theorem execStatusBlockArm_keeps {s u : State} (h : Keeps s u) (value : W32) : ∀ t, execStatusBlockArm value u = .next t → Keeps s t := by
  intro t ht
  unfold execStatusBlockArm at ht
  obtain rfl := Host.Outcome.next.inj ht
  repeat' first
    | with_reducible assumption
    | (intro zz; refine Keeps.cut (s := s) (t := zz) ?_ (fun hz => ?_); unfold zz)
    | (intro zz; subst zz)
    | lift_lets -underBinder
    | with_reducible first | apply State.writePlain_keeps | apply Keeps.ite
    | split
    | ((fail_if_success (with_reducible refine Keeps.set_jtag ?_ _)); (with_reducible refine Keeps.set_hif ?_ _ ?_); rotate_left; first | (intro hc; have q := State.canonical_hif hc; simp only [Hif.canonical, Bool.and_eq_true] at q ⊢; simp only [q, Tbl.wf_const, Tbl.wf_nil, List.all_nil, and_self]) | exact fun _ => by decide)

theorem execRingEnable_keeps {s u : State} (h : Keeps s u) (ring : Nat) (value : W32) : ∀ t, execRingEnable ring value u = .next t → Keeps s t := by
  intro t ht
  unfold execRingEnable at ht
  obtain rfl := Host.Outcome.next.inj ht
  repeat' first
    | with_reducible assumption
    | (intro zz; refine Keeps.cut (s := s) (t := zz) ?_ (fun hz => ?_); unfold zz)
    | (intro zz; subst zz)
    | lift_lets -underBinder
    | with_reducible first | apply State.drainQueues_keeps | apply State.sbChanged_keeps | apply State.writePlain_keeps | apply State.fset_keeps | apply State.setReg_keeps | apply Keeps.ite
    | split
    | ((fail_if_success (with_reducible refine Keeps.set_jtag ?_ _)); (with_reducible refine Keeps.set_hif ?_ _ ?_); rotate_left; first | (intro hc; have q := State.canonical_hif hc; simp only [Hif.canonical, Bool.and_eq_true] at q ⊢; simp only [q, Tbl.wf_const, Tbl.wf_nil, List.all_nil, and_self]) | exact fun _ => by decide)

theorem execStreamRingCfgWrite_keeps {s u : State} (h : Keeps s u) (ring : Nat) (start : Bool) (value : W32) : ∀ t, execStreamRingCfgWrite ring start value u = .next t → Keeps s t := by
  intro t ht
  unfold execStreamRingCfgWrite at ht
  obtain rfl := Host.Outcome.next.inj ht
  repeat' first
    | with_reducible assumption
    | (intro zz; refine Keeps.cut (s := s) (t := zz) ?_ (fun hz => ?_); unfold zz)
    | (intro zz; subst zz)
    | lift_lets -underBinder
    | with_reducible first | apply State.setStream_keeps | apply State.sbChanged_keeps | apply State.writePlain_keeps | apply State.fset_keeps | apply State.setReg_keeps | apply Keeps.ite
    | split

theorem execEcho_keeps {s u : State} (h : Keeps s u) (cmd : CmdHdr) (arg : W32) : ∀ t, execEcho cmd arg u = .next t → Keeps s t := by
  intro t ht
  unfold execEcho at ht
  obtain rfl := Host.Outcome.next.inj ht
  repeat' first
    | with_reducible assumption
    | with_reducible first | refine State.takeCommand_keeps ?_ _ _ _ (fun _ _ _ => ?_) | apply State.answer_keeps
    | split

theorem execStatus_keeps {s u : State} (h : Keeps s u) (cmd : CmdHdr) (cls : W32) (index : W32) : ∀ t, execStatus cmd cls index u = .next t → Keeps s t := by
  intro t ht
  unfold execStatus at ht
  obtain rfl := Host.Outcome.next.inj ht
  repeat' first
    | with_reducible assumption
    | (intro zz; refine Keeps.cut (s := s) (t := zz) ?_ (fun hz => ?_); unfold zz)
    | (intro zz; subst zz)
    | lift_lets -underBinder
    | with_reducible first | refine State.takeCommand_keeps ?_ _ _ _ (fun _ _ _ => ?_) | apply State.answer_keeps | apply Keeps.ite
    | split

theorem execEventCfg_keeps {s u : State} (h : Keeps s u) (cmd : CmdHdr) (mask : W32) : ∀ t, execEventCfg cmd mask u = .next t → Keeps s t := by
  intro t ht
  unfold execEventCfg at ht
  obtain rfl := Host.Outcome.next.inj ht
  repeat' first
    | with_reducible assumption
    | (intro zz; refine Keeps.cut (s := s) (t := zz) ?_ (fun hz => ?_); unfold zz)
    | (intro zz; subst zz)
    | lift_lets -underBinder
    | with_reducible first | refine State.takeCommand_keeps ?_ _ _ _ (fun _ _ _ => ?_) | apply State.answer_keeps
    | split
    | ((fail_if_success (with_reducible refine Keeps.set_jtag ?_ _)); (with_reducible refine Keeps.set_hif ?_ _ ?_); rotate_left; first | (intro hc; have q := State.canonical_hif hc; simp only [Hif.canonical, Bool.and_eq_true] at q ⊢; simp only [q, Tbl.wf_const, Tbl.wf_nil, List.all_nil, and_self]) | exact fun _ => by decide)

theorem execPtpCfg_keeps {s u : State} (h : Keeps s u) (cmd : CmdHdr) (lane : W32) (role : W32) (prio : W32) (intervals : W32) : ∀ t, execPtpCfg cmd lane role prio intervals u = .next t → Keeps s t := by
  intro t ht
  unfold execPtpCfg at ht
  obtain rfl := Host.Outcome.next.inj ht
  repeat' first
    | with_reducible assumption
    | (intro zz; refine Keeps.cut (s := s) (t := zz) ?_ (fun hz => ?_); unfold zz)
    | (intro zz; subst zz)
    | lift_lets -underBinder
    | with_reducible first | refine State.takeCommand_keeps ?_ _ _ _ (fun _ _ _ => ?_) | apply State.answer_keeps | apply Keeps.ite
    | split
    | ((fail_if_success (with_reducible refine Keeps.set_jtag ?_ _)); (with_reducible refine Keeps.set_tim ?_ _ ?_); rotate_left; first | (intro hc; have q := State.canonical_tim hc; simp only [TimSt.canonical, Bool.and_eq_true] at q ⊢; simp only [q, Tbl.wf_const, Tbl.wf_nil, List.all_nil, and_self]) | exact fun _ => by decide)

theorem State.askReset_keeps {s u : State} (h : Keeps s u) (source : Nat) (reach : Nat) : Keeps s (State.askReset u source reach) := by
  unfold State.askReset
  repeat' first
    | with_reducible assumption
    | (intro zz; refine Keeps.cut (s := s) (t := zz) ?_ (fun hz => ?_); unfold zz)
    | (intro zz; subst zz)
    | lift_lets -underBinder
    | with_reducible first | apply Keeps.ite
    | split
    | ((fail_if_success (with_reducible refine Keeps.set_jtag ?_ _)); (with_reducible refine Keeps.set_rst ?_ _))

theorem execHostReset_keeps {s u : State} (h : Keeps s u) (cmd : CmdHdr) (arg : W32) : ∀ t, execHostReset cmd arg u = .next t → Keeps s t := by
  intro t ht
  unfold execHostReset at ht
  obtain rfl := Host.Outcome.next.inj ht
  repeat' first
    | with_reducible assumption
    | with_reducible first | apply State.askReset_keeps | refine State.takeCommand_keeps ?_ _ _ _ (fun _ _ _ => ?_) | apply State.answer_keeps | apply Keeps.ite
    | split

theorem execBadOpcode_keeps {s u : State} (h : Keeps s u) (cmd : CmdHdr) (opcode : Nat) (readable : Bool) : ∀ t, execBadOpcode cmd opcode readable u = .next t → Keeps s t := by
  intro t ht
  unfold execBadOpcode at ht
  obtain rfl := Host.Outcome.next.inj ht
  repeat' first
    | with_reducible assumption
    | (intro zz; refine Keeps.cut (s := s) (t := zz) ?_ (fun hz => ?_); unfold zz)
    | (intro zz; subst zz)
    | lift_lets -underBinder
    | with_reducible first | apply State.answer_keeps | apply State.consumed_keeps | apply Keeps.ite
    | split

theorem execCompletionWrite_keeps {s u : State} (h : Keeps s u)  : ∀ t, execCompletionWrite u = .next t → Keeps s t := by
  intro t ht
  unfold execCompletionWrite at ht
  obtain rfl := Host.Outcome.next.inj ht
  repeat' first
    | with_reducible assumption
    | with_reducible first | apply State.drainCompletion_keeps | apply Keeps.ite
    | split

theorem execEventRingPost_keeps {s u : State} (h : Keeps s u) (ev : Event) : ∀ t, execEventRingPost ev u = .next t → Keeps s t := by
  intro t ht
  unfold execEventRingPost at ht
  obtain rfl := Host.Outcome.next.inj ht
  repeat' first
    | with_reducible assumption
    | with_reducible first | apply State.postEvent_keeps | apply State.drainEvent_keeps | apply Keeps.ite
    | split

theorem execStreamSlotFetch_keeps {s u : State} (h : Keeps s u) (ring : Nat) : ∀ t, execStreamSlotFetch ring u = .next t → Keeps s t := by
  intro t ht
  unfold execStreamSlotFetch at ht
  obtain rfl := Host.Outcome.next.inj ht
  repeat' first
    | with_reducible assumption
    | (intro zz; refine Keeps.cut (s := s) (t := zz) ?_ (fun hz => ?_); unfold zz)
    | (intro zz; refine Keeps.cut (s := s) (t := zz.2) ?_ (fun hz => ?_); unfold zz; rotate_left; (try clear_value zz); rotate_right)
    | (intro zz; refine Keeps.cut (s := s) (t := zz.1) ?_ (fun hz => ?_); unfold zz; rotate_left; (try clear_value zz); rotate_right)
    | (intro zz; refine Keeps.cut (s := s) (t := zz.2.2) ?_ (fun hz => ?_); unfold zz; rotate_left; (try clear_value zz); rotate_right)
    | (intro zz; subst zz)
    | lift_lets -underBinder
    | with_reducible first | apply State.setStream_keeps | apply Keeps.ite | apply Keeps.ite_fst
    | split
    | ((fail_if_success (with_reducible refine Keeps.set_jtag ?_ _)); (with_reducible refine Keeps.set_host ?_ _ ?_); rotate_left; first | exact fun _ => Tbl.wf_nil _)

theorem State.srRefill_keeps {s u : State} (h : Keeps s u) (n : Nat) : Keeps s (State.srRefill u n) := by
  unfold State.srRefill
  repeat' first
    | with_reducible assumption
    | (intro zz; refine Keeps.cut (s := s) (t := zz) ?_ (fun hz => ?_); unfold zz)
    | (intro zz; refine Keeps.cut (s := s) (t := zz.2) ?_ (fun hz => ?_); unfold zz; rotate_left; (try clear_value zz); rotate_right)
    | (intro zz; refine Keeps.cut (s := s) (t := zz.1) ?_ (fun hz => ?_); unfold zz; rotate_left; (try clear_value zz); rotate_right)
    | (intro zz; refine Keeps.cut (s := s) (t := zz.2.2) ?_ (fun hz => ?_); unfold zz; rotate_left; (try clear_value zz); rotate_right)
    | (intro zz; subst zz)
    | lift_lets -underBinder
    | with_reducible first | apply State.setStream_keeps | apply Keeps.ite | apply Keeps.ite_fst
    | split

theorem execStreamRingRefill_keeps {s u : State} (h : Keeps s u) (ring : Nat) : ∀ t, execStreamRingRefill ring u = .next t → Keeps s t := by
  intro t ht
  unfold execStreamRingRefill at ht
  obtain rfl := Host.Outcome.next.inj ht
  repeat' first
    | with_reducible assumption
    | with_reducible first | apply State.srRefill_keeps | apply Keeps.ite
    | split

theorem State.gatherHost_keeps {s u : State} (h : Keeps s u) (n : Nat) : Keeps s (State.gatherHost u n).2 := by
  unfold State.gatherHost
  repeat' first
    | with_reducible assumption
    | (intro zz; refine Keeps.cut (s := s) (t := zz) ?_ (fun hz => ?_); unfold zz)
    | (intro zz; refine Keeps.cut (s := s) (t := zz.2) ?_ (fun hz => ?_); unfold zz; rotate_left; (try clear_value zz); rotate_right)
    | (intro zz; refine Keeps.cut (s := s) (t := zz.1) ?_ (fun hz => ?_); unfold zz; rotate_left; (try clear_value zz); rotate_right)
    | (intro zz; refine Keeps.cut (s := s) (t := zz.2.2) ?_ (fun hz => ?_); unfold zz; rotate_left; (try clear_value zz); rotate_right)
    | (intro zz; subst zz)
    | lift_lets -underBinder
    | with_reducible first | apply State.srRefill_keeps | apply State.setStream_keeps | apply State.count_keeps | apply Keeps.ite | apply Keeps.ite_snd | apply Keeps.ite_fst | refine foldl_keeps_snd _ _ _ ?_ (fun _ _ _ => ?_) | refine foldl_keeps_fst _ _ _ ?_ (fun _ _ _ => ?_) | refine foldl_keeps _ _ _ ?_ (fun _ _ _ => ?_)
    | split

theorem State.deliverHost_keeps {s u : State} (h : Keeps s u) (n : Nat) (frames : List (List Int)) : Keeps s (State.deliverHost u n frames) := by
  unfold State.deliverHost
  repeat' first
    | with_reducible assumption
    | (intro zz; refine Keeps.cut (s := s) (t := zz) ?_ (fun hz => ?_); unfold zz)
    | (intro zz; subst zz)
    | lift_lets -underBinder
    | with_reducible first | apply State.setStream_keeps | apply Keeps.ite
    | split

theorem State.writeSlot_keeps {s u : State} (h : Keeps s u) (n : Nat) : Keeps s (State.writeSlot u n) := by
  unfold State.writeSlot
  repeat' first
    | with_reducible assumption
    | (intro zz; refine Keeps.cut (s := s) (t := zz) ?_ (fun hz => ?_); unfold zz)
    | (intro zz; subst zz)
    | lift_lets -underBinder
    | with_reducible first | apply State.setStream_keeps | apply State.sbChanged_keeps | apply State.count_keeps | apply Keeps.ite
    | split
    | ((fail_if_success (with_reducible refine Keeps.set_jtag ?_ _)); (with_reducible refine Keeps.set_eng ?_ _ ?_); rotate_left; first | (intro hc; have q := State.canonical_eng hc; simp only [Eng.canonical, Bool.and_eq_true] at q ⊢; simp only [q, Tbl.wf_const, Tbl.wf_nil, List.all_nil, and_self]) | exact fun _ => by decide)
    | ((fail_if_success (with_reducible refine Keeps.set_jtag ?_ _)); (with_reducible refine Keeps.set_host ?_ _ ?_); rotate_left; first | exact fun hc => Memory.wf_setBytes _ _ _ (State.canonical_host hc) | exact fun _ => Tbl.wf_nil _)

theorem execStreamSlotWrite_keeps {s u : State} (h : Keeps s u) (ring : Nat) : ∀ t, execStreamSlotWrite ring u = .next t → Keeps s t := by
  intro t ht
  unfold execStreamSlotWrite at ht
  obtain rfl := Host.Outcome.next.inj ht
  repeat' first
    | with_reducible assumption
    | with_reducible first | apply State.writeSlot_keeps | apply Keeps.ite
    | split

theorem State.streamTick_keeps {s u : State} (h : Keeps s u)  : Keeps s (State.streamTick u) := by
  unfold State.streamTick
  repeat' first
    | with_reducible assumption
    | (intro zz; refine Keeps.cut (s := s) (t := zz) ?_ (fun hz => ?_); unfold zz)
    | (intro zz; refine Keeps.cut (s := s) (t := zz.2) ?_ (fun hz => ?_); unfold zz; rotate_left; (try clear_value zz); rotate_right)
    | (intro zz; refine Keeps.cut (s := s) (t := zz.1) ?_ (fun hz => ?_); unfold zz; rotate_left; (try clear_value zz); rotate_right)
    | (intro zz; refine Keeps.cut (s := s) (t := zz.2.2) ?_ (fun hz => ?_); unfold zz; rotate_left; (try clear_value zz); rotate_right)
    | (intro zz; subst zz)
    | lift_lets -underBinder
    | with_reducible first | apply State.writeSlot_keeps | apply State.setStream_keeps | apply State.msix_keeps | apply State.sbChanged_keeps | apply Keeps.ite | apply Keeps.ite_fst | refine forEach_keeps ?_ _ _ (fun _ _ _ => ?_)
    | split
    | ((fail_if_success (with_reducible refine Keeps.set_jtag ?_ _)); (with_reducible refine Keeps.set_eng ?_ _ ?_); rotate_left; first | (intro hc; have q := State.canonical_eng hc; simp only [Eng.canonical, Bool.and_eq_true] at q ⊢; simp only [q, Tbl.wf_const, Tbl.wf_nil, List.all_nil, and_self]) | exact fun _ => by decide)

theorem State.ringTick_keeps {s u : State} (h : Keeps s u)  : Keeps s (State.ringTick u) := by
  unfold State.ringTick
  repeat' first
    | with_reducible assumption
    | (intro zz; refine Keeps.cut (s := s) (t := zz) ?_ (fun hz => ?_); unfold zz)
    | (intro zz; subst zz)
    | lift_lets -underBinder
    | with_reducible first | apply State.msix_keeps | apply State.writeStatusBlock_keeps | apply Keeps.ite | refine forEach_keeps ?_ _ _ (fun _ _ _ => ?_)
    | split
    | ((fail_if_success (with_reducible refine Keeps.set_jtag ?_ _)); (with_reducible refine Keeps.set_hif ?_ _ ?_); rotate_left; first | (intro hc; have q := State.canonical_hif hc; simp only [Hif.canonical, Bool.and_eq_true] at q ⊢; simp only [q, Tbl.wf_const, Tbl.wf_nil, List.all_nil, and_self]) | exact fun _ => by decide)

end Sys2Proof.Machine
end

