-- ==== Sys2Proof/Laws/Keeps/Tst.lean ====
section
/-! SUPPORT. What the operations of Machine/Tst.lean keep. -/

namespace Sys2Proof.Machine

open Sys2Proof.Arith

set_option linter.unreachableTactic false
set_option linter.unusedTactic false
set_option linter.unusedVariables false
set_option linter.unusedSimpArgs false

theorem execEventRecord_keeps {s u : State} (h : Keeps s u) (code : Nat) (inst : Nat) (params : List Nat) : ∀ t, execEventRecord code inst params u = .next t → Keeps s t := by
  intro t ht
  unfold execEventRecord at ht
  obtain rfl := Host.Outcome.next.inj ht
  repeat' first
    | with_reducible assumption
    | with_reducible first | apply State.record_keeps | apply Keeps.ite
    | split

theorem execEventPostWrite_keeps {s u : State} (h : Keeps s u) (value : W32) : ∀ t, execEventPostWrite value u = .next t → Keeps s t := by
  intro t ht
  unfold execEventPostWrite at ht
  obtain rfl := Host.Outcome.next.inj ht
  repeat' first
    | with_reducible assumption
    | (intro zz; refine Keeps.cut (s := s) (t := zz) ?_ (fun hz => ?_); unfold zz)
    | (intro zz; subst zz)
    | lift_lets -underBinder
    | with_reducible first | apply State.record_keeps | apply Keeps.ite
    | split

theorem execTokenRefill_keeps {s u : State} (h : Keeps s u)  : ∀ t, execTokenRefill u = .next t → Keeps s t := by
  intro t ht
  unfold execTokenRefill at ht
  obtain rfl := Host.Outcome.next.inj ht
  repeat' first
    | with_reducible assumption
    | (intro zz; refine Keeps.cut (s := s) (t := zz) ?_ (fun hz => ?_); unfold zz)
    | (intro zz; subst zz)
    | lift_lets -underBinder
    | with_reducible first | apply State.fset_keeps | apply State.setReg_keeps | apply Keeps.ite
    | split
    | ((fail_if_success (with_reducible refine Keeps.set_jtag ?_ _)); (with_reducible refine Keeps.set_loft ?_ _))

theorem execTimeMark_keeps {s u : State} (h : Keeps s u)  : ∀ t, execTimeMark u = .next t → Keeps s t := by
  intro t ht
  unfold execTimeMark at ht
  obtain rfl := Host.Outcome.next.inj ht
  repeat' first
    | with_reducible assumption
    | (intro zz; refine Keeps.cut (s := s) (t := zz) ?_ (fun hz => ?_); unfold zz)
    | (intro zz; subst zz)
    | lift_lets -underBinder
    | with_reducible first | apply State.record_keeps | apply Keeps.ite
    | split
    | ((fail_if_success (with_reducible refine Keeps.set_jtag ?_ _)); (with_reducible refine Keeps.set_loft ?_ _))

theorem execCounterLoad_keeps {s u : State} (h : Keeps s u) (value : W32) : ∀ t, execCounterLoad value u = .next t → Keeps s t := by
  intro t ht
  unfold execCounterLoad at ht
  obtain rfl := Host.Outcome.next.inj ht
  repeat' first
    | with_reducible assumption
    | (intro zz; refine Keeps.cut (s := s) (t := zz) ?_ (fun hz => ?_); unfold zz)
    | (intro zz; subst zz)
    | lift_lets -underBinder
    | with_reducible first | apply State.fset_keeps | apply State.setReg_keeps | apply Keeps.ite
    | split
    | ((fail_if_success (with_reducible refine Keeps.set_jtag ?_ _)); (with_reducible refine Keeps.set_loft ?_ _))

theorem State.programByte_keeps {s u : State} (h : Keeps s u) (a : Nat) (b : Nat) : Keeps s (State.programByte u a b) := by
  unfold State.programByte
  repeat' first
    | with_reducible assumption
    | (intro zz; refine Keeps.cut (s := s) (t := zz) ?_ (fun hz => ?_); unfold zz)
    | (intro zz; subst zz)
    | lift_lets -underBinder
    | split
    | ((fail_if_success (with_reducible refine Keeps.set_jtag ?_ _)); (with_reducible refine Keeps.set_flash ?_ _ ?_); rotate_left; first | exact fun hc => Memory.wf_setByte _ _ _ (State.canonical_flash hc) | exact fun _ => Tbl.wf_nil _)

theorem execLoftFlush_keeps {s u : State} (h : Keeps s u)  : ∀ t, execLoftFlush u = .next t → Keeps s t := by
  intro t ht
  unfold execLoftFlush at ht
  obtain rfl := Host.Outcome.next.inj ht
  repeat' first
    | with_reducible assumption
    | (intro zz; refine Keeps.cut (s := s) (t := zz) ?_ (fun hz => ?_); unfold zz)
    | (intro zz; subst zz)
    | lift_lets -underBinder
    | with_reducible first | apply State.fset_keeps | apply Keeps.ite
    | split
    | ((fail_if_success (with_reducible refine Keeps.set_jtag ?_ _)); (with_reducible refine Keeps.set_tst ?_ _ ?_); rotate_left; first | rfl)

theorem execFlashProgramDone_keeps {s u : State} (h : Keeps s u) (ok : Bool) : ∀ t, execFlashProgramDone ok u = .next t → Keeps s t := by
  intro t ht
  unfold execFlashProgramDone at ht
  obtain rfl := Host.Outcome.next.inj ht
  repeat' first
    | with_reducible assumption
    | (intro zz; refine Keeps.cut (s := s) (t := zz) ?_ (fun hz => ?_); unfold zz)
    | (intro zz; refine Keeps.cut (s := s) (t := zz.2) ?_ (fun hz => ?_); unfold zz; rotate_left; (try clear_value zz); rotate_right)
    | (intro zz; refine Keeps.cut (s := s) (t := zz.1) ?_ (fun hz => ?_); unfold zz; rotate_left; (try clear_value zz); rotate_right)
    | (intro zz; refine Keeps.cut (s := s) (t := zz.2.2) ?_ (fun hz => ?_); unfold zz; rotate_left; (try clear_value zz); rotate_right)
    | (intro zz; subst zz)
    | lift_lets -underBinder
    | with_reducible first | apply State.programByte_keeps | apply State.fset_keeps | apply State.setReg_keeps | apply Keeps.ite | apply Keeps.ite_snd | apply Keeps.ite_fst | refine forEach_keeps ?_ _ _ (fun _ _ _ => ?_)
    | split
    | ((fail_if_success (with_reducible refine Keeps.set_jtag ?_ _)); (with_reducible refine Keeps.set_tst ?_ _ ?_); rotate_left; first | rfl)

theorem State.sealTack_keeps {s u : State} (h : Keeps s u)  : Keeps s (State.sealTack u) := by
  unfold State.sealTack
  repeat' first
    | with_reducible assumption
    | (intro zz; refine Keeps.cut (s := s) (t := zz) ?_ (fun hz => ?_); unfold zz)
    | (intro zz; subst zz)
    | lift_lets -underBinder
    | with_reducible first | apply State.fset_keeps
    | split
    | ((fail_if_success (with_reducible refine Keeps.set_jtag ?_ _)); (with_reducible refine Keeps.set_mem ?_ _ ?_); rotate_left; first | exact fun hc => Memory.wf_setBytes_high hc _ _ (by simp only [ramAddr, loftAddr, tackBase]; omega) | exact fun hc => Memory.wf_setLe_high hc _ _ _ (by simp only [ramAddr, loftAddr, tackBase]; omega) | exact fun hc => Memory.wf_setLe_high hc _ _ _ (by omega))

theorem State.writeTack_keeps {s u : State} (h : Keeps s u) (o : Nat) (n : Nat) (v : Nat) : Keeps s (State.writeTack u o n v) := by
  unfold State.writeTack
  repeat' first
    | with_reducible assumption
    | (intro zz; refine Keeps.cut (s := s) (t := zz) ?_ (fun hz => ?_); unfold zz)
    | (intro zz; subst zz)
    | lift_lets -underBinder
    | with_reducible first | apply State.fset_keeps
    | split
    | ((fail_if_success (with_reducible refine Keeps.set_jtag ?_ _)); (with_reducible refine Keeps.set_mem ?_ _ ?_); rotate_left; first | exact fun hc => Memory.wf_setBytes_high hc _ _ (by simp only [ramAddr, loftAddr, tackBase]; omega) | exact fun hc => Memory.wf_setLe_high hc _ _ _ (by simp only [ramAddr, loftAddr, tackBase]; omega) | exact fun hc => Memory.wf_setLe_high hc _ _ _ (by omega))

theorem execTackSeal_keeps {s u : State} (h : Keeps s u) (value : W32) : ∀ t, execTackSeal value u = .next t → Keeps s t := by
  intro t ht
  unfold execTackSeal at ht
  obtain rfl := Host.Outcome.next.inj ht
  repeat' first
    | with_reducible assumption
    | with_reducible first | apply State.sealTack_keeps | apply Keeps.ite
    | split

theorem State.tackAccess_keeps {s u : State} (h : Keeps s u) (write : Bool) (value : W32) : Keeps s (State.tackAccess u write value) := by
  unfold State.tackAccess
  repeat' first
    | with_reducible assumption
    | (intro zz; refine Keeps.cut (s := s) (t := zz) ?_ (fun hz => ?_); unfold zz)
    | (intro zz; subst zz)
    | lift_lets -underBinder
    | with_reducible first | apply State.writeTack_keeps | apply State.fset_keeps | apply Keeps.ite
    | split
    | ((fail_if_success (with_reducible refine Keeps.set_gpioIn ?_ _)); (with_reducible refine Keeps.set_reply ?_ _))

theorem execTackDataAccess_keeps {s u : State} (h : Keeps s u) (write : Bool) (value : W32) : ∀ t, execTackDataAccess write value u = .next t → Keeps s t := by
  intro t ht
  unfold execTackDataAccess at ht
  obtain rfl := Host.Outcome.next.inj ht
  repeat' first
    | with_reducible assumption
    | with_reducible first | apply State.tackAccess_keeps | apply Keeps.ite
    | split

theorem State.writeBackup_keeps {s u : State} (h : Keeps s u) (n : Nat) (value : W32) : Keeps s (State.writeBackup u n value) := by
  unfold State.writeBackup
  repeat' first
    | with_reducible assumption
    | with_reducible first | apply State.fset_keeps | apply State.setReg_keeps | apply Keeps.ite
    | split

theorem execBackupWrite_keeps {s u : State} (h : Keeps s u) (n : Nat) (value : W32) : ∀ t, execBackupWrite n value u = .next t → Keeps s t := by
  intro t ht
  unfold execBackupWrite at ht
  obtain rfl := Host.Outcome.next.inj ht
  repeat' first
    | with_reducible assumption
    | with_reducible first | apply State.writeBackup_keeps
    | split

theorem State.checkTack_keeps {s u : State} (h : Keeps s u)  : Keeps s (State.checkTack u) := by
  unfold State.checkTack
  repeat' first
    | with_reducible assumption
    | with_reducible first | apply State.fset_keeps | apply Keeps.ite
    | split

theorem State.writeMap_keeps {s u : State} (h : Keeps s u) (ws : List Nat) : Keeps s (State.writeMap u ws) := by
  unfold State.writeMap
  refine State.fset_keeps (State.sealTack_keeps ?_) _ _
  refine Keeps.set_mem h _ (fun hc => ?_)
  generalize ws.zipIdx = l
  suffices hs : ∀ m, Tbl.wf u.memDefault m = true → Tbl.wf u.memDefault (l.foldl (fun m x => setLe m (tackBase + 3588 + 4 * x.2) 4 x.1) m) = true by
    exact hs _ (Memory.wf_setLe_high hc _ _ _ (by simp only [tackBase]; omega))
  induction l with
  | nil => exact fun m hm => hm
  | cons x rest ih => exact fun m hm => ih _ (Memory.wf_setBytes_high' hc _ _ (by simp only [tackBase]; omega) hm)

theorem State.applyRepair_keeps {s u : State} (h : Keeps s u)  : Keeps s (State.applyRepair u) := by
  unfold State.applyRepair
  repeat' first
    | with_reducible assumption
    | with_reducible first | apply State.count_keeps | apply State.fset_keeps | apply Keeps.ite
    | split

theorem State.queueCopy_keeps {s u : State} (h : Keeps s u) (c : RowCopy) : Keeps s (State.queueCopy u c) := by
  unfold State.queueCopy
  repeat' first
    | with_reducible assumption
    | (intro zz; refine Keeps.cut (s := s) (t := zz) ?_ (fun hz => ?_); unfold zz)
    | (intro zz; subst zz)
    | lift_lets -underBinder
    | with_reducible first | apply State.fset_keeps
    | split
    | ((fail_if_success (with_reducible refine Keeps.set_jtag ?_ _)); (with_reducible refine Keeps.set_tst ?_ _ ?_); rotate_left; first | rfl)

theorem State.autoRepair_keeps {s u : State} (h : Keeps s u) (stall : Nat) (row : Nat) (cause : Nat) : Keeps s (State.autoRepair u stall row cause) := by
  unfold State.autoRepair
  repeat' first
    | with_reducible assumption
    | (intro zz; refine Keeps.cut (s := s) (t := zz) ?_ (fun hz => ?_); unfold zz)
    | (intro zz; subst zz)
    | lift_lets -underBinder
    | with_reducible first | apply State.queueCopy_keeps | apply State.record_keeps | apply Keeps.ite
    | split

theorem State.deadSpare_keeps {s u : State} (h : Keeps s u) (stall : Nat) (spare : Nat) (cause : Nat) : Keeps s (State.deadSpare u stall spare cause) := by
  unfold State.deadSpare
  repeat' first
    | with_reducible assumption
    | (intro zz; refine Keeps.cut (s := s) (t := zz) ?_ (fun hz => ?_); unfold zz)
    | (intro zz; subst zz)
    | lift_lets -underBinder
    | with_reducible first | apply State.autoRepair_keeps | apply State.writeMap_keeps | apply Keeps.ite
    | split

theorem execRepairAdd_keeps {s u : State} (h : Keeps s u) (entry : W32) : ∀ t, execRepairAdd entry u = .next t → Keeps s t := by
  intro t ht
  unfold execRepairAdd at ht
  obtain rfl := Host.Outcome.next.inj ht
  repeat' first
    | with_reducible assumption
    | (intro zz; refine Keeps.cut (s := s) (t := zz) ?_ (fun hz => ?_); unfold zz)
    | (intro zz; subst zz)
    | lift_lets -underBinder
    | with_reducible first | apply State.queueCopy_keeps | apply State.writeMap_keeps | apply State.count_keeps | apply Keeps.ite
    | split

theorem execRepairCopyDone_keeps {s u : State} (h : Keeps s u)  : ∀ t, execRepairCopyDone u = .next t → Keeps s t := by
  intro t ht
  unfold execRepairCopyDone at ht
  obtain rfl := Host.Outcome.next.inj ht
  repeat' first
    | with_reducible assumption
    | (intro zz; refine Keeps.cut (s := s) (t := zz) ?_ (fun hz => ?_); unfold zz)
    | (intro zz; subst zz)
    | lift_lets -underBinder
    | with_reducible first | apply State.writeMap_keeps | apply State.showWeevil_keeps | apply State.record_keeps | apply State.fset_keeps | apply Keeps.ite
    | split
    | ((fail_if_success (with_reducible refine Keeps.set_jtag ?_ _)); (with_reducible refine Keeps.set_weevil ?_ _ ?_); rotate_left; first | (intro hc; have q := State.canonical_weevil hc; simp only [Weevil.canonical, Bool.and_eq_true] at q ⊢; simp only [q, Tbl.wf_const, Tbl.wf_nil, List.all_nil, and_self]) | exact fun _ => by decide)
    | ((fail_if_success (with_reducible refine Keeps.set_jtag ?_ _)); (with_reducible refine Keeps.set_tst ?_ _ ?_); rotate_left; first | rfl)

theorem execWeevilRegionDone_keeps {s u : State} (h : Keeps s u) (paddock : Nat) (fail : Option (Nat × Nat)) : ∀ t, execWeevilRegionDone paddock fail u = .next t → Keeps s t := by
  intro t ht
  unfold execWeevilRegionDone at ht
  obtain rfl := Host.Outcome.next.inj ht
  repeat' first
    | with_reducible assumption
    | (intro zz; refine Keeps.cut (s := s) (t := zz) ?_ (fun hz => ?_); unfold zz)
    | (intro zz; subst zz)
    | lift_lets -underBinder
    | with_reducible first | apply State.deadSpare_keeps | apply State.autoRepair_keeps | apply State.showWeevil_keeps | apply State.record_keeps | apply State.fset_keeps | apply Keeps.ite
    | split
    | ((fail_if_success (with_reducible refine Keeps.set_jtag ?_ _)); (with_reducible refine Keeps.set_weevil ?_ _ ?_); rotate_left; first | (intro hc; have q := State.canonical_weevil hc; simp only [Weevil.canonical, Bool.and_eq_true] at q ⊢; simp only [q, Tbl.wf_const, Tbl.wf_nil, List.all_nil, and_self]) | exact fun _ => by decide)

theorem State.groupResult_keeps {s u : State} (h : Keeps s u) (g : Nat) (result : Nat) (count : Nat) (first : Nat) : Keeps s (State.groupResult u g result count first) := by
  unfold State.groupResult
  repeat' first
    | with_reducible assumption
    | with_reducible first | apply State.record_keeps | apply State.count_keeps | apply State.fset_keeps
    | split

theorem State.nextGroup_keeps {s u : State} (h : Keeps s u) (l : List Nat) : Keeps s (u.nextGroup l) := by
  induction l generalizing u with
  | nil =>
    unfold State.nextGroup
    refine State.showWeevil_keeps (State.fset_keeps ?_ _ _)
    refine Keeps.set_tst h _ ?_
    rfl
  | cons g rest ih =>
    unfold State.nextGroup
    split
    · exact ih (State.groupResult_keeps h _ _ _ _)
    · refine State.showWeevil_keeps (State.fset_keeps ?_ _ _)
      refine Keeps.set_tst h _ ?_
      rfl

theorem execSelftestStart_keeps {s u : State} (h : Keeps s u) (value : W32) : ∀ t, execSelftestStart value u = .next t → Keeps s t := by
  intro t ht
  unfold execSelftestStart at ht
  obtain rfl := Host.Outcome.next.inj ht
  repeat' first
    | with_reducible assumption
    | (intro zz; refine Keeps.cut (s := s) (t := zz) ?_ (fun hz => ?_); unfold zz)
    | (intro zz; subst zz)
    | lift_lets -underBinder
    | with_reducible first | apply State.nextGroup_keeps | apply State.writePlain_keeps | apply State.setReg_keeps | apply Keeps.ite | refine forEach_keeps ?_ _ _ (fun _ _ _ => ?_)
    | split

theorem State.groupStalls_lt (s : State) (g k : Nat) (hk : k ∈ s.groupStalls g) : k < 96 := by
  unfold State.groupStalls at hk
  split at hk
  · have := List.mem_range.mp hk; omega
  · split at hk
    · obtain ⟨i, hi, he⟩ := List.mem_filterMap.mp hk
      have := List.mem_range.mp hi
      split at he
      · cases he; omega
      · cases he
    · cases hk

theorem spoilAll_keeps {s u : State} (h : Keeps s u) (v : State) (g : Nat) :
    Keeps s (forEach (v.groupStalls g) u (fun s k => s.spoilStall k)) := by
  have hl := State.groupStalls_lt v g
  revert hl
  generalize v.groupStalls g = l
  intro hl
  unfold forEach
  induction l generalizing u with
  | nil => exact h
  | cons b rest ih =>
    exact ih (State.spoilStall_keeps h b (hl b (List.mem_cons_self ..))) (fun k hk => hl k (List.mem_cons_of_mem _ hk))

theorem State.reportFails_keeps {s u : State} (h : Keeps s u) (fs : List (Nat × Nat)) : Keeps s (State.reportFails u fs) := by
  unfold State.reportFails
  repeat' first
    | with_reducible assumption
    | (intro zz; refine Keeps.cut (s := s) (t := zz) ?_ (fun hz => ?_); unfold zz)
    | (intro zz; refine Keeps.cut (s := s) (t := zz.2) ?_ (fun hz => ?_); unfold zz; rotate_left; (try clear_value zz); rotate_right)
    | (intro zz; refine Keeps.cut (s := s) (t := zz.1) ?_ (fun hz => ?_); unfold zz; rotate_left; (try clear_value zz); rotate_right)
    | (intro zz; refine Keeps.cut (s := s) (t := zz.2.2) ?_ (fun hz => ?_); unfold zz; rotate_left; (try clear_value zz); rotate_right)
    | (intro zz; subst zz)
    | lift_lets -underBinder
    | with_reducible first | apply State.count_keeps | apply State.setReg_keeps | apply Keeps.ite | apply Keeps.ite_snd | apply Keeps.ite_fst | refine forEach_keeps ?_ _ _ (fun _ _ _ => ?_)
    | split

theorem State.reportGroup_keeps {s u : State} (h : Keeps s u) (g : Nat) (obs : GroupObs) : Keeps s (State.reportGroup u g obs).1 := by
  unfold State.reportGroup
  repeat' first
    | with_reducible assumption
    | (intro zz; refine Keeps.cut (s := s) (t := zz) ?_ (fun hz => ?_); unfold zz)
    | (intro zz; refine Keeps.cut (s := s) (t := zz.2) ?_ (fun hz => ?_); unfold zz; rotate_left; (try clear_value zz); rotate_right)
    | (intro zz; refine Keeps.cut (s := s) (t := zz.1) ?_ (fun hz => ?_); unfold zz; rotate_left; (try clear_value zz); rotate_right)
    | (intro zz; refine Keeps.cut (s := s) (t := zz.2.2) ?_ (fun hz => ?_); unfold zz; rotate_left; (try clear_value zz); rotate_right)
    | (intro zz; subst zz)
    | lift_lets -underBinder
    | with_reducible first | apply State.reportFails_keeps | apply State.setReg_keeps | apply Keeps.ite | apply Keeps.ite_snd | apply Keeps.ite_fst
    | split

theorem State.abortGroup_keeps {s u : State} (h : Keeps s u)  : Keeps s (State.abortGroup u) := by
  unfold State.abortGroup
  repeat' first
    | with_reducible assumption
    | (intro zz; refine Keeps.cut (s := s) (t := zz) ?_ (fun hz => ?_); unfold zz)
    | (intro zz; subst zz)
    | lift_lets -underBinder
    | with_reducible first | refine spoilAll_keeps ?_ _ _ | apply State.nextGroup_keeps | apply State.groupResult_keeps | apply State.spoilStall_keeps | refine forEach_keeps ?_ _ _ (fun _ _ _ => ?_)
    | split

theorem execSelftestGroupDone_keeps {s u : State} (h : Keeps s u) (obs : GroupObs) : ∀ t, execSelftestGroupDone obs u = .next t → Keeps s t := by
  intro t ht
  unfold execSelftestGroupDone at ht
  obtain rfl := Host.Outcome.next.inj ht
  repeat' first
    | with_reducible assumption
    | (intro zz; refine Keeps.cut (s := s) (t := zz) ?_ (fun hz => ?_); unfold zz)
    | (intro zz; refine Keeps.cut (s := s) (t := zz.2) ?_ (fun hz => ?_); unfold zz; rotate_left; (try clear_value zz); rotate_right)
    | (intro zz; refine Keeps.cut (s := s) (t := zz.1) ?_ (fun hz => ?_); unfold zz; rotate_left; (try clear_value zz); rotate_right)
    | (intro zz; refine Keeps.cut (s := s) (t := zz.2.2) ?_ (fun hz => ?_); unfold zz; rotate_left; (try clear_value zz); rotate_right)
    | (intro zz; subst zz)
    | lift_lets -underBinder
    | with_reducible first | apply State.reportGroup_keeps | refine spoilAll_keeps ?_ _ _ | apply State.nextGroup_keeps | apply State.groupResult_keeps | apply State.autoRepair_keeps | apply State.spoilStall_keeps | apply State.setReg_keeps | apply Keeps.ite | apply Keeps.ite_snd | apply Keeps.ite_fst | refine forEach_keeps ?_ _ _ (fun _ _ _ => ?_) | refine foldl_keeps_snd _ _ _ ?_ (fun _ _ _ => ?_) | refine foldl_keeps_fst _ _ _ ?_ (fun _ _ _ => ?_) | refine foldl_keeps _ _ _ ?_ (fun _ _ _ => ?_)
    | split

end Sys2Proof.Machine
end

