-- ==== Sys2Proof/Laws/Keeps/Reset.lean ====
section
/-! SUPPORT. What the operations of Machine/Reset.lean keep. -/

namespace Sys2Proof.Machine

open Sys2Proof.Arith

set_option linter.unreachableTactic false
set_option linter.unusedTactic false
set_option linter.unusedVariables false
set_option linter.unusedSimpArgs false

theorem State.strapRegs_keeps {s u : State} (h : Keeps s u)  : Keeps s (State.strapRegs u) := by
  unfold State.strapRegs
  repeat' first
    | with_reducible assumption
    | (intro zz; refine Keeps.cut (s := s) (t := zz) ?_ (fun hz => ?_); unfold zz)
    | (intro zz; subst zz)
    | lift_lets -underBinder
    | with_reducible first | apply State.fset_keeps | apply Keeps.ite
    | split

theorem State.keepFw_keeps {s u : State} (h : Keeps s u) (pre : State) (mask : Nat) : Keeps s (State.keepFw u pre mask) := by
  unfold State.keepFw
  repeat' first
    | with_reducible assumption
    | with_reducible first | apply State.fset_keeps | apply State.setReg_keeps | apply Keeps.ite
    | split

theorem State.resetRegs_keeps {s u : State} (h : Keeps s u) (mask : Nat) : Keeps s (State.resetRegs u mask) := by
  unfold State.resetRegs
  repeat' first
    | with_reducible assumption
    | (intro zz; refine Keeps.cut (s := s) (t := zz) ?_ (fun hz => ?_); unfold zz)
    | (intro zz; refine Keeps.cut (s := s) (t := zz.2) ?_ (fun hz => ?_); unfold zz; rotate_left; (try clear_value zz); rotate_right)
    | (intro zz; refine Keeps.cut (s := s) (t := zz.1) ?_ (fun hz => ?_); unfold zz; rotate_left; (try clear_value zz); rotate_right)
    | (intro zz; refine Keeps.cut (s := s) (t := zz.2.2) ?_ (fun hz => ?_); unfold zz; rotate_left; (try clear_value zz); rotate_right)
    | (intro zz; subst zz)
    | lift_lets -underBinder
    | with_reducible first | apply State.keepFw_keeps | apply State.strapRegs_keeps | apply State.fset_keeps | apply State.setReg_keeps | apply Keeps.ite | apply Keeps.ite_snd | apply Keeps.ite_fst | refine forEach_keeps ?_ _ _ (fun _ _ _ => ?_)
    | split
    | ((fail_if_success (with_reducible refine Keeps.set_jtag ?_ _)); (with_reducible refine Keeps.set_snaps ?_ _ ?_); rotate_left; first | exact fun hc => Tbl.wf_const _ _ _ _ (State.canonical_snaps hc) | exact fun hc => Tbl.wf_filter _ _ _ (State.canonical_snaps hc))

theorem State.resetEng_keeps {s u : State} (h : Keeps s u) (mask : Nat) : Keeps s (State.resetEng u mask) := by
  unfold State.resetEng
  repeat' first
    | with_reducible assumption
    | (intro zz; refine Keeps.cut (s := s) (t := zz) ?_ (fun hz => ?_); unfold zz)
    | (intro zz; subst zz)
    | lift_lets -underBinder
    | with_reducible first | apply State.enterFailed_keeps | apply State.abortEngine_keeps | apply Keeps.ite
    | split
    | ((with_reducible refine State.setPair_keeps ?_ _ ?_); rotate_left; first | (intro hc; have q := State.canonical_pair hc; simp only [Pair.canonical, Bool.and_eq_true] at q ⊢; simp only [q, Tbl.wf_const, Tbl.wf_nil, List.all_nil, and_self]) | exact fun _ => by decide)
    | ((fail_if_success (with_reducible refine Keeps.set_jtag ?_ _)); (with_reducible refine Keeps.set_eng ?_ _ ?_); rotate_left; first | (intro hc; have q := State.canonical_eng hc; simp only [Eng.canonical, Bool.and_eq_true] at q ⊢; simp only [q, Tbl.wf_const, Tbl.wf_nil, List.all_nil, and_self]) | exact fun _ => by decide)
    | ((fail_if_success (with_reducible refine Keeps.set_jtag ?_ _)); (with_reducible refine Keeps.set_cores ?_ _ ?_); rotate_left; first | exact fun hc => Tbl.wf_const _ _ _ _ (State.canonical_cores hc) | exact fun _ => Tbl.wf_nil _ | exact fun hc => Tbl.wf_mapVals _ _ _ (State.canonical_cores hc))
    | ((fail_if_success (with_reducible refine Keeps.set_jtag ?_ _)); (with_reducible refine Keeps.set_ffts ?_ _ ?_); rotate_left; first | exact fun hc => Tbl.wf_const _ _ _ _ (State.canonical_ffts hc) | exact fun _ => Tbl.wf_nil _ | exact fun hc => Tbl.wf_mapVals _ _ _ (State.canonical_ffts hc))
    | ((with_reducible refine Keeps.set_eng_cores_ffts ?_ _ ?_ _ ?_ _ ?_); rotate_left; (first | (intro hc; have q := State.canonical_eng hc; simp only [Eng.canonical, Bool.and_eq_true] at q ⊢; simp only [q, Tbl.wf_const, Tbl.wf_nil, List.all_nil, and_self]) | exact fun _ => by decide) ; (first | exact fun hc => Tbl.wf_const _ _ _ _ (State.canonical_cores hc) | exact fun _ => Tbl.wf_nil _ | exact fun hc => Tbl.wf_mapVals _ _ _ (State.canonical_cores hc)) ; (first | exact fun hc => Tbl.wf_const _ _ _ _ (State.canonical_ffts hc) | exact fun _ => Tbl.wf_nil _ | exact fun hc => Tbl.wf_mapVals _ _ _ (State.canonical_ffts hc)))

theorem State.resetCtl_keeps {s u : State} (h : Keeps s u)  : Keeps s (State.resetCtl u) := by
  unfold State.resetCtl
  repeat' first
    | with_reducible assumption
    | (intro zz; refine Keeps.cut (s := s) (t := zz) ?_ (fun hz => ?_); unfold zz)
    | (intro zz; refine Keeps.cut (s := s) (t := zz.2) ?_ (fun hz => ?_); unfold zz; rotate_left; (try clear_value zz); rotate_right)
    | (intro zz; refine Keeps.cut (s := s) (t := zz.1) ?_ (fun hz => ?_); unfold zz; rotate_left; (try clear_value zz); rotate_right)
    | (intro zz; refine Keeps.cut (s := s) (t := zz.2.2) ?_ (fun hz => ?_); unfold zz; rotate_left; (try clear_value zz); rotate_right)
    | (intro zz; subst zz)
    | lift_lets -underBinder
    | with_reducible first | apply State.frameDone_keeps | apply State.reown_keeps | apply State.fset_keeps | apply Keeps.ite_snd | refine forEach_keeps ?_ _ _ (fun _ _ _ => ?_)
    | split
    | ((fail_if_success (with_reducible refine Keeps.set_jtag ?_ _)); (with_reducible refine Keeps.set_eng ?_ _ ?_); rotate_left; first | (intro hc; have q := State.canonical_eng hc; simp only [Eng.canonical, Bool.and_eq_true] at q ⊢; simp only [q, Tbl.wf_const, Tbl.wf_nil, List.all_nil, and_self]) | exact fun _ => by decide)
    | ((fail_if_success (with_reducible refine Keeps.set_jtag ?_ _)); (with_reducible refine Keeps.set_hif ?_ _ ?_); rotate_left; first | (intro hc; have q := State.canonical_hif hc; simp only [Hif.canonical, Bool.and_eq_true] at q ⊢; simp only [q, Tbl.wf_const, Tbl.wf_nil, List.all_nil, and_self]) | exact fun _ => by decide)
    | ((fail_if_success (with_reducible refine Keeps.set_jtag ?_ _)); (with_reducible refine Keeps.set_tim ?_ _ ?_); rotate_left; first | (intro hc; have q := State.canonical_tim hc; simp only [TimSt.canonical, Bool.and_eq_true] at q ⊢; simp only [q, Tbl.wf_const, Tbl.wf_nil, List.all_nil, and_self]) | exact fun _ => by decide)
    | ((fail_if_success (with_reducible refine Keeps.set_jtag ?_ _)); (with_reducible refine Keeps.set_blk ?_ _ ?_); rotate_left; first | exact fun hc => State.canonical_reqs hc | exact fun hc => Tbl.wf_const _ _ _ _ (State.canonical_reqs hc) | exact fun _ => Tbl.wf_nil _)
    | ((with_reducible refine Keeps.set_eng_tim_blk_hif ?_ _ ?_ _ ?_ _ ?_ _ ?_); rotate_left; (first | (intro hc; have q := State.canonical_eng hc; simp only [Eng.canonical, Bool.and_eq_true] at q ⊢; simp only [q, Tbl.wf_const, Tbl.wf_nil, List.all_nil, and_self]) | exact fun _ => by decide) ; (first | (intro hc; have q := State.canonical_tim hc; simp only [TimSt.canonical, Bool.and_eq_true] at q ⊢; simp only [q, Tbl.wf_const, Tbl.wf_nil, List.all_nil, and_self]) | exact fun _ => by decide) ; (first | exact fun hc => State.canonical_reqs hc | exact fun hc => Tbl.wf_const _ _ _ _ (State.canonical_reqs hc) | exact fun _ => Tbl.wf_nil _) ; (first | (intro hc; have q := State.canonical_hif hc; simp only [Hif.canonical, Bool.and_eq_true] at q ⊢; simp only [q, Tbl.wf_const, Tbl.wf_nil, List.all_nil, and_self]) | exact fun _ => by decide))

theorem State.resetMem_keeps {s u : State} (h : Keeps s u)  : Keeps s (State.resetMem u) := by
  unfold State.resetMem
  refine Keeps.set_waiters_lockReqs_cores_yard_weevil_blk_tst_hif h _ ?_ _ ?_ _ ?_ _ ?_ _ ?_ _ ?_ _ ?_ _ ?_
  · exact fun _ => Tbl.wf_nil _
  · exact fun _ => Tbl.wf_nil _
  · exact fun hc => Tbl.wf_mapVals _ _ _ (State.canonical_cores hc)
  · exact fun _ => rfl
  · exact fun _ => rfl
  · exact fun _ => Tbl.wf_nil _
  · rfl
  · intro hc
    have q := State.canonical_hif hc
    simp only [Hif.canonical, Bool.and_eq_true] at q ⊢
    simp only [q, Tbl.wf_nil, and_self]

theorem State.resetHif_keeps {s u : State} (h : Keeps s u)  : Keeps s (State.resetHif u) := by
  unfold State.resetHif
  refine Keeps.set_hif h _ (fun hc => ?_)
  have q := State.canonical_hif hc
  simp only [Hif.canonical, Bool.and_eq_true] at q ⊢
  simp only [q, Tbl.wf_nil, and_self, and_true, true_and]
  exact Tbl.wf_foldl _ _ (fun t b ht => Tbl.wf_const _ _ _ _ ht) _ _ (Tbl.wf_nil _)

theorem State.endTransactions_keeps {s u : State} (h : Keeps s u) (mask : Nat) : Keeps s (State.endTransactions u mask) := by
  unfold State.endTransactions
  repeat' first
    | with_reducible assumption
    | (intro zz; refine Keeps.cut (s := s) (t := zz) ?_ (fun hz => ?_); unfold zz)
    | (intro zz; refine Keeps.cut (s := s) (t := zz.2) ?_ (fun hz => ?_); unfold zz; rotate_left; (try clear_value zz); rotate_right)
    | (intro zz; refine Keeps.cut (s := s) (t := zz.1) ?_ (fun hz => ?_); unfold zz; rotate_left; (try clear_value zz); rotate_right)
    | (intro zz; refine Keeps.cut (s := s) (t := zz.2.2) ?_ (fun hz => ?_); unfold zz; rotate_left; (try clear_value zz); rotate_right)
    | (intro zz; subst zz)
    | lift_lets -underBinder
    | with_reducible first | apply State.undefinedData_keeps | apply Keeps.ite | apply Keeps.ite_snd | apply Keeps.ite_fst | refine foldl_keeps_snd _ _ _ ?_ (fun _ _ _ => ?_) | refine foldl_keeps_fst _ _ _ ?_ (fun _ _ _ => ?_) | refine foldl_keeps _ _ _ ?_ (fun _ _ _ => ?_)
    | split
    | ((fail_if_success (with_reducible refine Keeps.set_jtag ?_ _)); (with_reducible refine Keeps.set_yard ?_ _ ?_); rotate_left; first | (intro hc; have q := State.canonical_yard hc; simp only [YardSt.canonical, Bool.and_eq_true] at q ⊢; simp only [q, Tbl.wf_const, Tbl.wf_nil, List.all_nil, and_self]) | exact fun _ => by decide)

theorem State.showClocks_keeps {s u : State} (h : Keeps s u)  : Keeps s (State.showClocks u) := by
  unfold State.showClocks
  repeat' first
    | with_reducible assumption
    | with_reducible first | apply State.fset_keeps | apply Keeps.ite
    | split

theorem State.enterReset_keeps {s u : State} (h : Keeps s u) (mask : Nat) : Keeps s (State.enterReset u mask) := by
  unfold State.enterReset
  repeat' first
    | with_reducible assumption
    | (intro zz; refine Keeps.cut (s := s) (t := zz) ?_ (fun hz => ?_); unfold zz)
    | (intro zz; subst zz)
    | lift_lets -underBinder
    | with_reducible first | apply State.showClocks_keeps | apply State.endTransactions_keeps | apply State.resetHif_keeps | apply State.resetMem_keeps | apply State.resetCtl_keeps | apply State.resetEng_keeps | apply State.resetRegs_keeps | apply State.settleInput_keeps | apply State.breakLocks_keeps | apply State.sbChanged_keeps | apply State.fset_keeps | apply Keeps.ite | refine forEach_keeps ?_ _ _ (fun _ _ _ => ?_)
    | split
    | ((fail_if_success (with_reducible refine Keeps.set_jtag ?_ _)); (with_reducible refine Keeps.set_clk ?_ _ ?_); rotate_left; first | (intro hc; have q := State.canonical_clk hc; simp only [ClkSt.canonical, Bool.and_eq_true] at q ⊢; simp only [q, Tbl.wf_const, Tbl.wf_nil, List.all_nil, and_self]) | exact fun _ => by decide)
    | ((fail_if_success (with_reducible refine Keeps.set_jtag ?_ _)); (with_reducible refine Keeps.set_tim ?_ _ ?_); rotate_left; first | (intro hc; have q := State.canonical_tim hc; simp only [TimSt.canonical, Bool.and_eq_true] at q ⊢; simp only [q, Tbl.wf_const, Tbl.wf_nil, List.all_nil, and_self]) | exact fun _ => by decide)
    | ((fail_if_success (with_reducible refine Keeps.set_jtag ?_ _)); (with_reducible refine Keeps.set_link ?_ _ ?_); rotate_left; first | (intro hc; have q := State.canonical_link hc; simp only [Link.canonical, Bool.and_eq_true] at q ⊢; simp only [q, Tbl.wf_const, Tbl.wf_nil, List.all_nil, and_self]) | exact fun _ => by decide)
    | ((fail_if_success (with_reducible refine Keeps.set_jtag ?_ _)); (with_reducible refine Keeps.set_pair ?_ _ ?_); rotate_left; first | (intro hc; have q := State.canonical_pair hc; simp only [Pair.canonical, Bool.and_eq_true] at q ⊢; simp only [q, Tbl.wf_const, Tbl.wf_nil, List.all_nil, and_self]) | exact fun _ => by decide)
    | ((fail_if_success (with_reducible refine Keeps.set_jtag ?_ _)); (with_reducible refine Keeps.set_ports ?_ _ ?_); rotate_left; first | exact fun hc => Tbl.wf_const _ _ _ _ (State.canonical_ports hc) | exact fun _ => Tbl.wf_nil _ | exact fun hc => Tbl.wf_mapVals _ _ _ (State.canonical_ports hc))
    | ((fail_if_success (with_reducible refine Keeps.set_jtag ?_ _)); (with_reducible refine Keeps.set_mics ?_ _ ?_); rotate_left; first | exact fun hc => Tbl.wf_const _ _ _ _ (State.canonical_mics hc) | exact fun _ => Tbl.wf_nil _ | exact fun hc => Tbl.wf_mapVals _ _ _ (State.canonical_mics hc))
    | ((fail_if_success (with_reducible refine Keeps.set_jtag ?_ _)); (with_reducible refine Keeps.set_lanes ?_ _ ?_); rotate_left; first | exact fun hc => Tbl.wf_const _ _ _ _ (State.canonical_lanes hc) | exact fun _ => Tbl.wf_nil _ | exact fun hc => Tbl.wf_mapVals _ _ _ (State.canonical_lanes hc))
    | ((fail_if_success (with_reducible refine Keeps.set_jtag ?_ _)); (with_reducible refine Keeps.set_rtpRx ?_ _ ?_); rotate_left; first | exact fun hc => Tbl.wf_const _ _ _ _ (State.canonical_rtpRx hc) | exact fun _ => Tbl.wf_nil _ | exact fun hc => Tbl.wf_mapVals _ _ _ (State.canonical_rtpRx hc))
    | ((fail_if_success (with_reducible refine Keeps.set_jtag ?_ _)); (with_reducible refine Keeps.set_rtpTx ?_ _ ?_); rotate_left; first | exact fun hc => Tbl.wf_const _ _ _ _ (State.canonical_rtpTx hc) | exact fun _ => Tbl.wf_nil _ | exact fun hc => Tbl.wf_mapVals _ _ _ (State.canonical_rtpTx hc))
    | ((fail_if_success (with_reducible refine Keeps.set_jtag ?_ _)); (with_reducible refine Keeps.set_rst ?_ _))
    | ((with_reducible refine Keeps.set_lanes_rtpRx_rtpTx_link_pair ?_ _ ?_ _ ?_ _ ?_ _ ?_ _ ?_); rotate_left; (first | exact fun hc => Tbl.wf_const _ _ _ _ (State.canonical_lanes hc) | exact fun _ => Tbl.wf_nil _ | exact fun hc => Tbl.wf_mapVals _ _ _ (State.canonical_lanes hc)) ; (first | exact fun hc => Tbl.wf_const _ _ _ _ (State.canonical_rtpRx hc) | exact fun _ => Tbl.wf_nil _ | exact fun hc => Tbl.wf_mapVals _ _ _ (State.canonical_rtpRx hc)) ; (first | exact fun hc => Tbl.wf_const _ _ _ _ (State.canonical_rtpTx hc) | exact fun _ => Tbl.wf_nil _ | exact fun hc => Tbl.wf_mapVals _ _ _ (State.canonical_rtpTx hc)) ; (first | (intro hc; have q := State.canonical_link hc; simp only [Link.canonical, Bool.and_eq_true] at q ⊢; simp only [q, Tbl.wf_const, Tbl.wf_nil, List.all_nil, and_self]) | exact fun _ => by decide) ; (first | (intro hc; have q := State.canonical_pair hc; simp only [Pair.canonical, Bool.and_eq_true] at q ⊢; simp only [q, Tbl.wf_const, Tbl.wf_nil, List.all_nil, and_self]) | exact fun _ => by decide))
    | ((with_reducible refine Keeps.set_ports_mics ?_ _ ?_ _ ?_); rotate_left; (first | exact fun hc => Tbl.wf_const _ _ _ _ (State.canonical_ports hc) | exact fun _ => Tbl.wf_nil _ | exact fun hc => Tbl.wf_mapVals _ _ _ (State.canonical_ports hc)) ; (first | exact fun hc => Tbl.wf_const _ _ _ _ (State.canonical_mics hc) | exact fun _ => Tbl.wf_nil _ | exact fun hc => Tbl.wf_mapVals _ _ _ (State.canonical_mics hc)))
    | ((with_reducible refine Keeps.set_clk_tim ?_ _ ?_ _ ?_); rotate_left; (first | (intro hc; have q := State.canonical_clk hc; simp only [ClkSt.canonical, Bool.and_eq_true] at q ⊢; simp only [q, Tbl.wf_const, Tbl.wf_nil, List.all_nil, and_self]) | exact fun _ => by decide) ; (first | (intro hc; have q := State.canonical_tim hc; simp only [TimSt.canonical, Bool.and_eq_true] at q ⊢; simp only [q, Tbl.wf_const, Tbl.wf_nil, List.all_nil, and_self]) | exact fun _ => by decide))

theorem State.cause_keeps {s u : State} (h : Keeps s u) (source : Nat) : Keeps s (State.cause u source) := by
  unfold State.cause
  repeat' first
    | with_reducible assumption
    | with_reducible first | apply State.fset_keeps
    | split

theorem State.clockLoss_keeps {s u : State} (h : Keeps s u)  : Keeps s (State.clockLoss u) := by
  unfold State.clockLoss
  repeat' first
    | with_reducible assumption
    | (intro zz; refine Keeps.cut (s := s) (t := zz) ?_ (fun hz => ?_); unfold zz)
    | (intro zz; subst zz)
    | lift_lets -underBinder
    | with_reducible first | apply State.cause_keeps | apply State.enterReset_keeps | apply State.showClocks_keeps | apply State.fset_keeps | apply Keeps.ite
    | split

theorem State.assertSource_keeps {s u : State} (h : Keeps s u) (source : Nat) (reach : Nat) : Keeps s (State.assertSource u source reach) := by
  unfold State.assertSource
  repeat' first
    | with_reducible assumption
    | (intro zz; refine Keeps.cut (s := s) (t := zz) ?_ (fun hz => ?_); unfold zz)
    | (intro zz; subst zz)
    | lift_lets -underBinder
    | with_reducible first | apply State.clockLoss_keeps | apply State.cause_keeps | apply State.enterReset_keeps | apply Keeps.ite
    | split

theorem State.endQuiesce_keeps {s u : State} (h : Keeps s u)  : Keeps s (State.endQuiesce u) := by
  unfold State.endQuiesce
  repeat' first
    | with_reducible assumption
    | (intro zz; refine Keeps.cut (s := s) (t := zz) ?_ (fun hz => ?_); unfold zz)
    | (intro zz; subst zz)
    | lift_lets -underBinder
    | with_reducible first | apply State.assertSource_keeps | apply Keeps.ite
    | split
    | ((fail_if_success (with_reducible refine Keeps.set_jtag ?_ _)); (with_reducible refine Keeps.set_rst ?_ _))

theorem State.assertNow_keeps {s u : State} (h : Keeps s u) (source : Nat) (reach : Nat) : Keeps s (State.assertNow u source reach) := by
  unfold State.assertNow
  repeat' first
    | with_reducible assumption
    | (intro zz; refine Keeps.cut (s := s) (t := zz) ?_ (fun hz => ?_); unfold zz)
    | (intro zz; subst zz)
    | lift_lets -underBinder
    | with_reducible first | apply State.endQuiesce_keeps | apply State.assertSource_keeps | refine forEach_keeps ?_ _ _ (fun _ _ _ => ?_)
    | split

theorem State.levelSource_keeps {s u : State} (h : Keeps s u) (source : Nat) (reach : Nat) (on : Bool) : Keeps s (State.levelSource u source reach on) := by
  unfold State.levelSource
  repeat' first
    | with_reducible assumption
    | (intro zz; refine Keeps.cut (s := s) (t := zz) ?_ (fun hz => ?_); unfold zz)
    | (intro zz; subst zz)
    | lift_lets -underBinder
    | with_reducible first | apply State.assertNow_keeps | apply Keeps.ite
    | split
    | ((fail_if_success (with_reducible refine Keeps.set_jtag ?_ _)); (with_reducible refine Keeps.set_rst ?_ _))

theorem execSupplyReset_keeps {s u : State} (h : Keeps s u) (low : Bool) : ∀ t, execSupplyReset low u = .next t → Keeps s t := by
  intro t ht
  unfold execSupplyReset at ht
  obtain rfl := Host.Outcome.next.inj ht
  repeat' first
    | with_reducible assumption
    | (intro zz; refine Keeps.cut (s := s) (t := zz) ?_ (fun hz => ?_); unfold zz)
    | (intro zz; subst zz)
    | lift_lets -underBinder
    | with_reducible first | apply State.levelSource_keeps | apply State.fset_keeps | apply Keeps.ite
    | split
    | ((fail_if_success (with_reducible refine Keeps.set_jtag ?_ _)); (with_reducible refine Keeps.set_rst ?_ _))

theorem execResetN_keeps {s u : State} (h : Keeps s u) (low : Bool) : ∀ t, execResetN low u = .next t → Keeps s t := by
  intro t ht
  unfold execResetN at ht
  obtain rfl := Host.Outcome.next.inj ht
  repeat' first
    | with_reducible assumption
    | with_reducible first | apply State.levelSource_keeps
    | split

theorem execTherm_keeps {s u : State} (h : Keeps s u) (hot : Bool) : ∀ t, execTherm hot u = .next t → Keeps s t := by
  intro t ht
  unfold execTherm at ht
  obtain rfl := Host.Outcome.next.inj ht
  repeat' first
    | with_reducible assumption
    | with_reducible first | apply State.levelSource_keeps
    | split

theorem execPcieReset_keeps {s u : State} (h : Keeps s u) (kind : Nat) : ∀ t, execPcieReset kind u = .next t → Keeps s t := by
  intro t ht
  unfold execPcieReset at ht
  obtain rfl := Host.Outcome.next.inj ht
  repeat' first
    | with_reducible assumption
    | (intro zz; refine Keeps.cut (s := s) (t := zz) ?_ (fun hz => ?_); unfold zz)
    | (intro zz; subst zz)
    | lift_lets -underBinder
    | with_reducible first | apply State.levelSource_keeps | apply State.askReset_keeps
    | split

theorem execQuiesceDone_keeps {s u : State} (h : Keeps s u) (timedOut : Bool) : ∀ t, execQuiesceDone timedOut u = .next t → Keeps s t := by
  intro t ht
  unfold execQuiesceDone at ht
  obtain rfl := Host.Outcome.next.inj ht
  repeat' first
    | with_reducible assumption
    | with_reducible first | apply State.endQuiesce_keeps | apply State.count_keeps | apply Keeps.ite
    | split

theorem State.writeSoft_keeps {s u : State} (h : Keeps s u) (value : W32) : Keeps s (State.writeSoft u value) := by
  unfold State.writeSoft
  repeat' first
    | with_reducible assumption
    | (intro zz; refine Keeps.cut (s := s) (t := zz) ?_ (fun hz => ?_); unfold zz)
    | (intro zz; subst zz)
    | lift_lets -underBinder
    | with_reducible first | apply State.abortGroup_keeps | apply State.askReset_keeps | apply State.fset_keeps | apply Keeps.ite
    | split
    | ((fail_if_success (with_reducible refine Keeps.set_jtag ?_ _)); (with_reducible refine Keeps.set_rst ?_ _))

theorem execSoftPulse_keeps {s u : State} (h : Keeps s u) (value : W32) : ∀ t, execSoftPulse value u = .next t → Keeps s t := by
  intro t ht
  unfold execSoftPulse at ht
  obtain rfl := Host.Outcome.next.inj ht
  repeat' first
    | with_reducible assumption
    | with_reducible first | apply State.writeSoft_keeps
    | split

theorem execSoftHold_keeps {s u : State} (h : Keeps s u) (value : W32) : ∀ t, execSoftHold value u = .next t → Keeps s t := by
  intro t ht
  unfold execSoftHold at ht
  obtain rfl := Host.Outcome.next.inj ht
  repeat' first
    | with_reducible assumption
    | with_reducible first | apply State.writeSoft_keeps
    | split

theorem execClkloss_keeps {s u : State} (h : Keeps s u) (clock : Nat) : ∀ t, execClkloss clock u = .next t → Keeps s t := by
  intro t ht
  unfold execClkloss at ht
  obtain rfl := Host.Outcome.next.inj ht
  repeat' first
    | with_reducible assumption
    | (intro zz; refine Keeps.cut (s := s) (t := zz) ?_ (fun hz => ?_); unfold zz)
    | (intro zz; subst zz)
    | lift_lets -underBinder
    | with_reducible first | apply State.endQuiesce_keeps | apply State.clockLoss_keeps | apply Keeps.ite | refine forEach_keeps ?_ _ _ (fun _ _ _ => ?_)
    | split
    | ((fail_if_success (with_reducible refine Keeps.set_jtag ?_ _)); (with_reducible refine Keeps.set_rst ?_ _))

theorem execClockGood_keeps {s u : State} (h : Keeps s u) (clock : Nat) : ∀ t, execClockGood clock u = .next t → Keeps s t := by
  intro t ht
  unfold execClockGood at ht
  obtain rfl := Host.Outcome.next.inj ht
  repeat' first
    | with_reducible assumption
    | (intro zz; refine Keeps.cut (s := s) (t := zz) ?_ (fun hz => ?_); unfold zz)
    | (intro zz; subst zz)
    | lift_lets -underBinder
    | with_reducible first | apply State.showClocks_keeps | apply Keeps.ite
    | split
    | ((fail_if_success (with_reducible refine Keeps.set_jtag ?_ _)); (with_reducible refine Keeps.set_rst ?_ _))

theorem execBulkClockLoss_keeps {s u : State} (h : Keeps s u)  : ∀ t, execBulkClockLoss u = .next t → Keeps s t := by
  intro t ht
  unfold execBulkClockLoss at ht
  obtain rfl := Host.Outcome.next.inj ht
  repeat' first
    | with_reducible assumption
    | (intro zz; refine Keeps.cut (s := s) (t := zz) ?_ (fun hz => ?_); unfold zz)
    | (intro zz; subst zz)
    | lift_lets -underBinder
    | with_reducible first | apply State.record_keeps | apply State.fset_keeps | apply Keeps.ite
    | split
    | ((fail_if_success (with_reducible refine Keeps.set_jtag ?_ _)); (with_reducible refine Keeps.set_blk ?_ _ ?_); rotate_left; first | exact fun hc => State.canonical_reqs hc | exact fun hc => Tbl.wf_const _ _ _ _ (State.canonical_reqs hc) | exact fun _ => Tbl.wf_nil _)
    | ((fail_if_success (with_reducible refine Keeps.set_jtag ?_ _)); (with_reducible refine Keeps.set_bulk ?_ _ ?_); rotate_left; first | exact fun _ => Tbl.wf_nil _)
    | ((with_reducible refine Keeps.set_bulk_blk ?_ _ ?_ _ ?_); rotate_left; (first | exact fun _ => Tbl.wf_nil _) ; (first | exact fun hc => State.canonical_reqs hc | exact fun hc => Tbl.wf_const _ _ _ _ (State.canonical_reqs hc) | exact fun _ => Tbl.wf_nil _))

theorem execPor_keeps {s u : State} (h : Keeps s u) (straps : Straps) : ∀ t, execPor straps u = .next t → Keeps s t := by
  intro t ht
  unfold execPor at ht
  obtain rfl := Host.Outcome.next.inj ht
  have hv : Keeps s { pending := u.pending, freeCtr := u.freeCtr, host := u.host, flash := u.flash, gpioIn := u.gpioIn,
                      hif := { neighbour := true }, rst := { clocks := 1, level := u.rst.level, mask := 0xFF, i2cPins := straps.i2c.toNat } } := by
    refine h.of rfl (Nat.le_refl _) (fun hu => ?_)
    have c := (State.canonical_iff u).mp hu
    have d := (State.memCanonical_iff u).mp c.1
    refine (State.canonical_iff _).mpr ⟨(State.memCanonical_iff _).mpr ⟨rfl, rfl, d.2.2.1, d.2.2.2.1, rfl, rfl⟩, ?_⟩
    refine ⟨rfl, (State.unitsCanonical_iff _).mpr ⟨rfl, rfl, rfl, rfl, rfl, rfl, rfl, rfl, rfl⟩, rfl, ?_⟩
    exact ⟨rfl, rfl, rfl, rfl, rfl, rfl, rfl, rfl⟩
  repeat' first
    | with_reducible exact hv
    | with_reducible first | apply State.showClocks_keeps | apply State.strapRegs_keeps | apply State.fset_keeps | apply State.setReg_keeps
    | split

theorem State.releaseMem_keeps {s u : State} (h : Keeps s u)  : Keeps s (State.releaseMem u) := by
  unfold State.releaseMem
  repeat' first
    | with_reducible assumption
    | (intro zz; refine Keeps.cut (s := s) (t := zz) ?_ (fun hz => ?_); unfold zz)
    | (intro zz; subst zz)
    | lift_lets -underBinder
    | with_reducible first | apply State.applyRepair_keeps | apply State.startPass_keeps | apply State.record_keeps | apply State.startFlush_keeps | apply Keeps.ite
    | split

theorem State.setFwState_keeps {s u : State} (h : Keeps s u) (v : Nat) : Keeps s (State.setFwState u v) := by
  unfold State.setFwState
  repeat' first
    | with_reducible assumption
    | with_reducible first | apply State.msix_keeps | apply State.sbChanged_keeps | apply State.fset_keeps
    | split

theorem State.neighbourBoot_keeps {s u : State} (h : Keeps s u)  : Keeps s (State.neighbourBoot u) := by
  unfold State.neighbourBoot
  repeat' first
    | with_reducible assumption
    | (intro zz; refine Keeps.cut (s := s) (t := zz) ?_ (fun hz => ?_); unfold zz)
    | (intro zz; subst zz)
    | lift_lets -underBinder
    | with_reducible first | apply State.fset_keeps | apply Keeps.ite | refine forEach_keeps ?_ _ _ (fun _ _ _ => ?_)
    | split
    | ((fail_if_success (with_reducible refine Keeps.set_jtag ?_ _)); (with_reducible refine Keeps.set_hif ?_ _ ?_); rotate_left; first | (intro hc; have q := State.canonical_hif hc; simp only [Hif.canonical, Bool.and_eq_true] at q ⊢; simp only [q, Tbl.wf_const, Tbl.wf_nil, List.all_nil, and_self]) | exact fun _ => by decide)

theorem State.releaseCtl_keeps {s u : State} (h : Keeps s u)  : Keeps s (State.releaseCtl u) := by
  unfold State.releaseCtl
  repeat' first
    | with_reducible assumption
    | (intro zz; refine Keeps.cut (s := s) (t := zz) ?_ (fun hz => ?_); unfold zz)
    | (intro zz; subst zz)
    | lift_lets -underBinder
    | with_reducible first | apply State.neighbourBoot_keeps | apply State.setFwState_keeps | apply State.checkTack_keeps | apply State.answer_keeps | apply State.fset_keeps | apply Keeps.ite | refine forEach_keeps ?_ _ _ (fun _ _ _ => ?_)
    | split
    | ((fail_if_success (with_reducible refine Keeps.set_jtag ?_ _)); (with_reducible refine Keeps.set_eng ?_ _ ?_); rotate_left; first | (intro hc; have q := State.canonical_eng hc; simp only [Eng.canonical, Bool.and_eq_true] at q ⊢; simp only [q, Tbl.wf_const, Tbl.wf_nil, List.all_nil, and_self]) | exact fun _ => by decide)
    | ((fail_if_success (with_reducible refine Keeps.set_jtag ?_ _)); (with_reducible refine Keeps.set_hif ?_ _ ?_); rotate_left; first | (intro hc; have q := State.canonical_hif hc; simp only [Hif.canonical, Bool.and_eq_true] at q ⊢; simp only [q, Tbl.wf_const, Tbl.wf_nil, List.all_nil, and_self]) | exact fun _ => by decide)

theorem State.restoreAddr_keeps {s u : State} (h : Keeps s u)  : Keeps s (State.restoreAddr u) := by
  unfold State.restoreAddr
  repeat' first
    | with_reducible assumption
    | (intro zz; refine Keeps.cut (s := s) (t := zz) ?_ (fun hz => ?_); unfold zz)
    | (intro zz; subst zz)
    | lift_lets -underBinder
    | with_reducible first | apply State.fset_keeps | apply Keeps.ite
    | split

theorem State.releaseAon_keeps {s u : State} (h : Keeps s u)  : Keeps s (State.releaseAon u) := by
  unfold State.releaseAon
  repeat' first
    | with_reducible assumption
    | (intro zz; refine Keeps.cut (s := s) (t := zz) ?_ (fun hz => ?_); unfold zz)
    | (intro zz; subst zz)
    | lift_lets -underBinder
    | split
    | ((fail_if_success (with_reducible refine Keeps.set_jtag ?_ _)); (with_reducible refine Keeps.set_rst ?_ _))

theorem State.releaseLnk_keeps {s u : State} (h : Keeps s u)  : Keeps s (State.releaseLnk u) := by
  unfold State.releaseLnk
  repeat' first
    | with_reducible assumption
    | with_reducible first | apply State.restoreAddr_keeps | apply State.startPair_keeps | apply State.refreshPpm_keeps | apply Keeps.ite
    | split

theorem State.releaseEng_keeps {s u : State} (h : Keeps s u)  : Keeps s (State.releaseEng u) := by
  unfold State.releaseEng
  repeat' first
    | with_reducible assumption
    | (intro zz; refine Keeps.cut (s := s) (t := zz) ?_ (fun hz => ?_); unfold zz)
    | (intro zz; subst zz)
    | lift_lets -underBinder
    | with_reducible first | apply State.abortGroup_keeps | apply State.startPair_keeps | apply State.leaveFailed_keeps | apply Keeps.ite
    | split

theorem State.endSequence_keeps {s u : State} (h : Keeps s u)  : Keeps s (State.endSequence u) := by
  unfold State.endSequence
  repeat' first
    | with_reducible assumption
    | (intro zz; refine Keeps.cut (s := s) (t := zz) ?_ (fun hz => ?_); unfold zz)
    | (intro zz; subst zz)
    | lift_lets -underBinder
    | with_reducible first | apply State.record_keeps | apply Keeps.ite
    | split
    | ((fail_if_success (with_reducible refine Keeps.set_jtag ?_ _)); (with_reducible refine Keeps.set_rst ?_ _))

theorem execDomainRelease_keeps {s u : State} (h : Keeps s u)  : ∀ t, execDomainRelease u = .next t → Keeps s t := by
  intro t ht
  unfold execDomainRelease at ht
  obtain rfl := Host.Outcome.next.inj ht
  repeat' first
    | with_reducible assumption
    | (intro zz; refine Keeps.cut (s := s) (t := zz) ?_ (fun hz => ?_); unfold zz)
    | (intro zz; subst zz)
    | lift_lets -underBinder
    | with_reducible first | apply State.endSequence_keeps | apply State.releaseEng_keeps | apply State.releaseLnk_keeps | apply State.releaseAon_keeps | apply State.releaseCtl_keeps | apply State.releaseMem_keeps | apply State.sbChanged_keeps | apply State.fset_keeps
    | split
    | ((fail_if_success (with_reducible refine Keeps.set_jtag ?_ _)); (with_reducible refine Keeps.set_rst ?_ _))

theorem State.capFlush_keeps {s u : State} (h : Keeps s u)  : Keeps s (State.capFlush u) := by
  unfold State.capFlush
  repeat' first
    | with_reducible assumption
    | (intro zz; refine Keeps.cut (s := s) (t := zz) ?_ (fun hz => ?_); unfold zz)
    | (intro zz; subst zz)
    | lift_lets -underBinder
    | with_reducible first | apply State.count_keeps | apply State.setReg_keeps | apply Keeps.ite
    | split

theorem State.muteTo_keeps {s u : State} (h : Keeps s u) (goal : Int) : Keeps s (State.muteTo u goal) := by
  unfold State.muteTo
  repeat' first
    | with_reducible assumption
    | (intro zz; refine Keeps.cut (s := s) (t := zz) ?_ (fun hz => ?_); unfold zz)
    | (intro zz; subst zz)
    | lift_lets -underBinder
    | split
    | ((fail_if_success (with_reducible refine Keeps.set_jtag ?_ _)); (with_reducible refine Keeps.set_rst ?_ _))

theorem execSupplyWarning_keeps {s u : State} (h : Keeps s u) (below : Nat) (pfail : Bool) : ∀ t, execSupplyWarning below pfail u = .next t → Keeps s t := by
  intro t ht
  unfold execSupplyWarning at ht
  obtain rfl := Host.Outcome.next.inj ht
  repeat' first
    | with_reducible assumption
    | (intro zz; refine Keeps.cut (s := s) (t := zz) ?_ (fun hz => ?_); unfold zz)
    | (intro zz; subst zz)
    | lift_lets -underBinder
    | with_reducible first | apply State.muteTo_keeps | apply State.capFlush_keeps | apply State.abortGroup_keeps | apply State.record_keeps | apply State.startFlush_keeps | apply State.fset_keeps | apply Keeps.ite | refine forEach_keeps ?_ _ _ (fun _ _ _ => ?_)
    | split
    | ((fail_if_success (with_reducible refine Keeps.set_jtag ?_ _)); (with_reducible refine Keeps.set_rst ?_ _))

theorem execSupplyRecovery_keeps {s u : State} (h : Keeps s u)  : ∀ t, execSupplyRecovery u = .next t → Keeps s t := by
  intro t ht
  unfold execSupplyRecovery at ht
  obtain rfl := Host.Outcome.next.inj ht
  repeat' first
    | with_reducible assumption
    | (intro zz; refine Keeps.cut (s := s) (t := zz) ?_ (fun hz => ?_); unfold zz)
    | (intro zz; subst zz)
    | lift_lets -underBinder
    | with_reducible first | apply State.muteTo_keeps | apply State.record_keeps | apply State.fset_keeps | apply Keeps.ite
    | split
    | ((fail_if_success (with_reducible refine Keeps.set_jtag ?_ _)); (with_reducible refine Keeps.set_rst ?_ _))

theorem execTjHigh_keeps {s u : State} (h : Keeps s u) (t0 : Int) (t1 : Int) (t2 : Int) (t3 : Int) : ∀ t, execTjHigh t0 t1 t2 t3 u = .next t → Keeps s t := by
  intro t ht
  unfold execTjHigh at ht
  obtain rfl := Host.Outcome.next.inj ht
  repeat' first
    | with_reducible assumption
    | (intro zz; refine Keeps.cut (s := s) (t := zz) ?_ (fun hz => ?_); unfold zz)
    | (intro zz; subst zz)
    | lift_lets -underBinder
    | with_reducible first | apply State.record_keeps | apply Keeps.ite
    | split
    | ((with_reducible refine State.setPair_keeps ?_ _ ?_); rotate_left; first | (intro hc; have q := State.canonical_pair hc; simp only [Pair.canonical, Bool.and_eq_true] at q ⊢; simp only [q, Tbl.wf_const, Tbl.wf_nil, List.all_nil, and_self]) | exact fun _ => by decide)

end Sys2Proof.Machine
end

