-- ==== Sys2Proof/Laws/Keeps/Pins.lean ====
section
/-! SUPPORT. What the operations of Machine/Pins.lean keep. -/

namespace Sys2Proof.Machine

open Sys2Proof.Arith

set_option linter.unreachableTactic false
set_option linter.unusedTactic false
set_option linter.unusedVariables false
set_option linter.unusedSimpArgs false

theorem State.boundary_keeps {s u : State} (h : Keeps s u) (ir : JtagIr) (cells : List Bool) : Keeps s (State.boundary u ir cells) := by
  unfold State.boundary
  repeat' first
    | with_reducible assumption
    | (intro zz; refine Keeps.cut (s := s) (t := zz) ?_ (fun hz => ?_); unfold zz)
    | (intro zz; refine Keeps.cut (s := s) (t := zz.2) ?_ (fun hz => ?_); unfold zz; rotate_left; (try clear_value zz); rotate_right)
    | (intro zz; refine Keeps.cut (s := s) (t := zz.1) ?_ (fun hz => ?_); unfold zz; rotate_left; (try clear_value zz); rotate_right)
    | (intro zz; refine Keeps.cut (s := s) (t := zz.2.2) ?_ (fun hz => ?_); unfold zz; rotate_left; (try clear_value zz); rotate_right)
    | (intro zz; subst zz)
    | lift_lets -underBinder
    | with_reducible first | apply State.draw_keeps | apply Keeps.ite_snd | apply Keeps.ite_fst
    | split
    | ((fail_if_success (with_reducible refine Keeps.set_gpioIn ?_ _)); (with_reducible refine Keeps.set_jtag ?_ _))

theorem State.shortScan_keeps {s u : State} (h : Keeps s u) (ir : JtagIr) (v : Nat) : Keeps s (State.shortScan u ir v) := by
  unfold State.shortScan
  repeat' first
    | with_reducible assumption
    | (intro zz; refine Keeps.cut (s := s) (t := zz) ?_ (fun hz => ?_); unfold zz)
    | (intro zz; subst zz)
    | lift_lets -underBinder
    | split
    | ((fail_if_success (with_reducible refine Keeps.set_gpioIn ?_ _)); (with_reducible refine Keeps.set_jtag ?_ _))

theorem execExtest_keeps {s u : State} (h : Keeps s u) (cells : List Bool) : ∀ t, execExtest cells u = .next t → Keeps s t := by
  intro t ht
  unfold execExtest at ht
  obtain rfl := Host.Outcome.next.inj ht
  repeat' first
    | with_reducible assumption
    | with_reducible first | apply State.boundary_keeps
    | split

theorem execSamplePreload_keeps {s u : State} (h : Keeps s u) (cells : List Bool) : ∀ t, execSamplePreload cells u = .next t → Keeps s t := by
  intro t ht
  unfold execSamplePreload at ht
  obtain rfl := Host.Outcome.next.inj ht
  repeat' first
    | with_reducible assumption
    | with_reducible first | apply State.boundary_keeps
    | split

theorem execIdcode_keeps {s u : State} (h : Keeps s u)  : ∀ t, execIdcode u = .next t → Keeps s t := by
  intro t ht
  unfold execIdcode at ht
  obtain rfl := Host.Outcome.next.inj ht
  repeat' first
    | with_reducible assumption
    | with_reducible first | apply State.shortScan_keeps
    | split

theorem execHighz_keeps {s u : State} (h : Keeps s u)  : ∀ t, execHighz u = .next t → Keeps s t := by
  intro t ht
  unfold execHighz at ht
  obtain rfl := Host.Outcome.next.inj ht
  repeat' first
    | with_reducible assumption
    | with_reducible first | apply State.shortScan_keeps
    | split

theorem execClamp_keeps {s u : State} (h : Keeps s u)  : ∀ t, execClamp u = .next t → Keeps s t := by
  intro t ht
  unfold execClamp at ht
  obtain rfl := Host.Outcome.next.inj ht
  repeat' first
    | with_reducible assumption
    | with_reducible first | apply State.shortScan_keeps
    | split

theorem execExtestPulse_keeps {s u : State} (h : Keeps s u) (cells : List Bool) : ∀ t, execExtestPulse cells u = .next t → Keeps s t := by
  intro t ht
  unfold execExtestPulse at ht
  obtain rfl := Host.Outcome.next.inj ht
  repeat' first
    | with_reducible assumption
    | with_reducible first | apply State.boundary_keeps
    | split

theorem execExtestTrain_keeps {s u : State} (h : Keeps s u) (cells : List Bool) : ∀ t, execExtestTrain cells u = .next t → Keeps s t := by
  intro t ht
  unfold execExtestTrain at ht
  obtain rfl := Host.Outcome.next.inj ht
  repeat' first
    | with_reducible assumption
    | with_reducible first | apply State.boundary_keeps
    | split

theorem execBypass_keeps {s u : State} (h : Keeps s u) (opcode : Nat) : ∀ t, execBypass opcode u = .next t → Keeps s t := by
  intro t ht
  unfold execBypass at ht
  obtain rfl := Host.Outcome.next.inj ht
  repeat' first
    | with_reducible assumption
    | with_reducible first | apply State.shortScan_keeps | apply Keeps.ite
    | split

theorem execTestLogicReset_keeps {s u : State} (h : Keeps s u)  : ∀ t, execTestLogicReset u = .next t → Keeps s t := by
  intro t ht
  unfold execTestLogicReset at ht
  obtain rfl := Host.Outcome.next.inj ht
  repeat' first
    | with_reducible assumption
    | with_reducible first | apply State.shortScan_keeps
    | split

end Sys2Proof.Machine
end

