-- ==== Sys2Proof/Laws/Keeps/Tick.lean ====
section
/-! SUPPORT. What the operations of Machine/Tick.lean keep. -/

namespace Sys2Proof.Machine

open Sys2Proof.Arith

set_option linter.unreachableTactic false
set_option linter.unusedTactic false
set_option linter.unusedVariables false
set_option linter.unusedSimpArgs false

theorem State.settleNodes_keeps {s u : State} (h : Keeps s u) (l : List (Nat × Nat)) : Keeps s (State.settleNodes u l) := by
  unfold State.settleNodes
  repeat' first
    | with_reducible assumption
    | (intro zz; refine Keeps.cut (s := s) (t := zz) ?_ (fun hz => ?_); unfold zz)
    | (intro zz; refine Keeps.cut (s := s) (t := zz.2) ?_ (fun hz => ?_); unfold zz; rotate_left; (try clear_value zz); rotate_right)
    | (intro zz; refine Keeps.cut (s := s) (t := zz.1) ?_ (fun hz => ?_); unfold zz; rotate_left; (try clear_value zz); rotate_right)
    | (intro zz; refine Keeps.cut (s := s) (t := zz.2.2) ?_ (fun hz => ?_); unfold zz; rotate_left; (try clear_value zz); rotate_right)
    | (intro zz; subst zz)
    | lift_lets -underBinder
    | with_reducible first | apply State.settleSilence_keeps | apply State.setSlot_keeps | apply Keeps.ite | apply Keeps.ite_snd | apply Keeps.ite_fst | refine forEach_keeps ?_ _ _ (fun _ _ _ => ?_)
    | split

theorem State.engineBoundary_keeps {s u : State} (h : Keeps s u) (t' : Nat) : Keeps s (State.engineBoundary u t') := by
  unfold State.engineBoundary
  repeat' first
    | with_reducible assumption
    | (intro zz; refine Keeps.cut (s := s) (t := zz) ?_ (fun hz => ?_); unfold zz)
    | (intro zz; subst zz)
    | lift_lets -underBinder
    | with_reducible first | apply State.settleNodes_keeps | apply State.latchLines_keeps | apply State.settleRecords_keeps | apply State.takeAdapts_keeps | apply State.takeNoise_keeps | apply State.takeRestarts_keeps | apply State.settleGains_keeps | apply State.retireXf_keeps | apply State.beginFade_keeps | apply State.beginXf_keeps | apply State.endStop_keeps | apply State.takeStop_keeps | apply State.takeActivation_keeps | apply State.landCommits_keeps | apply State.fset_keeps | apply Keeps.ite | refine forEach_keeps ?_ _ _ (fun _ _ _ => ?_)
    | split

theorem State.tickPorts_keeps {s u : State} (h : Keeps s u) (t' : Nat) : Keeps s (State.tickPorts u t') := by
  unfold State.tickPorts
  repeat' first
    | with_reducible assumption
    | (intro zz; refine Keeps.cut (s := s) (t := zz) ?_ (fun hz => ?_); unfold zz)
    | (intro zz; subst zz)
    | lift_lets -underBinder
    | with_reducible first | apply State.setPort_keeps | apply Keeps.ite | refine forEach_keeps ?_ _ _ (fun _ _ _ => ?_)
    | split

theorem State.settleMute_keeps {s u : State} (h : Keeps s u)  : Keeps s (State.settleMute u) := by
  unfold State.settleMute
  repeat' first
    | with_reducible assumption
    | (intro zz; refine Keeps.cut (s := s) (t := zz) ?_ (fun hz => ?_); unfold zz)
    | (intro zz; subst zz)
    | lift_lets -underBinder
    | with_reducible first | apply State.fset_keeps | apply Keeps.ite
    | split
    | ((fail_if_success (with_reducible refine Keeps.set_jtag ?_ _)); (with_reducible refine Keeps.set_rst ?_ _))

theorem State.seenTick_keeps {s u : State} (h : Keeps s u) (inp : TickIn) : Keeps s (State.seenTick u inp).2.2 := by
  unfold State.seenTick
  repeat' first
    | with_reducible assumption
    | (intro zz; refine Keeps.cut (s := s) (t := zz) ?_ (fun hz => ?_); unfold zz)
    | (intro zz; refine Keeps.cut (s := s) (t := zz.2) ?_ (fun hz => ?_); unfold zz; rotate_left; (try clear_value zz); rotate_right)
    | (intro zz; refine Keeps.cut (s := s) (t := zz.1) ?_ (fun hz => ?_); unfold zz; rotate_left; (try clear_value zz); rotate_right)
    | (intro zz; refine Keeps.cut (s := s) (t := zz.2.2) ?_ (fun hz => ?_); unfold zz; rotate_left; (try clear_value zz); rotate_right)
    | (intro zz; subst zz)
    | lift_lets -underBinder
    | with_reducible first | apply State.draw_keeps | apply Keeps.ite | apply Keeps.ite_snd | apply Keeps.ite_fst | refine foldl_keeps_snd _ _ _ ?_ (fun _ _ _ => ?_) | refine foldl_keeps_fst _ _ _ ?_ (fun _ _ _ => ?_) | refine foldl_keeps _ _ _ ?_ (fun _ _ _ => ?_)
    | split

theorem State.gatherAll_keeps {s u : State} (h : Keeps s u)  : Keeps s (State.gatherAll u).2 := by
  unfold State.gatherAll
  repeat' first
    | with_reducible assumption
    | (intro zz; refine Keeps.cut (s := s) (t := zz) ?_ (fun hz => ?_); unfold zz)
    | (intro zz; refine Keeps.cut (s := s) (t := zz.2) ?_ (fun hz => ?_); unfold zz; rotate_left; (try clear_value zz); rotate_right)
    | (intro zz; refine Keeps.cut (s := s) (t := zz.1) ?_ (fun hz => ?_); unfold zz; rotate_left; (try clear_value zz); rotate_right)
    | (intro zz; refine Keeps.cut (s := s) (t := zz.2.2) ?_ (fun hz => ?_); unfold zz; rotate_left; (try clear_value zz); rotate_right)
    | (intro zz; subst zz)
    | lift_lets -underBinder
    | with_reducible first | apply State.gatherHost_keeps | apply State.pairReceive_keeps | apply State.mirrorInputs_keeps | apply State.gatherLane_keeps | apply State.gatherRtp_keeps | apply State.gatherPort_keeps | apply State.setReg_keeps | apply Keeps.ite | apply Keeps.ite_snd | apply Keeps.ite_fst | refine forEach_keeps ?_ _ _ (fun _ _ _ => ?_) | refine foldl_keeps_snd _ _ _ ?_ (fun _ _ _ => ?_) | refine foldl_keeps_fst _ _ _ ?_ (fun _ _ _ => ?_) | refine foldl_keeps _ _ _ ?_ (fun _ _ _ => ?_)
    | split

theorem State.gatherSpans_keeps {s u : State} (h : Keeps s u) (l : List (Nat × Nat)) : Keeps s (State.gatherSpans u l) := by
  unfold State.gatherSpans
  repeat' first
    | with_reducible assumption
    | (intro zz; refine Keeps.cut (s := s) (t := zz) ?_ (fun hz => ?_); unfold zz)
    | (intro zz; subst zz)
    | lift_lets -underBinder
    | with_reducible first | apply State.gatherSpan_keeps | apply Keeps.ite | refine forEach_keeps ?_ _ _ (fun _ _ _ => ?_)
    | split

theorem State.keepHash_keeps {s u : State} (h : Keeps s u) (l : List SinkOut) : Keeps s (State.keepHash u l) := by
  unfold State.keepHash
  repeat' first
    | with_reducible assumption
    | (intro zz; refine Keeps.cut (s := s) (t := zz) ?_ (fun hz => ?_); unfold zz)
    | (intro zz; subst zz)
    | lift_lets -underBinder
    | with_reducible first | apply State.take_keeps
    | split
    | ((fail_if_success (with_reducible refine Keeps.set_jtag ?_ _)); (with_reducible refine Keeps.set_eng ?_ _ ?_); rotate_left; first | (intro hc; have q := State.canonical_eng hc; simp only [Eng.canonical, Bool.and_eq_true] at q ⊢; simp only [q, Tbl.wf_const, Tbl.wf_nil, List.all_nil, and_self]) | exact fun _ => by decide)

theorem State.compute_keeps {s u : State} (h : Keeps s u) (late : List (Nat × Nat)) (full : List (Nat × Nat)) : Keeps s (State.compute u late full) := by
  unfold State.compute
  have h1 : Keeps s (u.gatherAll).2 := State.gatherAll_keeps h
  generalize u.gatherAll = g at *
  lift_lets -underBinder
  intro _ v
  have hv : Keeps s v := h1
  clear_value v
  intro w l v2
  have h2 : Keeps s v2 := State.ingest_keeps (State.exchangeIn_keeps (State.gatherSpans_keeps hv _) _) _ _
  clear_value v2
  intro v3
  have h3 : Keeps s v3 := forEach_keeps h2 _ _ (fun _ _ hx => State.runStage_keeps hx _ _ _)
  clear_value v3
  intro o
  have ho : Keeps s o.2 := State.runSinks_keeps h3 _ _
  clear_value o
  exact State.deliver_keeps (State.keepHash_keeps ho _) _ _

theorem State.countTick_keeps {s u : State} (h : Keeps s u)  : Keeps s (State.countTick u) := by
  unfold State.countTick
  repeat' first
    | with_reducible assumption
    | (intro zz; refine Keeps.cut (s := s) (t := zz) ?_ (fun hz => ?_); unfold zz)
    | (intro zz; subst zz)
    | lift_lets -underBinder
    | with_reducible first | apply State.fset_keeps | apply State.setReg_keeps | apply Keeps.ite
    | split
    | ((fail_if_success (with_reducible refine Keeps.set_jtag ?_ _)); (with_reducible refine Keeps.set_eng ?_ _ ?_); rotate_left; first | (intro hc; have q := State.canonical_eng hc; simp only [Eng.canonical, Bool.and_eq_true] at q ⊢; simp only [q, Tbl.wf_const, Tbl.wf_nil, List.all_nil, and_self]) | exact fun _ => by decide)

theorem State.exchangeReads_keeps {s u : State} (h : Keeps s u) (l : List (Nat × (Nat × Nat) × MemCheck)) : Keeps s (State.exchangeReads u l) := by
  unfold State.exchangeReads
  repeat' first
    | with_reducible assumption
    | (intro zz; refine Keeps.cut (s := s) (t := zz) ?_ (fun hz => ?_); unfold zz)
    | (intro zz; refine Keeps.cut (s := s) (t := zz.2) ?_ (fun hz => ?_); unfold zz; rotate_left; (try clear_value zz); rotate_right)
    | (intro zz; refine Keeps.cut (s := s) (t := zz.1) ?_ (fun hz => ?_); unfold zz; rotate_left; (try clear_value zz); rotate_right)
    | (intro zz; refine Keeps.cut (s := s) (t := zz.2.2) ?_ (fun hz => ?_); unfold zz; rotate_left; (try clear_value zz); rotate_right)
    | (intro zz; subst zz)
    | lift_lets -underBinder
    | with_reducible first | apply State.failTask_keeps | apply State.draw_keeps | apply State.bump_keeps | apply Keeps.ite | apply Keeps.ite_snd | apply Keeps.ite_fst | refine forEach_keeps ?_ _ _ (fun _ _ _ => ?_)
    | split

theorem State.takeTests_keeps {s u : State} (h : Keeps s u) (cores : Nat) : Keeps s (State.takeTests u cores) := by
  unfold State.takeTests
  repeat' first
    | with_reducible assumption
    | (intro zz; refine Keeps.cut (s := s) (t := zz) ?_ (fun hz => ?_); unfold zz)
    | (intro zz; subst zz)
    | lift_lets -underBinder
    | with_reducible first | apply State.setCore_keeps | refine forEach_keeps ?_ _ _ (fun _ _ _ => ?_)
    | split

theorem State.tick_keeps {s u : State} (h : Keeps s u) (inp : TickIn) : Keeps s (State.tick u inp) := by
  unfold State.tick
  repeat' first
    | with_reducible assumption
    | (intro zz; refine Keeps.cut (s := s) (t := zz) ?_ (fun hz => ?_); unfold zz)
    | (intro zz; refine Keeps.cut (s := s) (t := zz.2) ?_ (fun hz => ?_); unfold zz; rotate_left; (try clear_value zz); rotate_right)
    | (intro zz; refine Keeps.cut (s := s) (t := zz.1) ?_ (fun hz => ?_); unfold zz; rotate_left; (try clear_value zz); rotate_right)
    | (intro zz; refine Keeps.cut (s := s) (t := zz.2.2) ?_ (fun hz => ?_); unfold zz; rotate_left; (try clear_value zz); rotate_right)
    | (intro zz; subst zz)
    | lift_lets -underBinder
    | with_reducible first | apply State.takeTests_keeps | apply State.exchangeReads_keeps | apply State.countTick_keeps | apply State.compute_keeps | apply State.seenTick_keeps | apply State.settleMute_keeps | apply State.tickPorts_keeps | apply State.engineBoundary_keeps | apply State.release_keeps | apply State.endCores_keeps | apply State.taskOutputs_keeps | apply State.ringTick_keeps | apply State.streamTick_keeps | apply State.pairTick_keeps | apply State.takeFatal_keeps | apply State.linkTick_keeps | apply State.markOrigins_keeps | apply State.flushWait_keeps | apply State.idleRtp_keeps | apply State.txBlocks_keeps | apply State.passTick_keeps | apply State.pdmTick_keeps | apply State.vendorTick_keeps | apply State.drainFences_keeps | apply State.ageYard_keeps | apply Keeps.ite | apply Keeps.ite_snd | apply Keeps.ite_fst | refine forEach_keeps ?_ _ _ (fun _ _ _ => ?_)
    | split
    | ((fail_if_success (with_reducible refine Keeps.set_jtag ?_ _)); (with_reducible refine Keeps.set_gpioIn ?_ _))

theorem execTick_keeps {s u : State} (h : Keeps s u) (inp : TickIn) : ∀ t, execTick inp u = .next t → Keeps s t := by
  intro t ht
  unfold execTick at ht
  obtain rfl := Host.Outcome.next.inj ht
  repeat' first
    | with_reducible assumption
    | with_reducible first | apply State.tick_keeps | apply Keeps.ite
    | split

theorem execStageOverrun_keeps {s u : State} (h : Keeps s u) (stage : Nat) (unwritten : List Nat) : ∀ t, execStageOverrun stage unwritten u = .next t → Keeps s t := by
  intro t ht
  unfold execStageOverrun at ht
  obtain rfl := Host.Outcome.next.inj ht
  repeat' first
    | with_reducible assumption
    | (intro zz; refine Keeps.cut (s := s) (t := zz) ?_ (fun hz => ?_); unfold zz)
    | (intro zz; refine Keeps.cut (s := s) (t := zz.2) ?_ (fun hz => ?_); unfold zz; rotate_left; (try clear_value zz); rotate_right)
    | (intro zz; refine Keeps.cut (s := s) (t := zz.1) ?_ (fun hz => ?_); unfold zz; rotate_left; (try clear_value zz); rotate_right)
    | (intro zz; refine Keeps.cut (s := s) (t := zz.2.2) ?_ (fun hz => ?_); unfold zz; rotate_left; (try clear_value zz); rotate_right)
    | (intro zz; subst zz)
    | lift_lets -underBinder
    | with_reducible first | apply State.tick_keeps | apply State.pushOut_keeps | apply State.fatalFault_keeps | apply State.record_keeps | apply State.bump_keeps | apply State.fset_keeps | apply Keeps.ite | apply Keeps.ite_snd | apply Keeps.ite_fst | refine forEach_keeps ?_ _ _ (fun _ _ _ => ?_)
    | split
    | ((fail_if_success (with_reducible refine Keeps.set_jtag ?_ _)); (with_reducible refine Keeps.set_eng ?_ _ ?_); rotate_left; first | (intro hc; have q := State.canonical_eng hc; simp only [Eng.canonical, Bool.and_eq_true] at q ⊢; simp only [q, Tbl.wf_const, Tbl.wf_nil, List.all_nil, and_self]) | exact fun _ => by decide)
    | ((fail_if_success (with_reducible refine Keeps.set_jtag ?_ _)); (with_reducible refine Keeps.set_ports ?_ _ ?_); rotate_left; first | exact fun hc => Tbl.wf_const _ _ _ _ (State.canonical_ports hc) | exact fun _ => Tbl.wf_nil _ | exact fun hc => Tbl.wf_mapVals _ _ _ (State.canonical_ports hc))

theorem State.dispatch_keeps {s u : State} (h : Keeps s u) (n : Nat) (tk : Task) (upsets : List (Nat × MemCheck)) : Keeps s (State.dispatch u n tk upsets) := by
  unfold State.dispatch
  repeat' first
    | with_reducible assumption
    | (intro zz; refine Keeps.cut (s := s) (t := zz) ?_ (fun hz => ?_); unfold zz)
    | (intro zz; refine Keeps.cut (s := s) (t := zz.2) ?_ (fun hz => ?_); unfold zz; rotate_left; (try clear_value zz); rotate_right)
    | (intro zz; refine Keeps.cut (s := s) (t := zz.1) ?_ (fun hz => ?_); unfold zz; rotate_left; (try clear_value zz); rotate_right)
    | (intro zz; refine Keeps.cut (s := s) (t := zz.2.2) ?_ (fun hz => ?_); unfold zz; rotate_left; (try clear_value zz); rotate_right)
    | (intro zz; subst zz)
    | lift_lets -underBinder
    | with_reducible first | apply State.tick_keeps | apply State.setCore_keeps | apply Keeps.ite | apply Keeps.ite_snd | apply Keeps.ite_fst | refine foldl_keeps_snd _ _ _ ?_ (fun _ _ _ => ?_) | refine foldl_keeps_fst _ _ _ ?_ (fun _ _ _ => ?_) | refine foldl_keeps _ _ _ ?_ (fun _ _ _ => ?_)
    | split

theorem execTaskDispatch_keeps {s u : State} (h : Keeps s u) (start : TaskStart) : ∀ t, execTaskDispatch start u = .next t → Keeps s t := by
  intro t ht
  unfold execTaskDispatch at ht
  obtain rfl := Host.Outcome.next.inj ht
  repeat' first
    | with_reducible assumption
    | (intro zz; refine Keeps.cut (s := s) (t := zz) ?_ (fun hz => ?_); unfold zz)
    | (intro zz; subst zz)
    | lift_lets -underBinder
    | with_reducible first | apply State.dispatch_keeps | apply Keeps.ite
    | split

theorem execFadeComplete_keeps {s u : State} (h : Keeps s u) (id : FadeId) : ∀ t, execFadeComplete id u = .next t → Keeps s t := by
  intro t ht
  unfold execFadeComplete at ht
  obtain rfl := Host.Outcome.next.inj ht
  repeat' first
    | with_reducible assumption
    | (intro zz; refine Keeps.cut (s := s) (t := zz) ?_ (fun hz => ?_); unfold zz)
    | (intro zz; subst zz)
    | lift_lets -underBinder
    | with_reducible first | apply State.settleMute_keeps | apply State.setStream_keeps | apply State.setLaneStream_keeps | apply State.setRxStream_keeps | apply State.setMic_keeps | apply State.setPort_keeps | apply State.settleVoice_keeps | apply State.setSlot_keeps | apply Keeps.ite
    | split

end Sys2Proof.Machine
end

