-- ==== Sys2Proof/Laws/Keeps/Regs.lean ====
section
/-! SUPPORT. What the operations of Machine/Regs.lean keep. -/

namespace Sys2Proof.Machine

open Sys2Proof.Arith

set_option linter.unreachableTactic false
set_option linter.unusedTactic false
set_option linter.unusedVariables false
set_option linter.unusedSimpArgs false

theorem after_keeps {s u : State} (h : Keeps s u) (o : Out) (ho : ∀ t, o = .next t → Keeps s t) : Keeps s (after o u) := by
  unfold after
  split
  · exact ho _ rfl
  · exact h
  · exact h

theorem State.yardErr_keeps {s u : State} (h : Keeps s u) (master : Nat) (queue : Nat) (type : Nat) (cause : Nat) (addr : Nat) : Keeps s (State.yardErr u master queue type cause addr) := by
  unfold State.yardErr
  repeat' first
    | with_reducible assumption
    | (intro zz; refine Keeps.cut (s := s) (t := zz) ?_ (fun hz => ?_); unfold zz)
    | (intro zz; subst zz)
    | lift_lets -underBinder
    | with_reducible first | apply State.cause_keeps | apply State.bump_keeps | apply State.fset_keeps | apply State.setReg_keeps | apply Keeps.ite
    | split

theorem State.snapshot_keeps {s u : State} (h : Keeps s u) (master : Nat) (rid : Nat) (off : Nat) : Keeps s (State.snapshot u master rid off) := by
  unfold State.snapshot
  repeat' first
    | with_reducible assumption
    | (intro zz; refine Keeps.cut (s := s) (t := zz) ?_ (fun hz => ?_); unfold zz)
    | (intro zz; subst zz)
    | lift_lets -underBinder
    | with_reducible first | refine forEach_keeps ?_ _ _ (fun _ _ _ => ?_)
    | split
    | ((fail_if_success (with_reducible refine Keeps.set_jtag ?_ _)); (with_reducible refine Keeps.set_snaps ?_ _ ?_); rotate_left; first | exact fun hc => Tbl.wf_const _ _ _ _ (State.canonical_snaps hc) | exact fun hc => Tbl.wf_filter _ _ _ (State.canonical_snaps hc))

theorem State.readReg_keeps {s u : State} (h : Keeps s u) (master : Nat) (rid : Nat) (off : Nat) : Keeps s (State.readReg u master rid off).2 := by
  unfold State.readReg
  repeat' first
    | with_reducible assumption
    | (intro zz; refine Keeps.cut (s := s) (t := zz) ?_ (fun hz => ?_); unfold zz)
    | (intro zz; subst zz)
    | lift_lets -underBinder
    | with_reducible first | apply State.snapshot_keeps | apply State.tackAccess_keeps | apply State.setCore_keeps | apply State.setReg_keeps | apply Keeps.ite | apply Keeps.ite_snd | apply Keeps.ite_fst
    | split
    | ((fail_if_success (with_reducible refine Keeps.set_gpioIn ?_ _)); (with_reducible refine Keeps.set_reply ?_ _))

theorem State.writeLow_keeps {s u : State} (h : Keeps s u) (off : Nat) (v : W32) : Keeps s (State.writeLow u off v) := by
  unfold State.writeLow
  repeat' first
    | with_reducible assumption
    | (intro zz; refine Keeps.cut (s := s) (t := zz) ?_ (fun hz => ?_); unfold zz)
    | (intro zz; subst zz)
    | lift_lets -underBinder
    | with_reducible first | apply after_keeps | apply State.writeSoft_keeps | apply State.writeBackup_keeps | apply State.tackAccess_keeps | refine execTackSeal_keeps ?_ _ | apply State.fsRestart_keeps | refine execClkModeWrite_keeps ?_ _ | apply State.recheckSelection_keeps | apply State.setWord_keeps | apply State.writePlain_keeps | apply State.fset_keeps | apply Keeps.ite
    | split

theorem State.writeTim_keeps {s u : State} (h : Keeps s u) (off : Nat) (v : W32) : Keeps s (State.writeTim u off v) := by
  unfold State.writeTim
  repeat' first
    | with_reducible assumption
    | (intro zz; refine Keeps.cut (s := s) (t := zz) ?_ (fun hz => ?_); unfold zz)
    | (intro zz; subst zz)
    | lift_lets -underBinder
    | with_reducible first | apply after_keeps | refine execScntAlign_keeps ?_ | refine execTsAdj_keeps ?_ _ _ | refine execTsSetGo_keeps ?_ _ _ | refine execTsIncWrite_keeps ?_ _ _ | apply State.settleTs_keeps | apply State.settleMain_keeps | refine execFireflyDisarm_keeps ?_ _ _ | refine execFireflyArm_keeps ?_ _ _ | apply State.writePlain_keeps | apply Keeps.ite
    | split

theorem State.writeHif_keeps {s u : State} (h : Keeps s u) (off : Nat) (v : W32) : Keeps s (State.writeHif u off v) := by
  unfold State.writeHif
  repeat' first
    | with_reducible assumption
    | with_reducible first | apply after_keeps | refine execFwGo_keeps ?_ _ | refine execStreamRingCfgWrite_keeps ?_ _ _ _ | refine execRingEnable_keeps ?_ _ _ | refine execStatusBlockArm_keeps ?_ _ | apply State.writeHb_keeps | apply State.writePlain_keeps | apply Keeps.ite
    | split

theorem State.writeMem_keeps {s u : State} (h : Keeps s u) (rid : Nat) (off : Nat) (v : W32) : Keeps s (State.writeMem u rid off v) := by
  unfold State.writeMem
  repeat' first
    | with_reducible assumption
    | (intro zz; refine Keeps.cut (s := s) (t := zz) ?_ (fun hz => ?_); unfold zz)
    | (intro zz; subst zz)
    | lift_lets -underBinder
    | with_reducible first | apply after_keeps | refine execArbBiasWrite_keeps ?_ _ _ _ | refine execBlkDlyBaseWrite_keeps ?_ _ | refine execBlkCfgWrite_keeps ?_ _ | apply State.showWeevil_keeps | apply State.writeOwner_keeps | apply State.lockCommand_keeps | apply State.writePlain_keeps | apply State.fset_keeps | apply Keeps.ite
    | split

theorem State.writeLnp_keeps {s u : State} (h : Keeps s u) (off : Nat) (v : W32) : Keeps s (State.writeLnp u off v) := by
  unfold State.writeLnp
  repeat' first
    | with_reducible assumption
    | (intro zz; refine Keeps.cut (s := s) (t := zz) ?_ (fun hz => ?_); unfold zz)
    | (intro zz; subst zz)
    | lift_lets -underBinder
    | with_reducible first | apply after_keeps | refine execRtpTxEntryWrite_keeps ?_ _ _ _ | refine execRtpRxEntryWrite_keeps ?_ _ _ _ | refine execPortModeWrite_keeps ?_ _ _ | refine execPrbsTestWrite_keeps ?_ _ _ | refine execRxeqWrite_keeps ?_ _ _ | refine execTxeqWrite_keeps ?_ _ _ | refine execLaneCtrlWrite_keeps ?_ _ _ | apply State.writePlain_keeps | apply Keeps.ite
    | split

theorem State.writeLnk_keeps {s u : State} (h : Keeps s u) (off : Nat) (v : W32) : Keeps s (State.writeLnk u off v) := by
  unfold State.writeLnk
  repeat' first
    | with_reducible assumption
    | with_reducible first | apply after_keeps | refine execAddrWrite_keeps ?_ _ | refine execPortmapWrite_keeps ?_ _ | refine execSpanEnWrite_keeps ?_ _ _ | refine execLaneStreamEntryWrite_keeps ?_ _ _ _ _ _ | apply State.writePlain_keeps | apply State.setReg_keeps | apply Keeps.ite
    | split

theorem State.writeRed_keeps {s u : State} (h : Keeps s u) (off : Nat) (v : W32) : Keeps s (State.writeRed u off v) := by
  unfold State.writeRed
  repeat' first
    | with_reducible assumption
    | (intro zz; refine Keeps.cut (s := s) (t := zz) ?_ (fun hz => ?_); unfold zz)
    | (intro zz; subst zz)
    | lift_lets -underBinder
    | with_reducible first | apply after_keeps | apply State.startPair_keeps | refine execHandback_keeps ?_ | refine execPairRejoin_keeps ?_ | refine execPairFail_keeps ?_ | apply State.writePlain_keeps | apply Keeps.ite
    | split

theorem State.writeEng_keeps {s u : State} (h : Keeps s u) (off : Nat) (v : W32) : Keeps s (State.writeEng u off v) := by
  unfold State.writeEng
  repeat' first
    | with_reducible assumption
    | (intro zz; refine Keeps.cut (s := s) (t := zz) ?_ (fun hz => ?_); unfold zz)
    | (intro zz; subst zz)
    | lift_lets -underBinder
    | with_reducible first | apply after_keeps | refine execMboutPop_keeps ?_ _ _ | refine execMbinEnqueue_keeps ?_ _ _ | apply State.writeAnaCtrl_keeps | refine execProgBaseWrite_keeps ?_ _ | apply State.reownZone_keeps | apply State.writePlain_keeps | apply Keeps.ite
    | split

theorem State.writeApt_keeps {s u : State} (h : Keeps s u) (off : Nat) (v : W32) : Keeps s (State.writeApt u off v) := by
  unfold State.writeApt
  repeat' first
    | with_reducible assumption
    | (intro zz; refine Keeps.cut (s := s) (t := zz) ?_ (fun hz => ?_); unfold zz)
    | (intro zz; subst zz)
    | lift_lets -underBinder
    | with_reducible first | apply after_keeps | refine execPdmCtrlWrite_keeps ?_ _ | refine execPdmMaskWrite_keeps ?_ _ | refine execPortCfgWrite_keeps ?_ _ _ _ | apply State.writeRun_keeps | refine execMaskCommit_keeps ?_ _ | apply State.writePlain_keeps | apply Keeps.ite
    | split

theorem State.writeTst_keeps {s u : State} (h : Keeps s u) (off : Nat) (v : W32) : Keeps s (State.writeTst u off v) := by
  unfold State.writeTst
  repeat' first
    | with_reducible assumption
    | (intro zz; refine Keeps.cut (s := s) (t := zz) ?_ (fun hz => ?_); unfold zz)
    | (intro zz; subst zz)
    | lift_lets -underBinder
    | with_reducible first | apply after_keeps | refine execSelftestStart_keeps ?_ _ | refine execRepairAdd_keeps ?_ _ | refine execCounterLoad_keeps ?_ _ | refine execEventPostWrite_keeps ?_ _ | apply State.startFlush_keeps | apply State.writePlain_keeps | apply Keeps.ite
    | split
    | ((fail_if_success (with_reducible refine Keeps.set_jtag ?_ _)); (with_reducible refine Keeps.set_loft ?_ _))

theorem State.writeReg_keeps {s u : State} (h : Keeps s u) (rid : Nat) (off : Nat) (v : W32) : Keeps s (State.writeReg u rid off v) := by
  unfold State.writeReg
  repeat' first
    | with_reducible assumption
    | (intro zz; refine Keeps.cut (s := s) (t := zz) ?_ (fun hz => ?_); unfold zz)
    | (intro zz; subst zz)
    | lift_lets -underBinder
    | with_reducible first | apply State.writeTst_keeps | apply State.writeApt_keeps | apply State.writeEng_keeps | apply State.writeRed_keeps | apply State.writeLnk_keeps | apply State.writeLnp_keeps | apply State.writeMem_keeps | apply State.writeHif_keeps | apply State.writeTim_keeps | apply State.writeLow_keeps | apply Keeps.ite
    | split

theorem State.writeBar2_keeps {s u : State} (h : Keeps s u) (o : Nat) (v : W32) : Keeps s (State.writeBar2 u o v) := by
  unfold State.writeBar2
  repeat' first
    | with_reducible assumption
    | (intro zz; refine Keeps.cut (s := s) (t := zz) ?_ (fun hz => ?_); unfold zz)
    | (intro zz; subst zz)
    | lift_lets -underBinder
    | with_reducible first | apply after_keeps | refine execHeartbeat_keeps ?_ _ | refine execStreamRingDoorbell_keeps ?_ _ _ | refine execControlRingDoorbell_keeps ?_ _ _ | apply State.msix_keeps | apply State.setMsixWord_keeps | apply Keeps.ite
    | split
    | ((fail_if_success (with_reducible refine Keeps.set_jtag ?_ _)); (with_reducible refine Keeps.set_hif ?_ _ ?_); rotate_left; first | (intro hc; have q := State.canonical_hif hc; simp only [Hif.canonical, Bool.and_eq_true] at q ⊢; simp only [q, Tbl.wf_const, Tbl.wf_nil, List.all_nil, and_self]) | exact fun _ => by decide)

theorem State.abort_keeps {s u : State} (h : Keeps s u)  : Keeps s (State.abort u) := by
  unfold State.abort
  repeat' first
    | with_reducible assumption
    | (intro zz; refine Keeps.cut (s := s) (t := zz) ?_ (fun hz => ?_); unfold zz)
    | (intro zz; subst zz)
    | lift_lets -underBinder
    | split
    | ((fail_if_success (with_reducible refine Keeps.set_gpioIn ?_ _)); (with_reducible refine Keeps.set_reply ?_ _))

theorem State.busRead_keeps {s u : State} (h : Keeps s u) (a : BusAccess) : Keeps s (State.busRead u a) := by
  unfold State.busRead
  repeat' first
    | with_reducible assumption
    | (intro zz; refine Keeps.cut (s := s) (t := zz) ?_ (fun hz => ?_); unfold zz)
    | (intro zz; refine Keeps.cut (s := s) (t := zz.2) ?_ (fun hz => ?_); unfold zz; rotate_left; (try clear_value zz); rotate_right)
    | (intro zz; refine Keeps.cut (s := s) (t := zz.1) ?_ (fun hz => ?_); unfold zz; rotate_left; (try clear_value zz); rotate_right)
    | (intro zz; refine Keeps.cut (s := s) (t := zz.2.2) ?_ (fun hz => ?_); unfold zz; rotate_left; (try clear_value zz); rotate_right)
    | (intro zz; subst zz)
    | lift_lets -underBinder
    | with_reducible first | apply State.abort_keeps | apply State.readReg_keeps | apply State.yardErr_keeps | apply Keeps.ite | apply Keeps.ite_snd | apply Keeps.ite_fst
    | split
    | ((fail_if_success (with_reducible refine Keeps.set_gpioIn ?_ _)); (with_reducible refine Keeps.set_reply ?_ _))

theorem State.busWrite_keeps {s u : State} (h : Keeps s u) (a : BusAccess) (value : W32) : Keeps s (State.busWrite u a value) := by
  unfold State.busWrite
  repeat' first
    | with_reducible assumption
    | (intro zz; refine Keeps.cut (s := s) (t := zz) ?_ (fun hz => ?_); unfold zz)
    | (intro zz; subst zz)
    | lift_lets -underBinder
    | with_reducible first | apply State.abort_keeps | apply State.writeBar2_keeps | apply State.writeReg_keeps | apply State.yardErr_keeps | apply Keeps.ite
    | split
    | ((fail_if_success (with_reducible refine Keeps.set_gpioIn ?_ _)); (with_reducible refine Keeps.set_reply ?_ _))

theorem execRegisterWrite_keeps {s u : State} (h : Keeps s u) (acc : BusAccess) (value : W32) : ∀ t, execRegisterWrite acc value u = .next t → Keeps s t := by
  intro t ht
  unfold execRegisterWrite at ht
  obtain rfl := Host.Outcome.next.inj ht
  repeat' first
    | with_reducible assumption
    | with_reducible first | apply State.busWrite_keeps
    | split

theorem execReadClear_keeps {s u : State} (h : Keeps s u) (acc : BusAccess) : ∀ t, execReadClear acc u = .next t → Keeps s t := by
  intro t ht
  unfold execReadClear at ht
  obtain rfl := Host.Outcome.next.inj ht
  repeat' first
    | with_reducible assumption
    | with_reducible first | apply State.busRead_keeps
    | split

theorem execSnapshotRead_keeps {s u : State} (h : Keeps s u) (acc : BusAccess) : ∀ t, execSnapshotRead acc u = .next t → Keeps s t := by
  intro t ht
  unfold execSnapshotRead at ht
  obtain rfl := Host.Outcome.next.inj ht
  repeat' first
    | with_reducible assumption
    | with_reducible first | apply State.busRead_keeps
    | split

end Sys2Proof.Machine
end

