-- ==== Sys2Proof/Laws/Keeps/Yard.lean ====
section
/-! SUPPORT. What the operations of Machine/Yard.lean keep. -/

namespace Sys2Proof.Machine

open Sys2Proof.Arith

set_option linter.unreachableTactic false
set_option linter.unusedTactic false
set_option linter.unusedVariables false
set_option linter.unusedSimpArgs false

theorem yardTarget_ram {a : Nat} (h : yardTarget a = 17) : 0x1800000 ≤ a := by
  unfold yardTarget at h
  repeat' split at h
  all_goals omega

theorem yardTarget_loft {a : Nat} (h : yardTarget a = 18) : 0x1800000 ≤ a := by
  unfold yardTarget at h
  repeat' split at h
  all_goals omega

theorem State.setExcl_keeps {s u : State} (h : Keeps s u) (k : Nat) (e : Option ExclSeq) : Keeps s (State.setExcl u k e) := by
  unfold State.setExcl
  repeat' first
    | with_reducible assumption
    | (intro zz; refine Keeps.cut (s := s) (t := zz) ?_ (fun hz => ?_); unfold zz)
    | (intro zz; subst zz)
    | lift_lets -underBinder
    | split
    | ((fail_if_success (with_reducible refine Keeps.set_jtag ?_ _)); (with_reducible refine Keeps.set_yard ?_ _ ?_); rotate_left; first | (intro hc; have q := State.canonical_yard hc; simp only [YardSt.canonical, Bool.and_eq_true] at q ⊢; simp only [q, Tbl.wf_const, Tbl.wf_nil, List.all_nil, and_self]) | exact fun _ => by decide)

theorem State.stallBeat_keeps {s u : State} (h : Keeps s u) (t' : YardTx) (a : Nat) (b : YardBeat) : Keeps s (State.stallBeat u t' a b).2 := by
  unfold State.stallBeat
  repeat' first
    | with_reducible assumption
    | (intro zz; refine Keeps.cut (s := s) (t := zz) ?_ (fun hz => ?_); unfold zz)
    | (intro zz; refine Keeps.cut (s := s) (t := zz.2) ?_ (fun hz => ?_); unfold zz; rotate_left; (try clear_value zz); rotate_right)
    | (intro zz; refine Keeps.cut (s := s) (t := zz.1) ?_ (fun hz => ?_); unfold zz; rotate_left; (try clear_value zz); rotate_right)
    | (intro zz; refine Keeps.cut (s := s) (t := zz.2.2) ?_ (fun hz => ?_); unfold zz; rotate_left; (try clear_value zz); rotate_right)
    | (intro zz; subst zz)
    | lift_lets -underBinder
    | with_reducible first | apply State.stallEcc_keeps | apply State.setStallBytes_keeps | apply State.draw_keeps | apply State.bump_keeps | apply State.fset_keeps | apply Keeps.ite | apply Keeps.ite_snd | apply Keeps.ite_fst
    | split

theorem State.regBeat_keeps {s u : State} (h : Keeps s u) (t' : YardTx) (a : Nat) (b : YardBeat) : Keeps s (State.regBeat u t' a b).2 := by
  unfold State.regBeat
  repeat' first
    | with_reducible assumption
    | (intro zz; refine Keeps.cut (s := s) (t := zz) ?_ (fun hz => ?_); unfold zz)
    | (intro zz; refine Keeps.cut (s := s) (t := zz.2) ?_ (fun hz => ?_); unfold zz; rotate_left; (try clear_value zz); rotate_right)
    | (intro zz; refine Keeps.cut (s := s) (t := zz.1) ?_ (fun hz => ?_); unfold zz; rotate_left; (try clear_value zz); rotate_right)
    | (intro zz; refine Keeps.cut (s := s) (t := zz.2.2) ?_ (fun hz => ?_); unfold zz; rotate_left; (try clear_value zz); rotate_right)
    | (intro zz; subst zz)
    | lift_lets -underBinder
    | with_reducible first | apply State.writeReg_keeps | apply State.readReg_keeps | apply Keeps.ite | apply Keeps.ite_snd | apply Keeps.ite_fst | refine forEach_keeps ?_ _ _ (fun _ _ _ => ?_) | refine foldl_keeps_snd _ _ _ ?_ (fun _ _ _ => ?_) | refine foldl_keeps_fst _ _ _ ?_ (fun _ _ _ => ?_) | refine foldl_keeps _ _ _ ?_ (fun _ _ _ => ?_)
    | split

theorem State.tackBeat_keeps {s u : State} (h : Keeps s u) (t' : YardTx) (a : Nat) (b : YardBeat) : Keeps s (State.tackBeat u t' a b).2 := by
  unfold State.tackBeat
  repeat' first
    | with_reducible assumption
    | (intro zz; refine Keeps.cut (s := s) (t := zz) ?_ (fun hz => ?_); unfold zz)
    | (intro zz; subst zz)
    | lift_lets -underBinder
    | with_reducible first | apply State.writeBackup_keeps | apply State.writeTack_keeps | apply Keeps.ite | apply Keeps.ite_snd | apply Keeps.ite_fst
    | split

theorem State.ramBeat_keeps {s u : State} (h : Keeps s u) (t' : YardTx) (a : Nat) (b : YardBeat) (ha : 0x1800000 ≤ a) :
    Keeps s (State.ramBeat u t' a b).2 := by
  unfold State.ramBeat
  repeat' first
    | with_reducible exact h
    | with_reducible first | apply State.bump_keeps | apply Keeps.ite | apply Keeps.ite_snd
  refine Keeps.set_mem h _ (fun hc => Memory.wf_setLe_high hc _ _ _ ha)

theorem State.bulkRead_keeps {s u : State} (h : Keeps s u) (ba : Nat) : Keeps s (State.bulkRead u ba).2 := by
  unfold State.bulkRead
  repeat' first
    | with_reducible assumption
    | with_reducible first | apply State.draw_keeps | apply Keeps.ite | apply Keeps.ite_snd | apply Keeps.ite_fst
    | split

theorem State.bulkBeat_keeps {s u : State} (h : Keeps s u) (t' : YardTx) (a : Nat) (b : YardBeat) : Keeps s (State.bulkBeat u t' a b).2 := by
  unfold State.bulkBeat
  repeat' first
    | with_reducible assumption
    | (intro zz; refine Keeps.cut (s := s) (t := zz) ?_ (fun hz => ?_); unfold zz)
    | (intro zz; subst zz)
    | lift_lets -underBinder
    | with_reducible first | apply State.bulkRead_keeps | apply State.bulkEcc_keeps | apply Keeps.ite | apply Keeps.ite_snd | apply Keeps.ite_fst
    | split
    | ((fail_if_success (with_reducible refine Keeps.set_jtag ?_ _)); (with_reducible refine Keeps.set_bulk ?_ _ ?_); rotate_left; first | exact fun hc => Memory.wf_setLe _ _ _ _ (State.canonical_bulk hc) | exact fun _ => Tbl.wf_nil _)

theorem State.hostBeat_keeps {s u : State} (h : Keeps s u) (t' : YardTx) (a : Nat) (b : YardBeat) : Keeps s (State.hostBeat u t' a b).2 := by
  unfold State.hostBeat
  repeat' first
    | with_reducible assumption
    | (intro zz; refine Keeps.cut (s := s) (t := zz) ?_ (fun hz => ?_); unfold zz)
    | (intro zz; subst zz)
    | lift_lets -underBinder
    | with_reducible first | apply Keeps.ite | apply Keeps.ite_snd | apply Keeps.ite_fst
    | split
    | ((fail_if_success (with_reducible refine Keeps.set_jtag ?_ _)); (with_reducible refine Keeps.set_host ?_ _ ?_); rotate_left; first | exact fun hc => Memory.wf_setLe _ _ _ _ (State.canonical_host hc) | exact fun _ => Tbl.wf_nil _)

theorem State.loftBeat_keeps {s u : State} (h : Keeps s u) (t' : YardTx) (a : Nat) (b : YardBeat) (ha : 0x1800000 ≤ a) :
    Keeps s (State.loftBeat u t' a b).2 := by
  have hm : Keeps s { u with mem := setLe u.mem (a / 32 * 32) 2 0xFFFF } :=
    Keeps.set_mem h _ (fun hc => Memory.wf_setLe_high hc _ _ _ (by omega))
  unfold State.loftBeat
  repeat' first
    | with_reducible exact h
    | with_reducible exact hm
    | with_reducible first | apply State.draw_keeps | apply State.bump_keeps | apply Keeps.ite | apply Keeps.ite_snd

theorem State.beat_keeps {s u : State} (h : Keeps s u) (t' : YardTx) (a : Nat) (b : YardBeat) : Keeps s (State.beat u t' a b).2 := by
  unfold State.beat
  dsimp only
  refine Keeps.ite_snd h (Keeps.ite_snd (State.stallBeat_keeps h _ _ _) ?_)
  split
  · exact State.bulkBeat_keeps h _ _ _
  · exact State.regBeat_keeps h _ _ _
  · exact State.tackBeat_keeps h _ _ _
  · exact h
  · exact State.hostBeat_keeps h _ _ _
  · exact State.ramBeat_keeps h _ _ _ (yardTarget_ram (by assumption))
  · exact State.loftBeat_keeps h _ _ _ (yardTarget_loft (by assumption))
  · exact h

theorem State.beats_keeps {s u : State} (h : Keeps s u) (t' : YardTx) (a : Nat) (l : List YardBeat) : Keeps s (State.beats u t' a l).2 := by
  induction l generalizing u a with
  | nil => exact h
  | cons b rest ih => exact ih (State.beat_keeps h t' a b) (a + 8)

theorem State.logTx_keeps {s u : State} (h : Keeps s u) (t' : YardTx) (l : List BeatAns) : Keeps s (State.logTx u t' l) := by
  unfold State.logTx
  repeat' first
    | with_reducible assumption
    | (intro zz; refine Keeps.cut (s := s) (t := zz) ?_ (fun hz => ?_); unfold zz)
    | (intro zz; subst zz)
    | lift_lets -underBinder
    | with_reducible first | apply State.yardErr_keeps
    | split

theorem State.stepExcl_keeps {s u : State} (h : Keeps s u) (t' : YardTx) (k : Nat) (refused : Bool) : Keeps s (State.stepExcl u t' k refused) := by
  unfold State.stepExcl
  repeat' first
    | with_reducible assumption
    | (intro zz; refine Keeps.cut (s := s) (t := zz) ?_ (fun hz => ?_); unfold zz)
    | (intro zz; subst zz)
    | lift_lets -underBinder
    | with_reducible first | apply State.beats_keeps | apply State.setExcl_keeps | apply Keeps.ite
    | split

theorem State.serveTx_keeps {s u : State} (h : Keeps s u) (t' : YardTx) : Keeps s (State.serveTx u t').2 := by
  unfold State.serveTx
  repeat' first
    | with_reducible assumption
    | (intro zz; refine Keeps.cut (s := s) (t := zz) ?_ (fun hz => ?_); unfold zz)
    | (intro zz; refine Keeps.cut (s := s) (t := zz.2) ?_ (fun hz => ?_); unfold zz; rotate_left; (try clear_value zz); rotate_right)
    | (intro zz; refine Keeps.cut (s := s) (t := zz.1) ?_ (fun hz => ?_); unfold zz; rotate_left; (try clear_value zz); rotate_right)
    | (intro zz; refine Keeps.cut (s := s) (t := zz.2.2) ?_ (fun hz => ?_); unfold zz; rotate_left; (try clear_value zz); rotate_right)
    | (intro zz; subst zz)
    | lift_lets -underBinder
    | with_reducible first | apply State.stepExcl_keeps | apply State.logTx_keeps | apply State.beats_keeps | apply State.setExcl_keeps | assumption | apply Keeps.ite | apply Keeps.ite_snd | apply Keeps.ite_fst
    | split

theorem State.noteGrant_keeps {s u : State} (h : Keeps s u) (t' : YardTx) : Keeps s (State.noteGrant u t') := by
  unfold State.noteGrant
  repeat' first
    | with_reducible assumption
    | (intro zz; refine Keeps.cut (s := s) (t := zz) ?_ (fun hz => ?_); unfold zz)
    | (intro zz; subst zz)
    | lift_lets -underBinder
    | with_reducible first | apply State.beats_keeps | assumption | apply Keeps.ite
    | split
    | ((fail_if_success (with_reducible refine Keeps.set_jtag ?_ _)); (with_reducible refine Keeps.set_yard ?_ _ ?_); rotate_left; first | (intro hc; have q := State.canonical_yard hc; simp only [YardSt.canonical, Bool.and_eq_true] at q ⊢; simp only [q, Tbl.wf_const, Tbl.wf_nil, List.all_nil, and_self]) | exact fun _ => by decide)
    | ((fail_if_success (with_reducible refine Keeps.set_jtag ?_ _)); (with_reducible refine Keeps.set_weevil ?_ _ ?_); rotate_left; first | (intro hc; have q := State.canonical_weevil hc; simp only [Weevil.canonical, Bool.and_eq_true] at q ⊢; simp only [q, Tbl.wf_const, Tbl.wf_nil, List.all_nil, and_self]) | exact fun _ => by decide)

theorem State.seenAnswers_keeps {s u : State} (h : Keeps s u) (kind : Nat) (l : List BeatAns) : Keeps s (State.seenAnswers u kind l).2 := by
  unfold State.seenAnswers
  repeat' first
    | with_reducible assumption
    | (intro zz; refine Keeps.cut (s := s) (t := zz) ?_ (fun hz => ?_); unfold zz)
    | (intro zz; refine Keeps.cut (s := s) (t := zz.2) ?_ (fun hz => ?_); unfold zz; rotate_left; (try clear_value zz); rotate_right)
    | (intro zz; refine Keeps.cut (s := s) (t := zz.1) ?_ (fun hz => ?_); unfold zz; rotate_left; (try clear_value zz); rotate_right)
    | (intro zz; refine Keeps.cut (s := s) (t := zz.2.2) ?_ (fun hz => ?_); unfold zz; rotate_left; (try clear_value zz); rotate_right)
    | (intro zz; subst zz)
    | lift_lets -underBinder
    | with_reducible first | apply State.undefinedData_keeps | apply Keeps.ite | apply Keeps.ite_snd | apply Keeps.ite_fst
    | split

theorem State.grantAll_keeps {s u : State} (h : Keeps s u) (fuel : Nat) (l : List YardTx) : Keeps s (State.grantAll fuel u l).2.2 := by
  induction fuel generalizing u l with
  | zero => unfold State.grantAll; exact h
  | succ fuel ih =>
    unfold State.grantAll
    split
    · exact h
    · exact ih (State.seenAnswers_keeps (State.serveTx_keeps (State.noteGrant_keeps h _) _) _ _) _

theorem execYardTransaction_keeps {s u : State} (h : Keeps s u) (txs : List YardTx) : ∀ t, execYardTransaction txs u = .next t → Keeps s t := by
  intro t ht
  unfold execYardTransaction at ht
  obtain rfl := Host.Outcome.next.inj ht
  refine Keeps.ite h ?_
  have h1 := fun fuel l => State.grantAll_keeps h fuel l
  dsimp only
  generalize hl : (u.yard.waiting ++ txs.filter u.txIssues) = l
  specialize h1 l.length l
  generalize State.grantAll l.length u l = r at *
  exact Keeps.set_yard h1 _ (fun hc => State.canonical_yard hc)

theorem State.moveFrom_keeps {s u : State} (h : Keeps s u) (n : Nat) (j : MoverJob) (i m : Nat) : Keeps s (State.moveFrom u n j i m).2 := by
  induction m generalizing u i with
  | zero => exact h
  | succ m ih =>
    unfold State.moveFrom
    lift_lets -underBinder
    intro w data r
    have hr : Keeps s r.2 := State.serveTx_keeps h _
    clear_value r
    split
    · refine Keeps.ite_snd hr ?_
      lift_lets -underBinder
      intro v
      have hv : Keeps s v := Keeps.ite hr (State.setLocal_keeps (State.setLocal_keeps hr _ _ _) _ _ _)
      clear_value v
      exact ih hv _
    · exact hr

theorem execMoverDone_keeps {s u : State} (h : Keeps s u) (core : Nat) (e : MoveEnd) : ∀ t, execMoverDone core e u = .next t → Keeps s t := by
  intro t ht
  unfold execMoverDone at ht
  obtain rfl := Host.Outcome.next.inj ht
  repeat' first
    | with_reducible assumption
    | (intro zz; refine Keeps.cut (s := s) (t := zz) ?_ (fun hz => ?_); unfold zz)
    | (intro zz; refine Keeps.cut (s := s) (t := zz.2) ?_ (fun hz => ?_); unfold zz; rotate_left; (try clear_value zz); rotate_right)
    | (intro zz; refine Keeps.cut (s := s) (t := zz.1) ?_ (fun hz => ?_); unfold zz; rotate_left; (try clear_value zz); rotate_right)
    | (intro zz; refine Keeps.cut (s := s) (t := zz.2.2) ?_ (fun hz => ?_); unfold zz; rotate_left; (try clear_value zz); rotate_right)
    | (intro zz; subst zz)
    | lift_lets -underBinder
    | with_reducible first | apply State.moveFrom_keeps | apply State.resume_keeps | apply State.waitTo_keeps | apply State.taskFault_keeps | apply State.setCore_keeps | apply State.bump_keeps | apply Keeps.ite | apply Keeps.ite_snd | apply Keeps.ite_fst
    | split

end Sys2Proof.Machine
end

