-- ==== Sys2Proof/Laws/Keeps/Mgmt.lean ====
section
/-! SUPPORT. What the operations of Machine/Mgmt.lean keep. -/

namespace Sys2Proof.Machine

open Sys2Proof.Arith

set_option linter.unreachableTactic false
set_option linter.unusedTactic false
set_option linter.unusedVariables false
set_option linter.unusedSimpArgs false

theorem State.takeMgmt_keeps {s u : State} (h : Keeps s u) (op : Nat) : ∀ t, State.takeMgmt u op = some t → Keeps s t.2 :=
  State.takeFirst_keeps h _

theorem State.keepNonce_keeps {s u : State} (h : Keeps s u) (n : Nat) : Keeps s (State.keepNonce u n) := by
  unfold State.keepNonce
  repeat' first
    | with_reducible assumption
    | (intro zz; refine Keeps.cut (s := s) (t := zz) ?_ (fun hz => ?_); unfold zz)
    | (intro zz; subst zz)
    | lift_lets -underBinder
    | split
    | ((fail_if_success (with_reducible refine Keeps.set_jtag ?_ _)); (with_reducible refine Keeps.set_link ?_ _ ?_); rotate_left; first | (intro hc; have q := State.canonical_link hc; simp only [Link.canonical, Bool.and_eq_true] at q ⊢; simp only [q, Tbl.wf_const, Tbl.wf_nil, List.all_nil, and_self]) | exact fun _ => by decide)

theorem State.authFailed_keeps {s u : State} (h : Keeps s u) (t' : Taken) : Keeps s (State.authFailed u t') := by
  unfold State.authFailed
  repeat' first
    | with_reducible assumption
    | with_reducible first | apply State.record_keeps | apply State.bump_keeps
    | split

theorem State.respond_keeps {s u : State} (h : Keeps s u) (t' : Taken) (auth : Bool) (status : Nat) (arg : Nat) : Keeps s (State.respond u t' auth status arg) := by
  unfold State.respond
  repeat' first
    | with_reducible assumption
    | (intro zz; refine Keeps.cut (s := s) (t := zz) ?_ (fun hz => ?_); unfold zz)
    | (intro zz; refine Keeps.cut (s := s) (t := zz.2) ?_ (fun hz => ?_); unfold zz; rotate_left; (try clear_value zz); rotate_right)
    | (intro zz; refine Keeps.cut (s := s) (t := zz.1) ?_ (fun hz => ?_); unfold zz; rotate_left; (try clear_value zz); rotate_right)
    | (intro zz; refine Keeps.cut (s := s) (t := zz.2.2) ?_ (fun hz => ?_); unfold zz; rotate_left; (try clear_value zz); rotate_right)
    | (intro zz; subst zz)
    | lift_lets -underBinder
    | with_reducible first | apply State.setLinkPort_keeps | apply State.draw_keeps | apply Keeps.ite | apply Keeps.ite_snd | apply Keeps.ite_fst
    | split
    | ((fail_if_success (with_reducible refine Keeps.set_jtag ?_ _)); (with_reducible refine Keeps.set_link ?_ _ ?_); rotate_left; first | (intro hc; have q := State.canonical_link hc; simp only [Link.canonical, Bool.and_eq_true] at q ⊢; simp only [q, Tbl.wf_const, Tbl.wf_nil, List.all_nil, and_self]) | exact fun _ => by decide)

theorem State.mgmtRun_keeps {s u : State} (h : Keeps s u) (t : Taken) (auth enabled : Bool) (act : State → Nat × Nat × State)
    (ha : ∀ v, Keeps s v → Keeps s (act v).2.2) : Keeps s (u.mgmtRun t auth enabled act) := by
  unfold State.mgmtRun
  lift_lets -underBinder
  intro st
  clear_value st
  refine Keeps.ite (State.respond_keeps (Keeps.ite (State.authFailed_keeps h t) h) _ _ _ _) ?_
  exact State.respond_keeps (ha _ (Keeps.ite (State.keepNonce_keeps h _) h)) _ _ _ _

theorem execMgmtAssign_keeps {s u : State} (h : Keeps s u)  : ∀ t, execMgmtAssign u = .next t → Keeps s t := by
  intro t ht
  unfold execMgmtAssign at ht
  obtain rfl := Host.Outcome.next.inj ht
  repeat' first
    | with_reducible assumption
    | (intro zz; refine Keeps.cut (s := s) (t := zz) ?_ (fun hz => ?_); unfold zz)
    | (intro zz; subst zz)
    | lift_lets -underBinder
    | with_reducible first | (exact State.takeMgmt_keeps h _ _ ‹State.takeMgmt u _ = some _›) | apply State.setAddr_keeps | apply Keeps.ite
    | split

theorem execMgmtRead_keeps {s u : State} (h : Keeps s u)  : ∀ t, execMgmtRead u = .next t → Keeps s t := by
  intro t ht
  unfold execMgmtRead at ht
  obtain rfl := Host.Outcome.next.inj ht
  repeat' first
    | with_reducible assumption
    | (intro zz; refine Keeps.cut (s := s) (t := zz) ?_ (fun hz => ?_); unfold zz)
    | (intro zz; subst zz)
    | lift_lets -underBinder
    | with_reducible first | refine State.mgmtRun_keeps ?_ _ _ _ _ (fun _ _ => ?_) | (exact State.takeMgmt_keeps h _ _ ‹State.takeMgmt u _ = some _›) | apply State.busRead_keeps | apply State.abort_keeps | apply Keeps.ite
    | split
    | ((fail_if_success (with_reducible refine Keeps.set_gpioIn ?_ _)); (with_reducible refine Keeps.set_reply ?_ _))

theorem execMgmtWrite_keeps {s u : State} (h : Keeps s u)  : ∀ t, execMgmtWrite u = .next t → Keeps s t := by
  intro t ht
  unfold execMgmtWrite at ht
  obtain rfl := Host.Outcome.next.inj ht
  repeat' first
    | with_reducible assumption
    | (intro zz; refine Keeps.cut (s := s) (t := zz) ?_ (fun hz => ?_); unfold zz)
    | (intro zz; subst zz)
    | lift_lets -underBinder
    | with_reducible first | refine State.mgmtRun_keeps ?_ _ _ _ _ (fun _ _ => ?_) | (exact State.takeMgmt_keeps h _ _ ‹State.takeMgmt u _ = some _›) | apply State.busWrite_keeps | apply State.abort_keeps | apply Keeps.ite
    | split
    | ((fail_if_success (with_reducible refine Keeps.set_gpioIn ?_ _)); (with_reducible refine Keeps.set_reply ?_ _))

theorem execMgmtReset_keeps {s u : State} (h : Keeps s u)  : ∀ t, execMgmtReset u = .next t → Keeps s t := by
  intro t ht
  unfold execMgmtReset at ht
  obtain rfl := Host.Outcome.next.inj ht
  repeat' first
    | with_reducible assumption
    | (intro zz; refine Keeps.cut (s := s) (t := zz) ?_ (fun hz => ?_); unfold zz)
    | (intro zz; subst zz)
    | lift_lets -underBinder
    | with_reducible first | refine State.mgmtRun_keeps ?_ _ _ _ _ (fun _ _ => ?_) | (exact State.takeMgmt_keeps h _ _ ‹State.takeMgmt u _ = some _›) | apply State.askReset_keeps | apply Keeps.ite
    | split

theorem execMgmtHostmsg_keeps {s u : State} (h : Keeps s u)  : ∀ t, execMgmtHostmsg u = .next t → Keeps s t := by
  intro t ht
  unfold execMgmtHostmsg at ht
  obtain rfl := Host.Outcome.next.inj ht
  repeat' first
    | with_reducible assumption
    | (intro zz; refine Keeps.cut (s := s) (t := zz) ?_ (fun hz => ?_); unfold zz)
    | (intro zz; subst zz)
    | lift_lets -underBinder
    | with_reducible first | (exact State.takeMgmt_keeps h _ _ ‹State.takeMgmt u _ = some _›) | apply State.fwEvent_keeps | apply Keeps.ite
    | split

theorem execMgmtResponse_keeps {s u : State} (h : Keeps s u)  : ∀ t, execMgmtResponse u = .next t → Keeps s t := by
  intro t ht
  unfold execMgmtResponse at ht
  obtain rfl := Host.Outcome.next.inj ht
  repeat' first
    | with_reducible assumption
    | (intro zz; refine Keeps.cut (s := s) (t := zz) ?_ (fun hz => ?_); unfold zz)
    | (intro zz; subst zz)
    | lift_lets -underBinder
    | with_reducible first | (exact State.takeMgmt_keeps h _ _ ‹State.takeMgmt u _ = some _›) | apply Keeps.ite
    | split
    | ((fail_if_success (with_reducible refine Keeps.set_jtag ?_ _)); (with_reducible refine Keeps.set_link ?_ _ ?_); rotate_left; first | (intro hc; have q := State.canonical_link hc; simp only [Link.canonical, Bool.and_eq_true] at q ⊢; simp only [q, Tbl.wf_const, Tbl.wf_nil, List.all_nil, and_self]) | exact fun _ => by decide)

end Sys2Proof.Machine
end

