-- ==== Sys2Proof/Laws/Keeps/ScarabAlu.lean ====
section
/-! SUPPORT. What the operations of Machine/ScarabAlu.lean keep. -/

namespace Sys2Proof.Machine

open Sys2Proof.Arith

set_option linter.unreachableTactic false
set_option linter.unusedTactic false
set_option linter.unusedVariables false
set_option linter.unusedSimpArgs false

theorem execNop_keeps {s u : State} (h : Keeps s u) (core : Nat) (w : OpWord) : ∀ t, execNop core w u = .next t → Keeps s t := by
  intro t ht
  unfold execNop at ht
  obtain rfl := Host.Outcome.next.inj ht
  repeat' first
    | with_reducible assumption
    | with_reducible first | apply State.issueReg_keeps
    | split

theorem execAdd_keeps {s u : State} (h : Keeps s u) (core : Nat) (f : RFmt) : ∀ t, execAdd core f u = .next t → Keeps s t := by
  intro t ht
  unfold execAdd at ht
  obtain rfl := Host.Outcome.next.inj ht
  repeat' first
    | with_reducible assumption
    | with_reducible first | apply State.issueR_keeps
    | split

theorem execSub_keeps {s u : State} (h : Keeps s u) (core : Nat) (f : RFmt) : ∀ t, execSub core f u = .next t → Keeps s t := by
  intro t ht
  unfold execSub at ht
  obtain rfl := Host.Outcome.next.inj ht
  repeat' first
    | with_reducible assumption
    | with_reducible first | apply State.issueR_keeps
    | split

theorem execAdds_keeps {s u : State} (h : Keeps s u) (core : Nat) (f : RFmt) : ∀ t, execAdds core f u = .next t → Keeps s t := by
  intro t ht
  unfold execAdds at ht
  obtain rfl := Host.Outcome.next.inj ht
  repeat' first
    | with_reducible assumption
    | with_reducible first | apply State.issueR_keeps
    | split

theorem execSubs_keeps {s u : State} (h : Keeps s u) (core : Nat) (f : RFmt) : ∀ t, execSubs core f u = .next t → Keeps s t := by
  intro t ht
  unfold execSubs at ht
  obtain rfl := Host.Outcome.next.inj ht
  repeat' first
    | with_reducible assumption
    | with_reducible first | apply State.issueR_keeps
    | split

theorem execAnd_keeps {s u : State} (h : Keeps s u) (core : Nat) (f : RFmt) : ∀ t, execAnd core f u = .next t → Keeps s t := by
  intro t ht
  unfold execAnd at ht
  obtain rfl := Host.Outcome.next.inj ht
  repeat' first
    | with_reducible assumption
    | with_reducible first | apply State.issueR_keeps
    | split

theorem execOr_keeps {s u : State} (h : Keeps s u) (core : Nat) (f : RFmt) : ∀ t, execOr core f u = .next t → Keeps s t := by
  intro t ht
  unfold execOr at ht
  obtain rfl := Host.Outcome.next.inj ht
  repeat' first
    | with_reducible assumption
    | with_reducible first | apply State.issueR_keeps
    | split

theorem execXor_keeps {s u : State} (h : Keeps s u) (core : Nat) (f : RFmt) : ∀ t, execXor core f u = .next t → Keeps s t := by
  intro t ht
  unfold execXor at ht
  obtain rfl := Host.Outcome.next.inj ht
  repeat' first
    | with_reducible assumption
    | with_reducible first | apply State.issueR_keeps
    | split

theorem execShl_keeps {s u : State} (h : Keeps s u) (core : Nat) (f : RFmt) : ∀ t, execShl core f u = .next t → Keeps s t := by
  intro t ht
  unfold execShl at ht
  obtain rfl := Host.Outcome.next.inj ht
  repeat' first
    | with_reducible assumption
    | with_reducible first | apply State.issueR_keeps
    | split

theorem execShr_keeps {s u : State} (h : Keeps s u) (core : Nat) (f : RFmt) : ∀ t, execShr core f u = .next t → Keeps s t := by
  intro t ht
  unfold execShr at ht
  obtain rfl := Host.Outcome.next.inj ht
  repeat' first
    | with_reducible assumption
    | with_reducible first | apply State.issueR_keeps
    | split

theorem execSra_keeps {s u : State} (h : Keeps s u) (core : Nat) (f : RFmt) : ∀ t, execSra core f u = .next t → Keeps s t := by
  intro t ht
  unfold execSra at ht
  obtain rfl := Host.Outcome.next.inj ht
  repeat' first
    | with_reducible assumption
    | with_reducible first | apply State.issueR_keeps
    | split

theorem execRsr_keeps {s u : State} (h : Keeps s u) (core : Nat) (f : RFmt) : ∀ t, execRsr core f u = .next t → Keeps s t := by
  intro t ht
  unfold execRsr at ht
  obtain rfl := Host.Outcome.next.inj ht
  repeat' first
    | with_reducible assumption
    | with_reducible first | apply State.issueR_keeps
    | split

theorem execMin_keeps {s u : State} (h : Keeps s u) (core : Nat) (f : RFmt) : ∀ t, execMin core f u = .next t → Keeps s t := by
  intro t ht
  unfold execMin at ht
  obtain rfl := Host.Outcome.next.inj ht
  repeat' first
    | with_reducible assumption
    | with_reducible first | apply State.issueR_keeps | apply Keeps.ite
    | split

theorem execMax_keeps {s u : State} (h : Keeps s u) (core : Nat) (f : RFmt) : ∀ t, execMax core f u = .next t → Keeps s t := by
  intro t ht
  unfold execMax at ht
  obtain rfl := Host.Outcome.next.inj ht
  repeat' first
    | with_reducible assumption
    | with_reducible first | apply State.issueR_keeps | apply Keeps.ite
    | split

theorem execAbs_keeps {s u : State} (h : Keeps s u) (core : Nat) (f : RFmt) : ∀ t, execAbs core f u = .next t → Keeps s t := by
  intro t ht
  unfold execAbs at ht
  obtain rfl := Host.Outcome.next.inj ht
  repeat' first
    | with_reducible assumption
    | with_reducible first | apply State.issueR_keeps | apply Keeps.ite
    | split

theorem execNeg_keeps {s u : State} (h : Keeps s u) (core : Nat) (f : RFmt) : ∀ t, execNeg core f u = .next t → Keeps s t := by
  intro t ht
  unfold execNeg at ht
  obtain rfl := Host.Outcome.next.inj ht
  repeat' first
    | with_reducible assumption
    | with_reducible first | apply State.issueR_keeps
    | split

theorem execSlt_keeps {s u : State} (h : Keeps s u) (core : Nat) (f : RFmt) : ∀ t, execSlt core f u = .next t → Keeps s t := by
  intro t ht
  unfold execSlt at ht
  obtain rfl := Host.Outcome.next.inj ht
  repeat' first
    | with_reducible assumption
    | with_reducible first | apply State.issueR_keeps | apply Keeps.ite
    | split

theorem execSeq_keeps {s u : State} (h : Keeps s u) (core : Nat) (f : RFmt) : ∀ t, execSeq core f u = .next t → Keeps s t := by
  intro t ht
  unfold execSeq at ht
  obtain rfl := Host.Outcome.next.inj ht
  repeat' first
    | with_reducible assumption
    | with_reducible first | apply State.issueR_keeps | apply Keeps.ite
    | split

theorem execAddi_keeps {s u : State} (h : Keeps s u) (core : Nat) (f : IFmt) : ∀ t, execAddi core f u = .next t → Keeps s t := by
  intro t ht
  unfold execAddi at ht
  obtain rfl := Host.Outcome.next.inj ht
  repeat' first
    | with_reducible assumption
    | with_reducible first | apply State.issueI_keeps
    | split

theorem execAndi_keeps {s u : State} (h : Keeps s u) (core : Nat) (f : IFmt) : ∀ t, execAndi core f u = .next t → Keeps s t := by
  intro t ht
  unfold execAndi at ht
  obtain rfl := Host.Outcome.next.inj ht
  repeat' first
    | with_reducible assumption
    | with_reducible first | apply State.issueI_keeps
    | split

theorem execOri_keeps {s u : State} (h : Keeps s u) (core : Nat) (f : IFmt) : ∀ t, execOri core f u = .next t → Keeps s t := by
  intro t ht
  unfold execOri at ht
  obtain rfl := Host.Outcome.next.inj ht
  repeat' first
    | with_reducible assumption
    | with_reducible first | apply State.issueI_keeps
    | split

theorem execLui_keeps {s u : State} (h : Keeps s u) (core : Nat) (f : IFmt) : ∀ t, execLui core f u = .next t → Keeps s t := by
  intro t ht
  unfold execLui at ht
  obtain rfl := Host.Outcome.next.inj ht
  repeat' first
    | with_reducible assumption
    | with_reducible first | apply State.issueI_keeps
    | split

theorem execShi_keeps {s u : State} (h : Keeps s u) (core : Nat) (f : IFmt) : ∀ t, execShi core f u = .next t → Keeps s t := by
  intro t ht
  unfold execShi at ht
  obtain rfl := Host.Outcome.next.inj ht
  repeat' first
    | with_reducible assumption
    | with_reducible first | apply State.issueI_keeps
    | split

theorem execMulc_keeps {s u : State} (h : Keeps s u) (core : Nat) (f : RFmt) : ∀ t, execMulc core f u = .next t → Keeps s t := by
  intro t ht
  unfold execMulc at ht
  obtain rfl := Host.Outcome.next.inj ht
  repeat' first
    | with_reducible assumption
    | with_reducible first | apply State.issueR_keeps
    | split

theorem execMula_keeps {s u : State} (h : Keeps s u) (core : Nat) (f : RFmt) : ∀ t, execMula core f u = .next t → Keeps s t := by
  intro t ht
  unfold execMula at ht
  obtain rfl := Host.Outcome.next.inj ht
  repeat' first
    | with_reducible assumption
    | with_reducible first | apply State.issueR_keeps
    | split

theorem execLvl_keeps {s u : State} (h : Keeps s u) (core : Nat) (f : RFmt) : ∀ t, execLvl core f u = .next t → Keeps s t := by
  intro t ht
  unfold execLvl at ht
  obtain rfl := Host.Outcome.next.inj ht
  repeat' first
    | with_reducible assumption
    | with_reducible first | apply State.issueR_keeps
    | split

theorem execExpc_keeps {s u : State} (h : Keeps s u) (core : Nat) (f : RFmt) : ∀ t, execExpc core f u = .next t → Keeps s t := by
  intro t ht
  unfold execExpc at ht
  obtain rfl := Host.Outcome.next.inj ht
  repeat' first
    | with_reducible assumption
    | with_reducible first | apply State.issueR_keeps
    | split

end Sys2Proof.Machine
end

