-- ==== Sys2Proof/Laws/Keeps/Exec.lean ====
section
/-! SUPPORT. What every command keeps: one arm per command, each by the lemma of its meaning. -/

namespace Sys2Proof.Machine

/-- Every command that answers a next state leaves the queue as it is, never takes a free value back and keeps the canonical
form. -/
theorem exec_keeps (i : Instr) (u t : State) (ht : exec i u = .next t) : Keeps u t := by
  have keeps := Keeps.refl u
  cases i with
  | tick inp => exact execTick_keeps keeps _ t ht
  | stageOverrun stage unwritten => exact execStageOverrun_keeps keeps _ _ t ht
  | taskDispatch start => exact execTaskDispatch_keeps keeps _ t ht
  | taskOverrun core => exact execTaskOverrun_keeps keeps _ t ht
  | nop core w => exact execNop_keeps keeps _ _ t ht
  | add core f => exact execAdd_keeps keeps _ _ t ht
  | sub core f => exact execSub_keeps keeps _ _ t ht
  | adds core f => exact execAdds_keeps keeps _ _ t ht
  | subs core f => exact execSubs_keeps keeps _ _ t ht
  | and core f => exact execAnd_keeps keeps _ _ t ht
  | or core f => exact execOr_keeps keeps _ _ t ht
  | xor core f => exact execXor_keeps keeps _ _ t ht
  | shl core f => exact execShl_keeps keeps _ _ t ht
  | shr core f => exact execShr_keeps keeps _ _ t ht
  | sra core f => exact execSra_keeps keeps _ _ t ht
  | rsr core f => exact execRsr_keeps keeps _ _ t ht
  | min core f => exact execMin_keeps keeps _ _ t ht
  | max core f => exact execMax_keeps keeps _ _ t ht
  | abs core f => exact execAbs_keeps keeps _ _ t ht
  | neg core f => exact execNeg_keeps keeps _ _ t ht
  | slt core f => exact execSlt_keeps keeps _ _ t ht
  | seq core f => exact execSeq_keeps keeps _ _ t ht
  | addi core f => exact execAddi_keeps keeps _ _ t ht
  | andi core f => exact execAndi_keeps keeps _ _ t ht
  | ori core f => exact execOri_keeps keeps _ _ t ht
  | lui core f => exact execLui_keeps keeps _ _ t ht
  | shi core f => exact execShi_keeps keeps _ _ t ht
  | mulc core f => exact execMulc_keeps keeps _ _ t ht
  | mula core f => exact execMula_keeps keeps _ _ t ht
  | lvl core f => exact execLvl_keeps keeps _ _ t ht
  | expc core f => exact execExpc_keeps keeps _ _ t ht
  | mac core f => exact execMac_keeps keeps _ _ t ht
  | msu core f => exact execMsu_keeps keeps _ _ t ht
  | maca core f => exact execMaca_keeps keeps _ _ t ht
  | msua core f => exact execMsua_keeps keeps _ _ t ht
  | mac2 core f => exact execMac2_keeps keeps _ _ t ht
  | fmac core f chk => exact execFmac_keeps keeps _ _ _ t ht
  | accadd core f => exact execAccadd_keeps keeps _ _ t ht
  | ldacc core f => exact execLdacc_keeps keeps _ _ t ht
  | rnda core f => exact execRnda_keeps keeps _ _ t ht
  | clra core f => exact execClra_keeps keeps _ _ t ht
  | hwRepeat core f => exact execHwRepeat_keeps keeps _ _ t ht
  | tend core f => exact execTend_keeps keeps _ _ t ht
  | csrr core f => exact execCsrr_keeps keeps _ _ t ht
  | csrw core f => exact execCsrw_keeps keeps _ _ t ht
  | mbpost core f => exact execMbpost_keeps keeps _ _ t ht
  | fft core f => exact execFft_keeps keeps _ _ t ht
  | ld core f chk => exact execLd_keeps keeps _ _ _ t ht
  | st core f => exact execSt_keeps keeps _ _ t ht
  | ld2 core f chk => exact execLd2_keeps keeps _ _ _ t ht
  | st2 core f => exact execSt2_keeps keeps _ _ t ht
  | fwait core f => exact execFwait_keeps keeps _ _ t ht
  | mv core f => exact execMv_keeps keeps _ _ t ht
  | lia core f => exact execLia_keeps keeps _ _ t ht
  | adda core f => exact execAdda_keeps keeps _ _ t ht
  | br core f => exact execBr_keeps keeps _ _ t ht
  | call core f => exact execCall_keeps keeps _ _ t ht
  | jr core f => exact execJr_keeps keeps _ _ t ht
  | reti core f => exact execReti_keeps keeps _ _ t ht
  | mbpop core f => exact execMbpop_keeps keeps _ _ t ht
  | mvGo core f => exact execMvGo_keeps keeps _ _ t ht
  | moverDone core e => exact execMoverDone_keeps keeps _ _ t ht
  | lkReq core f => exact execLkReq_keeps keeps _ _ t ht
  | lkRel core f => exact execLkRel_keeps keeps _ _ t ht
  | fftJobStart unit => exact execFftJobStart_keeps keeps _ t ht
  | fftJobDone unit e => exact execFftJobDone_keeps keeps _ _ t ht
  | mboxInterrupt point => exact execMboxInterrupt_keeps keeps _ t ht
  | errInterrupt point => exact execErrInterrupt_keeps keeps _ t ht
  | mbinEnqueue core value => exact execMbinEnqueue_keeps keeps _ _ t ht
  | mboutPop core value => exact execMboutPop_keeps keeps _ _ t ht
  | load cmd slot addrLo addrHi len readOk => exact execLoad_keeps keeps _ _ _ _ _ _ t ht
  | loadDone => exact execLoadDone_keeps keeps t ht
  | unload cmd slot => exact execUnload_keeps keeps _ _ t ht
  | activate cmd slot target => exact execActivate_keeps keeps _ _ _ t ht
  | activateXf cmd slot target len => exact execActivateXf_keeps keeps _ _ _ _ t ht
  | stopSlot cmd slot target => exact execStopSlot_keeps keeps _ _ _ t ht
  | activationTakesEffect => exact execActivationTakesEffect_keeps keeps t ht
  | stopTakesEffect => exact execStopTakesEffect_keeps keeps t ht
  | stopComplete => exact execStopComplete_keeps keeps t ht
  | xfWarmupStart => exact execXfWarmupStart_keeps keeps t ht
  | xfFadeStart => exact execXfFadeStart_keeps keeps t ht
  | xfRetire => exact execXfRetire_keeps keeps t ht
  | commit cmd slot group target fence => exact execCommit_keeps keeps _ _ _ _ _ t ht
  | commitArrival => exact execCommitArrival_keeps keeps t ht
  | commitLand slot group => exact execCommitLand_keeps keeps _ _ t ht
  | zcTimeout slot pset word => exact execZcTimeout_keeps keeps _ _ _ t ht
  | gainRampEnd slot pset word => exact execGainRampEnd_keeps keeps _ _ _ t ht
  | fadeComplete id => exact execFadeComplete_keeps keeps _ t ht
  | taskRestart cmd slot task target => exact execTaskRestart_keeps keeps _ _ _ _ t ht
  | taskRestartLand slot task => exact execTaskRestartLand_keeps keeps _ _ t ht
  | parameterWrite e => exact execParameterWrite_keeps keeps _ t ht
  | pwIndirectFetch readOk => exact execPwIndirectFetch_keeps keeps _ t ht
  | progBaseWrite value => exact execProgBaseWrite_keeps keeps _ t ht
  | voiceEnded slot node => exact execVoiceEnded_keeps keeps _ _ t ht
  | recorderFull slot node => exact execRecorderFull_keeps keeps _ _ t ht
  | silenceHoldExpiry slot node => exact execSilenceHoldExpiry_keeps keeps _ _ t ht
  | prioHoldExpiry slot node input => exact execPrioHoldExpiry_keeps keeps _ _ _ t ht
  | estimatorPeriodEnd zone ref => exact execEstimatorPeriodEnd_keeps keeps _ _ t ht
  | noiseDelivery zone late => exact execNoiseDelivery_keeps keeps _ _ t ht
  | adaptiveStep zone => exact execAdaptiveStep_keeps keeps _ t ht
  | adaptiveWrite w => exact execAdaptiveWrite_keeps keeps _ t ht
  | adaptiveWriteApply zone => exact execAdaptiveWriteApply_keeps keeps _ t ht
  | anaLock value => exact execAnaLock_keeps keeps _ t ht
  | adaptEnWrite value => exact execAdaptEnWrite_keeps keeps _ t ht
  | howlAnalysis slot task chan h => exact execHowlAnalysis_keeps keeps _ _ _ _ t ht
  | portRun port => exact execPortRun_keeps keeps _ t ht
  | portStop port => exact execPortStop_keeps keeps _ t ht
  | portRunning port => exact execPortRunning_keeps keeps _ t ht
  | portStopped port => exact execPortStopped_keeps keeps _ t ht
  | maskCommit port => exact execMaskCommit_keeps keeps _ t ht
  | maskLatch port => exact execMaskLatch_keeps keeps _ t ht
  | portFrameReceived port words => exact execPortFrameReceived_keeps keeps _ _ t ht
  | portFrameTransmit port => exact execPortFrameTransmit_keeps keeps _ t ht
  | portRefill port => exact execPortRefill_keeps keeps _ t ht
  | slotZcTimeout port tx slot => exact execSlotZcTimeout_keeps keeps _ _ _ t ht
  | portClockLost port => exact execPortClockLost_keeps keeps _ t ht
  | asrcLock port ratio => exact execAsrcLock_keeps keeps _ _ t ht
  | portCfgWrite port fofs value => exact execPortCfgWrite_keeps keeps _ _ _ t ht
  | pdmMaskWrite value => exact execPdmMaskWrite_keeps keeps _ t ht
  | pdmCtrlWrite value => exact execPdmCtrlWrite_keeps keeps _ t ht
  | pdmSettleEnd mic => exact execPdmSettleEnd_keeps keeps _ t ht
  | laneSignalChange lane sig cdr => exact execLaneSignalChange_keeps keeps _ _ _ t ht
  | blockReceived lane hdr payload => exact execBlockReceived_keeps keeps _ _ _ t ht
  | adaptDone lane => exact execAdaptDone_keeps keeps _ t ht
  | bringupFail lane => exact execBringupFail_keeps keeps _ t ht
  | laneRestart lane => exact execLaneRestart_keeps keeps _ t ht
  | laneCtrlWrite lane value => exact execLaneCtrlWrite_keeps keeps _ _ t ht
  | txeqWrite lane value => exact execTxeqWrite_keeps keeps _ _ t ht
  | rxeqWrite lane value => exact execRxeqWrite_keeps keeps _ _ t ht
  | prbsTestWrite lane value => exact execPrbsTestWrite_keeps keeps _ _ t ht
  | portModeWrite port value => exact execPortModeWrite_keeps keeps _ _ t ht
  | ethFrameReceived lane bytes at_ => exact execEthFrameReceived_keeps keeps _ _ _ t ht
  | rtpRefill stream => exact execRtpRefill_keeps keeps _ t ht
  | rtpPacketLaunch stream => exact execRtpPacketLaunch_keeps keeps _ t ht
  | rtpRxEntryWrite stream word value => exact execRtpRxEntryWrite_keeps keeps _ _ _ t ht
  | rtpTxEntryWrite stream word value => exact execRtpTxEntryWrite_keeps keeps _ _ _ t ht
  | thetexFrameSend port => exact execThetexFrameSend_keeps keeps _ t ht
  | relayFrameLaunch port => exact execRelayFrameLaunch_keeps keeps _ t ht
  | relayFrameTimeout port => exact execRelayFrameTimeout_keeps keeps _ t ht
  | thetexFrameReceived lane bytes cycle at_ => exact execThetexFrameReceived_keeps keeps _ _ _ _ t ht
  | sectionReceived lane bytes errored => exact execSectionReceived_keeps keeps _ _ _ t ht
  | secondCopyTimeout port => exact execSecondCopyTimeout_keeps keeps _ t ht
  | linkLost lane => exact execLinkLost_keeps keeps _ t ht
  | laneStreamRefill port stream => exact execLaneStreamRefill_keeps keeps _ _ t ht
  | bulkSectionSend port => exact execBulkSectionSend_keeps keeps _ t ht
  | mgmtAssign => exact execMgmtAssign_keeps keeps t ht
  | mgmtRead => exact execMgmtRead_keeps keeps t ht
  | mgmtWrite => exact execMgmtWrite_keeps keeps t ht
  | mgmtReset => exact execMgmtReset_keeps keeps t ht
  | mgmtHostmsg => exact execMgmtHostmsg_keeps keeps t ht
  | mgmtResponse => exact execMgmtResponse_keeps keeps t ht
  | addrWrite value => exact execAddrWrite_keeps keeps _ t ht
  | spanEnWrite j value => exact execSpanEnWrite_keeps keeps _ _ t ht
  | portmapWrite value => exact execPortmapWrite_keeps keeps _ t ht
  | laneStreamEntryWrite tx port stream word value => exact execLaneStreamEntryWrite_keeps keeps _ _ _ _ _ t ht
  | frequencyReading readings => exact execFrequencyReading_keeps keeps _ t ht
  | inputPresenceChange input present mult => exact execInputPresenceChange_keeps keeps _ _ _ t ht
  | phaseComparison input err => exact execPhaseComparison_keeps keeps _ _ t ht
  | clkModeWrite value => exact execClkModeWrite_keeps keeps _ t ht
  | fsyncOutPulse out cycle predicted => exact execFsyncOutPulse_keeps keeps _ _ _ t ht
  | fsyncOutLost out => exact execFsyncOutLost_keeps keeps _ t ht
  | tsIncWrite ts value => exact execTsIncWrite_keeps keeps _ _ t ht
  | tsSetGo ts value => exact execTsSetGo_keeps keeps _ _ t ht
  | tsAdj ts value => exact execTsAdj_keeps keeps _ _ t ht
  | tsLossTimeout ts => exact execTsLossTimeout_keeps keeps _ t ht
  | mainReturn => exact execMainReturn_keeps keeps t ht
  | scntAlign => exact execScntAlign_keeps keeps t ht
  | secondCheck => exact execSecondCheck_keeps keeps t ht
  | timeRequestSend ts => exact execTimeRequestSend_keeps keeps _ t ht
  | timeRequestReceived => exact execTimeRequestReceived_keeps keeps t ht
  | timeResponseReceived => exact execTimeResponseReceived_keeps keeps t ht
  | ptpEventMessage lane tx kind domain seq at_ offset => exact execPtpEventMessage_keeps keeps _ _ _ _ _ _ _ t ht
  | ptpCfg cmd lane role prio intervals => exact execPtpCfg_keeps keeps _ _ _ _ _ t ht
  | fireflyArm ff value => exact execFireflyArm_keeps keeps _ _ t ht
  | fireflyDisarm ff value => exact execFireflyDisarm_keeps keeps _ _ t ht
  | fireflyPulse ff => exact execFireflyPulse_keeps keeps _ t ht
  | timedFrameLaunch lane at_ => exact execTimedFrameLaunch_keeps keeps _ _ t ht
  | cricketReceived => exact execCricketReceived_keeps keeps t ht
  | cricketMissed => exact execCricketMissed_keeps keeps t ht
  | fatalFaultFailed => exact execFatalFaultFailed_keeps keeps t ht
  | seekTimeout => exact execSeekTimeout_keeps keeps t ht
  | autoRejoin => exact execAutoRejoin_keeps keeps t ht
  | pairFail => exact execPairFail_keeps keeps t ht
  | pairRejoin => exact execPairRejoin_keeps keeps t ht
  | handback => exact execHandback_keeps keeps t ht
  | handbackTakesEffect => exact execHandbackTakesEffect_keeps keeps t ht
  | hashCompare => exact execHashCompare_keeps keeps t ht
  | joinTimeout => exact execJoinTimeout_keeps keeps t ht
  | inputRecord => exact execInputRecord_keeps keeps t ht
  | noiseRecord => exact execNoiseRecord_keeps keeps t ht
  | adaptRecord => exact execAdaptRecord_keeps keeps t ht
  | taskmsgRecord core task tick words => exact execTaskmsgRecord_keeps keeps _ _ _ _ t ht
  | joinRecord target => exact execJoinRecord_keeps keeps _ t ht
  | regionRecord core task first count => exact execRegionRecord_keeps keeps _ _ _ _ t ht
  | laneErrorsSummary lane => exact execLaneErrorsSummary_keeps keeps _ t ht
  | yardTransaction txs => exact execYardTransaction_keeps keeps _ t ht
  | stallHandover stall owner => exact execStallHandover_keeps keeps _ _ t ht
  | handoverComplete stall => exact execHandoverComplete_keeps keeps _ t ht
  | lockRequest rid queue lock => exact execLockRequest_keeps keeps _ _ _ t ht
  | lockRelease rid queue lock => exact execLockRelease_keeps keeps _ _ _ t ht
  | lockTimeout lock => exact execLockTimeout_keeps keeps _ t ht
  | weevilRegionDone paddock fail => exact execWeevilRegionDone_keeps keeps _ _ t ht
  | weevilShareWindow paddock => exact execWeevilShareWindow_keeps keeps _ t ht
  | weevilPassDone => exact execWeevilPassDone_keeps keeps t ht
  | coverageLate => exact execCoverageLate_keeps keeps t ht
  | blkCfgWrite value => exact execBlkCfgWrite_keeps keeps _ t ht
  | blkDlyBaseWrite value => exact execBlkDlyBaseWrite_keeps keeps _ t ht
  | bulkTrainingStart density => exact execBulkTrainingStart_keeps keeps _ t ht
  | bulkTrainingDone pass => exact execBulkTrainingDone_keeps keeps _ t ht
  | bulkRequest r deadline beats cycle => exact execBulkRequest_keeps keeps _ _ _ _ t ht
  | bulkBurstDone cycle => exact execBulkBurstDone_keeps keeps _ t ht
  | backoffExpiry r cycle => exact execBackoffExpiry_keeps keeps _ _ t ht
  | arbWindow => exact execArbWindow_keeps keeps t ht
  | arbBiasWrite r value cycle => exact execArbBiasWrite_keeps keeps _ _ _ t ht
  | bulkRefill slot node => exact execBulkRefill_keeps keeps _ _ t ht
  | controlRingDoorbell ring value => exact execControlRingDoorbell_keeps keeps _ _ t ht
  | streamRingDoorbell ring value => exact execStreamRingDoorbell_keeps keeps _ _ t ht
  | heartbeat queue => exact execHeartbeat_keeps keeps _ t ht
  | heartbeatLapse queue => exact execHeartbeatLapse_keeps keeps _ t ht
  | statusBlockArm value => exact execStatusBlockArm_keeps keeps _ t ht
  | ringEnable ring value => exact execRingEnable_keeps keeps _ _ t ht
  | streamRingCfgWrite ring start value => exact execStreamRingCfgWrite_keeps keeps _ _ _ t ht
  | echo cmd arg => exact execEcho_keeps keeps _ _ t ht
  | status cmd cls index => exact execStatus_keeps keeps _ _ _ t ht
  | eventCfg cmd mask => exact execEventCfg_keeps keeps _ _ t ht
  | hostReset cmd arg => exact execHostReset_keeps keeps _ _ t ht
  | badOpcode cmd opcode readable => exact execBadOpcode_keeps keeps _ _ _ t ht
  | completionWrite => exact execCompletionWrite_keeps keeps t ht
  | eventRingPost ev => exact execEventRingPost_keeps keeps _ t ht
  | frameSend readOk at_ => exact execFrameSend_keeps keeps _ _ t ht
  | streamSlotFetch ring => exact execStreamSlotFetch_keeps keeps _ t ht
  | streamRingRefill ring => exact execStreamRingRefill_keeps keeps _ t ht
  | streamSlotWrite ring => exact execStreamSlotWrite_keeps keeps _ t ht
  | fwGo value => exact execFwGo_keeps keeps _ t ht
  | firmwareCheck readOk => exact execFirmwareCheck_keeps keeps _ t ht
  | firmwareReady => exact execFirmwareReady_keeps keeps t ht
  | watchdogExpiry => exact execWatchdogExpiry_keeps keeps t ht
  | neighbourBootTimeout => exact execNeighbourBootTimeout_keeps keeps t ht
  | por straps => exact execPor_keeps keeps _ t ht
  | supplyReset low => exact execSupplyReset_keeps keeps _ t ht
  | resetN low => exact execResetN_keeps keeps _ t ht
  | therm hot => exact execTherm_keeps keeps _ t ht
  | tjHigh t0 t1 t2 t3 => exact execTjHigh_keeps keeps _ _ _ _ t ht
  | clkloss clock => exact execClkloss_keeps keeps _ t ht
  | clockGood clock => exact execClockGood_keeps keeps _ t ht
  | bulkClockLoss => exact execBulkClockLoss_keeps keeps t ht
  | softPulse value => exact execSoftPulse_keeps keeps _ t ht
  | softHold value => exact execSoftHold_keeps keeps _ t ht
  | pcieReset kind => exact execPcieReset_keeps keeps _ t ht
  | quiesceDone timedOut => exact execQuiesceDone_keeps keeps _ t ht
  | domainRelease => exact execDomainRelease_keeps keeps t ht
  | supplyWarning below pfail => exact execSupplyWarning_keeps keeps _ _ t ht
  | supplyRecovery => exact execSupplyRecovery_keeps keeps t ht
  | tackSeal value => exact execTackSeal_keeps keeps _ t ht
  | tackDataAccess write value => exact execTackDataAccess_keeps keeps _ _ t ht
  | backupWrite n value => exact execBackupWrite_keeps keeps _ _ t ht
  | eventRecord code inst params => exact execEventRecord_keeps keeps _ _ _ t ht
  | tokenRefill => exact execTokenRefill_keeps keeps t ht
  | timeMark => exact execTimeMark_keeps keeps t ht
  | loftFlush => exact execLoftFlush_keeps keeps t ht
  | flashProgramDone ok => exact execFlashProgramDone_keeps keeps _ t ht
  | eventPostWrite value => exact execEventPostWrite_keeps keeps _ t ht
  | counterLoad value => exact execCounterLoad_keeps keeps _ t ht
  | selftestStart value => exact execSelftestStart_keeps keeps _ t ht
  | selftestGroupDone obs => exact execSelftestGroupDone_keeps keeps _ t ht
  | repairAdd entry => exact execRepairAdd_keeps keeps _ t ht
  | repairCopyDone => exact execRepairCopyDone_keeps keeps t ht
  | extest cells => exact execExtest_keeps keeps _ t ht
  | samplePreload cells => exact execSamplePreload_keeps keeps _ t ht
  | idcode => exact execIdcode_keeps keeps t ht
  | highz => exact execHighz_keeps keeps t ht
  | clamp => exact execClamp_keeps keeps t ht
  | extestPulse cells => exact execExtestPulse_keeps keeps _ t ht
  | extestTrain cells => exact execExtestTrain_keeps keeps _ t ht
  | bypass opcode => exact execBypass_keeps keeps _ t ht
  | testLogicReset => exact execTestLogicReset_keeps keeps t ht
  | registerWrite acc value => exact execRegisterWrite_keeps keeps _ _ t ht
  | readClear acc => exact execReadClear_keeps keeps _ t ht
  | snapshotRead acc => exact execSnapshotRead_keeps keeps _ t ht
  | chkSync lane errors => exact execChkSync_keeps keeps _ _ t ht

end Sys2Proof.Machine
end

