-- ==== Sys2Proof/Laws/RegMap.lean ====
section
/-! SUPPORT. The register map is sound: the fields of a register lie in its word, apart from one another, and hold their reset
values. -/

namespace Sys2Proof.Machine

/-- The fields of a register, from its top: each lies below the one before it, and holds its reset value. -/
def fieldsBelow (top : Nat) : List FieldDef → Bool
  | [] => true
  | f :: rest => decide (f.lo ≤ f.hi) && decide (f.hi < top) && decide (f.reset < 2 ^ (f.hi + 1 - f.lo)) && fieldsBelow f.lo rest

theorem fieldsBelow_mem {top : Nat} {l : List FieldDef} (h : fieldsBelow top l = true) :
    ∀ f ∈ l, f.lo ≤ f.hi ∧ f.hi < top ∧ f.reset < 2 ^ (f.hi + 1 - f.lo) := by
  induction l generalizing top with
  | nil => intro f hf; cases hf
  | cons g rest ih =>
    simp only [fieldsBelow, Bool.and_eq_true, decide_eq_true_eq] at h
    intro f hf
    rcases List.mem_cons.mp hf with rfl | hf
    · exact ⟨h.1.1.1, h.1.1.2, h.1.2⟩
    · have := ih h.2 f hf
      exact ⟨this.1, by omega, this.2.2⟩

theorem fieldsBelow_apart {top : Nat} {l : List FieldDef} (h : fieldsBelow top l = true) : l.Pairwise (fun f g => g.hi < f.lo) := by
  induction l generalizing top with
  | nil => exact List.Pairwise.nil
  | cons g rest ih =>
    simp only [fieldsBelow, Bool.and_eq_true, decide_eq_true_eq] at h
    exact List.Pairwise.cons (fun f hf => (fieldsBelow_mem h.2 f hf).2.1) (ih h.2)

theorem regGLB_fields : regGLB.all (fun r => fieldsBelow 32 r.fields) = true := by decide
theorem regRST_fields : regRST.all (fun r => fieldsBelow 32 r.fields) = true := by decide
theorem regCLK_fields : regCLK.all (fun r => fieldsBelow 32 r.fields) = true := by decide
theorem regTIM_fields : regTIM.all (fun r => fieldsBelow 32 r.fields) = true := by decide
theorem regHIF_fields : regHIF.all (fun r => fieldsBelow 32 r.fields) = true := by decide
theorem regYRD_fields : regYRD.all (fun r => fieldsBelow 32 r.fields) = true := by decide
theorem regMEM_fields : regMEM.all (fun r => fieldsBelow 32 r.fields) = true := by decide
theorem regBLK_fields : regBLK.all (fun r => fieldsBelow 32 r.fields) = true := by decide
theorem regLNP_fields : regLNP.all (fun r => fieldsBelow 32 r.fields) = true := by decide
theorem regLNK_fields : regLNK.all (fun r => fieldsBelow 32 r.fields) = true := by decide
theorem regRED_fields : regRED.all (fun r => fieldsBelow 32 r.fields) = true := by decide
theorem regENG_fields : regENG.all (fun r => fieldsBelow 32 r.fields) = true := by decide
theorem regSCB_fields : regSCB.all (fun r => fieldsBelow 32 r.fields) = true := by decide
theorem regANA_fields : regANA.all (fun r => fieldsBelow 32 r.fields) = true := by decide
theorem regAPT_fields : regAPT.all (fun r => fieldsBelow 32 r.fields) = true := by decide
theorem regTST_fields : regTST.all (fun r => fieldsBelow 32 r.fields) = true := by decide

theorem regBlock_fields (off : Nat) : (regBlock off).all (fun r => fieldsBelow 32 r.fields) = true := by
  unfold regBlock
  split
  · exact regGLB_fields
  · exact regRST_fields
  · exact regCLK_fields
  · exact regTIM_fields
  · exact regHIF_fields
  · exact regYRD_fields
  · exact regMEM_fields
  · exact regBLK_fields
  · exact regLNP_fields
  · exact regLNK_fields
  · exact regRED_fields
  · exact regENG_fields
  · exact regSCB_fields
  · exact regANA_fields
  · exact regAPT_fields
  · exact regTST_fields
  · rfl

/-- The fields of every register of the map. -/
theorem regDef_fields {off : Nat} {d : RegDef} (h : regDef off = some d) : fieldsBelow 32 d.fields = true :=
  List.all_eq_true.mp (regBlock_fields off) d (List.mem_of_find?_eq_some h)

end Sys2Proof.Machine
end

