-- ==== Sys2Proof/Laws/State.lean ====
section
/-! SUPPORT. What each named update of the state leaves in each field. -/

namespace Sys2Proof.Machine

variable (s : State)

/-! ### setReg -/

@[simp] theorem State.setReg_pending (off : Nat) (w : W32) : (s.setReg off w).pending = s.pending := rfl
@[simp] theorem State.setReg_freeCtr (off : Nat) (w : W32) : (s.setReg off w).freeCtr = s.freeCtr := rfl
@[simp] theorem State.setReg_regs (off : Nat) (w : W32) : (s.setReg off w).regs = Tbl.set s.regs (resetWord off) off w := rfl
@[simp] theorem State.setReg_snaps (off : Nat) (w : W32) : (s.setReg off w).snaps = s.snaps := rfl
@[simp] theorem State.setReg_mem (off : Nat) (w : W32) : (s.setReg off w).mem = s.mem := rfl
@[simp] theorem State.setReg_bulk (off : Nat) (w : W32) : (s.setReg off w).bulk = s.bulk := rfl
@[simp] theorem State.setReg_host (off : Nat) (w : W32) : (s.setReg off w).host = s.host := rfl
@[simp] theorem State.setReg_cores (off : Nat) (w : W32) : (s.setReg off w).cores = s.cores := rfl
@[simp] theorem State.setReg_ffts (off : Nat) (w : W32) : (s.setReg off w).ffts = s.ffts := rfl
@[simp] theorem State.setReg_eng (off : Nat) (w : W32) : (s.setReg off w).eng = s.eng := rfl
@[simp] theorem State.setReg_hif (off : Nat) (w : W32) : (s.setReg off w).hif = s.hif := rfl
@[simp] theorem State.setReg_loft (off : Nat) (w : W32) : (s.setReg off w).loft = s.loft := rfl
@[simp] theorem State.setReg_gpioIn (off : Nat) (w : W32) : (s.setReg off w).gpioIn = s.gpioIn := rfl
@[simp] theorem State.setReg_waiters (off : Nat) (w : W32) : (s.setReg off w).waiters = s.waiters := rfl
@[simp] theorem State.setReg_lockReqs (off : Nat) (w : W32) : (s.setReg off w).lockReqs = s.lockReqs := rfl
@[simp] theorem State.setReg_ports (off : Nat) (w : W32) : (s.setReg off w).ports = s.ports := rfl
@[simp] theorem State.setReg_mics (off : Nat) (w : W32) : (s.setReg off w).mics = s.mics := rfl
@[simp] theorem State.setReg_clk (off : Nat) (w : W32) : (s.setReg off w).clk = s.clk := rfl
@[simp] theorem State.setReg_tim (off : Nat) (w : W32) : (s.setReg off w).tim = s.tim := rfl
@[simp] theorem State.setReg_lanes (off : Nat) (w : W32) : (s.setReg off w).lanes = s.lanes := rfl
@[simp] theorem State.setReg_rtpRx (off : Nat) (w : W32) : (s.setReg off w).rtpRx = s.rtpRx := rfl
@[simp] theorem State.setReg_rtpTx (off : Nat) (w : W32) : (s.setReg off w).rtpTx = s.rtpTx := rfl
@[simp] theorem State.setReg_link (off : Nat) (w : W32) : (s.setReg off w).link = s.link := rfl
@[simp] theorem State.setReg_pair (off : Nat) (w : W32) : (s.setReg off w).pair = s.pair := rfl
@[simp] theorem State.setReg_yard (off : Nat) (w : W32) : (s.setReg off w).yard = s.yard := rfl
@[simp] theorem State.setReg_reply (off : Nat) (w : W32) : (s.setReg off w).reply = s.reply := rfl
@[simp] theorem State.setReg_weevil (off : Nat) (w : W32) : (s.setReg off w).weevil = s.weevil := rfl
@[simp] theorem State.setReg_blk (off : Nat) (w : W32) : (s.setReg off w).blk = s.blk := rfl
@[simp] theorem State.setReg_rst (off : Nat) (w : W32) : (s.setReg off w).rst = s.rst := rfl
@[simp] theorem State.setReg_tst (off : Nat) (w : W32) : (s.setReg off w).tst = s.tst := rfl
@[simp] theorem State.setReg_jtag (off : Nat) (w : W32) : (s.setReg off w).jtag = s.jtag := rfl
@[simp] theorem State.setReg_flash (off : Nat) (w : W32) : (s.setReg off w).flash = s.flash := rfl

/-! ### fset -/

@[simp] theorem State.fset_pending (f : Field) (v : Nat) : (s.fset f v).pending = s.pending := State.setReg_pending s _ _
@[simp] theorem State.fset_freeCtr (f : Field) (v : Nat) : (s.fset f v).freeCtr = s.freeCtr := State.setReg_freeCtr s _ _
@[simp] theorem State.fset_snaps (f : Field) (v : Nat) : (s.fset f v).snaps = s.snaps := State.setReg_snaps s _ _
@[simp] theorem State.fset_mem (f : Field) (v : Nat) : (s.fset f v).mem = s.mem := State.setReg_mem s _ _
@[simp] theorem State.fset_bulk (f : Field) (v : Nat) : (s.fset f v).bulk = s.bulk := State.setReg_bulk s _ _
@[simp] theorem State.fset_host (f : Field) (v : Nat) : (s.fset f v).host = s.host := State.setReg_host s _ _
@[simp] theorem State.fset_cores (f : Field) (v : Nat) : (s.fset f v).cores = s.cores := State.setReg_cores s _ _
@[simp] theorem State.fset_ffts (f : Field) (v : Nat) : (s.fset f v).ffts = s.ffts := State.setReg_ffts s _ _
@[simp] theorem State.fset_eng (f : Field) (v : Nat) : (s.fset f v).eng = s.eng := State.setReg_eng s _ _
@[simp] theorem State.fset_hif (f : Field) (v : Nat) : (s.fset f v).hif = s.hif := State.setReg_hif s _ _
@[simp] theorem State.fset_loft (f : Field) (v : Nat) : (s.fset f v).loft = s.loft := State.setReg_loft s _ _
@[simp] theorem State.fset_gpioIn (f : Field) (v : Nat) : (s.fset f v).gpioIn = s.gpioIn := State.setReg_gpioIn s _ _
@[simp] theorem State.fset_waiters (f : Field) (v : Nat) : (s.fset f v).waiters = s.waiters := State.setReg_waiters s _ _
@[simp] theorem State.fset_lockReqs (f : Field) (v : Nat) : (s.fset f v).lockReqs = s.lockReqs := State.setReg_lockReqs s _ _
@[simp] theorem State.fset_ports (f : Field) (v : Nat) : (s.fset f v).ports = s.ports := State.setReg_ports s _ _
@[simp] theorem State.fset_mics (f : Field) (v : Nat) : (s.fset f v).mics = s.mics := State.setReg_mics s _ _
@[simp] theorem State.fset_clk (f : Field) (v : Nat) : (s.fset f v).clk = s.clk := State.setReg_clk s _ _
@[simp] theorem State.fset_tim (f : Field) (v : Nat) : (s.fset f v).tim = s.tim := State.setReg_tim s _ _
@[simp] theorem State.fset_lanes (f : Field) (v : Nat) : (s.fset f v).lanes = s.lanes := State.setReg_lanes s _ _
@[simp] theorem State.fset_rtpRx (f : Field) (v : Nat) : (s.fset f v).rtpRx = s.rtpRx := State.setReg_rtpRx s _ _
@[simp] theorem State.fset_rtpTx (f : Field) (v : Nat) : (s.fset f v).rtpTx = s.rtpTx := State.setReg_rtpTx s _ _
@[simp] theorem State.fset_link (f : Field) (v : Nat) : (s.fset f v).link = s.link := State.setReg_link s _ _
@[simp] theorem State.fset_pair (f : Field) (v : Nat) : (s.fset f v).pair = s.pair := State.setReg_pair s _ _
@[simp] theorem State.fset_yard (f : Field) (v : Nat) : (s.fset f v).yard = s.yard := State.setReg_yard s _ _
@[simp] theorem State.fset_reply (f : Field) (v : Nat) : (s.fset f v).reply = s.reply := State.setReg_reply s _ _
@[simp] theorem State.fset_weevil (f : Field) (v : Nat) : (s.fset f v).weevil = s.weevil := State.setReg_weevil s _ _
@[simp] theorem State.fset_blk (f : Field) (v : Nat) : (s.fset f v).blk = s.blk := State.setReg_blk s _ _
@[simp] theorem State.fset_rst (f : Field) (v : Nat) : (s.fset f v).rst = s.rst := State.setReg_rst s _ _
@[simp] theorem State.fset_tst (f : Field) (v : Nat) : (s.fset f v).tst = s.tst := State.setReg_tst s _ _
@[simp] theorem State.fset_jtag (f : Field) (v : Nat) : (s.fset f v).jtag = s.jtag := State.setReg_jtag s _ _
@[simp] theorem State.fset_flash (f : Field) (v : Nat) : (s.fset f v).flash = s.flash := State.setReg_flash s _ _

/-! ### count -/

@[simp] theorem State.count_pending (f : Field) (n : Nat) : (s.count f n).pending = s.pending := State.fset_pending s _ _
@[simp] theorem State.count_freeCtr (f : Field) (n : Nat) : (s.count f n).freeCtr = s.freeCtr := State.fset_freeCtr s _ _
@[simp] theorem State.count_snaps (f : Field) (n : Nat) : (s.count f n).snaps = s.snaps := State.fset_snaps s _ _
@[simp] theorem State.count_mem (f : Field) (n : Nat) : (s.count f n).mem = s.mem := State.fset_mem s _ _
@[simp] theorem State.count_bulk (f : Field) (n : Nat) : (s.count f n).bulk = s.bulk := State.fset_bulk s _ _
@[simp] theorem State.count_host (f : Field) (n : Nat) : (s.count f n).host = s.host := State.fset_host s _ _
@[simp] theorem State.count_cores (f : Field) (n : Nat) : (s.count f n).cores = s.cores := State.fset_cores s _ _
@[simp] theorem State.count_ffts (f : Field) (n : Nat) : (s.count f n).ffts = s.ffts := State.fset_ffts s _ _
@[simp] theorem State.count_eng (f : Field) (n : Nat) : (s.count f n).eng = s.eng := State.fset_eng s _ _
@[simp] theorem State.count_hif (f : Field) (n : Nat) : (s.count f n).hif = s.hif := State.fset_hif s _ _
@[simp] theorem State.count_loft (f : Field) (n : Nat) : (s.count f n).loft = s.loft := State.fset_loft s _ _
@[simp] theorem State.count_gpioIn (f : Field) (n : Nat) : (s.count f n).gpioIn = s.gpioIn := State.fset_gpioIn s _ _
@[simp] theorem State.count_waiters (f : Field) (n : Nat) : (s.count f n).waiters = s.waiters := State.fset_waiters s _ _
@[simp] theorem State.count_lockReqs (f : Field) (n : Nat) : (s.count f n).lockReqs = s.lockReqs := State.fset_lockReqs s _ _
@[simp] theorem State.count_ports (f : Field) (n : Nat) : (s.count f n).ports = s.ports := State.fset_ports s _ _
@[simp] theorem State.count_mics (f : Field) (n : Nat) : (s.count f n).mics = s.mics := State.fset_mics s _ _
@[simp] theorem State.count_clk (f : Field) (n : Nat) : (s.count f n).clk = s.clk := State.fset_clk s _ _
@[simp] theorem State.count_tim (f : Field) (n : Nat) : (s.count f n).tim = s.tim := State.fset_tim s _ _
@[simp] theorem State.count_lanes (f : Field) (n : Nat) : (s.count f n).lanes = s.lanes := State.fset_lanes s _ _
@[simp] theorem State.count_rtpRx (f : Field) (n : Nat) : (s.count f n).rtpRx = s.rtpRx := State.fset_rtpRx s _ _
@[simp] theorem State.count_rtpTx (f : Field) (n : Nat) : (s.count f n).rtpTx = s.rtpTx := State.fset_rtpTx s _ _
@[simp] theorem State.count_link (f : Field) (n : Nat) : (s.count f n).link = s.link := State.fset_link s _ _
@[simp] theorem State.count_pair (f : Field) (n : Nat) : (s.count f n).pair = s.pair := State.fset_pair s _ _
@[simp] theorem State.count_yard (f : Field) (n : Nat) : (s.count f n).yard = s.yard := State.fset_yard s _ _
@[simp] theorem State.count_reply (f : Field) (n : Nat) : (s.count f n).reply = s.reply := State.fset_reply s _ _
@[simp] theorem State.count_weevil (f : Field) (n : Nat) : (s.count f n).weevil = s.weevil := State.fset_weevil s _ _
@[simp] theorem State.count_blk (f : Field) (n : Nat) : (s.count f n).blk = s.blk := State.fset_blk s _ _
@[simp] theorem State.count_rst (f : Field) (n : Nat) : (s.count f n).rst = s.rst := State.fset_rst s _ _
@[simp] theorem State.count_tst (f : Field) (n : Nat) : (s.count f n).tst = s.tst := State.fset_tst s _ _
@[simp] theorem State.count_jtag (f : Field) (n : Nat) : (s.count f n).jtag = s.jtag := State.fset_jtag s _ _
@[simp] theorem State.count_flash (f : Field) (n : Nat) : (s.count f n).flash = s.flash := State.fset_flash s _ _

/-! ### bump -/

@[simp] theorem State.bump_pending (off : Nat) : (s.bump off).pending = s.pending := State.count_pending s _ _
@[simp] theorem State.bump_freeCtr (off : Nat) : (s.bump off).freeCtr = s.freeCtr := State.count_freeCtr s _ _
@[simp] theorem State.bump_snaps (off : Nat) : (s.bump off).snaps = s.snaps := State.count_snaps s _ _
@[simp] theorem State.bump_mem (off : Nat) : (s.bump off).mem = s.mem := State.count_mem s _ _
@[simp] theorem State.bump_bulk (off : Nat) : (s.bump off).bulk = s.bulk := State.count_bulk s _ _
@[simp] theorem State.bump_host (off : Nat) : (s.bump off).host = s.host := State.count_host s _ _
@[simp] theorem State.bump_cores (off : Nat) : (s.bump off).cores = s.cores := State.count_cores s _ _
@[simp] theorem State.bump_ffts (off : Nat) : (s.bump off).ffts = s.ffts := State.count_ffts s _ _
@[simp] theorem State.bump_eng (off : Nat) : (s.bump off).eng = s.eng := State.count_eng s _ _
@[simp] theorem State.bump_hif (off : Nat) : (s.bump off).hif = s.hif := State.count_hif s _ _
@[simp] theorem State.bump_loft (off : Nat) : (s.bump off).loft = s.loft := State.count_loft s _ _
@[simp] theorem State.bump_gpioIn (off : Nat) : (s.bump off).gpioIn = s.gpioIn := State.count_gpioIn s _ _
@[simp] theorem State.bump_waiters (off : Nat) : (s.bump off).waiters = s.waiters := State.count_waiters s _ _
@[simp] theorem State.bump_lockReqs (off : Nat) : (s.bump off).lockReqs = s.lockReqs := State.count_lockReqs s _ _
@[simp] theorem State.bump_ports (off : Nat) : (s.bump off).ports = s.ports := State.count_ports s _ _
@[simp] theorem State.bump_mics (off : Nat) : (s.bump off).mics = s.mics := State.count_mics s _ _
@[simp] theorem State.bump_clk (off : Nat) : (s.bump off).clk = s.clk := State.count_clk s _ _
@[simp] theorem State.bump_tim (off : Nat) : (s.bump off).tim = s.tim := State.count_tim s _ _
@[simp] theorem State.bump_lanes (off : Nat) : (s.bump off).lanes = s.lanes := State.count_lanes s _ _
@[simp] theorem State.bump_rtpRx (off : Nat) : (s.bump off).rtpRx = s.rtpRx := State.count_rtpRx s _ _
@[simp] theorem State.bump_rtpTx (off : Nat) : (s.bump off).rtpTx = s.rtpTx := State.count_rtpTx s _ _
@[simp] theorem State.bump_link (off : Nat) : (s.bump off).link = s.link := State.count_link s _ _
@[simp] theorem State.bump_pair (off : Nat) : (s.bump off).pair = s.pair := State.count_pair s _ _
@[simp] theorem State.bump_yard (off : Nat) : (s.bump off).yard = s.yard := State.count_yard s _ _
@[simp] theorem State.bump_reply (off : Nat) : (s.bump off).reply = s.reply := State.count_reply s _ _
@[simp] theorem State.bump_weevil (off : Nat) : (s.bump off).weevil = s.weevil := State.count_weevil s _ _
@[simp] theorem State.bump_blk (off : Nat) : (s.bump off).blk = s.blk := State.count_blk s _ _
@[simp] theorem State.bump_rst (off : Nat) : (s.bump off).rst = s.rst := State.count_rst s _ _
@[simp] theorem State.bump_tst (off : Nat) : (s.bump off).tst = s.tst := State.count_tst s _ _
@[simp] theorem State.bump_jtag (off : Nat) : (s.bump off).jtag = s.jtag := State.count_jtag s _ _
@[simp] theorem State.bump_flash (off : Nat) : (s.bump off).flash = s.flash := State.count_flash s _ _

/-! ### setCore -/

@[simp] theorem State.setCore_pending (n : Nat) (c : Core) : (s.setCore n c).pending = s.pending := rfl
@[simp] theorem State.setCore_freeCtr (n : Nat) (c : Core) : (s.setCore n c).freeCtr = s.freeCtr := rfl
@[simp] theorem State.setCore_regs (n : Nat) (c : Core) : (s.setCore n c).regs = s.regs := rfl
@[simp] theorem State.setCore_snaps (n : Nat) (c : Core) : (s.setCore n c).snaps = s.snaps := rfl
@[simp] theorem State.setCore_mem (n : Nat) (c : Core) : (s.setCore n c).mem = s.mem := rfl
@[simp] theorem State.setCore_bulk (n : Nat) (c : Core) : (s.setCore n c).bulk = s.bulk := rfl
@[simp] theorem State.setCore_host (n : Nat) (c : Core) : (s.setCore n c).host = s.host := rfl
@[simp] theorem State.setCore_cores (n : Nat) (c : Core) : (s.setCore n c).cores = Tbl.set s.cores {} n c := rfl
@[simp] theorem State.setCore_ffts (n : Nat) (c : Core) : (s.setCore n c).ffts = s.ffts := rfl
@[simp] theorem State.setCore_eng (n : Nat) (c : Core) : (s.setCore n c).eng = s.eng := rfl
@[simp] theorem State.setCore_hif (n : Nat) (c : Core) : (s.setCore n c).hif = s.hif := rfl
@[simp] theorem State.setCore_loft (n : Nat) (c : Core) : (s.setCore n c).loft = s.loft := rfl
@[simp] theorem State.setCore_gpioIn (n : Nat) (c : Core) : (s.setCore n c).gpioIn = s.gpioIn := rfl
@[simp] theorem State.setCore_waiters (n : Nat) (c : Core) : (s.setCore n c).waiters = s.waiters := rfl
@[simp] theorem State.setCore_lockReqs (n : Nat) (c : Core) : (s.setCore n c).lockReqs = s.lockReqs := rfl
@[simp] theorem State.setCore_ports (n : Nat) (c : Core) : (s.setCore n c).ports = s.ports := rfl
@[simp] theorem State.setCore_mics (n : Nat) (c : Core) : (s.setCore n c).mics = s.mics := rfl
@[simp] theorem State.setCore_clk (n : Nat) (c : Core) : (s.setCore n c).clk = s.clk := rfl
@[simp] theorem State.setCore_tim (n : Nat) (c : Core) : (s.setCore n c).tim = s.tim := rfl
@[simp] theorem State.setCore_lanes (n : Nat) (c : Core) : (s.setCore n c).lanes = s.lanes := rfl
@[simp] theorem State.setCore_rtpRx (n : Nat) (c : Core) : (s.setCore n c).rtpRx = s.rtpRx := rfl
@[simp] theorem State.setCore_rtpTx (n : Nat) (c : Core) : (s.setCore n c).rtpTx = s.rtpTx := rfl
@[simp] theorem State.setCore_link (n : Nat) (c : Core) : (s.setCore n c).link = s.link := rfl
@[simp] theorem State.setCore_pair (n : Nat) (c : Core) : (s.setCore n c).pair = s.pair := rfl
@[simp] theorem State.setCore_yard (n : Nat) (c : Core) : (s.setCore n c).yard = s.yard := rfl
@[simp] theorem State.setCore_reply (n : Nat) (c : Core) : (s.setCore n c).reply = s.reply := rfl
@[simp] theorem State.setCore_weevil (n : Nat) (c : Core) : (s.setCore n c).weevil = s.weevil := rfl
@[simp] theorem State.setCore_blk (n : Nat) (c : Core) : (s.setCore n c).blk = s.blk := rfl
@[simp] theorem State.setCore_rst (n : Nat) (c : Core) : (s.setCore n c).rst = s.rst := rfl
@[simp] theorem State.setCore_tst (n : Nat) (c : Core) : (s.setCore n c).tst = s.tst := rfl
@[simp] theorem State.setCore_jtag (n : Nat) (c : Core) : (s.setCore n c).jtag = s.jtag := rfl
@[simp] theorem State.setCore_flash (n : Nat) (c : Core) : (s.setCore n c).flash = s.flash := rfl

/-! ### setFftUnit -/

@[simp] theorem State.setFftUnit_pending (n : Nat) (u : FftUnit) : (s.setFftUnit n u).pending = s.pending := rfl
@[simp] theorem State.setFftUnit_freeCtr (n : Nat) (u : FftUnit) : (s.setFftUnit n u).freeCtr = s.freeCtr := rfl
@[simp] theorem State.setFftUnit_regs (n : Nat) (u : FftUnit) : (s.setFftUnit n u).regs = s.regs := rfl
@[simp] theorem State.setFftUnit_snaps (n : Nat) (u : FftUnit) : (s.setFftUnit n u).snaps = s.snaps := rfl
@[simp] theorem State.setFftUnit_mem (n : Nat) (u : FftUnit) : (s.setFftUnit n u).mem = s.mem := rfl
@[simp] theorem State.setFftUnit_bulk (n : Nat) (u : FftUnit) : (s.setFftUnit n u).bulk = s.bulk := rfl
@[simp] theorem State.setFftUnit_host (n : Nat) (u : FftUnit) : (s.setFftUnit n u).host = s.host := rfl
@[simp] theorem State.setFftUnit_cores (n : Nat) (u : FftUnit) : (s.setFftUnit n u).cores = s.cores := rfl
@[simp] theorem State.setFftUnit_ffts (n : Nat) (u : FftUnit) : (s.setFftUnit n u).ffts = Tbl.set s.ffts {} n u := rfl
@[simp] theorem State.setFftUnit_eng (n : Nat) (u : FftUnit) : (s.setFftUnit n u).eng = s.eng := rfl
@[simp] theorem State.setFftUnit_hif (n : Nat) (u : FftUnit) : (s.setFftUnit n u).hif = s.hif := rfl
@[simp] theorem State.setFftUnit_loft (n : Nat) (u : FftUnit) : (s.setFftUnit n u).loft = s.loft := rfl
@[simp] theorem State.setFftUnit_gpioIn (n : Nat) (u : FftUnit) : (s.setFftUnit n u).gpioIn = s.gpioIn := rfl
@[simp] theorem State.setFftUnit_waiters (n : Nat) (u : FftUnit) : (s.setFftUnit n u).waiters = s.waiters := rfl
@[simp] theorem State.setFftUnit_lockReqs (n : Nat) (u : FftUnit) : (s.setFftUnit n u).lockReqs = s.lockReqs := rfl
@[simp] theorem State.setFftUnit_ports (n : Nat) (u : FftUnit) : (s.setFftUnit n u).ports = s.ports := rfl
@[simp] theorem State.setFftUnit_mics (n : Nat) (u : FftUnit) : (s.setFftUnit n u).mics = s.mics := rfl
@[simp] theorem State.setFftUnit_clk (n : Nat) (u : FftUnit) : (s.setFftUnit n u).clk = s.clk := rfl
@[simp] theorem State.setFftUnit_tim (n : Nat) (u : FftUnit) : (s.setFftUnit n u).tim = s.tim := rfl
@[simp] theorem State.setFftUnit_lanes (n : Nat) (u : FftUnit) : (s.setFftUnit n u).lanes = s.lanes := rfl
@[simp] theorem State.setFftUnit_rtpRx (n : Nat) (u : FftUnit) : (s.setFftUnit n u).rtpRx = s.rtpRx := rfl
@[simp] theorem State.setFftUnit_rtpTx (n : Nat) (u : FftUnit) : (s.setFftUnit n u).rtpTx = s.rtpTx := rfl
@[simp] theorem State.setFftUnit_link (n : Nat) (u : FftUnit) : (s.setFftUnit n u).link = s.link := rfl
@[simp] theorem State.setFftUnit_pair (n : Nat) (u : FftUnit) : (s.setFftUnit n u).pair = s.pair := rfl
@[simp] theorem State.setFftUnit_yard (n : Nat) (u : FftUnit) : (s.setFftUnit n u).yard = s.yard := rfl
@[simp] theorem State.setFftUnit_reply (n : Nat) (u : FftUnit) : (s.setFftUnit n u).reply = s.reply := rfl
@[simp] theorem State.setFftUnit_weevil (n : Nat) (u : FftUnit) : (s.setFftUnit n u).weevil = s.weevil := rfl
@[simp] theorem State.setFftUnit_blk (n : Nat) (u : FftUnit) : (s.setFftUnit n u).blk = s.blk := rfl
@[simp] theorem State.setFftUnit_rst (n : Nat) (u : FftUnit) : (s.setFftUnit n u).rst = s.rst := rfl
@[simp] theorem State.setFftUnit_tst (n : Nat) (u : FftUnit) : (s.setFftUnit n u).tst = s.tst := rfl
@[simp] theorem State.setFftUnit_jtag (n : Nat) (u : FftUnit) : (s.setFftUnit n u).jtag = s.jtag := rfl
@[simp] theorem State.setFftUnit_flash (n : Nat) (u : FftUnit) : (s.setFftUnit n u).flash = s.flash := rfl

/-! ### setSlot -/

@[simp] theorem State.setSlot_pending (k : Nat) (x : Slot) : (s.setSlot k x).pending = s.pending := rfl
@[simp] theorem State.setSlot_freeCtr (k : Nat) (x : Slot) : (s.setSlot k x).freeCtr = s.freeCtr := rfl
@[simp] theorem State.setSlot_regs (k : Nat) (x : Slot) : (s.setSlot k x).regs = s.regs := rfl
@[simp] theorem State.setSlot_snaps (k : Nat) (x : Slot) : (s.setSlot k x).snaps = s.snaps := rfl
@[simp] theorem State.setSlot_mem (k : Nat) (x : Slot) : (s.setSlot k x).mem = s.mem := rfl
@[simp] theorem State.setSlot_bulk (k : Nat) (x : Slot) : (s.setSlot k x).bulk = s.bulk := rfl
@[simp] theorem State.setSlot_host (k : Nat) (x : Slot) : (s.setSlot k x).host = s.host := rfl
@[simp] theorem State.setSlot_cores (k : Nat) (x : Slot) : (s.setSlot k x).cores = s.cores := rfl
@[simp] theorem State.setSlot_ffts (k : Nat) (x : Slot) : (s.setSlot k x).ffts = s.ffts := rfl
@[simp] theorem State.setSlot_eng (k : Nat) (x : Slot) : (s.setSlot k x).eng = { s.eng with slots := Tbl.set s.eng.slots {} k x } := rfl
@[simp] theorem State.setSlot_hif (k : Nat) (x : Slot) : (s.setSlot k x).hif = s.hif := rfl
@[simp] theorem State.setSlot_loft (k : Nat) (x : Slot) : (s.setSlot k x).loft = s.loft := rfl
@[simp] theorem State.setSlot_gpioIn (k : Nat) (x : Slot) : (s.setSlot k x).gpioIn = s.gpioIn := rfl
@[simp] theorem State.setSlot_waiters (k : Nat) (x : Slot) : (s.setSlot k x).waiters = s.waiters := rfl
@[simp] theorem State.setSlot_lockReqs (k : Nat) (x : Slot) : (s.setSlot k x).lockReqs = s.lockReqs := rfl
@[simp] theorem State.setSlot_ports (k : Nat) (x : Slot) : (s.setSlot k x).ports = s.ports := rfl
@[simp] theorem State.setSlot_mics (k : Nat) (x : Slot) : (s.setSlot k x).mics = s.mics := rfl
@[simp] theorem State.setSlot_clk (k : Nat) (x : Slot) : (s.setSlot k x).clk = s.clk := rfl
@[simp] theorem State.setSlot_tim (k : Nat) (x : Slot) : (s.setSlot k x).tim = s.tim := rfl
@[simp] theorem State.setSlot_lanes (k : Nat) (x : Slot) : (s.setSlot k x).lanes = s.lanes := rfl
@[simp] theorem State.setSlot_rtpRx (k : Nat) (x : Slot) : (s.setSlot k x).rtpRx = s.rtpRx := rfl
@[simp] theorem State.setSlot_rtpTx (k : Nat) (x : Slot) : (s.setSlot k x).rtpTx = s.rtpTx := rfl
@[simp] theorem State.setSlot_link (k : Nat) (x : Slot) : (s.setSlot k x).link = s.link := rfl
@[simp] theorem State.setSlot_pair (k : Nat) (x : Slot) : (s.setSlot k x).pair = s.pair := rfl
@[simp] theorem State.setSlot_yard (k : Nat) (x : Slot) : (s.setSlot k x).yard = s.yard := rfl
@[simp] theorem State.setSlot_reply (k : Nat) (x : Slot) : (s.setSlot k x).reply = s.reply := rfl
@[simp] theorem State.setSlot_weevil (k : Nat) (x : Slot) : (s.setSlot k x).weevil = s.weevil := rfl
@[simp] theorem State.setSlot_blk (k : Nat) (x : Slot) : (s.setSlot k x).blk = s.blk := rfl
@[simp] theorem State.setSlot_rst (k : Nat) (x : Slot) : (s.setSlot k x).rst = s.rst := rfl
@[simp] theorem State.setSlot_tst (k : Nat) (x : Slot) : (s.setSlot k x).tst = s.tst := rfl
@[simp] theorem State.setSlot_jtag (k : Nat) (x : Slot) : (s.setSlot k x).jtag = s.jtag := rfl
@[simp] theorem State.setSlot_flash (k : Nat) (x : Slot) : (s.setSlot k x).flash = s.flash := rfl

/-! ### setZone -/

@[simp] theorem State.setZone_pending (z : Nat) (x : ZoneSt) : (s.setZone z x).pending = s.pending := rfl
@[simp] theorem State.setZone_freeCtr (z : Nat) (x : ZoneSt) : (s.setZone z x).freeCtr = s.freeCtr := rfl
@[simp] theorem State.setZone_regs (z : Nat) (x : ZoneSt) : (s.setZone z x).regs = s.regs := rfl
@[simp] theorem State.setZone_snaps (z : Nat) (x : ZoneSt) : (s.setZone z x).snaps = s.snaps := rfl
@[simp] theorem State.setZone_mem (z : Nat) (x : ZoneSt) : (s.setZone z x).mem = s.mem := rfl
@[simp] theorem State.setZone_bulk (z : Nat) (x : ZoneSt) : (s.setZone z x).bulk = s.bulk := rfl
@[simp] theorem State.setZone_host (z : Nat) (x : ZoneSt) : (s.setZone z x).host = s.host := rfl
@[simp] theorem State.setZone_cores (z : Nat) (x : ZoneSt) : (s.setZone z x).cores = s.cores := rfl
@[simp] theorem State.setZone_ffts (z : Nat) (x : ZoneSt) : (s.setZone z x).ffts = s.ffts := rfl
@[simp] theorem State.setZone_eng (z : Nat) (x : ZoneSt) : (s.setZone z x).eng = { s.eng with zones := Tbl.set s.eng.zones {} z x } := rfl
@[simp] theorem State.setZone_hif (z : Nat) (x : ZoneSt) : (s.setZone z x).hif = s.hif := rfl
@[simp] theorem State.setZone_loft (z : Nat) (x : ZoneSt) : (s.setZone z x).loft = s.loft := rfl
@[simp] theorem State.setZone_gpioIn (z : Nat) (x : ZoneSt) : (s.setZone z x).gpioIn = s.gpioIn := rfl
@[simp] theorem State.setZone_waiters (z : Nat) (x : ZoneSt) : (s.setZone z x).waiters = s.waiters := rfl
@[simp] theorem State.setZone_lockReqs (z : Nat) (x : ZoneSt) : (s.setZone z x).lockReqs = s.lockReqs := rfl
@[simp] theorem State.setZone_ports (z : Nat) (x : ZoneSt) : (s.setZone z x).ports = s.ports := rfl
@[simp] theorem State.setZone_mics (z : Nat) (x : ZoneSt) : (s.setZone z x).mics = s.mics := rfl
@[simp] theorem State.setZone_clk (z : Nat) (x : ZoneSt) : (s.setZone z x).clk = s.clk := rfl
@[simp] theorem State.setZone_tim (z : Nat) (x : ZoneSt) : (s.setZone z x).tim = s.tim := rfl
@[simp] theorem State.setZone_lanes (z : Nat) (x : ZoneSt) : (s.setZone z x).lanes = s.lanes := rfl
@[simp] theorem State.setZone_rtpRx (z : Nat) (x : ZoneSt) : (s.setZone z x).rtpRx = s.rtpRx := rfl
@[simp] theorem State.setZone_rtpTx (z : Nat) (x : ZoneSt) : (s.setZone z x).rtpTx = s.rtpTx := rfl
@[simp] theorem State.setZone_link (z : Nat) (x : ZoneSt) : (s.setZone z x).link = s.link := rfl
@[simp] theorem State.setZone_pair (z : Nat) (x : ZoneSt) : (s.setZone z x).pair = s.pair := rfl
@[simp] theorem State.setZone_yard (z : Nat) (x : ZoneSt) : (s.setZone z x).yard = s.yard := rfl
@[simp] theorem State.setZone_reply (z : Nat) (x : ZoneSt) : (s.setZone z x).reply = s.reply := rfl
@[simp] theorem State.setZone_weevil (z : Nat) (x : ZoneSt) : (s.setZone z x).weevil = s.weevil := rfl
@[simp] theorem State.setZone_blk (z : Nat) (x : ZoneSt) : (s.setZone z x).blk = s.blk := rfl
@[simp] theorem State.setZone_rst (z : Nat) (x : ZoneSt) : (s.setZone z x).rst = s.rst := rfl
@[simp] theorem State.setZone_tst (z : Nat) (x : ZoneSt) : (s.setZone z x).tst = s.tst := rfl
@[simp] theorem State.setZone_jtag (z : Nat) (x : ZoneSt) : (s.setZone z x).jtag = s.jtag := rfl
@[simp] theorem State.setZone_flash (z : Nat) (x : ZoneSt) : (s.setZone z x).flash = s.flash := rfl

/-! ### setStallByte -/

@[simp] theorem State.setStallByte_pending (a : Nat) (b : BitVec 8) : (s.setStallByte a b).pending = s.pending := rfl
@[simp] theorem State.setStallByte_freeCtr (a : Nat) (b : BitVec 8) : (s.setStallByte a b).freeCtr = s.freeCtr := rfl
@[simp] theorem State.setStallByte_regs (a : Nat) (b : BitVec 8) : (s.setStallByte a b).regs = s.regs := rfl
@[simp] theorem State.setStallByte_snaps (a : Nat) (b : BitVec 8) : (s.setStallByte a b).snaps = s.snaps := rfl
@[simp] theorem State.setStallByte_mem (a : Nat) (b : BitVec 8) : (s.setStallByte a b).mem = Tbl.set s.mem (s.memDefault a) a b := rfl
@[simp] theorem State.setStallByte_bulk (a : Nat) (b : BitVec 8) : (s.setStallByte a b).bulk = s.bulk := rfl
@[simp] theorem State.setStallByte_host (a : Nat) (b : BitVec 8) : (s.setStallByte a b).host = s.host := rfl
@[simp] theorem State.setStallByte_cores (a : Nat) (b : BitVec 8) : (s.setStallByte a b).cores = s.cores := rfl
@[simp] theorem State.setStallByte_ffts (a : Nat) (b : BitVec 8) : (s.setStallByte a b).ffts = s.ffts := rfl
@[simp] theorem State.setStallByte_eng (a : Nat) (b : BitVec 8) : (s.setStallByte a b).eng = s.eng := rfl
@[simp] theorem State.setStallByte_hif (a : Nat) (b : BitVec 8) : (s.setStallByte a b).hif = s.hif := rfl
@[simp] theorem State.setStallByte_loft (a : Nat) (b : BitVec 8) : (s.setStallByte a b).loft = s.loft := rfl
@[simp] theorem State.setStallByte_gpioIn (a : Nat) (b : BitVec 8) : (s.setStallByte a b).gpioIn = s.gpioIn := rfl
@[simp] theorem State.setStallByte_waiters (a : Nat) (b : BitVec 8) : (s.setStallByte a b).waiters = s.waiters := rfl
@[simp] theorem State.setStallByte_lockReqs (a : Nat) (b : BitVec 8) : (s.setStallByte a b).lockReqs = s.lockReqs := rfl
@[simp] theorem State.setStallByte_ports (a : Nat) (b : BitVec 8) : (s.setStallByte a b).ports = s.ports := rfl
@[simp] theorem State.setStallByte_mics (a : Nat) (b : BitVec 8) : (s.setStallByte a b).mics = s.mics := rfl
@[simp] theorem State.setStallByte_clk (a : Nat) (b : BitVec 8) : (s.setStallByte a b).clk = s.clk := rfl
@[simp] theorem State.setStallByte_tim (a : Nat) (b : BitVec 8) : (s.setStallByte a b).tim = s.tim := rfl
@[simp] theorem State.setStallByte_lanes (a : Nat) (b : BitVec 8) : (s.setStallByte a b).lanes = s.lanes := rfl
@[simp] theorem State.setStallByte_rtpRx (a : Nat) (b : BitVec 8) : (s.setStallByte a b).rtpRx = s.rtpRx := rfl
@[simp] theorem State.setStallByte_rtpTx (a : Nat) (b : BitVec 8) : (s.setStallByte a b).rtpTx = s.rtpTx := rfl
@[simp] theorem State.setStallByte_link (a : Nat) (b : BitVec 8) : (s.setStallByte a b).link = s.link := rfl
@[simp] theorem State.setStallByte_pair (a : Nat) (b : BitVec 8) : (s.setStallByte a b).pair = s.pair := rfl
@[simp] theorem State.setStallByte_yard (a : Nat) (b : BitVec 8) : (s.setStallByte a b).yard = s.yard := rfl
@[simp] theorem State.setStallByte_reply (a : Nat) (b : BitVec 8) : (s.setStallByte a b).reply = s.reply := rfl
@[simp] theorem State.setStallByte_weevil (a : Nat) (b : BitVec 8) : (s.setStallByte a b).weevil = s.weevil := rfl
@[simp] theorem State.setStallByte_blk (a : Nat) (b : BitVec 8) : (s.setStallByte a b).blk = s.blk := rfl
@[simp] theorem State.setStallByte_rst (a : Nat) (b : BitVec 8) : (s.setStallByte a b).rst = s.rst := rfl
@[simp] theorem State.setStallByte_tst (a : Nat) (b : BitVec 8) : (s.setStallByte a b).tst = s.tst := rfl
@[simp] theorem State.setStallByte_jtag (a : Nat) (b : BitVec 8) : (s.setStallByte a b).jtag = s.jtag := rfl
@[simp] theorem State.setStallByte_flash (a : Nat) (b : BitVec 8) : (s.setStallByte a b).flash = s.flash := rfl

/-! ### draw -/

@[simp] theorem State.draw_pending (n : Nat) : (s.draw n).2.pending = s.pending := rfl
@[simp] theorem State.draw_freeCtr (n : Nat) : (s.draw n).2.freeCtr = s.freeCtr + 1 := rfl
@[simp] theorem State.draw_regs (n : Nat) : (s.draw n).2.regs = s.regs := rfl
@[simp] theorem State.draw_snaps (n : Nat) : (s.draw n).2.snaps = s.snaps := rfl
@[simp] theorem State.draw_mem (n : Nat) : (s.draw n).2.mem = s.mem := rfl
@[simp] theorem State.draw_bulk (n : Nat) : (s.draw n).2.bulk = s.bulk := rfl
@[simp] theorem State.draw_host (n : Nat) : (s.draw n).2.host = s.host := rfl
@[simp] theorem State.draw_cores (n : Nat) : (s.draw n).2.cores = s.cores := rfl
@[simp] theorem State.draw_ffts (n : Nat) : (s.draw n).2.ffts = s.ffts := rfl
@[simp] theorem State.draw_eng (n : Nat) : (s.draw n).2.eng = s.eng := rfl
@[simp] theorem State.draw_hif (n : Nat) : (s.draw n).2.hif = s.hif := rfl
@[simp] theorem State.draw_loft (n : Nat) : (s.draw n).2.loft = s.loft := rfl
@[simp] theorem State.draw_gpioIn (n : Nat) : (s.draw n).2.gpioIn = s.gpioIn := rfl
@[simp] theorem State.draw_waiters (n : Nat) : (s.draw n).2.waiters = s.waiters := rfl
@[simp] theorem State.draw_lockReqs (n : Nat) : (s.draw n).2.lockReqs = s.lockReqs := rfl
@[simp] theorem State.draw_ports (n : Nat) : (s.draw n).2.ports = s.ports := rfl
@[simp] theorem State.draw_mics (n : Nat) : (s.draw n).2.mics = s.mics := rfl
@[simp] theorem State.draw_clk (n : Nat) : (s.draw n).2.clk = s.clk := rfl
@[simp] theorem State.draw_tim (n : Nat) : (s.draw n).2.tim = s.tim := rfl
@[simp] theorem State.draw_lanes (n : Nat) : (s.draw n).2.lanes = s.lanes := rfl
@[simp] theorem State.draw_rtpRx (n : Nat) : (s.draw n).2.rtpRx = s.rtpRx := rfl
@[simp] theorem State.draw_rtpTx (n : Nat) : (s.draw n).2.rtpTx = s.rtpTx := rfl
@[simp] theorem State.draw_link (n : Nat) : (s.draw n).2.link = s.link := rfl
@[simp] theorem State.draw_pair (n : Nat) : (s.draw n).2.pair = s.pair := rfl
@[simp] theorem State.draw_yard (n : Nat) : (s.draw n).2.yard = s.yard := rfl
@[simp] theorem State.draw_reply (n : Nat) : (s.draw n).2.reply = s.reply := rfl
@[simp] theorem State.draw_weevil (n : Nat) : (s.draw n).2.weevil = s.weevil := rfl
@[simp] theorem State.draw_blk (n : Nat) : (s.draw n).2.blk = s.blk := rfl
@[simp] theorem State.draw_rst (n : Nat) : (s.draw n).2.rst = s.rst := rfl
@[simp] theorem State.draw_tst (n : Nat) : (s.draw n).2.tst = s.tst := rfl
@[simp] theorem State.draw_jtag (n : Nat) : (s.draw n).2.jtag = s.jtag := rfl
@[simp] theorem State.draw_flash (n : Nat) : (s.draw n).2.flash = s.flash := rfl

/-! ### setPair -/

@[simp] theorem State.setPair_pending (x : Pair) : (s.setPair x).pending = s.pending := rfl
@[simp] theorem State.setPair_freeCtr (x : Pair) : (s.setPair x).freeCtr = s.freeCtr := rfl
@[simp] theorem State.setPair_regs (x : Pair) : (s.setPair x).regs = s.regs := rfl
@[simp] theorem State.setPair_snaps (x : Pair) : (s.setPair x).snaps = s.snaps := rfl
@[simp] theorem State.setPair_mem (x : Pair) : (s.setPair x).mem = s.mem := rfl
@[simp] theorem State.setPair_bulk (x : Pair) : (s.setPair x).bulk = s.bulk := rfl
@[simp] theorem State.setPair_host (x : Pair) : (s.setPair x).host = s.host := rfl
@[simp] theorem State.setPair_cores (x : Pair) : (s.setPair x).cores = s.cores := rfl
@[simp] theorem State.setPair_ffts (x : Pair) : (s.setPair x).ffts = s.ffts := rfl
@[simp] theorem State.setPair_eng (x : Pair) : (s.setPair x).eng = s.eng := rfl
@[simp] theorem State.setPair_hif (x : Pair) : (s.setPair x).hif = s.hif := rfl
@[simp] theorem State.setPair_loft (x : Pair) : (s.setPair x).loft = s.loft := rfl
@[simp] theorem State.setPair_gpioIn (x : Pair) : (s.setPair x).gpioIn = s.gpioIn := rfl
@[simp] theorem State.setPair_waiters (x : Pair) : (s.setPair x).waiters = s.waiters := rfl
@[simp] theorem State.setPair_lockReqs (x : Pair) : (s.setPair x).lockReqs = s.lockReqs := rfl
@[simp] theorem State.setPair_ports (x : Pair) : (s.setPair x).ports = s.ports := rfl
@[simp] theorem State.setPair_mics (x : Pair) : (s.setPair x).mics = s.mics := rfl
@[simp] theorem State.setPair_clk (x : Pair) : (s.setPair x).clk = s.clk := rfl
@[simp] theorem State.setPair_tim (x : Pair) : (s.setPair x).tim = s.tim := rfl
@[simp] theorem State.setPair_lanes (x : Pair) : (s.setPair x).lanes = s.lanes := rfl
@[simp] theorem State.setPair_rtpRx (x : Pair) : (s.setPair x).rtpRx = s.rtpRx := rfl
@[simp] theorem State.setPair_rtpTx (x : Pair) : (s.setPair x).rtpTx = s.rtpTx := rfl
@[simp] theorem State.setPair_link (x : Pair) : (s.setPair x).link = s.link := rfl
@[simp] theorem State.setPair_pair (x : Pair) : (s.setPair x).pair = x := rfl
@[simp] theorem State.setPair_yard (x : Pair) : (s.setPair x).yard = s.yard := rfl
@[simp] theorem State.setPair_reply (x : Pair) : (s.setPair x).reply = s.reply := rfl
@[simp] theorem State.setPair_weevil (x : Pair) : (s.setPair x).weevil = s.weevil := rfl
@[simp] theorem State.setPair_blk (x : Pair) : (s.setPair x).blk = s.blk := rfl
@[simp] theorem State.setPair_rst (x : Pair) : (s.setPair x).rst = s.rst := rfl
@[simp] theorem State.setPair_tst (x : Pair) : (s.setPair x).tst = s.tst := rfl
@[simp] theorem State.setPair_jtag (x : Pair) : (s.setPair x).jtag = s.jtag := rfl
@[simp] theorem State.setPair_flash (x : Pair) : (s.setPair x).flash = s.flash := rfl

end Sys2Proof.Machine
end

