-- ==== Sys2Proof/Laws/Regs.lean ====
section
/-! SUPPORT. Registers and their fields: a read after a write, and what a write leaves alone; the same for the cores, slots and
zones that tables hold. -/

namespace Sys2Proof.Machine

open Sys2Proof.Arith

/-! ### What the canonical form gives -/

theorem State.regs_rising {s : State} (h : s.canonical = true) : Tbl.rising s.regs = true :=
  Tbl.wf_rising _ _ ((State.regsCanonical_iff s).mp ((State.canonical_iff s).mp h).2.1).1

theorem State.cores_rising {s : State} (h : s.canonical = true) : Tbl.rising s.cores = true :=
  Tbl.wf_rising _ _ ((State.unitsCanonical_iff s).mp ((State.canonical_iff s).mp h).2.2.1).1

theorem State.slots_rising {s : State} (h : s.canonical = true) : Tbl.rising s.eng.slots = true := by
  have := ((State.canonical_iff s).mp h).2.2.2.1
  simp only [Eng.canonical, Bool.and_eq_true] at this
  exact Tbl.wf_rising _ _ this.1.1.1

theorem State.zones_rising {s : State} (h : s.canonical = true) : Tbl.rising s.eng.zones = true := by
  have := ((State.canonical_iff s).mp h).2.2.2.1
  simp only [Eng.canonical, Bool.and_eq_true] at this
  exact Tbl.wf_rising _ _ this.1.1.2

/-! ### Whole registers -/

/-- A register reads as it was written. -/
theorem State.reg_setReg_same {s : State} (h : s.canonical = true) (off : Nat) (w : W32) : (s.setReg off w).reg off = w :=
  Tbl.get_set_same _ _ _ _ (State.regs_rising h)

/-- A write of a register leaves every other register alone. -/
theorem State.reg_setReg_other {s : State} (h : s.canonical = true) {off o : Nat} (w : W32) (ho : o ≠ off) :
    (s.setReg off w).reg o = s.reg o :=
  Tbl.get_set_other _ _ _ _ _ _ ho (State.regs_rising h)

/-- A write of a register keeps the canonical form. -/
theorem State.canonical_setReg {s : State} (h : s.canonical = true) (off : Nat) (w : W32) : (s.setReg off w).canonical = true := by
  obtain ⟨c0, c1, c2, c3, c4, c5, c6, c7, c8, c9, c10, c11⟩ := (State.canonical_iff s).mp h
  refine (State.canonical_iff _).mpr ⟨c0, ?_, c2, c3, c4, c5, c6, c7, c8, c9, c10, c11⟩
  have := (State.regsCanonical_iff s).mp c1
  exact (State.regsCanonical_iff _).mpr ⟨Tbl.wf_set resetWord w off s.regs this.1, this.2⟩

/-- A write of a field keeps the canonical form. -/
theorem State.canonical_fset {s : State} (h : s.canonical = true) (f : Field) (v : Nat) : (s.fset f v).canonical = true :=
  State.canonical_setReg h _ _

/-! ### Fields -/

/-- Bits of a word with bits `hi` to `lo` replaced. -/
theorem insertBits_getLsbD (w : W32) (hi lo v i : Nat) (hl : lo ≤ hi) (hi32 : i < 32) :
    (insertBits w hi lo v).getLsbD i = if lo ≤ i ∧ i ≤ hi then v.testBit (i - lo) else w.getLsbD i := by
  unfold insertBits
  simp only [BitVec.getLsbD_ofNat, hi32, decide_true, Bool.true_and]
  have e : w.toNat / 2 ^ (hi + 1) * 2 ^ (hi + 1) + v % 2 ^ (hi + 1 - lo) * 2 ^ lo + w.toNat % 2 ^ lo =
      2 ^ lo * (2 ^ (hi + 1 - lo) * (w.toNat / 2 ^ (hi + 1)) + v % 2 ^ (hi + 1 - lo)) + w.toNat % 2 ^ lo := by
    have : (2 : Nat) ^ (hi + 1) = 2 ^ lo * 2 ^ (hi + 1 - lo) := by rw [← Nat.pow_add]; congr 1; omega
    rw [Nat.mul_add, ← Nat.mul_assoc, ← this, Nat.mul_comm (2 ^ (hi + 1)), Nat.mul_comm (v % _)]
  rw [e, Nat.testBit_two_pow_mul_add _ (Nat.mod_lt _ (Nat.two_pow_pos lo))]
  by_cases h1 : i < lo
  · have : ¬ (lo ≤ i ∧ i ≤ hi) := by omega
    simp only [h1, if_true, this, if_false, Nat.testBit_mod_two_pow, decide_true, Bool.true_and]
    rfl
  · rw [if_neg h1, Nat.testBit_two_pow_mul_add _ (Nat.mod_lt _ (Nat.two_pow_pos _))]
    by_cases h2 : i ≤ hi
    · have h3 : i - lo < hi + 1 - lo := by omega
      have h4 : lo ≤ i ∧ i ≤ hi := ⟨by omega, h2⟩
      simp only [h3, if_true, h4, and_self, Nat.testBit_mod_two_pow, decide_true, Bool.true_and]
    · have h3 : ¬ i - lo < hi + 1 - lo := by omega
      have h4 : ¬ (lo ≤ i ∧ i ≤ hi) := by omega
      simp only [h3, if_false, h4, Nat.testBit_div_two_pow]
      have : i - lo - (hi + 1 - lo) + (hi + 1) = i := by omega
      rw [this]; rfl

/-- A bit of a field. -/
theorem testBit_bits (n hi lo i : Nat) : (bits n hi lo).testBit i = (decide (i < hi + 1 - lo) && n.testBit (i + lo)) := by
  unfold bits
  rw [Nat.testBit_mod_two_pow, Nat.testBit_div_two_pow]

/-- A field reads as it was written, cut to its width. -/
theorem State.fget_fset_same {s : State} (h : s.canonical = true) (f : Field) (v : Nat) (hl : f.lo ≤ f.hi) (hh : f.hi < 32) :
    (s.fset f v).fget f = v % 2 ^ (f.hi + 1 - f.lo) := by
  unfold State.fget State.fset
  rw [State.reg_setReg_same h]
  apply Nat.eq_of_testBit_eq
  intro i
  rw [testBit_bits, Nat.testBit_mod_two_pow]
  by_cases hi : i < f.hi + 1 - f.lo
  · have := insertBits_getLsbD (s.reg f.off) f.hi f.lo v (i + f.lo) hl (by omega)
    rw [if_pos ⟨by omega, by omega⟩, Nat.add_sub_cancel] at this
    simp only [hi, decide_true, Bool.true_and]
    exact this
  · simp only [hi, decide_false, Bool.false_and]

/-- A write of a field leaves a field beside it alone. -/
theorem State.fget_fset_apart {s : State} (h : s.canonical = true) (f g : Field) (v : Nat) (hl : f.lo ≤ f.hi)
    (hg : g.hi < 32) (ha : g.hi < f.lo ∨ f.hi < g.lo) : (s.fset f v).fget g = s.fget g := by
  by_cases ho : g.off = f.off
  · unfold State.fget State.fset
    rw [ho, State.reg_setReg_same h]
    apply Nat.eq_of_testBit_eq
    intro i
    rw [testBit_bits, testBit_bits]
    by_cases hi : i < g.hi + 1 - g.lo
    · have := insertBits_getLsbD (s.reg f.off) f.hi f.lo v (i + g.lo) hl (by omega)
      rw [if_neg (by omega)] at this
      simp only [hi, decide_true, Bool.true_and]
      exact this
    · simp only [hi, decide_false, Bool.false_and]
  · unfold State.fget State.fset
    rw [State.reg_setReg_other h _ ho]

/-- A write of a field leaves the fields of other registers alone. -/
theorem State.fget_fset_other {s : State} (h : s.canonical = true) (f g : Field) (v : Nat) (ho : g.off ≠ f.off) :
    (s.fset f v).fget g = s.fget g := by
  unfold State.fget State.fset
  rw [State.reg_setReg_other h _ ho]

/-- A write of a field leaves every other register alone. -/
theorem State.reg_fset_other {s : State} (h : s.canonical = true) (f : Field) (v : Nat) {o : Nat} (ho : o ≠ f.off) :
    (s.fset f v).reg o = s.reg o := State.reg_setReg_other h _ ho

/-! ### Cores, slots, zones -/

theorem State.core_setCore_same {s : State} (h : s.canonical = true) (n : Nat) (c : Core) : (s.setCore n c).core n = c :=
  Tbl.get_set_same _ _ _ _ (State.cores_rising h)

theorem State.core_setCore_other {s : State} (h : s.canonical = true) {n k : Nat} (c : Core) (hk : k ≠ n) :
    (s.setCore n c).core k = s.core k := Tbl.get_set_other _ _ _ _ _ _ hk (State.cores_rising h)

theorem State.slot_setSlot_same {s : State} (h : s.canonical = true) (k : Nat) (x : Slot) : (s.setSlot k x).slot k = x :=
  Tbl.get_set_same _ _ _ _ (State.slots_rising h)

theorem State.slot_setSlot_other {s : State} (h : s.canonical = true) {k j : Nat} (x : Slot) (hj : j ≠ k) :
    (s.setSlot k x).slot j = s.slot j := Tbl.get_set_other _ _ _ _ _ _ hj (State.slots_rising h)

theorem State.zone_setZone_same {s : State} (h : s.canonical = true) (z : Nat) (x : ZoneSt) : (s.setZone z x).zone z = x :=
  Tbl.get_set_same _ _ _ _ (State.zones_rising h)

theorem State.zone_setZone_other {s : State} (h : s.canonical = true) {z y : Nat} (x : ZoneSt) (hy : y ≠ z) :
    (s.setZone z x).zone y = s.zone y := Tbl.get_set_other _ _ _ _ _ _ hy (State.zones_rising h)

end Sys2Proof.Machine
end

