-- ==== Sys2Proof/Laws/Scarab.lean ====
section
/-! SUPPORT. An instruction of a Scarab core: what it leaves where it issues, where it is illegal, where it traps. -/

namespace Sys2Proof.Machine

open Sys2Proof.Arith

/-- What the effect of an instruction of core `n` leaves. -/
def State.onEff (s : State) (n : Nat) : Eff → State
  | .ok s' cost => s'.advance n cost
  | .trap code => (s.settle n).taskFault n code
  | .wait r => (s.settle n).setCore n { s.reads n with stall := some r, atPoint := true }

@[simp] theorem State.mended_none (s : State) (n : Nat) : s.mended n [] = s := rfl

@[simp] theorem strikeTrap_none : strikeTrap [] = none := rfl

/-- A legal instruction that issues leaves what its effect leaves. -/
theorem State.issue_legal {s : State} {n : Nat} {t : Task} (h : s.issues n t) (body : State → Core → Task → Eff) :
    s.issue n true body = s.onEff n (body (s.settle n) (s.reads n) t) := by
  obtain ⟨h1, h2, h3, h4⟩ := h
  unfold State.reads at *
  unfold State.issue State.onEff
  simp only [h1, h2, h3, h4, State.mended_none, strikeTrap_none, not_true_eq_false, if_false]
  rfl

/-- An instruction whose word is illegal faults with code 1 where it issues (R125). -/
theorem State.issue_illegal {s : State} {n : Nat} {t : Task} (h : s.issues n t) (body : State → Core → Task → Eff) :
    s.issue n false body = (s.settle n).taskFault n 1 := by
  obtain ⟨h1, h2, h3, h4⟩ := h
  unfold State.reads at *
  unfold State.issue
  simp only [h1, h2, h3, h4, State.mended_none, strikeTrap_none, not_true_eq_false, if_false]
  rfl

/-- An instruction that only changes registers leaves its core's registers changed and moves on in one cycle. -/
theorem State.issueReg_leaves {s : State} {n : Nat} {t : Task} (h : s.issues n t) (f : Core → Core) :
    s.issueReg n true f = ((s.settle n).setCore n (f (s.reads n))).advance n 1 := State.issue_legal h _

/-- R114, R148: an instruction that an error check finds cannot go on faults with the check's code. -/
theorem State.issue_struck {s : State} {n : Nat} {t : Task} {code : Nat} (h1 : s.canIssue n = true)
    (h2 : (s.reads n).current = some t) (h3 : t.inRegion (s.reads n).pc = true) (h4 : strikeTrap (s.reads n).struck = some code)
    (legal : Bool) (body : State → Core → Task → Eff) :
    s.issue n legal body = ((s.settle n).mended n (s.reads n).struck).taskFault n code := by
  unfold State.reads at *
  unfold State.issue
  simp only [h1, h2, h3, h4, not_true_eq_false, if_false]

/-- A core that does not issue leaves the state as it is. -/
theorem State.issue_stalled {s : State} {n : Nat} (h : s.canIssue n = false) (legal : Bool) (body : State → Core → Task → Eff) :
    s.issue n legal body = s := by
  unfold State.issue
  simp only [h, Bool.false_eq_true, not_false_eq_true, if_true]

end Sys2Proof.Machine
end

