-- ==== Sys2Proof/Tests/Slice0.lean ====
section
/-! SUPPORT. Tests of the model, and for each statement a state and operands that meet its hypotheses. -/

namespace Sys2Proof.Tests

open Sys2Proof Sys2Proof.Machine Sys2Proof.Arith

/-! ### Well-formedness: for each operand that a limit binds, a command with the operand at the limit -/

theorem test_wf_refuses_operands_at_a_limit_first : ([
  .stageOverrun 5 [], .taskDispatch ⟨32, []⟩, .fftJobStart 4, .commitLand 2 0, .commitLand 0 65536, .zcTimeout 0 65536 0,
  .zcTimeout 0 0 64, .taskRestartLand 0 65536, .voiceEnded 0 65536, .prioHoldExpiry 0 0 16,
  .nop 0 ⟨1, ⟨0, 0, 0, 0⟩⟩, .estimatorPeriodEnd 512 ⟨0, 0⟩, .estimatorPeriodEnd 0 ⟨2, 0⟩,
  .adaptiveWrite ⟨512, false, 0, 0, 0, 0⟩, .adaptiveWrite ⟨0, false, 7, 0, 0, 0⟩,
  .adaptiveWrite ⟨0, false, 0, 16, 0, 0⟩, .howlAnalysis 0 0 16 ⟨0, 0⟩, .portRun 16,
  .slotZcTimeout 0 false 32, .pdmSettleEnd 32, .laneSignalChange 8 false false, .portModeWrite 4 0, .rtpRefill 64,
  .rtpRxEntryWrite 0 16 0, .thetexFrameReceived 0 [] 25600 0, .laneStreamRefill 0 256, .spanEnWrite 4 0,
  .laneStreamEntryWrite false 0 0 4 0] : List Instr).all (fun i => !i.wf) = true := by decide

theorem test_wf_refuses_operands_at_a_limit_second : ([
  .fsyncOutPulse 4 0 false, .tsIncWrite 2 0, .ptpEventMessage 0 false 16 0 0 0 none,
  .ptpEventMessage 0 false 0 256 0 0 none, .ptpEventMessage 0 false 0 0 65536 0 none, .fireflyArm 8 0,
  .stallHandover 96 0, .stallHandover 0 32, .lockRequest 52 0 0, .lockRequest 0 16 0, .lockRequest 0 0 256,
  .weevilRegionDone 12 none, .bulkRequest 8 0 0 0, .controlRingDoorbell 6 0, .streamRingDoorbell 32 0,
  .badOpcode ⟨0, 0, 0, false⟩ 256 false, .por ⟨64, 0⟩, .clkloss 4, .pcieReset 3, .supplyWarning 256 false, .backupWrite 8 0,
  .eventRecord 65536 0 [], .eventRecord 0 4096 [], .registerWrite ⟨24, 0, 0, 0⟩ 0, .registerWrite ⟨0, 16, 0, 0⟩ 0,
  .yardTransaction [⟨24, 0, 0, 0, 0, [], false, false, 0, 0⟩]] : List Instr).all (fun i => !i.wf) = true := by decide

theorem test_wf_accepts_core_31 : (Instr.add 31 ⟨0, 0, 0, 0⟩).wf = true := by decide
theorem test_wf_refuses_csrw_of_mv_go : (Instr.csrw 0 ⟨0, 0, 0x13⟩).wf = false := by decide
theorem test_wf_refuses_mbpop_of_another_csr : (Instr.mbpop 0 ⟨0, 0, 0x0C⟩).wf = false := by decide
theorem test_wf_refuses_mv_go_of_another_csr : (Instr.mvGo 0 ⟨0, 0, 0x12⟩).wf = false := by decide
theorem test_wf_refuses_lk_req_of_another_csr : (Instr.lkReq 0 ⟨0, 0, 0x19⟩).wf = false := by decide
theorem test_wf_refuses_lk_rel_of_another_csr : (Instr.lkRel 0 ⟨0, 0, 0x18⟩).wf = false := by decide
theorem test_wf_accepts_mv_go : (Instr.mvGo 0 ⟨0, 0, 0x13⟩).wf = true := by decide

/-! ### Small states -/

/-- A task whose region is words 0 to 255 of the local memory. -/
def task0 : Task :=
  { slot := 0, idx := 0, node := 0, kind := 1, base := 0, size := 256, codeWords := 64, entry := 0, mbHandler := 8,
    errHandler := 16, xb := 0, nin := 1, yb := 0, nout := 1, cycles := [] }

/-- A core that runs it. -/
def core0 : Core := { tasks := [task0], running := some (0, 0), pc := 4 }

/-- The block with every clock good and every domain out of reset, core 0 running a task. -/
def live : State := { regs := [(0x10004, 0xFF00)], rst := { clocks := 15 }, cores := [(0, core0)] }

/-- `live` with another core 0. -/
def liveCore (c : Core) : State := { live with cores := [(0, c)] }

/-- `live` with fields set. -/
def liveWith (l : List (Field × Nat)) : State := l.foldl (fun s x => s.fset x.1 x.2) live

theorem test_live_is_canonical : live.canonical = true := by decide
theorem test_reset_is_not_live : State.reset.held .eng = true ∧ live.held .eng = false := by decide

/-- A command header with nothing set. -/
def hdr : CmdHdr := ⟨0, 0, 0, false⟩

/-- The reference of a command. -/
def ref0 : CmdRef := ⟨0x10, 0, 0, false⟩

/-- `live` with firmware ready, a command waiting on ring 0, bulk memory trained, and fields set. -/
def hosted (l : List (Field × Nat)) : State :=
  liveWith ([(F.HIF_FW_STAT_STATE, 4), (F.HIF_RING_CFG_EN 0, 1), (F.HIF_RING_CFG_LOG2SIZE 0, 4), (F.HIF_RING_HOST_INDEX 0, 1),
    (F.BLK_STAT_READY, 1)] ++ l)

/-- What a command leaves. -/
def left (o : Host.Outcome State Fault Refusal) : State :=
  match o with
  | .next s => s
  | _ => {}

/-- `live` with a program in slot 0 that has stream ring 31 as a source. -/
def bound : State :=
  (liveWith [(F.ENG_SLOT_STAT_STATE 0, 2)]).setSlot 0 { prog := { nodes := [⟨0, T.srcHost, 1, 2, 0, 0, 0, 0, 0, 0, 31, 0, 0⟩] } }

/-- A slot that runs node `n` with state `st`. -/
def runs (n : Node) (st : NodeSt) : State :=
  (liveWith [(F.ENG_SLOT_STAT_STATE 0, 3)]).setSlot 0 { prog := { nodes := [n] }, nodes := [(0, st)] }


/-- A node of type `type`. -/
def nodeOf (type : Nat) : Node := ⟨0, type, 1, 2, 0, 0, 0, 0, 0, 0, 0, 0, 0⟩

/-! ### Scarab words, bit by bit from R123 and R124 -/

theorem test_word_add : decodeScarab 5 0b000001_00011_00001_00010_00000000000#32 = some (.add 5 ⟨3, 1, 2, 0⟩) := by decide
theorem test_word_addi : decodeScarab 0 0b010010_00011_00001_1111111111111111#32 = some (.addi 0 ⟨3, 1, 0xFFFF⟩) := by decide
theorem test_word_mac : decodeScarab 0 0b100000_10_00_0_00001_00010_00000000000#32 = some (.mac 0 ⟨2, 0, 0, 1, 2, 0⟩) := by decide
theorem test_word_rnda : decodeScarab 0 0b101000_00011_01_1_0_0_100000_0000000000#32 = some (.rnda 0 ⟨3, 1, 1, 0, 0, 32, 0⟩) := by decide
theorem test_word_fmac : decodeScarab 0 0b100101_1_0_001_010_1_0_00000010_11111110#32 =
    some (.fmac 0 ⟨1, 0, 1, 2, 1, 0, 2, 0xFE⟩ .clean) := by decide
theorem test_word_ld : decodeScarab 0 0b110000_00100_001_01_0000000000000010#32 = some (.ld 0 ⟨4, 1, 1, 2⟩ .clean) := by decide
theorem test_word_mv : decodeScarab 0 0b111000_00001_00010_100_0000000000000#32 = some (.mv 0 ⟨1, 2, 4, 0⟩) := by decide
theorem test_word_lia : decodeScarab 0 0b111001_01_011_0_0000_0000000001000000#32 = some (.lia 0 ⟨1, 3, 0, 0, 64⟩) := by decide
theorem test_word_br : decodeScarab 0 0b111100_00001_010_111111111111111100#32 = some (.br 0 ⟨1, 2, 0x3FFFC⟩) := by decide
theorem test_word_repeat : decodeScarab 0 0b101010_000011_0_000_0000000000001010#32 = some (.hwRepeat 0 ⟨3, 0, 0, 10⟩) := by decide
theorem test_word_fft : decodeScarab 0 0b101111_010_0011_1_0_0_0000000000000000#32 = some (.fft 0 ⟨2, 3, 1, 0, 0, 0⟩) := by decide
theorem test_word_mv_go : decodeScarab 0 0b101101_00000_00001_0000000000010011#32 = some (.mvGo 0 ⟨0, 1, 0x13⟩) := by decide
theorem test_word_not_listed : decodeScarab 0 0xFFFFFFFF#32 = some (.reti 0 ⟨31, 7, 0x3FFFF⟩) ∧ 
    decodeScarab 0 0b010111_00001_00010_00011_00000000001#32 = some (.nop 0 ⟨0x17, ⟨1, 2, 3, 1⟩⟩) := by decide

/-! ### Scarab: the statements' hypotheses are met, and single instructions -/

theorem witness_scarab_issues : live.issues 0 task0 := by unfold State.issues; decide

theorem witness_ScarabArithmeticGivesItsTableValue : live.issues 0 task0 ∧ (⟨31, 0, 1, 0⟩ : RFmt).z = 0 :=
  ⟨witness_scarab_issues, by decide⟩

theorem witness_ScarabImmediatesGiveTheirTableValue : live.issues 0 task0 ∧ (⟨3, 0, 0x8000⟩ : IFmt).s = 0 ∧
    (⟨3, 1, 0x1F⟩ : IFmt).imm.toNat / 32 = 0 ∧ (⟨3, 1, 0x20⟩ : IFmt).imm.toNat / 32 = 1 ∧
    (⟨3, 1, 0x5F⟩ : IFmt).imm.toNat / 32 = 2 ∧ (⟨3, 1, 0x60⟩ : IFmt).imm.toNat / 32 = 3 :=
  ⟨witness_scarab_issues, by decide⟩

theorem witness_ScarabNarrowingsSaturateAndFlag : live.issues 0 task0 ∧ (⟨3, 31, 0, 0⟩ : RFmt).z = 0 ∧ (⟨3, 31, 0, 0⟩ : RFmt).t = 0 :=
  ⟨witness_scarab_issues, by decide⟩

theorem witness_ScarabAccumulatorsAreExactUntilRnda : live.issues 0 task0 ∧
    (∃ f : XFmt, f.z1 = 0 ∧ f.z = 0 ∧ f.s = 0 ∧ f.t = 0 ∧ f.s.toNat % 2 = 0 ∧ f.t.toNat % 2 = 0) ∧
    (∃ f : NFmt, f.z1 = 0 ∧ f.z = 0 ∧ f.xb = 1 ∧ f.clr = 1) :=
  ⟨witness_scarab_issues, ⟨⟨0, 1, 0, 0, 0, 0⟩, by decide⟩, ⟨⟨1, 3, 1, 1, 0, 63, 0⟩, by decide⟩⟩

/-- Core 0 with a0 and a1 at `x` and `y`. -/
def atWords (x y : W16) : State := liveCore { core0 with a := (Tbl.set (Tbl.set [] 0 0 x) 0 1 y) }

theorem witness_FmacMultipliesDoublewordsAndUpdatesAddresses :
    (∃ s : State, s.issues 0 task0 ∧ (s.reads 0).ra 0 % 2 = 1) ∧
    (∃ s : State, s.issues 0 task0 ∧ (s.reads 0).ra 0 % 2 = 0 ∧ (s.reads 0).ra 1 % 2 = 0 ∧ task0.mayRead ((s.reads 0).ra 1) = false) ∧
    (∃ s : State, s.issues 0 task0 ∧ (s.reads 0).ra 0 = 254 ∧ (s.reads 0).ra 1 % 2 = 0 ∧ task0.mayRead 254 = true ∧
      task0.mayRead 255 = true ∧ task0.mayRead ((s.reads 0).ra 1) = true ∧ task0.mayRead ((s.reads 0).ra 1 + 1) = true ∧
      ∀ w ∈ [254, 255, (s.reads 0).ra 1, (s.reads 0).ra 1 + 1], (s.settle 0).fftPoint 0 w = false) :=
  ⟨⟨atWords 1 0, by unfold State.issues; decide⟩, ⟨atWords 0 256, by unfold State.issues; decide⟩,
    ⟨atWords 254 0, by unfold State.issues; decide⟩⟩

theorem witness_LoadsAndStoresActOnTheTasksMemory :
    (live.issues 0 task0 ∧ live.canonical = true ∧ (⟨2, 0, 0, 255⟩ : MFmt).mode ≠ 3 ∧ (live.reads 0).address ⟨2, 0, 0, 255⟩ = 255 ∧
      task0.mayRead 255 = true ∧ task0.mayWrite 255 = true ∧ (live.settle 0).fftPoint 0 255 = false) ∧
    ((live.reads 0).address ⟨2, 0, 0, 256⟩ = 256 ∧ task0.mayRead 256 = false ∧ task0.mayWrite 256 = false) ∧
    ((2 : BitVec 5).toNat % 2 = 0 ∧ (live.reads 0).address ⟨2, 0, 0, 255⟩ % 2 = 1) ∧
    ((live.reads 0).address ⟨2, 0, 0, 254⟩ % 2 = 0 ∧ task0.mayRead 254 = true ∧ task0.mayRead 255 = true ∧
      task0.mayWrite 254 = true ∧ task0.mayWrite 255 = true ∧ (live.settle 0).fftPoint 0 254 = false) ∧
    ((live.reads 0).address ⟨2, 0, 0, 256⟩ % 2 = 0 ∧ (task0.mayRead 256 && task0.mayRead 257) = false) :=
  ⟨⟨witness_scarab_issues, by decide⟩, by decide⟩

theorem witness_MovesReachEveryRegisterClass : live.issues 0 task0 ∧ (∀ k : BitVec 3, k ≤ 6 → ∃ f : VFmt, f.z = 0 ∧ f.kind = k ∧
    f.d.toNat < 8 ∧ f.s.toNat < 8) ∧ (∀ k : BitVec 2, ∃ f : LFmt, f.z1 = 0 ∧ f.cls = k) :=
  ⟨witness_scarab_issues, fun k _ => ⟨⟨7, 7, k, 0⟩, by simp⟩, fun k => ⟨⟨k, 7, 0, 0, 0⟩, by simp⟩⟩

theorem witness_ControlTransfersWaitForTheirDelaySlots :
    (live.issues 0 task0 ∧ (live.reads 0).delay = none ∧ (live.reads 0).loops = []) ∧
    (task0.inRegion (4 + 251) = true ∧ task0.inRegion (4 + 252) = false) ∧ (live.reads 0).inHandler = false ∧
    (∃ s : State, s.issues 0 task0 ∧ ¬ s.mayTransfer 0) :=
  ⟨⟨witness_scarab_issues, by decide⟩, by decide, by decide, ⟨liveCore { core0 with delay := some ⟨.endTask, 2⟩ }, by
    unfold State.issues State.mayTransfer; decide⟩⟩

theorem witness_RepeatLoopsOverItsBody :
    (live.issues 0 task0 ∧ (⟨250, 0, 0, 0⟩ : PFmt).z1 = 0 ∧ (live.reads 0).inHandler = false ∧ (live.reads 0).delay = none ∧
      (live.reads 0).loops.length < 2 ∧ task0.inRegion 5 = true ∧ task0.inRegion (4 + 64) = true) ∧
    (∃ s : State, s.issues 0 task0 ∧ (s.reads 0).pc = 255 ∧ task0.inRegion 256 = false) ∧
    (∃ s : State, s.issues 0 task0 ∧ (s.reads 0).loops.length = 2) ∧
    (∃ s : State, s.issues 0 task0 ∧ ((s.reads 0).rd 31).toNat % 2 ^ 16 = 65535) :=
  ⟨⟨witness_scarab_issues, by decide⟩, ⟨liveCore { core0 with pc := 255 }, by unfold State.issues; decide⟩,
    ⟨liveCore { core0 with loops := [⟨4, 1, 1⟩, ⟨4, 2, 1⟩] }, by unfold State.issues; decide⟩,
    ⟨liveCore { core0 with d := [(31, 0xFFFF)] }, by unfold State.issues; decide⟩⟩

/-- A message for task 0. -/
def msg0 : InMsg := { words := [1, 2, 3, 4], slot := 0, task := 0, mode := 1, tick := 0, released := true }

/-- A transfer of one doubleword of the region's end. -/
def job0 : MoverJob := { base := 0, size := 256, toYard := true, qos := 0, loc := 254, rem := 0, len := 1 }

theorem witness_CsrsReadWriteAndAct :
    (live.issues 0 task0 ∧ (live.reads 0).mover = none ∧ (live.settle 0).up .mem = true ∧ (live.reads 0).releasedMsgs = []) ∧
    (∃ s : State, s.issues 0 task0 ∧ (s.reads 0).releasedMsgs = [msg0] ∧ (s.reads 0).mbin = [] ++ msg0 :: [] ∧
      (s.reads 0).running = some (msg0.slot, msg0.task)) ∧
    (let v := (live.settle 0).lockRequest (coreOwner 0) 5
     (v.core 0).running = some (0, 0) ∧ (v.core 0).lkState = 2 ∧ (v.core 0).lkLock = 5) ∧
    (∃ s : State, s.issues 0 task0 ∧ (s.reads 0).mover ≠ none) :=
  ⟨⟨witness_scarab_issues, by decide⟩, ⟨liveCore { core0 with mbin := [msg0] }, by unfold State.issues; decide⟩,
    by decide +kernel,
    ⟨liveCore { core0 with mover := some job0 }, by unfold State.issues; decide⟩⟩

/-- Core 0 with sixteen messages in each queue. -/
def fullQueues : State :=
  liveCore { core0 with mbin := List.replicate 16 msg0, mbout := List.replicate 16 { words := [], task := 0, tick := 0 } }

theorem witness_MailboxesQueueSixteenMessages :
    (live.issues 0 task0 ∧ (live.reads 0).mbout.length < 16 ∧ live.held .eng = false ∧ (live.core 0).mbin.length < 16 ∧
      (∃ t ∈ (live.core 0).tasks, t.idx = 0)) ∧
    (fullQueues.issues 0 task0 ∧ (fullQueues.reads 0).mbout.length = 16 ∧ (fullQueues.core 0).mbin.length = 16) ∧
    (0x7FFFFFFF#32).getLsbD 0 = true ∧ (0x7FFFFFFE#32).getLsbD 0 = false :=
  ⟨⟨witness_scarab_issues, by decide⟩, ⟨by unfold State.issues; decide, by decide⟩, by decide⟩

/-- Core 0 with a job running on its FFT unit. -/
def withFft (j : FftJob) (rest : List FftJob) : State := { live with ffts := [(0, ⟨some j, rest⟩)] }

theorem witness_FftJobsAndMoverTransfersRun :
    (live.issues 0 task0 ∧ (live.reads 0).inHandler = false ∧ (live.reads 0).loops = [] ∧ (live.settle 0).fftBusy 0 = false ∧
      (live.reads 0).ra 0 % 2 = 0 ∧ 0 + 2 ^ 5 ≤ 0 + task0.size) ∧
    (∃ s : State, s.issues 0 task0 ∧ (s.settle 0).fftBusy 0 = true) ∧
    (∃ (s : State) (j : FftJob), s.fftUnit 0 = ⟨none, [j]⟩ ∧ s.up .eng = true) ∧
    (∃ (s : State) (j : FftJob), s.fftUnit 0 = ⟨some j, []⟩ ∧ j.spoiled = false) ∧
    (∃ (s : State) (j : MoverJob), (s.core 0).mover = some j ∧ s.held .eng = false ∧ j.toYard = true ∧ j.base ≤ j.loc ∧
      j.loc / 2 * 2 + 2 * j.len ≤ j.base + j.size ∧ ∀ i < min j.len 1, s.txBlocked (j.tx 0 i 0) = false) ∧
    (∃ (s : State) (j : MoverJob), (s.core 0).mover = some j ∧ j.base + j.size < j.loc / 2 * 2 + 2 * j.len) :=
  ⟨⟨witness_scarab_issues, by decide⟩, ⟨withFft ⟨0, 0, 4, false, false, false⟩ [], by unfold State.issues; decide⟩,
    ⟨{ live with ffts := [(0, ⟨none, [⟨0, 0, 4, false, false, false⟩]⟩)] }, ⟨0, 0, 4, false, false, false⟩, by decide⟩,
    ⟨withFft ⟨0, 0, 4, false, false, false⟩ [], ⟨0, 0, 4, false, false, false⟩, by decide⟩,
    ⟨liveCore { core0 with mover := some job0 }, job0, by decide⟩,
    ⟨liveCore { core0 with mover := some { job0 with len := 2 } }, { job0 with len := 2 }, by decide⟩⟩

theorem witness_InterruptsAreTakenAtInterruptPoints :
    (∃ s : State, s.canonical = true ∧ s.up .eng = true ∧ (s.core 0).current = some task0 ∧ (s.core 0).inHandler = false ∧
      (s.core 0).atPoint = true ∧ (s.core 0).cycle < 25600 ∧ (s.core 0).inflight = [] ∧ (s.core 0).errReq = true ∧
      (s.core 0).ien / 2 % 2 = 1 ∧ task0.errHandler ≠ 0xFFFF) ∧
    (∃ s : State, s.canonical = true ∧ s.up .eng = true ∧ (s.core 0).current = some task0 ∧ (s.core 0).inHandler = false ∧
      (s.core 0).atPoint = true ∧ (s.core 0).cycle = 25599 ∧ (s.core 0).inflight = [] ∧ (s.core 0).errReq = false ∧
      (s.core 0).mboxReq = true ∧ (s.core 0).ien % 2 = 1 ∧ task0.mbHandler ≠ 0xFFFF) ∧
    (∃ s : State, s.canonical = true ∧ s.up .eng = true ∧ (s.core 0).current = some task0 ∧ (s.core 0).inHandler = false ∧
      (s.core 0).atPoint = false ∧ (s.core 0).stall = some .fwait ∧ (s.core 0).cycle < 25600 ∧ (s.core 0).inflight = []) :=
  ⟨⟨liveCore { core0 with errReq := true, ien := 2 }, by decide⟩,
    ⟨liveCore { core0 with mboxReq := true, ien := 1, cycle := 25599 }, by decide⟩,
    ⟨liveCore { core0 with stall := some .fwait, atPoint := false }, by decide⟩⟩

theorem witness_DispatchGivesTheTaskItsEntryRegisters : ∃ (s : State) (t : Task), s.canonical = true ∧ s.held .eng = false ∧
    (s.core 31).running = none ∧ (s.core 31).tasks.find? (fun t => decide (t.run = .waiting)) = some t ∧
    (s.core 31).cycle < 25600 ∧ t.base < 2 ^ 14 ∧ t.xb < 2 ^ 11 ∧ t.yb < 2 ^ 11 :=
  ⟨{ live with cores := [(31, { tasks := [task0] })] }, task0, by decide⟩

theorem test_add_wraps : ((left (exec (.add 0 ⟨2, 0, 1, 0⟩) (liveCore { core0 with d := [(0, 0xFFFFFFFF), (1, 2)] }))).reads 0).rd 2 = 1 := by
  decide
theorem test_adds_saturates : ((left (exec (.adds 0 ⟨2, 0, 0, 0⟩) (liveCore { core0 with d := [(0, 0x7FFFFFFF)] }))).reads 0).rd 2 =
    0x7FFFFFFF := by decide
theorem test_branch_keeps_two_slots : ((left (exec (.br 0 ⟨0, 0, 0x3FFFE⟩) live)).core 0).delay = some ⟨.goto 2, 2⟩ := by decide
theorem test_unlisted_opcode_faults : (((left (exec (.nop 0 ⟨0x17, ⟨0, 0, 0, 0⟩⟩) live)).core 0).tasks.map (·.faulted)) = [true] ∧
    (left (exec (.nop 0 ⟨0x17, ⟨0, 0, 0, 0⟩⟩) live)).fget (F.SCB_FAULT_CODE 0) = 1 := by decide
theorem test_fetch_error_is_fault_4 : (left (exec (.nop 0 ⟨0, ⟨0, 0, 0, 0⟩⟩) (liveCore { core0 with upsets := [(0, .double)] }))).fget
    (F.SCB_FAULT_CODE 0) = 4 := by decide
theorem test_parity_error_is_fault_5 : (left (exec (.add 0 ⟨0, 0, 0, 0⟩) (liveCore { core0 with upsets := [(0, .parity)] }))).fget
    (F.SCB_FAULT_CODE 0) = 5 := by decide

/-! ### Programs, commits and gains -/

theorem witness_takes : (hosted []).takes hdr := by unfold State.takes; decide

theorem witness_LoadCopiesAnImageIntoItsSlot :
    ((hosted []).takes hdr ∧ (let u := (hosted []).consumed 0
      u.held .eng = false ∧ u.fon F.BLK_STAT_READY = true ∧ u.slotState 1 = 0 ∧ u.slotState 0 ≠ 4 ∧
      u.imageAddr 1 + 2 ^ 26 ≤ u.bulkBytes)) ∧
    (let u := (hosted [(F.BLK_STAT_READY, 0)]).consumed 0; u.fon F.BLK_STAT_READY = false) ∧
    (let u := (hosted [(F.ENG_SLOT_STAT_STATE 1, 2)]).consumed 0; u.slotState 1 ≠ 0) ∧
    (let u := (hosted [(F.ENG_PROG_BASE_BASE, 127)]).consumed 0; ¬ u.imageAddr 1 + 2 ^ 26 ≤ u.bulkBytes) ∧ 2 ≤ (2#32).toNat :=
  ⟨⟨by unfold State.takes; decide, by decide⟩, by decide, by decide, by decide, by decide⟩

theorem witness_LoadsEndLoadedOrEmpty :
    (∃ s : State, s.eng.loads = [⟨0, 0, ref0⟩] ∧ s.held .eng = false ∧
      (({ s with eng := { s.eng with loads := [] } } : State).verdict 0 0).isSome = true) ∧
    (3 ≤ ((hosted [(F.ENG_SLOT_STAT_STATE 0, 5)]).consumed 0).slotState 0 ∧
      ((hosted [(F.ENG_SLOT_STAT_STATE 0, 1)]).consumed 0).slotState 0 < 2 ∧
      ((hosted [(F.ENG_SLOT_STAT_STATE 0, 2)]).consumed 0).slotState 0 = 2 ∧
      ((hosted [(F.ENG_SLOT_STAT_STATE 0, 2)]).consumed 0).slotBusy = false) ∧
    (live.slotState 0 = 0 ∧ live.slotState 1 = 0) ∧
    ((127#32).toNat % 128 ≠ live.fget F.ENG_PROG_BASE_BASE ∧ (liveWith [(F.ENG_SLOT_STAT_STATE 1, 1)]).slotState 1 ≠ 0) :=
  ⟨⟨{ live with eng := { loads := [⟨0, 0, ref0⟩] } }, by decide⟩, by decide, by decide, by decide⟩

/-- A slot command that waits. -/
def waits (op : SlotOp) (k due : Nat) : State := { live with eng := { tick := 9, cmd := some ⟨op, k, due, ref0⟩ } }

theorem witness_SlotCommandsWaitForTheirTick :
    ((hosted [(F.ENG_SLOT_STAT_STATE 0, 2)]).takes hdr ∧ (let u := (hosted [(F.ENG_SLOT_STAT_STATE 0, 2)]).consumed 0
      u.slotState 0 = 2 ∧ u.slotState 1 = 0 ∧ u.slotBusy = false ∧ 2 ≤ sdiff (2#32).toNat u.scnt)) ∧
    (let u := (hosted [(F.ENG_SLOT_STAT_STATE 0, 3)]).consumed 0; u.slotState 0 = 3 ∧ u.slotBusy = false) ∧
    (let u := (hosted []).consumed 0; u.slotState 0 ≠ 2 ∧ u.slotState 0 ≠ 3) ∧
    (∃ s : State, let u := s.consumed 0
      u.slotState 0 = 3 ∧ u.eng.cmd = some ⟨.crossfade 1 0, 1, 10, ref0⟩ ∧ (SlotOp.crossfade 1 0).isXf = true) ∧
    (∃ u : State, u.slotState 0 = 2 ∧ u.slotState 1 = 3 ∧ (u.slot 0).prog.pred ≠ 0 ∧
      (u.slot 0).prog.pred = (u.slot 1).prog.pid ∧ u.slotBusy = false ∧ (u.xfChecks 0).isSome = true) ∧
    (let u := (hosted [(F.ENG_SLOT_STAT_STATE 0, 2), (F.ENG_SLOT_STAT_STATE 1, 4)]).consumed 0; u.slotState 0 = 2 ∧ u.slotState 1 = 4) :=
  ⟨⟨by unfold State.takes; decide, by decide⟩, by decide, by decide,
    ⟨{ hosted [(F.ENG_SLOT_STAT_STATE 0, 3)] with eng := { cmd := some ⟨.crossfade 1 0, 1, 10, ref0⟩ } }, by decide⟩,
    ⟨((hosted [(F.ENG_SLOT_STAT_STATE 0, 2), (F.ENG_SLOT_STAT_STATE 1, 3)]).setSlot 0 { prog := { pred := 7 }, checked := some {} }).setSlot 1
      { prog := { pid := 7 } }, by decide⟩, by decide⟩

theorem witness_SlotChangesHappenAtTheirTick :
    ((waits .activate 1 10).up .eng = true ∧ (waits .activate 1 10).eng.cmd = some ⟨.activate, 1, 10, ref0⟩ ∧
      10 ≤ (waits .activate 1 10).eng.tick + 1) ∧
    ((waits .stop 0 11).eng.cmd = some ⟨.stop, 0, 11, ref0⟩ ∧ (waits .stop 0 11).eng.tick + 1 < 11) ∧
    ((waits .stop 0 10).eng.tick + 1 = 10 ∧ Tbl.rising ((waits .stop 0 10).slot 0).nodes = true) ∧
    (∃ s : State, s.eng.stopping = some (0, 10) ∧ s.eng.tick + 1 = 10) ∧
    ((waits (.crossfade 1 3) 1 13).eng.xf = none ∧ 13 ≤ (waits (.crossfade 1 3) 1 13).eng.tick + 1 + 3) ∧
    (∃ (s : State) (x : XfRun) (c : SlotCmd), s.eng.xf = some x ∧ s.eng.cmd = some c ∧ x.t ≤ s.eng.tick + 1 ∧
      c.op.isXf = true ∧ Tbl.rising (s.slot x.new).nodes = true ∧ s.eng.tick + 1 < x.t + x.len) ∧
    (∃ (s : State) (x : XfRun), s.eng.xf = some x ∧ x.t + x.len = s.eng.tick + 1) :=
  ⟨by decide, by decide, by decide, ⟨{ live with eng := { tick := 9, stopping := some (0, 10) } }, by decide⟩, by decide,
    ⟨{ live with eng := { tick := 9, cmd := some ⟨.crossfade 1 0, 1, 10, ref0⟩, xf := some ⟨0, 1, 10, 1, 0, ref0⟩ } },
      ⟨0, 1, 10, 1, 0, ref0⟩, ⟨.crossfade 1 0, 1, 10, ref0⟩, by decide⟩,
    ⟨{ live with eng := { tick := 10, xf := some ⟨0, 1, 10, 1, 0, ref0⟩ } }, ⟨0, 1, 10, 1, 0, ref0⟩, by decide⟩⟩

/-- A fence that is met, and one that is not. -/
def fence (n : W32) : FenceWait := ⟨0, 0, 0, n, false, false, ref0⟩

theorem witness_CommitsAndRestartsWaitAndLand :
    ((hosted []).takes hdr ∧ ¬ sdiff (1#32).toNat (((hosted []).consumed 0).ringEng 3) ≤ 0 ∧
      sdiff (0#32).toNat (((hosted []).consumed 0).ringEng 3) ≤ 0 ∧ ((hosted []).consumed 0).eng.fences.length < 64) ∧
    (∃ s : State, 64 ≤ (s.consumed 0).eng.fences.length) ∧
    (∃ s : State, s.eng.fences = [fence 1] ∧ 0 < sdiff (fence 1).fence.toNat (s.ringEng 3)) ∧
    (∃ s : State, s.eng.fences = [fence 0] ∧ sdiff (fence 0).fence.toNat (s.ringEng 3) ≤ 0) ∧
    (∃ (s : State) (p : PendCommit), s.eng.pend = [] ++ p :: [] ∧ p.due = s.eng.tick + 1) ∧
    (let u := (hosted [(F.ENG_SLOT_STAT_STATE 1, 3)]).consumed 0; u.slotState 1 = 3 ∧ (u.slot 1).prog.tasks.length ≤ (0#32).toNat) ∧
    (∃ u : State, u.slotState 1 = 3 ∧ 0 < (u.slot 1).prog.tasks.length) ∧
    (∃ (s : State) (x : Restart), s.eng.restarts = [] ++ x :: [] ∧ x.due = s.eng.tick + 1) :=
  ⟨⟨witness_takes, by decide, by decide, by decide⟩, ⟨{ live with eng := { fences := List.replicate 64 (fence 1) } }, by decide⟩,
    ⟨{ live with eng := { fences := [fence 1] } }, by decide⟩, ⟨{ live with eng := { fences := [fence 0] } }, by decide⟩,
    ⟨{ live with eng := { pend := [⟨0, 0, 1, ref0⟩] } }, ⟨0, 0, 1, ref0⟩, by decide⟩, by decide,
    ⟨(hosted [(F.ENG_SLOT_STAT_STATE 1, 3)]).setSlot 1 { prog := { tasks := [⟨0, 0, 1, 0, 4, 4, [], 0⟩] } }, by decide⟩,
    ⟨{ live with eng := { restarts := [⟨0, 0, 1, ref0⟩] } }, ⟨0, 0, 1, ref0⟩, by decide⟩⟩

/-- A direct parameter write of one word. -/
def pw (indirect : Bool) (count : Nat) : PwEntry := ⟨1, false, indirect, false, count, 0, 0, 0, [5]⟩

/-- `live` with an entry on ring 3. -/
def writes : State := hosted [(F.HIF_RING_CFG_EN 3, 1), (F.HIF_RING_HOST_INDEX 3, 1)]

theorem witness_ParameterWritesReachTheShadowWords :
    (writes.ringHasEntry 3 = true ∧ writes.backlogged = false ∧ writes.hif.indirect = none) ∧
    ((pw false 12).count ≤ 12 ∧ (pw false 13).count = 13 ∧ (pw true 16384).count ≤ 16384) ∧
    (∃ s : State, s.hif.indirect = some (pw true 1) ∧ s.held .hif = false ∧ s.backlogged = false) :=
  ⟨by decide, by decide, ⟨{ live with hif := { indirect := some (pw true 1) } }, by decide⟩⟩

/-- `live` with a gain of slot 0 that waits or ramps. -/
def gains (g : GainSt) (type : Nat) : State :=
  live.setSlot 0 { prog := { nodes := [nodeOf type], psets := [⟨0, 64, 0, 0⟩] }, gains := [(0, g)] }

/-- A microphone at the end of its fade. -/
def clipped : State := live.setMic 0 { fade := some ⟨0, unity, 16, 16⟩ }

theorem witness_GainsAndNodesSettleAtABoundary :
    (Tbl.find ((gains ⟨false, 0, 1, 0, 1, 0⟩ T.bus).slot 0).gains 0 = some ⟨false, 0, 1, 0, 1, 0⟩ ∧
      (⟨false, 0, 1, 0, 1, 0⟩ : GainSt).timedOut (live.eng.tick + 1) = true ∧
      ((gains ⟨false, 0, 1, 0, 1, 0⟩ T.bus).slot 0).isDepth 0 = false ∧ ((gains ⟨false, 0, 1, 0, 1, 0⟩ T.prio).slot 0).isDepth 0 = true ∧
      (⟨false, 0, 1, 0, 2, 0⟩ : GainSt).timedOut (live.eng.tick + 1) = false) ∧
    ((⟨true, 0, 1, 0, 1, 64⟩ : GainSt).ramp = true ∧ 64 ≤ (⟨true, 0, 1, 0, 1, 64⟩ : GainSt).k) ∧
    (∀ t ∈ [T.srcVoice, T.snkRec, T.silence, T.prio], (runs (nodeOf t) {}).slotState 0 = 3 ∧
      (((runs (nodeOf t) {}).slot 0).prog.node 0).type = t) ∧
    (∃ st : NodeSt, st.active = true ∧ (((runs (nodeOf T.silence) st).slot 0).word (nodeOf T.silence) 1).toNat ≤ st.quiet) ∧
    (∃ p : PrioIn, p.act = true ∧ p.hc = 0) ∧ (runs (nodeOf T.prio) {}).works 0 ∧ live.held .eng = false ∧ live.held .hif = false ∧
    (∃ f : Fade, (clipped.mic 0).settle = none ∧ (clipped.mic 0).fade = some f ∧ f.over = true ∧ clipped.held .apt = false) ∧
    (∃ (s : State) (f : Fade), s.rst.mute = some f ∧ f.over = true ∧ f.g1 = unity) :=
  ⟨by decide, by decide, by decide, ⟨{ active := true }, by decide⟩, ⟨{ act := true, hc := 0 }, by decide⟩, .inl (by decide), by decide, by decide,
    ⟨_, by decide, rfl, by decide, by decide⟩, ⟨{ rst := { mute := some ⟨0, unity, 16, 16⟩ } }, _, rfl, by decide, rfl⟩⟩

theorem test_load_of_slot_2_is_bad_arg : ((left (exec (.load hdr 2 0 0 64 true) (hosted []))).hif.comps.map (·.code)) = [0xB02] := by decide
theorem test_unload_of_an_empty_slot_is_wrong_state :
    ((left (exec (.unload hdr 0) (hosted []))).hif.comps.map (·.code)) = [0x801] := by decide

/-! ### The host interface and the boot loader -/

theorem witness_HostCommandsCompleteWithTheirResult :
    (hosted []).takes hdr ∧ (2 ≤ (2#32).toNat ∧ 256 ≤ (256#32).toNat) ∧ ((1#32).toNat < 2 ∧ (255#32).toNat < 256) ∧
    ((hosted []).consumed 0).boundNode T.snkRec 255 = none ∧
    (∃ u : State, u.boundNode T.srcVoice 0 = some (0, 0)) ∧
    ((7#32).toNat < 8 ∧ (14#32).toNat < 16 ∧ (14#32).toNat % 4 ≠ 3 ∧ (0xFFFFFF#32).toNat < 2 ^ 24) ∧ ¬ (15#32).toNat % 4 ≠ 3 ∧
    (0xC7A6#32) ≠ 0xC7A5 ∧ 0x31 ∉ [0x01, 0x10, 0x11, 0x12, 0x13, 0x14, 0x15, 0x16, 0x20, 0x21, 0x22, 0x30] :=
  ⟨by unfold State.takes; decide, by decide, by decide, by decide,
    ⟨(liveWith [(F.ENG_SLOT_STAT_STATE 0, 3)]).setSlot 0 { prog := { nodes := [⟨0, T.srcVoice, 1, 2, 0, 0, 0, 0, 0, 0, 0, 0, 0⟩] } },
      by decide⟩, by decide, by decide, by decide, by decide⟩

theorem witness_CommandsAreTakenOnlyWhenTheyMay :
    (let s := hosted []; s.up .ctl = true ∧ s.fget F.HIF_FW_STAT_STATE = 4 ∧ s.up .hif = true ∧ s.fon (F.HIF_RING_CFG_EN 0) = true ∧
      0 < sdiff (s.ringHost 0) (s.ringEng 0) ∧ s.hif.comps.length < 192) ∧
    (live.fget F.HIF_FW_STAT_STATE ≠ 4) ∧ ((⟨4, 0, 0, false⟩ : CmdHdr).flags.toNat = 4 ∧ (⟨0, 0, 16, false⟩ : CmdHdr).queue.toNat = 16) := by
  decide

/-- A completion that waits. -/
def comp0 : Completion := ref0.done 0 0 []

theorem witness_ControlRingsMoveWithinTheirLimits :
    (let s := hosted []; s.held .hif = false ∧ s.fon (F.HIF_RING_CFG_EN 0) = true ∧ 0 ≤ sdiff (16#32).toNat (s.ringHost 0) ∧
      sdiff (16#32).toNat (s.ringEng 0) ≤ 2 ^ s.fget (F.HIF_RING_CFG_LOG2SIZE 0) ∧
      ¬ sdiff (17#32).toNat (s.ringEng 0) ≤ 2 ^ s.fget (F.HIF_RING_CFG_LOG2SIZE 0) ∧ ¬ 0 ≤ sdiff (0#32).toNat (s.ringHost 0)) ∧
    (live.fon (F.HIF_RING_CFG_EN 5) = false ∧ (0x80000004#32).getLsbD 31 = true ∧ (4#32).getLsbD 31 = false ∧
      ringLogOk 5 ((live.writePlain (A.HIF_RING_CFG 5) 0x80000004).fget (F.HIF_RING_CFG_LOG2SIZE 5)) = true ∧
      ringLogOk 5 ((live.writePlain (A.HIF_RING_CFG 5) 0x80000000).fget (F.HIF_RING_CFG_LOG2SIZE 5)) = false) ∧
    (∃ s : State, s.hif.comps = [comp0] ∧ s.ringHasRoom 1 = true) ∧
    (∃ s : State, s.hif.comps = [comp0] ∧ s.ringHasRoom 1 = false) ∧
    ((hosted []).fwReady = true ∧ live.fwReady = false ∧ 2 ≤ (⟨7, []⟩ : Event).kind ∧ (⟨7, []⟩ : Event).kind ≤ 7) :=
  ⟨by decide, by decide,
    ⟨{ liveWith [(F.HIF_RING_CFG_EN 1, 1), (F.HIF_RING_CFG_LOG2SIZE 1, 4)] with hif := { comps := [comp0] } }, by decide⟩,
    ⟨{ live with hif := { comps := [comp0] } }, by decide⟩, by decide⟩

/-- `live` at tick 12 with stream ring 31 enabled. -/
def streams (l : List (Field × Nat)) (x : StreamSt) : State :=
  { (liveWith ([(F.HIF_SR_CFG_EN 31, 1), (F.HIF_SR_CFG_LOG2SIZE 31, 4), (F.HIF_SR_CFG_RATE 31, 2)] ++ l)) with
    eng := { tick := 12 }, hif := { streams := Tbl.set [] {} 31 x } }

theorem witness_StreamRingsFetchAndWriteSlots :
    (let s := streams [] {}; s.held .hif = false ∧ s.fon (F.HIF_SR_CFG_EN 31) = true ∧ s.fon (F.HIF_SR_CFG_DIR 31) = false ∧
      sdiff (16#32).toNat (s.stream 31).eng.toNat ≤ 2 ^ s.fget (F.HIF_SR_CFG_LOG2SIZE 31) ∧
      ¬ sdiff (17#32).toNat (s.stream 31).eng.toNat ≤ 2 ^ s.fget (F.HIF_SR_CFG_LOG2SIZE 31)) ∧
    (let s := streams [(F.HIF_SR_CFG_DIR 31, 1)] {}; s.fon (F.HIF_SR_CFG_DIR 31) = true ∧ sdiff (0#32).toNat (s.stream 31).eng.toNat ≤ 0) ∧
    (live.fon (F.HIF_SR_CFG_EN 31) = false ∧ breaksBinding live (live.writePlain (A.HIF_SR_START 31) 1) = false ∧
      breaksBinding live (live.writePlain (A.HIF_SR_CFG 31) 4) = false ∧
      breaksBinding live (live.writePlain (A.HIF_SR_CFG 31) 0x80000010) = false ∧
      (live.writePlain (A.HIF_SR_CFG 31) 0x80000010).fget (F.HIF_SR_CFG_LOG2SIZE 31) = 16) ∧
    (∃ s t : State, breaksBinding s t = true) ∧
    (∃ s : State, s.fon (F.HIF_SR_CFG_EN 31) = true ∧ s.fon (F.HIF_SR_CFG_DIR 31) = false ∧ 0 ≤ s.srSlot 31 ∧
      0 < sdiff (s.reg (A.HIF_SR_HOST 31)).toNat ((s.srSlot 31).toNat + 1) ∧ ∀ h ∈ (s.stream 31).held, h.1 ≠ (s.srSlot 31).toNat + 1) ∧
    (∃ s : State, s.fon (F.HIF_SR_CFG_EN 31) = true ∧ s.fon (F.HIF_SR_CFG_DIR 31) = false ∧ (s.stream 31).starved = true ∧ 0 ≤ s.srSlot 31 ∧
      ¬ ∀ k < 9, ∃ h ∈ (s.stream 31).held, h.1 = (s.srSlot 31).toNat + k) ∧
    (∃ s : State, s.fon (F.HIF_SR_CFG_EN 31) = true ∧ (s.stream 31).starved = true ∧ s.srSlot 31 = 11 ∧
      ∀ k < 9, ∃ h ∈ (s.stream 31).held, h.1 = 11 + k) ∧
    (streams [] {}).reg (A.HIF_SR_CFG 31) = 0xA0000004 ∧ (regDef (A.HIF_SR_CFG 31)).isSome = true ∧
    (∃ s : State, (s.stream 31).queued = [(0, [1])] ∧ s.fon (F.HIF_SR_CFG_EN 31) = true ∧ (0 : Int) < s.srSlot 31 ∧
      s.withholds (s.eng.tick - (s.srSlot 31 - 0).toNat) = false) :=
  ⟨by decide, by decide, by decide, ⟨bound, bound.writePlain (A.HIF_SR_CFG 31) 0x40000000, by decide⟩, ⟨streams [(F.HIF_SR_HOST_INDEX 31, 99)] {}, by decide⟩,
    ⟨streams [] { starved := true }, by decide⟩,
    ⟨streams [(⟨A.TIM_SCNT, 31, 0⟩, 11)] { starved := true, held := (List.range 9).map (fun k => (11 + k, [])) }, by decide⟩,
    by decide, by decide, ⟨streams [(F.HIF_SR_CFG_DIR 31, 1), (⟨A.TIM_SCNT, 31, 0⟩, 1)] { queued := [(0, [1])] }, by decide⟩⟩

theorem witness_FirmwareStartsAndIsWatched :
    (live.held .hif = false ∧ live.held .ctl = false ∧ live.held .aon = false ∧ (live.fget F.HIF_HB_EN).testBit 15 = false) ∧
    (∃ s : State, s.held .hif = false ∧ (s.fget F.HIF_HB_EN).testBit 15 = true ∧ (s.reg A.HIF_HQ_STAT).getLsbD 15 = false ∧
      max 1 (s.fget F.HIF_HB_TMO) * 1024 ≤ (s.now + 1 - Tbl.get s.hif.hbAge 0 15) * 1000) ∧
    (∃ s : State, (let t := if s.held .lnk then s else s.deliverBulk
      t.held .ctl = false ∧ t.fget F.HIF_FW_STAT_STATE = 1 ∧ t.offers = [0, 1] ∧ t.imageReason 0 true = some 1 ∧
        t.imageReason 0 false = some 7)) ∧
    (∃ s : State, (let t := if s.held .lnk then s else s.deliverBulk
      t.held .ctl = false ∧ t.fget F.HIF_FW_STAT_STATE = 1 ∧ t.offers = [])) ∧
    ((liveWith [(F.HIF_FW_STAT_STATE, 3)]).fget F.HIF_FW_STAT_STATE = 3 ∧ live.fget F.HIF_FW_STAT_STATE ≠ 3) ∧
    (∃ s : State, s.up .ctl = true ∧ s.fget F.HIF_FW_STAT_STATE = 4 ∧ s.hif.wdogRun = true) ∧
    ((2#32).getLsbD 1 = true ∧ (1#32).getLsbD 1 = false) :=
  ⟨by decide, ⟨{ liveWith [(F.HIF_HB_EN, 0x8000)] with loft := { sincePor := 1024 } }, by decide⟩,
    ⟨liveWith [(F.HIF_FW_STAT_STATE, 1)], by decide⟩,
    ⟨{ liveWith [(F.HIF_FW_STAT_STATE, 1)] with hif := { tried := [0, 1] } }, by decide⟩, by decide,
    ⟨{ hosted [] with hif := { wdogRun := true } }, by decide⟩, by decide⟩

theorem test_echo_returns_its_argument : ((left (exec (.echo hdr 0x12345678) (hosted []))).hif.comps.map (·.res)) = [[0x12345678]] := by decide

/-! ### References, time and serial lanes -/

theorem witness_ReferencesAreReadComparedAndSelected :
    (live.held .clk = false ∧ live.fget F.CLK_CTRL_MODE = 0 ∧ (live.writePlain A.CLK_CTRL 1).fget F.CLK_CTRL_MODE = 1 ∧
      (live.writePlain A.CLK_CTRL 2).fget F.CLK_CTRL_MODE = 2 ∧ (live.writePlain A.CLK_CTRL 3).fget F.CLK_CTRL_MODE = 3 ∧
      (let s := liveWith [(F.CLK_CTRL_MODE, 1)]; (s.writePlain A.CLK_CTRL 0).fget F.CLK_CTRL_MODE = 0)) ∧
    (∃ s : State, s.held .clk = false ∧ s.clkSel = 14 ∧ s.clkState = 2) ∧ (live.clkState ≠ 1 ∧ live.clkState ≠ 2) ∧
    (∃ s : State, s.fget (F.CLK_FS_CFG_SOURCE 3) = 1 ∧ fsPeriodOk 1 (s.fsPeriod 3) = true ∧
      (let u := s.fset (F.CLK_FS_CFG_FLY 3) 0; u.scnt % s.fsPeriod 3 = 0)) ∧
    (∃ s : State, s.fget (F.CLK_FS_CFG_SOURCE 3) = 6 ∧ fsPeriodOk 6 (s.fsPeriod 3) = true ∧ s.mainSet = true) ∧
    (∃ s : State, s.canonical = true ∧ (let u := s.fset (F.CLK_FS_CFG_FLY 3) 0
      u.scnt % s.fsPeriod 3 = 0 ∧ u.regInt (A.CLK_FS_OFFSET 3) = -1 ∧ (s.fsOut 3).refs = [100])) ∧
    (∃ s : State, s.fget (F.CLK_FS_CFG_SOURCE 3) = 2 ∧ s.inHere 0 = true ∧ (s.fsOut 3).missed < 8 ∧ (s.fsOut 3).stopped = false) ∧
    (∃ s : State, (s.fsOut 3).missed = 8) ∧ (live.fsOut 3).missed < 8 :=
  ⟨by decide, ⟨liveWith [(F.CLK_STAT_SELECTED, 14), (F.CLK_STAT_STATE, 2)], by decide⟩, by decide,
    ⟨liveWith [(F.CLK_FS_CFG_SOURCE 3, 1), (⟨A.CLK_FS_PERIOD 3, 15, 0⟩, 32768)], by decide⟩,
    ⟨liveWith [(F.CLK_FS_CFG_SOURCE 3, 6), (⟨A.CLK_FS_PERIOD 3, 15, 0⟩, 65535), (F.TIM_TS_STAT_SET 0, 1)], by decide⟩,
    ⟨{ liveWith [(F.CLK_FS_CFG_SOURCE 3, 1), (⟨A.CLK_FS_PERIOD 3, 15, 0⟩, 32768), (⟨A.CLK_FS_OFFSET 3, 31, 0⟩, 0xFFFFFFFF)] with
      clk := { fs := [(3, { refs := [100] })] } }, by decide⟩,
    ⟨{ liveWith [(F.CLK_FS_CFG_SOURCE 3, 2)] with clk := { inputs := [(0, { here := true })] } }, by decide⟩,
    ⟨{ live with clk := { fs := [(3, { missed := 8 })] } }, by decide⟩, by decide⟩

/-- `live` with main time set, at `t` seconds. -/
def timed (l : List (Field × Nat)) (sec : Nat) : State :=
  { liveWith ([(F.TIM_TS_STAT_SET 0, 1)] ++ l) with tim := { ts := [(0, { t := sec * (10 ^ 9 * 2 ^ 32) })] } }

theorem witness_TimescalesAndFirefliesFollowTheirCommands :
    (live.held .clk = false ∧ (1#32).getLsbD 0 = true ∧ (2#32).getLsbD 0 = false) ∧
    (∃ s : State, s.tsState 1 = 1 ∧ s.tsSource 1 = 2 ∧ s.tsLoss 1 ≤ (s.tsc 1).quiet) ∧
    (∃ s : State, s.tsState 1 = 1 ∧ s.tsSource 1 = 1 ∧ (s.tsc 1).quiet < s.tsLoss 1) ∧
    (live.up .eng = true ∧ live.mainSet = false) ∧
    ((timed [(F.RST_DOMAIN_HELD, 0xC0)] 5).held .eng = true ∧ (timed [(F.RST_DOMAIN_HELD, 0xC0)] 5).mainSet = true) ∧
    ((timed [] 1).mainSet = true ∧ (timed [] 1).nearSecond = 1 ∧ (timed [] 1).mainTime = 10 ^ 9 * 2 ^ 32 ∧
      (timed [] 1).tim.checked ≠ some 1 ∧ (timed [] 1).scnt ≠ (timed [] 1).baseHz % 2 ^ 32 ∧
      (timed [(⟨A.TIM_SCNT, 31, 0⟩, 48000)] 1).scnt = (timed [(⟨A.TIM_SCNT, 31, 0⟩, 48000)] 1).baseHz % 2 ^ 32) ∧
    (∃ s : State, (s.firefly 7).next = some 5) ∧
    (∃ s : State, (s.firefly 7).next = none ∧ (let w := (s.writePlain (A.TIM_FF_CTRL 7) 1).fset (F.TIM_FF_CTRL_ARM 7) 0
      w.mainSet = true ∧ w.ffPeriod 7 = 0 ∧ w.mainTime + 10000 * 2 ^ 32 = w.ffStart 7 * 2 ^ 32)) ∧
    (∃ s : State, (s.firefly 7).next = none ∧ (let w := (s.writePlain (A.TIM_FF_CTRL 7) 1).fset (F.TIM_FF_CTRL_ARM 7) 0
      w.mainSet = true ∧ w.ffPeriod 7 = 0 ∧ w.ffStart 7 * 2 ^ 32 < w.mainTime + 10000 * 2 ^ 32)) ∧
    (∃ s : State, (s.firefly 7).next = none ∧ (let w := (s.writePlain (A.TIM_FF_CTRL 7) 1).fset (F.TIM_FF_CTRL_ARM 7) 0
      w.mainSet = true ∧ w.ffPeriod 7 ≠ 0 ∧ (w.reg (A.TIM_FF_WIDTH 7)).toNat < w.ffPeriod 7 ∧
      w.ffStart 7 * 2 ^ 32 < w.mainTime + 10000 * 2 ^ 32)) ∧
    (∃ s : State, (s.firefly 7).next = some 5 ∧ 5 * 2 ^ 32 < s.mainTime + 10 ^ 9 * 2 ^ 32 / s.baseHz ∧ s.ffPeriod 7 = 0) :=
  ⟨by decide, ⟨{ liveWith [(F.TIM_TS_STAT_STATE 1, 1), (F.TIM_TS_CTRL_SOURCE 1, 2)] with tim := { ts := [(1, { quiet := 255 * 49152000 })] } },
      by decide⟩,
    ⟨liveWith [(F.TIM_TS_STAT_STATE 1, 1), (F.TIM_TS_CTRL_SOURCE 1, 1)], by decide⟩, by decide, by decide, by decide,
    ⟨{ live with tim := { ff := [(7, { next := some 5 })] } }, by decide⟩,
    ⟨timed [(⟨A.TIM_FF_START_NS 7, 31, 0⟩, 10000)] 0, by decide⟩, ⟨timed [] 0, by decide⟩,
    ⟨timed [(⟨A.TIM_FF_PER_NS 7, 31, 0⟩, 1)] 0, by decide⟩,
    ⟨{ live with tim := { ff := [(7, { next := some 5 })] } }, by decide⟩⟩

/-! ### Serial lanes -/

/-- Lane 7 with a locked signal, its receiver in state `st`. -/
def lane7 (st : Nat) (x : LaneSt) : State :=
  { liveWith [(F.LNP_STAT_SIG_DET 7, 1), (F.LNP_STAT_CDR_LOCK 7, 1), (F.LNP_STAT_BLK_STATE 7, st)] with lanes := [(7, x)] }

theorem witness_LaneReceiversFollowTheirStateTable :
    (live.held .lnk = false ∧ live.blkState 7 = 0 ∧ (lane7 2 { good := 1 }).blkState 7 = 2) ∧
    (let s := lane7 1 { good := 1 }; s.fon (F.LNP_STAT_SIG_DET 7) = true ∧ s.fon (F.LNP_STAT_LANE_UP 7) = false ∧
      s.fon (F.LNP_STAT_ADAPT_DONE 7) = false) ∧
    (liveWith [(F.LNP_STAT_LANE_UP 7, 1)]).fon (F.LNP_STAT_LANE_UP 7) = true := by decide

theorem witness_BlocksLockAndReachTheLink :
    (let s := lane7 1 { good := 62 }; s.held .lnk = false ∧ s.blkState 7 = 1 ∧ (s.lane 7).good + 1 < 64 ∧
      ((s.bump (A.LNP_HDR_ERR 7)).laneError 7 3).blkState 7 = 1) ∧
    (let s := lane7 1 { good := 63 }; (s.lane 7).good + 1 = 64) ∧
    (let s := lane7 2 { good := 1, win := 63 }; s.blkState 7 = 2 ∧ (s.lane 7).winBad ≠ 16 ∧ s.fon (F.LNP_STAT_HI_BER 7) = false ∧
      ((s.count48 (A.LNP_RXBLK_LO 7) (A.LNP_RXBLK_HI 7) 1).fon (F.LNP_STAT_HI_BER 7) = false) ∧ (s.lane 7).hiBer = false) ∧
    (let s := lane7 2 { good := 1, winBad := 15 }; s.blkState 7 = 2 ∧ (s.lane 7).winBad = 15 ∧
      ((s.bump (A.LNP_HDR_ERR 7)).laneError 7 3).blkState 7 = 2) ∧
    (let s := lane7 2 { good := 1, chk := 5 }; (s.checkLine 7 (1, 5)).blkState 7 = 2 ∧
      ((s.fset (F.LNP_TEST_CHK_SYNC 7) 1).checkLine 7 (1, 5)).blkState 7 = 2 ∧ s.fget (F.LNP_CTRL_LOOP 7) = 0) ∧
    ((liveWith [(F.LNP_CTRL_LOOP 7, 2)]).fget (F.LNP_CTRL_LOOP 7) = 2 ∧ (liveWith [(F.LNP_CTRL_LOOP 7, 3)]).fget (F.LNP_CTRL_LOOP 7) = 3) ∧
    ((2 : BitVec 2) = 2 ∧ ¬ ((3 : BitVec 2) = 1 ∨ (3 : BitVec 2) = 2)) := by decide

theorem witness_LaneRegistersTakeTheirWrites :
    (let v := 0x0001F800#32; v.toNat / 2 ^ 8 % 16 + v.toNat / 2 ^ 12 % 64 + v.toNat % 32 ≤ 63 ∧ v.toNat / 2 ^ 8 % 16 + v.toNat % 32 ≤ v.toNat / 2 ^ 12 % 64) ∧
    (let v := 0x0003F001#32; ¬ (v.toNat / 2 ^ 8 % 16 + v.toNat / 2 ^ 12 % 64 + v.toNat % 32 ≤ 63)) ∧
    ((liveWith [(F.LNP_CTRL_RX_FIXED 7, 1)]).fon (F.LNP_CTRL_RX_FIXED 7) = true ∧ live.fon (F.LNP_CTRL_RX_FIXED 7) = false) ∧
    ((live.writePlain (A.LNP_CTRL 7) 0x100).fon (F.LNP_CTRL_RX_FIXED 7) = live.fon (F.LNP_CTRL_RX_FIXED 7) ∧ (0x100#32).getLsbD 8 = true) ∧
    (∃ v : W32, (live.writePlain (A.LNP_CTRL 7) v).fget (F.LNP_CTRL_LOOP 7) ≠ live.fget (F.LNP_CTRL_LOOP 7) ∧ v.getLsbD 8 = false ∧
      (live.writePlain (A.LNP_CTRL 7) v).fon (F.LNP_CTRL_RX_FIXED 7) = live.fon (F.LNP_CTRL_RX_FIXED 7)) ∧
    (∃ v : W32, (live.writePlain (A.LNP_CTRL 7) v).fon (F.LNP_CTRL_RX_FIXED 7) ≠ live.fon (F.LNP_CTRL_RX_FIXED 7) ∧ v.getLsbD 8 = true) ∧
    (∃ v : W32, ((live.writePlain (A.LNP_TEST 7) v).reg (A.LNP_TEST 7)).toNat / 4 % 4 ≠ (live.reg (A.LNP_TEST 7)).toNat / 4 % 4) ∧
    (∃ v : W32, (live.writePlain (A.LNP_TEST 7) v).fon (F.LNP_TEST_TX_GEN 7) = true ∧ live.fon (F.LNP_TEST_TX_GEN 7) = false) ∧
    (∃ s : State, s.fon (F.LNP_TEST_RX_CHK 7) = true ∧ s.fget (F.LNP_TEST_PATTERN 7) = 2 ∧ 0x7FFFFFFF % 2 ^ 31 ≠ 0) ∧
    ((liveWith [(F.LNP_TEST_RX_CHK 7, 1)]).fon (F.LNP_TEST_RX_CHK 7) = true ∧ live.fon (F.LNP_TEST_RX_CHK 7) = false) ∧
    ((liveWith [(F.LNP_PORT_CFG_ENABLE 3, 1)]).fon (F.LNP_PORT_CFG_ENABLE 3) = true ∧ (2#32).toNat / 2 % 2 ≠ live.fget (F.LNP_PORT_CFG_MODE 3)) :=
  ⟨by decide, by decide, by decide, by decide, ⟨0x40, by decide⟩, ⟨0x108, by decide⟩, ⟨8, by decide⟩,
    ⟨4, by decide⟩, ⟨liveWith [(F.LNP_TEST_RX_CHK 7, 1), (F.LNP_TEST_PATTERN 7, 2)], by decide⟩, by decide, by decide⟩

/-! ### The Thetex link -/

/-- Lane 0 up in Thetex mode, with a link side. -/
def lane0 (x : LinkLane) (q : LinkPort) (l : List (Field × Nat)) : State :=
  { liveWith ([(F.LNP_STAT_LANE_UP 0, 1), (F.LNK_LANE_STAT_STATE 0, 2), (F.LNP_PORT_CFG_ENABLE 0, 1)] ++ l) with
    link := { lanes := Tbl.set [] {} 0 x, ports := Tbl.set [] {} 0 q } }

/-- A frame header without an address, and one of tick 16. -/
def head (tick : Nat) : FrameHdr := ⟨2, 5, tick, 256⟩

/-- Whether `k` is path `path`'s copy of section `c` in tick `tick`, no copy of the other path seen. -/
def otherCopy (tick path : Nat) (c : Sect) (k : UsedCopy) : Bool := sameCopy tick c k && decide (k.path ≠ path) && !k.seen

/-- The bytes of a section copy without a payload. -/
def sectOf (type dmode : Nat) : List Nat :=
  let b := [type, dmode, 0, 0, 0, 0, 0, 0, 0, 0, 0, 0]
  b ++ leBytes 4 (crc32c b)

theorem witness_ThetexFramesAndSectionsAreTaken :
    (let s := lane0 { src := some 5 } {} []; s.held .lnk = false ∧ s.thetex 0 = true ∧ s.fon (F.LNP_STAT_LANE_UP 0) = true ∧
      s.interDistrict 0 = false ∧ (s.linkLane 0).read = false ∧ (s.linkLane 0).waiting = [] ∧ s.linkSt 0 = 2 ∧ (s.linkLane 0).src = some 5 ∧
      parseHdr (head 0).bytes = some (head 0) ∧ 0 ≤ sdiff s.scnt (head 0).tick ∧
      parseHdr (head 1).bytes = some (head 1) ∧ sdiff s.scnt (head 1).tick < 0 ∧ (s.linkPort 0).rxTick ≠ some (head 0).tick) ∧
    (let s := lane0 { hdr := some (head 0) } {} []; s.linkSt 0 = 2 ∧ (s.linkLane 0).hdr = some (head 0) ∧ (s.linkLane 0).drop = false ∧
      copyState (sectOf 1 3) false = 0 ∧ copyState (sectOf 1 3) true = 2 ∧ (parseSect (sectOf 1 3)).type = 1 ∧
      dmodeOk 1 (parseSect (sectOf 1 3)).dmode = true ∧ (parseSect (sectOf 1 3)).seq = (head 0).tick % 65536 ∧
      isoType 1 = true ∧ (s.linkPort 0).used.find? (otherCopy 0 1 (parseSect (sectOf 1 3))) = none) ∧
    (copyState (sectOf 1 2) false = 0 ∧ dmodeOk 1 (parseSect (sectOf 1 2)).dmode = false) ∧
    (copyState (sectOf 0 0) false = 0 ∧ (parseSect (sectOf 0 0)).type = 0 ∧ dmodeOk 0 (parseSect (sectOf 0 0)).dmode = true) ∧
    (∃ (s : State) (k : UsedCopy), (s.linkPort 0).used.find? (otherCopy 0 1 (parseSect (sectOf 1 3))) = some k ∧ k.bytes = sectOf 1 3) ∧
    (∃ s : State, (s.linkLane 0).read = true ∧ (s.linkLane 0).waiting.length = 3 ∧ s.interDistrict 0 = false) ∧
    (isoType 6 = false ∧ (parseSect (sectOf 6 1)).seq = 0 ∧ sdiffN 16 0 1 < 0 ∧ 0 < sdiffN 16 0 65535) ∧
    (∃ s : State, (s.linkPort 3).await = [(7, 1)]) ∧ (live.linkPort 3).await = [] :=
  ⟨by decide +kernel, by decide +kernel, by decide +kernel, by decide +kernel,
    ⟨lane0 {} { used := [⟨0, 0, parseSect (sectOf 1 3), sectOf 1 3, false⟩] } [],
      ⟨0, 0, parseSect (sectOf 1 3), sectOf 1 3, false⟩, by decide +kernel⟩,
    ⟨lane0 { read := true, waiting := List.replicate 3 { bytes := (head 0).bytes, cycle := 0, at_ := 0, stamps := {}, scnt := 0, sects := [] } } {} [],
      by decide⟩, by decide,
    ⟨{ live with link := { ports := [(3, { await := [(7, 1)] })] } }, by decide⟩, by decide⟩

/-- A device between two ring ports: port 0 east, port 1 west, where frames come in. -/
def ring (east west : LinkPort) : State :=
  { liveWith [(F.LNP_PORT_CFG_ENABLE 0, 1), (F.LNP_PORT_CFG_ENABLE 1, 1), (F.LNK_PORTMAP_ROLE, 9), (F.LNK_LANE_STAT_STATE 2, 2)] with
    link := { ports := [(0, east), (1, west)] } }

theorem witness_ThetexPortsSendOneFrameATick :
    (live.sendsFrames 3 = false ∧
      (let s := liveWith [(F.LNP_PORT_CFG_ENABLE 3, 1)]; s.sendsFrames 3 = true ∧ (s.linkPort 3).lastTick ≠ some s.scnt ∧ s.direction 3 = none)) ∧
    (∃ s : State, (s.linkPort 3).lastTick = some s.scnt) ∧
    (let s := liveWith [(F.LNP_PORT_CFG_ENABLE 3, 1), (F.LNK_PORTMAP_ROLE, 0x40)];
      s.sendsFrames 3 = true ∧ s.direction 3 = some true ∧ s.chainOrigin true s.scnt = true) ∧
    (let s := ring { offset := 1 } { rxTick := some 0 }; s.sendsFrames 0 = true ∧ s.direction 0 = some true ∧ s.upstream true = some 1 ∧
      (s.linkPort 1).rxTick = some 0 ∧ s.chainOrigin true 0 = false ∧ (s.linkPort 0).lastTick ≠ some 0) ∧
    (let s := ring { lastTick := some 0xFFFFFFFF } { offset := 1 }; s.sendsFrames 0 = true ∧ s.upstream true = some 1 ∧
      (s.linkPort 0).lastTick = some 0xFFFFFFFF ∧ s.chainOrigin true 0 = false ∧ (s.linkPort 1).rxTick ≠ some 0 ∧ sdiff 0 s.scnt ≤ 0) ∧
    (∃ (s : State) (b : BulkItem), (s.linkPort 1).bulk = [b] ∧ s.portUp 1 = true ∧ (s.linkPort 1).peerUp = true ∧ credits b.sect = 1 ∧
      ((s.linkPort 1).peerGrant + 65536 - (s.linkPort 1).consumed) % 65536 = 1) ∧
    (∃ (s : State) (b : BulkItem), (s.linkPort 1).bulk = [b] ∧ s.portUp 1 = true ∧ (s.linkPort 1).peerUp = true ∧ credits b.sect = 1 ∧
      ((s.linkPort 1).peerGrant + 65536 - (s.linkPort 1).consumed) % 65536 = 0) :=
  ⟨by decide, ⟨{ live with link := { ports := [(3, { lastTick := some 0 })] } }, by decide⟩, by decide, by decide, by decide,
    ⟨ring { offset := 1 } { bulk := [⟨parseSect (sectOf 6 0), none⟩], peerGrant := 1, peerUp := true }, ⟨parseSect (sectOf 6 0), none⟩,
      by decide⟩,
    ⟨ring { offset := 1 } { bulk := [⟨parseSect (sectOf 6 0), none⟩], peerUp := true }, ⟨parseSect (sectOf 6 0), none⟩, by decide⟩⟩

/-- A time section of kind `k` for timescale 0. -/
def timeSect (k : Nat) : Taken := ⟨0, 0, 0, {}, false, ⟨5, 0, 0, 0, 0, 0, 0, k :: List.replicate 47 0⟩⟩

theorem witness_TimeRequestsAndResponsesMeasureATimescale :
    (∃ s : State, s.held .clk = false ∧ s.held .lnk = false ∧ s.tsSource 1 = 1 ∧ (s.tsc 1).due ≤ s.eng.tick) ∧ live.tsSource 1 ≠ 1 ∧
    (live.takeFirst (fun t => decide (t.sect.type = 5)) = none) ∧
    (∃ s : State, (s.takeFirst (fun t => decide (t.sect.type = 5) && decide (leNat (t.sect.payload.take 4) % 2 = 0))).map (·.1) =
      some (timeSect 0) ∧ s.serves 0 0 = true) ∧
    (∃ s : State, (s.takeFirst (fun t => decide (t.sect.type = 5) && decide (leNat (t.sect.payload.take 4) % 2 = 1))).map (·.1) =
        some (timeSect 1) ∧ (s.tsc 0).sent = some (0, 0) ∧ s.tsSource 0 = 1 ∧ s.fget (F.TIM_TS_CTRL_UPORT 0) = 0 ∧
      timeOf ((timeSect 1).sect.payload.drop 4) = 0 ∧ s.eng.tick ≤ 0 + 8 ∧ 0 ≤ divHalfUp (s.rxStamp (timeSect 1) 0) 2) :=
  ⟨⟨liveWith [(F.TIM_TS_CTRL_SOURCE 1, 1)], by decide⟩, by decide, by decide,
    ⟨{ liveWith [(F.TIM_TS_CTRL_SERVE 0, 1), (F.TIM_TS_STAT_SET 0, 1)] with link := { inbox := [timeSect 0] } }, by decide⟩,
    ⟨{ liveWith [(F.TIM_TS_CTRL_SOURCE 0, 1)] with link := { inbox := [timeSect 1] }, tim := { ts := [(0, { sent := some (0, 0) })] } },
      by decide⟩⟩

theorem witness_LinkRegistersAndLossesFollowTheirRules :
    (live.held .lnk = false ∧ live.fon (F.LNK_TX_W0_EN 3 255) = false ∧
      breaksBinding live (live.writePlain (A.LNK_RX_W0 3 255) 1) = false) ∧
    (∃ s t : State, breaksBinding s t = true) ∧
    ((liveWith [(F.LNK_RX_W0_EN 3 255, 1)]).fon (F.LNK_RX_W0_EN 3 255) = true ∧ (1#32).getLsbD 0 = true) ∧
    (∃ i < 4, ∃ j < 4, i ≠ j ∧ (0x05#32).toNat / 4 ^ i % 4 = (0x05#32).toNat / 4 ^ j % 4 ∧ (0x05#32).toNat / 4 ^ i % 4 = 1) ∧
    (∀ i < 4, ∀ j < 4, i ≠ j → (0x09#32).toNat / 4 ^ i % 4 = 1 ∨ (0x09#32).toNat / 4 ^ i % 4 = 2 →
      (0x09#32).toNat / 4 ^ i % 4 ≠ (0x09#32).toNat / 4 ^ j % 4) ∧
    (∃ s : State, s.linkSt 7 = 2 ∧ (s.linkLane 7).miss = 4 ∧ (s.linkLane 7).gather = true ∧ ∃ e ∈ (s.linkLane 7).errs, e ≠ 0) ∧
    live.linkSt 7 ≠ 2 ∧ (live.linkLane 7).gather = false ∧
    (∃ s : State, (s.linkLane 7).gather = true ∧ ∀ e ∈ (s.linkLane 7).errs, e = 0) :=
  ⟨by decide, ⟨bound, bound.writePlain (A.HIF_SR_CFG 31) 0x40000000, by decide⟩, by decide, ⟨0, by decide, 1, by decide⟩, by decide,
    ⟨{ liveWith [(F.LNK_LANE_STAT_STATE 7, 2)] with link := { lanes := [(7, { miss := 4, gather := true, errs := [0, 0, 0, 1] })] } },
      by decide⟩, by decide, by decide, ⟨{ live with link := { lanes := [(7, { gather := true })] } }, by decide⟩⟩

/-! ### The Yard, Stall locks, Weevil, bulk memory and its arbiter -/

/-- `live` while the domain of the register at 6_0000h goes idle for a reset. -/
def quiet : State := { live with rst := { clocks := 15, quiesce := [(0, 0xFF)] } }

theorem witness_RegisterAccessesReplyOrAbort :
    ((⟨13, 0, 0x10, 8⟩ : BusAccess).size ≠ 4 ∧ (⟨13, 0, 0x12, 4⟩ : BusAccess).off % 4 ≠ 0) ∧
    (allocated 0x10 = true ∧ allocated 0xFFFFFC = false ∧ 0xFFFFFC < 0x1000000) ∧
    (∃ d, regDef 0x60000 = some d ∧ State.reset.held d.dom = true ∧ State.reset.quiescing d.dom = false ∧ quiet.quiescing d.dom = true) ∧
    (0x1000000 ≤ (⟨13, 0, 0x1003FFC, 4⟩ : BusAccess).off ∧ (⟨13, 0, 0x1003FFC, 4⟩ : BusAccess).off < 0x1004000) :=
  ⟨by decide, by decide, ⟨((regDef 0x60000).getD ⟨0, 0, 0, 0, 0, .aon, none, []⟩), by decide⟩, by decide⟩

/-- A read (kind 0) or write (kind 1) of one doubleword by master 0. -/
def tx (kind addr : Nat) : YardTx := ⟨0, 32, 0, kind, addr, [⟨0, 0xFF, .clean, false⟩], false, false, 0, 0⟩

theorem witness_YardTransactionsAreGrantedAndAnswered :
    (live.held .mem = false ∧ live.yard.waiting = [] ∧ live.txIssues (tx 0 0x1000000) = true ∧ live.txBlocked (tx 0 0x1000000) = false ∧
      live.txIssues (tx 3 0) = false) ∧
    (∃ s : State, s.txIssues (tx 0 0x1000000) = true ∧ s.txBlocked (tx 0 0x1000000) = true) ∧
    (yardTarget 0x1000000 < 12 ∧ 64 ≤ 0x1000000 / 0x40000 ∧ yardTarget 0x17FFFF8 < 12 ∧ 0x17FFFF8 / 0x40000 = 95 ∧
      live.ownerRefuses 64 0 0 = false ∧ (liveWith [(F.MEM_STALL_OWNER 64, 31)]).ownerRefuses 64 0 0 = true) ∧
    (∃ a, yardTarget a = 18 ∧ live.targetShut 18 = false ∧ leAt live.mem (a / 32 * 32) 2 ≠ 0xFFFF ∧
      leAt ({ live with mem := setLe live.mem (a / 32 * 32) 2 0xFFFF } : State).mem (a / 32 * 32) 2 = 0xFFFF) ∧
    (yardTarget 0x30000000 = 19 ∧ live.targetShut 19 = false) ∧
    (yardTarget 0x80000000 = 12 ∧ ¬ live.fon F.BLK_STAT_READY = true ∧ (hosted []).fon F.BLK_STAT_READY = true ∧
      (hosted []).fget (F.YRD_MST_BWIN 0) * 2 ^ 31 + (0x80000000 - 0x80000000) + 8 ≤ (hosted []).bulkBytes ∧
      (hosted []).inDelayRegion 0 = false) :=
  ⟨by decide, ⟨{ live with yard := { excl := [(64, some { master := 1, txs := 1, beats := 1 })] } }, by decide⟩,
    by decide, ⟨0x13000008, by decide⟩, by decide, by decide⟩

theorem witness_StallLocksAndOwnersChangeHands :
    (live.held .mem = false ∧ ridOwner 0 0 = some 6144 ∧ (¬ ∃ j < 256, 255 < j ∧ live.lockHeldBy j 6144 = true) ∧
      live.lockHeldBy 255 6144 = false ∧ live.lockPending 6144 = false ∧ live.fget (F.MEM_LOCK_STATE 255) = 0 ∧
      live.lockWaiters 255 = []) ∧
    (∃ s : State, s.lockHeldBy 255 6144 = true ∧ s.fget (F.MEM_LOCK_STATE 255) = 1) ∧
    (∃ s : State, s.lockPending 6144 = true ∧ 6144 ∈ s.lockWaiters 0) ∧
    (∃ s : State, ¬ s.fget (F.MEM_LOCK_STATE 255) = 0) ∧
    ridOwner 60 0 = none ∧
    (∃ s : State, Tbl.get s.yard.handover none 95 = some 31 ∧ Tbl.get s.yard.excl none 95 = none) ∧
    (∃ s : State, Tbl.get s.yard.handover none 64 = some 0 ∧ Tbl.get s.yard.excl none 64 ≠ none) :=
  ⟨by decide +kernel, ⟨liveWith [(F.MEM_LOCK_STATE 255, 1), (F.MEM_LOCK_OWNER 255, 6144)], by decide⟩,
    ⟨{ live with waiters := [(0, [6144])] }, by decide⟩, ⟨liveWith [(F.MEM_LOCK_STATE 255, 1)], by decide⟩, by decide,
    ⟨{ live with yard := { handover := [(95, some 31)] } }, by decide⟩,
    ⟨{ live with yard := { handover := [(64, some 0)], excl := [(64, some { master := 1, txs := 1, beats := 1 })] } }, by decide⟩⟩

theorem witness_WeevilPassesAndBulkTraining :
    (live.held .mem = false ∧ live.held .ctl = false ∧ live.fon F.BLK_STAT_READY = false ∧ live.fon F.BLK_STAT_TRAIN_FAIL = false ∧
      live.blk.training = false ∧ live.wvPos 11 < 4160) ∧
    (∃ s : State, s.fon F.MEM_WV_CTRL_EN = true ∧ (∀ p < 12, 4160 ≤ s.wvPos p) ∧ (s.now - s.weevil.start) / 1024 ≤ s.wvPeriod) ∧
    (∃ s : State, s.wvPeriod < (s.now - s.weevil.start) / 1024 ∧ s.weevil.noted = false) ∧
    ((live.writePlain A.BLK_CFG (live.reg A.BLK_CFG)).fget F.BLK_CFG_SIZE = live.fget F.BLK_CFG_SIZE ∧
      (∃ v : W32, (live.writePlain A.BLK_CFG v).fget F.BLK_CFG_SIZE ≠ live.fget F.BLK_CFG_SIZE) ∧ live.slotState 0 = 0 ∧
      (hosted [(F.ENG_SLOT_STAT_STATE 1, 2)]).slotState 1 ≠ 0) ∧
    (∃ s : State, ∃ k < 2, ∃ n ∈ (s.slot k).prog.nodes, n.type = T.bulkDly) ∧
    (∃ s : State, s.blk.training = true) ∧
    (∃ s : State, s.slotState 0 = 3 ∧ ((s.slot 0).node 0).starved = true ∧ ((s.slot 0).prog.node 0).type = T.srcVoice) :=
  ⟨by decide, ⟨{ liveWith [(F.MEM_WV_CTRL_EN, 1)] with weevil := { pos := (List.range 12).map (fun p => (p, 4160)) } }, by decide⟩,
    ⟨{ live with loft := { sincePor := 1000000000 } }, by decide⟩, ⟨by decide, ⟨0xFFFFFFFF, by decide⟩, by decide⟩,
    ⟨live.setSlot 1 { prog := { nodes := [nodeOf T.bulkDly] } }, 1, by decide,
      nodeOf T.bulkDly, by decide⟩,
    ⟨{ live with blk := { training := true } }, by decide⟩,
    ⟨runs (nodeOf T.srcVoice) { starved := true }, by decide⟩⟩

theorem witness_TheBulkArbiterTakesRequests :
    (live.held .mem = false ∧ live.arbReq 7 = none ∧ live.portIdle = true) ∧
    (∃ (s : State) (q : ArbReq), s.portIdle = false ∧ s.arbReq s.portOwner = some q ∧ q.here = false ∧ q.till ≤ s.ecnt + 0) ∧
    ((live.writePlain (A.YRD_ARB_BIAS 7) 1).portIdle = true) ∧ (∃ s : State, s.portIdle = false) :=
  ⟨by decide, ⟨{ liveWith [(F.YRD_ARB_GRANT_IDLE, 0), (F.YRD_ARB_GRANT_OWNER, 7)] with blk := { reqs := [(7, some ⟨0, 16, false, 0⟩)] } },
    ⟨0, 16, false, 0⟩, by decide⟩, by decide, ⟨liveWith [(F.YRD_ARB_GRANT_IDLE, 0)], by decide⟩⟩

theorem test_lock_above_is_refused :
    ((left (exec (.lockRequest 0 0 4) (liveWith [(F.MEM_LOCK_STATE 5, 1), (F.MEM_LOCK_OWNER 5, 6144)]))).lockReq 6144).reason = 1 := by decide +kernel
theorem test_unallocated_read_aborts : (left (exec (.readClear ⟨13, 0, 0xFFFFFC, 4⟩) live)).reply.abort = true := by decide

/-! ### Ports and the test access port -/

/-- Port 15 in state `st` and mode `mode`, with `x` beside its registers. -/
def ported (st mode : Nat) (x : PortSt) (l : List (Field × Nat)) : State :=
  (liveWith ([(F.APT_PORT_STAT_STATE 15, st), (F.APT_PORT_CFG_MODE 15, mode), (F.APT_PORT_CFG_SLOTS 15, 1)] ++ l)).setPort 15 x

/-- A slot that passes its signal. -/
def loud : PortDir := { slots := [(0, { ph := .pass })] }

theorem witness_PortsFollowTheirStateTable :
    (live.held .apt = false ∧ (ported 0 0 {} []).portState 15 = 0 ∧ (ported 0 0 {} []).portRunReason 15 = 0) ∧
    ((ported 0 3 {} []).portRunReason 15 = 4 ∧ (ported 1 0 {} []).portState 15 = 1 ∧ (ported 2 0 {} []).portState 15 = 2 ∧
      (ported 3 0 {} []).portState 15 = 3) ∧
    (let s := ported 1 0 { clk := true } []; s.canonical = true ∧ s.portMode 15 = 0 ∧ (s.port 15).clk = true) ∧
    (let s := ported 1 1 { good := 2 } []; s.portState 15 = 1 ∧ s.portMode 15 = 1 ∧ 2 ≤ (s.port 15).good) ∧
    (let s := ported 1 2 {} [(F.APT_PORT_STAT_ASRC_LOCK 15, 1)]; s.portState 15 = 1 ∧ s.portMode 15 = 2 ∧
      s.fon (F.APT_PORT_STAT_ASRC_LOCK 15) = true) ∧
    (let s := ported 3 0 { quiet := 2 } []; (s.port 15).rx.silent = true ∧ (s.port 15).tx.silent = true ∧ 2 ≤ (s.port 15).quiet) ∧
    (let s := ported 2 1 {} []; s.portState 15 = 2 ∧ s.portMode 15 ≠ 0) ∧
    (breaksBinding (ported 0 0 {} []) ((ported 0 0 {} []).writePlain (A.APT_PORT_CFG 15) 0) = false ∧ ∃ s t, breaksBinding s t = true) ∧
    ((ported 2 0 { latched := true } []).port 15).latched = true ∧
    (let s := ported 2 0 {} [(F.APT_PORT_STAT_ARMED 15, 1), (F.APT_PORT_RXMASK_MASK 15, 4)]
     s.fon (F.APT_PORT_STAT_ARMED 15) = true ∧
      2 ^ s.portSlots 15 ≤ (s.fset (F.APT_PORT_STAT_ARMED 15) 0).fget (F.APT_PORT_RXMASK_MASK 15)) ∧
    (let s := ported 2 0 {} [(F.APT_PORT_STAT_ARMED 15, 1), (F.APT_PORT_RXMASK_MASK 15, 3)]
     s.fon (F.APT_PORT_STAT_ARMED 15) = true ∧
      (s.fset (F.APT_PORT_STAT_ARMED 15) 0).fget (F.APT_PORT_RXMASK_MASK 15) < 2 ^ s.portSlots 15 ∧
      (s.fset (F.APT_PORT_STAT_ARMED 15) 0).fget (F.APT_PORT_TXMASK_MASK 15) < 2 ^ s.portSlots 15 ∧ s.portMode 15 ≠ 2) :=
  ⟨by decide +kernel, by decide +kernel, by decide +kernel, by decide +kernel, by decide +kernel, by decide +kernel, by decide +kernel,
    ⟨by decide +kernel, bound, bound.writePlain (A.HIF_SR_CFG 31) 0x40000000, by decide +kernel⟩, by decide +kernel, by decide +kernel,
    by decide +kernel⟩

/-- The levels of a frame of two slots of 32 bits. -/
def levels : List Bool := List.replicate 64 true

/-- A frame of two words in a queue. -/
def frame2 : QFrame := { xs := [1, 2] }

theorem witness_PortFramesAndMicrophonesMove :
    (live.held .apt = false ∧ live.pinsCut = false ∧ (ported 2 1 {} []).frameBits 15 = levels.length ∧
      (ported 2 1 {} []).frameBits 15 ≠ (levels.drop 1).length) ∧
    ((ported 1 1 {} []).portState 15 = 1 ∧ (ported 1 1 { rx := { primed := true } } []).canonical = true ∧
      ((ported 1 1 { rx := { primed := true } } []).port 15).rx.primed = true) ∧
    (let s := ported 2 1 { rx := { primed := true } } []; s.portMode 15 = 1 ∧ (s.port 15).rx.ready.length < s.portM 15 ∧
      (s.port 15).rx.starved = false ∧ (s.port 15).rx.queue.length ≤ s.portDepth 15) ∧
    ((ported 2 0 {} []).portMode 15 = 0 ∧ (ported 2 2 {} []).portMode 15 = 2) ∧
    (let s := ported 2 2 { rx := { queue := List.replicate 600 frame2 } } []; s.portDepth 15 ≤ (s.port 15).rx.queue.length) ∧
    (let s := ported 2 0 { clk := true, tx := { queue := [frame2] } } []; let u := s.applyMask 15 true
     s.portState 15 ≠ 0 ∧ (s.port 15).clk = true ∧ (s.port 15).sent < s.portM 15 ∧ u.portMode 15 = 0 ∧ (u.port 15).tx.queue = [frame2]) ∧
    (let s := ported 2 0 { clk := true, sent := 1 } []; s.portMode 15 = 0 ∧ s.portM 15 ≤ (s.port 15).sent) ∧
    (let s := ported 2 1 { tx := { primed := true } } []; let u := s.applyMask 15 true
     s.portState 15 ≠ 0 ∧ u.portMode 15 ≠ 0 ∧ (u.port 15).tx.primed = true ∧ (u.port 15).tx.starved = false ∧ (u.port 15).tx.queue = []) ∧
    (let s := ported 2 1 { tx := { primed := true, queue := [frame2] } } []; ((s.applyMask 15 true).port 15).tx.queue = [frame2]) ∧
    (let s := ported 2 1 { tx := { primed := true, starved := true } } []; ((s.applyMask 15 true).port 15).tx.starved = true) ∧
    (((ported 2 1 {} []).applyMask 15 true).port 15).tx.primed = false ∧
    ((0x10000 : Nat) / 2 ^ 16 % 2 ≠ live.fget F.APT_PDM_CTRL_PDM_RATE ∧
      (live.writePlain A.APT_PDM_MASK 0x80000000).reg A.APT_PDM_MASK ≠ 0 ∧ live.reg A.APT_PDM_MASK = 0) := by decide +kernel

theorem test_portRun_starts : (left (exec (.portRun 15) (ported 0 0 {} []))).portState 15 = 1 := by decide +kernel
theorem test_portCfgWrite_running_is_rejected :
    (left (exec (.portCfgWrite 15 false 0) (ported 2 0 {} []))).fget (F.APT_PORT_STAT_CFG_REASON 15) = 1 := by decide +kernel
theorem test_received_frame_is_queued :
    ((left (exec (.portFrameReceived 15 levels) (ported 2 0 { rx := loud } []))).port 15).rx.queue.length = 1 := by decide +kernel
theorem test_idcode : (left (exec .idcode live)).jtag.captured = 0x106005EB := by decide
theorem test_bypass_of_an_opcode : (left (exec (.bypass 255) live)).jtag.ir = .bypass := by decide

/-! ### Ethernet, RTP and management -/

/-- Lane 0 up in Ethernet mode. -/
def etherLane (l : List (Field × Nat)) : State :=
  liveWith ([(F.LNP_PORT_CFG_MODE 0, 1), (F.LNP_PORT_CFG_ENABLE 0, 1), (F.LNP_STAT_LANE_UP 0, 1)] ++ l)

/-- A frame with its FCS. -/
def withFcs (bs : List Nat) : List Nat := bs ++ leBytes 4 (fcs bs)

/-- A broadcast frame of `n` bytes. -/
def broadcast (n : Nat) : List Nat := withFcs (List.replicate 6 255 ++ List.replicate (n - 10) 0)

/-- A frame with an RTP packet of one 24-bit sample over IPv4: destination 1.2.3.4, UDP port 5004 and checksum `sum`. -/
def rtpFrame (sum : List Nat) : List Nat :=
  List.replicate 6 255 ++ List.replicate 6 0 ++ [8, 0] ++
    [0x45, 0, 0, 43, 0, 0, 0, 0, 1, 17, 0, 0, 5, 6, 7, 8, 1, 2, 3, 4] ++ [0, 9, 0x13, 0x8C, 0, 23] ++ sum ++
    [0x80, 96, 0, 1, 0, 0, 0, 9, 0, 0, 0, 7, 0x12, 0x34, 0x56]

/-- `etherLane` with receive stream 63 open for that packet. -/
def rtpLane : State :=
  (etherLane [(F.RTP_RX_W0_EN 63, 1), (F.RTP_RX_W0_LANES 63, 1), (F.RTP_RX_W0_PT 63, 96), (F.RTP_RX_W4_DST_UDP 63, 5004),
    (F.RTP_RX_W1_DEPTH 63, 48)]).setReg (A.RTP_RX_W2 63) 0x01020304

/-- A ring 5 with one entry of kind `kind` that sends `len` bytes. -/
def sending (kind len : Nat) (l : List (Field × Nat)) : State :=
  { liveWith ([(F.HIF_RING_CFG_EN 5, 1), (F.HIF_RING_CFG_LOG2SIZE 5, 4), (F.HIF_RING_HOST_INDEX 5, 1)] ++ l) with
    host := (if kind = 0 then [] else [(0, BitVec.ofNat 8 kind)]) ++ (if len = 0 then [] else [(2, BitVec.ofNat 8 len)]) ++
      (if kind = 3 then [(10, 16)] else []) }

/-- A timed frame of lane 0 that launches at 0. -/
def timed0 : SendEntry := parseSend ([2, 0, 4] ++ List.replicate 33 0) 0

theorem witness_EthernetFramesAndTimestamps :
    (let s := etherLane []; s.thetex 0 = false ∧ s.held .lnk = false ∧ s.fon (F.LNP_STAT_LANE_UP 0) = true) ∧
    ((List.replicate 64 0).length = 64 ∧ fcs (List.replicate 60 0) ≠ leNat (List.replicate 4 0)) ∧
    ((broadcast 63).length = 63 ∧ fcs ((broadcast 63).take 59) = leNat ((broadcast 63).drop 59)) ∧
    ((broadcast 64).length = 64 ∧ fcs ((broadcast 64).take 60) = leNat ((broadcast 64).drop 60) ∧
      (etherLane []).macTakes 0 (beAt ((broadcast 64).take 60) 0 6) = true ∧ udpOf ((broadcast 64).take 60) = none ∧
      ptpOf ((broadcast 64).take 60) = none) ∧
    ((etherLane []).macTakes 0 0x020000000001 = false) ∧
    (∃ d r, udpOf (rtpFrame [0, 0]) = some d ∧ rtpOf d.data = some r ∧ d.sum = 0 ∧
      (List.range 64).find? (fun i => (rtpLane.bump (A.LNP_ETH_RXF 0)).rtpMatches i 0 (etherHead (rtpFrame [0, 0])).1 d r) = some 63) ∧
    (∃ d, udpOf (rtpFrame [0, 1]) = some d ∧ d.sum ≠ 0 ∧ checksumOk d.covered = false) ∧
    (let s := liveWith [(F.TIM_PTP_LANE_EN, 128)]; s.held .clk = false ∧ bit (s.fget F.TIM_PTP_LANE_EN) 7 = true ∧ ptpEvent 3 = true) ∧
    (let s := liveWith [(F.TIM_TS_CTRL_SOURCE 0, 2)]; s.ptpTimescale 0 = some 0 ∧ s.tsSource 0 = 2) :=
  ⟨by decide, by decide +kernel, by decide +kernel, by decide +kernel, by decide +kernel,
    ⟨_, _, rfl, rfl, by decide +kernel⟩, ⟨_, rfl, by decide +kernel⟩, by decide, by decide⟩

/-- What ring 5 of `s` holds at its engine index. -/
def sendBytes (s : State) : List Nat := bytesAt s.host (s.ringAddr 5 (s.ringEng 5)) 2048

theorem witness_frameSend :
    (let s := sending 1 1 [(F.LNP_PORT_CFG_MODE 0, 1)]; s.held .hif = false ∧ s.ringHasEntry 5 = true ∧ s.backlogged = false ∧
      sendOk (sendBytes s) = true ∧ (parseSend (sendBytes s) 0).kind = 1 ∧ (s.consumed 5).thetex 0 = false) ∧
    (sendOk (sendBytes (sending 1 0 [])) = false) ∧
    (let s := sending 3 4 []; sendOk (sendBytes s) = true ∧ (parseSend (sendBytes s) 0).kind = 3 ∧
      (parseSend (sendBytes s) 0).launch = 0 ∧ (s.consumed 5).thetex 0 = true ∧ (s.consumed 5).portRole 0 = 0 ∧
      bit (parseSend (sendBytes s) 0).xflags 4 = false) ∧
    (let s := { sending 3 4 [] with host := [(0, 3), (2, 4), (10, 16), (11, 16)] }; sendOk (sendBytes s) = true ∧
      bit (parseSend (sendBytes s) 0).xflags 4 = true ∧ (s.consumed 5).portRole 0 = 0) ∧
    (let s := sending 2 1 [(F.LNP_PORT_CFG_MODE 0, 1)]; sendOk (sendBytes s) = true ∧ (parseSend (sendBytes s) 0).kind = 2 ∧
      (s.consumed 5).mainSet = false) ∧
    (let s := sending 2 1 [(F.LNP_PORT_CFG_MODE 0, 1), (F.TIM_TS_STAT_SET 0, 1)]; (s.consumed 5).mainSet = true ∧
      (Tbl.get (s.consumed 5).tim.timed [] 0).length < 32) :=
  ⟨by decide +kernel, by decide +kernel, by decide +kernel, by decide +kernel, by decide +kernel, by decide +kernel⟩

theorem witness_timedFrames :
    (∃ s : State, s.held .clk = false ∧ Tbl.get s.tim.timed [] 0 = [timed0] ∧ s.mainAt 0 = (timed0.launch : Int) * 2 ^ 16) ∧
    (∃ s : State, Tbl.get s.tim.timed [] 0 = [{ timed0 with launch := 1 }] ∧ s.mainAt 0 < 2 ^ 16) ∧
    (∃ s : State, Tbl.get s.tim.timed [] 0 = [timed0] ∧ ((timed0.launch + s.lateTol : Nat) : Int) * 2 ^ 16 < s.mainAt (s.lateTol * 65536 + 1)) :=
  ⟨⟨{ live with tim := { timed := [(0, [timed0])] } }, by decide +kernel⟩,
    ⟨{ live with tim := { timed := [(0, [{ timed0 with launch := 1 }])] } }, by decide +kernel⟩,
    ⟨{ live with tim := { timed := [(0, [timed0])] } }, by decide +kernel⟩⟩

theorem witness_RtpStreamsRefillAndLaunchPackets :
    (live.held .lnk = false ∧ ∃ s : State, (s.rxStream 63).starved = true ∧ s.fon (F.RTP_RX_W0_EN 63) = true ∧
      s.rxHolds 63 (1 + s.fget (F.RTP_RX_W1_DEPTH 63) / 2) = true) ∧
    (∃ s : State, (s.txStream 63).ready = [(0, 5, [])] ∧ s.eng.tick ≤ 5) ∧
    (∃ s : State, (s.txStream 63).ready = [(0, 0, [])] ∧ 0 < s.eng.tick ∧ s.withholds 0 = false) ∧
    (∃ s : State, (s.txStream 63).ready = [(0, 0, [])] ∧ 0 < s.eng.tick ∧ s.withholds 0 = true) ∧
    ((live.txStream 63).ready = []) ∧ live.streamsWait 0 = false ∧ (∃ s : State, s.streamsWait 0 = true) ∧
    (let s := liveWith [(F.RTP_RX_W0_EN 63, 1)]; s.fon (F.RTP_RX_W0_EN 63) = true ∧ clearsEn (s.reg (A.RTP_RX_W0 63 + 4 * 0)) 0xFFFFFFFE = false ∧
      clearsEn (s.reg (A.RTP_RX_W0 63 + 4 * 0)) (s.reg (A.RTP_RX_W0 63) &&& 0xFFFFFFFE) = true) ∧
    (let t := live.writePlain (A.RTP_RX_W0 63 + 4 * 0) 0; live.fon (F.RTP_RX_W0_EN 63) = false ∧ breaksBinding live t = false ∧
      t.fon (F.RTP_RX_W0_EN 63) = false) ∧
    (let s := liveWith [(F.RTP_RX_W1_DEPTH 63, 960), (F.RTP_RX_W0_LANES 63, 1)]
     let t := s.writePlain (A.RTP_RX_W0 63 + 4 * 0) (s.reg (A.RTP_RX_W0 63) ||| 1)
     t.fon (F.RTP_RX_W0_EN 63) = true ∧ t.fget (F.RTP_RX_W0_LANES 63) ≠ 0 ∧ t.fget (F.RTP_RX_W1_DEPTH 63) = 960) ∧
    (let s := liveWith [(F.RTP_TX_W0_EN 63, 1)]; s.fon (F.RTP_TX_W0_EN 63) = true ∧ clearsEn (s.reg (A.RTP_TX_W0 63 + 4 * 0)) 0xFFFFFFFE = false) ∧
    (let t := live.writePlain (A.RTP_TX_W0 63 + 4 * 6) 0; live.fon (F.RTP_TX_W0_EN 63) = false ∧ breaksBinding live t = false ∧
      t.fon (F.RTP_TX_W0_EN 63) = false) :=
  ⟨⟨by decide, ⟨{ liveWith [(F.RTP_RX_W0_EN 63, 1), (F.RTP_RX_W1_DEPTH 63, 0)] with
      rtpRx := Tbl.set [] {} 63 { starved := true, pkts := [⟨0, List.replicate 8 [0]⟩] } }, by decide +kernel⟩⟩,
    ⟨{ live with rtpTx := [(63, { ready := [(0, 5, [])] })] }, by decide⟩,
    ⟨{ live with rtpTx := [(63, { ready := [(0, 0, [])] })], eng := { tick := 1 } }, by decide⟩,
    ⟨{ liveWith [(F.RED_CFG_ROLE, 1)] with rtpTx := [(63, { ready := [(0, 0, [])] })], eng := { tick := 1 }, pair := { mute := some (0, none) } },
      by decide⟩,
    by decide, by decide, ⟨{ liveWith [(F.RTP_TX_W0_LANES 63, 1)] with rtpTx := [(63, { ready := [(0, 0, [])] })], eng := { tick := 1 } }, by decide⟩,
    by decide, by decide +kernel, by decide +kernel, by decide, by decide +kernel⟩

/-- A management section of operation `op` for this device. -/
def mgmt (op : Nat) (args : List Nat) (mac : List Nat) : Sect :=
  ⟨7, 1, 0, 0, 0, 127, 0, [op] ++ List.replicate 15 0 ++ args ++ List.replicate (16 - args.length) 0 ++ mac⟩

/-- A device whose key is not zero and whose main time is set, with section `x` taken. -/
def managed (x : Sect) (l : List (Field × Nat)) : State :=
  { (liveWith ([(F.TIM_TS_STAT_SET 0, 1)] ++ l)).setReg (A.LNK_KEY 0) 1 with link := { inbox := [⟨0, 0, 0, {}, false, x⟩] } }

/-- The section of a RESET operation with its MAC under that key. -/
def signed : Sect := mgmt 4 [] [53, 19, 219, 236, 198, 125, 130, 74, 104, 172, 50, 85, 18, 126, 26, 142]

theorem witness_ManagementOperationsActAndAnswer :
    (live.held .lnk = false ∧ ∀ op ∈ [1, 2, 3, 4, 5, 0x80], live.takeMgmt op = none) ∧
    (let x := mgmt 1 [] []
     let s := managed x [(F.LNK_MGMT_ASSIGN_EN, 1)]
     ((s.takeMgmt 1).map (·.1)) = some ⟨0, 0, 0, {}, false, x⟩ ∧ s.assigned = false ∧ s.fon F.LNK_MGMT_ASSIGN_EN = true) ∧
    (let s := managed (mgmt 2 [0, 0, 4] []) [(F.LNK_MGMT_AUTH_READ, 0)]; (s.takeMgmt 2).isSome = true ∧ s.fon F.LNK_MGMT_AUTH_READ = false) ∧
    ((managed (mgmt 5 [] []) []).takeMgmt 5).isSome = true ∧ ((managed (mgmt 0x80 [] []) []).takeMgmt 0x80).isSome = true :=
  ⟨by decide, by decide, by decide, by decide, by decide⟩

theorem witness_mgmtAssign_uid : ∃ x : Sect, x.arg 0 + x.arg 1 * 2 ^ 32 = Config.uid.toNat := by
  refine ⟨⟨7, 1, 0, 0, 0, 127, 0, List.replicate 16 0 ++ leBytes 8 Config.uid.toNat⟩, ?_⟩
  have := Config.uid.isLt
  simp only [Sect.arg, Sect.field, leBytes, leNat, List.replicate, List.drop, List.take, List.cons_append, List.nil_append]
  omega

theorem witness_authStatus :
    (let s := managed signed [(F.LNK_MGMT_RESET_EN, 1)]; (s.takeMgmt 4).isSome = true ∧ s.macOk signed = true ∧
      s.authStatus signed true = 0 ∧ s.authStatus signed false = 4 ∧ s.authStatus (mgmt 4 [] []) true = 1) ∧
    (let s := ({ managed signed [(F.LNK_MGMT_RESET_EN, 1)] with link := { nonces := [(0, 0)] } } : State)
     s.mainSet = true ∧ ∃ n ∈ s.recentNonces, n.1 = signed.nonce) ∧
    ((managed signed []).fset (F.TIM_TS_STAT_SET 0) 0).mainSet = false :=
  ⟨by decide +kernel, by decide, by decide⟩

/-- The example of FIPS 180-4 for the message "abc" (log entry 43). -/
theorem test_sha256_of_abc : Sha.beNat (Sha.sha256 [0x61, 0x62, 0x63]) =
    0xba7816bf8f01cfea414140de5dae2223b00361a396177a9cb410ff61f20015ad := by decide +kernel
theorem test_wrong_fcs_is_counted :
    (left (exec (.ethFrameReceived 0 (List.replicate 64 0) 0) (etherLane []))).reg (A.LNP_ETH_FCS 0) = 1 := by decide +kernel
theorem test_short_frame_is_dropped :
    (left (exec (.ethFrameReceived 0 (broadcast 63) 0) (etherLane []))).reg (A.LNP_ETH_DROP 0) = 1 := by decide +kernel
theorem test_reset_operation_asks_for_source_9 :
    (left (exec .mgmtReset (managed signed [(F.LNK_MGMT_RESET_EN, 1)]))).rst.quiesce.map (·.1) = [9] := by decide +kernel

/-! ### Pairs -/

/-- Member of role `role` in pair state `st`, with pair unit `p`. -/
def member (role st : Nat) (p : Pair) (l : List (Field × Nat)) : State :=
  { liveWith ([(F.RED_CFG_ROLE, role), (F.RED_STAT_STATE, st), (F.RED_CFG_PARTNER, 5)] ++ l) with pair := p }

/-- A Cricket of SEQ 1 and TICK `tick` from the partner. -/
def cricket (tick : Nat) : Taken := ⟨0, 0, 0, {}, false, ⟨4, 0, 5, 0, 1, 0, 0, [0, 4, 0, 0, 0, 0, 0, 0] ++ leBytes 4 tick⟩⟩

/-- `s` with sections taken. -/
def withTaken (s : State) (l : List Taken) : State := { s with link := { s.link with inbox := l } }

theorem witness_PairsFollowTheirStateTable :
    (live.held .lnk = false ∧ live.takeFirst (fun t => decide (t.sect.type = 4)) = none) ∧
    (let s := withTaken (member 2 1 {} []) [cricket 24]
     ((s.takeFirst (fun t => decide (t.sect.type = 4))).map (·.1)) = some (cricket 24) ∧ s.paired = true ∧
      s.fromPartner 4 (cricket 24) = true ∧ s.pair.lastSeq ≠ some 1 ∧ leNat (((cricket 24).sect.payload.drop 8).take 4) = 24 ∧
      sdiff ({ s with eng := { tick := 35 } } : State).scnt 24 < 12 ∧ 12 ≤ sdiff (s.setReg A.TIM_SCNT 36).scnt 24) ∧
    ((withTaken (member 2 1 { lastSeq := some 1 } []) [cricket 24]).pair.lastSeq = some 1) ∧
    (let s := member 1 3 { misses := 2 } []; s.paired = true ∧ s.scnt % 12 = 0 ∧ (s.scnt + 2 ^ 32 - 12) % 2 ^ 32 ∉ s.pair.came ∧
      s.pair.misses = 2) ∧
    (∃ s : State, s.fget F.RED_STAT_STATE = 1 ∧ s.fget F.RED_CFG_ROLE = 2 ∧ 2 * s.ticksPerSecond ≤ s.pair.entered ∧
      2 * s.ticksPerSecond ≤ s.pair.sinceCricket) ∧
    (∃ s : State, s.held .eng = false ∧ s.fget F.RED_STAT_STATE = 5 ∧ s.fon F.RED_CFG_AUTO_REJOIN = true ∧
      s.ticksPerSecond ≤ s.pair.calm ∧ s.fget F.RED_STAT_REASON ≠ 4 ∧
      (s.pair.fails.filter (fun u => decide (s.eng.tick < u + 600 * s.ticksPerSecond))).length = 2) ∧
    (let s := member 1 3 { handback := true } [(F.RED_STAT_LEADER, 1)]; s.fget F.RED_STAT_STATE = 3 ∧ s.fon F.RED_STAT_LEADER = true ∧
      s.pair.handback = true ∧ s.scnt % 12 = 0) ∧
    (let s := member 2 3 {} []; s.fget F.RED_STAT_STATE = 3 ∧ s.fon F.RED_STAT_LEADER = false ∧ s.scnt % 12 = 0) ∧
    (∃ s : State, s.fget F.RED_STAT_STATE = 2 ∧ max 1 (s.fget F.RED_LIMITS_TIMEOUT) * s.ticksPerSecond ≤ s.pair.entered) :=
  ⟨by decide, by decide, by decide, by decide, ⟨member 2 1 { entered := 10 ^ 6, sinceCricket := 10 ^ 6 } [], by decide⟩,
    ⟨member 1 5 { calm := 10 ^ 6, fails := [0, 0] } [(F.RED_CFG_AUTO_REJOIN, 1)], by decide⟩, by decide, by decide,
    ⟨member 1 2 { entered := 10 ^ 9 } [], by decide⟩⟩

/-- A member in state `st` whose own hash of the tick to compare is 7, the partner's `h`. -/
def hashed (st : Nat) (h : Nat) (faults run : Nat) : State :=
  let s := member 1 st { faults := faults, run := run } [(F.RED_TIMING_JOIN_RUN, 1)]
  let t := (s.scnt + 2 ^ 32 - s.hlat) % 2 ^ 32
  { s with eng := { hashes := [(t, 7)] }, pair := { s.pair with hashes := [(t, h)] } }

/-- What the comparison sees. -/
def seen (s : State) : Option Nat × Option Nat :=
  let t := (s.scnt + 2 ^ 32 - s.hlat) % 2 ^ 32
  let u := s.takeMirror
  (u.hashOf t, (u.pair.hashes.find? (fun h => decide (h.1 = t))).map (·.2))

theorem witness_hashCompare :
    (live.mirrors = false) ∧ (let s := member 1 3 {} []; s.mirrors = true ∧ (seen s).1 = none) ∧
    (let s := hashed 2 8 0 0; s.mirrors = true ∧ seen s = (some 7, some 8) ∧ s.pairState = 2) ∧
    (let s := hashed 2 7 0 0; seen s = (some 7, some 7) ∧ max 1 (s.fget F.RED_TIMING_JOIN_RUN) ≤ s.pair.run + 1) ∧
    (let s := (hashed 2 7 0 0).fset F.RED_TIMING_JOIN_RUN 2; s.pair.run + 1 < max 1 (s.fget F.RED_TIMING_JOIN_RUN)) ∧
    (let s := hashed 3 7 0 0; s.pairState ≠ 2 ∧ seen s = (some 7, some 7)) ∧
    (let s := hashed 3 8 1 0; seen s = (some 7, some 8) ∧ s.pair.faults % 2 = 1) ∧
    (let s := hashed 3 8 0 0; seen s = (some 7, some 8) ∧ s.pair.faults % 2 = 0 ∧ s.fget F.RED_STAT_PSTATE ≠ 2) ∧
    (let s := (hashed 3 8 0 0).fset F.RED_STAT_PSTATE 2; seen s = (some 7, some 8) ∧ s.pairState = 3 ∧ s.fget F.RED_STAT_PSTATE = 2) ∧
    (let s := { hashed 3 8 0 0 with pair := {} }; seen s = (some 7, none)) :=
  ⟨by decide, by decide, by decide, by decide, by decide, by decide, by decide, by decide, by decide, by decide⟩

/-- A leader whose firmware runs. -/
def leads (l : List (Field × Nat)) : State := member 1 3 { faults := 0 } ([(F.RED_STAT_LEADER, 1), (F.HIF_FW_STAT_STATE, 4)] ++ l)

/-- A follower in state `st` with record `r`. -/
def follows (st : Nat) (r : MirrorRec) : State := member 2 st { incoming := [(9, r)] } [(F.HIF_FW_STAT_STATE, 4)]

/-- A record of kind `k` with words. -/
def recOf (k : Nat) (words : List Nat) : MirrorRec := ⟨k, 0, words⟩

theorem witness_PairsCompareHashesAndMirrorRecords :
    (let s := leads []; s.mirrorLeader = true ∧ s.fwReady = true ∧ s.held .eng = false) ∧ (live.mirrorLeader = false) ∧
    (let s := leads [(F.RED_TWIN_READY, 1), (F.RED_STAT_PSTATE, 2)]; s.mirrorLeader = true ∧ s.fon F.RED_TWIN_READY = true ∧
      bit s.pair.faults 7 = false ∧ s.fget F.RED_STAT_PSTATE = 2 ∧ s.slotBusy = false) ∧
    (let s := follows 2 (recOf 5 [1, 2]); s.mirrorLeader = false ∧
      s.takeMirror.pair.incoming.find? (fun r => decide (r.2.kind = 5)) = some (9, recOf 5 [1, 2]) ∧ s.pairState = 2) ∧
    (let s := follows 3 (recOf 5 [1, 2]); s.pairState ≠ 2) ∧
    (let s := { leads [(F.ENG_SLOT_STAT_STATE 0, 3)] with cores := [(0, core0)] }; ((s.taskOn 0 0).map (·.size)) = some 256) ∧
    (let s := { follows 2 (recOf 6 [1, 2]) with cores := [(0, core0)] };
      s.takeMirror.pair.incoming.find? (fun r => decide (r.2.kind = 6)) = some (9, recOf 6 [1, 2]) ∧ (s.taskOn 0 0).isSome = true) :=
  ⟨by decide, by decide, by decide, by decide, by decide, by decide, by decide⟩

theorem test_third_miss_makes_the_secondary_lead :
    ((left (exec .cricketMissed (member 2 3 { misses := 2 } []))).fget F.RED_STAT_STATE,
      (left (exec .cricketMissed (member 2 3 { misses := 2 } []))).fget F.RED_STAT_LEADER) = (4, 1) := by decide +kernel
theorem test_hash_divergence_is_counted : (left (exec .hashCompare (hashed 3 8 0 0))).reg A.RED_DIVERGE_CNT = 1 := by decide +kernel
theorem test_region_record_writes_the_follower :
    ((left (exec (.regionRecord 0 0 0 1) { follows 2 (recOf 6 [1, 2]) with cores := [(0, core0)] })).localWord 0 2) = 2 := by decide +kernel

/-! ### Resets, clocks and supplies -/

/-- `live` with reset state `r`. -/
def liveRst (r : RstSt) (l : List (Field × Nat)) : State := { liveWith l with rst := r }

theorem witness_ResetSourcesReachTheirDomains :
    (∀ n ∈ [1, 2, 3, 8], bit live.rst.level n = false) ∧
    (∃ s : State, ∀ n ∈ [1, 2, 3, 8], bit s.rst.level n = true) ∧
    (∃ s : State, s.rst.quiesce = [(9, 0xC8)]) ∧
    (∃ s : State, s.rst.quiesce = [(16, 8)] ∧ 8 &&& s.fget F.RST_SOFT_HOLD = 0) ∧
    (∃ s : State, s.rst.quiesce = [(16, 8)] ∧ 8 &&& s.fget F.RST_SOFT_HOLD ≠ 0) ∧ live.rst.quiesce = [] ∧
    (∃ s : State, s.held .aon = true) ∧ live.held .aon = false ∧ (∀ clock ∈ [1, 2, 3], live.clockOk clock = true) ∧
    (∀ clock ∈ [0, 1, 2, 3], ({ live with rst := {} } : State).clockOk clock = false) ∧ (live.clockOk 1 = true ∧ live.held .clk = false) ∧
    (live.held .mem = false ∧ State.reset.held .mem = true) :=
  ⟨by decide, ⟨liveRst { level := 0x10E } [], by decide⟩, ⟨liveRst { quiesce := [(9, 0xC8)] } [], by decide⟩,
    ⟨liveRst { quiesce := [(16, 8)] } [(F.RST_SOFT_HOLD, 0)], by decide⟩,
    ⟨liveRst { quiesce := [(16, 8)] } [(F.RST_SOFT_HOLD, 8)], by decide⟩,
    by decide, ⟨liveWith [(F.RST_DOMAIN_HELD, 1)], by decide⟩, by decide, by decide, by decide, by decide, by decide⟩

theorem witness_PowerOnReleaseAndSuppliesAreActedOn :
    (∀ d ∈ domains, live.eligible d = false) ∧
    (let s := liveRst { clocks := 15, hold := 0 } [(F.RST_DOMAIN_HELD, 4)];
      domains = [.aon, .clk] ++ .mem :: [.ctl, .hif, .lnk, .eng, .apt] ∧ s.eligible .mem = true ∧
      s.eligible .aon = false ∧ s.eligible .clk = false) ∧
    (liveRst { clocks := 15, hold := 0, i2cPins := 3 } [(F.RST_DOMAIN_HELD, 255)]).eligible .aon = true ∧
    (let s := liveRst { clocks := 15, hold := 0 } [(F.RST_DOMAIN_HELD, 128)]; s.eligible .apt = true ∧
      ∀ e ∈ [Dom.aon, .clk, .mem, .ctl, .hif, .lnk, .eng], s.eligible e = false) ∧
    (let s := live; (List.range 8).filter (fun i => bit 0 i && !bit (s.fget F.RST_SUP_STAT_BELOW) i) = [] ∧
      (List.range 8).filter (fun i => bit 0x90 i && !bit (s.fget F.RST_SUP_STAT_BELOW) i) = [4, 7]) ∧
    (let s := liveWith [(F.RST_SUP_CTRL_PFAIL_EN, 1), (F.RST_SUP_CTRL_WARN_MUTE, 0)]; s.fon F.RST_SUP_CTRL_PFAIL_EN = true ∧
      s.fon F.RST_SUP_STAT_PFAIL = false ∧ s.rst.warn = none ∧ s.canonical = true) ∧
    (let s := liveWith [(F.RST_SUP_CTRL_WARN_MUTE, 1)]; s.fon F.RST_SUP_CTRL_WARN_MUTE = true ∧ s.canonical = true) ∧
    (let s := liveRst { clocks := 15, warn := some (3, 0), mute := some (fadeTo none 0 64 |>.getD ⟨0, 0, 0, 0⟩) } [];
      s.rst.warn = some (3, 0) ∧ s.rst.mute.isSome = true ∧ s.canonical = true) ∧
    (live.rst.warn = none ∧ live.rst.mute = none) ∧
    ((-800 : Int) ≤ -400 + -400 ∧ (1250 : Int) + 1250 ≤ 2500 ∧ ¬ ((1250 : Int) + 1251 ≤ 2500) ∧ live.pair.tjHigh = false) :=
  ⟨by decide, by decide, by decide, by decide, by decide, by decide, by decide, by decide, by decide, by decide⟩

theorem test_por_takes_the_strap : (left (exec (.por ⟨63, 2⟩) live)).fget F.RST_STRAP_CODE = 63 := by decide +kernel
theorem test_aon_release_takes_the_i2c_address :
    (left (exec .domainRelease (liveRst { clocks := 15, hold := 0, i2cPins := 3 } [(F.RST_DOMAIN_HELD, 255)]))).rst.i2cAddr = 0b1011011 := by
  decide +kernel
theorem test_release_follows_the_order :
    (left (exec .domainRelease (liveRst { clocks := 15, hold := 0 } [(F.RST_DOMAIN_HELD, 0xC0)]))).fget F.RST_DOMAIN_HELD = 0x80 := by
  decide +kernel
theorem test_supplyWarning_marks_the_rail :
    (left (exec (.supplyWarning 0x80 false) live)).reg A.RST_SUP_STAT &&& 0x80 = 0x80 := by decide +kernel

/-! ### Records, counters, repair, self-test -/

/-- `live` with Loft state `l`. -/
def lofted (l : Loft) (fs : List (Field × Nat)) : State := { liveWith fs with loft := l }

theorem witness_RecordsCountersAndFlushesFollowTheirRules :
    (live.held .mem = false ∧ 0x8000 ≤ (0xFFFE#32).toNat % 65536 ∧ (0xFFFE#32).toNat % 65536 < 0xFFFF ∧ (0x7FFF#32).toNat % 65536 < 0x8000) ∧
    ((lofted { frac := 63 } []).loft.frac = 63 ∧ (lofted { frac := 63 } []).canonical = true ∧ (lofted { frac := 62 } []).loft.frac < 63) ∧
    (live.optime < live.loft.nextMark ∧ ∃ s : State, s.loft.nextMark ≤ s.optime) ∧
    (live.fon F.TST_PERSIST_LOADED = false ∧ live.canonical = true ∧ ∃ s : State, s.fon F.TST_PERSIST_LOADED = true) ∧
    (live.fon F.TST_EVF_STAT_FLUSHING = false) ∧
    (let s := liveWith [(F.TST_EVF_CFG_EN, 1), (F.TST_EVF_STAT_FLUSHING, 1)]; s.flushAble = true ∧ s.fon F.TST_EVF_STAT_FLUSHING = true ∧
      s.tst.prog = none ∧ s.unflushed = 0) ∧
    (let s := (liveWith [(F.TST_EVF_CFG_EN, 1), (F.TST_EVF_STAT_FLUSHING, 1)]).setReg A.TST_LOFT_HEAD 0; s.unflushed = 1 ∧ s.flushCount = 0) ∧
    (let s := ((liveWith [(F.TST_EVF_CFG_EN, 1), (F.TST_EVF_STAT_FLUSHING, 1)]).setReg A.TST_LOFT_HEAD 0).setReg A.TST_EVF_ERASED 4096
     s.unflushed = 1 ∧ s.flushCount = 1) ∧
    (∃ s : State, s.tst.prog = some (1, [0]) ∧ s.held .mem = false ∧ 0 < sdiff 1 (s.reg A.TST_LOFT_FLUSHED).toNat ∧
      0 < sdiff 1 (((s.programByte (s.fget F.TST_EVF_CFG_BASE * 65536 + s.flashPos + 0) 0).setReg A.TST_EVF_WPTR 1).reg
        A.TST_LOFT_FLUSHED).toNat) ∧
    (live.held .aon = false ∧ (liveWith [(F.RST_DOMAIN_HELD, 1)]).held .aon = true) :=
  ⟨by decide, by decide, ⟨by decide, { live with loft := { nextMark := 0 } }, by decide⟩,
    ⟨by decide, by decide, liveWith [(F.TST_PERSIST_LOADED, 1)], by decide⟩, by decide, by decide, by decide, by decide,
    ⟨{ live with tst := { prog := some (1, [0]) } }, by decide +kernel⟩, by decide⟩

/-- A valid repair word: row 3 of Stall `stall` onto spare 1. -/
def rpr (stall : Nat) : W32 := BitVec.ofNat 32 (({ dead := false, row := 3, spare := 1, stall := stall } : RprEntry).word)

theorem witness_RepairsMarchesAndSelfTestsFollowTheirRules :
    (live.held .mem = false ∧ parseRpr 0x7FFFFFFF = none ∧ parseRpr (rpr 95).toNat = some ⟨false, 3, 1, 95⟩ ∧
      parseRpr (rpr 96).toNat = some ⟨false, 3, 1, 96⟩ ∧ live.spareFree 95 1 = true ∧ live.rowMapped 95 3 = false ∧
      live.rprCount + live.tst.copies.length < 126) ∧
    (∃ s : State, s.spareFree 95 1 = false ∧ s.rowMapped 95 3 = true) ∧
    (parseRpr ((rpr 95).toNat + 2 ^ 30) = some ⟨true, 3, 1, 95⟩) ∧ live.tst.copies = [] ∧
    (Tbl.get live.weevil.held false 11 = false ∧ live.rprCount < 126) ∧
    (let s := { liveWith [(F.MEM_WV_CTRL_EN, 1)] with weevil := { pos := [(11, 4159)] } }; s.wvPos 11 < 4160 ∧ s.wvOn = true ∧
      Tbl.get s.weevil.held false 11 = false ∧ s.underBist 11 = false ∧ 512 ≤ s.wvPos 11 % 520 ∧
      ((s.record 0x303 95 [0, 0]).fset F.MEM_WV_STAT_FAIL 1).spareUsed 95 3 = false) ∧
    ((liveWith [(F.MEM_WV_CTRL_EN, 0)]).wvOn = false) ∧
    (bit (0xF0#32).toNat 4 = true ∧ live.tst.cur = none ∧ (live.writePlain A.TST_CTRL 0x18).fget F.TST_CTRL_GROUPS = 8 ∧
      bit (0x18#32).toNat 4 = true ∧ live.canonical = true) ∧
    (let o : GroupObs := ⟨[], [], [2, 1, 1, 1, 1]⟩; let s := { live with tst := { cur := some 4 } }; s.tst.cur = some 4 ∧
      o.checks = [2, 1, 1, 1, 1]) ∧
    (let o : GroupObs := ⟨[], [], []⟩; let s := { live with tst := { cur := some 3 } }; s.tst.cur = some 3 ∧ (s.reportGroup 3 o).2.1 = 0) :=
  ⟨by decide, ⟨{ live with tst := { copies := [⟨95, 3, 1, 2⟩] } }, by decide⟩, by decide, by decide, by decide, by decide +kernel, by decide,
    by decide +kernel, by decide, by decide⟩

theorem test_repairAdd_starts_a_copy : (left (exec (.repairAdd (rpr 95)) live)).tst.copies = [⟨95, 3, 1, 2⟩] := by decide +kernel
theorem test_repairAdd_counts_a_bad_stall : (left (exec (.repairAdd (rpr 96)) live)).fget F.TST_RPR_STAT_BAD = 1 := by decide +kernel
theorem test_backupWrite_is_marked_valid : (left (exec (.backupWrite 7 5) live)).fget F.RST_TACK_STAT_BKP_VALID = 128 := by decide +kernel
theorem test_tack_data_moves_its_pointer : (left (exec (.tackDataAccess true 0xAABBCCDD) live)).fget F.RST_TACK_PTR_OFFSET = 4 := by decide +kernel

/-! ### Noise, adaptive writes, the tick -/

/-- `live` with zone position 511 as `z`. -/
def zoned (z : ZoneSt) (l : List (Field × Nat)) : State := (liveWith l).setZone 511 z

/-- An estimator's task of slot 0 that began its period at tick 0, or the suppressor's. -/
def listener (kind : Nat) : Core := { tasks := [{ task0 with kind := kind, period := some 0 }] }

/-- Slot 0 with a node whose parameter block's first words are `w`, and its task. -/
def listening (kind : Nat) (w : List (Nat × W32)) (e : Nat) (l : List (Field × Nat)) : State :=
  ({ liveWith ([(F.ENG_SLOT_STAT_STATE 0, 3)] ++ l) with cores := [(31, listener kind)], eng := { tick := e } } : State).setSlot 0
    { prog := { nodes := [nodeOf T.zone] }, act := w.map (fun x => (wkey 0 x.1, x.2)) }

/-- A record with noise level 5. -/
def est0 : EstResult := ⟨200, 9, 600, some 5, false, false, false, true, 0, 0, []⟩

theorem witness_noiseDelivery :
    live.held .eng = false ∧
    (let s := zoned { queued := [(0, some 9), (2, none)] } []; let zs := s.zone 511
     zs.queued ≠ [] ∧ zs.queued.filter (fun q => decide (q.1 ≤ s.eng.tick + 1)) = [(0, some 9)]) ∧
    (let s := zoned { queued := [(2, some 9)] } []; (s.zone 511).queued.filter (fun q => decide (q.1 ≤ s.eng.tick + 1)) = []) ∧
    (let s := zoned {} [(F.ANA_POL_W0_FORCE_N 511, 1)]; (s.zone 511).queued = [] ∧ s.fon (F.ANA_POL_W0_FORCE_N 511) = true ∧
      s.cores.any (fun c => c.2.tasks.any (fun tk => decide (tk.kind = 2) && (s.servedZones tk).contains 511)) = false) ∧
    ((zoned {} []).fon (F.ANA_POL_W0_FORCE_N 511) = false) ∧
    (let s := listening 2 [] 0 []; s.canonical = true ∧ 0 < (s.slot 0).prog.nodes.length ∧ s.slotWorks 0 = true ∧
      ((s.slot 0).prog.node 0).type = T.zone ∧ ((s.slot 0).prog.node 0).position = 0) :=
  ⟨by decide, by decide, by decide, by decide, by decide, by decide⟩

theorem witness_estimatorPeriodEnd :
    (∃ (s : State) (c : Nat) (t : Task), s.held .eng = false ∧ s.findTask 0 0 = some (c, t) ∧
      t.period = some 0 ∧ t.kind = 2 ∧ t.faulted = false ∧ periodEnd 0 s.periodTicks s.eng.tick = some (s.periodTicks - 1) ∧
      (s.servedZones t).findIdx? (fun z => decide (z = 511)) = some 0 ∧ (s.zone 511).lastEnd ≠ some (s.periodTicks - 1) ∧
      s.canonical = true) ∧
    State.reset.findTask 0 0 = none :=
  ⟨⟨listening 2 [(0, 1), (1, 511)] (live.periodTicks - 1) [], 31, { task0 with kind := 2, period := some 0 }, by decide +kernel⟩,
    by decide⟩

/-- `live` with band 6 of zone 511 owned. -/
def eqOwner : State := (liveWith [(F.ANA_CTRL_ADAPT_EN, 1)]).setZone 511 { eqOwned := [(6, 0, 0)] }

theorem witness_adaptiveSteps :
    (∃ w : AdaptW, w.zone < 512 ∧ w.band < 7 ∧ (liveWith [(F.HIF_FW_STAT_STATE, 4)]).fwReady = true ∧ live.mirrorFollower = false) ∧
    (live.fwReady = false) ∧ ((live.zone 511).result = none) ∧
    (let s := zoned { result := some (est0, 0) } [(F.HIF_FW_STAT_STATE, 4), (F.ANA_CTRL_ADAPT_EN, 1), (F.ANA_RES_W3_VALID 511, 1),
        (F.ANA_POL_W0_CONF_MIN 511, 200)]
     (s.zone 511).result = some (est0, 0) ∧ s.fwReady = true ∧ s.mirrorFollower = false ∧ s.fon F.ANA_CTRL_ADAPT_EN = true ∧
      s.fon (F.ANA_RES_W3_VALID 511) = true ∧ s.fget (F.ANA_POL_W0_CONF_MIN 511) ≤ est0.conf % 256 ∧ (s.zone 511).stepAt = none) ∧
    (∃ s : State, s.fon F.ANA_CTRL_ADAPT_EN = false) ∧
    (let s := zoned { gainOwned := true } [(F.ANA_CTRL_ADAPT_EN, 1), (F.ANA_POL_W1_TARGET 511, 700), (⟨A.ANA_POL_W2 511, 31, 0⟩, 1),
        (⟨A.ANA_LIM_W1 511, 31, 0⟩, 100)]
     let w : AdaptW := ⟨511, false, 0, 0, 100, 1⟩
     (s.zone 511).gainOwned = true ∧ 600 + s.fget (F.ANA_POL_W1_HYST 511) < s.fget (F.ANA_POL_W1_TARGET 511) ∧
      0 < s.regInt (A.ANA_POL_W2 511) ∧ s.regInt (A.ANA_LIM_W0 511) ≤ w.value.toInt ∧ w.value.toInt ≤ s.regInt (A.ANA_LIM_W1 511) ∧
      ¬ (101 ≤ s.regInt (A.ANA_LIM_W1 511)) ∧ 1 ≤ sdiff w.tick.toNat s.scnt ∧ sdiff 0 s.scnt < 1) ∧
    (let s := eqOwner; (∃ b ∈ (s.zone 511).eqOwned, b.1 = 6) ∧ (s.eqRange 511 6).1 ≤ 0 ∧ 0 ≤ (s.eqRange 511 6).2 ∧
      (coefAt (fun i => (s.eqEntry 6 0).getD i 0) 0).ok = true) ∧
    (live.held .ctl = false ∧ live.canonical = true ∧ (live.writePlain A.ANA_CTRL 0).fon F.ANA_CTRL_LOCK = false ∧
      live.fon F.ANA_CTRL_LOCK = false ∧ (live.writePlain A.ANA_CTRL 1).fon F.ANA_CTRL_LOCK = true ∧
      (live.writePlain A.ANA_CTRL 1).violations = []) ∧
    (∃ s : State, s.held .ctl = false ∧ s.fon F.ANA_CTRL_LOCK = true ∧ (s.writePlain A.ANA_CTRL 1).fon F.ANA_CTRL_LOCK = true) ∧
    (∃ a : AdaptPend, decide (a.due ≤ live.eng.tick + 1 ∧ a.w.zone = 511) = true ∧ live.zoneHeld 511 = false) :=
  ⟨⟨⟨511, false, 6, 0, 0, 0⟩, by decide⟩, by decide, by decide, by decide, ⟨live, by decide⟩, by decide, by decide +kernel, by decide +kernel,
    ⟨liveWith [(F.ANA_CTRL_LOCK, 1)], by decide⟩, ⟨⟨⟨511, false, 6, 0, 0, 0⟩, 1⟩, by decide⟩⟩

/-- A notch 3 dB deep. -/
def notch (freq : Nat) : Notch := { freq := freq, depth := -196608, quiet := 0 }

/-- A suppressor's task whose channel 0 has had 256 samples. -/
def howling (w1 : W32) (x : HowlCh) : State :=
  listening 3 [(0, 1), (1, w1), (2, 0xFFFA0000)] 0 [] |>.setVendor 31 { task0 with kind := 3, period := some 0 } { howl := [(0, x)] }

theorem witness_howlAnalysis :
    (let s := howling 3 { count := 256, seen := [(1000, 300000), (1000, 290000)] }
     let get := (s.slot 0).word ((s.slot 0).prog.node 0)
     let ch := Tbl.get (s.vendorSt 31 { task0 with kind := 3, period := some 0 }).howl {} 0
     s.findTask 0 0 = some (31, { task0 with kind := 3, period := some 0 }) ∧ 0 < (get 0).toNat % 32 ∧ 256 ≤ ch.count ∧
      0 < (get 1).toNat % 16 ∧ (get 2).toInt ≤ 0 ∧ ch.seen.take 2 = [(1000, 300000), (1000, 290000)] ∧
      sameNotch 1000 1000 = true ∧ ch.notches.length < (get 1).toNat % 16) ∧
    (let s := howling 0 { count := 256 }; ((s.slot 0).word ((s.slot 0).prog.node 0) 1).toNat % 16 = 0) ∧
    (∃ m ∈ ageNotches 8000 0 (some 1000) [notch 1000], sameNotch 1000 m.freq = true) ∧
    ((ageNotches 8000 0 (some 1000) [notch 2000, notch 4000, notch 8000]).length = (3#32).toNat % 16 ∧
      ¬ ∃ m ∈ ageNotches 8000 0 (some 1000) [notch 2000, notch 4000, notch 8000], sameNotch 1000 m.freq = true) :=
  ⟨by decide +kernel, by decide +kernel, by decide +kernel, by decide +kernel⟩

theorem witness_TicksCountAndOverrunsStop :
    (State.reset.held .clk = true ∧ live.held .clk = false ∧ live.clockOk 2 = true ∧ live.canonical = true) ∧
    (live.tphase < 5 ∧ 5 ≤ (live.setReg A.TIM_TPHASE 5).tphase) ∧
    (let s := { live with cores := [(31, { tasks := [task0] })] }; s.up .eng = true ∧ (s.core 31).running = none ∧
      (s.core 31).inflight = [] ∧ s.canonical = true ∧ ∃ t ∈ (s.core 31).tasks, t.run = TaskRun.waiting) ∧
    ((live.core 0).running ≠ none) ∧ ((live.core 31).running = none ∧ ∀ t ∈ (live.core 31).tasks, t.run ≠ TaskRun.waiting) :=
  ⟨by decide, by decide, by decide, by decide, by decide⟩

theorem test_tick_counts : (live.setReg A.TIM_SCNT 0xFFFFFFFF).countTick.scnt = 0 ∧ live.countTick.ecnt = 25600 := by decide +kernel
theorem test_tick_needs_eclk : exec (.tick ⟨0, [], [], [], [], 0⟩) State.reset = .next State.reset := rfl

/-! ### Fixed stages -/

/-- A biquad that passes its input: B0 is one in Q28. -/
def unityBq (w : Nat) : W32 := if w = 0 then 0x10000000 else 0

theorem test_biquad_passes :
    (({ st := {}, gains := [] } : Run).biq unityBq 0 0 (-5)).1 = -5 := by decide
theorem test_level_of_full_scale : log2lv (2 ^ 31 - 1) = 0 ∧ log2lv 1 = -2031616 + 0 ∧ log2lv 0 = -2031616 := by decide
theorem witness_BiquadsAndLevelsAreExact :
    (∃ r : Run, Tbl.rising r.st.bqs = true) ∧ (2 ^ 30 ≤ 2 ^ 31 - 1 ∧ 2 ^ 31 - 1 < 2 ^ (30 + 1)) ∧
    (2 ^ 14 * 65536 ≤ (2 ^ 31 - 1 : Int) * 2 ^ (30 - 30) - 2 ^ 30 + 2 ^ 13 ∧
      (2 ^ 31 - 1 : Int) * 2 ^ (30 - 30) - 2 ^ 30 + 2 ^ 13 < 2 ^ 14 * (65536 + 1)) ∧
    (2 ^ 14 * 0 ≤ ((1 : Nat) : Int) * 2 ^ (30 - 0) - 2 ^ 30 + 2 ^ 13 ∧ ((1 : Nat) : Int) * 2 ^ (30 - 0) - 2 ^ 30 + 2 ^ 13 < 2 ^ 14 * (0 + 1)) :=
  ⟨⟨{ st := {}, gains := [] }, by decide⟩, by decide, by decide, by decide⟩

/-! ### Registers, reset, steps -/

theorem witness_RegisterBitsFollowTheirAccessTypes :
    (∃ d, live.canonical = true ∧ regDef (A.RST_BKP 7) = some d ∧ live.held d.dom = false ∧ ∃ f ∈ d.fields, f.acc = .rw ∧ f.hi = 31) ∧
    (∃ d, regDef A.GLB_SCRATCH = some d ∧ live.held .aon = false ∧ live.quiescing .aon = false) ∧
    (∃ d, regDef A.TIM_SCNT = some d ∧ State.reset.held d.dom = true ∧ ∃ f ∈ d.fields, f.acc = .ro) :=
  ⟨⟨_, by decide, rfl, by decide, by decide⟩, ⟨_, rfl, by decide⟩, ⟨_, rfl, by decide, by decide⟩⟩

theorem test_scratch_reads_back :
    (left (exec (.readClear ⟨18, 0, A.GLB_SCRATCH, 4⟩) (left (exec (.registerWrite ⟨18, 0, A.GLB_SCRATCH, 4⟩ 0xCAFE0001) live)))).reply =
      ⟨false, 0xCAFE0001⟩ := by decide +kernel
theorem test_reset_identity : State.reset.reg A.GLB_ID = 0x5E7A0600#32 := by decide

theorem witness_StepsRunTheFrontCommand :
    ({ live with pending := [.idcode] } : State).pending = .idcode :: [] ∧ live.pending = [] := ⟨rfl, rfl⟩
theorem test_step_idles_on_an_empty_queue : step live = .next live := rfl
theorem test_step_takes_the_front_command :
    (left (step { live with pending := [.idcode, .highz] })).pending = [.highz] ∧
      (left (step { live with pending := [.idcode, .highz] })).jtag.ir = .idcode := by decide

theorem witness_EveryStepKeepsTheBlockCanonical :
    ∃ t, live.canonical = true ∧ step live = .next t := ⟨live, by decide, rfl⟩

theorem witness_ScarabWordsDecodeToTheirInstruction :
    (∃ i core w, Instr.wf i = true ∧ encodeScarab i = some (core, w)) ∧ (∃ core w i, decodeScarab core w = some i) :=
  ⟨⟨.add 31 ⟨31, 1, 2, 0⟩, 31, _, by decide, rfl⟩, 5, 0b000001_00011_00001_00010_00000000000#32, _, rfl⟩

end Sys2Proof.Tests
end

section
/-! PROOF. The arithmetic of the fixed stages: what rounding and narrowing give, the most significant 1, levels (R68, R78, R81). -/

namespace Sys2Proof.Arith

/-! ### Narrowing (R68) -/

/-- `rnd v (k + 1)` is the one integer whose interval of `2 ^ (k + 1)` holds `v` plus half an output step. -/
theorem rnd_succ_eq_iff (v n : Int) (k : Nat) :
    rnd v (k + 1) = n ↔ 2 ^ (k + 1) * n ≤ v + 2 ^ k ∧ v + 2 ^ k < 2 ^ (k + 1) * (n + 1) := by
  have hpos : (0 : Int) < 2 ^ (k + 1) := by positivity
  rw [rnd, Int.ediv_eq_iff_of_pos hpos, mul_comm n, mul_add_one]

theorem sat32_of_lt {v : Int} (h : v < -(2 ^ 31)) : sat32 v = -(2 ^ 31) := by
  unfold sat32 satN; omega

theorem sat32_of_ge {v : Int} (h : 2 ^ 31 ≤ v) : sat32 v = 2 ^ 31 - 1 := by
  unfold sat32 satN; omega

theorem sat32_of_mem {v : Int} (hlo : -(2 ^ 31) ≤ v) (hhi : v < 2 ^ 31) : sat32 v = v := by
  unfold sat32 satN; omega

/-! ### Levels (R81) -/

theorem msb_eq_of_bounds {m e : Nat} (hlo : 2 ^ e ≤ m) (hhi : m < 2 ^ (e + 1)) : msb m = e :=
  (Nat.log2_eq_iff (Nat.ne_zero_of_lt (Nat.lt_of_lt_of_le (Nat.two_pow_pos e) hlo))).mpr ⟨hlo, hhi⟩

theorem log2lv_zero : log2lv 0 = -2031616 := rfl

/-- R81 of a magnitude whose most significant 1 stands at `e` and whose fraction rounds to a whole octave. -/
theorem log2lv_of_carry {m e : Nat} (hm : 0 < m) (he : msb m = e)
    (hf : rnd ((m : Int) * 2 ^ (30 - e) - 2 ^ 30) 14 = 65536) : log2lv m = ((e : Int) + 1 - 31) * 65536 := by
  have hpos : ¬ (m : Int) ≤ 0 := by omega
  have hcorr : rnd 0 21 = 0 := rfl
  simp only [log2lv, hpos, if_false, Int.toNat_natCast, he, hf, if_true, mul_zero, zero_mul, hcorr, add_zero]

/-- R81 of a magnitude whose most significant 1 stands at `e` and whose fraction rounds to `f` of an octave. -/
theorem log2lv_of_fraction {m e : Nat} {f : Int} (hm : 0 < m) (he : msb m = e)
    (hf : rnd ((m : Int) * 2 ^ (30 - e) - 2 ^ 30) 14 = f) (hne : f ≠ 65536) :
    log2lv m = ((e : Int) - 31) * 65536 + f + rnd (11 * f * (65536 - f)) 21 := by
  have hpos : ¬ (m : Int) ≤ 0 := by omega
  simp only [log2lv, hpos, if_false, Int.toNat_natCast, he, hf, hne]

end Sys2Proof.Arith

namespace Sys2Proof.Machine

open Sys2Proof.Arith

/-! ### Biquads of a node (R78) -/

/-- The exact sum of a biquad whose words begin at `w`, before its one rounding. -/
def biquadSum (act : Nat → W32) (w : Nat) (h : Bq) (x : Int) : Int :=
  (act w).toInt * x + (act (w + 1)).toInt * h.x1 + (act (w + 2)).toInt * h.x2 - (act (w + 3)).toInt * h.y1 -
    (act (w + 4)).toInt * h.y2

theorem Run.biq_output (r : Run) (act : Nat → W32) (key w : Nat) (x : Int) :
    (r.biq act key w x).1 = sat32 (rnd (biquadSum act w (Tbl.get r.st.bqs {} key) x) 28) := rfl

/-- What a biquad writes into the table of histories, under its own key alone: the new input and the narrowed output, each before
the one it follows. -/
theorem Run.biq_bqs (r : Run) (act : Nat → W32) (key w : Nat) (x : Int) :
    (r.biq act key w x).2.st.bqs = Tbl.set r.st.bqs {} key
      { x1 := x, x2 := (Tbl.get r.st.bqs {} key).x1, y1 := (r.biq act key w x).1, y2 := (Tbl.get r.st.bqs {} key).y1 } := rfl

theorem Run.biq_history (r : Run) (act : Nat → W32) (key w : Nat) (x : Int) (hr : Tbl.rising r.st.bqs = true) :
    Tbl.get (r.biq act key w x).2.st.bqs {} key =
      { x1 := x, x2 := (Tbl.get r.st.bqs {} key).x1, y1 := (r.biq act key w x).1, y2 := (Tbl.get r.st.bqs {} key).y1 } := by
  rw [r.biq_bqs, Tbl.get_set_same _ _ _ _ hr]

theorem Run.biq_history_other (r : Run) (act : Nat → W32) {key k : Nat} (w : Nat) (x : Int)
    (hr : Tbl.rising r.st.bqs = true) (hk : k ≠ key) :
    Tbl.get (r.biq act key w x).2.st.bqs {} k = Tbl.get r.st.bqs {} k := by
  rw [r.biq_bqs, Tbl.get_set_other _ _ _ _ _ _ hk hr]

/-- Settles O55: the output narrows the sum's one rounding, which is the integer of its interval, and the histories are read back
from the table; a level follows the carry of R81's fraction. -/
theorem biquadsAndLevelsAreExact : Obligations.BiquadsAndLevelsAreExact := by
  unfold Obligations.BiquadsAndLevelsAreExact
  refine ⟨?biquad, log2lv_zero, ?level⟩
  case biquad =>
    intro act r key w x hr h v o h'
    have hout : o.1 = sat32 (rnd v 28) := r.biq_output act key w x
    have hhist : h' = { x1 := x, x2 := h.x1, y1 := o.1, y2 := h.y1 } := r.biq_history act key w x hr
    exact ⟨rnd v 28, (rnd_succ_eq_iff v _ 27).mp rfl, fun hlow => hout.trans (sat32_of_lt hlow),
      fun hhigh => hout.trans (sat32_of_ge hhigh), fun hlo hhi => hout.trans (sat32_of_mem hlo hhi),
      congrArg Bq.x1 hhist, congrArg Bq.x2 hhist, congrArg Bq.y1 hhist, congrArg Bq.y2 hhist,
      fun k hk => r.biq_history_other act w x hr hk⟩
  case level =>
    intro m e f _ hlo hhi hflo hfhi
    have hm : 0 < m := Nat.lt_of_lt_of_le (Nat.two_pow_pos e) hlo
    have he : msb m = e := msb_eq_of_bounds hlo hhi
    have hf : rnd ((m : Int) * 2 ^ (30 - e) - 2 ^ 30) 14 = f := (rnd_succ_eq_iff _ f 13).mpr ⟨hflo, hfhi⟩
    refine ⟨fun hcarry => log2lv_of_carry hm he (hf.trans hcarry), fun hne => ?_⟩
    obtain ⟨hclo, hchi⟩ := (rnd_succ_eq_iff (11 * f * (65536 - f)) _ 20).mp rfl
    exact ⟨_, hclo, hchi, log2lv_of_fraction hm he hf hne⟩

end Sys2Proof.Machine
end

section
/-! PROOF. The dispatch of a task: what a table of few writes reads as, the entry state of a core, the core that a dispatch
leaves (R120, R121). -/

namespace Sys2Proof

/-- A key read after one write. -/
theorem Tbl.get_set {α : Type} [DecidableEq α] (d v : α) (k j : Nat) (t : Tbl α) (ht : Tbl.rising t = true) :
    Tbl.get (Tbl.set t d k v) d j = if j = k then v else Tbl.get t d j := by
  split
  case isTrue h => rw [h, Tbl.get_set_same d v k t ht]
  case isFalse h => exact Tbl.get_set_other d d v k j t h ht

/-- A key read after a list of writes holds the last value written at it. -/
theorem Tbl.get_foldl_set {α β : Type} [DecidableEq α] (d : α) (key : β → Nat) (val : β → α) (j : Nat) (ws : List β)
    (t : Tbl α) (ht : Tbl.rising t = true) :
    Tbl.get (ws.foldl (fun t w => Tbl.set t d (key w) (val w)) t) d j =
      ws.foldl (fun v w => if j = key w then val w else v) (Tbl.get t d j) := by
  induction ws generalizing t with
  | nil => rfl
  | cons w ws ih => rw [List.foldl_cons, List.foldl_cons, ih _ (Tbl.rising_set d _ _ t ht), Tbl.get_set d _ _ j t ht]

end Sys2Proof

namespace Sys2Proof.Machine

open Sys2Proof.Arith

/-! ### The entry registers (R121) -/

section
variable (c : Core) (tk : Task) (q : Nat) (scnt : W32) (xf : Bool) (msgs : Nat)

/-- The data registers at entry. -/
theorem Core.entryState_rd (r : Nat) : (c.entryState tk q scnt xf msgs).rd r =
    if r = 4 then BitVec.ofNat 32 msgs
    else if r = 3 then BitVec.ofNat 32 ((if tk.first then 1 else 0) + (if xf then 2 else 0) + (if tk.wasIdle then 4 else 0))
    else if r = 2 then BitVec.ofNat 32 tk.idx
    else if r = 1 then scnt
    else if r = 0 then BitVec.ofNat 32 q else 0 := by
  simp only [Core.rd, Core.entryState, Tbl.get_foldl_set _ _ _ r _ [] rfl]
  simp only [Tbl.get, List.foldl_cons, List.foldl_nil, b2n, mul_ite, mul_one, mul_zero]

theorem Core.entryState_rd_of_gt {r : Nat} (hr : 4 < r) : (c.entryState tk q scnt xf msgs).rd r = 0 := by
  rw [Core.entryState_rd, if_neg (by omega), if_neg (by omega), if_neg (by omega), if_neg (by omega), if_neg (by omega)]

/-- The address registers at entry hold the region and the windows, where these are addresses of local memory (R112). -/
theorem Core.entryState_ra (hbase : tk.base < 2 ^ 14) (hxb : tk.xb < 2 ^ 11) (hyb : tk.yb < 2 ^ 11) (r : Nat) :
    (c.entryState tk q scnt xf msgs).ra r =
      if r = 0 then tk.base else if r = 6 then 0x4000 + tk.xb else if r = 7 then 0x4800 + tk.yb else 0 := by
  have hread : (c.entryState tk q scnt xf msgs).ra r =
      (if r = 7 then BitVec.ofNat 16 (0x4800 + tk.yb) else if r = 6 then BitVec.ofNat 16 (0x4000 + tk.xb)
        else if r = 0 then BitVec.ofNat 16 tk.base else 0).toNat := by
    simp only [Core.ra, Core.entryState, Tbl.get_foldl_set _ _ _ r _ [] rfl]
    rfl
  rw [hread]
  split_ifs <;> bv_omega

end

/-! ### The core that a dispatch leaves (R120) -/

/-- A dispatch changes core `n` alone: it takes the task's entry state, which counts the messages released to the task that now
runs (R144). -/
theorem State.dispatch_eq_setCore (s : State) (n : Nat) (tk : Task) (upsets : List (Nat × MemCheck)) :
    ∃ (c : Core) (msgs : Nat) (tasks : List Task) (dispatched cycle : Nat),
      msgs = ({ c with running := some (tk.slot, tk.idx) } : Core).releasedMsgs.length ∧
      s.dispatch n tk upsets = s.setCore n { c.entryState tk s.tphase (s.reg A.TIM_SCNT) s.eng.xf.isSome msgs with
        tasks := tasks, running := some (tk.slot, tk.idx), dispatched := dispatched, cycle := cycle, upsets := upsets } :=
  ⟨{ s.core n with xin := (s.taskMerges tk).1.foldl (fun t v => Tbl.set t 0 v.1 v.2) (s.core n).xin,
                   mbin := (s.core n).mbin.map (fun m => m.releaseAt tk.slot tk.idx s.scnt) }, _, _, _, _, rfl, rfl⟩

/-- TASK_DISPATCH on an idle core with time left in the tick dispatches the first task that waits. -/
theorem exec_taskDispatch {s : State} {n : Nat} {tk : Task} (upsets : List (Nat × MemCheck)) (heng : s.held .eng = false)
    (hn : n < 32) (hidle : (s.core n).running = none)
    (hnext : (s.core n).tasks.find? (fun t => decide (t.run = .waiting)) = some tk) (hcycle : (s.core n).cycle < 25600) :
    exec (.taskDispatch ⟨n, upsets⟩) s = .next (s.dispatch n tk upsets) := by
  have hacts : ¬ (s.held .eng = true ∨ 32 ≤ n ∨ (s.core n).running.isSome = true) := by simp [heng, hidle, hn]
  show execTaskDispatch ⟨n, upsets⟩ s = _
  simp only [execTaskDispatch, hacts, hnext, Nat.not_le.mpr hcycle, if_false]

/-- Settles O14: TASK_DISPATCH stores one core, which is the entry state but for the task list, the running task and its
cycles; so its registers read as the entry state's, and the frame is that of storing a core. -/
theorem dispatchGivesTheTaskItsEntryRegisters : Obligations.DispatchGivesTheTaskItsEntryRegisters := by
  unfold Obligations.DispatchGivesTheTaskItsEntryRegisters
  intro s n t upsets hcanon heng hn hidle hnext hcycle hbase hxb hyb
  refine ⟨s.dispatch n t upsets, exec_taskDispatch upsets heng hn hidle hnext hcycle, ?_⟩
  obtain ⟨c, msgs, tasks, dispatched, cycle, hmsgs, hdispatch⟩ := s.dispatch_eq_setCore n t upsets
  have hrd := c.entryState_rd t s.tphase (s.reg A.TIM_SCNT) s.eng.xf.isSome msgs
  have hra := c.entryState_ra t s.tphase (s.reg A.TIM_SCNT) s.eng.xf.isSome msgs hbase hxb hyb
  have hhigh (r : Nat) (hr : 4 < r) := c.entryState_rd_of_gt t s.tphase (s.reg A.TIM_SCNT) s.eng.xf.isSome msgs hr
  have hscnt : s.reg A.TIM_SCNT = BitVec.ofNat 32 s.scnt := by
    rw [State.scnt, BitVec.ofNat_toNat, BitVec.setWidth_eq]
  rw [hdispatch, State.core_setCore_same hcanon]
  exact ⟨rfl, rfl, hra, fun _ => ⟨rfl, rfl, rfl, rfl⟩,
    hrd 0, (hrd 1).trans hscnt, hrd 2, hrd 3, (hrd 4).trans (congrArg (BitVec.ofNat 32) hmsgs), hhigh,
    rfl, rfl, rfl, rfl, rfl, rfl, rfl, rfl, rfl,
    fun _ hk => State.core_setCore_other hcanon _ hk, rfl⟩

end Sys2Proof.Machine
end

section
/-! PROOF. What every command keeps: it completes, and the step that runs it keeps the block canonical. -/

namespace Sys2Proof.Machine

/-- Every command completes: each arm of `exec` answers a next state on every path. -/
theorem exec_completes (i : Instr) (s : State) : ∃ t, exec i s = .next t := by
  cases i <;> exact ⟨_, rfl⟩

theorem State.canonical_withPending (s : State) (q : List Instr) : ({ s with pending := q } : State).canonical = s.canonical := rfl

theorem step_of_cons {s : State} {c : Instr} {rest : List Instr} (h : s.pending = c :: rest) :
    step s = exec c { s with pending := rest } := by
  rw [step, h]

theorem step_of_nil {s : State} (h : s.pending = []) : step s = .next s := by
  rw [step, h]

/-- Settles O58: a step looks at nothing but the queue. -/
theorem stepsRunTheFrontCommand : Obligations.StepsRunTheFrontCommand := by
  unfold Obligations.StepsRunTheFrontCommand
  exact fun _ _ _ => ⟨step_of_cons, step_of_nil⟩

/-- Settles O59: each command completes and keeps what `Keeps` says; a step is its front command on the queue's rest. -/
theorem everyStepKeepsTheBlockCanonical : Obligations.EveryStepKeepsTheBlockCanonical := by
  unfold Obligations.EveryStepKeepsTheBlockCanonical
  refine ⟨fun s t hcanon hstep => ?step, fun s i => ?command⟩
  case step =>
    cases hq : s.pending with
    | nil =>
      rw [step_of_nil hq] at hstep
      cases hstep
      exact ⟨hcanon, hq, Nat.le_refl _⟩
    | cons c rest =>
      rw [step_of_cons hq] at hstep
      obtain ⟨hqueue, hfree, hkept⟩ := exec_keeps c _ t hstep
      exact ⟨hkept ((s.canonical_withPending rest).trans hcanon), hqueue, hfree⟩
  case command =>
    obtain ⟨t, ht⟩ := exec_completes i s
    obtain ⟨hqueue, hfree, hkept⟩ := exec_keeps i s t ht
    exact ⟨t, ht, hqueue, hfree, hkept⟩

end Sys2Proof.Machine
end

section
/-! PROOF. The words of Scarab instructions (R123, R124): each format's word holds its opcode and its fields, and every bit of a
word belongs to one of them. -/

namespace Sys2Proof

open BitVec (extractLsb'_append_eq_of_add_le extractLsb'_append_eq_of_le extractLsb'_append_extractLsb'_eq_extractLsb'
  extractLsb'_eq_self)

/-! ### Format R -/

@[simp] theorem RFmt.opcode_word (op : BitVec 6) (f : RFmt) : (f.word op).extractLsb' 26 6 = op := by
  unfold RFmt.word
  iterate 4 rw [extractLsb'_append_eq_of_le (by decide)]
  exact extractLsb'_eq_self

@[simp] theorem RFmt.ofWord_word (op : BitVec 6) (f : RFmt) : RFmt.ofWord (f.word op) = f := by
  cases f
  simp only [RFmt.ofWord, RFmt.word, RFmt.mk.injEq]
  and_intros <;> (repeat rw [extractLsb'_append_eq_of_le (by decide)]) <;>
    rw [extractLsb'_append_eq_of_add_le (by decide), extractLsb'_eq_self]

theorem RFmt.word_ofWord (w : W32) : (RFmt.ofWord w).word (w.extractLsb' 26 6) = w := by
  simp only [RFmt.ofWord, RFmt.word]
  rw [extractLsb'_append_extractLsb'_eq_extractLsb' (show 26 = 21 + 5 from rfl),
    extractLsb'_append_extractLsb'_eq_extractLsb' (show 21 = 16 + 5 from rfl),
    extractLsb'_append_extractLsb'_eq_extractLsb' (show 16 = 11 + 5 from rfl),
    extractLsb'_append_extractLsb'_eq_extractLsb' (show 11 = 0 + 11 from rfl),
    extractLsb'_eq_self]

@[simp] theorem RFmt.word_ofWord_iff (op : BitVec 6) (w : W32) :
    (RFmt.ofWord w).word op = w ↔ (w.extractLsb' 26 6).toNat = op.toNat := by
  constructor <;> intro h
  · rw [← h, RFmt.opcode_word]
  · rw [← BitVec.eq_of_toNat_eq h, RFmt.word_ofWord]

/-! ### Format I -/

@[simp] theorem IFmt.opcode_word (op : BitVec 6) (f : IFmt) : (f.word op).extractLsb' 26 6 = op := by
  unfold IFmt.word
  iterate 3 rw [extractLsb'_append_eq_of_le (by decide)]
  exact extractLsb'_eq_self

@[simp] theorem IFmt.ofWord_word (op : BitVec 6) (f : IFmt) : IFmt.ofWord (f.word op) = f := by
  cases f
  simp only [IFmt.ofWord, IFmt.word, IFmt.mk.injEq]
  and_intros <;> (repeat rw [extractLsb'_append_eq_of_le (by decide)]) <;>
    rw [extractLsb'_append_eq_of_add_le (by decide), extractLsb'_eq_self]

theorem IFmt.word_ofWord (w : W32) : (IFmt.ofWord w).word (w.extractLsb' 26 6) = w := by
  simp only [IFmt.ofWord, IFmt.word]
  rw [extractLsb'_append_extractLsb'_eq_extractLsb' (show 26 = 21 + 5 from rfl),
    extractLsb'_append_extractLsb'_eq_extractLsb' (show 21 = 16 + 5 from rfl),
    extractLsb'_append_extractLsb'_eq_extractLsb' (show 16 = 0 + 16 from rfl),
    extractLsb'_eq_self]

@[simp] theorem IFmt.word_ofWord_iff (op : BitVec 6) (w : W32) :
    (IFmt.ofWord w).word op = w ↔ (w.extractLsb' 26 6).toNat = op.toNat := by
  constructor <;> intro h
  · rw [← h, IFmt.opcode_word]
  · rw [← BitVec.eq_of_toNat_eq h, IFmt.word_ofWord]

/-! ### Format M -/

@[simp] theorem MFmt.opcode_word (op : BitVec 6) (f : MFmt) : (f.word op).extractLsb' 26 6 = op := by
  unfold MFmt.word
  iterate 4 rw [extractLsb'_append_eq_of_le (by decide)]
  exact extractLsb'_eq_self

@[simp] theorem MFmt.ofWord_word (op : BitVec 6) (f : MFmt) : MFmt.ofWord (f.word op) = f := by
  cases f
  simp only [MFmt.ofWord, MFmt.word, MFmt.mk.injEq]
  and_intros <;> (repeat rw [extractLsb'_append_eq_of_le (by decide)]) <;>
    rw [extractLsb'_append_eq_of_add_le (by decide), extractLsb'_eq_self]

theorem MFmt.word_ofWord (w : W32) : (MFmt.ofWord w).word (w.extractLsb' 26 6) = w := by
  simp only [MFmt.ofWord, MFmt.word]
  rw [extractLsb'_append_extractLsb'_eq_extractLsb' (show 26 = 21 + 5 from rfl),
    extractLsb'_append_extractLsb'_eq_extractLsb' (show 21 = 18 + 3 from rfl),
    extractLsb'_append_extractLsb'_eq_extractLsb' (show 18 = 16 + 2 from rfl),
    extractLsb'_append_extractLsb'_eq_extractLsb' (show 16 = 0 + 16 from rfl),
    extractLsb'_eq_self]

@[simp] theorem MFmt.word_ofWord_iff (op : BitVec 6) (w : W32) :
    (MFmt.ofWord w).word op = w ↔ (w.extractLsb' 26 6).toNat = op.toNat := by
  constructor <;> intro h
  · rw [← h, MFmt.opcode_word]
  · rw [← BitVec.eq_of_toNat_eq h, MFmt.word_ofWord]

/-! ### Format X -/

@[simp] theorem XFmt.opcode_word (op : BitVec 6) (f : XFmt) : (f.word op).extractLsb' 26 6 = op := by
  unfold XFmt.word
  iterate 6 rw [extractLsb'_append_eq_of_le (by decide)]
  exact extractLsb'_eq_self

@[simp] theorem XFmt.ofWord_word (op : BitVec 6) (f : XFmt) : XFmt.ofWord (f.word op) = f := by
  cases f
  simp only [XFmt.ofWord, XFmt.word, XFmt.mk.injEq]
  and_intros <;> (repeat rw [extractLsb'_append_eq_of_le (by decide)]) <;>
    rw [extractLsb'_append_eq_of_add_le (by decide), extractLsb'_eq_self]

theorem XFmt.word_ofWord (w : W32) : (XFmt.ofWord w).word (w.extractLsb' 26 6) = w := by
  simp only [XFmt.ofWord, XFmt.word]
  rw [extractLsb'_append_extractLsb'_eq_extractLsb' (show 26 = 24 + 2 from rfl),
    extractLsb'_append_extractLsb'_eq_extractLsb' (show 24 = 22 + 2 from rfl),
    extractLsb'_append_extractLsb'_eq_extractLsb' (show 22 = 21 + 1 from rfl),
    extractLsb'_append_extractLsb'_eq_extractLsb' (show 21 = 16 + 5 from rfl),
    extractLsb'_append_extractLsb'_eq_extractLsb' (show 16 = 11 + 5 from rfl),
    extractLsb'_append_extractLsb'_eq_extractLsb' (show 11 = 0 + 11 from rfl),
    extractLsb'_eq_self]

@[simp] theorem XFmt.word_ofWord_iff (op : BitVec 6) (w : W32) :
    (XFmt.ofWord w).word op = w ↔ (w.extractLsb' 26 6).toNat = op.toNat := by
  constructor <;> intro h
  · rw [← h, XFmt.opcode_word]
  · rw [← BitVec.eq_of_toNat_eq h, XFmt.word_ofWord]

/-! ### Format N -/

@[simp] theorem NFmt.opcode_word (op : BitVec 6) (f : NFmt) : (f.word op).extractLsb' 26 6 = op := by
  unfold NFmt.word
  iterate 7 rw [extractLsb'_append_eq_of_le (by decide)]
  exact extractLsb'_eq_self

@[simp] theorem NFmt.ofWord_word (op : BitVec 6) (f : NFmt) : NFmt.ofWord (f.word op) = f := by
  cases f
  simp only [NFmt.ofWord, NFmt.word, NFmt.mk.injEq]
  and_intros <;> (repeat rw [extractLsb'_append_eq_of_le (by decide)]) <;>
    rw [extractLsb'_append_eq_of_add_le (by decide), extractLsb'_eq_self]

theorem NFmt.word_ofWord (w : W32) : (NFmt.ofWord w).word (w.extractLsb' 26 6) = w := by
  simp only [NFmt.ofWord, NFmt.word]
  rw [extractLsb'_append_extractLsb'_eq_extractLsb' (show 26 = 21 + 5 from rfl),
    extractLsb'_append_extractLsb'_eq_extractLsb' (show 21 = 19 + 2 from rfl),
    extractLsb'_append_extractLsb'_eq_extractLsb' (show 19 = 18 + 1 from rfl),
    extractLsb'_append_extractLsb'_eq_extractLsb' (show 18 = 17 + 1 from rfl),
    extractLsb'_append_extractLsb'_eq_extractLsb' (show 17 = 16 + 1 from rfl),
    extractLsb'_append_extractLsb'_eq_extractLsb' (show 16 = 10 + 6 from rfl),
    extractLsb'_append_extractLsb'_eq_extractLsb' (show 10 = 0 + 10 from rfl),
    extractLsb'_eq_self]

@[simp] theorem NFmt.word_ofWord_iff (op : BitVec 6) (w : W32) :
    (NFmt.ofWord w).word op = w ↔ (w.extractLsb' 26 6).toNat = op.toNat := by
  constructor <;> intro h
  · rw [← h, NFmt.opcode_word]
  · rw [← BitVec.eq_of_toNat_eq h, NFmt.word_ofWord]

/-! ### Format F -/

@[simp] theorem FFmt.opcode_word (op : BitVec 6) (f : FFmt) : (f.word op).extractLsb' 26 6 = op := by
  unfold FFmt.word
  iterate 8 rw [extractLsb'_append_eq_of_le (by decide)]
  exact extractLsb'_eq_self

@[simp] theorem FFmt.ofWord_word (op : BitVec 6) (f : FFmt) : FFmt.ofWord (f.word op) = f := by
  cases f
  simp only [FFmt.ofWord, FFmt.word, FFmt.mk.injEq]
  and_intros <;> (repeat rw [extractLsb'_append_eq_of_le (by decide)]) <;>
    rw [extractLsb'_append_eq_of_add_le (by decide), extractLsb'_eq_self]

theorem FFmt.word_ofWord (w : W32) : (FFmt.ofWord w).word (w.extractLsb' 26 6) = w := by
  simp only [FFmt.ofWord, FFmt.word]
  rw [extractLsb'_append_extractLsb'_eq_extractLsb' (show 26 = 25 + 1 from rfl),
    extractLsb'_append_extractLsb'_eq_extractLsb' (show 25 = 24 + 1 from rfl),
    extractLsb'_append_extractLsb'_eq_extractLsb' (show 24 = 21 + 3 from rfl),
    extractLsb'_append_extractLsb'_eq_extractLsb' (show 21 = 18 + 3 from rfl),
    extractLsb'_append_extractLsb'_eq_extractLsb' (show 18 = 17 + 1 from rfl),
    extractLsb'_append_extractLsb'_eq_extractLsb' (show 17 = 16 + 1 from rfl),
    extractLsb'_append_extractLsb'_eq_extractLsb' (show 16 = 8 + 8 from rfl),
    extractLsb'_append_extractLsb'_eq_extractLsb' (show 8 = 0 + 8 from rfl),
    extractLsb'_eq_self]

@[simp] theorem FFmt.word_ofWord_iff (op : BitVec 6) (w : W32) :
    (FFmt.ofWord w).word op = w ↔ (w.extractLsb' 26 6).toNat = op.toNat := by
  constructor <;> intro h
  · rw [← h, FFmt.opcode_word]
  · rw [← BitVec.eq_of_toNat_eq h, FFmt.word_ofWord]

/-! ### Format B -/

@[simp] theorem BFmt.opcode_word (op : BitVec 6) (f : BFmt) : (f.word op).extractLsb' 26 6 = op := by
  unfold BFmt.word
  iterate 3 rw [extractLsb'_append_eq_of_le (by decide)]
  exact extractLsb'_eq_self

@[simp] theorem BFmt.ofWord_word (op : BitVec 6) (f : BFmt) : BFmt.ofWord (f.word op) = f := by
  cases f
  simp only [BFmt.ofWord, BFmt.word, BFmt.mk.injEq]
  and_intros <;> (repeat rw [extractLsb'_append_eq_of_le (by decide)]) <;>
    rw [extractLsb'_append_eq_of_add_le (by decide), extractLsb'_eq_self]

theorem BFmt.word_ofWord (w : W32) : (BFmt.ofWord w).word (w.extractLsb' 26 6) = w := by
  simp only [BFmt.ofWord, BFmt.word]
  rw [extractLsb'_append_extractLsb'_eq_extractLsb' (show 26 = 21 + 5 from rfl),
    extractLsb'_append_extractLsb'_eq_extractLsb' (show 21 = 18 + 3 from rfl),
    extractLsb'_append_extractLsb'_eq_extractLsb' (show 18 = 0 + 18 from rfl),
    extractLsb'_eq_self]

@[simp] theorem BFmt.word_ofWord_iff (op : BitVec 6) (w : W32) :
    (BFmt.ofWord w).word op = w ↔ (w.extractLsb' 26 6).toNat = op.toNat := by
  constructor <;> intro h
  · rw [← h, BFmt.opcode_word]
  · rw [← BitVec.eq_of_toNat_eq h, BFmt.word_ofWord]

/-! ### Format P -/

@[simp] theorem PFmt.opcode_word (op : BitVec 6) (f : PFmt) : (f.word op).extractLsb' 26 6 = op := by
  unfold PFmt.word
  iterate 4 rw [extractLsb'_append_eq_of_le (by decide)]
  exact extractLsb'_eq_self

@[simp] theorem PFmt.ofWord_word (op : BitVec 6) (f : PFmt) : PFmt.ofWord (f.word op) = f := by
  cases f
  simp only [PFmt.ofWord, PFmt.word, PFmt.mk.injEq]
  and_intros <;> (repeat rw [extractLsb'_append_eq_of_le (by decide)]) <;>
    rw [extractLsb'_append_eq_of_add_le (by decide), extractLsb'_eq_self]

theorem PFmt.word_ofWord (w : W32) : (PFmt.ofWord w).word (w.extractLsb' 26 6) = w := by
  simp only [PFmt.ofWord, PFmt.word]
  rw [extractLsb'_append_extractLsb'_eq_extractLsb' (show 26 = 20 + 6 from rfl),
    extractLsb'_append_extractLsb'_eq_extractLsb' (show 20 = 19 + 1 from rfl),
    extractLsb'_append_extractLsb'_eq_extractLsb' (show 19 = 16 + 3 from rfl),
    extractLsb'_append_extractLsb'_eq_extractLsb' (show 16 = 0 + 16 from rfl),
    extractLsb'_eq_self]

@[simp] theorem PFmt.word_ofWord_iff (op : BitVec 6) (w : W32) :
    (PFmt.ofWord w).word op = w ↔ (w.extractLsb' 26 6).toNat = op.toNat := by
  constructor <;> intro h
  · rw [← h, PFmt.opcode_word]
  · rw [← BitVec.eq_of_toNat_eq h, PFmt.word_ofWord]

/-! ### Format V -/

@[simp] theorem VFmt.opcode_word (op : BitVec 6) (f : VFmt) : (f.word op).extractLsb' 26 6 = op := by
  unfold VFmt.word
  iterate 4 rw [extractLsb'_append_eq_of_le (by decide)]
  exact extractLsb'_eq_self

@[simp] theorem VFmt.ofWord_word (op : BitVec 6) (f : VFmt) : VFmt.ofWord (f.word op) = f := by
  cases f
  simp only [VFmt.ofWord, VFmt.word, VFmt.mk.injEq]
  and_intros <;> (repeat rw [extractLsb'_append_eq_of_le (by decide)]) <;>
    rw [extractLsb'_append_eq_of_add_le (by decide), extractLsb'_eq_self]

theorem VFmt.word_ofWord (w : W32) : (VFmt.ofWord w).word (w.extractLsb' 26 6) = w := by
  simp only [VFmt.ofWord, VFmt.word]
  rw [extractLsb'_append_extractLsb'_eq_extractLsb' (show 26 = 21 + 5 from rfl),
    extractLsb'_append_extractLsb'_eq_extractLsb' (show 21 = 16 + 5 from rfl),
    extractLsb'_append_extractLsb'_eq_extractLsb' (show 16 = 13 + 3 from rfl),
    extractLsb'_append_extractLsb'_eq_extractLsb' (show 13 = 0 + 13 from rfl),
    extractLsb'_eq_self]

@[simp] theorem VFmt.word_ofWord_iff (op : BitVec 6) (w : W32) :
    (VFmt.ofWord w).word op = w ↔ (w.extractLsb' 26 6).toNat = op.toNat := by
  constructor <;> intro h
  · rw [← h, VFmt.opcode_word]
  · rw [← BitVec.eq_of_toNat_eq h, VFmt.word_ofWord]

/-! ### Format L -/

@[simp] theorem LFmt.opcode_word (op : BitVec 6) (f : LFmt) : (f.word op).extractLsb' 26 6 = op := by
  unfold LFmt.word
  iterate 5 rw [extractLsb'_append_eq_of_le (by decide)]
  exact extractLsb'_eq_self

@[simp] theorem LFmt.ofWord_word (op : BitVec 6) (f : LFmt) : LFmt.ofWord (f.word op) = f := by
  cases f
  simp only [LFmt.ofWord, LFmt.word, LFmt.mk.injEq]
  and_intros <;> (repeat rw [extractLsb'_append_eq_of_le (by decide)]) <;>
    rw [extractLsb'_append_eq_of_add_le (by decide), extractLsb'_eq_self]

theorem LFmt.word_ofWord (w : W32) : (LFmt.ofWord w).word (w.extractLsb' 26 6) = w := by
  simp only [LFmt.ofWord, LFmt.word]
  rw [extractLsb'_append_extractLsb'_eq_extractLsb' (show 26 = 24 + 2 from rfl),
    extractLsb'_append_extractLsb'_eq_extractLsb' (show 24 = 21 + 3 from rfl),
    extractLsb'_append_extractLsb'_eq_extractLsb' (show 21 = 20 + 1 from rfl),
    extractLsb'_append_extractLsb'_eq_extractLsb' (show 20 = 16 + 4 from rfl),
    extractLsb'_append_extractLsb'_eq_extractLsb' (show 16 = 0 + 16 from rfl),
    extractLsb'_eq_self]

@[simp] theorem LFmt.word_ofWord_iff (op : BitVec 6) (w : W32) :
    (LFmt.ofWord w).word op = w ↔ (w.extractLsb' 26 6).toNat = op.toNat := by
  constructor <;> intro h
  · rw [← h, LFmt.opcode_word]
  · rw [← BitVec.eq_of_toNat_eq h, LFmt.word_ofWord]

/-! ### Format G -/

@[simp] theorem GFmt.opcode_word (op : BitVec 6) (f : GFmt) : (f.word op).extractLsb' 26 6 = op := by
  unfold GFmt.word
  iterate 6 rw [extractLsb'_append_eq_of_le (by decide)]
  exact extractLsb'_eq_self

@[simp] theorem GFmt.ofWord_word (op : BitVec 6) (f : GFmt) : GFmt.ofWord (f.word op) = f := by
  cases f
  simp only [GFmt.ofWord, GFmt.word, GFmt.mk.injEq]
  and_intros <;> (repeat rw [extractLsb'_append_eq_of_le (by decide)]) <;>
    rw [extractLsb'_append_eq_of_add_le (by decide), extractLsb'_eq_self]

theorem GFmt.word_ofWord (w : W32) : (GFmt.ofWord w).word (w.extractLsb' 26 6) = w := by
  simp only [GFmt.ofWord, GFmt.word]
  rw [extractLsb'_append_extractLsb'_eq_extractLsb' (show 26 = 23 + 3 from rfl),
    extractLsb'_append_extractLsb'_eq_extractLsb' (show 23 = 19 + 4 from rfl),
    extractLsb'_append_extractLsb'_eq_extractLsb' (show 19 = 18 + 1 from rfl),
    extractLsb'_append_extractLsb'_eq_extractLsb' (show 18 = 17 + 1 from rfl),
    extractLsb'_append_extractLsb'_eq_extractLsb' (show 17 = 16 + 1 from rfl),
    extractLsb'_append_extractLsb'_eq_extractLsb' (show 16 = 0 + 16 from rfl),
    extractLsb'_eq_self]

@[simp] theorem GFmt.word_ofWord_iff (op : BitVec 6) (w : W32) :
    (GFmt.ofWord w).word op = w ↔ (w.extractLsb' 26 6).toNat = op.toNat := by
  constructor <;> intro h
  · rw [← h, GFmt.opcode_word]
  · rw [← BitVec.eq_of_toNat_eq h, GFmt.word_ofWord]

/-! ### CSRW (R141) -/

@[simp] theorem encodeScarab_csrwOf (core : Nat) (f : IFmt) : encodeScarab (csrwOf core f) = some (core, f.word 0x2D) := by
  unfold csrwOf
  split_ifs <;> rfl

@[simp] theorem clean_csrwOf (core : Nat) (f : IFmt) : (csrwOf core f).clean = csrwOf core f := by
  unfold csrwOf
  split_ifs <;> rfl

theorem csrwOf_of_notOwn {core : Nat} {f : IFmt} (h : ownCsrs.contains f.imm = false) : csrwOf core f = .csrw core f := by
  simp only [ownCsrs, List.contains_cons, List.contains_nil, Bool.or_eq_false_iff, beq_eq_false_iff_ne] at h
  obtain ⟨hpop, hgo, hreq, hrel, -⟩ := h
  rw [csrwOf, if_neg hpop, if_neg hgo, if_neg hreq, if_neg hrel]

/-! ### Decoding -/

/-- The instruction whose word an encoded one has, by its row: NOP's row has the free opcodes too, and CSRW's word is the row's
whose CSR it names. -/
theorem decodeScarab_of_encodeScarab {i : Instr} {core : Nat} {w : W32} (hwf : i.wf = true)
    (h : encodeScarab i = some (core, w)) : decodeScarab core w = some i.clean := by
  obtain ⟨hcsr, hop⟩ : i.csrOk = true ∧ i.opcodeOk = true := by
    simp only [Instr.wf, Bool.and_eq_true] at hwf
    exact ⟨hwf.1.2, hwf.2⟩
  cases i
  all_goals simp only [encodeScarab, Option.some.injEq, Prod.mk.injEq, reduceCtorEq] at h
  all_goals obtain ⟨rfl, rfl⟩ := h
  case nop word =>
    obtain ⟨op, f⟩ := word
    simp only [Instr.opcodeOk, freeOpcodes, Bool.or_eq_true, decide_eq_true_eq, List.contains_iff_mem, List.mem_cons,
      List.not_mem_nil, or_false] at hop
    rcases hop with rfl | rfl | rfl | rfl | rfl | rfl | rfl | rfl | rfl | rfl <;> simp [decodeScarab, Instr.clean]
  case csrw f =>
    have hfree : ownCsrs.contains f.imm = false := by simpa [Instr.csrOk] using hcsr
    simp [decodeScarab, Instr.clean, csrwOf_of_notOwn hfree]
  case mbpop | mvGo | lkReq | lkRel =>
    simp only [Instr.csrOk, decide_eq_true_eq] at hcsr
    simp [decodeScarab, Instr.clean, csrwOf, hcsr]
  all_goals simp [decodeScarab, Instr.clean]

theorem encodeScarab_of_decodeScarab {i : Instr} {core : Nat} {w : W32} (h : decodeScarab core w = some i) :
    encodeScarab i = some (core, w) ∧ i.clean = i := by
  unfold decodeScarab at h
  split at h
  case h_41 hop =>
    cases h
    simp [hop]
  all_goals
    rename_i hop
    cases h
    simp [encodeScarab, Instr.clean, hop]

/-- Settles O60, format by format: a word has its opcode and fields back, and is the word of its own opcode and fields. -/
theorem scarabWordsDecodeToTheirInstruction : Obligations.ScarabWordsDecodeToTheirInstruction := by
  unfold Obligations.ScarabWordsDecodeToTheirInstruction
  exact ⟨fun _ _ _ => decodeScarab_of_encodeScarab, fun _ _ _ => encodeScarab_of_decodeScarab⟩

end Sys2Proof
end

section
/-! PROOF. Scarab instructions that change registers alone: what they leave where they issue, the words of their values (R124,
R127, R128). -/

namespace Sys2Proof.Machine

open Sys2Proof.Arith

/-! ### Narrowing to a data register (R127) -/

theorem sat32_eq_iff (v : Int) : sat32 v = v ↔ ¬ (v < -(2 ^ 31) ∨ 2 ^ 31 ≤ v) := by
  unfold sat32 satN; omega

theorem toInt_toW {v : Int} (hlo : -(2 ^ 31) ≤ v) (hhi : v < 2 ^ 31) : (toW v).toInt = v := by
  rw [toW, BitVec.toInt_ofInt]
  exact Int.bmod_eq_of_le (by omega) (by omega)

@[simp] theorem toInt_toW_sat32 (v : Int) : (toW (sat32 v)).toInt = sat32 v :=
  toInt_toW (by unfold sat32 satN; omega) (by unfold sat32 satN; omega)

theorem narrow_flag (v : Int) : (narrow v).2 = decide (v < -(2 ^ 31) ∨ 2 ^ 31 ≤ v) := by
  simp only [narrow, ne_eq, sat32_eq_iff, not_not]

/-- The word of a narrowing: the exact value where it fits, the nearer end of the range where it does not. -/
theorem narrow_word (v : Int) : (v < -(2 ^ 31) → (narrow v).1.toInt = -(2 ^ 31)) ∧
    (2 ^ 31 ≤ v → (narrow v).1.toInt = 2 ^ 31 - 1) ∧ (-(2 ^ 31) ≤ v → v < 2 ^ 31 → (narrow v).1.toInt = v) := by
  simp only [narrow, toInt_toW_sat32]
  exact ⟨sat32_of_lt, sat32_of_ge, sat32_of_mem⟩

/-! ### Issue -/

section
variable {s : State} {n : Nat} {t : Task} (h : s.issues n t)
include h

/-- An instruction of registers leaves its core as its function says, after one cycle. -/
theorem exec_issueReg {i : Instr} {legal : Bool} {g : Core → Core} (hlegal : legal = true)
    (hi : exec i s = .next (s.issueReg n legal g)) : exec i s = s.leaves n (g (s.reads n)) 1 := by
  subst hlegal
  rw [hi, State.issueReg_leaves h, State.leaves]

/-- An instruction of format R gives d[D] its value of d[S] and d[T]. -/
theorem computes_of_issueR {i : Instr} {f : RFmt} {legal : Bool} {lat : Nat} {g : W32 → W32 → W32 × Bool} {sat : Bool}
    {p : W32 → Prop} (hz : f.z = 0) (hlegal : legal = true) (hi : exec i s = .next (s.issueR n f legal lat g))
    (hsat : (g ((s.reads n).rd f.s.toNat) ((s.reads n).rd f.t.toNat)).2 = sat)
    (hp : p (g ((s.reads n).rd f.s.toNat) ((s.reads n).rd f.t.toNat)).1) : Computes i s n f.d.toNat lat sat p := by
  refine ⟨_, hp, ?_⟩
  subst hsat
  exact exec_issueReg h (by simp [hlegal, hz]) hi

/-- An instruction of format I gives d[D] its value of d[S]. -/
theorem computes_of_issueI {i : Instr} {f : IFmt} {legal : Bool} {g : W32 → W32 × Bool} {sat : Bool} {p : W32 → Prop}
    (hlegal : legal = true) (hi : exec i s = .next (s.issueI n f legal g))
    (hsat : (g ((s.reads n).rd f.s.toNat)).2 = sat) (hp : p (g ((s.reads n).rd f.s.toNat)).1) :
    Computes i s n f.d.toNat 1 sat p := by
  refine ⟨_, hp, ?_⟩
  subst hsat
  exact exec_issueReg h hlegal hi

/-- An instruction of format R whose value is a narrowing of `v`. -/
theorem narrows_of_issueR {i : Instr} {f : RFmt} {lat : Nat} {g : W32 → W32 → W32 × Bool} {v : Int} (hz : f.z = 0)
    (hi : exec i s = .next (s.issueR n f true lat g))
    (hg : g ((s.reads n).rd f.s.toNat) ((s.reads n).rd f.t.toNat) = narrow v) : Narrows i s n f.d.toNat lat v :=
  computes_of_issueR h hz rfl hi (by rw [hg, narrow_flag]) (by rw [hg]; exact narrow_word v)

end

/-! ### The words of immediates and shifts -/

theorem getLsbD_zeroExtend (imm : BitVec 16) (i : Nat) : (imm.setWidth 32).getLsbD i = imm.getLsbD i := by
  rw [BitVec.getLsbD_setWidth]
  by_cases hi : i < 16
  · simp [Nat.lt_trans hi (by decide : 16 < 32)]
  · rw [BitVec.getLsbD_of_ge imm i (Nat.le_of_not_lt hi), Bool.and_false]

theorem bmod_sub_self_emod (v : Int) : (v.bmod (2 ^ 32) - v) % 2 ^ 32 = 0 := by
  have h : v.bmod (2 ^ 32) % 2 ^ 32 = v % 2 ^ 32 := Int.bmod_emod
  rw [Int.sub_emod, h, Int.sub_self, Int.zero_emod]

theorem toNat_shl (a : W32) (k : Nat) : (a <<< k).toNat = a.toNat * 2 ^ k % 2 ^ 32 := by
  rw [BitVec.toNat_shiftLeft, Nat.shiftLeft_eq]

theorem toNat_shr (a : W32) (k : Nat) : (a >>> k).toNat = a.toNat / 2 ^ k := by
  rw [BitVec.toNat_ushiftRight, Nat.shiftRight_eq_div_pow]

theorem toInt_sra (a : W32) (k : Nat) : (a.sshiftRight k).toInt = a.toInt / 2 ^ k := by
  rw [BitVec.toInt_sshiftRight, Int.shiftRight_eq_div_pow]
  norm_cast

/-- Settles O1, row by row of R124's table: each row is the value of its `issueR`. -/
theorem scarabArithmeticGivesItsTableValue : Obligations.ScarabArithmeticGivesItsTableValue := by
  unfold Obligations.ScarabArithmeticGivesItsTableValue
  intro s n t f h hz a b gives k
  have row (i : Instr) {g : W32 → W32 → W32 × Bool} {p : W32 → Prop} (hi : exec i s = .next (s.issueR n f true 1 g))
      (hsat : (g a b).2 = false) (hp : p (g a b).1) : gives i p := computes_of_issueR h hz rfl hi hsat hp
  refine ⟨?nop, ?illegal, row (.add n f) rfl rfl ?add, row (.sub n f) rfl rfl ?sub, row (.and n f) rfl rfl ?and,
    row (.or n f) rfl rfl ?or, row (.xor n f) rfl rfl ?xor, row (.shl n f) rfl rfl (toNat_shl a k),
    row (.shr n f) rfl rfl (toNat_shr a k), row (.sra n f) rfl rfl (toInt_sra a k), row (.min n f) rfl rfl ?min,
    row (.max n f) rfl rfl ?max, row (.slt n f) rfl rfl rfl, row (.seq n f) rfl rfl rfl⟩
  case nop => exact exec_issueReg (g := id) h (by simp [hz]) rfl
  case illegal =>
    intro op hop
    show Host.Outcome.next (s.issueReg n _ _) = _
    rw [decide_eq_false hop, Bool.false_and]
    exact congrArg _ (State.issue_illegal h _)
  case add => exact BitVec.toNat_add a b
  case sub => show ((a - b).toNat : Int) = _; rw [BitVec.toNat_sub]; omega
  case and => exact fun i => BitVec.getLsbD_and
  case or => exact fun i => BitVec.getLsbD_or
  case xor => exact fun i => BitVec.getLsbD_xor
  case min => show (if a.toInt ≤ b.toInt then a else b).toInt = _; rw [min_def, apply_ite BitVec.toInt]
  case max => show (if a.toInt ≤ b.toInt then b else a).toInt = _; rw [max_def, apply_ite BitVec.toInt]

/-- Settles O2: each row is the value of its `issueI`; ADDI's sum wraps, and SHI goes by its kind. -/
theorem scarabImmediatesGiveTheirTableValue : Obligations.ScarabImmediatesGiveTheirTableValue := by
  unfold Obligations.ScarabImmediatesGiveTheirTableValue
  intro s n t f h a gives k kind
  have row (i : Instr) {legal : Bool} {g : W32 → W32 × Bool} {p : W32 → Prop} (hlegal : legal = true)
      (hi : exec i s = .next (s.issueI n f legal g)) (hsat : (g a).2 = false) (hp : p (g a).1) : gives i p :=
    computes_of_issueI h hlegal hi hsat hp
  have shift (j : Nat) (hj : j < 4) (hk : kind = j) : decide (f.imm.toNat < 128) = true ∧ f.imm.toNat / 32 % 4 = j := by
    simp only [decide_eq_true_eq]; omega
  refine ⟨row (.addi n f) rfl rfl rfl ?addi, row (.andi n f) rfl rfl rfl ?andi, row (.ori n f) rfl rfl rfl ?ori,
    fun hs => row (.lui n f) (by simp [hs]) rfl rfl ?lui, fun h0 => ?shl, fun h1 => ?shr, fun h2 => ?sra, fun h3 => ?rsr⟩
  case addi =>
    show ((a + f.imm.signExtend 32).toInt - _) % 2 ^ 32 = 0
    rw [BitVec.toInt_add, BitVec.toInt_signExtend_of_le (by decide)]
    exact bmod_sub_self_emod _
  case andi => exact fun i => by rw [BitVec.getLsbD_and, getLsbD_zeroExtend]
  case ori => exact fun i => by rw [BitVec.getLsbD_or, getLsbD_zeroExtend]
  case lui =>
    show (f.imm.setWidth 32 <<< 16).toNat = _
    rw [toNat_shl, BitVec.toNat_setWidth]
    omega
  case shl =>
    obtain ⟨hlegal, hkind⟩ := shift 0 (by decide) h0
    exact row (.shi n f) hlegal rfl (by rw [hkind]; rfl) (by rw [hkind]; exact toNat_shl a k)
  case shr =>
    obtain ⟨hlegal, hkind⟩ := shift 1 (by decide) h1
    exact row (.shi n f) hlegal rfl (by rw [hkind]; rfl) (by rw [hkind]; exact toNat_shr a k)
  case sra =>
    obtain ⟨hlegal, hkind⟩ := shift 2 (by decide) h2
    exact row (.shi n f) hlegal rfl (by rw [hkind]; rfl) (by rw [hkind]; exact toInt_sra a k)
  case rsr =>
    obtain ⟨hlegal, hkind⟩ := shift 3 (by decide) h3
    exact computes_of_issueI h hlegal rfl (by rw [hkind]; exact narrow_flag _) (by rw [hkind]; exact narrow_word _)

theorem mag_eq_min_natAbs (x : Int) : mag x = min (x.natAbs : Int) (2 ^ 31 - 1) := by
  unfold mag; split <;> omega

/-- Settles O3: every row but LVL and EXPC is a narrowing of its exact value. -/
theorem scarabNarrowingsSaturateAndFlag : Obligations.ScarabNarrowingsSaturateAndFlag := by
  unfold Obligations.ScarabNarrowingsSaturateAndFlag
  intro s n t f h hz a b k
  refine ⟨narrows_of_issueR h hz rfl rfl, narrows_of_issueR h hz rfl rfl, narrows_of_issueR h hz rfl rfl,
    narrows_of_issueR h hz rfl (congrArg narrow ?abs), narrows_of_issueR h hz rfl rfl, narrows_of_issueR h hz rfl rfl,
    narrows_of_issueR h hz rfl rfl, fun ht => computes_of_issueR h hz (by simp [ht]) rfl rfl ?lvl,
    fun ht => computes_of_issueR h hz (by simp [ht]) rfl rfl rfl⟩
  case abs => split <;> omega
  case lvl => exact congrArg (fun x => toW (log2lv x)) (mag_eq_min_natAbs a)

end Sys2Proof.Machine
end

section
/-! PROOF. Scarab accumulators and moves: the sum an accumulator takes, RNDA, and the destinations of MV and LIA (R123, R127,
R128). -/

namespace Sys2Proof.Machine

open Sys2Proof.Arith

/-! ### Accumulators (R127) -/

/-- An accumulator takes the exact value mod 2^72, with ACCOV where it wraps. -/
theorem Core.accumulates_accum (c : Core) (k : Nat) (v : Int) : c.accumulates (c.accum k v) k v := by
  refine ⟨(wrap72 v).1, ?_, ?_⟩
  · have hmod : ((wrap72 v).1.toInt) % 2 ^ 72 = v % 2 ^ 72 := by
      simp only [wrap72, BitVec.toInt_ofInt]
      exact Int.bmod_emod
    rw [Int.sub_emod, hmod, Int.sub_self, Int.zero_emod]
  · simp only [Core.accum, wrap72, Bool.decide_or]

/-- Both accumulators of a pair take their products. -/
theorem Core.dual_accumulates (c : Core) (p : Nat) (ka : Bool) (x0 y0 x1 y1 : Int) :
    ∃ e, c.accumulates e (2 * p) (c.racc (2 * p) + x0 * y0 * (if ka then 2 else 2 ^ 4)) ∧
      e.accumulates (c.dual p ka x0 y0 x1 y1) (2 * p + 1) (c.racc (2 * p + 1) + x1 * y1 * (if ka then 2 else 2 ^ 4)) :=
  ⟨_, c.accumulates_accum _ _, Core.accumulates_accum _ _ _⟩

theorem racc_shift_toInt (a : W32) : (BitVec.ofInt 72 (a.toInt * 2 ^ 32)).toInt = a.toInt * 2 ^ 32 := by
  rw [BitVec.toInt_ofInt]
  exact Int.bmod_eq_of_le (by have := a.le_toInt; omega) (by have := a.toInt_lt; omega)

/-- An instruction that gives an accumulator the sum `g` of its core. -/
theorem accumulates_of_issueReg {s : State} {n : Nat} {t : Task} (h : s.issues n t) {i : Instr} {legal : Bool} {k : Nat}
    {g : Core → Int} {v : Int} (hlegal : legal = true) (hi : exec i s = .next (s.issueReg n legal (fun c => c.accum k (g c))))
    (hg : g (s.reads n) = v) : ∃ c', (s.reads n).accumulates c' k v ∧ exec i s = s.leaves n c' 1 :=
  ⟨_, hg ▸ (s.reads n).accumulates_accum k (g (s.reads n)), exec_issueReg h hlegal hi⟩

/-- Settles O4: an accumulator takes its sum by `accum`, a pair by `dual`, and RNDA narrows with `sat32`. -/
theorem scarabAccumulatorsAreExactUntilRnda : Obligations.ScarabAccumulatorsAreExactUntilRnda := by
  unfold Obligations.ScarabAccumulatorsAreExactUntilRnda
  refine ⟨fun s n t f h hz1 hz => ?accumulate, fun s n t f h hz1 hz => ?round⟩
  case accumulate =>
    intro c a b k takes
    have hclear : xClear f = true := by simp [xClear, hz1, hz]
    have mac (i : Instr) (m : Int) {v : Int} (hi : exec i s = .next (s.issueMac n f m)) (hv : c.racc k + m * (a * b) = v) :
        takes i v := accumulates_of_issueReg h hclear hi hv
    refine ⟨mac (.mac n f) 16 rfl (by ring), mac (.msu n f) (-16) rfl (by ring), mac (.maca n f) 2 rfl (by ring),
      mac (.msua n f) (-2) rfl (by ring), fun hs ht => ?accadd, fun ht => ?ldacc, ?clra, fun hs ht => ?mac2⟩
    case accadd =>
      have hlegal : (xClear f && decide (f.s = 0) && decide (f.t = 0)) = true := by simp [hclear, hs, ht]
      exact accumulates_of_issueReg h hlegal rfl rfl
    case ldacc =>
      have hlegal : (xClear f && decide (f.t = 0)) = true := by simp [hclear, ht]
      exact ⟨_, racc_shift_toInt _, (exec_issueReg (i := .ldacc n f) h hlegal rfl :)⟩
    case clra => exact (exec_issueReg (i := .clra n f) h hclear rfl :)
    have hlegal : (xClear f && decide (f.s.toNat % 2 = 0) && decide (f.t.toNat % 2 = 0)) = true := by simp [hclear, hs, ht]
    intro m p
    obtain ⟨e, he, ho⟩ := c.dual_accumulates p (k % 2 = 1) a b (c.ri (f.s.toNat + 1)) (c.ri (f.t.toNat + 1))
    simp only [decide_eq_true_eq] at he ho
    exact ⟨e, _, he, ho, (exec_issueReg (i := .mac2 n f) h hlegal rfl :)⟩
  case round =>
    intro c e r
    refine ⟨toW (sat32 r), toInt_toW_sat32 r, ?_⟩
    have hr : rndaValue (c.raccR f.acc.toNat) f.sh.toNat c.bexp (f.xb = 1) = r := by
      simp only [rndaValue, decide_eq_true_eq, r, e]
    rw [toInt_toW_sat32, ← hr]
    have hlegal : (decide (f.z1 = 0) && decide (f.z = 0)) = true := by simp [hz1, hz]
    exact (exec_issueReg (i := .rnda n f) h hlegal rfl :)

/-! ### Moves (R123, R124) -/

/-- Settles O7: each kind and class is its arm of the move. -/
theorem movesReachEveryRegisterClass : Obligations.MovesReachEveryRegisterClass := by
  unfold Obligations.MovesReachEveryRegisterClass
  intro s n t h c
  refine ⟨fun f hz => ?mv, fun f hz => ?lia, fun f hz hcls => ?adda⟩
  case mv =>
    intro low d r gives
    have move := fun (hlegal : vLegal f = true) => exec_issueReg (i := .mv n f) h hlegal rfl
    refine ⟨fun hk => ?same, ?_, ?_, ?_, ?_, ?_, ?_⟩
    case same => exact (move (by simp [vLegal, hz, hk])).trans (by rw [hk]; rfl)
    all_goals
      intro hr hk
      refine (move ?_).trans (by rw [hk]; rfl)
      simp only [vLegal, hz, hk]
      exact decide_eq_true hr
  case lia => 
    intro v gives
    have legal {j : BitVec 2} (hj : f.cls = j) (hne : j ≠ 0) : (decide (f.cls ≠ 0) && decide (f.z1 = 0)) = true := by
      rw [hj, decide_eq_true hne, decide_eq_true hz, Bool.and_self]
    have load {j : BitVec 2} (hj : f.cls = j) (hne : j ≠ 0) := exec_issueReg (i := .lia n f) h (legal hj hne) rfl
    refine ⟨fun hj => ?_, fun hj => ?_, fun hj => ?_⟩ <;> refine (load hj (by decide)).trans ?_ <;> rw [hj] <;> rfl
  case adda =>
    have hlegal : (decide (f.cls = 1) && decide (f.z1 = 0)) = true := by simp [hz, hcls]
    exact (exec_issueReg (i := .adda n f) h hlegal rfl :)

end Sys2Proof.Machine
end

section
/-! PROOF. A canonical table is determined by what it reads: what follows for writes of writes, for every table of the block. -/

namespace Sys2Proof

theorem Tbl.wf_cons {α : Type} [DecidableEq α] {d : Nat → α} {k : Nat} {v : α} {t : Tbl α} :
    Tbl.wf d ((k, v) :: t) = true ↔ Tbl.above k t ∧ v ≠ d k ∧ Tbl.wf d t = true := by
  simp only [Tbl.wf, Bool.and_eq_true, Tbl.rising_cons, List.all_cons, decide_eq_true_eq]
  tauto

theorem Tbl.get_cons_same {α : Type} (d : α) (k : Nat) (v : α) (t : Tbl α) : Tbl.get ((k, v) :: t) d k = v := by
  simp [Tbl.get]

theorem Tbl.get_cons_below {α : Type} (d : α) {k j : Nat} (v : α) (t : Tbl α) (h : j < k) : Tbl.get ((k, v) :: t) d j = d := by
  simp [Tbl.get, h, Nat.ne_of_gt h]

theorem Tbl.get_cons_above {α : Type} (d : α) {k j : Nat} (v : α) (t : Tbl α) (h : k < j) :
    Tbl.get ((k, v) :: t) d j = Tbl.get t d j := by
  simp [Tbl.get, Nat.ne_of_lt h, Nat.lt_asymm h]

/-- Canonical tables that read alike are the same table. -/
theorem Tbl.eq_of_get {α : Type} [DecidableEq α] {d : Nat → α} {t u : Tbl α} (ht : Tbl.wf d t = true) (hu : Tbl.wf d u = true)
    (h : ∀ k, Tbl.get t (d k) k = Tbl.get u (d k) k) : t = u := by
  induction t generalizing u with
  | nil =>
    cases u with
    | nil => rfl
    | cons q u =>
      obtain ⟨j, w⟩ := q
      exact absurd ((h j).trans (Tbl.get_cons_same ..)).symm (Tbl.wf_cons.mp hu).2.1
  | cons p t ih =>
    obtain ⟨k, v⟩ := p
    obtain ⟨hkt, hv, ht⟩ := Tbl.wf_cons.mp ht
    have hk : Tbl.get u (d k) k = v := (h k).symm.trans (Tbl.get_cons_same ..)
    cases u with
    | nil => exact absurd hk.symm hv
    | cons q u =>
      obtain ⟨j, w⟩ := q
      obtain ⟨hju, hw, hu'⟩ := Tbl.wf_cons.mp hu
      rcases Nat.lt_trichotomy k j with hlt | rfl | hgt
      · exact absurd (hk.symm.trans (Tbl.get_cons_below _ _ _ hlt)) hv
      · obtain rfl : v = w := hk.symm.trans (Tbl.get_cons_same ..)
        refine congrArg _ (ih ht hu' fun i => ?_)
        rcases Nat.lt_or_ge k i with hlt | hle
        · rw [← Tbl.get_cons_above (d i) v t hlt, ← Tbl.get_cons_above (d i) v u hlt, h i]
        · rw [Tbl.get_above _ _ _ fun p hp => Nat.lt_of_le_of_lt hle (hkt p hp),
            Tbl.get_above _ _ _ fun p hp => Nat.lt_of_le_of_lt hle (hju p hp)]
      · have hj := (h j).trans (Tbl.get_cons_same ..)
        exact absurd (hj.symm.trans (Tbl.get_cons_below _ _ _ hgt)) hw

section
variable {α : Type} [DecidableEq α] {d : α} {t : Tbl α} (ht : Tbl.wf (fun _ => d) t = true)
include ht

/-- The last write of a key stands. -/
theorem Tbl.set_set (k : Nat) (v w : α) : Tbl.set (Tbl.set t d k v) d k w = Tbl.set t d k w := by
  have hr := Tbl.wf_rising _ t ht
  have hset (x : α) : Tbl.wf (fun _ => d) (Tbl.set t d k x) = true := Tbl.wf_set (fun _ => d) x k t ht
  refine Tbl.eq_of_get (d := fun _ => d) (Tbl.wf_set (fun _ => d) w k _ (hset v)) (hset w) fun j => ?_
  rw [Tbl.get_set _ _ _ _ _ (Tbl.rising_set d v k t hr), Tbl.get_set _ _ _ _ _ hr, Tbl.get_set _ _ _ _ _ hr]
  split <;> rfl

/-- Writing what a key reads changes nothing. -/
theorem Tbl.set_get (k : Nat) : Tbl.set t d k (Tbl.get t d k) = t := by
  refine Tbl.eq_of_get (d := fun _ => d) (Tbl.wf_set (fun _ => d) _ k t ht) ht fun j => ?_
  rw [Tbl.get_set _ _ _ _ _ (Tbl.wf_rising _ t ht)]
  split
  case isTrue h => rw [h]
  case isFalse => rfl

/-- Writes of two keys commute. -/
theorem Tbl.set_comm {j k : Nat} (hjk : j ≠ k) (v w : α) :
    Tbl.set (Tbl.set t d j v) d k w = Tbl.set (Tbl.set t d k w) d j v := by
  have hr := Tbl.wf_rising _ t ht
  have hset (i : Nat) (x : α) : Tbl.wf (fun _ => d) (Tbl.set t d i x) = true := Tbl.wf_set (fun _ => d) x i t ht
  refine Tbl.eq_of_get (d := fun _ => d) (Tbl.wf_set (fun _ => d) w k _ (hset j v)) (Tbl.wf_set (fun _ => d) v j _ (hset k w))
    fun i => ?_
  rw [Tbl.get_set _ _ _ _ _ (Tbl.rising_set d v j t hr), Tbl.get_set _ _ _ _ _ hr,
    Tbl.get_set _ _ _ _ _ (Tbl.rising_set d w k t hr), Tbl.get_set _ _ _ _ _ hr]
  split_ifs with hk hj
  · exact absurd (hj.symm.trans hk) hjk
  all_goals rfl

end

end Sys2Proof

namespace Sys2Proof.Machine

section
variable {s : State} (h : s.canonical = true)
include h

theorem State.setCore_setCore (n : Nat) (c d : Core) : (s.setCore n c).setCore n d = s.setCore n d := by
  simp only [State.setCore, Tbl.set_set (State.canonical_cores h)]

theorem State.setCore_core (n : Nat) : s.setCore n (s.core n) = s := by
  simp only [State.setCore, State.core, Tbl.set_get (State.canonical_cores h)]

theorem State.canonical_setCore (n : Nat) (c : Core) : (s.setCore n c).canonical = true :=
  (State.setCore_keeps (Keeps.refl s) n c).canon h

theorem State.canonical_settle (n : Nat) : (s.settle n).canonical = true := (State.settle_keeps (Keeps.refl s) n).canon h

end

end Sys2Proof.Machine
end

section
/-! PROOF. Scarab loads, stores and FMAC: the effect of an instruction that issues, and words of memory that no FFT job works on
(R112, R126, R130, R140). -/

namespace Sys2Proof.Machine

open Sys2Proof.Arith

/-! ### The effect of an instruction that issues -/

section
variable {s : State} {n : Nat} {t : Task} (h : s.issues n t)
include h

/-- A legal instruction leaves what its effect leaves. -/
theorem exec_issue {i : Instr} {legal : Bool} {body : State → Core → Task → Eff} (hlegal : legal = true)
    (hi : exec i s = .next (s.issue n legal body)) :
    exec i s = .next (s.onEff n (body (s.settle n) (s.reads n) t)) := by
  subst hlegal
  rw [hi, State.issue_legal h]

/-- An instruction that traps is the task's fault. -/
theorem exec_issue_trap {i : Instr} {legal : Bool} {body : State → Core → Task → Eff} {code : Nat} (hlegal : legal = true)
    (hi : exec i s = .next (s.issue n legal body)) (hb : body (s.settle n) (s.reads n) t = .trap code) :
    exec i s = .next ((s.settle n).taskFault n code) := by
  rw [exec_issue h hlegal hi, hb, State.onEff]

/-- An instruction that ends in a next state moves its core past it. -/
theorem exec_issue_ok {i : Instr} {legal : Bool} {body : State → Core → Task → Eff} {u : State} {cost : Nat}
    (hlegal : legal = true) (hi : exec i s = .next (s.issue n legal body))
    (hb : body (s.settle n) (s.reads n) t = .ok u cost) : exec i s = .next (u.advance n cost) := by
  rw [exec_issue h hlegal hi, hb, State.onEff]

/-- An instruction that stalls waits where it stands. -/
theorem exec_issue_wait {i : Instr} {legal : Bool} {body : State → Core → Task → Eff} {r : Stall} (hlegal : legal = true)
    (hi : exec i s = .next (s.issue n legal body)) (hb : body (s.settle n) (s.reads n) t = .wait r) :
    exec i s = .next ((s.settle n).setCore n { s.reads n with stall := some r, atPoint := true }) := by
  rw [exec_issue h hlegal hi, hb, State.onEff]

end

/-! ### Words of memory (R140) -/

theorem State.loadWord_of_notPoint {s : State} {n w : Nat} (h : s.fftPoint n w = false) :
    s.loadWord n w = (s.localWord n w, s) := by
  rw [State.loadWord, h]
  rfl

theorem State.fftPoint_setCore (s : State) (n k w : Nat) (c : Core) : (s.setCore k c).fftPoint n w = s.fftPoint n w := rfl

theorem State.eccChecked_clean (s : State) (n : Nat) : s.eccChecked n .clean = s := rfl

theorem effAddr_eq_address (c : Core) (f : MFmt) : effAddr c f = c.address f := rfl

theorem postUpdate_eq_postUpdated (c : Core) {f : MFmt} (h : f.mode ≠ 3) : postUpdate c f = c.postUpdated f := by
  have hmode : f.mode = 0 ∨ f.mode = 1 ∨ f.mode = 2 := by
    revert h
    generalize f.mode = m
    revert m
    decide
  rcases hmode with h | h | h <;> simp [postUpdate, Core.postUpdated, h]

/-- Settles O5: outside its faults FMAC adds the products of two doublewords that no job works on to its pair. -/
theorem fmacMultipliesDoublewordsAndUpdatesAddresses : Obligations.FmacMultipliesDoublewordsAndUpdatesAddresses := by
  unfold Obligations.FmacMultipliesDoublewordsAndUpdatesAddresses
  intro s n t f h c u x y word m p
  refine ⟨fun hodd => exec_issue_trap h rfl rfl ?align, fun hx hy hmay => exec_issue_trap h rfl rfl ?bounds,
    fun hx hy hx0 hx1 hy0 hy1 hpoint => ?_⟩
  case align => exact if_pos hodd
  case bounds => 
    have heven : ¬ (x % 2 = 1 ∨ y % 2 = 1) := by omega
    exact (if_neg heven).trans (if_pos hmay)
  have hword {w : Nat} (hw : w ∈ [x, x + 1, y, y + 1]) : u.loadWord n w = (u.localWord n w, u) :=
    State.loadWord_of_notPoint (hpoint w hw)
  obtain ⟨e, he, ho⟩ := c.dual_accumulates p (f.ka = 1) (word x) (word y) (word (x + 1)) (word (y + 1))
  simp only [decide_eq_true_eq] at he ho
  refine ⟨e, _, he, ho, ?_⟩
  refine exec_issue_ok h rfl rfl ?_
  have heven : ¬ (x % 2 = 1 ∨ y % 2 = 1) := by omega
  have hmay : ¬ ¬ (t.mayRead x && t.mayRead (x + 1) && t.mayRead y && t.mayRead (y + 1)) = true := by simp [hx0, hx1, hy0, hy1]
  refine (if_neg heven).trans ((if_neg hmay).trans ?_)
  have h0 := hword (w := x) (by simp)
  have h1 := hword (w := x + 1) (by simp)
  have h2 := hword (w := y) (by simp)
  have h3 := hword (w := y + 1) (by simp)
  simp only [u, x, y, c] at h0 h1 h2 h3
  simp only [checkTrap, h0, h1, h2, h3, State.eccChecked_clean]
  rfl

/-- A store to a word that no job works on waits in flight beside the core's results (R130). -/
theorem State.storeWord_of_notPoint {s : State} (hs : s.canonical = true) {n w : Nat} (c : Core) (v : W32)
    (h : s.fftPoint n w = false) :
    (s.setCore n c).storeWord n w v = s.setCore n (c.later 3 (.mem w) (v.setWidth 72)) := by
  simp only [State.storeWord, State.core_setCore_same hs, State.setCore_setCore hs, State.fftPoint_setCore, h, if_false,
    Bool.false_eq_true]

/-- Settles O6: each arm of the effect by its condition; loads read a word that no job works on, stores wait in flight. -/
theorem loadsAndStoresActOnTheTasksMemory : Obligations.LoadsAndStoresActOnTheTasksMemory := by
  unfold Obligations.LoadsAndStoresActOnTheTasksMemory
  refine ⟨fun s n t f h hmode => ?load, fun s n t f hcanon h hmode => ?store⟩
  case load =>
    dsimp only
    have hlegal : decide (f.mode ≠ 3) = true := decide_eq_true hmode
    have hlegal2 (hd : f.d.toNat % 2 = 0) : (decide (f.mode ≠ 3) && decide (f.d.toNat % 2 = 0)) = true := by
      rw [hlegal, decide_eq_true hd, Bool.and_self]
    refine ⟨fun hmay chk => exec_issue_trap h hlegal rfl ?bounds, fun hmay => ⟨exec_issue_trap h hlegal rfl ?double,
        exec_issue_trap h hlegal rfl ?parity, fun hpoint => exec_issue_ok h hlegal rfl ?word⟩,
      fun hd hodd chk => exec_issue_trap h (hlegal2 hd) rfl ?align, fun hd heven hmay chk => exec_issue_trap h (hlegal2 hd) rfl ?bounds2,
      fun hd heven hmay0 hmay1 hpoint0 hpoint1 => exec_issue_ok h (hlegal2 hd) rfl ?words⟩
    all_goals simp only [effAddr_eq_address]
    case bounds => simp [hmay]
    case double => simp [hmay, checkTrap]
    case parity => simp [hmay, checkTrap]
    case word =>
      simp [hmay, checkTrap, State.loadWord_of_notPoint hpoint, State.eccChecked_clean, postUpdate_eq_postUpdated _ hmode]
    case align => simp [hodd]
    case bounds2 => simp only [heven, hmay]; simp
    case words =>
      simp [heven, hmay0, hmay1, checkTrap, State.loadWord_of_notPoint hpoint0, State.loadWord_of_notPoint hpoint1,
        State.eccChecked_clean, postUpdate_eq_postUpdated _ hmode]
  case store =>
    dsimp only
    have hu : (s.settle n).canonical = true := State.canonical_settle hcanon n
    have hlegal : decide (f.mode ≠ 3) = true := decide_eq_true hmode
    have hlegal2 (hd : f.d.toNat % 2 = 0) : (decide (f.mode ≠ 3) && decide (f.d.toNat % 2 = 0)) = true := by
      rw [hlegal, decide_eq_true hd, Bool.and_self]
    refine ⟨fun hmay => exec_issue_trap h hlegal rfl ?bounds, fun hmay hpoint => exec_issue_ok h hlegal rfl ?word,
      fun hd hodd => exec_issue_trap h (hlegal2 hd) rfl ?align, fun hd heven hmay => exec_issue_trap h (hlegal2 hd) rfl ?bounds2,
      fun hd heven hmay0 hmay1 hpoint0 hpoint1 => exec_issue_ok h (hlegal2 hd) rfl ?words⟩
    all_goals simp only [effAddr_eq_address]
    case bounds => simp [hmay]
    case word => simp [hmay, State.storeWord_of_notPoint hu _ _ hpoint, postUpdate_eq_postUpdated _ hmode]
    case align => simp [hodd]
    case bounds2 => simp only [heven, hmay]; simp
    case words =>
      simp [heven, hmay0, hmay1, State.storeWord_of_notPoint hu _ _ hpoint0, State.storeWord_of_notPoint hu _ _ hpoint1,
        postUpdate_eq_postUpdated _ hmode]

end Sys2Proof.Machine
end

section
/-! PROOF. Scarab control: transfers with their delay slots, REPEAT (R132, R133). -/

namespace Sys2Proof.Machine

open Sys2Proof.Arith

/-! ### Transfers (R132) -/

theorem Core.freeOfSlots_iff (c : Core) : c.freeOfSlots = true ↔ c.delay = none ∧ c.loops = [] := by
  simp [Core.freeOfSlots]

theorem bitVec3_cases : ∀ k : BitVec 3, k ≠ 7 → k = 0 ∨ k = 1 ∨ k = 2 ∨ k = 3 ∨ k = 4 ∨ k = 5 ∨ k = 6 := by decide

section
variable {s : State} {n : Nat} {t : Task} (h : s.issues n t)
include h

/-- A transfer in a delay slot or a REPEAT body is illegal. -/
theorem exec_transfer_slot {i : Instr} {legal : Bool} {body : State → Core → Task → Eff} (hmay : ¬ s.mayTransfer n)
    (hlegal : legal = true) (hi : exec i s = .next (s.issue n legal body))
    (hb : ¬ (s.reads n).freeOfSlots → body (s.settle n) (s.reads n) t = .trap 1) :
    exec i s = .next ((s.settle n).taskFault n 1) :=
  exec_issue_trap h hlegal hi (hb ((Core.freeOfSlots_iff _).not.mpr hmay))

/-- A transfer that may stand where it does, to a place inside the task's region. -/
theorem exec_goto_inside {i : Instr} {legal : Bool} {body : State → Core → Task → Eff} {c : Core} {x : Int}
    (hlegal : legal = true) (hi : exec i s = .next (s.issue n legal body))
    (hb : body (s.settle n) (s.reads n) t = goto (s.settle n) n c t x)
    (hx : 0 ≤ x ∧ x < 2 ^ 14 ∧ t.inRegion x.toNat = true) :
    exec i s = s.leaves n { c with delay := some ⟨.goto x.toNat, 3⟩ } 1 :=
  exec_issue_ok h hlegal hi (hb.trans (if_pos hx))

end

/-- Settles O8: in a slot or body every transfer traps; elsewhere BR goes by its condition, and its target by the region. -/
theorem controlTransfersWaitForTheirDelaySlots : Obligations.ControlTransfersWaitForTheirDelaySlots := by
  unfold Obligations.ControlTransfersWaitForTheirDelaySlots
  intro s n t f h c u v holds off inside after
  have hcond (hne : f.cond ≠ 7) : condHolds f.cond.toNat v = some true ↔ holds := by
    simp only [holds]
    rcases bitVec3_cases f.cond hne with hk | hk | hk | hk | hk | hk | hk <;> rw [hk] <;> simp [condHolds]
  have hbr (hne : f.cond ≠ 7) : decide (f.cond ≠ 7) = true := decide_eq_true hne
  have hcall (hs : f.s = 0) (hk : f.cond = 0) : (decide (f.s = 0) && decide (f.cond = 0)) = true := by simp [hs, hk]
  have hjr (hk : f.cond = 0) (ho : f.ofs = 0) : (decide (f.cond = 0) && decide (f.ofs = 0)) = true := by simp [hk, ho]
  have hclear (hs : f.s = 0) (hk : f.cond = 0) (ho : f.ofs = 0) :
      (decide (f.s = 0) && decide (f.cond = 0) && decide (f.ofs = 0)) = true := by simp [hs, hk, ho]
  refine ⟨fun hmay => ?free, fun hslot => ?slot⟩
  case free =>
    have hfree : ¬ ¬ c.freeOfSlots = true := not_not.mpr ((Core.freeOfSlots_iff _).mpr hmay)
    refine ⟨fun hne hnot => exec_issue_ok h (hbr hne) rfl ?notTaken, fun hne hyes hin => exec_goto_inside h (hbr hne) rfl ?taken hin,
      fun hne hyes hout => exec_issue_trap h (hbr hne) rfl ?bounds,
      fun hs hk hin => exec_goto_inside h (hcall hs hk) rfl (if_neg hfree) hin, ?jr,
      fun hs hk ho => exec_issue_ok h (hclear hs hk ho) rfl (if_neg hfree),
      fun hs hk ho hin => exec_issue_ok h (hclear hs hk ho) rfl (if_neg ?tend)⟩
    case notTaken => exact (if_neg hfree).trans (if_neg ((hcond hne).not.mpr hnot))
    case taken => exact (if_neg hfree).trans (if_pos ((hcond hne).mpr hyes))
    case bounds => exact ((if_neg hfree).trans (if_pos ((hcond hne).mpr hyes))).trans (if_neg hout)
    case jr =>
      intro x hk ho hin
      exact exec_goto_inside (i := .jr n f) (x := (x : Int)) h (hjr hk ho) rfl (if_neg hfree) hin
    case tend => simp [c, hin, not_not.mp hfree]
  case slot =>
    refine ⟨fun hne => exec_transfer_slot h hslot (hbr hne) rfl fun hb => if_pos hb, fun hs hk ho i hi => ?_⟩
    simp only [List.mem_cons, List.not_mem_nil, or_false] at hi
    rcases hi with rfl | rfl | rfl | rfl
    · exact exec_transfer_slot h hslot (hcall hs hk) rfl fun hb => if_pos hb
    · exact exec_transfer_slot h hslot (hjr hk ho) rfl fun hb => if_pos hb
    · exact exec_transfer_slot h hslot (hclear hs hk ho) rfl fun hb => if_pos hb
    · exact exec_transfer_slot h hslot (hclear hs hk ho) rfl fun hb => if_pos (.inl hb)

/-! ### REPEAT (R133) -/

/-- The passes of a REPEAT: COUNT, or the low half of the register that it names. -/
def Core.repeatCount (c : Core) (f : PFmt) : Nat :=
  if f.cr = 1 then (c.rd f.count.toNat).toNat % 2 ^ 16 else f.count.toNat

/-- Where a REPEAT of `len` instructions may stand: in no handler or delay slot, at nesting below two, and no outer body ends
before its own. -/
def Core.repeatFits (c : Core) (len : Nat) : Prop :=
  c.inHandler = false ∧ c.delay = none ∧ c.loops.length < 2 ∧ ∀ o ∈ c.loops, c.pc + 1 + len ≤ o.start + o.len

/-- What REPEAT does where it issues. -/
def repeatBody (f : PFmt) (n : Nat) (s : State) (c : Core) (t : Task) : Eff :=
  let len := f.len1.toNat + 1
  if c.inHandler ∨ c.delay.isSome ∨ 2 ≤ c.loops.length then .trap 1
  else if c.loops.any (fun o => decide (o.start + o.len < c.pc + 1 + len)) then .trap 1
  else if ¬ (t.inRegion (c.pc + 1) && t.inRegion (c.pc + len)) then .trap 2
  else if c.repeatCount f = 0 then .ok (s.setCore n { c with pc := c.pc + len }) 1
  else .ok (s.setCore n { c with loops := ⟨c.pc + 1, len, c.repeatCount f⟩ :: c.loops })
    (if c.loops = [] then 1 + (len + 3) / 4 else 1)

theorem execHwRepeat_eq (s : State) (n : Nat) {f : PFmt} (hcount : f.cr = 1 → f.count.toNat < 32) :
    exec (.hwRepeat n f) s = .next (s.issue n (f.z1 = 0 && (f.cr = 0 || decide (f.count.toNat < 32))) (repeatBody f n)) := by
  have hreg (c : Core) : (if f.cr = 1 then (c.rd (f.count.toNat % 32)).toNat % 65536 else f.count.toNat) = c.repeatCount f := by
    unfold Core.repeatCount
    split
    case isTrue hcr => rw [Nat.mod_eq_of_lt (hcount hcr)]; rfl
    case isFalse => rfl
  have hlast (c : Core) : c.pc + 1 + (f.len1.toNat + 1) - 1 = c.pc + (f.len1.toNat + 1) := by omega
  show execHwRepeat n f s = _
  simp only [execHwRepeat, hreg, hlast]
  rfl

theorem repeatBody_of_fits {f : PFmt} {n : Nat} {s : State} {c : Core} {t : Task} (h : c.repeatFits (f.len1.toNat + 1)) :
    repeatBody f n s c t =
      if ¬ (t.inRegion (c.pc + 1) && t.inRegion (c.pc + (f.len1.toNat + 1))) then .trap 2
      else if c.repeatCount f = 0 then .ok (s.setCore n { c with pc := c.pc + (f.len1.toNat + 1) }) 1
      else .ok (s.setCore n { c with loops := ⟨c.pc + 1, f.len1.toNat + 1, c.repeatCount f⟩ :: c.loops })
        (if c.loops = [] then 1 + (f.len1.toNat + 1 + 3) / 4 else 1) := by
  obtain ⟨hin, hdelay, hlen, hbody⟩ := h
  have hfirst : ¬ (c.inHandler = true ∨ c.delay.isSome = true ∨ 2 ≤ c.loops.length) := by
    simp [hin, hdelay, hlen]
  have hinner : ¬ c.loops.any (fun o => decide (o.start + o.len < c.pc + 1 + (f.len1.toNat + 1))) = true := by
    simpa [List.any_eq_true] using hbody
  rw [repeatBody, if_neg hfirst, if_neg hinner]

theorem repeatBody_of_notFits {f : PFmt} {n : Nat} {s : State} {c : Core} {t : Task} (h : ¬ c.repeatFits (f.len1.toNat + 1)) :
    repeatBody f n s c t = .trap 1 := by
  unfold repeatBody
  dsimp only
  split_ifs with hfirst hinner
  · rfl
  · rfl
  all_goals
    refine absurd ⟨?_, ?_, ?_, ?_⟩ h
    all_goals simp_all [List.any_eq_true]

/-- Settles O9: REPEAT traps where it does not fit or its body leaves the region; else its count tells where it goes on. -/
theorem repeatLoopsOverItsBody : Obligations.RepeatLoopsOverItsBody := by
  unfold Obligations.RepeatLoopsOverItsBody
  intro s n t f h hz hcount c len count fits inside
  have hi := execHwRepeat_eq s n hcount
  have hlegal : (decide (f.z1 = 0) && (decide (f.cr = 0) || decide (f.count.toNat < 32))) = true := by
    have hcr : ∀ b : BitVec 1, b = 0 ∨ b = 1 := by decide
    rcases hcr f.cr with h0 | h1
    · simp [hz, h0]
    · simp [hz, hcount h1]
  have hregion : (t.inRegion (c.pc + 1) && t.inRegion (c.pc + len)) = true ↔ inside := Bool.and_eq_true ..  ▸ Iff.rfl
  refine ⟨fun hfits hin h0 => exec_issue_ok h hlegal hi ?zero, fun hfits hin hpos => exec_issue_ok h hlegal hi ?loop,
    fun hfits hout => exec_issue_trap h hlegal hi ?bounds, fun hnot => exec_issue_trap h hlegal hi (repeatBody_of_notFits hnot)⟩
  all_goals rw [repeatBody_of_fits hfits]
  case zero => exact (if_neg (not_not.mpr (hregion.mpr hin))).trans (if_pos h0)
  case loop => exact (if_neg (not_not.mpr (hregion.mpr hin))).trans (if_neg (Nat.ne_of_gt hpos))
  case bounds => exact if_pos (hregion.not.mpr hout)

end Sys2Proof.Machine
end

section
/-! PROOF. Scarab CSRs and mailboxes: what each CSR's row returns and writes (R141), messages in and out (R144, R145). -/

namespace Sys2Proof.Machine

open Sys2Proof.Arith

/-! ### CSRs (R141) -/

section
variable {s : State} {n : Nat} {t : Task} (h : s.issues n t) {f : IFmt}
include h

/-- A CSRR of a CSR that its row lets read. -/
theorem exec_csrr {w : W32} (hs : f.s = 0) (hread : (s.settle n).csrRead n f.imm.toNat = some w) :
    exec (.csrr n f) s = s.leaves n ((s.reads n).toD 2 f.d.toNat w) 1 :=
  exec_issue_ok h (decide_eq_true hs) rfl (by rw [hread])

theorem exec_csrr_illegal (hs : f.s = 0) (hread : (s.settle n).csrRead n f.imm.toNat = none) :
    exec (.csrr n f) s = .next ((s.settle n).taskFault n 1) :=
  exec_issue_trap h (decide_eq_true hs) rfl (by rw [hread])

/-- A CSRW of a CSR that its row lets write. -/
theorem exec_issueCsrw {i : Instr} {k : Nat} {u : State} (hd : f.d = 0) (hi : exec i s = .next (s.issueCsrw n f k))
    (hwrite : (s.settle n).csrWrite n k ((s.reads n).rd f.s.toNat) = some u) : exec i s = .next (u.advance n 1) :=
  exec_issue_ok h (decide_eq_true hd) hi (by rw [hwrite])

theorem exec_csrw_illegal (hd : f.d = 0)
    (hwrite : (s.settle n).csrWrite n f.imm.toNat ((s.reads n).rd f.s.toNat) = none) :
    exec (.csrw n f) s = .next ((s.settle n).taskFault n 1) :=
  exec_issue_trap h (decide_eq_true hd) rfl (by rw [hwrite])

end

/-- R141: the CSRs that CSRR reads. -/
theorem State.csrRead_of_notMem {s : State} {n k : Nat} (hk : k ∉ [0x000, 0x001, 0x002, 0x003, 0x004, 0x005, 0x008, 0x009, 0x00A,
    0x00B, 0x00C, 0x010, 0x011, 0x012, 0x014, 0x019, 0x01C]) : s.csrRead n k = none := by
  unfold State.csrRead
  split <;> first | rfl | simp at hk

/-- R141: the CSRs that CSRW writes. -/
theorem State.csrWrite_of_notMem {s : State} {n k : Nat} {v : W32} (hk : k ∉ [0x000, 0x001, 0x002, 0x003, 0x00D, 0x010, 0x011,
    0x012, 0x013, 0x018, 0x01A]) : s.csrWrite n k v = none := by
  unfold State.csrWrite
  split <;> first | rfl | simp at hk

/-- MSG0 to MSG3 show the oldest message released to the running task. -/
theorem State.csrRead_msg {s : State} {n k : Nat} {m : InMsg} {rest : List InMsg} (hmsgs : (s.core n).releasedMsgs = m :: rest)
    (hk : k < 4) : s.csrRead n (0x009 + k) = some (m.words.getD k 0) := by
  have hcases : k = 0 ∨ k = 1 ∨ k = 2 ∨ k = 3 := by omega
  rcases hcases with rfl | rfl | rfl | rfl <;> simp only [State.csrRead, hmsgs, List.map_cons, List.headD_cons]

/-- MBPOP removes the first message that was released to the running task. -/
theorem Core.popMsg_of_split {c : Core} {m : InMsg} {pre rest : List InMsg} (hbox : c.mbin = pre ++ m :: rest)
    (hrel : m.released = true) (hrun : c.running = some (m.slot, m.task))
    (hpre : ∀ o ∈ pre, ¬ (o.released = true ∧ (o.slot, o.task) = (m.slot, m.task))) :
    c.popMsg = { c with mbin := pre ++ rest } := by
  have hfind : c.mbin.findIdx? (fun o => o.released && decide ((o.slot, o.task) = (m.slot, m.task))) = some pre.length := by
    rw [hbox, List.findIdx?_append, List.findIdx?_eq_none_iff.mpr]
    · simp [List.findIdx?_cons, hrel]
    · intro o ho
      simpa using hpre o ho
  simp only [Core.popMsg, hrun, hfind]
  rw [hbox, List.eraseIdx_append_of_length_le (Nat.le_refl _)]
  simp

theorem State.moverGo_idle {s : State} {n : Nat} {t : Task} (v : W32) (hmover : (s.core n).mover = none)
    (hrun : (s.core n).current = some t) : s.moverGo n v = s.setCore n { s.core n with
      mvErr := false
      mover := some { base := t.base, size := t.size, toYard := v.getLsbD 0, qos := v.toNat / 2 % 16, loc := (s.core n).mvLoc,
                      rem := (s.core n).mvRem, len := (s.core n).mvLen } } := by
  have hbit : decide (v.toNat % 2 = 1) = v.getLsbD 0 := by
    rw [BitVec.getLsbD, Nat.testBit_zero]
  simp only [State.moverGo, hmover, hrun, hbit, Option.isSome_none, Bool.false_eq_true, if_false]
  rfl

theorem State.moverGo_busy {s : State} {n : Nat} (v : W32) (hmover : (s.core n).mover ≠ none) :
    s.moverGo n v = s.setCore n ((s.core n).setErr 1) := if_pos (Option.isSome_iff_ne_none.mpr hmover)

/-- Settles O10: CSRR and CSRW by the rows of their tables; the four rows of their own by what each does. -/
theorem csrsReadWriteAndAct : Obligations.CsrsReadWriteAndAct := by
  unfold Obligations.CsrsReadWriteAndAct
  refine ⟨fun s n t f h => ?table, fun s n t f h hd => ?rows⟩
  case table =>
    intro c u x returns writes
    have read (k v : Nat) (hread : u.csrRead n k = some (BitVec.ofNat 32 v)) : returns k v :=
      fun hs hk => exec_csrr h hs (hk ▸ hread)
    have write (k : Nat) (c' : Core) (hwrite : u.csrWrite n k (c.rd f.s.toNat) = some (u.setCore n c')) : writes k c' :=
      fun hd hk => exec_issueCsrw h hd rfl (hk ▸ hwrite)
    refine ⟨read _ _ rfl, read _ _ rfl, read _ _ rfl, read _ _ rfl, read _ _ rfl, read _ _ rfl, read _ _ rfl, read _ _ rfl,
      read _ _ rfl, read _ _ rfl, read _ _ ?mover, read _ _ ?lock, read _ _ rfl, fun m rest hmsgs k hk => read _ _ ?msg,
      write _ _ rfl, write _ _ rfl, write _ _ rfl, write _ _ rfl, write _ _ rfl, write _ _ rfl, write _ _ rfl,
      fun hs hk => exec_csrr_illegal h hs (State.csrRead_of_notMem hk),
      fun hd hk => exec_csrw_illegal h hd (State.csrWrite_of_notMem hk)⟩
    case mover => cases hm : c.mover <;> cases he : c.mvErr <;> simp [State.csrRead, b2n, ← show c = u.core n from rfl, hm, he]
    case lock => cases hb : c.lkBroken <;> simp [State.csrRead, b2n, ← show c = u.core n from rfl, hb]
    case msg => rw [State.csrRead_msg hmsgs hk, BitVec.ofNat_toNat, BitVec.setWidth_eq]
  case rows =>
    intro c u x
    have hcur : (u.core n).current = some t := h.2.1
    have row (i : Instr) (k : Nat) {v : State} (hi : exec i s = .next (s.issueCsrw n f k))
        (hwrite : u.csrWrite n k x = some v) : exec i s = .next (v.advance n 1) := exec_issueCsrw h hd hi hwrite
    refine ⟨fun m rest pre hbox hrel hrun hpre => ?pop, fun hm => ?go, fun hm => ?busy, ?request, fun hup => ?release, fun hdown => ?down⟩
    case pop =>
      refine row (.mbpop n f) 0x00D rfl (congrArg some (congrArg (u.setCore n) ?_))
      exact Core.popMsg_of_split hbox hrel hrun hpre
    case go => exact row (.mvGo n f) 0x013 rfl (congrArg some (State.moverGo_idle x hm hcur))
    case busy => exact row (.mvGo n f) 0x013 rfl (congrArg some (State.moverGo_busy x hm))
    case request =>
      intro v w hup hrun
      have hheld : u.held .mem = false := by simpa [State.up] using hup
      have hreq : u.coreLockRequest n (x.toNat % 256) =
          if (w.lkState = 1 ∨ w.lkState = 2) ∧ w.lkLock = x.toNat % 256 then
            v.setCore n { w with holds := (x.toNat % 256, t.slot, t.idx) :: w.holds.filter (fun h => decide (h.1 ≠ x.toNat % 256)) }
          else v := by
        simp only [State.coreLockRequest, hheld, Bool.false_eq_true, if_false, hrun, v, w]
      exact ⟨fun hst hlk => row (.lkReq n f) 0x018 rfl (congrArg some (hreq.trans (if_pos ⟨hst, hlk⟩))),
        fun hnot => row (.lkReq n f) 0x018 rfl (congrArg some (hreq.trans (if_neg hnot)))⟩
    case release => exact row (.lkRel n f) 0x01A rfl (congrArg some (if_pos hup))
    case down =>
      have hheld : u.held .mem = true := by simpa [State.up] using hdown
      exact ⟨row (.lkReq n f) 0x018 rfl (congrArg some (if_pos hheld)),
        row (.lkRel n f) 0x01A rfl (congrArg some (if_neg (by simp [hdown])))⟩

end Sys2Proof.Machine
end

section
/-! PROOF. Mailboxes of the cores (R144, R145, R151). -/

namespace Sys2Proof.Machine

open Sys2Proof.Arith

theorem range4_map {α : Type} (f : Nat → α) : (List.range 4).map f = [f 0, f 1, f 2, f 3] := rfl

/-- The slots that have a task `task` on core `n`. -/
theorem State.mem_msgSlots {s : State} {n task k : Nat} :
    k ∈ ((s.core n).tasks.filter (fun t => decide (t.idx = task))).map (·.slot) ↔
      ∃ t ∈ (s.core n).tasks, t.idx = task ∧ t.slot = k := by
  simp [and_assoc]

/-- A message goes to the slot of the one task with its index, or to the ACTIVE slot's where two programs have it. -/
theorem State.msgSlot_eq {s : State} {n k task : Nat} (hmem : ∃ t ∈ (s.core n).tasks, t.idx = task ∧ t.slot = k)
    (honly : ∀ t ∈ (s.core n).tasks, t.idx = task → t.slot = k ∨ (s.slotState k = 3 ∧ s.slotState t.slot ≠ 3)) :
    s.msgSlot n task = some k := by
  have hk := State.mem_msgSlots.mpr hmem
  have hother {j : Nat} (hj : j ∈ ((s.core n).tasks.filter (fun t => decide (t.idx = task))).map (·.slot)) :
      j = k ∨ (s.slotState k = 3 ∧ s.slotState j ≠ 3) := by
    obtain ⟨t, ht, hidx, rfl⟩ := State.mem_msgSlots.mp hj
    exact honly t ht hidx
  unfold State.msgSlot
  dsimp only
  generalize ((s.core n).tasks.filter (fun t => decide (t.idx = task))).map (·.slot) = l at hk hother
  cases hactive : l.find? (fun j => decide (s.fget (F.ENG_SLOT_STAT_STATE j) = 3)) with
  | some j =>
    have hj3 : s.slotState j = 3 := by simpa [State.slotState] using List.find?_some hactive
    rcases hother (List.mem_of_find?_eq_some hactive) with rfl | ⟨-, hj⟩
    · rfl
    · exact absurd hj3 hj
  | none =>
    have hk3 : s.slotState k ≠ 3 := by simpa [State.slotState] using List.find?_eq_none.mp hactive k hk
    cases l with
    | nil => cases hk
    | cons j l =>
      rcases hother List.mem_cons_self with rfl | ⟨hk, -⟩
      · rfl
      · exact absurd hk hk3

theorem State.msgSlot_none {s : State} {n task : Nat} (h : ∀ t ∈ (s.core n).tasks, t.idx ≠ task) : s.msgSlot n task = none := by
  have hnil : (s.core n).tasks.filter (fun t => decide (t.idx = task)) = [] :=
    List.filter_eq_nil_iff.mpr fun t ht => by simpa using h t ht
  simp only [State.msgSlot, hnil, List.map_nil, List.find?_nil, List.head?_nil]

/-- A full queue drops what comes, whichever slot it is for. -/
theorem State.enqueueMsg_full {s : State} {n task mode : Nat} {tick : W32} {words : List W32} (h : 16 ≤ (s.core n).mbin.length) :
    s.enqueueMsg n task mode tick words = s.count (F.SCB_MBIN_STAT_DROP n) 1 := by
  unfold State.enqueueMsg
  cases s.msgSlot n task with
  | none => rfl
  | some k => exact if_pos h

/-- Settles O11: MBPOST by the room of its queue; a message in by its slot and the room; MBOUT_POP by its bit. -/
theorem mailboxesQueueSixteenMessages : Obligations.MailboxesQueueSixteenMessages := by
  unfold Obligations.MailboxesQueueSixteenMessages
  refine fun s n => ⟨fun t f h hz hs ht => ?post, fun v k heng => ?enqueue, fun v heng => ?pop⟩
  case post =>
    intro c d
    have hlegal : (decide (f.z = 0) && decide (f.s.toNat ≤ 28) && decide (f.t = 0)) = true := by simp [hz, hs, ht]
    exact ⟨fun hroom => exec_issue_ok h hlegal rfl (if_pos hroom),
      fun hfull => exec_issue_ok h hlegal rfl (if_neg (Nat.not_lt.mpr hfull))⟩
  case enqueue =>
    intro c task mode now
    have htask : bits v.toNat 15 0 = task := by simp [bits, task]
    have hmode : bits v.toNat 31 31 = mode := by simp only [bits, mode]; have := v.isLt; omega
    have hrun : exec (.mbinEnqueue n v) s = .next (s.enqueueMsg n task mode (s.reg (A.SCB_MBIN_TICK n))
        [s.reg (A.SCB_MBIN_W n 0), s.reg (A.SCB_MBIN_W n 1), s.reg (A.SCB_MBIN_W n 2), s.reg (A.SCB_MBIN_W n 3)]) := by
      rw [← htask, ← hmode]
      exact congrArg Host.Outcome.next (if_neg (by simp [heng]))
    refine ⟨fun hroom hmem honly => hrun.trans (congrArg _ ?_), fun hdrop => hrun.trans (congrArg _ ?_)⟩
    · rw [State.enqueueMsg, State.msgSlot_eq hmem honly]
      exact if_neg (Nat.not_le.mpr hroom)
    · rcases hdrop with hfull | hnone
      · exact State.enqueueMsg_full hfull
      · rw [State.enqueueMsg, State.msgSlot_none hnone]
  case pop =>
    have hbit : v.getLsbD 0 = decide (v.toNat % 2 = 1) := by rw [BitVec.getLsbD, Nat.testBit_zero]
    refine ⟨fun hset => congrArg Host.Outcome.next (if_neg ?_), fun hclear => congrArg Host.Outcome.next (if_pos ?_)⟩
    all_goals simp_all

end Sys2Proof.Machine
end

section
/-! PROOF. FFT jobs and mover transfers (R131, R138 to R142). -/

namespace Sys2Proof.Machine

open Sys2Proof.Arith

/-! ### FFT jobs (R138 to R140) -/

theorem State.submitFft_fits {s : State} {n : Nat} {f : GFmt} {t : Task}
    (hfits : (s.core n).ra f.ax.toNat % 2 = 0 ∧ t.base ≤ (s.core n).ra f.ax.toNat ∧
      (s.core n).ra f.ax.toNat + 2 ^ (f.size.toNat + 4 + 1) ≤ t.base + t.size) :
    s.submitFft n f t = s.setFftUnit (n / 8) { s.fftUnit (n / 8) with waiting := (s.fftUnit (n / 8)).waiting ++
      [⟨n, (s.core n).ra f.ax.toNat, f.size.toNat + 4, f.inv = 1, f.keep = 1, false⟩] } :=
  if_neg (by omega)

theorem State.submitFft_notFits {s : State} {n : Nat} {f : GFmt} {t : Task}
    (hfits : ¬ ((s.core n).ra f.ax.toNat % 2 = 0 ∧ t.base ≤ (s.core n).ra f.ax.toNat ∧
      (s.core n).ra f.ax.toNat + 2 ^ (f.size.toNat + 4 + 1) ≤ t.base + t.size)) :
    s.submitFft n f t = s.setCore n ((s.core n).setErr 8) :=
  if_pos (by omega)

/-- FFT_JOB_DONE of a unit that runs job `j`. -/
theorem exec_fftJobDone {s : State} {unit : Nat} {j : FftJob} {rest : List FftJob} (hunit : s.fftUnit unit = ⟨some j, rest⟩)
    (e : JobEnd) : exec (.fftJobDone unit e) s = .next (
      let u := s.setFftUnit unit ⟨none, rest⟩
      if e.chk = .double then u.taskFault j.core 4
      else
        let u := if e.chk = .single then u.bump (A.SCB_ECC_CNT j.core) else u
        let z := fftRun j.inv j.lg (u.fftPoints j)
        let u := u.setCore j.core ((u.core j.core).dropStores j)
        if j.spoiled then ((u.draw 5).2.freePoints j).endJob j (u.draw 5).1 e.cycle
        else (u.setFftPoints j z.1).endJob j z.2 e.cycle) := by
  show execFftJobDone unit e s = _
  simp only [execFftJobDone, hunit]

/-! ### Mover transfers (R142) -/

/-- What a transfer that ends leaves of its core: MV_STAT idle, with ERROR and MOVER where a doubleword failed. -/
def State.stopMover (u : State) (n : Nat) (ok : Bool) : State := u.setCore n (
  if ok then { u.core n with mover := none } else { (u.core n).setErr 1 with mover := none, mvErr := true })

/-- MOVER_DONE of a transfer none of whose doublewords waits. -/
theorem exec_moverDone {s : State} {n : Nat} {j : MoverJob} {e : MoveEnd} (hj : (s.core n).mover = some j)
    (heng : s.held .eng = false) (hn : n < 32) (hgo : ∀ i < min j.len e.done, s.txBlocked (j.tx n i 0) = false) :
    exec (.moverDone n e) s = .next (
      let r := if j.base ≤ j.loc ∧ j.loc / 2 * 2 + 2 * j.len ≤ j.base + j.size then s.moveFrom n j 0 (min j.len e.done)
        else (false, s)
      let u := r.2.stopMover n (r.1 && decide (j.len ≤ e.done))
      if j.toYard ∧ e.chk = .double then u.taskFault n 4
      else ((if j.toYard ∧ e.chk = .single then u.bump (A.SCB_ECC_CNT n) else u).waitTo n e.cycle).resume n) := by
  have hwaits : (List.range (min j.len e.done)).any (fun i => s.txBlocked (j.tx n i 0)) = false := by
    simpa [List.any_eq_false] using hgo
  have hacts : ¬ (s.held .eng = true ∨ 32 ≤ n ∨
      (List.range (min j.len e.done)).any (fun i => s.txBlocked (j.tx n i 0)) = true) := by simp [heng, hn, hwaits]
  show execMoverDone n e s = _
  simp only [execMoverDone, hj, hacts, if_false]
  generalize (if j.base ≤ j.loc ∧ j.loc / 2 * 2 + 2 * j.len ≤ j.base + j.size then s.moveFrom n j 0 (min j.len e.done)
    else (false, s)) = r
  have hstop : r.2.setCore n (if (r.1 && decide (j.len ≤ e.done)) = true then { r.2.core n with mover := none }
      else { ({ r.2.core n with mover := none } : Core).setErr 1 with mvErr := true }) =
      r.2.stopMover n (r.1 && decide (j.len ≤ e.done)) := rfl
  rw [hstop]

/-- A transfer with a doubleword that waits goes on waiting. -/
theorem exec_moverDone_waits {s : State} {n : Nat} {j : MoverJob} {e : MoveEnd} (hj : (s.core n).mover = some j)
    (hwait : ∃ i < min j.len e.done, s.txBlocked (j.tx n i 0) = true) : exec (.moverDone n e) s = .next s := by
  have hwaits : (List.range (min j.len e.done)).any (fun i => s.txBlocked (j.tx n i 0)) = true := by
    simpa [List.any_eq_true] using hwait
  show execMoverDone n e s = _
  simp only [execMoverDone, hj, hwaits, or_true, if_true]

/-- Settles O12: FFT and FWAIT by whether the core may and its job runs; a unit's and a mover's end by what they find. -/
theorem fftJobsAndMoverTransfersRun : Obligations.FftJobsAndMoverTransfersRun := by
  unfold Obligations.FftJobsAndMoverTransfersRun
  refine ⟨fun s n t h => ⟨fun f hz1 hz hsize => ?fft, fun f hd hs ht hz => ?fwait⟩, fun s unit cycle => ⟨?start, ?done⟩, ?mover⟩
  case fft =>
    intro base lg fits
    have hlegal : (decide (f.z1 = 0) && decide (f.z = 0) && decide (f.size.toNat ≤ 6)) = true := by simp [hz1, hz, hsize]
    have hmay : (s.reads n).inHandler = false ∧ (s.reads n).loops = [] →
        ¬ ((s.reads n).inHandler = true ∨ (s.reads n).loops ≠ []) := by simp
    refine ⟨fun may hidle hfits => exec_issue_ok h hlegal rfl ?_, fun may hidle hnot => exec_issue_ok h hlegal rfl ?_,
      fun may hbusy => exec_issue_wait h hlegal rfl ?_, fun not => exec_issue_trap h hlegal rfl (if_pos ?_)⟩
    · rw [if_neg (hmay may), hidle]
      exact congrArg (Eff.ok · 1) (State.submitFft_fits hfits)
    · rw [if_neg (hmay may), hidle]
      exact congrArg (Eff.ok · 1) (State.submitFft_notFits hnot)
    · rw [if_neg (hmay may), hbusy]
      rfl
    · rwa [not_and_or, Bool.not_eq_false] at not
  case fwait =>
    have hlegal : (decide (f.d = 0) && decide (f.s = 0) && decide (f.t = 0) && decide (f.z = 0)) = true := by simp [hd, hs, ht, hz]
    have hmay : (s.reads n).inHandler = false ∧ (s.reads n).loops = [] →
        ¬ ((s.reads n).inHandler = true ∨ (s.reads n).loops ≠ []) := by simp
    refine ⟨fun may hidle => exec_issue_ok h hlegal rfl ?_, fun may hbusy => exec_issue_wait h hlegal rfl ?_,
      fun not => exec_issue_trap h hlegal rfl (if_pos ?_)⟩
    · rw [if_neg (hmay may), hidle]
      rfl
    · rw [if_neg (hmay may), hbusy]
      rfl
    · rwa [not_and_or, Bool.not_eq_false] at not
  case start =>
    intro j rest hunit hup
    show execFftJobStart unit s = _
    simp only [execFftJobStart, hunit, hup, if_true]
  case done =>
    intro j rest hunit u r v
    refine ⟨?_, ?_, fun hwhole => ?_⟩
    · show execFftJobStart unit s = _
      simp only [execFftJobStart, hunit]
    · rw [exec_fftJobDone hunit]
      rfl
    · rw [exec_fftJobDone hunit, hwhole]
      rfl
  case mover =>
    intro s n done cycle j hj heng hn fits m stops ends
    refine ⟨fun hgo => ⟨fun hnot => ?_, fun hfits => ?_, fun hfits hyard => ?_⟩, fun hwait => exec_moverDone_waits hj hwait⟩
    · rw [exec_moverDone hj heng hn hgo, if_neg hnot]
      simp only [reduceCtorEq, and_false, if_false]
      rfl
    · rw [exec_moverDone hj heng hn hgo, if_pos hfits]
      simp only [reduceCtorEq, and_false, if_false]
      rfl
    · rw [exec_moverDone hj heng hn hgo, if_pos hfits, hyard]
      rfl

end Sys2Proof.Machine
end

section
/-! PROOF. Interrupts of the cores (R134 to R136). -/

namespace Sys2Proof.Machine

open Sys2Proof.Arith

theorem Core.waitedTo_eq (c : Core) (cycle : Nat) :
    c.waitedTo cycle = { c with cycle := if c.stall = none then c.cycle else max c.cycle cycle } := by
  unfold Core.waitedTo
  by_cases hs : c.stall = none
  · rw [if_neg (by simp [hs]), if_pos hs]
  · rw [if_pos (Option.isSome_iff_ne_none.mpr hs), if_neg hs]

/-- With nothing in flight there is nothing to land. -/
theorem State.settleAll_of_empty {s : State} (h : s.canonical = true) {n : Nat} {c : Core} (hc : c.inflight = []) :
    (s.setCore n c).settleAll n = s.setCore n c := by
  have hsame : { c with inflight := [] } = c := by rw [← hc]
  simp only [State.settleAll, State.core_setCore_same h, hc, forEach, List.foldl_nil, State.setCore_setCore h]
  rw [hsame]

/-- R136: a core with nothing in flight that takes an interrupt. -/
theorem State.takeInterrupt_eq {s : State} (h : s.canonical = true) {n handler : Nat} {c : Core} {t : Task}
    (hc : c.inflight = []) (hcur : c.current = some t) :
    (s.setCore n c).takeInterrupt n handler = s.setCore n { c with
      saved := { pc := c.pc, loops := c.loops, delay := c.delay, stall := if c.stall = some .tend then some .tend else none, ien := c.ien }
      retPc := c.pc, ien := 0, loops := [], delay := none, stall := none, inHandler := true, atPoint := false
      pc := t.base + handler, cycle := c.cycle + 4 } := by
  simp only [State.takeInterrupt, State.settleAll_of_empty h hc, State.core_setCore_same h, hcur, State.setCore_setCore h]

/-- Settles O13: ERR is taken where it is due, MBOX where it is due and ERR is not. -/
theorem interruptsAreTakenAtInterruptPoints : Obligations.InterruptsAreTakenAtInterruptPoints := by
  unfold Obligations.InterruptsAreTakenAtInterruptPoints
  intro s n cycle t hs c taken errDue hup hcur hin hpoint hcycle hempty
  have hat : s.atInterruptPoint n = true := by
    simp [State.atInterruptPoint, hup, ← show c = s.core n from rfl, hcur, hin, hcycle, Option.isSome_iff_ne_none, hpoint]
  have herr : s.errTaken n = true ↔ errDue := by
    simp [State.errTaken, hat, ← show c = s.core n from rfl, hcur, errDue, and_assoc]
  have hmbox : s.mboxTaken n = true ↔ (c.mboxReq = true ∧ c.ien % 2 = 1 ∧ t.mbHandler ≠ 0xFFFF) ∧ ¬ errDue := by
    simp [State.mboxTaken, hat, ← show c = s.core n from rfl, hcur, ← herr, and_assoc]
  refine ⟨fun hdue => ⟨?_, ?_⟩, fun hnot => ?_, fun hnot hreq hien hhandler => ?_⟩
  · show execErrInterrupt ⟨n, cycle⟩ s = _
    simp only [execErrInterrupt, if_pos (herr.mpr hdue), ← show c = s.core n from rfl, hcur, Core.waitedTo_eq]
    exact congrArg Host.Outcome.next (State.takeInterrupt_eq hs hempty hcur)
  · exact congrArg Host.Outcome.next (if_neg fun hm => (hmbox.mp hm).2 hdue)
  · exact congrArg Host.Outcome.next (if_neg (herr.not.mpr hnot))
  · show execMboxInterrupt ⟨n, cycle⟩ s = _
    simp only [execMboxInterrupt, if_pos (hmbox.mpr ⟨⟨hreq, hien, hhandler⟩, hnot⟩), ← show c = s.core n from rfl, hcur,
      Core.waitedTo_eq]
    exact congrArg Host.Outcome.next (State.takeInterrupt_eq hs hempty hcur)

end Sys2Proof.Machine
end

section
/-! PROOF. Host commands: an entry that the firmware takes, its flags, and the target test (R185, R387, R391). -/

namespace Sys2Proof.Machine

open Sys2Proof.Arith

/-! ### Taking a command -/

/-- An entry with no reserved field set is consumed and acts. -/
theorem State.takeCommand_takes {s : State} {cmd : CmdHdr} (h : s.takes cmd) (op : Nat) (act : State → CmdRef → State) :
    s.takeCommand cmd op act = act (s.consumed 0) (s.refOf cmd op) := by
  obtain ⟨htakes, hres, hflags, hqueue⟩ := h
  have hf : bits cmd.flags.toNat 7 2 = 0 := by simp only [bits]; omega
  have hq : bits cmd.queue.toNat 7 4 = 0 := by simp only [bits]; omega
  rw [State.takeCommand, if_neg (not_not.mpr htakes), if_neg (by simp [hres, hf, hq])]
  rfl

/-- What a command row does where its entry is taken. -/
theorem exec_takeCommand {s : State} {cmd : CmdHdr} (h : s.takes cmd) {i : Instr} {op : Nat} {act : State → CmdRef → State}
    (hi : exec i s = .next (s.takeCommand cmd op act)) : exec i s = .next (act (s.consumed 0) (s.refOf cmd op)) := by
  rw [hi, State.takeCommand_takes h]

theorem CmdHdr.lateOk_eq (cmd : CmdHdr) : cmd.lateOk = cmd.flags.getLsbD 0 := by
  rw [CmdHdr.lateOk, bit, BitVec.getLsbD, Nat.testBit_zero, Nat.pow_zero, Nat.div_one]

theorem CmdHdr.ack_eq (cmd : CmdHdr) : cmd.ack = cmd.flags.getLsbD 1 := by
  rw [CmdHdr.ack, bit, BitVec.getLsbD, Nat.testBit_eq_decide_div_mod_eq]

/-! ### The target test (R185) -/

/-- An outcome that goes by where the target settles meets R185. -/
theorem State.targets_of_settle {s : State} {target : W32} {w : Nat} {lateOk : Bool} {o : Out} {refuse : Nat → State}
    {take : Nat → Bool → State} {f : Except Nat (Nat × Bool) → State} (ho : o = .next (f (s.settleTarget target w lateOk)))
    (herr : ∀ code, f (.error code) = refuse code) (hok : ∀ due late, f (.ok (due, late)) = take due late) :
    s.Targets target w lateOk o refuse take := by
  have hlt {d : Int} (h : d ≤ 2 ^ 30) : ¬ d > 1073741824 := by omega
  refine ⟨fun hlo hhi => ?_, fun hlo hlate => ?_, fun hlo hlate => ?_, fun hhi => ?_⟩ <;> rw [ho]
  · rw [State.settleTarget, if_neg (hlt hhi), if_pos hlo, hok, Int.sub_add_cancel]
  · rw [State.settleTarget, if_neg (hlt (by omega)), if_neg (by omega), if_pos hlate, hok]
  · rw [State.settleTarget, if_neg (hlt (by omega)), if_neg (by omega), if_neg (by simp [hlate]), herr]
  · rw [State.settleTarget, if_pos (by omega), herr]

end Sys2Proof.Machine
end

section
/-! PROOF. Loading, unloading and the slot commands (R57 to R67, R185, R195 to R197). -/

namespace Sys2Proof.Machine

open Sys2Proof.Arith

/-- Settles O15: LOAD's refusals, in their order. -/
theorem loadCopiesAnImageIntoItsSlot : Obligations.LoadCopiesAnImageIntoItsSlot := by
  unfold Obligations.LoadCopiesAnImageIntoItsSlot
  intro s cmd slot lo hi len ok h u r k o ready free room
  have hexec := exec_takeCommand (i := .load cmd slot lo hi len ok) h rfl
  have hready : ready → ¬ (u.held .eng = true ∨ ¬ u.fon F.BLK_STAT_READY = true) := by
    rintro ⟨heng, hblk⟩
    simp [heng, hblk]
  have hnotReady (hnot : ¬ ready) : u.held .eng = true ∨ ¬ u.fon F.BLK_STAT_READY = true := by
    rwa [not_and_or, Bool.not_eq_false] at hnot
  have hfree : free → ¬ (u.slotState k ≠ 0 ∨ u.slotState (1 - k) = 4) := by
    rintro ⟨hempty, hother⟩
    simp [hempty, hother]
  have hnotFree (hnot : ¬ free) : u.slotState k ≠ 0 ∨ u.slotState (1 - k) = 4 := by
    rwa [not_and_or, not_ne_iff] at hnot
  refine ⟨fun hk => hexec.trans (congrArg _ ?slot), fun hk hnot => hexec.trans (congrArg _ ?ready),
    fun hk hr hnot => hexec.trans (congrArg _ ?free), fun hk hr hf hnot => hexec.trans (congrArg _ ?room),
    fun hk hr hf hroom hok => hexec.trans (congrArg _ ?read), fun hk hr hf hroom hok => hexec.trans (congrArg _ ?load)⟩
  case slot => exact if_pos (by omega)
  all_goals refine (if_neg (by omega)).trans ?_
  case ready => exact if_pos (hnotReady hnot)
  all_goals refine (if_neg (hready hr)).trans ?_
  case free => exact if_pos (hnotFree hnot)
  all_goals refine (if_neg (hfree hf)).trans ?_
  case room => exact if_pos (Nat.not_le.mp hnot)
  all_goals refine (if_neg (Nat.not_lt.mpr hroom)).trans ?_
  case read => exact if_pos (by simp [hok])
  case load => exact if_neg (by simp [hok])

/-- LOAD_DONE of the oldest load. -/
theorem exec_loadDone {s : State} {l : LoadJob} {rest : List LoadJob} (hload : s.eng.loads = l :: rest)
    (heng : s.held .eng = false) : exec .loadDone s = .next (
      let u := { s with eng := { s.eng with loads := rest } }
      match u.verdict l.slot l.len with
      | some e => ((u.noteLoadErr e).setSlotState l.slot 0).slotRefuse l.slot l.ref e.code
      | none =>
        let img := bytesAt u.bulk (u.imageAddr l.slot) l.len
        let p := parseImage img
        let pred := p.pred ≠ 0 ∧ u.slotState (1 - l.slot) = 3 ∧ p.pred = (u.slot (1 - l.slot)).prog.pid
        let ok := match findSect img 8 with | none => true | some d => listsOk (sectionBytes img d) d.count
        let u := u.setSlot l.slot { prog := p, xfOk := ok, checked := if pred then some (u.slot (1 - l.slot)).prog else none }
        ((u.setReg (A.ENG_SLOT_PID l.slot) (BitVec.ofNat 32 p.pid)).setSlotState l.slot 2).slotRefuse l.slot l.ref 0) := by
  show execLoadDone s = _
  simp only [execLoadDone, hload, heng, Bool.false_eq_true, if_false]
    <;> rfl

theorem bits_base (v : W32) : bits v.toNat 6 0 = v.toNat % 128 := by
  rw [bits, Nat.pow_zero, Nat.div_one]; rfl

/-- Settles O16: the verdict on the oldest load, UNLOAD's refusals in their order, and PROG_BASE by whether BASE changes. -/
theorem loadsEndLoadedOrEmpty : Obligations.LoadsEndLoadedOrEmpty := by
  unfold Obligations.LoadsEndLoadedOrEmpty
  refine fun s => ⟨fun l rest hload heng => ?done, fun cmd slot h hk => ?unload, fun v hsame => ?base, fun v hne hslots => ?kept⟩
  case done =>
    intro u img p old pred
    refine ⟨fun e he => ?_, fun hnone => ⟨match findSect img 8 with | none => true | some d => listsOk (sectionBytes img d) d.count, ?_⟩⟩
    · rw [exec_loadDone hload heng]
      dsimp only
      rw [he]
    · rw [exec_loadDone hload heng]
      dsimp only
      rw [hnone]
  case unload =>
    intro u k ends
    have hexec := exec_takeCommand (i := .unload cmd slot) h rfl
    have hslot : ¬ 1 < k := by omega
    have hidle {j : Nat} (hj : u.slotState k = j) (hj2 : j < 3) : ¬ u.slotRuns k = true := by simp [State.slotRuns, hj, hj2]
    refine ⟨fun hlo hhi => ?_, fun hlt => ?_, fun heq hbusy => ?_, fun heq hfree => ?_⟩ <;>
      refine hexec.trans (congrArg _ ((if_neg hslot).trans ?_))
    · exact if_pos (by simp [State.slotRuns, u, k, hlo, hhi])
    · exact (if_neg (hidle rfl (by omega))).trans (if_pos (.inl (Nat.ne_of_lt hlt)))
    · exact (if_neg (hidle heq (by decide))).trans (if_pos (.inr hbusy))
    · exact (if_neg (hidle heq (by decide))).trans (if_neg (by simp [u, k, heq, hfree]))
  case base =>
    refine congrArg Host.Outcome.next (if_neg ?_)
    rintro ⟨hne, hslots⟩
    rcases hsame with ⟨h0, h1⟩ | hbase
    · exact hslots.elim (absurd h0) (absurd h1)
    · exact hne ((bits_base v).trans hbase)
  case kept => exact congrArg Host.Outcome.next (if_pos ⟨bits_base v ▸ hne, hslots⟩)

/-- What a slot command that passed R196 notes, or its refusal. -/
theorem State.slotTarget_targets {u : State} {cmd : CmdHdr} {r : CmdRef} {k w : Nat} {target : W32} {op : SlotOp}
    {res : List W32} {start : State → Nat → State} {o : Out}
    (ho : o = .next (u.slotTarget cmd r k target op w res start)) :
    u.Targets target w (cmd.flags.getLsbD 0) o (u.slotRefuse k r) (fun due l =>
      (start { u with eng := { u.eng with cmd := some ⟨op, k, due, { r with late := l }⟩ } } due).accepted
        (cmd.flags.getLsbD 1) { r with late := l } due res) :=
  State.targets_of_settle (f := u.slotAt cmd r k op res start) (by rw [ho, State.slotTarget, CmdHdr.lateOk_eq])
    (fun _ => rfl) (fun due late => by rw [← CmdHdr.ack_eq]; rfl)

theorem State.slotFree_iff (s : State) (k : Nat) : s.slotFree k = true ↔ s.slotState k = 0 ∨ s.slotState k = 2 := by
  simp [State.slotFree]

/-- R196: whether slot `k` is the one that an accepted crossfade replaces. -/
def State.xfReplaces (s : State) (k : Nat) : Bool :=
  match s.eng.cmd with
  | some c => c.op.isXf && decide (c.slot ≠ k)
  | none => false

/-- STOP of a slot that exists. -/
theorem exec_stopSlot {s : State} {cmd : CmdHdr} {slot target : W32} (h : s.takes cmd) (hk : slot.toNat < 2) :
    exec (.stopSlot cmd slot target) s = .next (
      let u := s.consumed 0
      let k := slot.toNat
      let r := s.refOf cmd 0x14
      if u.slotState k ≠ 3 ∨ u.xfReplaces k then u.slotRefuse k r 0x802
      else if u.slotBusy then u.slotRefuse k r 0x801
      else u.slotTarget cmd r k target .stop 0 [] (fun v due =>
        v.cancelCommits (fun c => decide (c.slot = k) && decide (due ≤ c.due)))) := by
  have hrep (u : State) (k : Nat) : (match u.eng.cmd with
      | some c => (match c.op with | .crossfade _ _ => decide (c.slot ≠ k) | _ => false)
      | none => false) = u.xfReplaces k := by
    unfold State.xfReplaces
    cases u.eng.cmd with
    | none => rfl
    | some c => obtain ⟨op, j, due, r⟩ := c; cases op <;> rfl
  refine (exec_takeCommand (i := .stopSlot cmd slot target) h rfl).trans (congrArg _ ((if_neg (by omega)).trans ?_))
  simp only [← hrep]
    <;> rfl

theorem State.slotBusy_of_cmd {s : State} {c : SlotCmd} (h : s.eng.cmd = some c) : s.slotBusy = true := by
  simp [State.slotBusy, h]

theorem State.xfReplaces_of_free {s : State} (h : s.slotBusy = false) (k : Nat) : s.xfReplaces k = false := by
  have hnone : s.eng.cmd = none := by simp_all [State.slotBusy]
  rw [State.xfReplaces, hnone]

/-- ACTIVATE_XF of a LOADED slot, after R203's limits of its length. -/
theorem State.activateXf_loaded {u : State} {cmd : CmdHdr} {r : CmdRef} {slot target len : W32} (hk : slot.toNat < 2)
    (hlo : 1 ≤ len.toNat) (hhi : len.toNat ≤ 4096) (hstate : u.slotState slot.toNat = 2) :
    u.activateXf cmd r slot target len =
      let k := slot.toNat
      let o := 1 - k
      if u.slotState o = 4 ∨ u.slotState o = 5 then u.slotRefuse k r 0x801
      else if u.slotState o ≠ 3 ∨ (u.slot k).prog.pred = 0 ∨ (u.slot k).prog.pred ≠ (u.slot o).prog.pid then
        u.slotRefuse k r 0x901
      else if u.slotBusy then u.slotRefuse k r 0x801
      else
        match u.xfChecks k with
        | some e => (u.noteLoadErr e).slotRefuse k r e.code
        | none =>
          let w := warmUp (u.slot o).prog (u.slot k).prog
          u.slotTarget cmd r k target (.crossfade len.toNat w) w [BitVec.ofNat 32 w] (fun v due =>
            let x := v.cancelCommits (fun c => decide (c.slot = o) && decide (due ≤ c.due + w))
            (x.setReg A.ENG_XF_STAT (BitVec.ofNat 32 (w * 2 ^ 26 + len.toNat * 2 ^ 13))).setReg A.ENG_XF_TICK (x.scntOf due)) := by
  have hslot : ¬ 1 < slot.toNat := by omega
  have hlen : ¬ (len.toNat < 1 ∨ 4096 < len.toNat) := by omega
  simp only [State.activateXf, hslot, hlen, hstate, if_false, ne_eq, not_true_eq_false, false_or]
    <;> rfl

/-- Settles O17: each command's refusals in R196's order, then its target. -/
theorem slotCommandsWaitForTheirTick : Obligations.SlotCommandsWaitForTheirTick := by
  unfold Obligations.SlotCommandsWaitForTheirTick
  intro s cmd slot target h hk u k o late ack accepts act stop xf
  have hslot : ¬ 1 < k := by omega
  have hact : act = _ := exec_takeCommand (i := .activate cmd slot target) h rfl
  have hstop : stop = _ := exec_stopSlot h hk
  have hxf (len : W32) (hlo : 1 ≤ len.toNat) (hhi : len.toNat ≤ 4096) (hloaded : u.slotState k = 2) : xf len = _ :=
    (exec_takeCommand (i := .activateXf cmd slot target len) h rfl).trans
      (congrArg _ (State.activateXf_loaded hk hlo hhi hloaded))
  refine ⟨fun hbad => ?_, fun hloaded hother hfree => ?_, fun hnot => ?_, fun c hactive hcmd => ?_, fun hactive hfree => ?_,
    fun len hlo hhi hloaded hother hpred hpid hfree => ?_, fun len hlo hhi hloaded hother => ?_⟩
  · refine hact.trans (congrArg _ ((if_neg hslot).trans (if_pos ?_)))
    simpa [State.slotFree_iff, not_or] using hbad
  · have hok : ¬ (u.slotState k ≠ 2 ∨ ¬ u.slotFree o = true ∨ u.slotBusy = true) := by
      simp [hloaded, (State.slotFree_iff u o).mpr hother, hfree]
    have hgo := hact.trans (congrArg _ ((if_neg hslot).trans (if_neg hok)))
    exact State.slotTarget_targets (op := .activate) (res := []) (start := fun v _ => v) hgo
  · exact hstop.trans (congrArg _ (if_pos (.inl hnot)))
  · have hrep : u.xfReplaces k = true ↔ c.op.isXf = true ∧ c.slot ≠ k := by simp [State.xfReplaces, hcmd]
    refine hstop.trans (congrArg _ ?_)
    by_cases hxf : c.op.isXf = true ∧ c.slot ≠ k
    · exact (if_pos (.inr (hrep.mpr hxf))).trans (by rw [if_pos hxf])
    · refine (if_neg (not_or.mpr ⟨not_not.mpr hactive, hrep.not.mpr hxf⟩)).trans ((if_pos (State.slotBusy_of_cmd hcmd)).trans ?_)
      rw [if_neg hxf]
  · have hok : ¬ (u.slotState k ≠ 3 ∨ u.xfReplaces k = true) := by simp [hactive, State.xfReplaces_of_free hfree]
    have hgo := hstop.trans (congrArg _ ((if_neg hok).trans (if_neg (by simp [u, hfree]))))
    exact State.slotTarget_targets (op := .stop) (res := []) (start := fun v due =>
        v.cancelCommits (fun c => decide (c.slot = k) && decide (due ≤ c.due))) hgo
  · intro w
    have hok1 : ¬ (u.slotState o = 4 ∨ u.slotState o = 5) := by omega
    have hok2 : ¬ (u.slotState o ≠ 3 ∨ (u.slot k).prog.pred = 0 ∨ (u.slot k).prog.pred ≠ (u.slot o).prog.pid)  :=
      not_or.mpr ⟨not_not.mpr hother, not_or.mpr ⟨hpred, not_not.mpr hpid⟩⟩
    have hgo := (hxf len hlo hhi hloaded).trans
      (congrArg _ ((if_neg hok1).trans ((if_neg hok2).trans (if_neg (by simp [u, hfree])))))
    refine ⟨fun e he => ?_, fun hnone => ?_⟩
    · rw [hgo, he]
    · rw [hnone] at hgo
      exact State.slotTarget_targets (op := .crossfade len.toNat w) (res := [BitVec.ofNat 32 w]) (start := fun v due =>
        let x := v.cancelCommits (fun c => decide (c.slot = o) && decide (due ≤ c.due + w))
        (x.setReg A.ENG_XF_STAT (BitVec.ofNat 32 (w * 2 ^ 26 + len.toNat * 2 ^ 13))).setReg A.ENG_XF_TICK (x.scntOf due)) hgo
  · exact (hxf len hlo hhi hloaded).trans (congrArg _ (if_pos hother))

end Sys2Proof.Machine
end

section
/-! PROOF. Slot changes at their tick: activation, stop, crossfade (R61, R195, R198). -/

namespace Sys2Proof.Machine

open Sys2Proof.Arith

/-! ### Tables that a pass over the nodes of a program changes -/

/-- A pass over a list that changes the entries at the places of the elements that `p` picks, each once. -/
theorem Tbl.get_foldl_zipIdx {α β : Type} [DecidableEq α] (d : α) (p : β → Bool) (g : β → α → α) (l : List β) (k i : Nat)
    (t : Tbl α) (ht : Tbl.rising t = true) :
    Tbl.get ((l.zipIdx k).foldl (fun tb e => if p e.1 then Tbl.set tb d e.2 (g e.1 (Tbl.get tb d e.2)) else tb) t) d i =
      if k ≤ i then
        match l[i - k]? with
        | some b => if p b then g b (Tbl.get t d i) else Tbl.get t d i
        | none => Tbl.get t d i
      else Tbl.get t d i := by
  induction l generalizing k t with
  | nil => simp
  | cons b l ih =>
    have hstep : Tbl.rising (if p b then Tbl.set t d k (g b (Tbl.get t d k)) else t) = true := by
      split
      · exact Tbl.rising_set d _ k t ht
      · exact ht
    have hget : Tbl.get (if p b then Tbl.set t d k (g b (Tbl.get t d k)) else t) d i =
        if i = k ∧ p b then g b (Tbl.get t d i) else Tbl.get t d i := by
      by_cases hb : p b
      · by_cases hik : i = k <;> simp [hb, hik, Tbl.get_set _ _ _ _ _ ht]
      · simp [hb]
    rw [List.zipIdx_cons, List.foldl_cons, ih (k + 1) _ hstep, hget]
    rcases Nat.lt_trichotomy i k with hlt | rfl | hgt
    · rw [if_neg (by omega), if_neg (by omega), if_neg (by omega)]
    · simp
    · obtain ⟨j, rfl⟩ : ∃ j, i = k + 1 + j := ⟨i - (k + 1), by omega⟩
      have hne : ¬ (k + 1 + j = k) := by omega
      simp only [hne, false_and, if_false]
      rw [if_pos (Nat.le_add_right _ _), if_pos (by omega), Nat.add_sub_cancel_left, show k + 1 + j - k = j + 1 by omega,
        List.getElem?_cons_succ]

theorem Prog.node_of_getElem? {p : Prog} {i : Nat} {n : Node} (h : p.nodes[i]? = some n) : p.node i = n := by
  rw [Prog.node, List.getD_eq_getElem?_getD, h, Option.getD_some]

/-- R202: the pass that starts the changed recorders of a new program changes the states of recorders alone. -/
theorem startRecorders_frame (x : Slot) (hx : Tbl.rising x.nodes = true) (pick : Nat → Bool) (g : Slot → Node × Nat → NodeSt) :
    ∃ nodes : Tbl NodeSt, (∀ i, (x.prog.node i).type ≠ T.snkRec → Tbl.get nodes {} i = x.node i) ∧
      (x.prog.nodes.zipIdx).foldl (fun (y : Slot) e => if e.1.type = T.snkRec ∧ pick e.2 = true then y.setNode e.2 (g y e) else y) x =
        { x with nodes := nodes } := by
  suffices h : ∀ y : Slot, (∃ nodes : Tbl NodeSt, Tbl.rising nodes = true ∧
      (∀ i, (x.prog.node i).type ≠ T.snkRec → Tbl.get nodes {} i = x.node i) ∧ y = { x with nodes := nodes }) → ∀ l : List (Node × Nat),
      (∀ e ∈ l, x.prog.nodes[e.2]? = some e.1) → ∃ nodes : Tbl NodeSt, Tbl.rising nodes = true ∧
      (∀ i, (x.prog.node i).type ≠ T.snkRec → Tbl.get nodes {} i = x.node i) ∧
      l.foldl (fun (y : Slot) e => if e.1.type = T.snkRec ∧ pick e.2 = true then y.setNode e.2 (g y e) else y) y = { x with nodes := nodes } by
    obtain ⟨nodes, -, hget, hfold⟩ := h x ⟨x.nodes, hx, fun _ _ => rfl, rfl⟩ _ fun e he => List.mem_zipIdx_iff_getElem?.mp he
    exact ⟨nodes, hget, hfold⟩
  intro y hy l hl
  induction l generalizing y with
  | nil => exact hy
  | cons e l ih =>
    rw [List.foldl_cons]
    refine ih _ ?_ fun e' he' => hl e' (List.mem_cons_of_mem _ he')
    obtain ⟨nodes, hrising, hget, rfl⟩ := hy
    split
    case isFalse => exact ⟨nodes, hrising, hget, rfl⟩
    case isTrue hrec =>
      refine ⟨_, Tbl.rising_set {} _ e.2 nodes hrising, fun i hi => ?_, rfl⟩
      have hne : i ≠ e.2 := by
        rintro rfl
        exact hi ((congrArg Node.type (Prog.node_of_getElem? (hl e List.mem_cons_self))).trans hrec.1)
      rw [Tbl.get_set_other _ _ _ _ _ _ hne hrising, hget i hi]

/-- An event of the engine, which acts while ENG is up. -/
theorem next_if_up {s u v : State} (h : s.up .eng = true) (huv : u = v) :
    (Host.Outcome.next (if s.up .eng then u else s) : Out) = .next v := by rw [if_pos h, huv]

/-- Settles O18: each event by its tick; the passes over the nodes by what they leave of each state. -/
theorem slotChangesHappenAtTheirTick : Obligations.SlotChangesHappenAtTheirTick := by
  unfold Obligations.SlotChangesHappenAtTheirTick
  intro s hup t
  refine ⟨fun k due r hcmd => ⟨fun hdue => ?_, fun hlate => ?_⟩, fun k due r hcmd => ⟨fun hlate => ?_, fun hdue hr => ?_⟩,
    fun k due hstop => ⟨fun hlate => ?_, fun hdue => ?_⟩, fun k len warm due r hcmd hxf => ⟨fun hlate => ?_, fun hdue => ?_⟩,
    fun x c hxf hcmd => ⟨fun hnot => ?_, fun hdue hop hr => ?_⟩, fun x hxf => ⟨fun hlate => ?_, fun hdue => ?_⟩⟩
  · refine next_if_up hup ?_
    rw [State.takeActivation, hcmd]
    exact if_pos ⟨rfl, hdue⟩
  · refine next_if_up hup ?_
    rw [State.takeActivation, hcmd]
    exact if_neg fun hx => Nat.not_le.mpr hlate hx.2
  · refine next_if_up hup ?_
    rw [State.takeStop, hcmd]
    exact if_neg fun hx => Nat.not_le.mpr hlate hx.2
  · refine ⟨((s.slot k).prog.nodes.zipIdx).foldl (fun tb e => if e.1.isSink then Tbl.set tb {} e.2
        { Tbl.get tb {} e.2 with fade := fadeTo (Tbl.get tb {} e.2).fade 0 (sinkFade e.1.rate) } else tb) (s.slot k).nodes,
      fun i => ?_, next_if_up hup ?_⟩
    · refine (Tbl.get_foldl_zipIdx {} Node.isSink (fun n st => { st with fade := fadeTo st.fade 0 (sinkFade n.rate) })
        (s.slot k).prog.nodes 0 i (s.slot k).nodes hr).trans ((if_pos (Nat.zero_le i)).trans ?_)
      rw [Nat.sub_zero]
      cases (s.slot k).prog.nodes[i]? <;> rfl
    · rw [State.takeStop, hcmd]
      exact if_pos ⟨rfl, hdue⟩
  · refine next_if_up hup ?_
    rw [State.endStop, hstop]
    exact if_neg (Nat.not_le.mpr hlate)
  · refine next_if_up hup ?_
    rw [State.endStop, hstop]
    exact if_pos hdue
  · refine next_if_up hup ?_
    rw [State.beginXf, hcmd, hxf]
    exact if_neg (Nat.not_le.mpr hlate)
  · refine next_if_up hup ?_
    rw [State.beginXf, hcmd, hxf]
    exact if_pos hdue
  · refine next_if_up hup ?_
    rw [State.beginFade, hxf, hcmd]
    refine if_neg fun hx => ?_
    rcases hnot with hlate | hop
    · exact Nat.not_le.mpr hlate hx.1
    · exact Bool.false_ne_true (hop.symm.trans hx.2)
  · obtain ⟨nodes, hnodes, hfold⟩ := startRecorders_frame (s.slot x.new) hr
      (fun j => (oldOf (retainedPairs (s.slot x.old).prog (s.slot x.new).prog) j).isNone)
      (fun y e => recorderRec (y.node e.2) (bit (y.word e.1 4).toNat 0))
    refine ⟨nodes, hnodes, next_if_up hup ?_⟩
    rw [State.beginFade, hxf, hcmd]
    refine (if_pos ⟨hdue, hop⟩).trans ?_
    rw [← hfold]
  · refine next_if_up hup ?_
    rw [State.retireXf, hxf]
    exact if_neg (Nat.not_le.mpr hlate)
  · refine next_if_up hup ?_
    rw [State.retireXf, hxf]
    exact if_pos hdue

end Sys2Proof.Machine
end

section
/-! PROOF. Commits, task restarts and parameter writes (R148, R182, R184 to R187, R388, R395). -/

namespace Sys2Proof.Machine

open Sys2Proof.Arith

/-! ### Taking the one element that a test picks out of a waiting list -/

theorem filter_only {α : Type} {p : α → Bool} {x : α} {pre post : List α} (h : ∀ q ∈ pre ++ post, p q = false) :
    (pre ++ x :: post).filter p = if p x then [x] else [] := by
  obtain ⟨hpre, hpost⟩ := List.forall_mem_append.mp h
  rw [List.filter_append, List.filter_cons, List.filter_eq_nil_iff.mpr fun q hq => by simp [hpre q hq],
    List.filter_eq_nil_iff.mpr fun q hq => by simp [hpost q hq], List.nil_append]

theorem filter_others {α : Type} {p : α → Bool} {x : α} {pre post : List α} (h : ∀ q ∈ pre ++ post, p q = false) :
    (pre ++ x :: post).filter (fun q => !p q) = if p x then pre ++ post else pre ++ x :: post := by
  obtain ⟨hpre, hpost⟩ := List.forall_mem_append.mp h
  rw [List.filter_append, List.filter_cons, List.filter_eq_self.mpr fun q hq => by simp [hpre q hq],
    List.filter_eq_self.mpr fun q hq => by simp [hpost q hq]]
  cases p x <;> rfl

/-- A test on a due tick and two coordinates, of an element that differs in a coordinate. -/
theorem pick_other {a b c d due t : Nat} (h : ¬ (a = b ∧ c = d)) :
    (decide (due ≤ t) && (decide (a = b) && decide (c = d))) = false := by
  rw [← Bool.decide_and, decide_eq_false h, Bool.and_false]

/-- A test on a due tick and two coordinates, of the element that has these coordinates. -/
theorem pick_self {a b due t : Nat} : (decide (due ≤ t) && (decide (a = a) && decide (b = b))) = decide (due ≤ t) := by
  rw [decide_eq_true rfl, decide_eq_true rfl, Bool.and_true, Bool.and_true]

/-! ### Commits -/

/-- R185, R186: what a commit whose target has settled does. -/
theorem State.arriveAt_ok (u : State) (w : FenceWait) (due : Nat) (l : Bool) :
    u.arriveAt w (.ok (due, l)) =
      if u.slotState w.slot ≠ 3 ∨ u.endsBy w.slot due = true then u.answer w.ref 0xA04
      else if (u.slot w.slot).prog.groupEntry w.group = none then u.answer w.ref 0x402
      else if ∃ p ∈ u.eng.pend, p.slot = w.slot ∧ p.group = w.group then u.answer w.ref 0xA06
      else if u.anaLocked = true ∧ u.groupClampOk w.slot w.group = false then u.answer w.ref 0x404
      else { u with eng := { u.eng with
        pend := u.eng.pend ++ [(⟨w.slot, w.group, due, { w.ref with late := l }⟩ : PendCommit)] } }.accepted w.ack
          { w.ref with late := l } due := by
  simp only [State.arriveAt, Option.isNone_iff_eq_none, List.any_eq_true, Bool.and_eq_true, decide_eq_true_eq, Bool.not_eq_true]

/-- What a COMMIT does where its entry is taken. -/
theorem exec_commit {s : State} {cmd : CmdHdr} {slot group target fence : W32} (h : s.takes cmd) (hslot : slot.toNat < 2)
    (hgroup : group.toNat < 4096) :
    let u := s.consumed 0
    let w : FenceWait := ⟨slot.toNat, group.toNat, target, fence, cmd.flags.getLsbD 0, cmd.flags.getLsbD 1, s.refOf cmd 0x15⟩
    exec (.commit cmd slot group target fence) s = .next (
      if u.fenceMet fence then u.arriveCommit w
      else if 64 ≤ u.eng.fences.length then u.answer w.ref 0xA03
      else { u with eng := { u.eng with fences := u.eng.fences ++ [w] } }) := by
  intro u w
  refine (exec_takeCommand h rfl).trans (congrArg Host.Outcome.next ((if_neg (by omega)).trans ?_))
  rw [CmdHdr.lateOk_eq, CmdHdr.ack_eq]

/-- R187: the one commit of a group that waits for its tick lands, or goes on waiting. -/
theorem State.landCommits_one {s : State} {p : PendCommit} {pre post : List PendCommit} (hl : s.eng.pend = pre ++ p :: post)
    (hone : ∀ q ∈ pre ++ post, ¬ (q.slot = p.slot ∧ q.group = p.group)) (t : Nat) :
    s.landCommits t (fun c => decide (c.slot = p.slot) && decide (c.group = p.group)) =
      if p.due ≤ t then ({ s with eng := { s.eng with pend := pre ++ post } }.landGroup p.slot p.group p.due).complete
        (p.ref.done 0 (s.scntOf p.due) [])
      else s := by
  have hothers : ∀ q ∈ pre ++ post, (fun q : PendCommit =>
      decide (q.due ≤ t) && (decide (q.slot = p.slot) && decide (q.group = p.group))) q = false := fun q hq => pick_other (hone q hq)
  rw [State.landCommits, hl, filter_only hothers, filter_others hothers, pick_self]
  by_cases hdue : p.due ≤ t
  · rw [decide_eq_true hdue, if_pos hdue]; rfl
  · rw [decide_eq_false hdue, if_neg hdue]; simp only [Bool.false_eq_true, if_false, ← hl]; rfl

/-- R148: the one restart of a task that waits for its tick is done, or goes on waiting. -/
theorem State.takeRestarts_one {s : State} {x : Restart} {pre post : List Restart} (hl : s.eng.restarts = pre ++ x :: post)
    (hone : ∀ q ∈ pre ++ post, ¬ (q.slot = x.slot ∧ q.task = x.task)) (t : Nat) :
    s.takeRestarts t (fun r => decide (r.slot = x.slot) && decide (r.task = x.task)) =
      if x.due ≤ t then
        let v := forEach (s.cores.map (·.1)) { s with eng := { s.eng with restarts := pre ++ post } } (fun v n =>
          match (v.core n).task x.slot x.task with
          | none => v
          | some tk =>
            let w := v.fillRegion n (v.slot x.slot).prog tk
            w.setCore n ((w.core n).setTask { tk with faulted := false, first := true }))
        v.complete (x.ref.done 0 (v.scntOf x.due) [])
      else s := by
  have hothers : ∀ q ∈ pre ++ post, (fun q : Restart =>
      decide (q.due ≤ t) && (decide (q.slot = x.slot) && decide (q.task = x.task))) q = false := fun q hq => pick_other (hone q hq)
  rw [State.takeRestarts, hl, filter_only hothers, filter_others hothers, pick_self]
  by_cases hdue : x.due ≤ t
  · rw [decide_eq_true hdue, if_pos hdue]; rfl
  · rw [decide_eq_false hdue, if_neg hdue]; simp only [Bool.false_eq_true, if_false, ← hl]; rfl

theorem State.drainFences_of_nil {s : State} (h : s.eng.fences = []) (fuel : Nat) : s.drainFences (fuel + 1) = s := by
  simp only [State.drainFences, h]

/-- R184: the first commit of the fence wait leaves it where its fence is met. -/
theorem State.drainFences_of_cons {s : State} {w : FenceWait} {rest : List FenceWait} (h : s.eng.fences = w :: rest) (fuel : Nat) :
    s.drainFences (fuel + 1) = if s.fenceMet w.fence then
      (({ s with eng := { s.eng with fences := rest } }).arriveCommit w).drainFences fuel else s := by
  simp only [State.drainFences, h]

/-- Settles O19: COMMIT and TASK_RESTART by their tests and the target; the waiting ones by `landCommits_one` and `takeRestarts_one`. -/
theorem commitsAndRestartsWaitAndLand : Obligations.CommitsAndRestartsWaitAndLand := by
  unfold Obligations.CommitsAndRestartsWaitAndLand
  refine ⟨fun s => ⟨fun cmd slot group target fence h hslot hgroup => ?_, fun hnone => ?_, fun w rest hl hwait => ?_,
      fun w rest hl hmet => ?_, fun p pre post hl hone => ⟨fun hdue => ?_, fun hlate => ?_⟩⟩,
    fun s => ⟨fun cmd slot task target h hslot => ?_, fun x pre post hl hone => ⟨fun hlate => ?_, fun hdue => ?_⟩⟩⟩
  · intro u w o met
    have hexec := exec_commit (target := target) (fence := fence) h hslot hgroup
    have hfence : u.fenceMet fence = true ↔ met := decide_eq_true_iff
    refine ⟨fun hwait hroom => hexec.trans ?_, fun hwait hfull => hexec.trans ?_, fun hmet => ?_⟩
    · exact congrArg _ ((if_neg (mt hfence.mp hwait)).trans (if_neg (Nat.not_le.mpr hroom)))
    · exact congrArg _ ((if_neg (mt hfence.mp hwait)).trans (if_pos hfull))
    · exact State.targets_of_settle (f := u.arriveAt w) (hexec.trans (congrArg _ (if_pos (hfence.mpr hmet)))) (fun _ => rfl)
        (u.arriveAt_ok w)
  · exact congrArg Host.Outcome.next (State.drainFences_of_nil hnone 63)
  · exact congrArg Host.Outcome.next ((State.drainFences_of_cons hl 63).trans
      (if_neg fun hmet => absurd (of_decide_eq_true hmet) (Int.not_le.mpr hwait)))
  · exact congrArg Host.Outcome.next ((State.drainFences_of_cons hl 63).trans (if_pos (decide_eq_true hmet)))
  · exact congrArg Host.Outcome.next ((State.landCommits_one hl hone _).trans (if_pos hdue))
  · exact congrArg Host.Outcome.next ((State.landCommits_one hl hone _).trans (if_neg (Nat.not_le.mpr hlate)))
  · intro u r k o
    have hexec := exec_takeCommand h (i := .taskRestart cmd slot task target) rfl
    have hk : ¬ 1 < k := by omega
    refine ⟨fun hst => hexec.trans ?_, fun hst hnone => hexec.trans ?_, fun hst htask => ?_⟩
    · exact congrArg _ ((if_neg hk).trans (if_pos hst))
    · exact congrArg _ ((if_neg hk).trans ((if_neg (not_not.mpr hst)).trans (if_pos hnone)))
    · refine State.targets_of_settle (f := u.restartAt cmd r k task.toNat) (hexec.trans (congrArg _ ((if_neg hk).trans
        ((if_neg (not_not.mpr hst)).trans ((if_neg (Nat.not_le.mpr htask)).trans ?_))))) (fun _ => rfl) (fun due late => ?_)
      · rw [CmdHdr.lateOk_eq]
      · rw [← CmdHdr.ack_eq]; rfl
  · exact congrArg Host.Outcome.next ((State.takeRestarts_one hl hone _).trans (if_neg (Nat.not_le.mpr hlate)))
  · exact congrArg Host.Outcome.next ((State.takeRestarts_one hl hone _).trans (if_pos hdue))

/-! ### Parameter writes -/

/-- Settles O20: the entry by its checks, the words by what the fetch brings, its end by its verdict. -/
theorem parameterWritesReachTheShadowWords : Obligations.ParameterWritesReachTheShadowWords := by
  unfold Obligations.ParameterWritesReachTheShadowWords
  refine fun s => ⟨fun e hentry hroom hidle => ?_, fun e hind hup hroom => ?_, fun e code words => ?_⟩
  · intro bad words o
    have htakes : ¬ ¬ s.takesWrite = true := by simp [State.takesWrite, hentry, hroom, hidle]
    have hbad : (e.reserved = true ∨ 1 < e.slot ∨ e.count < 1 ∨ 16384 < e.count ∨
        (¬ e.indirect = true ∧ (12 < e.count ∨ e.addr ≠ 0))) ↔ bad := by simp only [Bool.not_eq_true]; rfl
    refine ⟨fun h => ?_, fun h hind => ?_, fun h hdir => ?_⟩ <;> refine congrArg _ ((if_neg htakes).trans ?_)
    · exact if_pos (hbad.mpr h)
    · exact (if_neg (mt hbad.mp h)).trans (if_pos hind)
    · exact (if_neg (mt hbad.mp h)).trans (if_neg (by simp [hdir]))
  · intro u words
    have hgo : ¬ (s.held .hif = true ∨ s.backlogged = true) := by simp [hup, hroom]
    constructor <;> refine congrArg Host.Outcome.next ?_ <;> simp only [hind]
    · exact (if_neg hgo).trans (if_pos Bool.false_ne_true)
    · exact (if_neg hgo).trans (if_neg (not_not_intro trivial))
  · intro u r
    refine ⟨fun h => ?_, fun h => ?_⟩ <;> simp only [State.endWrite, h, ne_eq, not_true_eq_false, false_or, true_or, not_false_eq_true, if_true, if_false]
    all_goals rfl

end Sys2Proof.Machine
end

section
/-! PROOF. Gains, nodes and fades at a boundary (R76, R95, R103, R108, R109, R191, R193). -/

namespace Sys2Proof.Machine

open Sys2Proof.Arith

/-! ### Gains -/

theorem GainSt.not_timedOut {g : GainSt} {t : Nat} (h : g.timedOut t = false) : ¬ g.timedOut t = true := by simp [h]

/-- R191, R193: what the timeout and the end of a ramp of one gain do. -/
theorem exec_gain_boundary (s : State) (k pset word : Nat) (g : GainSt)
    (hg : Tbl.find (s.slot k).gains (wkey pset word) = some g) :
    exec (.zcTimeout k pset word) s = .next (
        if ¬ g.timedOut (s.eng.tick + 1) = true then s
        else if (s.slot k).isDepth (wkey pset word) = true then
          s.setSlot k { s.slot k with gains := Tbl.del (s.slot k).gains (wkey pset word) }
        else (s.setSlot k { s.slot k with
          gains := Tbl.put (s.slot k).gains (wkey pset word) { g with ramp := true, k := 0 } }).bump A.ENG_ZC_FALLBACK_CNT) ∧
      exec (.gainRampEnd k pset word) s = .next (if g.ramp = true ∧ 64 ≤ g.k then
          s.setSlot k { s.slot k with gains := Tbl.del (s.slot k).gains (wkey pset word) } else s) := by
  constructor
  · exact congrArg Host.Outcome.next (by simp only [State.timeoutGain, hg]; rfl)
  · exact congrArg Host.Outcome.next (by simp only [State.endGainRamp, hg])

/-! ### Nodes -/

theorem State.slotWorks_iff {s : State} {k : Nat} : s.slotWorks k = true ↔ s.works k := by
  unfold State.slotWorks State.works State.slotRuns
  cases s.eng.xf <;> simp

/-! ### Fades -/

/-- A fade of the outputs that has run to unity is no fade (R76). -/
theorem settleFade_isNone {f : Fade} : (settleFade (some f)).isNone = true ↔ f.over = true ∧ f.g1 = unity := by
  simp only [settleFade]
  split <;> simp_all

theorem MicSt.settleAt_of_over {x : MicSt} {f : Fade} {t : Nat} (hs : x.settle = none) (hf : x.fade = some f) (ho : f.over = true) :
    x.settleAt t = if f.g1 = unity then { x with fade := none } else {} := by
  by_cases h : f.g1 = unity
  · simp only [MicSt.settleAt, hs, hf, settleFade, ho, h, and_self, if_true]
  · simp only [MicSt.settleAt, hs, hf, settleFade, ho, h, and_false, if_false, if_true]

/-- Settles O21: each event by the test that it makes. -/
theorem gainsAndNodesSettleAtABoundary : Obligations.GainsAndNodesSettleAtABoundary := by
  unfold Obligations.GainsAndNodesSettleAtABoundary
  refine ⟨fun s k pset word g => ?_, fun s k i hworks => ?_, fun s => ?_⟩
  · intro key x hg
    obtain ⟨hout, hramp⟩ := exec_gain_boundary s k pset word g hg
    refine ⟨fun h => hout.trans ?_, fun h hd => hout.trans ?_, fun h hd => hout.trans ?_, fun hr hk => hramp.trans ?_,
      fun h => hramp.trans ?_⟩ <;> refine congrArg Host.Outcome.next ?_
    · exact if_pos (by simp [h])
    · exact (if_neg (not_not.mpr h)).trans (if_neg (fun hx => Bool.false_ne_true (hd.symm.trans hx)))
    · exact (if_neg (not_not.mpr h)).trans (if_pos hd)
    · exact if_pos ⟨hr, hk⟩
    · exact if_neg fun hx => h.elim (fun hr => Bool.false_ne_true (hr.symm.trans hx.1)) fun hk => Nat.not_le.mpr hk hx.2
  · intro x n st
    have hw : s.slotWorks k = true := State.slotWorks_iff.mpr hworks
    have hgo {p : Prop} (h : ¬ p) : ¬ (p ∨ ¬ s.slotWorks k = true) := fun hx => hx.elim h (not_not.mpr hw)
    refine ⟨fun hn => congrArg Host.Outcome.next ?_, fun hn => congrArg Host.Outcome.next ?_,
      fun hn ha hq => congrArg Host.Outcome.next ?_, fun hn h => congrArg Host.Outcome.next ?_,
      fun input hn => ⟨fun ha hc => congrArg Host.Outcome.next ?_, fun h => congrArg Host.Outcome.next ?_⟩,
      fun hup => ?_⟩
    · exact if_neg (hgo (not_not.mpr hn))
    · exact if_neg (hgo (not_not.mpr hn))
    · refine (if_neg ?_).trans ?_
      · rintro (h | h | h | h)
        exacts [h hn, h hw, h ha, Nat.not_lt.mpr hq h]
      · simp only [bit, ← Nat.testBit_eq_decide_div_mod_eq]; rfl
    · refine if_pos (.inr (.inr ?_))
      exact h.imp (fun ha => by show ¬ st.active = true; simp [ha]) id
    · exact if_pos ⟨hn, hw, ha, hc⟩
    · exact if_neg fun ⟨_, _, ha, hc⟩ => h.elim (fun hf => Bool.false_ne_true (hf.symm.trans ha)) fun hne => hne hc
    · intro r u v
      refine congrArg Host.Outcome.next ((if_neg (hgo (by simp [hup]))).trans ?_)
      have hv : s.settleVoice k i = v := by
        by_cases hn : n.type = T.srcVoice
        · exact (if_neg (hgo (not_not.mpr hn))).trans (if_neg (not_not.mpr hn)).symm
        · exact (if_pos (.inl hn)).trans (if_pos hn).symm
      show (s.settleVoice k i).setSlot k (((s.settleVoice k i).slot k).setNode i _) = _
      rw [hv]
  · refine ⟨fun m hup hm => ?_, fun i hup hi => ?_, fun p i hup hp hi => ?_, fun p k hup hp hk => ?_,
      fun n f hup hn hs hf ho => ?_, fun f hf => ⟨fun ho h1 => ?_, fun h => ?_⟩⟩
    · exact congrArg Host.Outcome.next (if_neg (by simp [hup]; omega))
    · exact congrArg Host.Outcome.next (if_neg (by simp [hup]; omega))
    · exact congrArg Host.Outcome.next (if_neg (by simp [hup]; omega))
    · have hgo : ¬ (s.held .apt = true ∨ 16 ≤ p ∨ 32 ≤ k) := by simp [hup]; omega
      exact ⟨congrArg Host.Outcome.next ((if_neg hgo).trans rfl), congrArg Host.Outcome.next ((if_neg hgo).trans rfl)⟩
    · refine congrArg Host.Outcome.next ((if_neg (by simp [hup]; omega)).trans ?_)
      rw [MicSt.settleAt_of_over hs hf ho]
    · refine congrArg Host.Outcome.next ?_
      simp only [State.settleMute, hf]
      exact if_pos (settleFade_isNone.mpr ⟨ho, h1⟩)
    · refine congrArg Host.Outcome.next ?_
      simp only [State.settleMute, hf]
      exact if_neg fun hx => by
        obtain ⟨ho, h1⟩ := settleFade_isNone.mp hx
        exact h.elim (fun hf => Bool.false_ne_true (hf.symm.trans ho)) fun hne => hne h1

end Sys2Proof.Machine
end

section
/-! PROOF. Host commands, the gate that they pass, and the control rings (R383 to R392, R396, R397). -/

namespace Sys2Proof.Machine

open Sys2Proof.Arith

theorem State.up_iff {s : State} {d : Dom} : s.up d = true ↔ s.held d = false := by
  rw [State.up, Bool.not_eq_true']

theorem State.not_held {s : State} {d : Dom} (h : s.held d = false) : ¬ s.held d = true := by simp [h]

theorem bit_eq_testBit (n i : Nat) : bit n i = n.testBit i := (Nat.testBit_eq_decide_div_mod_eq).symm

theorem bit_toNat {w : Nat} (v : BitVec w) (i : Nat) : bit v.toNat i = v.getLsbD i := bit_eq_testBit v.toNat i

/-! ### Host commands -/

/-- Settles O22: each command where its entry is taken, by its checks. -/
theorem hostCommandsCompleteWithTheirResult : Obligations.HostCommandsCompleteWithTheirResult := by
  unfold Obligations.HostCommandsCompleteWithTheirResult
  intro s cmd h u word
  have hexec {i : Instr} {op : Nat} {act : State → CmdRef → State} (hi : exec i s = .next (s.takeCommand cmd op act)) :=
    exec_takeCommand h hi
  refine ⟨fun v => (hexec rfl).trans rfl, fun cls index hbad => (hexec rfl).trans ?_, fun cls index hc hi => ⟨fun hnone => ?_, fun k i hsome => ?_⟩,
    fun mask => (hexec rfl).trans rfl, fun lane role prio intervals => ⟨fun hok => ?_, fun hbad => ?_⟩,
    (hexec rfl).trans (congrArg Host.Outcome.next (if_neg (not_not.mpr rfl))), fun v hv => (hexec rfl).trans ?_,
    fun op hop hnot => ?_, fun op => ?_⟩
  · exact congrArg Host.Outcome.next (if_pos hbad)
  · refine (hexec rfl).trans (congrArg Host.Outcome.next ((if_neg (by omega)).trans ?_))
    rw [hnone]
  · refine (hexec rfl).trans (congrArg Host.Outcome.next ((if_neg (by omega)).trans ?_))
    rw [hsome]
    dsimp only
    cases ((u.slot k).node i).voice <;> cases ((u.slot k).node i).recd <;> rfl
  · exact (hexec rfl).trans (congrArg Host.Outcome.next (if_neg (by omega)))
  · exact (hexec rfl).trans (congrArg Host.Outcome.next (if_pos (by omega)))
  · exact congrArg Host.Outcome.next (if_pos hv)
  · have hfree : opcodes.contains (op % 256) = false := by
      rw [Nat.mod_eq_of_lt hop]
      simpa [opcodes] using hnot
    refine congrArg Host.Outcome.next ((if_neg ?_).trans ?_)
    · rw [hfree, h.1]; simp
    · rw [Nat.mod_eq_of_lt hop]; rfl
  · exact congrArg Host.Outcome.next (if_neg (by rw [h.1]; simp))

/-! ### The gate of the commands -/

/-- R387, R392: when the firmware takes a command. -/
theorem State.takesCommand_iff {s : State} : s.takesCommand = true ↔
    s.up .ctl = true ∧ s.fget F.HIF_FW_STAT_STATE = 4 ∧ s.up .hif = true ∧ s.fon (F.HIF_RING_CFG_EN 0) = true ∧
      0 < sdiff (s.ringHost 0) (s.ringEng 0) ∧ s.hif.comps.length < 192 := by
  simp only [State.takesCommand, State.fwReady, State.ringHasEntry, State.ringOn, State.backlogged, Bool.and_eq_true,
    decide_eq_true_eq, Bool.not_eq_true', decide_eq_false_iff_not, Nat.not_le]
  tauto

/-- R391: an entry with a reserved field set is refused. -/
theorem State.takeCommand_reserved {s : State} {cmd : CmdHdr} (h : s.takesCommand = true)
    (hres : cmd.reserved = true ∨ 4 ≤ cmd.flags.toNat ∨ 16 ≤ cmd.queue.toNat) (op : Nat) (act : State → CmdRef → State) :
    s.takeCommand cmd op act = (s.consumed 0).answer (s.refOf cmd op) 0xB02 := by
  refine (if_neg (not_not.mpr h)).trans (if_pos (hres.imp id (Or.imp (fun hf => ?_) fun hq => ?_)))
  · have hlt := cmd.flags.isLt
    simp only [bits]; omega
  · have hlt := cmd.queue.isLt
    simp only [bits]; omega

/-- Settles O23: every row is `takeCommand`, whose gate and reserved fields decide. -/
theorem commandsAreTakenOnlyWhenTheyMay : Obligations.CommandsAreTakenOnlyWhenTheyMay := by
  unfold Obligations.CommandsAreTakenOnlyWhenTheyMay
  intro s cmd a b c d ok all may
  have hrow : ∀ x ∈ all, ∃ act, exec x.1 s = .next (s.takeCommand cmd x.2 act) := by
    simp only [all, List.forall_mem_cons]
    exact ⟨⟨_, rfl⟩, ⟨_, rfl⟩, ⟨_, rfl⟩, ⟨_, rfl⟩, ⟨_, rfl⟩, ⟨_, rfl⟩, ⟨_, rfl⟩, ⟨_, rfl⟩, ⟨_, rfl⟩, ⟨_, rfl⟩, ⟨_, rfl⟩, ⟨_, rfl⟩,
      fun x hx => absurd hx (List.not_mem_nil)⟩
  refine ⟨fun hnot x hx => ?_, fun hmay hres x hx => ?_⟩ <;> obtain ⟨act, hact⟩ := hrow x hx <;>
    refine hact.trans (congrArg Host.Outcome.next ?_)
  · exact if_pos (mt State.takesCommand_iff.mp hnot)
  · exact State.takeCommand_reserved (State.takesCommand_iff.mpr hmay) hres x.2 act

/-! ### Control rings -/

/-- R384: what the limits of a doorbell ask. -/
theorem indexOk_iff {produced : Bool} {old v eng size : Nat} : indexOk produced old v eng size = true ↔
    0 ≤ sdiff v old ∧ if produced = true then sdiff v eng ≤ (size : Int) else sdiff v eng ≤ 0 := by
  cases produced <;> simp [indexOk]

/-- Settles O24: doorbells by their limits, the other rows by their tests. -/
theorem controlRingsMoveWithinTheirLimits : Obligations.ControlRingsMoveWithinTheirLimits := by
  unfold Obligations.ControlRingsMoveWithinTheirLimits
  intro s hup
  have hnot := State.not_held hup
  refine ⟨fun k v hk hon => ?_, fun k v hoff => ?_, fun k v hk => ?_, fun v => ?_, fun c rest hl => ⟨fun hroom => ?_, fun hroom => ?_⟩,
    fun e he => ?_, fun e hk hr => ?_⟩
  · intro forward fits
    have hgo : ¬ (s.held .hif = true ∨ 6 ≤ k ∨ ¬ s.ringOn k = true) := by
      simp only [State.ringOn, State.up, hup, hon]; simp; omega
    have hok : indexOk (k = 0 || k = 3 || k = 5) (s.ringHost k) v.toNat (s.ringEng k) (s.ringSize k) = true ↔ forward ∧ fits := by
      rw [indexOk_iff]
      simp only [Bool.or_eq_true, decide_eq_true_eq, or_assoc, State.ringSize, Nat.cast_pow, Nat.cast_ofNat, forward, fits]
    refine ⟨fun h => ?_, fun h => ?_⟩ <;> refine congrArg Host.Outcome.next ((if_neg hgo).trans ?_)
    · exact if_neg (not_not.mpr (hok.mpr h))
    · exact if_pos (mt hok.mp h)
  · exact congrArg Host.Outcome.next (if_pos (.inr (.inr (by simp [State.ringOn, hoff]))))
  · intro u o
    have hexec : o = .next (if ¬ v.getLsbD 31 = true then u
        else if ¬ ringLogOk k (u.fget (F.HIF_RING_CFG_LOG2SIZE k)) = true then u.fset (F.HIF_RING_CFG_EN k) 0
        else
          let w := ((u.setReg (A.HIF_RING_HOST k) 0).setReg (A.HIF_RING_ENG k) 0).sbChanged
          { w with hif := { w.hif with sinceIrq := Tbl.set w.hif.sinceIrq 0 k 0 } }.drainQueues) := by
      refine congrArg Host.Outcome.next ((if_neg (by simp [hup]; omega)).trans ?_)
      rw [← bit_toNat]
    refine ⟨fun hb => hexec.trans ?_, fun hb hl => hexec.trans ?_, fun hb hl => hexec.trans ?_⟩ <;> refine congrArg Host.Outcome.next ?_
    · exact if_pos (by rw [hb]; exact Bool.false_ne_true)
    · exact (if_neg (not_not.mpr hb)).trans (if_pos (by simp [hl]))
    · exact (if_neg (not_not.mpr hb)).trans (if_neg (not_not.mpr hl))
  · exact congrArg Host.Outcome.next (if_neg hnot)
  · refine congrArg Host.Outcome.next ((if_neg hnot).trans ?_)
    simp only [State.drainCompletion, hl, hroom, if_true]
  · refine congrArg Host.Outcome.next ((if_neg hnot).trans ?_)
    simp only [State.drainCompletion, hl, hroom, Bool.false_eq_true, if_false]
  · refine congrArg Host.Outcome.next (if_neg ?_)
    rcases he with he | ⟨h2, h7, hr⟩
    · simp [he]
    · simp [hr]; omega
  · exact congrArg Host.Outcome.next (if_pos (.inr (.inr ⟨by omega, by simp [hr]⟩)))

end Sys2Proof.Machine
end

section
/-! PROOF. Audio stream rings, the firmware and its watch, the test port (R384, R399 to R407, R426, R427, R469, R470). -/

namespace Sys2Proof.Machine

open Sys2Proof.Arith

/-! ### Stream rings -/

/-- HIF is out of reset and stream ring 0 carries samples from the host; tick 0 is its slot 0, and the host has written that slot. -/
def hostWroteSlot0 : State := ((({} : State).fset F.RST_DOMAIN_HELD 0).fset (F.HIF_SR_CFG_EN 0) 1).setReg (A.HIF_SR_HOST 0) 1

theorem hostWroteSlot0_slot : hostWroteSlot0.srSlot 0 = 0 := by decide

/-- The next eight ticks have the slots 1 to 8, which the host has not written: nothing is fetched. -/
theorem exec_streamSlotFetch_hostWroteSlot0 : exec (.streamSlotFetch 0) hostWroteSlot0 = .next hostWroteSlot0 :=
  congrArg Host.Outcome.next ((if_neg (by decide)).trans (by
    rw [show List.find? _ _ = (none : Option Nat) from by decide]))

/-- Refutes O25: the clause of the fetch takes k over the integers below 8, so k = -1 claims that the slot of the present tick is
fetched, which is none of the next eight ticks' (R400). -/
theorem not_streamRingsFetchAndWriteSlots : ¬ Obligations.StreamRingsFetchAndWriteSlots := by
  unfold Obligations.StreamRingsFetchAndWriteSlots
  intro h
  obtain ⟨-, -, -, -, hfetch, -⟩ := h hostWroteSlot0 0 (by decide) (by decide)
  have hclaim := hfetch (-1) (by decide) (by decide) (by decide) (by decide) (by decide) (by decide) fun j hj hpos => by
    rw [hostWroteSlot0_slot] at hpos
    omega
  have heq := exec_streamSlotFetch_hostWroteSlot0.symm.trans hclaim
  exact absurd (congrArg (fun o => (after o hostWroteSlot0).hif.streams.length) heq) (by decide)

/-! ### The firmware -/

/-- Settles O26: heartbeats by their tests; the loader by the first image that it offers; the firmware by its state. -/
theorem firmwareStartsAndIsWatched : Obligations.FirmwareStartsAndIsWatched := by
  unfold Obligations.FirmwareStartsAndIsWatched
  intro s
  refine ⟨fun q hup hq => ?_, fun q hup hq hen hst hlong => ?_, fun q hoff => ?_, fun ok => ?_, fun hup hst => ?_, fun hup hst => ?_,
    fun hst => ?_, fun hup hst hrun => ?_, fun v hup => ?_⟩
  · exact congrArg Host.Outcome.next (if_neg fun hx => hx.elim (State.not_held hup) (by omega))
  · refine congrArg Host.Outcome.next (if_neg ?_)
    rintro (hx | hx | hx | hx | hx)
    · exact State.not_held hup hx
    · omega
    · exact hx ((bit_eq_testBit _ _).trans hen)
    · exact Bool.false_ne_true ((hst.symm.trans (bit_toNat _ _).symm).trans hx)
    · exact Nat.not_lt.mpr hlong hx
  · refine congrArg Host.Outcome.next (if_pos (.inr (.inr (.inl ?_))))
    rw [bit_eq_testBit, hoff]
    exact Bool.false_ne_true
  · intro t hup hst
    have hgo : ¬ (t.held .ctl = true ∨ t.fget F.HIF_FW_STAT_STATE ≠ 1) := fun hx => hx.elim (State.not_held hup) fun hx => hx hst
    refine ⟨fun hnone => ?_, fun i rest hl => ?_⟩
    · exact congrArg Host.Outcome.next ((if_neg hgo).trans (by rw [hnone]))
    · intro reads
      refine ⟨fun why hwhy => ?_, fun hpass => ?_⟩ <;> refine congrArg Host.Outcome.next ((if_neg hgo).trans ?_) <;> rw [hl]
      · show (match t.imageReason i reads with | some why => t.imageFails i why | none => t.imagePasses i) = _
        rw [hwhy]
      · show (match t.imageReason i reads with | some why => t.imageFails i why | none => t.imagePasses i) = _
        rw [hpass]
  · exact congrArg Host.Outcome.next (if_neg fun hx => hx.elim (State.not_held hup) fun hx => hx hst)
  · exact congrArg Host.Outcome.next (if_neg fun hx => hx.elim (State.not_held hup) fun hx => hx hst)
  · exact congrArg Host.Outcome.next (if_pos (.inr hst))
  · refine congrArg Host.Outcome.next (if_neg ?_)
    rintro (hx | hx)
    · exact hx (by rw [State.fwReady, hup, decide_eq_true hst]; rfl)
    · exact hx hrun
  · have hexec : exec (.fwGo v) s = .next (if v.getLsbD 1 = true then (s.writePlain A.HIF_FW_CTRL v).askReset 6 8
        else s.writePlain A.HIF_FW_CTRL v) := by
      rw [← bit_toNat]
      exact congrArg Host.Outcome.next (if_neg (State.not_held hup))
    exact ⟨fun hb => hexec.trans (congrArg Host.Outcome.next (if_pos hb)),
      fun hb => hexec.trans (congrArg Host.Outcome.next (if_neg (by rw [hb]; exact Bool.false_ne_true)))⟩

/-! ### The test port -/

/-- Settles O43: each opcode by its row; the captured pins are the next free value. -/
theorem theTestPortSelectsItsDataRegister : Obligations.TheTestPortSelectsItsDataRegister := by
  unfold Obligations.TheTestPortSelectsItsDataRegister
  intro s idcode scans
  refine ⟨fun cells => ⟨(s.draw cells.length).1, Nat.mod_lt _ (Nat.two_pow_pos _), ?_⟩, rfl, rfl, rfl, rfl, fun op hlo hhi => ?_,
    fun op hop => ?_⟩
  · simp only [List.forall_mem_cons]
    exact ⟨rfl, rfl, rfl, rfl, fun x hx => absurd hx List.not_mem_nil⟩
  · exact congrArg Host.Outcome.next (if_neg (by omega))
  · exact congrArg Host.Outcome.next (if_pos (.inl hop))

end Sys2Proof.Machine
end

section
/-! PROOF. References, timescales, Fireflies and FSYNC outputs (R290 to R306, R314). -/

namespace Sys2Proof.Machine

open Sys2Proof.Arith

/-! ### FSYNC outputs -/

theorem State.fsOut_setFsOut_same {s : State} (h : s.canonical = true) (o : Nat) (x : FsOut) : (s.setFsOut o x).fsOut o = x := by
  have hclk := State.canonical_clk h
  simp only [ClkSt.canonical, Bool.and_eq_true] at hclk
  exact Tbl.get_set_same _ _ _ _ (Tbl.wf_rising _ _ hclk.2)

/-- R301: what a reference instant does at an output whose state is `x`. -/
theorem State.fsRef_setFsOut {u : State} (h : u.canonical = true) (o : Nat) (x : FsOut) (at_ : Int) :
    (u.setFsOut o x).fsRef o at_ =
      let ofs := u.regInt (A.CLK_FS_OFFSET o)
      let width : Int := (min (u.fget ⟨A.CLK_FS_WIDTH o, 23, 0⟩) (u.fsSpacing o / 2) : Nat)
      match if 0 ≤ ofs then some at_ else predictRef ((at_ :: x.refs).take 16) with
      | some r => (u.setFsOut o x).setFsOut o { x with
          refs := (at_ :: x.refs).take 16, pulses := ((r + ofs, r + ofs + width) :: x.pulses).take 2 }
      | none => (u.setFsOut o x).setFsOut o { x with refs := (at_ :: x.refs).take 16 } := by
  simp only [State.fsRef, State.fsOut_setFsOut_same h]
  rfl

theorem predictRef_of_getLast {refs : List Int} {at_ last : Int} (hne : refs ≠ [])
    (hlast : ((at_ :: refs).take 16).getLast? = some last) :
    predictRef ((at_ :: refs).take 16) = some (at_ + divHalfUp (at_ - last) (((at_ :: refs).take 16).length - 1)) := by
  obtain ⟨second, rest, rfl⟩ := List.exists_cons_of_ne_nil hne
  simp only [List.take_succ_cons] at hlast ⊢
  rw [predictRef, List.getLastD_eq_getLast?, hlast, Option.getD_some]

/-- R301: a reference instant that the output's SOURCE and PERIOD let through is counted, and where it is due acted on. -/
theorem exec_fsyncOutPulse {s : State} (hup : s.held .clk = false) {o : Nat} (ho : o < 4) (cycle : Nat) (predicted : Bool)
    (hlo : 1 ≤ s.fget (F.CLK_FS_CFG_SOURCE o)) (hhi : s.fget (F.CLK_FS_CFG_SOURCE o) ≤ 6)
    (hper : fsPeriodOk (s.fget (F.CLK_FS_CFG_SOURCE o)) (s.fsPeriod o) = true)
    (hedge : predicted = false → 2 ≤ s.fget (F.CLK_FS_CFG_SOURCE o) → s.fget (F.CLK_FS_CFG_SOURCE o) ≤ 5 →
      s.inHere (s.fget (F.CLK_FS_CFG_SOURCE o) - 2) = true)
    (hpred : predicted = true → 2 ≤ s.fget (F.CLK_FS_CFG_SOURCE o) ∧ s.fget (F.CLK_FS_CFG_SOURCE o) ≤ 5 ∧
      (s.fsOut o).missed < 8 ∧ (s.fsOut o).stopped = false)
    (hmain : s.fget (F.CLK_FS_CFG_SOURCE o) = 6 → s.mainSet = true) :
    let src := s.fget (F.CLK_FS_CFG_SOURCE o)
    let per := s.fsPeriod o
    let old := s.fsOut o
    let x := { old with edges := old.edges + 1, missed := if predicted then old.missed + 1 else 0, stopped := false }
    let u := s.fset (F.CLK_FS_CFG_FLY o) (if predicted then 1 else 0)
    exec (.fsyncOutPulse o cycle predicted) s = .next (
      if if src = 1 then u.scnt % per = 0 else if src = 6 then u.nearSecond % per = 0 else x.edges % per = 0 then
        (u.setFsOut o x).fsRef o ((u.setFsOut o x).ecnt + cycle) else u.setFsOut o x) := by
  intro src per old x u
  refine congrArg Host.Outcome.next ((if_neg ?_).trans ((if_neg ?_).trans ((if_neg ?_).trans rfl)))
  · rintro (h | h | h | h | h)
    exacts [State.not_held hup h, absurd ho (by omega), absurd hlo (by omega), absurd hhi (by omega), h hper]
  · simp only [Bool.and_eq_true, decide_eq_true_eq]
    rintro (⟨hp, h⟩ | ⟨⟨h2, h5⟩, hp, h⟩)
    · obtain ⟨h2, h5, hm, hs⟩ := hpred hp
      rcases h with h | h | h
      exacts [h ⟨h2, h5⟩, absurd hm (by omega), Bool.false_ne_true (hs.symm.trans h)]
    · exact h (hedge (Bool.eq_false_iff.mpr hp) h2 h5)
  · exact fun h => h.2 (hmain h.1)

/-! ### References -/

/-- R294: what a write of CLK_CTRL does. -/
theorem exec_clkModeWrite {s : State} (hup : s.held .clk = false) (v : W32) :
    let u := s.writePlain A.CLK_CTRL v
    let mode := u.fget F.CLK_CTRL_MODE
    exec (.clkModeWrite v) s = .next (
      if mode = s.fget F.CLK_CTRL_MODE then u.setWord u.clk.ask
      else if mode = 0 then u.enterFree.evaluate
      else if mode = 1 then (u.deselect.fset F.CLK_STAT_STATE 4).setWord (u.regInt A.CLK_DCO_MAN)
      else if mode = 2 ∧ ¬ (u.clkState = 3 ∧ u.hoValid = true) then u.enterHoldover
      else u.setWord u.clk.ask) :=
  congrArg Host.Outcome.next (if_neg (State.not_held hup))

/-- Settles O27: each row by its guard; the mode write by its cases; an FSYNC output by what its reference instant does. -/
theorem referencesAreReadComparedAndSelected : Obligations.ReferencesAreReadComparedAndSelected := by
  unfold Obligations.ReferencesAreReadComparedAndSelected
  intro s hup
  have hnot := State.not_held hup
  refine ⟨fun readings => congrArg Host.Outcome.next (if_neg hnot), fun i here mult hi => ?_, fun i err hsel hi hst => ?_,
    fun i err h => ?_, fun v => ?_, fun o cycle predicted ho => ?_, fun o ho => ⟨fun hfew => ?_, fun hlost => ?_⟩⟩
  · exact congrArg Host.Outcome.next (if_neg fun h => h.elim hnot (by omega))
  · refine congrArg Host.Outcome.next (if_neg ?_)
    rintro (h | h | h | h)
    exacts [hnot h, h hsel, absurd hi (by omega), hst.elim h.1 h.2]
  · exact congrArg Host.Outcome.next (if_pos (.inr (h.imp id .inr)))
  · intro u old mode again
    have hexec := exec_clkModeWrite hup v
    have hno {j k : Nat} (h : mode = k) (hjk : k ≠ j) : ¬ mode = j := fun hx => hjk (h.symm.trans hx)
    have hover {j : Nat} (h : 2 < mode) (hj : j ≤ 2) : ¬ mode = j := fun hx => Nat.not_lt.mpr hj (hx ▸ h)
    refine ⟨fun h => hexec.trans (congrArg Host.Outcome.next ?_), fun hne h => hexec.trans (congrArg Host.Outcome.next ?_),
      fun hne h => hexec.trans (congrArg Host.Outcome.next ?_), fun hne h hst hv => hexec.trans (congrArg Host.Outcome.next ?_),
      fun hne h hleave => hexec.trans (congrArg Host.Outcome.next ?_)⟩
    · rcases h with h | h
      · exact if_pos h
      · by_cases heq : mode = old
        · exact if_pos heq
        · exact (if_neg heq).trans ((if_neg (hover h (by decide))).trans ((if_neg (hover h (by decide))).trans
            (if_neg fun hx => hover h (by decide) hx.1)))
    · exact (if_neg hne).trans (if_pos h)
    · exact (if_neg hne).trans ((if_neg (hno h (by decide))).trans (if_pos h))
    · exact (if_neg hne).trans ((if_neg (hno h (by decide))).trans ((if_neg (hno h (by decide))).trans
        (if_neg fun hx => hx.2 ⟨hst, hv⟩)))
    · refine (if_neg hne).trans ((if_neg (hno h (by decide))).trans ((if_neg (hno h (by decide))).trans (if_pos ⟨h, fun hx => ?_⟩)))
      exact hleave.elim (fun hne => hne hx.1) fun hno => Bool.false_ne_true (hno.symm.trans hx.2)
  · intro src per old x u hlo hhi hper hedge hpred hmain due at_ ofs width pulse hcan
    have hexec : exec (.fsyncOutPulse o cycle predicted) s =
        .next (if due then (u.setFsOut o x).fsRef o at_ else u.setFsOut o x) :=
      exec_fsyncOutPulse hup ho cycle predicted hlo hhi hper hedge hpred hmain
    have hu : u.canonical = true := State.canonical_fset hcan _ _
    have href := State.fsRef_setFsOut hu o x at_
    refine ⟨fun hno => hexec.trans (congrArg Host.Outcome.next (if_neg hno)), fun hdue hofs => ?_, fun hdue hofs hnone => ?_,
      fun hdue hofs last hlast hne => ?_⟩ <;> refine hexec.trans (congrArg Host.Outcome.next ((if_pos hdue).trans (href.trans ?_)))
    · dsimp only
      rw [if_pos hofs]
    · dsimp only
      rw [if_neg (Int.not_le.mpr hofs), hnone]
      rfl
    · dsimp only
      rw [if_neg (Int.not_le.mpr hofs), predictRef_of_getLast hne hlast]
  · exact congrArg Host.Outcome.next (if_pos (.inr (.inr hfew)))
  · refine congrArg Host.Outcome.next (if_neg ?_)
    rintro (h | h | h)
    exacts [hnot h, absurd ho (by omega), absurd hlost (by omega)]

end Sys2Proof.Machine
end

section
/-! PROOF. Timescales, main time and Fireflies (R302 to R306, R314). -/

namespace Sys2Proof.Machine

open Sys2Proof.Arith

/-! ### Fireflies -/

/-- R314: what arming a Firefly does. -/
theorem exec_fireflyArm {s : State} {n : Nat} (hup : s.held .clk = false) (hn : n < 8) (v : W32) :
    let u := s.writePlain (A.TIM_FF_CTRL n) v
    let w := u.fset (F.TIM_FF_CTRL_ARM n) 0
    let per := w.ffPeriod n
    let soon := w.mainTime + 10000 * 2 ^ 32
    let armed := fun (x : State) (next : Nat) =>
      ((x.setFirefly n { x.firefly n with next := some next }).fset (F.TIM_FF_CTRL_ARMED n) 1).fset (F.TIM_FF_CTRL_ARM n) 1
    exec (.fireflyArm n v) s = .next (
      if (s.firefly n).next.isSome = true then u.fset (F.TIM_FF_CTRL_ARM n) 1
      else if ¬ w.mainSet = true ∨ (per ≠ 0 ∧ per ≤ (w.reg (A.TIM_FF_WIDTH n)).toNat) then w.fset (F.TIM_FF_CTRL_CFG_REJ n) 1
      else if w.ffStart n * 2 ^ 32 < soon then
        if per = 0 then w.fset (F.TIM_FF_CTRL_LATE n) 1 else armed (w.fset (F.TIM_FF_CTRL_SKIPPED n) 1) (w.ffFirst n soon)
      else armed w (w.ffStart n)) := by
  intro u w per soon armed
  exact congrArg Host.Outcome.next (if_neg fun h => h.elim (State.not_held hup) (by omega))

/-- R314: a pulse that lies in the present tick. -/
theorem exec_fireflyPulse {s : State} {n : Nat} (hup : s.held .clk = false) (hn : n < 8) {next : Nat}
    (hnext : (s.firefly n).next = some next) (hnow : next * 2 ^ 32 < s.mainTime + secUnits / s.baseHz) :
    let x := (s.setFirefly n { next := some (next + s.ffPeriod n), start := next, stop := next + (s.reg (A.TIM_FF_WIDTH n)).toNat }).bump
      (A.TIM_FF_COUNT n)
    exec (.fireflyPulse n) s = .next (if s.ffPeriod n = 0 then x.disarm n else x) := by
  intro x
  refine congrArg Host.Outcome.next ?_
  simp only [hnext]
  refine (if_neg ?_).trans rfl
  rintro (h | h | h)
  exacts [State.not_held hup h, absurd hn (by omega), absurd hnow (by omega)]

/-! ### Timescales -/

/-- R306: the check of a second that was not checked. -/
theorem exec_secondCheck {s : State} (hup : s.held .clk = false) (hset : s.mainSet = true) {off : Int}
    (hoff : off = (s.mainTime : Int) - (s.nearSecond * secUnits : Nat)) (hnear : 2 * s.baseHz * off.natAbs ≤ secUnits)
    (hnew : s.tim.checked ≠ some s.nearSecond) :
    let want := s.nearSecond * s.baseHz % 2 ^ 32
    let u := { s with tim := { s.tim with checked := some s.nearSecond } }
    let v := u.fset F.TIM_STAT_TICK_ALIGNED (b2n (decide (s.scnt = want) && decide (off.natAbs ≤ 1000 * 2 ^ 32)))
    exec .secondCheck s = .next (if decide (s.scnt = want) = true then v
      else (v.fset F.TIM_STAT_TICK_MISALIGN 1).record 0x206 0 [v.scnt, want]) := by
  subst hoff
  intro want u v
  refine congrArg Host.Outcome.next ((if_neg ?_).trans rfl)
  rintro (h | h | h | h)
  exacts [State.not_held hup h, h hset, Nat.not_lt.mpr hnear h, hnew h]

/-- Settles O28: each row by its guard; arming, pulses and the check of a second by their cases. -/
theorem timescalesAndFirefliesFollowTheirCommands : Obligations.TimescalesAndFirefliesFollowTheirCommands := by
  unfold Obligations.TimescalesAndFirefliesFollowTheirCommands
  refine ⟨fun s hup => ?_, fun s n v hup hn => ?_⟩
  · have hnot := State.not_held hup
    refine ⟨fun ts v hts => ⟨?_, ?_, fun hv => ?_, fun hv => ?_⟩, fun ts hts hst hsrc => ⟨fun hq => ?_, fun hq => ?_⟩, ?_, fun h => ?_,
      fun heng hset => ?_, ?_, fun hset => ?_⟩
    · exact congrArg Host.Outcome.next (if_neg fun h => h.elim hnot (by omega))
    · exact congrArg Host.Outcome.next (if_neg fun h => h.elim hnot (by omega))
    · exact congrArg Host.Outcome.next (if_pos (.inr (.inr (by rw [bit_toNat, hv]; exact Bool.false_ne_true))))
    · refine congrArg Host.Outcome.next (if_neg ?_)
      rintro (h | h | h)
      exacts [hnot h, absurd hts (by omega), h ((bit_toNat _ _).trans hv)]
    · refine congrArg Host.Outcome.next (if_neg ?_)
      rintro (h | h | h | h | h)
      exacts [hnot h, absurd hts (by omega), h hst, hsrc.elim h.1 h.2, Nat.not_lt.mpr hq h]
    · exact congrArg Host.Outcome.next (if_pos (.inr (.inr (.inr (.inr hq)))))
    · exact congrArg Host.Outcome.next (if_neg hnot)
    · exact congrArg Host.Outcome.next ((if_neg hnot).trans (if_pos (h.imp id fun h => by simp [h])))
    · intro unit sec ticks
      refine congrArg Host.Outcome.next ((if_neg hnot).trans ((if_neg ?_).trans rfl))
      rintro (h | h)
      · exact Bool.false_ne_true ((State.up_iff.mp h).symm.trans heng)
      · exact h hset
    · intro sec off want u hset hnear hnew
      have hexec := exec_secondCheck hup hset (off := off) rfl hnear hnew
      refine ⟨fun hok => hexec.trans ?_, fun hbad => hexec.trans ?_⟩ <;> refine congrArg Host.Outcome.next ?_
      · refine (if_pos (decide_eq_true hok)).trans ?_
        rw [decide_eq_true hok, Bool.true_and, b2n]
        simp only [decide_eq_true_eq]
        rfl
      · refine (if_neg (by rw [decide_eq_false hbad]; exact Bool.false_ne_true)).trans ?_
        rw [decide_eq_false hbad, Bool.false_and]
        rfl
    · exact congrArg Host.Outcome.next (if_pos (.inr (.inl (by simp [hset]))))
  · intro u w per soon bad armed o
    have hexec := exec_fireflyArm hup hn v
    have hbad : (¬ w.mainSet = true ∨ (per ≠ 0 ∧ per ≤ (w.reg (A.TIM_FF_WIDTH n)).toNat)) ↔ bad := by
      rw [Bool.not_eq_true]
    refine ⟨fun hsome => hexec.trans (congrArg Host.Outcome.next ?_), fun hnone => ?_, ?_, fun next hnext hnow => ?_, fun hnone => ?_⟩
    · exact if_pos (Option.isSome_iff_ne_none.mpr hsome)
    · have hidle : ¬ (s.firefly n).next.isSome = true := by simp [hnone]
      refine ⟨fun hb => hexec.trans ?_, fun hb hlate => hexec.trans ?_, fun hb hsoon hper => hexec.trans ?_,
        fun hb hsoon hper => hexec.trans ?_⟩ <;> refine congrArg Host.Outcome.next ((if_neg hidle).trans ?_)
      · exact if_pos (hbad.mpr hb)
      · exact (if_neg (mt hbad.mp hb)).trans (if_neg (Nat.not_lt.mpr hlate))
      · exact (if_neg (mt hbad.mp hb)).trans ((if_pos hsoon).trans (if_pos hper))
      · exact (if_neg (mt hbad.mp hb)).trans ((if_pos hsoon).trans (if_neg hper))
    · exact congrArg Host.Outcome.next (if_neg fun h => h.elim (State.not_held hup) (by omega))
    · intro x
      have hpulse := exec_fireflyPulse hup hn hnext hnow
      exact ⟨fun hper => hpulse.trans (congrArg Host.Outcome.next (if_pos hper)),
        fun hper => hpulse.trans (congrArg Host.Outcome.next (if_neg hper))⟩
    · refine congrArg Host.Outcome.next ?_
      simp only [hnone]

end Sys2Proof.Machine
end

section
/-! PROOF. Lane receivers, blocks and lane registers (R230 to R243, R250). -/

namespace Sys2Proof.Machine

open Sys2Proof.Arith

theorem up_or {s : State} {d : Dom} {n m : Nat} (hup : s.held d = false) (h : n < m) : ¬ (s.held d = true ∨ m ≤ n) :=
  fun hx => hx.elim (State.not_held hup) (Nat.not_le.mpr h)

/-! ### The receiver's state table -/

/-- R236: what a change of the signal or of CDR lock does. -/
theorem exec_laneSignalChange {s : State} {l : Nat} (hup : s.held .lnk = false) (hl : l < 8) (sig cdr : Bool) :
    let u := (s.fset (F.LNP_STAT_SIG_DET l) (if sig then 1 else 0)).fset (F.LNP_STAT_CDR_LOCK l) (if cdr then 1 else 0)
    exec (.laneSignalChange l sig cdr) s = .next ((
      if sig = true ∧ cdr = true then if u.blkState l = 0 then u.unlock l 1 false else u
      else if u.blkState l ≠ 0 then u.unlock l 0 true else u).settleLane l) :=
  congrArg Host.Outcome.next (if_neg (up_or hup hl))

/-- R236: where a lane's block state stands after it has left for `st`. -/
theorem State.unlock_eq (s : State) (l st : Nat) (loss : Bool) :
    let v := s.setLane l { s.lane l with
      good := 0, win := 0, winBad := 0, age := 0, bad := [], open_ := false, ident := none, blk := none }
    let u := ((v.fset (F.LNP_STAT_BLK_STATE l) st).fset (F.LNP_STAT_HI_BER l) 0).fset (F.LNP_STAT_PEER_VALID l) 0
    s.unlock l st loss =
      if s.blkState l = 2 ∧ loss = true then (u.fset (F.LNP_STAT_LOCK_LOST l) 1).bump (A.LNP_LOCK_LOSS l) else u := rfl

/-- Settles O29: each row by its guard, and `unlock` by its equation. -/
theorem laneReceiversFollowTheirStateTable : Obligations.LaneReceiversFollowTheirStateTable := by
  unfold Obligations.LaneReceiversFollowTheirStateTable
  intro s l hup hl
  refine ⟨fun sig cdr => ?_, ?_, fun hsig hdown => ?_, fun hlane => ?_, fun hsig hfree => ?_, fun st loss h => ?_, fun st h => ?_⟩
  · intro u o
    have hexec := exec_laneSignalChange hup hl sig cdr
    have hoff (h : sig = false ∨ cdr = false) : ¬ (sig = true ∧ cdr = true) := by
      rcases h with rfl | rfl <;> simp
    refine ⟨fun hs hc hb => hexec.trans ?_, fun hs hc hb => hexec.trans ?_, fun h hb => hexec.trans ?_, fun h hb => hexec.trans ?_⟩
    · rw [if_pos ⟨hs, hc⟩, if_pos hb]
    · rw [if_pos ⟨hs, hc⟩, if_neg hb]
    · rw [if_neg (hoff h), if_pos hb]
    · rw [if_neg (hoff h), if_neg (not_not.mpr hb)]
  · exact congrArg Host.Outcome.next (if_neg (up_or hup hl))
  · refine congrArg Host.Outcome.next (if_neg ?_)
    rintro (h | h | h | h)
    exacts [State.not_held hup h, absurd hl (by omega), h hsig, Bool.false_ne_true (hdown.symm.trans h)]
  · exact congrArg Host.Outcome.next (if_pos (.inr (.inr (.inr hlane))))
  · refine ⟨(s.draw 10).1, Nat.mod_lt _ (Nat.two_pow_pos _), congrArg Host.Outcome.next (if_neg ?_)⟩
    rintro (h | h | h | h)
    exacts [State.not_held hup h, absurd hl (by omega), h hsig, Bool.false_ne_true (hfree.symm.trans h)]
  · intro v
    refine (State.unlock_eq s l st loss).trans (if_neg ?_)
    rintro ⟨h2, hloss⟩
    exact h.elim (fun hne => hne h2) fun hno => Bool.false_ne_true (hno.symm.trans hloss)
  · exact (State.unlock_eq s l st true).trans (if_pos ⟨h, rfl⟩)

/-! ### Blocks -/

/-- POL_RX exchanges the wires of both parts of a word. -/
theorem invertWord_eq (on : Bool) (hdr : BitVec 2) (payload : W64) : invertWord on (hdr.toNat, payload.toNat) =
    (if on = true then 3 - hdr.toNat else hdr.toNat, if on = true then 2 ^ 64 - 1 - payload.toNat else payload.toNat) := by
  cases on
  · rfl
  · simp only [invertWord, if_true, Nat.mod_eq_of_lt hdr.isLt, Nat.mod_eq_of_lt payload.isLt, show (4 : Nat) = 2 ^ 2 from rfl]

/-- R236: what a valid or invalid header does in HUNT. -/
theorem State.blockIn_hunt {a c u v : State} {l h w : Nat} (hsig : a.fon (F.LNP_STAT_SIG_DET l) = true)
    (hcdr : a.fon (F.LNP_STAT_CDR_LOCK l) = true) (hc : c = a.checkLine l (h, w))
    (hu : u = if c.blkState l = 0 then c.unlock l 1 false else c)
    (hv : v = if decide (h = 1) || decide (h = 2) then u else (u.bump (A.LNP_HDR_ERR l)).laneError l 3) (hst : v.blkState l = 1) :
    let x := u.lane l
    let good := if decide (h = 1) || decide (h = 2) then x.good + 1 else 0
    let t := v.setLane l { x with
      rxScr := (descramble x.rxScr w).2, rxBits := min 58 (x.rxBits + 64), good := if good = 64 then 0 else good }
    let t := if decide (h = 1) || decide (h = 2) then t else t.slip l
    a.blockIn l h w = if good = 64 then (t.fset (F.LNP_STAT_BLK_STATE l) 2).settleLane l else t := by
  subst hc hu hv
  refine (if_neg ?_).trans (if_pos hst)
  rintro (hx | hx)
  exacts [hx hsig, hx hcdr]

/-- R237: what a valid or invalid header does in LOCKED. -/
theorem State.blockIn_locked {a c u v : State} {l h w : Nat} (hsig : a.fon (F.LNP_STAT_SIG_DET l) = true)
    (hcdr : a.fon (F.LNP_STAT_CDR_LOCK l) = true) (hc : c = a.checkLine l (h, w))
    (hu : u = if c.blkState l = 0 then c.unlock l 1 false else c)
    (hv : v = if decide (h = 1) || decide (h = 2) then u else (u.bump (A.LNP_HDR_ERR l)).laneError l 3) (hst : ¬ v.blkState l = 1) :
    let valid := decide (h = 1) || decide (h = 2)
    let x := u.lane l
    let d := descramble x.rxScr w
    let y := { x with rxScr := d.2, rxBits := min 58 (x.rxBits + 64) }
    let k := v.count48 (A.LNP_RXBLK_LO l) (A.LNP_RXBLK_HI l) 1
    let winBad := if valid then x.winBad else x.winBad + 1
    let z := { y with
      win := if x.win = 63 then 0 else x.win + 1, winBad := if x.win = 63 then 0 else winBad
      age := x.age + 1, bad := if valid then x.bad else ((x.age + 1) :: x.bad).take 16 }
    let m := k.setLane l z
    let n := if z.hiBer = true ∧ ¬ k.fon (F.LNP_STAT_HI_BER l) = true then
        ((m.fset (F.LNP_STAT_HI_BER l) 1).fset (F.LNP_STAT_HI_BER_SEEN l) 1).bump (A.LNP_HIBER_CNT l)
      else if k.fon (F.LNP_STAT_HI_BER l) = true ∧ ¬ z.hiBer = true then m.fset (F.LNP_STAT_HI_BER l) 0 else m
    a.blockIn l h w = if winBad = 16 then (((k.setLane l y).unlock l 1 true).slip l).settleLane l
      else (n.settleLane l).deliverBlock l valid h d.1 := by
  subst hc hu hv
  refine (if_neg ?_).trans (if_neg hst)
  rintro (hx | hx)
  exacts [hx hsig, hx hcdr]

/-- Settles O30: a block is kept from the receiver under a loopback, and else enters `blockIn` in HUNT or LOCKED. -/
theorem blocksLockAndReachTheLink : Obligations.BlocksLockAndReachTheLink := by
  unfold Obligations.BlocksLockAndReachTheLink
  intro s l hdr payload hup hl hsig hcdr loop a h w c u x d y valid o v k winBad
  have hloops : s.loopsBack l = true ↔ loop = 1 ∨ loop = 2 := by
    simp only [State.loopsBack, Bool.or_eq_true, decide_eq_true_eq, loop]
  have hvalid : (decide (h = 1) || decide (h = 2)) = decide valid := (Bool.decide_or _ _).symm
  refine ⟨fun hloop => congrArg Host.Outcome.next (if_pos (.inr (.inr (hloops.mpr hloop)))), fun h1 h2 => ?_⟩
  have hfon (f : Field) : a.fon f = s.fon f := by
    simp only [a]; split
    · rfl
    · rfl
  have hexec : o = .next (a.blockIn l h w) := by
    refine congrArg Host.Outcome.next ((if_neg ?_).trans ?_)
    · rintro (hx | hx | hx)
      exacts [State.not_held hup hx, absurd hl (by omega), (hloops.mp hx).elim h1 h2]
    · show a.blockIn l (invertWord (a.fon (F.LNP_CTRL_POL_RX l)) (hdr.toNat, payload.toNat)).1
        (invertWord (a.fon (F.LNP_CTRL_POL_RX l)) (hdr.toNat, payload.toNat)).2 = _
      rw [hfon, invertWord_eq]
  have hv : v = if decide (h = 1) || decide (h = 2) then u else (u.bump (A.LNP_HDR_ERR l)).laneError l 3 := by
    rw [hvalid]; simp only [decide_eq_true_eq]; rfl
  have hhunt := State.blockIn_hunt (c := c) (u := u) (v := v) ((hfon _).trans hsig) ((hfon _).trans hcdr) rfl rfl hv
  have hlocked := State.blockIn_locked (c := c) (u := u) (v := v) ((hfon _).trans hsig) ((hfon _).trans hcdr) rfl rfl hv
  rw [hvalid] at hhunt hlocked
  refine ⟨fun hst hok hgood => ?_, fun hst hok hgood => ?_, fun hst hbad => ?_, fun hst hwin => ?_, fun hst hwin => ?_⟩ <;>
    refine hexec.trans (congrArg Host.Outcome.next ?_)
  · refine (hhunt hst).trans ?_
    simp only [hok, decide_true, if_true]
    rw [if_neg hgood, if_neg hgood]
  · refine (hhunt hst).trans ?_
    simp only [hok, decide_true, if_true]
    rw [if_pos hgood, if_pos hgood]
  · refine (hhunt hst).trans ?_
    simp only [hbad, decide_false, Bool.false_eq_true, if_false]
    rfl
  · refine (hlocked hst).trans ((if_pos ?_).trans rfl)
    simp only [decide_eq_true_eq]; exact hwin
  · refine (hlocked hst).trans ((if_neg ?_).trans ?_)
    · simp only [decide_eq_true_eq]; exact hwin
    · simp only [decide_eq_true_eq, Bool.not_eq_true]
      rfl

end Sys2Proof.Machine
end

section
/-! PROOF. The writes of a lane's registers (R230, R239 to R243, R250). -/

namespace Sys2Proof.Machine

open Sys2Proof.Arith

/-- A field of one bit, as the bit of its register. -/
theorem State.bit_reg (s : State) (off i : Nat) : bit (s.reg off).toNat i = s.fon ⟨off, i, i⟩ := by
  simp only [State.fon, State.fget, bit, bits, Nat.add_sub_cancel_left, Nat.pow_one]

/-- R236, R239, R241, R242: what a write of LNP_CTRL does. -/
theorem exec_laneCtrlWrite {s : State} {l : Nat} (hup : s.held .lnk = false) (hl : l < 8) (v : W32) :
    let u := s.writePlain (A.LNP_CTRL l) v
    let a := if u.fon (F.LNP_CTRL_RX_FIXED l) ≠ s.fon (F.LNP_CTRL_RX_FIXED l) then
      u.fset (F.LNP_STAT_ADAPT_DONE l) (b2n (!s.fon (F.LNP_CTRL_RX_FIXED l))) else u
    let b := if v.getLsbD 8 = true then a.restartAdapt l else a
    exec (.laneCtrlWrite l v) s = .next ((
      if v.getLsbD 8 = true ∨ b.fget (F.LNP_CTRL_LOOP l) ≠ s.fget (F.LNP_CTRL_LOOP l) then b.unlock l 0 false else b).settleLane l) := by
  intro u a b
  simp only [a, b, ← bit_toNat]
  exact congrArg Host.Outcome.next (if_neg (up_or hup hl))

/-- R236, R243: what a write of LNP_TEST does. -/
theorem exec_prbsTestWrite {s : State} {l : Nat} (hup : s.held .lnk = false) (hl : l < 8) (v : W32) :
    let u := s.writePlain (A.LNP_TEST l) v
    let pat := u.fget (F.LNP_TEST_PATTERN l)
    let w := if u.fon (F.LNP_TEST_RX_CHK l) ≠ s.fon (F.LNP_TEST_RX_CHK l) ∨ s.fget (F.LNP_TEST_PATTERN l) ≠ pat then
      u.fset (F.LNP_TEST_CHK_SYNC l) 0 else u
    let g := (w.draw 31).1
    let x := if w.fon (F.LNP_TEST_TX_GEN l) = true ∧
        (¬ s.fon (F.LNP_TEST_TX_GEN l) = true ∨ s.fget (F.LNP_TEST_PATTERN l) ≠ pat) then
      { w with freeCtr := w.freeCtr + 1 }.setLane l { w.lane l with
        gen := if pat = 3 then g % 16 else g % (2 ^ (prbsTaps pat).2.2 - 1) + 1 } else w
    exec (.prbsTestWrite l v) s = .next (if bits (x.reg (A.LNP_TEST l)).toNat 3 2 = bits (s.reg (A.LNP_TEST l)).toNat 3 2 then x
      else (x.unlock l 0 false).settleLane l) := by
  intro u pat w g x
  refine congrArg Host.Outcome.next ((if_neg (up_or hup hl)).trans ?_)
  simp only [State.bit_reg]
  rfl

/-- The bits of a pattern's state (R243). -/
theorem prbsTaps_width (pat : Nat) : (prbsTaps pat).2.2 = if pat = 1 then 9 else 31 := by
  unfold prbsTaps; split
  · rfl
  · rfl

/-- R243: a generator starts at a place of its pattern. -/
theorem genStart_bounds (pat d : Nat) :
    let g := if pat = 3 then d % 16 else d % (2 ^ (prbsTaps pat).2.2 - 1) + 1
    (pat = 3 → g < 16) ∧ (pat ≠ 3 → 0 < g ∧ g < 2 ^ (if pat = 1 then 9 else 31)) := by
  refine ⟨fun h => ?_, fun h => ?_⟩
  · rw [if_pos h]; exact Nat.mod_lt _ (by decide)
  · rw [if_neg h, prbsTaps_width]
    refine ⟨Nat.succ_pos _, ?_⟩
    split
    · have := Nat.mod_lt d (show 0 < 2 ^ 9 - 1 by decide); omega
    · have := Nat.mod_lt d (show 0 < 2 ^ 31 - 1 by decide); omega

/-- Settles O31: each register by what its write does. -/
theorem laneRegistersTakeTheirWrites : Obligations.LaneRegistersTakeTheirWrites := by
  unfold Obligations.LaneRegistersTakeTheirWrites
  intro s l v hup hl field
  have hgo := up_or hup hl
  refine ⟨?_, fun hfix => ?_, fun hfree => ?_, ?_, ?_, fun seed => ?_, fun p hp => ?_⟩
  · intro pre main post ok
    refine ⟨fun hok => ?_, fun hno => ?_⟩ <;> refine congrArg Host.Outcome.next ((if_neg hgo).trans ?_)
    · exact if_neg fun h => h.elim (Nat.not_lt.mpr hok.1) (Nat.not_lt.mpr hok.2)
    · exact if_pos ((not_and_or.mp hno).imp Nat.not_le.mp Nat.not_le.mp)
  · refine congrArg Host.Outcome.next (if_neg ?_)
    rintro (h | h | h)
    exacts [State.not_held hup h, absurd hl (by omega), h hfix]
  · exact congrArg Host.Outcome.next (if_pos (.inr (.inr (by rw [hfree]; exact Bool.false_ne_true))))
  · intro u same
    have hexec := exec_laneCtrlWrite hup hl v
    have hb0 (h : v.getLsbD 8 = false) : ¬ v.getLsbD 8 = true := by rw [h]; exact Bool.false_ne_true
    refine ⟨fun hs hv hloop => hexec.trans ?_, fun hs hv => hexec.trans ?_, fun hs hv hloop => hexec.trans ?_, fun hs hv => hexec.trans ?_⟩
    · rw [if_neg (not_not.mpr hs), if_neg (hb0 hv), if_neg fun h => h.elim (hb0 hv) fun h => h hloop]
    · rw [if_neg (not_not.mpr hs), if_pos hv, if_pos (.inl hv)]
    · rw [if_neg (not_not.mpr hs), if_neg (hb0 hv), if_pos (.inr hloop)]
    · rw [if_pos hs, if_pos hv, if_pos (.inl hv)]
      cases s.fon (F.LNP_CTRL_RX_FIXED l) <;> rfl
  · intro u pat changed w starts mode ends
    have hexec := exec_prbsTestWrite hup hl v
    have hstarts : (w.fon (F.LNP_TEST_TX_GEN l) = true ∧ (¬ s.fon (F.LNP_TEST_TX_GEN l) = true ∨
        s.fget (F.LNP_TEST_PATTERN l) ≠ pat)) ↔ starts := by rw [Bool.not_eq_true]
    refine ⟨fun hno => hexec.trans ?_, fun hyes => 
      ⟨_, (genStart_bounds pat (w.draw 31).1).1, (genStart_bounds pat (w.draw 31).1).2, hexec.trans ?_⟩⟩
    · exact congrArg (fun x => Host.Outcome.next (ends x)) (if_neg (mt hstarts.mp hno))
    · exact congrArg (fun x => Host.Outcome.next (ends x)) (if_pos (hstarts.mpr hyes))
  · intro pat st syncs
    have hst : seed % 2 ^ (prbsTaps pat).2.2 = st := by rw [prbsTaps_width]
    refine ⟨fun ⟨hchk, hpat, hne⟩ => ?_, fun hno => ?_⟩
    · refine congrArg Host.Outcome.next ((if_neg ?_).trans (by rw [hst]))
      rintro (h | h | h | h | h)
      exacts [State.not_held hup h, absurd hl (by omega), h hchk, hpat.elim h.1 h.2, hne (hst.symm.trans h)]
    · refine congrArg Host.Outcome.next (if_pos (.inr (.inr ?_)))
      rw [hst]
      by_contra hx
      obtain ⟨hchk, hpat, hne⟩ := not_or.mp hx |>.imp not_not.mp not_or.mp
      exact hno ⟨hchk, by tauto, hne⟩
  · intro mode u b cut w
    refine ⟨fun hon hne => ?_, fun h => ?_⟩ <;> refine congrArg Host.Outcome.next ((if_neg (up_or hup hp)).trans ?_)
    · exact if_pos ⟨hon, hne⟩
    · exact if_neg fun ⟨hon, hne⟩ => h.elim (fun hoff => Bool.false_ne_true (hoff.symm.trans hon)) fun heq => hne heq

end Sys2Proof.Machine
end

section
/-! PROOF. Frames and sections at a Thetex port (R257 to R260, R269 to R275). -/

namespace Sys2Proof.Machine

open Sys2Proof.Arith

/-! ### Frame headers -/

/-- What a frame at a Thetex lane that is up does: it waits, or its header is taken. -/
theorem exec_thetexFrameReceived {s : State} {l : Nat} (hup : s.held .lnk = false) (hl : l < 8) (bytes : List Nat) (cycle at_ : Nat)
    (hthetex : s.thetex (l / 2) = true) (hlane : s.fon (F.LNP_STAT_LANE_UP l) = true) :
    let fr : RxFrame := { bytes := bytes, cycle := cycle, at_ := at_, stamps := s.stampsAt at_, scnt := s.scnt, sects := [] }
    exec (.thetexFrameReceived l bytes cycle at_) s = .next (
      if (s.linkLane l).read = true ∨ (s.linkLane l).waiting ≠ [] then s.queueFrame l fr else s.takeHeader l fr) := by
  refine congrArg Host.Outcome.next (if_neg ?_)
  rintro (h | h | h | h)
  exacts [State.not_held hup h, absurd hl (by omega), Bool.false_ne_true (h.symm.trans hthetex), h hlane]

/-- R255, R271: the sender of a good header is seen; another one than before ends an UP link. -/
def State.noteSender (u : State) (l : Nat) (h : FrameHdr) (was : Option Nat) : State :=
  let a := u.seeAddress l h.src
  if u.linkSt l = 2 ∧ was ≠ some h.src ∧ was.isSome = true then a.peerChanged l else a

theorem State.noteSender_eq (u : State) (l : Nat) (h : FrameHdr) (was : Option Nat) : u.noteSender l h was =
    if u.linkSt l = 2 ∧ was ≠ none ∧ was ≠ some h.src then (u.seeAddress l h.src).peerChanged l else u.seeAddress l h.src := by
  unfold State.noteSender
  refine if_congr ?_ rfl rfl
  rw [Option.isSome_iff_ne_none]
  tauto

/-- R271: the frames in a row that lane `l` has accepted from the sender of `h`. -/
def State.frameRun (v : State) (l : Nat) (h : FrameHdr) : Nat :=
  let y := v.linkLane l
  if y.src = some h.src ∧ 0 < y.frames then (if y.got then y.frames else y.frames + 1) else 1

/-- R271: lane `l` has accepted the header `h`. -/
def State.noteFrame (v : State) (l : Nat) (h : FrameHdr) : State :=
  v.setLinkLane l { v.linkLane l with
    frames := v.frameRun l h, src := some h.src, got := true, miss := 0, hdr := if v.linkSt l = 2 then some h else none }

/-- R275: port `p` takes the credit and the flags of a good header. -/
def State.notePort (w : State) (p : Nat) (h : FrameHdr) (cycle : Nat) : State :=
  let q := w.linkPort p
  let rise := decide (bit h.flags 3 = true) && !q.peerUp
  w.setLinkPort p { q with
    got := true, peerGrant := h.credit, peerUp := bit h.flags 3, consumed := if rise then 0 else q.consumed
    peerUnassigned := bit h.flags 1, rxTick := some h.tick
    offset := if decide (q.rxTick ≠ some h.tick) = true then cycle else q.offset }

theorem State.notePort_eq (w : State) (p : Nat) (h : FrameHdr) (cycle : Nat) : w.notePort p h cycle =
    let q := w.linkPort p
    w.setLinkPort p { q with
      got := true, peerGrant := h.credit, peerUp := bit h.flags 3
      consumed := if bit h.flags 3 = true ∧ q.peerUp = false then 0 else q.consumed
      peerUnassigned := bit h.flags 1, rxTick := some h.tick, offset := if q.rxTick ≠ some h.tick then cycle else q.offset } := by
  simp only [State.notePort, Bool.and_eq_true, decide_eq_true_eq, Bool.not_eq_true']

/-- R309: the skew of port `p`'s lanes, where both have read the header of one frame. -/
def State.noteSkew (z : State) (p : Nat) (first : Bool) : State :=
  let a := z.linkLane (2 * p)
  let b := z.linkLane (2 * p + 1)
  if ¬ first = true ∧ a.got = true ∧ b.got = true then
    let l := (((b.cycle : Int) - a.cycle) :: Tbl.get z.tim.skews [] p).take 256
    ({ z with tim := { z.tim with skews := Tbl.set z.tim.skews [] p l } }).setReg (A.TIM_PORT_SKEW p) (toW (meanHalfUp l))
  else z

/-- R271: the link of lane `l` comes up after eight frames of a valid, uncrossed peer. -/
def State.formLink (k : State) (l : Nat) (h : FrameHdr) (frames : Nat) : State :=
  if k.linkSt l = 1 ∧ 8 ≤ frames ∧ k.fon (F.LNP_STAT_PEER_VALID l) = true ∧ ¬ k.crossedPeer l = true then
    let up := k.setLinkSt l 2
    up.setLinkLane l { up.linkLane l with src := some h.src, got := true }
  else k

/-- R257, R270: a header that VER and HDR_CRC let through is stale or good. -/
theorem State.takeHeader_some {s : State} {l : Nat} {fr : RxFrame} {h : FrameHdr} (hparse : parseHdr fr.bytes = some h) :
    let p := l / 2
    let u := s.setLinkLane l { s.linkLane l with
      drop := false, hdr := none, nth := 0, cycle := fr.at_, stamps := fr.stamps, read := true }
    let v := u.noteSender l h (s.linkLane l).src
    let w := v.noteFrame l h
    s.takeHeader l fr =
      if ¬ s.interDistrict p = true ∧ (sdiff fr.scnt h.tick < 0 ∨ 15 < sdiff fr.scnt h.tick) then
        u.linkCount (A.LNK_PORT_STALE p) 1
      else ((w.notePort p h fr.cycle).noteSkew p (decide ((w.linkPort p).rxTick ≠ some h.tick))).formLink l h (v.frameRun l h) := by
  intro p u v w
  rw [State.takeHeader, hparse]
  rfl

/-- R257, R270: a header that fails VER or HDR_CRC counts once both lanes' have failed. -/
theorem State.takeHeader_none {s : State} {l : Nat} {fr : RxFrame} (hparse : parseHdr fr.bytes = none) :
    let p := l / 2
    let u := s.setLinkLane l { s.linkLane l with
      drop := false, hdr := none, nth := 0, cycle := fr.at_, stamps := fr.stamps, read := true }
    let e := u.laneError l 1
    let m := (e.linkPort p).badHdr ||| 2 ^ (l % 2)
    let v := e.setLinkPort p { e.linkPort p with badHdr := m }
    s.takeHeader l fr = if m = 3 then v.linkCount (A.LNK_PORT_HDR_CRC p) 1 else v := by
  intro p u e m v
  rw [State.takeHeader, hparse]

/-! ### Section copies -/

/-- R259, R272: a copy of state `st` that is stomped or bad, in a frame with header `h`. -/
def State.badCopy (s : State) (l st : Nat) (h : FrameHdr) : State :=
  let p := l / 2
  let x := s.linkLane l
  let q := s.linkPort p
  let b := (s.linkCount (if st = 1 then A.LNK_PORT_STOMPED p else A.LNK_PORT_SECT_CRC p) 1).setLinkLane l
    { x with drop := true, nth := x.nth + 1 }
  let y := b.linkLane (2 * p + (1 - l % 2))
  let has := decide (y.hdr.map (·.tick) = some h.tick) && decide (x.nth < y.nth)
  (if has = true then b
    else b.setLinkPort p { q with await := (q.await ++ [(h.tick, l % 2, x.nth)]).drop (q.await.length + 1 - 8) }).laneError l 0

/-- R269: a first good copy of a section is noted at port `p` as used. -/
def State.noteUsed (u : State) (p : Nat) (q : LinkPort) (path tick : Nat) (c : Sect) (bytes : List Nat) : State :=
  u.setLinkPort p { q with used := (q.used.filter (fun k => decide (sdiff tick k.tick < 16))) ++ [⟨tick, path, c, bytes, false⟩] }

/-- R260: how far a SEQ lies ahead of the one that is due. -/
def seqDistance (due : Option Nat) (seq : Nat) : Int :=
  match due with
  | none => 0
  | some e => sdiffN 16 seq e

theorem seqDistance_eq (due : Option Nat) (seq : Nat) : seqDistance due seq = due.elim 0 (fun e => sdiffN 16 seq e) := by
  cases due <;> rfl

/-- The flow of a section: its TYPE, ORIGIN and STREAM (R260). -/
def Sect.flow (c : Sect) : Nat := c.type * 2 ^ 24 + c.origin * 2 ^ 8 + c.stream

/-- R260, R272: the first good copy of a section whose SEQ lies `d` ahead of the one that is due. -/
def State.firstCopy (v : State) (p path tick : Nat) (stamps : Stamps) (c : Sect) (d : Int) (late : Bool) : State :=
  if isoType c.type = false ∧ d < 0 then v
  else
    let gap := decide (isoType c.type = false) && decide (0 < d)
    let w := if gap = true then v.linkCount (A.LNK_PORT_SEQ_GAP p) 1 else v
    (if isoType c.type = true then w else w.setLinkPort p { w.linkPort p with
        seqs := Tbl.set (w.linkPort p).seqs none c.flow (some ((c.seq + 1) % 65536)) }).dispatchSect
      ⟨p, path, tick, stamps, gap, c⟩ late

theorem State.firstCopy_iso {v : State} {p path tick : Nat} {stamps : Stamps} {c : Sect} {d : Int} {late : Bool}
    (hiso : isoType c.type = true) :
    v.firstCopy p path tick stamps c d late = v.dispatchSect ⟨p, path, tick, stamps, false, c⟩ late := by
  simp only [State.firstCopy, hiso, Bool.true_eq_false, false_and, if_false, decide_false, Bool.false_and, Bool.false_eq_true, if_true]

theorem State.firstCopy_old {v : State} {p path tick : Nat} {stamps : Stamps} {c : Sect} {d : Int} {late : Bool}
    (hiso : isoType c.type = false) (hd : d < 0) : v.firstCopy p path tick stamps c d late = v :=
  if_pos ⟨hiso, hd⟩

theorem State.firstCopy_next {v : State} {p path tick : Nat} {stamps : Stamps} {c : Sect} {d : Int} {late : Bool}
    (hiso : isoType c.type = false) (hd : 0 ≤ d) :
    let w := if 0 < d then v.linkCount (A.LNK_PORT_SEQ_GAP p) 1 else v
    v.firstCopy p path tick stamps c d late = (w.setLinkPort p { w.linkPort p with
        seqs := Tbl.set (w.linkPort p).seqs none c.flow (some ((c.seq + 1) % 65536)) }).dispatchSect
      ⟨p, path, tick, stamps, decide (0 < d), c⟩ late := by
  simp only [State.firstCopy, hiso, Int.not_lt.mpr hd, and_false, if_false, decide_true, Bool.true_and, decide_eq_true_eq,
    Bool.false_eq_true]

/-- R269: a good copy of section `c` at port `p`, on path `path` of lane `lane`, where `found` is the copy from the other path that was used. -/
def State.useCopy (u : State) (p : Nat) (q : LinkPort) (path tick : Nat) (stamps : Stamps) (c : Sect) (bytes : List Nat) (late : Bool)
    (lane : Nat) (found : Option UsedCopy) : State :=
  match found with
  | some k =>
    let t := u.setLinkPort p { q with used := (q.used.erase k) ++ [{ k with seen := true }] }
    if k.bytes ≠ bytes then (t.linkCount (A.LNK_PORT_AB_MISMATCH p) 1).laneError lane 2 else t
  | none => (u.noteUsed p q path tick c bytes).firstCopy p path tick stamps c (seqDistance (Tbl.get q.seqs none c.flow) c.seq) late

/-- R260, R269, R272: an intact copy: malformed, PAD, the other path's copy of a section, or a first copy. -/
def State.goodCopy (s : State) (l : Nat) (bytes : List Nat) (h : FrameHdr) : State :=
  let p := l / 2
  let x := s.linkLane l
  let c := parseSect bytes
  let late := (s.linkPort p).cut.contains (h.tick, x.nth)
  let u := if c.type = 0 then s else s.setLinkLane l { x with nth := x.nth + 1 }
  let q := { s.linkPort p with
    await := (s.linkPort p).await.filter (fun a => !(decide (a.1 = h.tick) && decide (a.2.2 = x.nth))) }
  if 8 ≤ c.type ∨ ¬ dmodeOk c.type c.dmode = true ∨ (isoType c.type = true ∧ c.seq ≠ h.tick % 65536) then
    u.linkCount (A.LNK_PORT_SECT_CRC p) 1
  else if c.type = 0 then u
  else u.useCopy p q (l % 2) h.tick x.stamps c bytes late l
    (q.used.find? (fun k => sameCopy h.tick c k && decide (k.path ≠ l % 2) && !k.seen))

/-- A copy belongs to the open frame of its lane, where one is open (R258). -/
theorem State.takeSection_eq (s : State) (l : Nat) (bytes : List Nat) (errored : Bool) : s.takeSection l bytes errored =
    match (s.linkLane l).hdr with
    | none => s
    | some h => if (s.linkLane l).drop = true ∨ s.linkSt l ≠ 2 then s
      else if copyState bytes errored ≠ 0 then s.badCopy l (copyState bytes errored) h else s.goodCopy l bytes h := by
  unfold State.takeSection
  rfl

theorem State.takeSection_some {s : State} {l : Nat} {bytes : List Nat} {errored : Bool} {h : FrameHdr}
    (hhdr : (s.linkLane l).hdr = some h) : s.takeSection l bytes errored =
      if (s.linkLane l).drop = true ∨ s.linkSt l ≠ 2 then s
      else if copyState bytes errored ≠ 0 then s.badCopy l (copyState bytes errored) h else s.goodCopy l bytes h := by
  rw [State.takeSection_eq, hhdr]

end Sys2Proof.Machine
end

section
/-! PROOF. What a Thetex port takes (R255 to R260, R269 to R273, R342). -/

namespace Sys2Proof.Machine

open Sys2Proof.Arith

/-- R27, R270: a frame that finds a lane's queue in use waits there. -/
theorem State.queueFrame_eq (s : State) (l : Nat) (fr : RxFrame) :
    let x := s.linkLane l
    let v := s.setLinkLane l { x with waiting := (if 3 ≤ x.waiting.length then x.waiting.drop 1 else x.waiting) ++ [fr] }
    s.queueFrame l fr =
      if 3 ≤ x.waiting.length ∧ s.interDistrict (l / 2) = false then v.linkCount (A.LNK_PORT_RXQ_OVER (l / 2)) 1 else v := by
  intro x v
  refine if_congr ?_ rfl rfl
  rw [Bool.not_eq_true]
  exact Iff.rfl

/-- R258 to R260: a section copy belongs to the youngest frame that waits, or else to the open one. -/
theorem exec_sectionReceived {s : State} {l : Nat} (hup : s.held .lnk = false) (hl : l < 8) (bytes : List Nat) (errored : Bool) :
    exec (.sectionReceived l bytes errored) s = .next (
      match (s.linkLane l).waiting.getLast? with
      | some f => s.setLinkLane l { s.linkLane l with
          waiting := (s.linkLane l).waiting.dropLast ++ [{ f with sects := f.sects ++ [(bytes, errored)] }] }
      | none => s.takeSection l bytes errored) :=
  congrArg Host.Outcome.next (if_neg (up_or hup hl))

theorem exec_sectionReceived_open {s : State} {l : Nat} (hup : s.held .lnk = false) (hl : l < 8) (bytes : List Nat) (errored : Bool)
    (hnone : (s.linkLane l).waiting = []) : exec (.sectionReceived l bytes errored) s = .next (s.takeSection l bytes errored) := by
  rw [exec_sectionReceived hup hl, hnone]
  rfl

/-- Settles O32: a frame by whether the queue is in use and by its header; a copy by its CRC and by what was used before. -/
theorem thetexFramesAndSectionsAreTaken : Obligations.ThetexFramesAndSectionsAreTaken := by
  unfold Obligations.ThetexFramesAndSectionsAreTaken
  intro s l bytes hup hl p x q
  have hp : p < 4 := by omega
  refine ⟨fun cycle at_ hthetex hlane => ?_, fun errored => ?_, fun u path k rest hawait => ?_, fun hawait => ?_⟩
  · intro o fr inter
    have hexec := exec_thetexFrameReceived hup hl bytes cycle at_ hthetex hlane
    refine ⟨fun hbusy => ?_, fun hread hwait => ?_⟩
    · exact hexec.trans (congrArg Host.Outcome.next ((if_pos hbusy).trans (State.queueFrame_eq s l fr)))
    · intro u
      have hidle : ¬ (x.read = true ∨ x.waiting ≠ []) := fun h => h.elim (fun h => Bool.false_ne_true (hread.symm.trans h)) fun h => h hwait
      have hhdr : o = .next (s.takeHeader l fr) := hexec.trans (congrArg Host.Outcome.next (if_neg hidle))
      refine ⟨fun hnone => ?_, fun h hsome hinter hage => ?_, fun h hsome hage => ?_⟩
      · exact hhdr.trans (congrArg Host.Outcome.next (State.takeHeader_none hnone))
      · exact hhdr.trans (congrArg Host.Outcome.next ((State.takeHeader_some hsome).trans 
          (if_pos ⟨fun hx => Bool.false_ne_true (hinter.symm.trans hx), hage⟩)))
      · intro a v y frames w r first z la lb skews k up forms
        have hfresh : ¬ (¬ s.interDistrict p = true ∧ (sdiff s.scnt h.tick < 0 ∨ 15 < sdiff s.scnt h.tick)) := by
          rintro ⟨hi, hold⟩
          rcases hage with hi' | ⟨h0, h15⟩
          · exact hi hi'
          · omega
        refine hhdr.trans (congrArg Host.Outcome.next ((State.takeHeader_some hsome).trans ((if_neg hfresh).trans ?_)))
        have hv : u.noteSender l h x.src = v := State.noteSender_eq u l h x.src
        have hz : (v.noteFrame l h).notePort p h cycle = z := State.notePort_eq _ p h cycle
        have hk : z.noteSkew p (decide first) = k := by
          refine if_congr ?_ rfl rfl
          rw [decide_eq_true_eq]
        show ((((u.noteSender l h x.src).noteFrame l h).notePort p h cycle).noteSkew p
          (decide ((((u.noteSender l h x.src).noteFrame l h).linkPort p).rxTick ≠ some h.tick))).formLink l h
            ((u.noteSender l h x.src).frameRun l h) = _
        rw [hv, hz]
        show (z.noteSkew p (decide first)).formLink l h frames = _
        rw [hk]
        refine if_congr ?_ rfl rfl
        rw [Bool.not_eq_true]
  · intro o
    refine ⟨fun pre f hwait => ?_, fun hwait hclosed => ?_, fun h hwait hst hhdr hdrop => ?_⟩
    · refine (exec_sectionReceived hup hl bytes errored).trans (congrArg Host.Outcome.next ?_)
      rw [show (s.linkLane l).waiting = pre ++ [f] from hwait, List.getLast?_concat, List.dropLast_concat]
    · refine (exec_sectionReceived_open hup hl bytes errored hwait).trans (congrArg Host.Outcome.next ?_)
      cases hh : x.hdr with
      | none => rw [State.takeSection_eq, show (s.linkLane l).hdr = none from hh]
      | some h =>
        refine (State.takeSection_some hh).trans (if_pos ?_)
        exact (hclosed.resolve_left (by simp [hh])).imp id id
    · intro c st formed u late q' other used v taken
      have htake : o = .next (if st ≠ 0 then s.badCopy l st h else s.goodCopy l bytes h) := by
        refine (exec_sectionReceived_open hup hl bytes errored hwait).trans (congrArg Host.Outcome.next ?_)
        refine (State.takeSection_some hhdr).trans (if_neg ?_)
        rintro (hx | hx)
        exacts [Bool.false_ne_true (hdrop.symm.trans hx), hx hst]
      have hgood (h0 : st = 0) : o = .next (s.goodCopy l bytes h) := htake.trans (congrArg Host.Outcome.next (if_neg (not_not.mpr h0)))
      have hformed (hf : formed) : ¬ (8 ≤ c.type ∨ ¬ dmodeOk c.type c.dmode = true ∨ (isoType c.type = true ∧ c.seq ≠ h.tick % 65536)) := by
        obtain ⟨h8, hmode, hseq⟩ := hf
        rintro (hx | hx | ⟨hiso, hne⟩)
        exacts [Nat.not_le.mpr h8 hx, hx hmode, hne (hseq hiso)]
      have hgood_use (h0 : st = 0) (hf : formed) (ht : c.type ≠ 0) :
          o = .next (u.useCopy p q' (l % 2) h.tick x.stamps c bytes late l (q'.used.find? other)) := by
        refine (hgood h0).trans (congrArg Host.Outcome.next ?_)
        exact (if_neg (hformed hf)).trans (if_neg ht)
      refine ⟨fun hbad => ?_, fun h0 hno => ?_, fun h0 hf ht => ?_, fun k h0 hf ht hfind => ?_, fun h0 hf ht hfind hiso => ?_,
        fun h0 hf ht hfind hiso => ?_⟩
      · refine htake.trans (congrArg Host.Outcome.next ((if_pos hbad).trans ?_))
        refine congrArg (fun t : State => t.laneError l 0) (if_congr ?_ rfl rfl)
        rw [Bool.and_eq_true, decide_eq_true_eq, decide_eq_true_eq]
      · refine (hgood h0).trans (congrArg Host.Outcome.next (if_pos ?_))
        by_contra hx
        obtain ⟨h8, hx⟩ := not_or.mp hx
        obtain ⟨hmode, hx⟩ := not_or.mp hx
        exact hno ⟨Nat.not_le.mp h8, not_not.mp hmode, fun hiso => by_contra fun hne => hx ⟨hiso, hne⟩⟩
      · refine (hgood h0).trans (congrArg Host.Outcome.next ?_)
        refine (if_neg (hformed hf)).trans ?_
        exact (if_pos ht).trans (if_pos ht)
      · have huse := hgood_use h0 hf ht
        rw [hfind] at huse
        exact huse.trans (congrArg Host.Outcome.next (ite_not _ _ _))
      · have huse := hgood_use h0 hf ht
        rw [hfind] at huse
        exact huse.trans (congrArg Host.Outcome.next (State.firstCopy_iso hiso))
      · intro key d w z
        have huse := hgood_use h0 hf ht
        rw [hfind] at huse
        have hd : seqDistance (Tbl.get q'.seqs none c.flow) c.seq = d := seqDistance_eq _ _
        have hfirst : o = .next (v.firstCopy p (l % 2) h.tick x.stamps c d late) := by
          rw [← hd]
          exact huse
        exact ⟨fun hneg => hfirst.trans (congrArg Host.Outcome.next (State.firstCopy_old hiso hneg)),
          fun hpos => hfirst.trans (congrArg Host.Outcome.next (State.firstCopy_next hiso hpos))⟩
  · refine congrArg Host.Outcome.next ?_
    simp only [show (s.linkPort p).await = _ from hawait]
    exact if_neg (up_or hup hp)
  · refine congrArg Host.Outcome.next ?_
    simp only [show (s.linkPort p).await = _ from hawait]

end Sys2Proof.Machine
end

section
/-! PROOF. What a Thetex port sends, the time exchange and the link registers (R253, R262, R271 to R276, R287, R310, R342). -/

namespace Sys2Proof.Machine

open Sys2Proof.Arith

/-! ### Sending -/

/-- Settles O33: each launch by the direction, the chain origin and the tick; a BULK section by its credit. -/
theorem thetexPortsSendOneFrameATick : Obligations.ThetexPortsSendOneFrameATick := by
  unfold Obligations.ThetexPortsSendOneFrameATick
  intro s p hp x now
  have hgo (hs : s.sendsFrames p = true) : ¬ (4 ≤ p ∨ ¬ s.sendsFrames p = true) := fun h => h.elim (by omega) fun h => h hs
  have hsend (hs : s.sendsFrames p = true) (hl : x.lastTick ≠ some now) :
      ¬ (4 ≤ p ∨ ¬ s.sendsFrames p = true ∨ (s.linkPort p).lastTick = some s.scnt) := by
    rintro (h | h | h)
    exacts [absurd hp (by omega), h hs, hl h]
  refine ⟨fun hno => ?_, fun hl => ?_, fun hs hl hdir => ?_, fun east hs hl hdir => ⟨fun horg => ?_, fun horg => ?_⟩,
    fun east up u hs hdir hup hrx => ⟨fun horg hl => ?_, fun h => ?_⟩, fun east up hs hdir hup => ?_, fun b rest hb hheld hup hpeer => ?_⟩
  · have hoff : ¬ s.sendsFrames p = true := by rw [hno]; exact Bool.false_ne_true
    simp only [List.forall_mem_cons]
    exact ⟨congrArg Host.Outcome.next (if_pos (.inr (.inl hoff))), congrArg Host.Outcome.next (if_pos (.inr hoff)),
      congrArg Host.Outcome.next (if_pos (.inr hoff)), fun i hi => absurd hi List.not_mem_nil⟩
  · exact congrArg Host.Outcome.next (if_pos (.inr (.inr hl)))
  · refine congrArg Host.Outcome.next ((if_neg (hsend hs hl)).trans ?_)
    rw [hdir]
  · refine congrArg Host.Outcome.next ((if_neg (hsend hs hl)).trans ?_)
    rw [hdir]
    exact if_neg (not_not.mpr horg)
  · refine congrArg Host.Outcome.next ((if_neg (hsend hs hl)).trans ?_)
    rw [hdir]
    exact if_pos (by rw [horg]; exact Bool.false_ne_true)
  · refine congrArg Host.Outcome.next ((if_neg (hgo hs)).trans ?_)
    simp only [hdir, hup, hrx]
    exact if_neg fun h => h.elim (fun h => Bool.false_ne_true (horg.symm.trans h)) hl
  · refine congrArg Host.Outcome.next ((if_neg (hgo hs)).trans ?_)
    simp only [hdir, hup, hrx]
    exact if_pos h
  · intro u due
    have hexec : exec (.relayFrameTimeout p) s = .next (
        if s.chainOrigin east u = true ∨ (s.linkPort up).rxTick = some u ∨ 0 < sdiff u s.scnt then s
        else s.buildFrame p u ((s.linkPort up).offset + 1536) [] true false) := by
      refine congrArg Host.Outcome.next ((if_neg (hgo hs)).trans ?_)
      simp only [hdir, hup] <;> rfl
    have hdue : ¬ (s.chainOrigin east u = true ∨ (s.linkPort up).rxTick = some u ∨ 0 < sdiff u s.scnt) ↔ due := by
      rw [not_or, not_or, Bool.not_eq_true, Int.not_lt]
    exact ⟨fun h => hexec.trans (congrArg Host.Outcome.next (if_neg (hdue.mpr h))),
      fun h => hexec.trans (congrArg Host.Outcome.next (if_pos (not_not.mp (mt hdue.mp h))))⟩
  · intro credit u
    have hexec : exec (.bulkSectionSend p) s = .next (
        if s.held .lnk = true ∨ 4 ≤ p ∨ ¬ s.portUp p = true ∨ x.peerUp = false ∨ credit < credits b.sect then s
        else match b.buf with
          | none => u.setLinkPort p { u.linkPort p with own := (u.linkPort p).own ++ [b.sect] }
          | some o => (u.relayNext p b.sect).freeCredits o b.sect) := by
      refine congrArg Host.Outcome.next ?_
      simp only [show (s.linkPort p).bulk = _ from hb] <;> rfl
    refine ⟨fun hlow => hexec.trans (congrArg Host.Outcome.next (if_pos (.inr (.inr (.inr (.inr hlow)))))),
      fun hok => hexec.trans (congrArg Host.Outcome.next (if_neg ?_))⟩
    rintro (h | h | h | h | h)
    exacts [State.not_held hheld h, absurd hp (by omega), h hup, Bool.false_ne_true (h.symm.trans hpeer), Nat.not_lt.mpr hok h]

/-! ### The time exchange -/

/-- R310: what the oldest response does at the timescale that it names. -/
theorem exec_timeResponseReceived {s u : State} {t : Taken} {t1 tick : Nat}
    (htake : s.takeFirst (fun t => decide (t.sect.type = 5) && decide (leNat (t.sect.payload.take 4) % 2 = 1)) = some (t, u))
    (hsent : (u.tsc t.sect.stream).sent = some (t1, tick)) :
    let n := t.sect.stream
    let pl := t.sect.payload
    let t2 : Int := timeOf (pl.drop 16)
    let t3 : Int := timeOf (pl.drop 28)
    let corr := (BitVec.ofNat 64 (leNat ((pl.drop 40).take 8))).toInt
    let t4 := u.rxStamp t n
    let trip := (t4 - t1) - (t3 - t2)
    let m := divHalfUp ((t2 - t1) - (t4 - t3)) 2 + corr
    let w := (BitVec.ofInt 64 m).toNat
    let v := (u.setReg (A.TIM_TS_MOFS_LO n) (BitVec.ofNat 32 w)).setReg (A.TIM_TS_MOFS_HI n) (BitVec.ofNat 32 (w / 2 ^ 32))
    let z := (v.setReg (A.TIM_TS_MDLY n) (BitVec.ofNat 32 (min (divHalfUp trip 2).toNat (2 ^ 32 - 1)))).setReg
      (A.TIM_TS_MTICK n) (v.reg A.TIM_SCNT)
    exec .timeResponseReceived s = .next (
      if s.held .clk = true ∨ 2 ≤ n ∨ u.tsSource n ≠ 1 ∨ u.fget (F.TIM_TS_CTRL_UPORT n) ≠ t.port ∨
          timeOf (pl.drop 4) ≠ t1 / 2 ^ 16 * 2 ^ 16 ∨ tick + 8 < u.eng.tick ∨ divHalfUp trip 2 < 0 then u
      else ((z.setTsc n { z.tsc n with sent := none, last := some z.eng.tick }).measured n).fwServo n m) := by
  show execTimeResponseReceived s = _
  simp only [execTimeResponseReceived, htake, hsent]

/-- Settles O34: requests and responses by the oldest one that is held and by its tests. -/
theorem timeRequestsAndResponsesMeasureATimescale : Obligations.TimeRequestsAndResponsesMeasureATimescale := by
  unfold Obligations.TimeRequestsAndResponsesMeasureATimescale
  intro s n hup hn
  refine ⟨fun hlnk hsrc hdue => ?_, fun hno => ?_, ?_⟩
  · refine congrArg Host.Outcome.next (if_neg ?_)
    rintro (h | h | h | h | h)
    exacts [State.not_held hup h, State.not_held hlnk h, absurd hn (by omega), h hsrc, Nat.not_lt.mpr hdue h]
  · exact congrArg Host.Outcome.next (if_pos (.inr (.inr (.inr hno))))
  · intro kind
    refine ⟨fun hnone => ?_, fun hnone => ?_, fun t u htake hstream hserves => ?_, fun t u t1 tick htake hstream hsent => ?_⟩
    · show execTimeRequestReceived s = _
      rw [execTimeRequestReceived, show s.takeFirst _ = none from hnone]
    · show execTimeResponseReceived s = _
      rw [execTimeResponseReceived, show s.takeFirst _ = none from hnone]
    · subst hstream
      show execTimeRequestReceived s = _
      rw [execTimeRequestReceived, show s.takeFirst _ = some (t, u) from htake]
      refine congrArg Host.Outcome.next (if_neg ?_)
      rintro (h | h | h)
      exacts [State.not_held hup h, absurd hn (by omega), h hserves]
    · subst hstream
      intro pl t2 t3 corr t4 trip hsrc hport hmatch hsoon hpos m w v z
      refine (exec_timeResponseReceived htake hsent).trans (congrArg Host.Outcome.next (if_neg ?_))
      rintro (h | h | h | h | h | h | h)
      exacts [State.not_held hup h, absurd hn (by omega), h hsrc, h hport, h hmatch, Nat.not_lt.mpr hsoon h, Int.not_lt.mpr hpos h]

/-! ### The link registers -/

/-- R253: a role that two of the four ports have. -/
theorem two_of_four {role : Nat → Nat} {r : Nat} :
    1 < ((List.range 4).filter (fun p => decide (role p = r))).length ↔ ∃ i < 4, ∃ j < 4, i ≠ j ∧ role i = r ∧ role j = r := by
  have hcard : ((List.range 4).filter (fun p => decide (role p = r))).length = ((Finset.range 4).filter (fun p => role p = r)).card := rfl
  rw [hcard, Finset.one_lt_card]
  simp only [Finset.mem_filter, Finset.mem_range]
  constructor
  · rintro ⟨i, ⟨hi, hri⟩, j, ⟨hj, hrj⟩, hne⟩
    exact ⟨i, hi, j, hj, hne, hri, hrj⟩
  · rintro ⟨i, hi, j, hj, hne, hri, hrj⟩
    exact ⟨i, ⟨hi, hri⟩, j, ⟨hj, hrj⟩, hne⟩

/-- R253: the role that a word gives port `p`. -/
theorem bits_role (v : W32) (p : Nat) : bits v.toNat (2 * p + 1) (2 * p) = v.toNat / 4 ^ p % 4 := by
  rw [bits, show 2 * p + 1 + 1 - 2 * p = 2 by omega, pow_mul]
  rfl

/-- R287: what a write of a Thetex stream entry does. -/
theorem exec_laneStreamEntryWrite {s : State} (hup : s.held .lnk = false) {p m k : Nat} (hp : p < 4) (hm : m < 256) (hk : k < 4)
    (tx : Bool) (v : W32) :
    let off := (if tx then A.LNK_TX_W0 p m else A.LNK_RX_W0 p m) + 4 * k
    let reject := s.fset (if tx then F.LNK_TX_W2_CFG_REJ p m else F.LNK_RX_W3_CFG_REJ p m) 1
    let rw := match regDef off with | some r => r.mask (fun a => decide (a = .rw)) | none => 0
    exec (.laneStreamEntryWrite tx p m k v) s = .next (
      if 2 ≤ k then s.writePlain off v
      else if s.fon (if tx then F.LNK_TX_W0_EN p m else F.LNK_RX_W0_EN p m) = true then
        if k = 0 ∧ ((s.reg off).toNat &&& rw) / 2 = (v.toNat &&& rw) / 2 ∧ ¬ v.getLsbD 0 = true then s.writePlain off v else reject
      else if breaksBinding s (s.writePlain off v) = true then reject else s.writePlain off v) := by
  have hdiv : (256 * p + m) / 256 = p := by omega
  have hmod : (256 * p + m) % 256 = m := by omega
  show execLaneStreamEntryWrite tx p m k v s = _
  simp only [execLaneStreamEntryWrite, hdiv, hmod, bit_toNat]
  refine congrArg Host.Outcome.next (if_neg ?_)
  rintro (h | h | h | h)
  exacts [State.not_held hup h, absurd hp (by omega), absurd hm (by omega), absurd hk (by omega)]

/-- Settles O35: a stream entry by its word and EN, PORTMAP by its roles, the losses by their tests. -/
theorem linkRegistersAndLossesFollowTheirRules : Obligations.LinkRegistersAndLossesFollowTheirRules := by
  unfold Obligations.LinkRegistersAndLossesFollowTheirRules
  refine ⟨fun s p m k v hup hp hm hk => ?_, fun s l hup hl => ?_⟩
  · intro off en rejected
    have hexec (tx : Bool) := exec_laneStreamEntryWrite hup hp hm hk tx v
    have hnot := State.not_held hup
    refine ⟨fun tx h2 => ?_, fun tx h2 hoff => ?_, fun tx h1 hon => ?_, fun tx d h0 hon hd => ?_, ?_, ?_, ?_, ?_⟩
    · exact (hexec tx).trans (congrArg Host.Outcome.next (if_pos h2))
    · intro t
      have hfree : ¬ en tx = true := by rw [hoff]; exact Bool.false_ne_true
      refine ⟨fun hb => (hexec tx).trans ?_, fun hb => (hexec tx).trans ?_⟩ <;>
        refine congrArg Host.Outcome.next ((if_neg (Nat.not_le.mpr h2)).trans ((if_neg hfree).trans ?_))
      · exact if_neg fun h => Bool.false_ne_true (hb.symm.trans h)
      · exact if_pos hb
    · refine (hexec tx).trans (congrArg Host.Outcome.next ((if_neg (by omega)).trans ((if_pos hon).trans (if_neg fun h => ?_))))
      exact absurd h.1 (by omega)
    · intro rw same
      have hrw : (match regDef (off tx) with | some r => r.mask (fun a => decide (a = .rw)) | none => 0) = rw := by rw [hd]
      have hword := (hexec tx).trans (congrArg Host.Outcome.next ((if_neg (by omega)).trans (if_pos hon)))
      rw [hrw] at hword
      refine ⟨fun hs hb => hword.trans ?_, fun h => hword.trans ?_⟩ <;> refine congrArg Host.Outcome.next ?_
      · exact if_pos ⟨h0, hs, fun hx => Bool.false_ne_true (hb.symm.trans hx)⟩
      · exact if_neg fun ⟨_, hs, hb⟩ => h.elim (fun hne => hne hs) fun hx => hb hx
    · refine congrArg Host.Outcome.next (if_neg ?_)
      rintro (h | h | h)
      exacts [hnot h, absurd hp (by omega), absurd hm (by omega)]
    · exact congrArg Host.Outcome.next (if_neg (up_or hup hk))
    · exact congrArg Host.Outcome.next (if_neg hnot)
    · intro role
      have hmany (r : Nat) : 1 < ((List.range 4).filter (fun p => decide (bits v.toNat (2 * p + 1) (2 * p) = r))).length ↔
          ∃ i < 4, ∃ j < 4, i ≠ j ∧ role i = r ∧ role j = r := by
        rw [two_of_four]; simp only [bits_role]; rfl
      refine ⟨fun ⟨i, hi, j, hj, hne, heq, hr⟩ => ?_, fun hdistinct => ?_⟩
      · refine congrArg Host.Outcome.next (if_pos (.inr (hr.imp (fun h => ?_) fun h => ?_)))
        · exact (hmany 1).mpr ⟨i, hi, j, hj, hne, h, heq.symm.trans h⟩
        · exact (hmany 2).mpr ⟨i, hi, j, hj, hne, h, heq.symm.trans h⟩
      · refine congrArg Host.Outcome.next (if_neg ?_)
        rintro (h | h | h)
        · exact hnot h
        · obtain ⟨i, hi, j, hj, hne, h1, h2⟩ := (hmany 1).mp h
          exact hdistinct i hi j hj hne (.inl h1) (h1.trans h2.symm)
        · obtain ⟨i, hi, j, hj, hne, h1, h2⟩ := (hmany 2).mp h
          exact hdistinct i hi j hj hne (.inr h1) (h1.trans h2.symm)
  · intro x
    refine ⟨fun hst hmiss => ?_, fun h => ?_, fun hg => ?_, fun hg => ?_⟩
    · refine congrArg Host.Outcome.next (if_neg ?_)
      rintro (h | h | h | h)
      exacts [State.not_held hup h, absurd hl (by omega), h hst, Nat.not_lt.mpr hmiss h]
    · exact congrArg Host.Outcome.next (if_pos (.inr (.inr h)))
    · exact congrArg Host.Outcome.next (if_pos (.inr (.inr (fun h => Bool.false_ne_true (hg.symm.trans h)))))
    · intro u
      have hexec : exec (.laneErrorsSummary l) s = .next (if x.errs.all (fun e => decide (e = 0)) = true then u
          else u.record 0x504 l x.errs) := by
        refine congrArg Host.Outcome.next (if_neg ?_)
        rintro (h | h | h)
        exacts [State.not_held hup h, absurd hl (by omega), h hg]
      have hall : x.errs.all (fun e => decide (e = 0)) = true ↔ ∀ e ∈ x.errs, e = 0 := by
        simp only [List.all_eq_true, decide_eq_true_eq]
      refine ⟨fun h => hexec.trans (congrArg Host.Outcome.next (if_pos (hall.mpr h))),
        fun ⟨e, he, hne⟩ => hexec.trans (congrArg Host.Outcome.next (if_neg fun h => hne (hall.mp h e he)))⟩

end Sys2Proof.Machine
end

section
/-! PROOF. Register accesses and their replies; Stall locks and the owners of Stalls (R7, R8, R353, R354, R357 to R360, R381,
R418). -/

namespace Sys2Proof.Machine

open Sys2Proof.Arith

/-! ### What an access finds -/

theorem accessKind_ill {a : BusAccess} (h : a.size ≠ 4 ∨ a.off % 4 ≠ 0) : accessKind a = 2 := if_pos h

theorem accessKind_bar0 {a : BusAccess} (hs : a.size = 4) (ho : a.off % 4 = 0) (hb : a.off < 0x1000000) :
    accessKind a = if allocated a.off then 0 else 3 :=
  (if_neg fun h => h.elim (fun h => h hs) (fun h => h ho)).trans (if_pos hb)

theorem accessKind_bar2 {a : BusAccess} (hs : a.size = 4) (ho : a.off % 4 = 0) (hb : 0x1000000 ≤ a.off)
    (ht : a.off < 0x1004000) (hm : a.master = 13) : accessKind a = 1 :=
  (if_neg fun h => h.elim (fun h => h hs) (fun h => h ho)).trans ((if_neg (Nat.not_lt.mpr hb)).trans (if_pos ⟨ht, hm⟩))

/-- What a write does, for each kind of place that it finds. -/
theorem State.busWrite_cases (s : State) (a : BusAccess) (v : W32) :
    (accessKind a = 0 → s.busWrite a v =
      if s.busRefused a then (s.yardErr a.master a.queue 1 2 (0x10000000 + a.off)).abort
      else { (s.writeReg (masterRid a.master) a.off v) with reply := {} }) ∧
    (accessKind a = 1 → s.busWrite a v = { (s.writeBar2 (a.off - bar2) v) with reply := {} }) ∧
    (accessKind a = 2 → s.busWrite a v = s.abort) ∧
    (accessKind a = 3 → s.busWrite a v = (s.yardErr a.master a.queue 1 0 (0x10000000 + a.off)).abort) := by
  refine ⟨fun h => ?_, fun h => ?_, fun h => ?_, fun h => ?_⟩ <;> simp only [State.busWrite, h]

/-- What a read does, for each kind of place that it finds. -/
theorem State.busRead_cases (s : State) (a : BusAccess) :
    (accessKind a = 0 → s.busRead a =
      if s.busRefused a then (s.yardErr a.master a.queue 0 2 (0x10000000 + a.off)).abort
      else
        let r := s.readReg a.master (masterRid a.master) a.off
        { r.2 with reply := { abort := false, data := r.1 } }) ∧
    (accessKind a = 1 → s.busRead a = { s with reply := { abort := false, data := s.readBar2 (a.off - bar2) } }) ∧
    (accessKind a = 2 → s.busRead a = s.abort) ∧
    (accessKind a = 3 → s.busRead a = (s.yardErr a.master a.queue 0 0 (0x10000000 + a.off)).abort) := by
  refine ⟨fun h => ?_, fun h => ?_, fun h => ?_, fun h => ?_⟩ <;> simp only [State.busRead, h]

/-- READ_CLEAR and SNAPSHOT_READ are both the read of the register. -/
theorem exec_reads {a : BusAccess} {s : State} {o : Out} (h : Host.Outcome.next (s.busRead a) = o) :
    ∀ i ∈ [Instr.readClear a, .snapshotRead a], exec i s = o := by
  simp only [List.forall_mem_cons]
  exact ⟨h, h, fun i hi => absurd hi List.not_mem_nil⟩

theorem State.busRefused_eq {s : State} {a : BusAccess} {d : RegDef} (hd : regDef a.off = some d) :
    s.busRefused a = s.quiescing d.dom := by
  simp only [State.busRefused, hd]

/-- R13: a register whose domain is held ignores writes. -/
theorem State.writeReg_held {s : State} {rid off : Nat} {v : W32} {d : RegDef} (hd : regDef off = some d)
    (hheld : s.held d.dom = true) : s.writeReg rid off v = s := by
  simp only [State.writeReg, hd, hheld, if_true]

/-- Settles O36: by the kind of place that the access finds. -/
theorem registerAccessesReplyOrAbort : Obligations.RegisterAccessesReplyOrAbort := by
  unfold Obligations.RegisterAccessesReplyOrAbort
  intro s a v rid aborted
  obtain ⟨w0, w1, w2, w3⟩ := s.busWrite_cases a v
  obtain ⟨r0, r1, r2, r3⟩ := s.busRead_cases a
  refine ⟨fun hill => ?_, fun hs ho hb hal => ?_, fun hs ho hb hal => ?_, fun hs ho hb ht hm => ?_⟩
  · have hk := accessKind_ill hill
    intro i hi
    rcases List.mem_cons.1 hi with rfl | hi
    · exact congrArg Host.Outcome.next (w2 hk)
    · exact exec_reads (congrArg Host.Outcome.next (r2 hk)) i hi
  · have hk : accessKind a = 0 := (accessKind_bar0 hs ho hb).trans (if_pos hal)
    obtain ⟨d, hd⟩ := Option.isSome_iff_exists.1 hal
    refine ⟨d, hd, fun hq => ?_, fun hq => ?_⟩
    · have hr : ¬ s.busRefused a = true := by rw [State.busRefused_eq hd, hq]; exact Bool.false_ne_true
      have hw := (w0 hk).trans (if_neg hr)
      refine ⟨congrArg Host.Outcome.next hw, exec_reads (congrArg Host.Outcome.next ((r0 hk).trans (if_neg hr))), fun hheld => ?_⟩
      rw [State.writeReg_held hd hheld] at hw
      exact congrArg Host.Outcome.next hw
    · have hr : s.busRefused a = true := (State.busRefused_eq hd).trans hq
      exact ⟨congrArg Host.Outcome.next ((w0 hk).trans (if_pos hr)),
        exec_reads (congrArg Host.Outcome.next ((r0 hk).trans (if_pos hr)))⟩
  · have hk : accessKind a = 3 := by rw [accessKind_bar0 hs ho hb, hal]; rfl
    exact ⟨congrArg Host.Outcome.next (w3 hk), exec_reads (congrArg Host.Outcome.next (r3 hk))⟩
  · have hk := accessKind_bar2 hs ho hb ht hm
    exact ⟨congrArg Host.Outcome.next (w1 hk), exec_reads (congrArg Host.Outcome.next (r1 hk))⟩

/-! ### Stall locks and owners -/

theorem State.holdsAbove_iff (s : State) (o k : Nat) :
    s.holdsAbove o k = true ↔ ∃ j < 256, k < j ∧ s.lockHeldBy j o = true := by
  simp only [State.holdsAbove, List.any_eq_true, List.mem_range, Bool.and_eq_true, decide_eq_true_eq]

/-- A lock command is that of its requester's owner ID. -/
theorem State.lockCommand_request {s : State} {rid queue o k : Nat} (hup : s.held .mem = false) (hk : k < 256)
    (ho : ridOwner rid queue = some o) : s.lockCommand rid queue 1 k = s.lockRequest o k := by
  simp only [State.lockCommand, ho, if_neg (up_or hup hk), if_true]

theorem State.lockCommand_release {s : State} {rid queue o k : Nat} (hup : s.held .mem = false) (hk : k < 256)
    (ho : ridOwner rid queue = some o) : s.lockCommand rid queue 2 k = s.lockRelease o k := by
  simp only [State.lockCommand, ho, if_neg (up_or hup hk), if_neg (show ¬ 2 = 1 by decide), if_true]

theorem State.lockCommand_unowned {rid queue : Nat} (s : State) (op k : Nat) (ho : ridOwner rid queue = none) :
    s.lockCommand rid queue op k = s := by
  simp only [State.lockCommand, ho]

/-- Above the first row of R358: the requester holds no lock numbered higher. -/
theorem State.lockRequest_of_none_above {s : State} {o k : Nat} (ha : ¬ s.holdsAbove o k = true) :
    s.lockRequest o k =
      if s.lockHeldBy k o then s.setLockReq o { result := 3, reason := 2, broken := false, lock := k }
      else if s.lockPending o then s.setLockReq o { result := 3, reason := 3, broken := false, lock := k }
      else if s.fget (F.MEM_LOCK_STATE k) = 0 ∧ s.lockWaiters k = [] then s.grantLock k o
      else (s.setWaiters k (s.lockWaiters k ++ [o])).setLockReq o { result := 1, reason := 0, broken := false, lock := k } :=
  if_neg ha

/-- Settles O38: R358's rows in order, each under the rows above it. -/
theorem stallLocksAndOwnersChangeHands : Obligations.StallLocksAndOwnersChangeHands := by
  unfold Obligations.StallLocksAndOwnersChangeHands
  intro s rid queue k hup hk
  have hheld := State.not_held hup
  refine ⟨fun o ho => ?_, fun ho => ?_, fun hst => ?_, fun hst => ?_, fun j o hlo hhi ho => ?_, fun j o h => ?_,
    fun j o hj => ⟨fun hx => ?_, fun hx => ?_⟩⟩
  · intro result above free req rel
    have hreq : req = .next (s.lockRequest o k) := congrArg Host.Outcome.next (State.lockCommand_request hup hk ho)
    have hrel : rel = .next (s.lockRelease o k) := congrArg Host.Outcome.next (State.lockCommand_release hup hk ho)
    have hnone : ¬ above → ¬ s.holdsAbove o k = true := mt (s.holdsAbove_iff o k).1
    rw [hreq, hrel]
    refine ⟨fun ha => ?_, fun ha hb => ?_, fun ha hb hp => ?_, fun ha hb hp hf => ?_, fun ha hb hp hf => ?_, fun hb => ?_,
      fun hb hw => ?_, fun hb hw => ?_⟩
    · exact congrArg Host.Outcome.next (if_pos ((s.holdsAbove_iff o k).2 ha))
    · exact congrArg Host.Outcome.next ((State.lockRequest_of_none_above (hnone ha)).trans (if_pos hb))
    · exact congrArg Host.Outcome.next ((State.lockRequest_of_none_above (hnone ha)).trans
        ((if_neg (Bool.eq_false_iff.1 hb)).trans (if_pos hp)))
    · exact congrArg Host.Outcome.next ((State.lockRequest_of_none_above (hnone ha)).trans
        ((if_neg (Bool.eq_false_iff.1 hb)).trans ((if_neg (Bool.eq_false_iff.1 hp)).trans (if_pos hf))))
    · exact congrArg Host.Outcome.next ((State.lockRequest_of_none_above (hnone ha)).trans
        ((if_neg (Bool.eq_false_iff.1 hb)).trans ((if_neg (Bool.eq_false_iff.1 hp)).trans (if_neg hf))))
    · exact congrArg Host.Outcome.next (if_pos hb)
    · exact congrArg Host.Outcome.next ((if_neg (Bool.eq_false_iff.1 hb)).trans (if_pos (List.contains_iff_mem.2 hw)))
    · exact congrArg Host.Outcome.next ((if_neg (Bool.eq_false_iff.1 hb)).trans (if_neg (mt List.contains_iff_mem.1 hw)))
  · exact ⟨congrArg Host.Outcome.next (s.lockCommand_unowned 1 k ho), congrArg Host.Outcome.next (s.lockCommand_unowned 2 k ho)⟩
  · refine congrArg Host.Outcome.next (if_neg ?_)
    rintro (h | h | h)
    exacts [hheld h, absurd hk (Nat.not_lt.mpr h), h (decide_eq_true hst)]
  · exact congrArg Host.Outcome.next (if_pos (.inr (.inr (mt of_decide_eq_true hst))))
  · refine congrArg Host.Outcome.next (if_neg ?_)
    rintro (h | h | h | h | h)
    exacts [hheld h, by omega, by omega, by omega, by omega]
  · exact congrArg Host.Outcome.next (if_pos (.inr h))
  · refine congrArg Host.Outcome.next ?_
    simp only [hj]
    refine if_neg ?_
    rintro (h | h)
    exacts [hheld h, Bool.false_ne_true ((congrArg Option.isSome hx).symm.trans h)]
  · refine congrArg Host.Outcome.next ?_
    simp only [hj]
    exact if_pos (.inr (Option.isSome_iff_ne_none.2 hx))

end Sys2Proof.Machine
end

section
/-! PROOF. Transactions of the Yard and their beats (R345 to R356, R438). -/

namespace Sys2Proof.Machine

open Sys2Proof.Arith

/-! ### Granting one transaction -/

theorem yardTarget_le (a : Nat) : yardTarget a ≤ 19 := by
  unfold yardTarget
  split_ifs <;> omega

/-- The only transaction that is presented is picked where nothing blocks it. -/
theorem State.pickTx_single {s : State} {t : YardTx} (h : s.txBlocked t = false) : s.pickTx [t] = some t := by
  have hmin : min 19 (yardTarget t.addr) = yardTarget t.addr := min_eq_right (yardTarget_le _)
  simp [State.pickTx, h, hmin]

theorem State.pickTx_blocked {s : State} {t : YardTx} (h : s.txBlocked t = true) : s.pickTx [t] = none := by
  simp [State.pickTx, h]

/-- A transaction on its own: what waits is what its master may issue. -/
theorem exec_yardTransaction_single {s : State} {t : YardTx} (hup : s.held .mem = false) (hw : s.yard.waiting = []) :
    exec (.yardTransaction [t]) s = .next (
      let l := [t].filter s.txIssues
      let r := State.grantAll l.length s l
      { r.2.2 with yard := { r.2.2.yard with waiting := r.2.1, answers := r.1 } }) := by
  refine congrArg Host.Outcome.next ((if_neg (State.not_held hup)).trans ?_)
  rw [hw]
  rfl

/-! ### Beats of the targets -/

/-- A beat at a target that takes transactions is the target's own. -/
theorem State.beat_open {s : State} {a : Nat} (t : YardTx) (b : YardBeat) (h : s.targetShut (yardTarget a) = false) :
    (yardTarget a < 12 → s.beat t a b = s.stallBeat t a b) ∧
    (yardTarget a = 12 → s.beat t a b = s.bulkBeat t a b) ∧
    (yardTarget a = 18 → s.beat t a b = s.loftBeat t a b) ∧
    (yardTarget a = 19 → s.beat t a b = (unmapped, s)) := by
  have hopen := Bool.eq_false_iff.1 h
  refine ⟨fun ht => (if_neg hopen).trans (if_pos ht), fun ht => ?_, fun ht => ?_, fun ht => ?_⟩
  all_goals
    refine (if_neg hopen).trans ((if_neg (by omega)).trans ?_)
    simp only [ht]

/-- An address of Stalls 64 to 95 lies in the Stalls' own window, not in a second view of it (R356). -/
theorem window_of_stall {a : Nat} (h : a / 0x40000 < 96) : a / 0x2000000 = 0 ∧ a % 0x2000000 = a := by omega

/-- A beat at Stalls 64 to 95 in their own window, of a transaction that is no atomic. -/
theorem State.stallBeat_own {s : State} {t : YardTx} {a : Nat} {b : YardBeat} (hlo : 64 ≤ a / 0x40000) (hhi : a / 0x40000 < 96)
    (hkind : t.kind ≠ 2) (hchk : b.chk = .clean) :
    let old := leNat ((List.range 8).map (fun i => (s.stallByte (a + i)).toNat))
    s.stallBeat t a b =
      if s.ownerRefuses (a / 0x40000) t.master t.kind then (refuse 1, s)
      else if t.kind = 0 then ({ data := old }, s)
      else ({ data := 0 }, s.setStallBytes a (leBytes 8 (mergeBytes old b.data.toNat b.strobe.toNat))) := by
  obtain ⟨hw, ho⟩ := window_of_stall hhi
  have hk : ¬ a / 0x40000 < 64 := Nat.not_lt.mpr hlo
  simp only [State.stallBeat, hw, ho, hk, hkind, hchk, aliasWord, false_and, and_false, if_false, or_self,
    reduceCtorEq, zero_ne_one, OfNat.zero_ne_ofNat, ne_eq, not_true_eq_false]

/-- A clean beat at the bulk window that bulk memory serves. -/
theorem State.bulkBeat_usable {s : State} {t : YardTx} {a : Nat} {b : YardBeat}
    (hr : s.fon F.BLK_STAT_READY = true) (hin : s.bulkAddr t.master a + 8 ≤ s.bulkBytes) (hkind : t.kind ≠ 2)
    (hchk : b.chk = .clean) :
    let ba := s.bulkAddr t.master a
    s.bulkBeat t a b =
      if t.kind = 1 then
        ({}, { s with bulk := setLe s.bulk ba 8 (mergeBytes (leAt s.bulk ba 8) b.data.toNat b.strobe.toNat) })
      else s.bulkRead ba := by
  have hserved : ¬ (t.kind = 2 ∨ ¬ s.fon F.BLK_STAT_READY = true ∨ s.bulkBytes < s.bulkAddr t.master a + 8) := by
    rintro (h | h | h)
    exacts [hkind h, h hr, absurd hin (Nat.not_le.mpr h)]
  refine (if_neg hserved).trans (if_congr Iff.rfl rfl ?_)
  simp only [hchk, reduceCtorEq, if_false]

/-- Settles O37: the grant of one transaction; each target's beat by its own rules. -/
theorem yardTransactionsAreGrantedAndAnswered : Obligations.YardTransactionsAreGrantedAndAnswered := by
  unfold Obligations.YardTransactionsAreGrantedAndAnswered
  intro s t hup hw
  refine ⟨fun hi hb => ?_, fun hi hb => ?_, fun hi => ?_, fun a b hopen ht hkind hchk => ?_, fun a b hopen hchk => ?_⟩
  · intro r d seen
    have hl : [t].filter s.txIssues = [t] := List.filter_cons_of_pos hi
    rw [exec_yardTransaction_single hup hw, hl]
    simp only [List.length_cons, List.length_nil, State.grantAll, State.pickTx_single hb, List.erase_cons_head]
    rfl
  · have hl : [t].filter s.txIssues = [t] := List.filter_cons_of_pos hi
    rw [exec_yardTransaction_single hup hw, hl]
    simp only [List.length_cons, List.length_nil, State.grantAll, State.pickTx_blocked hb]
  · have hl : [t].filter s.txIssues = [] := List.filter_cons_of_neg (Bool.eq_false_iff.1 hi)
    rw [exec_yardTransaction_single hup hw, hl]
    rfl
  · intro r lost u d
    refine ((s.beat_open t b (ht ▸ hopen)).2.2.1 ht).trans ?_
    simp only [State.loftBeat, hkind, hchk, ne_eq, not_true_eq_false, if_false, if_true]
    rfl
  · intro k old shut ba usable
    obtain ⟨hstall, hbulk, _, hnone⟩ := s.beat_open t b hopen
    refine ⟨hnone, fun ht hlo hhi hs hkind => ?_, fun ht hlo hhi hs hkind => ?_, fun ht hlo hhi hs hkind => ?_, fun ht hu => ?_,
      fun ht hu hkind hdly => ?_, fun ht hu hkind => ?_⟩
    · exact (hstall ht).trans ((State.stallBeat_own hlo hhi hkind hchk).trans (if_pos hs))
    · exact (hstall ht).trans ((State.stallBeat_own hlo hhi (by omega) hchk).trans
        ((if_neg (Bool.eq_false_iff.1 hs)).trans (if_pos hkind)))
    · exact (hstall ht).trans ((State.stallBeat_own hlo hhi (by omega) hchk).trans
        ((if_neg (Bool.eq_false_iff.1 hs)).trans (if_neg (by omega))))
    · refine (hbulk ht).trans (if_pos (.inr ?_))
      by_cases hr : s.fon F.BLK_STAT_READY = true
      · exact .inr (Nat.not_le.mp fun h => hu ⟨hr, h⟩)
      · exact .inl hr
    · exact (hbulk ht).trans ((State.bulkBeat_usable hu.1 hu.2 (by omega) hchk).trans
        ((if_neg (by omega)).trans (if_neg (Bool.eq_false_iff.1 hdly))))
    · exact (hbulk ht).trans ((State.bulkBeat_usable hu.1 hu.2 (by omega) hchk).trans (if_pos hkind))

end Sys2Proof.Machine
end

section
/-! PROOF. Weevil's passes, bulk memory and its deadline arbiter (R362 to R377). -/

namespace Sys2Proof.Machine

open Sys2Proof.Arith

/-- Settles O39: each command by its guard; every Paddock's position is past the last region where a pass is done. -/
theorem weevilPassesAndBulkTraining : Obligations.WeevilPassesAndBulkTraining := by
  unfold Obligations.WeevilPassesAndBulkTraining
  intro s hup secs
  have hheld := State.not_held hup
  have hon : s.wvOn = true ↔ s.fon F.MEM_WV_CTRL_EN = true := by simp [State.wvOn, State.up, hup]
  have hany : (List.range 12).any (fun p => decide (s.wvPos p < 4160)) = true ↔ ∃ p < 12, s.wvPos p < 4160 := by
    simp only [List.any_eq_true, List.mem_range, decide_eq_true_eq]
  have hused : [0, 1].any (fun k => (s.slot k).prog.nodes.any (fun n => decide (n.type = T.bulkDly))) = true ↔
      ∃ k < 2, ∃ n ∈ (s.slot k).prog.nodes, n.type = T.bulkDly := by
    simp only [List.any_eq_true, decide_eq_true_eq, show ([0, 1] : List Nat) = List.range 2 from rfl, List.mem_range]
  refine ⟨fun p hp => ?_, fun hen hpos => ?_, fun h => ?_, fun hs hn => ?_, fun h => ?_, fun v => ?_, fun v => ?_,
    fun density hc hr hf ht => ?_, fun pass ht => ?_, fun k i hw => ?_⟩
  · exact congrArg Host.Outcome.next (if_neg (up_or hup hp))
  · intro u
    have hgo : ¬ (¬ s.wvOn = true ∨ (List.range 12).any (fun p => decide (s.wvPos p < 4160)) = true) := by
      rintro (h | h)
      · exact h (hon.2 hen)
      · obtain ⟨p, hp, hlt⟩ := hany.1 h
        exact absurd (hpos p hp) (Nat.not_le.mpr hlt)
    have hexec : exec .weevilPassDone s =
        .next (if secs ≤ u.wvPeriod then u.fset F.MEM_WV_STAT_COVERAGE_LATE 0 else u).startPass :=
      congrArg Host.Outcome.next (if_neg hgo)
    exact ⟨fun h => by rw [hexec, if_pos h], fun h => by rw [hexec, if_neg (Nat.not_le.mpr h)]⟩
  · refine congrArg Host.Outcome.next (if_pos (h.imp (fun h => ?_) hany.2))
    exact mt hon.1 (Bool.eq_false_iff.1 h)
  · refine congrArg Host.Outcome.next (if_neg ?_)
    rintro (h | h | h)
    exacts [hheld h, absurd hs (Nat.not_lt.mpr h), Bool.false_ne_true (hn.symm.trans h)]
  · exact congrArg Host.Outcome.next (if_pos (.inr h))
  · intro t same empty
    have hsame : same ↔ ¬ (t.fget F.BLK_CFG_SIZE ≠ s.fget F.BLK_CFG_SIZE ∨ t.fget F.BLK_CFG_RATE ≠ s.fget F.BLK_CFG_RATE) := by
      rw [not_or, not_not, not_not]
    have hempty : empty ↔ ¬ (s.slotState 0 ≠ 0 ∨ s.slotState 1 ≠ 0) := by rw [not_or, not_not, not_not]
    refine ⟨fun hs => ?_, fun hs he => ?_, fun hs he => ?_⟩
    · exact congrArg Host.Outcome.next (if_pos (hsame.1 hs))
    · exact congrArg Host.Outcome.next ((if_neg (mt hsame.2 hs)).trans (if_pos (not_not.mp (mt hempty.2 he))))
    · exact congrArg Host.Outcome.next ((if_neg (mt hsame.2 hs)).trans (if_neg (hempty.1 he)))
  · intro used
    exact ⟨fun h => congrArg Host.Outcome.next (if_neg (mt hused.1 h)), fun h => congrArg Host.Outcome.next (if_pos (hused.2 h))⟩
  · intro u
    have hgo : ¬ (s.held .mem = true ∨ s.held .ctl = true ∨ s.fon F.BLK_STAT_READY = true ∨
        s.fon F.BLK_STAT_TRAIN_FAIL = true ∨ s.blk.training = true) := by
      simp only [hup, hc, hr, hf, ht, Bool.false_eq_true, or_self, not_false_eq_true]
    have hu : u = if s.blk.trained = true ∨ s.fon F.BLK_CFG_LOCK = true then s else s.fset F.BLK_CFG_SIZE (density % 4) := by
      rw [show u = if s.blk.trained = false ∧ s.fon F.BLK_CFG_LOCK = false then s.fset F.BLK_CFG_SIZE (density % 4) else s from rfl]
      by_cases h : s.blk.trained = true ∨ s.fon F.BLK_CFG_LOCK = true
      · rw [if_pos h, if_neg (by simpa only [Bool.not_eq_false, not_and_or] using h)]
      · rw [if_neg h, if_pos (by simpa only [Bool.not_eq_true, not_or] using h)]
    rw [hu]
    exact congrArg Host.Outcome.next (if_neg hgo)
  · refine congrArg Host.Outcome.next (if_neg ?_)
    rintro (h | h)
    exacts [hheld h, h ht]
  · intro x st ty
    have hwk : s.slotWorks k = true := s.slotWorks_iff.2 hw
    refine ⟨fun hst hty => ?_, fun h => ?_⟩
    · refine congrArg Host.Outcome.next (if_neg ?_)
      rintro (h | h | h)
      exacts [h hwk, h hst, hty.elim h.1 h.2]
    · exact congrArg Host.Outcome.next (if_pos (.inr (h.imp Bool.eq_false_iff.1 id)))

/-! ### The deadline arbiter -/

/-- Settles O40: each command of the arbiter by its guard; a synthesised deadline wraps once, after the sum. -/
theorem theBulkArbiterTakesRequests : Obligations.TheBulkArbiterTakesRequests := by
  unfold Obligations.TheBulkArbiterTakesRequests
  intro s r cycle hup hr cyc
  have hheld := State.not_held hup
  refine ⟨fun deadline beats hb1 hb16 hreq => ?_, fun deadline beats h => ?_, fun hidle => ?_, fun q hidle hq => ?_,
    fun q hq => ⟨fun hh ht => ?_, fun h => ?_⟩, ?_, fun v => ?_⟩
  · intro d
    have hd : d = if r < 4 then deadline % 2 ^ 20 else (arbNow (s.arbCycle cycle) + s.fget (F.YRD_ARB_AGE_VALUE r)) % 2 ^ 20 :=
      if_congr Iff.rfl rfl (Nat.mod_add_mod _ _ _).symm
    rw [hd]
    refine congrArg Host.Outcome.next (if_neg ?_)
    rintro (h | h | h | h | h)
    exacts [hheld h, absurd hr (Nat.not_lt.mpr h), by omega, by omega, Bool.false_ne_true ((congrArg Option.isSome hreq).symm.trans h)]
  · refine congrArg Host.Outcome.next (if_pos (.inr (.inr ?_)))
    rcases h with h | h | h
    exacts [.inr (.inr (Option.isSome_iff_ne_none.2 h)), .inl h, .inr (.inl h)]
  · exact congrArg Host.Outcome.next (if_pos (.inr hidle))
  · intro u v w
    refine congrArg Host.Outcome.next ((if_neg ?_).trans ?_)
    · rintro (h | h)
      exacts [hheld h, Bool.false_ne_true (hidle.symm.trans h)]
    · simp only [hq]
      rfl
  · refine congrArg Host.Outcome.next ?_
    simp only [hq]
    refine if_neg ?_
    rintro (h | h | h)
    exacts [hheld h, Bool.false_ne_true (hh.symm.trans h), absurd ht (Nat.not_le.mpr h)]
  · refine congrArg Host.Outcome.next ?_
    simp only [hq]
    exact if_pos (.inr h)
  · exact congrArg Host.Outcome.next (if_neg hheld)
  · intro u
    have hexec : exec (.arbBiasWrite r v cycle) s = .next (if u.portIdle then u else u.arbPreempt (u.ecnt + cycle + 1)) :=
      congrArg Host.Outcome.next (if_neg (up_or hup hr))
    exact ⟨fun h => by rw [hexec, if_pos h], fun h => by rw [hexec, if_neg (Bool.eq_false_iff.1 h)]⟩

end Sys2Proof.Machine
end

section
/-! PROOF. The state table of an audio port and its masks (R215 to R219, R221, R223, R227). -/

namespace Sys2Proof.Machine

open Sys2Proof.Arith

/-- R219: a STARTING port's condition, by its mode. -/
theorem State.portMayRun_iff (s : State) (p : Nat) : s.portMayRun p = true ↔
    (s.portMode p = 0 → (s.port p).clk = true) ∧ (s.portMode p = 1 → 2 ≤ (s.port p).good) ∧
      (2 ≤ s.portMode p → s.fon (F.APT_PORT_STAT_ASRC_LOCK p) = true) := by
  unfold State.portMayRun
  generalize s.portMode p = mode
  match mode with
  | 0 => simp
  | 1 => simp
  | m + 2 => simp

/-- The queue of a direction that starts, in the words of R219. -/
theorem PortDir.restart_eq (d : PortDir) : d.restart =
    if d.primed = true ∧ d.starved = false then d
    else { d with queue := [], ready := [], line := [], primed := false, starved := false, fade := none, pos := 0 } :=
  if_congr (and_congr_right fun _ => Bool.eq_false_iff.symm) rfl rfl

/-- A port as it becomes RUNNING, from its directions as they start, its mode, its receive slots and the tick (R220). -/
def PortSt.started (x : PortSt) (rx tx : PortDir) (mode slots tick : Nat) : PortSt :=
  { x with rx := { rx with acts := rx.acts ++ [.start slots tick x.rx.starved] },
           tx := { tx with queue := if mode = 0 then x.tx.queue else tx.queue }, good := 0, quiet := 0 }

/-- A STARTING port that meets its mode's condition becomes RUNNING, under the masks that its mode allows. -/
theorem exec_portRunning {s : State} {p : Nat} (hup : s.held .apt = false) (hp : p < 16) (hst : s.portState p = 1)
    (hmay : s.portMayRun p = true) : exec (.portRunning p) s =
    .next (
      let r := s.asrcMask p (s.fget (F.APT_PORT_RXACT_MASK p))
      let t := s.asrcMask p (s.fget (F.APT_PORT_TXACT_MASK p))
      let u := (s.fset (F.APT_PORT_RXACT_MASK p) r).fset (F.APT_PORT_TXACT_MASK p) t
      let x := u.port p
      (u.setPort p (x.started x.rx.restart (x.tx.act (.start t u.eng.tick x.tx.starved)).restart (u.portMode p) r
        u.eng.tick)).setPortState p 2) := by
  refine congrArg Host.Outcome.next (if_neg ?_)
  rintro (h | h | h | h)
  exacts [State.not_held hup h, absurd hp (Nat.not_lt.mpr h), h hst, h hmay]

theorem PortDir.act_start (d : PortDir) (m t : Nat) (dry : Bool) :
    d.act (.start m t dry) = d.modEnabled m (fun sl => sl.startUp t dry) := rfl

/-- A register field is none of a port's own state. -/
theorem State.port_fset (s : State) (f : Field) (v p : Nat) : (s.fset f v).port p = s.port p := rfl

/-- The active masks stand beside CFG, so a change of them leaves MODE. -/
theorem State.portMode_setActive {s : State} (hcan : s.canonical = true) (p r t : Nat) :
    ((s.fset (F.APT_PORT_RXACT_MASK p) r).fset (F.APT_PORT_TXACT_MASK p) t).portMode p = s.portMode p := by
  refine (State.fget_fset_other (State.canonical_fset hcan _ _) _ _ _ ?_).trans (State.fget_fset_other hcan _ _ _ ?_)
  · simp only [F.APT_PORT_CFG_MODE, F.APT_PORT_TXACT_MASK, A.APT_PORT_CFG, A.APT_PORT_TXACT]
    omega
  · simp only [F.APT_PORT_CFG_MODE, F.APT_PORT_RXACT_MASK, A.APT_PORT_CFG, A.APT_PORT_RXACT]
    omega

/-- A write of RUN, state by state (R219, R220, R223). -/
theorem State.writeRun_rows (s : State) (p : Nat) (hup : s.held .apt = false) (hp : p < 16) :
    let why := s.portRunReason p
    (s.portState p = 0 → s.writeRun p true =
      if why = 0 then (s.setPortState p 1).fset (F.APT_PORT_CTRL_RUN p) 1
      else (s.fset (F.APT_PORT_STAT_CFG_REJ p) 1).fset (F.APT_PORT_STAT_CFG_REASON p) why) ∧
    (s.portState p = 1 ∨ s.portState p = 2 → s.writeRun p true = s ∧ s.writeRun p false = s.stopPort p) ∧
    (s.portState p = 3 → s.writeRun p true = (s.setPortState p 1).fset (F.APT_PORT_CTRL_RUN p) 1) ∧
    (s.portState p = 0 ∨ s.portState p = 3 → s.writeRun p false = s) := by
  intro why
  have hgo := up_or hup hp
  refine ⟨fun h => (if_neg hgo).trans ?_, fun h => ⟨(if_neg hgo).trans ?_, (if_neg hgo).trans ?_⟩,
    fun h => (if_neg hgo).trans ?_, fun h => (if_neg hgo).trans ?_⟩
  · simp only [h, not_true_eq_false, if_false]
    rfl
  · rcases h with h | h <;> simp only [h, if_true]
  · rcases h with h | h <;> simp only [h, Bool.false_eq_true, if_false]
  · simp only [h, if_true]
  · rcases h with h | h <;> simp only [h, Bool.false_eq_true, not_false_eq_true, if_true, if_false]

/-- Settles O41: RUN by the state, every other event by its guard. -/
theorem portsFollowTheirStateTable : Obligations.PortsFollowTheirStateTable := by
  unfold Obligations.PortsFollowTheirStateTable
  intro s p hup hp st x mode rxm txm
  have hgo := up_or hup hp
  obtain ⟨hrun0, hrun12, hrun3, hstop⟩ := s.writeRun_rows p hup hp
  refine ⟨fun h hw => ?_, fun h hw => ?_, fun h => ?_, fun h => ?_, fun h => ?_, fun h => ?_, ?_, ?_, fun h hm => ?_, fun h => ?_,
    fun ratio h => ?_, fun ratio hm h => ?_, fun fofs v => ?_, ?_, ?_⟩
  · exact congrArg Host.Outcome.next ((hrun0 h).trans (if_pos hw))
  · exact congrArg Host.Outcome.next ((hrun0 h).trans (if_neg hw))
  · exact congrArg Host.Outcome.next (hrun12 h).1
  · exact congrArg Host.Outcome.next (hrun3 h)
  · exact congrArg Host.Outcome.next (hstop h)
  · exact congrArg Host.Outcome.next (hrun12 h).2
  · intro may r t anew tx
    have hmay : s.portMayRun p = true ↔ may := s.portMayRun_iff p
    have hanew : ∀ d : PortDir, d.restart = anew d := PortDir.restart_eq
    refine ⟨fun hcan h hm => ?_, fun h => ?_⟩
    · refine (exec_portRunning hup hp h (hmay.2 hm)).trans ?_
      dsimp only
      rw [State.portMode_setActive hcan, State.port_fset, State.port_fset, State.fset_eng, State.fset_eng, PortDir.act_start, hanew, hanew]
      rfl
    · exact congrArg Host.Outcome.next (if_pos (.inr (.inr (h.imp id (mt hmay.1)))))
  · intro ended idle
    refine ⟨fun ⟨h, hr, ht, hq⟩ => ?_, fun h => ?_⟩
    · refine congrArg Host.Outcome.next (if_neg ?_)
      rintro (h' | h' | h' | h' | h' | h')
      exacts [hgo (.inl h'), hgo (.inr h'), h' h, h' hr, h' ht, absurd hq (Nat.not_le.mpr h')]
    · refine congrArg Host.Outcome.next (if_pos (.inr (.inr ?_)))
      by_contra hno
      simp only [not_or, not_not, Nat.not_lt] at hno
      exact h hno
  · intro dry
    refine congrArg Host.Outcome.next (if_neg ?_)
    rintro (h' | h' | h' | h')
    exacts [hgo (.inl h'), hgo (.inr h'), h' h, hm h']
  · exact congrArg Host.Outcome.next (if_pos (.inr (.inr h)))
  · exact congrArg Host.Outcome.next (if_pos (.inr (.inr h)))
  · refine congrArg Host.Outcome.next (if_neg ?_)
    rintro (h' | h' | h' | h')
    exacts [hgo (.inl h'), hgo (.inr h'), h' hm, h h']
  · intro t rejected
    refine ⟨fun h => ?_, fun h hb => ?_, fun h hb => ?_⟩
    · exact congrArg Host.Outcome.next ((if_neg hgo).trans (if_pos h))
    · exact congrArg Host.Outcome.next ((if_neg hgo).trans ((if_neg (not_not.mpr h)).trans (if_pos hb)))
    · exact congrArg Host.Outcome.next ((if_neg hgo).trans ((if_neg (not_not.mpr h)).trans (if_neg (Bool.eq_false_iff.1 hb))))
  · intro u
    exact ⟨fun h => congrArg Host.Outcome.next ((if_neg hgo).trans (if_neg (Bool.eq_false_iff.1 h))),
      fun h => congrArg Host.Outcome.next ((if_neg hgo).trans (if_pos h))⟩
  · intro armed u r t n bad
    have hlatch (h : st ≠ 0) : ¬ (s.held .apt = true ∨ 16 ≤ p ∨ s.portState p = 0) := by
      rintro (h' | h' | h')
      exacts [hgo (.inl h'), hgo (.inr h'), h h']
    refine ⟨fun h => ?_, fun h ha => ?_, fun h ha hb => ?_, fun h ha hb => ?_⟩
    · exact congrArg Host.Outcome.next (if_pos (.inr (.inr h)))
    · exact congrArg Host.Outcome.next ((if_neg (hlatch h)).trans (if_pos (Bool.eq_false_iff.1 ha)))
    · exact congrArg Host.Outcome.next ((if_neg (hlatch h)).trans ((if_neg (not_not.mpr ha)).trans (if_pos hb)))
    · exact congrArg Host.Outcome.next ((if_neg (hlatch h)).trans ((if_neg (not_not.mpr ha)).trans (if_neg hb)))

end Sys2Proof.Machine
end

section
/-! PROOF. Frames through an audio port, and the microphones (R206, R207, R211, R214, R218, R220, R222, R226). -/

namespace Sys2Proof.Machine

open Sys2Proof.Arith

theorem State.ports_wf {s : State} (h : s.canonical = true) : Tbl.wf (fun _ => {}) s.ports = true := by
  obtain ⟨_, _, hunits, _⟩ := (State.canonical_iff s).mp h
  obtain ⟨_, _, _, _, hports, _⟩ := (State.unitsCanonical_iff s).mp hunits
  exact hports

theorem State.port_setPort_same {s : State} (h : s.canonical = true) (p : Nat) (x : PortSt) : (s.setPort p x).port p = x :=
  Tbl.get_set_same _ _ _ _ (Tbl.wf_rising _ _ (State.ports_wf h))

theorem State.canonical_setPort {s : State} (h : s.canonical = true) (p : Nat) (x : PortSt) : (s.setPort p x).canonical = true :=
  ((Keeps.refl s).set_ports _ fun hs => Tbl.wf_set (fun _ => {}) x p _ (State.ports_wf hs)).canon h

/-- The last store of a port stands. -/
theorem State.setPort_setPort {s : State} (h : s.canonical = true) (p : Nat) (x y : PortSt) :
    (s.setPort p x).setPort p y = s.setPort p y :=
  congrArg (fun t : Tbl PortSt => { s with ports := t }) (Tbl.set_set (State.ports_wf h) p x y)

/-! ### What an event and a fade leave of a direction -/

/-- What every step of a fold leaves as it is, the fold leaves as it is. -/
theorem foldl_leaves {α β γ : Type} (g : α → γ) {f : α → β → α} (hf : ∀ a b, g (f a b) = g a) (l : List β) (a : α) :
    g (l.foldl f a) = g a := by
  induction l generalizing a with
  | nil => rfl
  | cons b l ih => exact (ih _).trans (hf a b)

/-- A direction but for its slots. -/
def PortDir.unslotted (d : PortDir) : PortDir := { d with slots := [] }

theorem PortDir.modEnabled_unslotted (d : PortDir) (mask : Nat) (f : SlotSt → SlotSt) :
    (d.modEnabled mask f).unslotted = d.unslotted :=
  foldl_leaves PortDir.unslotted (fun d k => by split_ifs <;> rfl) _ d

theorem PortDir.remask_unslotted (d : PortDir) (old new : Nat) (live : Bool) : (d.remask old new live).unslotted = d.unslotted :=
  foldl_leaves PortDir.unslotted (fun d k => by dsimp only; split_ifs <;> rfl) _ d

/-- An event changes slots alone. -/
theorem PortDir.act_unslotted (d : PortDir) (e : SlotAct) : (d.act e).unslotted = d.unslotted := by
  cases e with
  | mask old new live => exact d.remask_unslotted old new live
  | stop m t => exact d.modEnabled_unslotted m _
  | start m t dry => exact d.modEnabled_unslotted m _

theorem PortDir.takeActs_unslotted (d : PortDir) (l : List SlotAct) : (d.takeActs l).unslotted = d.unslotted :=
  foldl_leaves PortDir.unslotted PortDir.act_unslotted l d

theorem PortDir.takeActs_queue (d : PortDir) (l : List SlotAct) : (d.takeActs l).queue = d.queue := by
  have h := congrArg PortDir.queue (d.takeActs_unslotted l)
  exact h

theorem PortDir.takeActs_last (d : PortDir) (l : List SlotAct) : (d.takeActs l).last = d.last := by
  have h := congrArg PortDir.last (d.takeActs_unslotted l)
  exact h

theorem PortDir.frame_queue (d : PortDir) (n t : Nat) (stopping : Bool) (xs : List Int) :
    (d.frame n t stopping xs).2.queue = d.queue := by
  unfold PortDir.frame
  refine foldl_leaves (fun acc : List Int × PortDir => acc.2.queue) (fun _ _ => ?_) _ _
  rfl

theorem PortDir.play_queue (d : PortDir) (n t : Nat) (stopping : Bool) (xs : List Int) :
    (d.play n t stopping xs).2.queue = d.queue := d.frame_queue n t stopping xs

/-- A direction that flows takes the front frame of its queue. -/
theorem PortDir.readFrame_flows {d : PortDir} {f : QFrame} {rest : List QFrame} (n t : Nat) (stopping : Bool)
    (hp : d.primed = true) (hs : d.starved = false) (hq : d.queue = f :: rest) :
    d.readFrame n t stopping =
      let r := (({ d with queue := rest } : PortDir).takeActs f.acts).play n t stopping f.xs
      ((r.1, false), r.2) := by
  unfold PortDir.readFrame
  simp only [hp, hs, hq, not_true_eq_false, Bool.false_eq_true, if_false]

/-! ### A frame into the receive queue -/

/-- What a frame makes of a receive direction whose queue ingest reads: its events go with it, and a full queue loses its oldest
frame (R211, R222). -/
def PortDir.received (d : PortDir) (depth : Nat) (xs : List Int) : PortDir :=
  { d with acts := [], queue := (if depth ≤ d.queue.length then d.queue.drop 1 else d.queue) ++ [{ acts := d.acts, xs := xs }] }

theorem PortDir.pushFrame_received (d : PortDir) (depth : Nat) (xs : List Int) :
    ({ d with acts := [] } : PortDir).pushFrame depth { acts := d.acts, xs := xs } =
      (d.received depth xs, decide (depth ≤ d.queue.length)) := by
  unfold PortDir.pushFrame PortDir.received
  by_cases h : depth ≤ d.queue.length
  · simp only [h, if_true, decide_true]
  · simp only [h, if_false, decide_false]

/-- The port after its reader, where it has one, has taken its frame. -/
def State.frameRead (s : State) (p : Nat) (f : QFrame) (read flows : Bool) : State :=
  let x := s.port p
  let d := { x.rx with acts := [] }
  if read ∧ ¬ flows then (s.setPort p { x with rx := d }).readPort p
  else if read then (s.setPort p { x with rx := { d with queue := d.queue ++ [f] } }).readPort p
  else s.setPort p { x with rx := d }

/-- Then its receive direction is stored, refilled where it is dry; `r.2` tells that a frame was lost. -/
def State.frameStored (s : State) (p : Nat) (x : PortSt) (r : PortDir × Bool) : State :=
  let s := s.setPort p { x with rx := if s.portMode p = 0 then r.1 else r.1.refill (s.portFill p) }
  if r.2 ∧ s.portMode p ≠ 0 then s.bump (A.APT_PORT_RX_OVER p) else s

/-- What is stored: a queue that its reader left too full, or that of an unread frame, loses its oldest frame. -/
def State.frameQueued (s : State) (p : Nat) (f : QFrame) (read flows : Bool) : State :=
  let x := s.port p
  s.frameStored p x (if read ∧ flows then
      (if s.portDepth p < x.rx.queue.length then ({ x.rx with queue := x.rx.queue.drop 1 }, true) else (x.rx, false))
    else x.rx.pushFrame (s.portDepth p) f)

theorem State.frameStored_setPort {s : State} (hcan : s.canonical = true) (p : Nat) (x y : PortSt) (r : PortDir × Bool) :
    (s.setPort p y).frameStored p x r = s.frameStored p x r := by
  unfold State.frameStored
  exact congrArg (fun u : State => if r.2 ∧ s.portMode p ≠ 0 then u.bump (A.APT_PORT_RX_OVER p) else u)
    (State.setPort_setPort hcan p y _)

theorem State.pushPort_eq (s : State) (p : Nat) (xs : List Int) :
    let x := s.port p
    let f : QFrame := { acts := x.rx.acts, xs := xs }
    let read := decide (s.portMode p = 1) && decide (x.rx.ready.length < s.portM p)
    let flows := x.rx.primed && !x.rx.starved
    s.pushPort p xs = (s.frameRead p f read flows).frameQueued p f read flows := rfl

/-- In modes 0 and 2 ingest reads the queue, and a frame only enters it. -/
theorem State.pushPort_unread {s : State} (hcan : s.canonical = true) {p : Nat} (hmode : s.portMode p ≠ 1) (xs : List Int) :
    let x := s.port p
    let d := x.rx.received (s.portDepth p) xs
    let u := s.setPort p { x with rx := if s.portMode p = 0 then d else d.refill (s.portFill p) }
    s.pushPort p xs = if s.portDepth p ≤ x.rx.queue.length ∧ s.portMode p ≠ 0 then u.bump (A.APT_PORT_RX_OVER p) else u := by
  intro x d u
  have hread : (decide (s.portMode p = 1) && decide (x.rx.ready.length < s.portM p)) = false := by
    simp only [hmode, decide_false, Bool.false_and]
  have hpush := s.pushPort_eq p xs
  dsimp only at hpush
  rw [hread] at hpush
  have hno (b : Bool) : s.frameRead p { acts := x.rx.acts, xs := xs } false b =
      s.setPort p { x with rx := { x.rx with acts := [] } } := by
    simp only [State.frameRead, Bool.false_eq_true, false_and, if_false]
    rfl
  have hqueued (v : State) (f : QFrame) (b : Bool) : v.frameQueued p f false b =
      v.frameStored p (v.port p) ((v.port p).rx.pushFrame (v.portDepth p) f) := by
    simp only [State.frameQueued, Bool.false_eq_true, false_and, if_false]
  rw [hpush, hno, hqueued, State.port_setPort_same hcan, State.frameStored_setPort hcan]
  refine (congrArg _ (PortDir.pushFrame_received x.rx (s.portDepth p) xs)).trans ?_
  exact if_congr (and_congr_left fun _ => decide_eq_true_iff) rfl rfl

/-- What the reader of a queue took is stored, with its underrun. -/
def State.readTaken (s : State) (p : Nat) (r : (List Int × Bool) × PortDir) : State :=
  let s := s.setPort p { s.port p with rx := { r.2 with ready := r.2.ready ++ [r.1.1] } }
  if r.1.2 then s.bump (A.APT_PORT_RX_UNDER p) else s

theorem State.readPort_eq (s : State) (p : Nat) :
    s.readPort p = s.readTaken p ((s.port p).rx.readFrame (s.portSlots p) s.eng.tick (decide (s.portState p = 3))) := rfl

/-- The port after the reader of a direction that flows took its front frame. -/
def State.frontTaken (s : State) (p : Nat) (f : QFrame) (rest : List QFrame) : PortSt :=
  let r := (({ (s.port p).rx with queue := rest } : PortDir).takeActs f.acts).play (s.portSlots p) s.eng.tick
    (decide (s.portState p = 3)) f.xs
  { s.port p with rx := { r.2 with ready := r.2.ready ++ [r.1] } }

theorem State.readPort_flows {s : State} {p : Nat} {f : QFrame} {rest : List QFrame} (hp : (s.port p).rx.primed = true)
    (hs : (s.port p).rx.starved = false) (hq : (s.port p).rx.queue = f :: rest) :
    s.readPort p = s.setPort p (s.frontTaken p f rest) := by
  rw [State.readPort_eq, PortDir.readFrame_flows _ _ _ hp hs hq]
  rfl

theorem State.frontTaken_queue (s : State) (p : Nat) (f : QFrame) (rest : List QFrame) : (s.frontTaken p f rest).rx.queue = rest :=
  (PortDir.play_queue _ _ _ _ _).trans (PortDir.takeActs_queue _ _)

/-- In mode 1 a frame that enters a queue that flows lets the reader take the front one; the queue does not grow. -/
theorem State.pushPort_flows {s : State} (hcan : s.canonical = true) {p : Nat} (xs : List Int) (hmode : s.portMode p = 1)
    (hready : (s.port p).rx.ready.length < s.portM p) (hp : (s.port p).rx.primed = true) (hs : (s.port p).rx.starved = false)
    (hroom : (s.port p).rx.queue.length ≤ s.portDepth p) :
    let x := s.port p
    let v := (s.setPort p { x with rx := { x.rx with acts := [], queue := x.rx.queue ++ [{ acts := x.rx.acts, xs := xs }] } }).readPort p
    s.pushPort p xs = v.setPort p { v.port p with rx := (v.port p).rx.refill (s.portFill p) } := by
  intro x v
  have hread : (decide (s.portMode p = 1) && decide (x.rx.ready.length < s.portM p)) = true := by
    simp only [hmode, x, hready, decide_true, Bool.and_self]
  have hflows : (x.rx.primed && !x.rx.starved) = true := by simp only [x, hp, hs, Bool.not_false, Bool.and_self]
  have hpush := s.pushPort_eq p xs
  dsimp only at hpush
  rw [hread, hflows] at hpush
  rw [hpush]
  set y : PortSt := { x with rx := { x.rx with acts := [], queue := x.rx.queue ++ [{ acts := x.rx.acts, xs := xs }] } } with hy
  have hport : (s.setPort p y).port p = y := State.port_setPort_same hcan p y
  obtain ⟨g, rest, hq⟩ : ∃ g rest, y.rx.queue = g :: rest :=
    List.exists_cons_of_ne_nil (List.append_ne_nil_of_right_ne_nil _ (List.cons_ne_nil _ _))
  have hv : v = (s.setPort p y).setPort p ((s.setPort p y).frontTaken p g rest) :=
    State.readPort_flows (hport ▸ hp) (hport ▸ hs) (hport ▸ hq)
  have hvport : (v.port p).rx.queue = rest := by
    rw [hv, State.port_setPort_same (State.canonical_setPort hcan p y), State.frontTaken_queue]
  have hlen : rest.length = x.rx.queue.length := by
    have := congrArg List.length hq
    simpa only [hy, List.length_append, List.length_cons, List.length_nil, Nat.add_right_cancel_iff] using this.symm
  have hfits : ¬ v.portDepth p < (v.port p).rx.queue.length := by
    rw [hvport, hlen, hv]
    exact Nat.not_lt.mpr hroom
  have hvmode : v.portMode p ≠ 0 := by
    rw [hv]
    exact fun h => absurd (hmode.symm.trans h) Nat.one_ne_zero
  have hvfill : v.portFill p = s.portFill p := by rw [hv]; rfl
  have hreadv : s.frameRead p { acts := x.rx.acts, xs := xs } true true = v := by
    simp only [State.frameRead, not_true_eq_false, and_false, if_false, if_true]
    rfl
  have hqueued (f : QFrame) : v.frameQueued p f true true = v.frameStored p (v.port p) ((v.port p).rx, false) := by
    simp only [State.frameQueued, and_self, if_true, hfits, if_false]
  have hstored : v.frameStored p (v.port p) ((v.port p).rx, false) =
      v.setPort p { v.port p with rx := (v.port p).rx.refill (v.portFill p) } := by
    simp only [State.frameStored, Bool.false_eq_true, false_and, hvmode, if_false]
  rw [hreadv, hqueued, hstored, hvfill]

end Sys2Proof.Machine
end

section
/-! PROOF. A port's frames as its commands move them, and the microphones (R206, R207, R211, R214, R218, R220, R222, R226). -/

namespace Sys2Proof.Machine

open Sys2Proof.Arith

/-! ### Arrival -/

/-- What a frame whose levels are seen does at a port. -/
def State.frameArrives (s : State) (p : Nat) (levels : List Bool) : State :=
  if s.held .apt ∨ 16 ≤ p ∨ s.portState p = 0 then s
  else
    let x := s.port p
    let right := levels.length = s.frameBits p ∨ s.portMode p = 0
    if s.portState p = 1 then
      let s := s.setPort p { x with good := if right then x.good + 1 else 0, latched := false }
      let s := if x.rx.primed ∧ ¬ x.rx.starved ∧ right then s.pushPort p (s.frameSamples p levels) else s
      s.applyMask p false
    else if ¬ right then s.losePortClock p
    else ((s.setPort p { x with latched := false }).pushPort p (s.frameSamples p levels)).applyMask p false

theorem exec_portFrameReceived {s : State} (p : Nat) (levels : List Bool) (hcut : s.pinsCut = false) :
    exec (.portFrameReceived p levels) s = .next (s.frameArrives p levels) :=
  congrArg (fun seen : List Bool × State => Host.Outcome.next (seen.2.frameArrives p seen.1))
    (if_neg (Bool.eq_false_iff.1 hcut) : s.seenBits levels = (levels, s))

/-! ### Launch -/

/-- A port that puts out the frame `o.1` and keeps the direction `o.2`, stored in `v` (R214, R218). -/
def State.framePut (u : State) (p : Nat) (v : State) (o : List Int × PortDir) : State :=
  let x := u.port p
  let quiet := if x.tx.silent = true ∧ x.rx.silent = true then x.quiet + 1 else 0
  (v.setPort p { x with tx := o.2, out := v.sdoFrame p o.2 o.1, latched := false, quiet := quiet, sent := x.sent + 1 }).feedTx p

/-- The port after a frame; `r.1.2` tells an underrun. -/
def State.frameSent (u : State) (p : Nat) (r : (List Int × Bool) × PortDir) : State :=
  u.framePut p (if r.1.2 then u.bump (A.APT_PORT_TX_UNDER p) else u) (r.1.1, r.2)

theorem State.frameSent_quiet (u : State) (p : Nat) (o : List Int × PortDir) :
    u.frameSent p ((o.1, false), o.2) = u.framePut p u o := by
  unfold State.frameSent
  rw [if_neg Bool.false_ne_true]

theorem State.frameSent_dry (u : State) (p : Nat) (o : List Int × PortDir) :
    u.frameSent p ((o.1, true), o.2) = u.framePut p (u.bump (A.APT_PORT_TX_UNDER p)) o := by
  unfold State.frameSent
  rw [if_pos rfl]

theorem exec_portFrameTransmit {s : State} {p : Nat} (hup : s.held .apt = false) (hp : p < 16)
    (hoff : ¬ (s.portState p = 0 ∨ (s.portMode p = 0 ∧ ((s.port p).clk = false ∨ s.portM p ≤ (s.port p).sent)))) :
    let u := s.applyMask p true
    exec (.portFrameTransmit p) s = .next (u.frameSent p (u.nextTx p (u.port p).tx)) := by
  refine congrArg Host.Outcome.next (if_neg ?_)
  rintro (h | h | h | ⟨hm, h⟩)
  exacts [State.not_held hup h, absurd hp (Nat.not_lt.mpr h), hoff (.inl h), hoff (.inr ⟨hm, h.imp_left Bool.eq_false_iff.2⟩)]

/-- R222: the reader's frame, by whether the direction has started, runs dry, or flows. -/
theorem PortDir.readFrame_cases (d : PortDir) (n t : Nat) (stopping : Bool) :
    let met : PortDir := { d.takeActs d.acts with acts := [] }
    let dried : PortDir := { met with starved := true, fade := fadeTo d.fade 0 16 }
    (d.primed = false → d.readFrame n t stopping = ((List.replicate n 0, false), d)) ∧
    (d.primed = true → d.starved = true → d.readFrame n t stopping =
      (((met.play n t stopping d.last).1, false), (met.play n t stopping d.last).2)) ∧
    (d.primed = true → d.starved = false → d.queue = [] → d.readFrame n t stopping =
      (((dried.play n t stopping d.last).1, true), (dried.play n t stopping d.last).2)) := by
  intro met dried
  refine ⟨fun hp => if_pos (Bool.eq_false_iff.1 hp), fun hp hs => ?_, fun hp hs hq => ?_⟩
  · exact (if_neg (not_not.mpr hp)).trans (if_pos hs)
  · refine (if_neg (not_not.mpr hp)).trans ((if_neg (Bool.eq_false_iff.1 hs)).trans ?_)
    simp only [hq]
    rw [← d.takeActs_last d.acts]

theorem State.nextTx_master {u : State} {p : Nat} (d : PortDir) (h : u.portMode p = 0) :
    let r := ({ d with queue := d.queue.drop 1 } : PortDir).play (u.portSlots p) u.eng.tick (decide (u.portState p = 3))
      ((d.queue.head?.map (·.xs)).getD (List.replicate (u.portSlots p) 0))
    u.nextTx p d = ((r.1, false), r.2) := if_pos h

theorem State.nextTx_queue {u : State} {p : Nat} (d : PortDir) (h : u.portMode p ≠ 0) :
    u.nextTx p d = d.readFrame (u.portSlots p) u.eng.tick (decide (u.portState p = 3)) := if_neg h

/-- Settles O42: a frame's arrival and launch by the port's state and mode, its queue by the mode, the microphones one by one. -/
theorem portFramesAndMicrophonesMove : Obligations.PortFramesAndMicrophonesMove := by
  unfold Obligations.PortFramesAndMicrophonesMove
  intro s hup
  have hheld := State.not_held hup
  refine ⟨fun p levels hp hcut => ?_, fun p xs hp hcan => ?_, fun p hp => ?_, fun m hm => ?_, fun v => ?_, fun v => ?_⟩
  · intro x right xs o
    have ho : o = .next (s.frameArrives p levels) := exec_portFrameReceived p levels hcut
    have hgo (h : s.portState p ≠ 0) : ¬ (s.held .apt = true ∨ 16 ≤ p ∨ s.portState p = 0) := by
      rintro (h' | h' | h')
      exacts [hheld h', absurd hp (Nat.not_lt.mpr h'), h h']
    rw [ho]
    refine ⟨fun h => ?_, fun h => ?_, fun h hr => ?_, fun h hr => ?_⟩
    · exact congrArg Host.Outcome.next (if_pos (.inr (.inr h)))
    · intro u goes
      have hgoes : (x.rx.primed = true ∧ ¬ x.rx.starved = true ∧ right) ↔ goes :=
        and_congr_right fun _ => and_congr_left fun _ => Bool.eq_false_iff.symm
      refine ⟨fun hg => ?_, fun hg => ?_⟩
      · refine congrArg Host.Outcome.next ((if_neg (hgo (by omega))).trans ((if_pos h).trans ?_))
        exact congrArg (fun w : State => w.applyMask p false) (if_pos (hgoes.2 hg))
      · refine congrArg Host.Outcome.next ((if_neg (hgo (by omega))).trans ((if_pos h).trans ?_))
        exact congrArg (fun w : State => w.applyMask p false) (if_neg (mt hgoes.1 hg))
    · exact congrArg Host.Outcome.next ((if_neg (hgo (by omega))).trans ((if_neg (by omega)).trans (if_pos hr)))
    · exact congrArg Host.Outcome.next ((if_neg (hgo (by omega))).trans ((if_neg (by omega)).trans (if_neg (not_not.mpr hr))))
  · intro x q f full d
    refine ⟨fun h => ?_, fun h => ?_, fun h hready hprimed hs hroom => ?_⟩
    · refine (State.pushPort_unread hcan (by omega) xs).trans ((if_neg fun h' => h'.2 h).trans ?_)
      rw [if_pos h]
      rfl
    · intro u
      have hne : s.portMode p ≠ 0 := by omega
      refine (State.pushPort_unread hcan (by omega) xs).trans ((if_congr (and_iff_left hne) rfl rfl).trans ?_)
      rw [if_neg hne]
      rfl
    · exact State.pushPort_flows hcan xs h hready hprimed hs hroom
  · intro u x n stopping quiet off sent o
    refine ⟨fun h => ?_, fun h hm => ?_, fun h hm => ?_, fun hst hm => ?_, fun h => ?_, fun k => ?_⟩
    · refine congrArg Host.Outcome.next (if_pos (.inr (.inr ?_)))
      exact h.imp_right fun ⟨hm, h⟩ => ⟨hm, h.imp_left Bool.eq_false_iff.1⟩
    · refine (exec_portFrameTransmit hup hp h).trans ?_
      dsimp only
      rw [State.nextTx_master _ hm, State.frameSent_quiet]
      rfl
    · intro met dried
      have hsent (r) (hr : x.tx.readFrame n u.eng.tick stopping = r) : o = .next (u.frameSent p r) :=
        (exec_portFrameTransmit hup hp h).trans (congrArg (fun r => Host.Outcome.next (u.frameSent p r))
          ((State.nextTx_queue _ hm).trans hr))
      have hquiet (q : List Int × PortDir) (hr : x.tx.readFrame n u.eng.tick stopping = ((q.1, false), q.2)) : o = sent u q :=
        (hsent _ hr).trans (congrArg Host.Outcome.next (u.frameSent_quiet p q))
      have hunder (q : List Int × PortDir) (hr : x.tx.readFrame n u.eng.tick stopping = ((q.1, true), q.2)) :
          o = sent (u.bump (A.APT_PORT_TX_UNDER p)) q :=
        (hsent _ hr).trans (congrArg Host.Outcome.next (u.frameSent_dry p q))
      obtain ⟨hidle, hstarved, hdry⟩ := x.tx.readFrame_cases n u.eng.tick stopping
      exact ⟨fun hp => hquiet _ (hidle hp), fun hp hs => hquiet _ (hstarved hp hs), fun hp hs hq => hunder _ (hdry hp hs hq),
        fun f rest hp hs hq => hquiet _ (PortDir.readFrame_flows n u.eng.tick stopping hp hs hq)⟩
    · refine congrArg Host.Outcome.next (if_neg ?_)
      rintro (h | h | h | h)
      exacts [hheld h, absurd hp (Nat.not_lt.mpr h), hm h, absurd hst (Nat.not_le.mpr h)]
    · exact congrArg Host.Outcome.next (if_pos (.inr (.inr h.symm)))
    · exact ⟨congrArg Host.Outcome.next (if_neg (up_or hup hp)), congrArg Host.Outcome.next (if_neg (up_or hup hp))⟩
  · exact congrArg Host.Outcome.next (if_neg (up_or hup hm))
  · refine congrArg Host.Outcome.next ((if_neg hheld).trans ?_)
    refine congrArg (forEach (List.range 32) _) (funext fun w => funext fun m => ?_)
    refine if_congr ?_ rfl (if_congr ?_ rfl rfl)
    · rw [bit_toNat, bit_toNat, Bool.not_eq_true]
    · rw [bit_toNat, bit_toNat, Bool.not_eq_true]
  · intro same
    refine ⟨fun h => ?_, fun h hm => ?_⟩
    · refine congrArg Host.Outcome.next ((if_neg hheld).trans (if_neg ?_))
      rintro ⟨hs, hm⟩
      exact h.elim hs hm
    · exact congrArg Host.Outcome.next ((if_neg hheld).trans (if_pos ⟨h, hm⟩))

end Sys2Proof.Machine
end

section
/-! PROOF. Ethernet frames, timestamps and RTP streams (R245 to R249, R308, R312 to R315, R398). -/

namespace Sys2Proof.Machine

open Sys2Proof.Arith

/-! ### A received frame (R245, R247, R313) -/

/-- The stream packet that a frame is for lane `l`, with the stream that takes it (R247). -/
def State.streamOf (u : State) (l : Nat) (bs : List Nat) : Option (Nat × Udp × RtpHead) :=
  match udpOf bs with
  | none => none
  | some d => (rtpOf d.data).bind (fun r =>
      ((List.range 64).find? (fun i => u.rtpMatches i l (etherHead bs).1 d r)).map (fun i => (i, d, r)))

theorem State.streamOf_none (u : State) (l : Nat) {bs : List Nat} (hudp : udpOf bs = none) : u.streamOf l bs = none := by
  simp only [State.streamOf, hudp]

theorem State.streamOf_some {u : State} {l i : Nat} {bs : List Nat} {d : Udp} {r : RtpHead} (hudp : udpOf bs = some d)
    (hrtp : rtpOf d.data = some r)
    (hfind : (List.range 64).find? (fun i => u.rtpMatches i l (etherHead bs).1 d r) = some i) :
    u.streamOf l bs = some (i, d, r) := by
  simp only [State.streamOf, hudp, hrtp, Option.bind_some, hfind, Option.map_some]

/-- What a frame that is no stream packet does: an IEEE 1588 message is timestamped, every other goes to the host (R313, R398). -/
def State.otherFrame (u : State) (l at_ : Nat) (bs : List Nat) : Option (List Nat) → State
  | some m =>
    let kind := beAt m 0 1 % 16
    let domain := beAt m 4 1
    let t := u.mainAt at_ - u.inLat l
    if ¬ bit (u.fget F.TIM_PTP_LANE_EN) l then u.frameToHost l t bs
    else
      let x : PtpStamp := { lane := l, tx := false, kind := kind, domain := domain, seq := beAt m 30 2,
                            ts0 := u.tsAt 0 at_ - u.inLat l, ts1 := u.tsAt 1 at_ - u.inLat l }
      let v := if ptpEvent kind then u.stamp x else u
      if (v.ptpTimescale domain).isSome ∧ v.fon F.TIM_CTRL_FW_SERVO then v else v.frameToHost l t bs
  | none => u.frameToHost l (u.mainAt at_ - u.inLat l) bs

/-- What a frame that the lane takes does. -/
def State.frameTaken (u : State) (l at_ : Nat) (bs : List Nat) : Option (Nat × Udp × RtpHead) → State
  | some (i, d, r) =>
    if d.sum ≠ 0 ∧ ¬ checksumOk d.covered then u.bump (A.LNP_ETH_DROP l)
    else u.rtpAccept i r.ts r.seq r.ssrc (Machine.rtpFrames (u.fget (F.RTP_RX_W0_FORMAT i)) (u.fget (F.RTP_RX_W0_CHANNELS i) + 1) r.payload)
  | none => u.otherFrame l at_ bs (ptpOf bs)

theorem State.frameTaken_stream (u : State) (l at_ : Nat) (bs : List Nat) (i : Nat) (d : Udp) (r : RtpHead) :
    u.frameTaken l at_ bs (some (i, d, r)) =
      if d.sum ≠ 0 ∧ ¬ checksumOk d.covered = true then u.bump (A.LNP_ETH_DROP l)
      else u.rtpAccept i r.ts r.seq r.ssrc
        (Machine.rtpFrames (u.fget (F.RTP_RX_W0_FORMAT i)) (u.fget (F.RTP_RX_W0_CHANNELS i) + 1) r.payload) := rfl

/-- A frame at a lane that is up: its FCS, its length, its address, then its contents. -/
theorem exec_ethFrameReceived {s : State} {l : Nat} (bytes : List Nat) (at_ : Nat) (hl : l < 8) (hth : s.thetex (l / 2) = false)
    (hup : s.held .lnk = false) (hlane : s.fon (F.LNP_STAT_LANE_UP l) = true) :
    let n := bytes.length
    let bs := bytes.take (n - 4)
    let good := decide (4 ≤ n) && decide (fcs bs = leNat (bytes.drop (n - 4)))
    let sized := decide (64 ≤ n) && decide (n ≤ 1522)
    let s₁ := if good then s else s.bump (A.LNP_ETH_FCS l)
    let s₂ := if sized then s₁ else s₁.bump (A.LNP_ETH_DROP l)
    let u := s₂.bump (A.LNP_ETH_RXF l)
    exec (.ethFrameReceived l bytes at_) s = .next (
      if ¬ good ∨ ¬ sized ∨ ¬ s₂.macTakes l (beAt bs 0 6) then s₂ else u.frameTaken l at_ bs (u.streamOf l bs)) := by
  refine congrArg Host.Outcome.next ((if_neg ?_).trans ?_)
  · rintro (h | h | h | h)
    exacts [State.not_held hup h, absurd hl (Nat.not_lt.mpr h), Bool.false_ne_true (hth.symm.trans h), h hlane]
  · dsimp only
    refine if_congr Iff.rfl rfl ?_
    unfold State.frameTaken State.streamOf State.otherFrame
    rfl

/-- What a good frame of a legal length does: it counts where the lane's address takes it, and nothing where it does not. -/
theorem exec_ethFrameReceived_good {s : State} {l : Nat} (bytes : List Nat) (at_ : Nat) (hl : l < 8) (hth : s.thetex (l / 2) = false)
    (hup : s.held .lnk = false) (hlane : s.fon (F.LNP_STAT_LANE_UP l) = true)
    (hgood : 4 ≤ bytes.length ∧ fcs (bytes.take (bytes.length - 4)) = leNat (bytes.drop (bytes.length - 4)))
    (hsized : 64 ≤ bytes.length ∧ bytes.length ≤ 1522) :
    let bs := bytes.take (bytes.length - 4)
    let u := s.bump (A.LNP_ETH_RXF l)
    exec (.ethFrameReceived l bytes at_) s = .next (
      if s.macTakes l (beAt bs 0 6) = true then u.frameTaken l at_ bs (u.streamOf l bs) else s) := by
  intro bs u
  have hexec := exec_ethFrameReceived bytes at_ hl hth hup hlane
  have hg : (decide (4 ≤ bytes.length) && decide (fcs (bytes.take (bytes.length - 4)) = leNat (bytes.drop (bytes.length - 4)))) = true :=
    Bool.and_eq_true_iff.2 ⟨decide_eq_true hgood.1, decide_eq_true hgood.2⟩
  have hz : (decide (64 ≤ bytes.length) && decide (bytes.length ≤ 1522)) = true :=
    Bool.and_eq_true_iff.2 ⟨decide_eq_true hsized.1, decide_eq_true hsized.2⟩
  dsimp only at hexec
  rw [hg, hz, if_pos rfl, if_pos rfl] at hexec
  rw [hexec]
  by_cases hm : s.macTakes l (beAt bs 0 6) = true
  · rw [if_pos hm, if_neg]
    rintro (h | h | h)
    exacts [h rfl, h rfl, h hm]
  · rw [if_neg hm, if_pos (.inr (.inr hm))]

/-- A frame whose FCS or length is wrong is counted and goes nowhere. -/
theorem exec_ethFrameReceived_bad {s : State} {l : Nat} (bytes : List Nat) (at_ : Nat) (hl : l < 8) (hth : s.thetex (l / 2) = false)
    (hup : s.held .lnk = false) (hlane : s.fon (F.LNP_STAT_LANE_UP l) = true) :
    let good := 4 ≤ bytes.length ∧ fcs (bytes.take (bytes.length - 4)) = leNat (bytes.drop (bytes.length - 4))
    let sized := 64 ≤ bytes.length ∧ bytes.length ≤ 1522
    (¬ good → sized → exec (.ethFrameReceived l bytes at_) s = .next (s.bump (A.LNP_ETH_FCS l))) ∧
    (good → ¬ sized → exec (.ethFrameReceived l bytes at_) s = .next (s.bump (A.LNP_ETH_DROP l))) := by
  intro good sized
  have hexec := exec_ethFrameReceived bytes at_ hl hth hup hlane
  have hg : (decide (4 ≤ bytes.length) && decide (fcs (bytes.take (bytes.length - 4)) = leNat (bytes.drop (bytes.length - 4)))) = decide good :=
    (Bool.decide_and _ _).symm
  have hz : (decide (64 ≤ bytes.length) && decide (bytes.length ≤ 1522)) = decide sized := (Bool.decide_and _ _).symm
  dsimp only at hexec
  rw [hg, hz] at hexec
  rw [hexec]
  refine ⟨fun h hs => ?_, fun h hs => ?_⟩
  · rw [decide_eq_false h, decide_eq_true hs, if_pos rfl, if_neg Bool.false_ne_true, if_pos (.inl Bool.false_ne_true)]
  · rw [decide_eq_true h, decide_eq_false hs, if_neg Bool.false_ne_true, if_pos rfl, if_pos (.inr (.inl Bool.false_ne_true))]

/-! ### Event messages and frame sends -/

/-- What an entry that was read does, by its checks in order and its KIND (R398). -/
def State.entrySent (u : State) (bs : List Nat) (e : SendEntry) (at_ : Nat) : State :=
  if ¬ sendOk bs then u.frameDone e 0xB02 0
  else if e.kind = 3 then
    (if u.thetex e.place = false ∨ (u.portRole e.place = 0 ∧ bit e.xflags 4) then u.frameDone e 0xB02 0
     else if e.launch = 0 then (if e.report then (u.queueBulk e.place e).frameDone e 0 ((u.queueBulk e.place e).mainAt at_) else u.queueBulk e.place e)
     else if ¬ u.mainSet then u.frameDone e 0xC03 0
     else { u with tim := { u.tim with sched := Tbl.set u.tim.sched [] e.place (insertTimed e (Tbl.get u.tim.sched [] e.place)) } })
  else if u.thetex (e.place / 2) = true then u.frameDone e 0xB02 0
  else if e.kind = 1 then u.sendFrame e at_
  else if ¬ u.mainSet then u.frameDone e 0xC03 0
  else if 32 ≤ (Tbl.get u.tim.timed [] e.place).length then u.frameDone e 0xC02 0
  else { u with tim := { u.tim with timed := Tbl.set u.tim.timed [] e.place (insertTimed e (Tbl.get u.tim.timed [] e.place)) } }

/-- An entry is consumed; what cannot be read completes so. -/
theorem exec_frameSend {s : State} (ok : Bool) (at_ : Nat) (hup : s.held .hif = false) (hring : s.ringHasEntry 5 = true)
    (hback : s.backlogged = false) :
    let bs := bytesAt s.host (s.ringAddr 5 (s.ringEng 5)) 2048
    let e := parseSend bs (s.ringEng 5)
    let u := s.consumed 5
    exec (.frameSend ok at_) s = .next (if ¬ ok then u.frameDone e 0xB03 0 else u.entrySent bs e at_) := by
  refine congrArg Host.Outcome.next (if_neg ?_)
  rintro (h | h | h)
  exacts [State.not_held hup h, h hring, Bool.false_ne_true (hback.symm.trans h)]

/-- A servo's offset is a measurement of the timescale that tracks its domain (R312). -/
def State.servoOffset (v : State) : Option Nat → Option Int → State
  | some n, some o => if v.tsSource n = 2 then v.fwServo n o else v
  | _, _ => v

theorem State.servoOffset_none (v : State) (n : Option Nat) : v.servoOffset n none = v := by cases n <;> rfl

/-- Settles O44: a frame by its checks in order; a send entry by its KIND; a timed frame by the time. -/
theorem ethernetFramesAndTimestamps : Obligations.EthernetFramesAndTimestamps := by
  unfold Obligations.EthernetFramesAndTimestamps
  intro s l at_ hl hth hup
  have hheld := State.not_held hup
  refine ⟨fun bytes hlane => ?_, fun tx kind domain seq hclk hen hev => ?_, fun hhif hring hback => ?_, fun e rest hclk hq => ?_,
    fun hq => ?_, fun e => ?_⟩
  · intro n bs good sized o u t
    obtain ⟨hfcs, hsize⟩ := exec_ethFrameReceived_bad bytes at_ hl hth hup hlane
    have hok (hg : good) (hs : sized) : o = .next (if s.macTakes l (beAt bs 0 6) = true then u.frameTaken l at_ bs (u.streamOf l bs) else s) :=
      exec_ethFrameReceived_good bytes at_ hl hth hup hlane hg hs
    refine ⟨hfcs, hsize, fun hg hs hm => ?_, fun hg hs hm hudp hptp => ?_, fun d r i hg hs hm hudp hrtp hfind => ?_⟩
    · rw [hok hg hs, if_neg (Bool.eq_false_iff.1 hm)]
    · rw [hok hg hs, if_pos hm, u.streamOf_none l hudp]
      simp only [State.frameTaken, hptp]
      rfl
    · rw [hok hg hs, if_pos hm, State.streamOf_some hudp hrtp hfind, State.frameTaken_stream]
      refine ⟨fun hsum hck => ?_, fun h => ?_⟩
      · rw [if_pos ⟨hsum, Bool.eq_false_iff.1 hck⟩]
      · rw [if_neg fun hx => h.elim hx.1 hx.2]
  · intro lat u v
    have hexec (o : Option Int) : exec (.ptpEventMessage l tx kind domain seq at_ o) s =
        .next (v.servoOffset (v.ptpTimescale domain) o) := by
      refine congrArg Host.Outcome.next ((if_neg ?_).trans ?_)
      · rintro (h | h | h | h | h | h)
        exacts [hheld h, State.not_held hclk h, absurd hl (Nat.not_lt.mpr h), Bool.false_ne_true (hth.symm.trans h), h hen, h hev]
      · rfl
    refine ⟨(hexec none).trans (congrArg Host.Outcome.next (v.servoOffset_none _)), fun n o hn hsrc => ?_⟩
    rw [hexec, hn]
    exact congrArg Host.Outcome.next (if_pos hsrc)
  · intro bs e u o
    have hread : o true = .next (u.entrySent bs e at_) :=
      (exec_frameSend true at_ hhif hring hback).trans (congrArg Host.Outcome.next (if_neg (not_not.mpr rfl)))
    refine ⟨?_, fun hbad => ?_, fun hok hk hth => ?_, ⟨fun hok hk h => ?_, fun hok hk hth hno hl hr => ?_⟩, fun hok hk hth => ?_⟩
    · exact (exec_frameSend false at_ hhif hring hback).trans (congrArg Host.Outcome.next (if_pos Bool.false_ne_true))
    all_goals rw [hread]
    · exact congrArg Host.Outcome.next (if_pos (Bool.eq_false_iff.1 hbad))
    · exact congrArg Host.Outcome.next ((if_neg (not_not.mpr hok)).trans ((if_neg (by omega)).trans
        ((if_neg (Bool.eq_false_iff.1 hth)).trans (if_pos hk))))
    · exact congrArg Host.Outcome.next ((if_neg (not_not.mpr hok)).trans ((if_pos hk).trans (if_pos h)))
    · refine congrArg Host.Outcome.next ((if_neg (not_not.mpr hok)).trans ((if_pos hk).trans ((if_neg ?_).trans
        ((if_pos hl).trans (if_neg (Bool.eq_false_iff.1 hr))))))
      exact fun h => h.elim (fun h => Bool.false_ne_true (h.symm.trans hth)) hno
    · intro q
      have hkind : u.entrySent bs e at_ = if ¬ u.mainSet then u.frameDone e 0xC03 0
          else if 32 ≤ q.length then u.frameDone e 0xC02 0
          else { u with tim := { u.tim with timed := Tbl.set u.tim.timed [] e.place (insertTimed e q) } } :=
        (if_neg (not_not.mpr hok)).trans ((if_neg (by omega)).trans ((if_neg (Bool.eq_false_iff.1 hth)).trans (if_neg (by omega))))
      rw [hkind]
      refine ⟨fun hm => ?_, fun hm hq => ?_, fun hm hq => ?_⟩
      · rw [if_pos (Bool.eq_false_iff.1 hm)]
      · rw [if_neg (not_not.mpr hm), if_pos hq]
      · rw [if_neg (not_not.mpr hm), if_neg (Nat.not_le.mpr hq)]
  · intro now due u late
    have hguard : ¬ (s.held .lnk = true ∨ s.held .clk = true ∨ 8 ≤ l) := by
      rintro (h | h | h)
      exacts [hheld h, State.not_held hclk h, absurd hl (Nat.not_lt.mpr h)]
    have hexec : exec (.timedFrameLaunch l at_) s = .next (if now < due then s
        else if late < now then (u.bump A.TIM_LAUNCH_LATE).frameDone e 0xC01 0 else u.sendFrame { e with report := true } at_) := by
      refine congrArg Host.Outcome.next ((if_neg hguard).trans ?_)
      simp only [hq]
      rfl
    refine ⟨fun h => ?_, fun h hlate => ?_, fun h hlate => ?_⟩
    · rw [hexec, if_pos h]
    · rw [hexec, if_neg (Int.not_lt.mpr h), if_pos hlate]
    · rw [hexec, if_neg (Int.not_lt.mpr h), if_neg (Int.not_lt.mpr hlate)]
  · refine congrArg Host.Outcome.next ?_
    simp only [hq, ite_self]
  · intro u v
    exact ⟨fun h => if_pos h, fun h => if_neg (Bool.eq_false_iff.1 h)⟩

end Sys2Proof.Machine
end

section
/-! PROOF. RTP streams and the writes of their entries (R246 to R249). -/

namespace Sys2Proof.Machine

open Sys2Proof.Arith

/-- What a stream's complete packets do: the oldest leaves in the tick after its last sample, or is withheld (R248, R327). -/
def State.launchReady (s : State) (i : Nat) : List (Nat × Nat × List (List Int)) → State
  | [] => s
  | (ts, t, frames) :: rest =>
    let x := s.txStream i
    if s.eng.tick ≤ t then s
    else if s.withholds t then s.setTxStream i { x with ready := rest }
    else
      let lanes := rtpLanes (s.fget (F.RTP_TX_W0_PORT i)) (s.fget (F.RTP_TX_W0_LANES i))
      let payload := frames.flatMap (fun f => f.flatMap (rtpFromA32 (s.fget (F.RTP_TX_W0_FORMAT i))))
      let u := s.setTxStream i { x with
        ready := rest, seq := (x.seq + 1) % 65536, sent := some (s.fget (F.RTP_TX_W0_LANES i), x.seq, ts, payload) }
      forEach lanes (u.count (F.RTP_TX_W8_PKTS i) 1) (fun v l =>
        if v.transmits l ∧ ¬ v.thetex (l / 2) then
          let a := v.draw 16
          let b := a.2.draw 1
          let c := b.2.draw 1
          (c.2.emitFrame l (c.2.rtpFrame i l x.seq ts payload a.1 b.1 c.1)).bump (A.LNP_ETH_TXF l)
        else v)

theorem State.launchRtp_eq (s : State) (i : Nat) : s.launchRtp i = s.launchReady i (s.txStream i).ready := by
  unfold State.launchRtp State.launchReady
  rfl

/-- Settles O45: the refill by its condition, the launch by the packet's tick, each entry write by EN. -/
theorem rtpStreamsRefillAndLaunchPackets : Obligations.RtpStreamsRefillAndLaunchPackets := by
  unfold Obligations.RtpStreamsRefillAndLaunchPackets
  intro s i hup hi x y rxOff txOff lanes flushed
  have hheld := State.not_held hup
  have hentry {k : Nat} (hk : k < 16) : ¬ (s.held .lnk = true ∨ 64 ≤ i ∨ 16 ≤ k) := by
    rintro (h | h | h)
    exacts [hheld h, absurd hi (Nat.not_lt.mpr h), absurd hk (Nat.not_lt.mpr h)]
  have hlaunch : exec (.rtpPacketLaunch i) s = flushed (s.launchReady i y.ready) :=
    congrArg Host.Outcome.next ((if_neg (up_or hup hi)).trans (congrArg (fun u => forEach lanes u fun v l => v.flushWait l) (s.launchRtp_eq i)))
  have hlocked {k : Nat} {old v : W32} (h : k ≠ 0 ∨ clearsEn old v = false) : ¬ (k = 0 ∧ clearsEn old v = true) :=
    fun ⟨hk, hc⟩ => h.elim (fun h => h hk) (fun h => Bool.false_ne_true (h.symm.trans hc))
  refine ⟨?_, fun ts t frames rest hy => ?_, fun hy => ?_, fun l h => if_pos h, fun k v hk hk' => ?_, fun k v hk hen h => ?_,
    fun k v hk hen => ?_, fun k v hk hk' => ?_, fun k v hk hen h => ?_, fun k v hk hen => ?_⟩
  · intro full
    exact ⟨fun h => congrArg Host.Outcome.next ((if_neg (up_or hup hi)).trans (if_pos h)),
      fun h => congrArg Host.Outcome.next ((if_neg (up_or hup hi)).trans (if_neg h))⟩
  · intro payload u
    rw [hlaunch, hy]
    refine ⟨fun h => ?_, fun h hw => ?_, fun h hw => ?_⟩
    · exact congrArg flushed (if_pos h)
    · exact congrArg flushed ((if_neg (Nat.not_le.mpr h)).trans (if_pos hw))
    · refine congrArg flushed ((if_neg (Nat.not_le.mpr h)).trans ((if_neg (Bool.eq_false_iff.1 hw)).trans ?_))
      refine congrArg (forEach lanes _) (funext fun v => funext fun l => ?_)
      exact if_congr (and_congr_right fun _ => Bool.eq_false_iff.symm) rfl rfl
  · rw [hlaunch, hy]
    rfl
  · exact congrArg Host.Outcome.next ((if_neg (hentry hk')).trans (if_pos (by omega)))
  · exact congrArg Host.Outcome.next ((if_neg (hentry (by omega))).trans ((if_neg (by omega)).trans
      ((if_pos hen).trans (if_neg (hlocked h)))))
  · intro t hbreak
    let bad := t.fon (F.RTP_RX_W0_EN i) = true ∧ (t.fget (F.RTP_RX_W0_LANES i) = 0 ∨ t.fget (F.RTP_RX_W1_DEPTH i) < 48 ∨
      960 < t.fget (F.RTP_RX_W1_DEPTH i))
    have hwrite (hgood : ¬ bad) : exec (.rtpRxEntryWrite i k v) s =
        .next (if t.fon (F.RTP_RX_W0_EN i) = true then t.setRxStream i {} else t) :=
      congrArg Host.Outcome.next ((if_neg (hentry (by omega))).trans ((if_neg (by omega)).trans
        ((if_neg (Bool.eq_false_iff.1 hen)).trans
          (if_neg fun h => h.elim hgood fun h => Bool.false_ne_true (hbreak.symm.trans h)))))
    refine ⟨fun hoff => ?_, fun hon hl hlo hhi => ?_⟩
    · rw [hwrite fun h => Bool.false_ne_true (hoff.symm.trans h.1), if_neg (Bool.eq_false_iff.1 hoff)]
    · rw [hwrite fun h => h.2.elim hl fun h => h.elim (Nat.not_lt.mpr hlo) (Nat.not_lt.mpr hhi), if_pos hon]
  · exact congrArg Host.Outcome.next ((if_neg (hentry hk')).trans (if_pos (by omega)))
  · exact congrArg Host.Outcome.next ((if_neg (hentry (by omega))).trans ((if_neg (by omega)).trans
      ((if_pos hen).trans (if_neg (hlocked h)))))
  · intro t hbreak hoff
    have hno : ¬ t.fon (F.RTP_TX_W0_EN i) = true := Bool.eq_false_iff.1 hoff
    exact congrArg Host.Outcome.next ((if_neg (hentry (by omega))).trans ((if_neg (by omega)).trans
      ((if_neg (Bool.eq_false_iff.1 hen)).trans
        ((if_neg fun h => h.elim (fun h => hno h.1) fun h => Bool.false_ne_true (hbreak.symm.trans h)).trans (if_neg hno)))))

end Sys2Proof.Machine
end

section
/-! PROOF. Link management (R255, R283 to R285). -/

namespace Sys2Proof.Machine

open Sys2Proof.Arith

/-- An operation without authentication acts at once. -/
theorem State.mgmtRun_open (u : State) (t : Taken) (enabled : Bool) (act : State → Nat × Nat × State) :
    u.mgmtRun t false enabled act = (act u).2.2.respond t false (act u).1 (act u).2.1 := rfl

/-- R284: an authenticated operation acts where its checks pass, and answers with the first that fails. -/
theorem State.mgmtRun_checked (u : State) (t : Taken) (enabled : Bool) (act : State → Nat × Nat × State) :
    let st := u.authStatus t.sect enabled
    let r := act (u.keepNonce t.sect.nonce)
    (st = 0 → u.mgmtRun t true enabled act = r.2.2.respond t true r.1 r.2.1) ∧
    (st = 1 → u.mgmtRun t true enabled act = (u.authFailed t).respond t true 1 0) ∧
    (1 < st → u.mgmtRun t true enabled act = u.respond t true st 0) := by
  intro st r
  have hrun : u.mgmtRun t true enabled act =
      if st ≠ 0 then (if st = 1 then u.authFailed t else u).respond t true st 0 else r.2.2.respond t true r.1 r.2.1 := rfl
  rw [hrun]
  refine ⟨fun h => if_neg (not_not.mpr h), fun h => ?_, fun h => ?_⟩
  · rw [if_pos (by omega), if_pos h, h]
  · rw [if_pos (by omega), if_neg (by omega)]

/-- Settles O46: each operation by what it takes; the checks in R284's order. -/
theorem managementOperationsActAndAnswer : Obligations.ManagementOperationsActAndAnswer := by
  unfold Obligations.ManagementOperationsActAndAnswer
  intro s hup
  have hheld := State.not_held hup
  refine ⟨fun op i hi hnone => ?_, fun t u ht => ?_, fun t u ht hauth => ?_, fun t u ht => ?_, fun t u ht => ?_, fun t u ht => ?_,
    fun t u ht => ?_, fun x on => ?_⟩
  · simp only [List.mem_cons, Prod.mk.injEq, List.not_mem_nil, or_false] at hi
    rcases hi with ⟨rfl, rfl⟩ | ⟨rfl, rfl⟩ | ⟨rfl, rfl⟩ | ⟨rfl, rfl⟩ | ⟨rfl, rfl⟩ | ⟨rfl, rfl⟩
    all_goals
      refine congrArg Host.Outcome.next ((if_neg hheld).trans ?_)
      simp only [hnone]
  · intro mine
    have hmine : mine ↔ ¬ (s.assigned = true ∨ ¬ s.fon F.LNK_MGMT_ASSIGN_EN = true ∨
        t.sect.arg 0 + t.sect.arg 1 * 2 ^ 32 ≠ Config.uid.toNat) := by
      rw [not_or, not_or, not_not, not_not, Bool.not_eq_true]
    have hexec : exec .mgmtAssign s = .next (if s.assigned = true ∨ ¬ s.fon F.LNK_MGMT_ASSIGN_EN = true ∨
        t.sect.arg 0 + t.sect.arg 1 * 2 ^ 32 ≠ Config.uid.toNat then u else u.setAddr (t.sect.arg 2 % 2 ^ 14)) := by
      refine congrArg Host.Outcome.next ((if_neg hheld).trans ?_)
      simp only [ht]
    rw [hexec]
    exact ⟨fun h => congrArg Host.Outcome.next (if_neg (hmine.1 h)),
      fun h => congrArg Host.Outcome.next (if_pos (not_not.mp (mt hmine.2 h)))⟩
  · intro r
    refine congrArg Host.Outcome.next ((if_neg hheld).trans ?_)
    simp only [ht, hauth]
    exact State.mgmtRun_open u t true _
  · intro st v w
    have hexec : exec .mgmtWrite s = .next (u.mgmtRun t true true fun s =>
        let u := s.busWrite (mgmtAccess (t.sect.arg 0)) (BitVec.ofNat 32 (t.sect.arg 1))
        (if u.reply.abort then 5 else 0, 0, { u with reply := s.reply })) := by
      refine congrArg Host.Outcome.next ((if_neg hheld).trans ?_)
      simp only [ht]
    obtain ⟨hact, hmac, hfail⟩ := u.mgmtRun_checked t true fun s =>
        let u := s.busWrite (mgmtAccess (t.sect.arg 0)) (BitVec.ofNat 32 (t.sect.arg 1))
        (if u.reply.abort then 5 else 0, 0, { u with reply := s.reply })
    rw [hexec]
    exact ⟨fun h => congrArg Host.Outcome.next (hact h), fun h => congrArg Host.Outcome.next (hmac h),
      fun h => congrArg Host.Outcome.next (hfail h)⟩
  · intro st
    have hexec : exec .mgmtReset s =
        .next (u.mgmtRun t true (s.fon F.LNK_MGMT_RESET_EN) fun s => (0, 0, s.askReset 9 0xC8)) := by
      refine congrArg Host.Outcome.next ((if_neg hheld).trans ?_)
      simp only [ht]
    obtain ⟨hact, hmac, hfail⟩ := u.mgmtRun_checked t (s.fon F.LNK_MGMT_RESET_EN) fun s => (0, 0, s.askReset 9 0xC8)
    rw [hexec]
    exact ⟨fun h => congrArg Host.Outcome.next (hact h), fun h => congrArg Host.Outcome.next (hmac h),
      fun h => congrArg Host.Outcome.next (hfail h)⟩
  · refine congrArg Host.Outcome.next ((if_neg hheld).trans ?_)
    simp only [ht]
    rfl
  · refine congrArg Host.Outcome.next ((if_neg hheld).trans ?_)
    simp only [ht]
  · intro late seen
    have hlate : (¬ s.mainSet = true ∨ 2 < (sdiff s.todSeconds (x.field 4 4)).natAbs) ↔ late :=
      or_congr_left (Bool.not_eq_true _ ▸ Iff.rfl)
    have hseen : s.recentNonces.any (fun n => decide (n.1 = x.nonce)) = true ↔ seen := by
      simp only [List.any_eq_true, decide_eq_true_eq, seen]
    refine ⟨fun hm => if_pos (Bool.eq_false_iff.1 hm), fun hm hl => ?_, fun hm hl hs => ?_, fun hm hl hs hon => ?_⟩
    · exact (if_neg (not_not.mpr hm)).trans (if_pos (hlate.2 hl))
    · exact (if_neg (not_not.mpr hm)).trans ((if_neg (mt hlate.1 hl)).trans (if_pos (hseen.2 hs)))
    · exact (if_neg (not_not.mpr hm)).trans ((if_neg (mt hlate.1 hl)).trans
        ((if_neg (mt hseen.1 hs)).trans (if_pos (Bool.eq_false_iff.1 hon))))

end Sys2Proof.Machine
end

section
/-! PROOF. Pairs: Crickets, failures and handback; the egress hash and mirrored records (R322 to R344). -/

namespace Sys2Proof.Machine

open Sys2Proof.Arith

/-! ### The pair's states -/

/-- What a Cricket that was taken does: a copy or a stranger's nothing, one in time ends the misses (R322, R324). -/
def State.cricketTaken (u : State) (t : Taken) : State :=
  if ¬ u.paired ∨ ¬ u.fromPartner 4 t ∨ u.pair.lastSeq = some t.sect.seq then u
  else
    let tick := leNat ((t.sect.payload.drop 8).take 4)
    let intime := decide (tick % 12 = 0) && decide (sdiff u.scnt tick < 12)
    (u.setPair { u.pair with lastSeq := some t.sect.seq,
                             came := if intime then (tick :: u.pair.came).take 8 else u.pair.came,
                             misses := if intime then 0 else u.pair.misses }).onCricket
      (t.sect.payload.getD 1 0) (leNat ((t.sect.payload.drop 2).take 2))

theorem exec_cricketReceived {s u : State} {t : Taken} (hup : s.held .lnk = false)
    (ht : s.takeFirst (fun t => decide (t.sect.type = 4)) = some (t, u)) : exec .cricketReceived s = .next (u.cricketTaken t) := by
  refine congrArg Host.Outcome.next ((if_neg (State.not_held hup)).trans ?_)
  simp only [ht]
  rfl

/-- Settles O47: each event by its guard, in the words of R322's table. -/
theorem pairsFollowTheirStateTable : Obligations.PairsFollowTheirStateTable := by
  unfold Obligations.PairsFollowTheirStateTable
  intro s hup st leader
  have hheld := State.not_held hup
  refine ⟨fun hnone => ?_, fun t u ht => ⟨fun h => ?_, fun hp hf hseq => ?_⟩, ?_, ?_, fun hst hr he hc => ?_, fun h => ?_,
    fun heng hst hauto hcalm hwhy hrec => ?_, fun h => ?_, ?_, fun heng hst => ?_, fun h => ?_, fun hst hl => ?_, fun h => ?_,
    fun hst hc => ?_, fun hst ht => ?_, fun h => ?_⟩
  · refine congrArg Host.Outcome.next ((if_neg hheld).trans ?_)
    simp only [hnone]
  · refine (exec_cricketReceived hup ht).trans (congrArg Host.Outcome.next (if_pos ?_))
    exact h.imp Bool.eq_false_iff.1 (Or.imp_left Bool.eq_false_iff.1)
  · intro tick cricket noted
    have hfresh : ¬ (¬ u.paired = true ∨ ¬ u.fromPartner 4 t = true ∨ u.pair.lastSeq = some t.sect.seq) := by
      rintro (h | h | h)
      exacts [h hp, h hf, hseq h]
    have htaken := exec_cricketReceived hup ht
    rw [State.cricketTaken, if_neg hfresh] at htaken
    dsimp only at htaken
    refine ⟨fun h12 hd => ?_, fun h => ?_⟩
    · have hin : (decide (tick % 12 = 0) && decide (sdiff u.scnt tick < 12)) = true :=
        Bool.and_eq_true_iff.2 ⟨decide_eq_true h12, decide_eq_true hd⟩
      rw [hin, if_pos rfl, if_pos rfl] at htaken
      exact htaken
    · have hin : (decide (tick % 12 = 0) && decide (sdiff u.scnt tick < 12)) = false := by
        rw [← Bool.decide_and]
        exact decide_eq_false fun hx => h.elim (fun h => h hx.1) (fun h => absurd hx.2 (Int.not_lt.mpr h))
      rw [hin, if_neg Bool.false_ne_true, if_neg Bool.false_ne_true] at htaken
      exact htaken
  · intro t u
    refine ⟨fun hp h12 hcame => ?_, fun h => ?_⟩
    · have hexec : exec .cricketMissed s = .next (if s.pair.misses + 1 = 3 then u.declareFailed 0 else u) := by
        refine congrArg Host.Outcome.next (if_neg ?_)
        rintro (h | h | h | h)
        exacts [hheld h, h hp, h h12, hcame (List.contains_iff_mem.1 h)]
      exact ⟨fun h => by rw [hexec, if_pos (by omega)], fun h => by rw [hexec, if_neg (by omega)]⟩
    · refine congrArg Host.Outcome.next (if_pos (.inr ?_))
      exact h.imp Bool.eq_false_iff.1 (Or.imp_right List.contains_iff_mem.2)
  · exact congrArg Host.Outcome.next (if_neg hheld)
  · refine congrArg Host.Outcome.next (if_neg ?_)
    rintro (h | h | h | h | h)
    exacts [hheld h, h hst, h hr, absurd he (Nat.not_le.mpr h), absurd hc (Nat.not_le.mpr h)]
  · refine congrArg Host.Outcome.next (if_pos (.inr ?_))
    exact h.imp_right fun h => .inl h
  · refine congrArg Host.Outcome.next (if_neg ?_)
    rintro (h | h | h | h | h | h | h)
    exacts [hheld h, State.not_held heng h, h hst, h hauto, absurd hcalm (Nat.not_le.mpr h), absurd hrec (Nat.not_lt.mpr h), hwhy h]
  · exact congrArg Host.Outcome.next (if_pos (.inr (.inr (.inr (.inl (Bool.eq_false_iff.1 h))))))
  · exact congrArg Host.Outcome.next (if_neg hheld)
  · refine congrArg Host.Outcome.next (if_neg ?_)
    rintro (h | h | h)
    exacts [hheld h, State.not_held heng h, h hst]
  · exact congrArg Host.Outcome.next (if_pos (.inr (.inr h)))
  · refine congrArg Host.Outcome.next (if_neg ?_)
    rintro (h | h | h)
    exacts [hheld h, h hst, h hl]
  · exact congrArg Host.Outcome.next (if_pos (.inr (h.imp_right Bool.eq_false_iff.1)))
  · have hgo : ¬ (s.held .lnk = true ∨ s.pairState ≠ 3 ∨ s.scnt % 12 ≠ 0) := by
      rintro (h | h | h)
      exacts [hheld h, h hst, h hc]
    refine ⟨fun hl hh => ?_, fun hl hh => ?_, fun hl => ?_⟩
    · exact congrArg Host.Outcome.next ((if_neg hgo).trans ((if_pos hl).trans (if_pos hh)))
    · exact congrArg Host.Outcome.next ((if_neg hgo).trans ((if_pos hl).trans (if_neg (Bool.eq_false_iff.1 hh))))
    · exact congrArg Host.Outcome.next ((if_neg hgo).trans (if_neg (Bool.eq_false_iff.1 hl)))
  · refine congrArg Host.Outcome.next (if_neg ?_)
    rintro (h | h | h)
    exacts [hheld h, h hst, absurd ht (Nat.not_le.mpr h)]
  · exact congrArg Host.Outcome.next (if_pos (.inr (.inl h)))

end Sys2Proof.Machine
end

section
/-! PROOF. The egress hash and mirrored records of a pair (R329 to R334, R338, R343). -/

namespace Sys2Proof.Machine

open Sys2Proof.Arith

/-- What a compared tick does, from this device's hash and the partner's (R329, R330, R338, R343). -/
def State.hashJudged (u : State) (t : Nat) (own heard : Option Nat) : State :=
  match own with
  | none => u
  | some own =>
    match heard with
    | none => (u.setPair { u.pair with run := 0 }).bump A.RED_HASH_MISS
    | some h =>
      if u.pairState = 2 then
        (if h ≠ own then u.setPair { u.pair with run := 0 }
         else
           let run := u.pair.run + 1
           if max 1 (u.fget F.RED_TIMING_JOIN_RUN) ≤ run then (u.setPairState 3).settleDriving
           else u.setPair { u.pair with run := run })
      else if h = own then u
      else if u.pair.faults % 2 = 1 then u.declareFailed 1
      else if u.fget F.RED_STAT_PSTATE = 2 then u
      else (((u.fset F.RED_STAT_PAIR_DIVERGE 1).bump A.RED_DIVERGE_CNT).record 0x602 0 [t]).toJoin

/-- A member that mirrors compares a tick once. -/
theorem exec_hashCompare {s : State} (hup : s.held .lnk = false) (hmir : s.mirrors = true)
    (hnew : s.pair.judged ≠ some ((s.scnt + 2 ^ 32 - s.hlat) % 2 ^ 32)) :
    let t := (s.scnt + 2 ^ 32 - s.hlat) % 2 ^ 32
    let u := s.takeMirror.setPair { s.takeMirror.pair with judged := some t }
    exec .hashCompare s =
      .next (u.hashJudged t (u.hashOf t) ((u.pair.hashes.find? (fun h => decide (h.1 = t))).map (·.2))) := by
  refine congrArg Host.Outcome.next ((if_neg ?_).trans ?_)
  · rintro (h | h | h)
    exacts [State.not_held hup h, h hmir, hnew h]
  · unfold State.hashJudged
    rfl

/-- The words of a region that all lie in it are all sent. -/
theorem filterMap_inRegion {α : Type} {first count size : Nat} (f : Nat → α) (h : 2 * first + count ≤ size) :
    (List.range count).filterMap (fun i => if 2 * first + i < size then some (f i) else none) = (List.range count).map f := by
  rw [← List.filterMap_eq_map]
  refine List.filterMap_congr fun i hi => if_pos ?_
  have := List.mem_range.1 hi
  omega

/-- What the words of a region record do at the task of this device, if it has it (R338). -/
def State.regionTaken (v : State) (r : MirrorRec) : Option Task → State
  | none => v
  | some t =>
    if v.pairState ≠ 2 then v
    else forEach (r.words.drop 1).zipIdx v (fun w x =>
      if 2 * r.words.headD 0 + x.2 < t.size then
        w.setLocal (r.target % 32) (t.base + 2 * r.words.headD 0 + x.2) (BitVec.ofNat 32 x.1) else w)

/-- A follower takes the oldest region record that came. -/
theorem exec_regionRecord_follower {s : State} (core task first count : Nat) {u : Nat} {r : MirrorRec} (hup : s.held .lnk = false)
    (heng : s.held .eng = false) (hl : s.mirrorLeader = false)
    (hfind : s.takeMirror.pair.incoming.find? (fun r => decide (r.2.kind = 6)) = some (u, r)) :
    let v := s.takeMirror.setPair { s.takeMirror.pair with incoming := s.takeMirror.pair.incoming.erase (u, r) }
    exec (.regionRecord core task first count) s =
      .next (v.regionTaken r (v.taskOn (r.target % 32) (bits r.target 20 5))) := by
  refine congrArg Host.Outcome.next ((if_neg ?_).trans ((if_neg (Bool.eq_false_iff.1 hl)).trans ?_))
  · rintro (h | h)
    exacts [State.not_held hup h, State.not_held heng h]
  · simp only [hfind]
    unfold State.regionTaken
    rfl

/-- Settles O48: a compared tick by both hashes and the states; a record by the role and the oldest that came. -/
theorem pairsCompareHashesAndMirrorRecords : Obligations.PairsCompareHashesAndMirrorRecords := by
  unfold Obligations.PairsCompareHashesAndMirrorRecords
  intro s hup
  have hheld := State.not_held hup
  refine ⟨?_, ?_, ?_, ?_, fun core task tick words hl => ?_, fun core task tick a b c d hl hfw heng hc ht => ?_,
    fun target heng hfw hl htwin hf7 hps hbusy => ?_, fun target u r heng hfw hl hfind => ?_,
    fun core task first count t heng hl hfw hc ht h1 hfit => ?_, fun core task first count u r t heng hl hfind => ?_⟩
  · intro t m u heard may
    have hexec (h : may) : exec .hashCompare s = .next (u.hashJudged t (u.hashOf t) heard) := exec_hashCompare hup h.1 h.2
    refine ⟨fun h => ?_, fun h hown => ?_, fun own h hown => ⟨fun hh => ?_, fun w hh => ?_⟩⟩
    · refine congrArg Host.Outcome.next (if_pos (.inr ?_))
      by_contra hno
      rw [not_or, not_not] at hno
      exact h hno
    · rw [hexec h, hown]
      rfl
    · rw [hexec h, hown, hh]
      rfl
    · intro run
      rw [hexec h, hown, hh]
      refine ⟨fun hs hne => ?_, fun hs he hr => ?_, fun hs he hr => ?_, fun hs he => ?_, fun hs hne hf => ?_, fun hs hne hf hp => ?_,
        fun hs hne hf hp => ?_⟩
      · exact congrArg Host.Outcome.next ((if_pos hs).trans (if_pos hne))
      · exact congrArg Host.Outcome.next ((if_pos hs).trans ((if_neg (not_not.mpr he)).trans (if_pos hr)))
      · exact congrArg Host.Outcome.next ((if_pos hs).trans ((if_neg (not_not.mpr he)).trans (if_neg (Nat.not_le.mpr hr))))
      · exact congrArg Host.Outcome.next ((if_neg hs).trans (if_pos he))
      · exact congrArg Host.Outcome.next ((if_neg hs).trans ((if_neg hne).trans (if_pos hf)))
      · exact congrArg Host.Outcome.next ((if_neg hs).trans ((if_neg hne).trans ((if_neg (by omega)).trans (if_pos hp))))
      · exact congrArg Host.Outcome.next ((if_neg hs).trans ((if_neg hne).trans ((if_neg (by omega)).trans (if_neg hp))))
  · rfl
  · rfl
  · rfl
  · exact congrArg Host.Outcome.next (if_neg (Bool.eq_false_iff.1 hl))
  · refine congrArg Host.Outcome.next ((if_pos hl).trans ((if_neg ?_).trans ?_))
    · rintro (h | h | h | h)
      exacts [h hfw, State.not_held heng h, absurd hc (Nat.not_lt.mpr h), absurd ht (Nat.not_lt.mpr h)]
    · rfl
  · intro len
    refine congrArg Host.Outcome.next ((if_neg ?_).trans ((if_pos hl).trans (if_neg ?_)))
    · rintro (h | h | h)
      exacts [hheld h, State.not_held heng h, h hfw]
    · rintro (h | h | h | h)
      exacts [h htwin, Bool.false_ne_true (hf7.symm.trans h), h hps, Bool.false_ne_true (hbusy.symm.trans h)]
  · intro v
    have hexec : exec (.joinRecord target) s = .next (if v.pairState ≠ 2 then v
        else v.activateTwin (r.target % 2) (BitVec.ofNat 32 (r.words.getD 0 0)) (BitVec.ofNat 32 (r.words.getD 1 0))) := by
      refine congrArg Host.Outcome.next ((if_neg ?_).trans ((if_neg (Bool.eq_false_iff.1 hl)).trans ?_))
      · rintro (h | h | h)
        exacts [hheld h, State.not_held heng h, h hfw]
      · simp only [hfind]
        rfl
    exact ⟨fun h => by rw [hexec, if_neg (not_not.mpr h)], fun h => by rw [hexec, if_pos h]⟩
  · refine congrArg Host.Outcome.next ((if_neg ?_).trans ((if_pos hl).trans ?_))
    · rintro (h | h)
      exacts [hheld h, State.not_held heng h]
    · simp only [ht]
      rw [filterMap_inRegion _ hfit]
      refine if_neg ?_
      rintro (h | h | h)
      exacts [h hfw, absurd hc (Nat.not_lt.mpr h), by simp only [List.map_eq_nil_iff, List.range_eq_nil] at h; omega]
  · intro v n ht hs
    refine (exec_regionRecord_follower core task first count hup heng hl hfind).trans ?_
    dsimp only
    rw [ht]
    exact congrArg Host.Outcome.next (if_neg (not_not.mpr hs))

end Sys2Proof.Machine
end

section
/-! PROOF. Reset sources and clocks (R413, R414, R416 to R418, R432). -/

namespace Sys2Proof.Machine

open Sys2Proof.Arith

/-! ### Handshakes (R418) -/

/-- The oldest handshake ends: its source asserts, or the HOLD bits that still stand (R418). -/
theorem State.endQuiesce_cons {s : State} {src reach : Nat} {rest : List (Nat × Nat)} (h : s.rst.quiesce = (src, reach) :: rest) :
    let ended : State := { s with rst := { s.rst with quiesce := rest } }
    let on := reach &&& s.fget F.RST_SOFT_HOLD
    s.endQuiesce = if src = 16 then
        (if on = 0 then ended
         else ({ s with rst := { s.rst with quiesce := rest, hold := s.rst.hold ||| on } } : State).assertSource 6 on)
      else ended.assertSource src reach := by
  unfold State.endQuiesce
  simp only [h]
  rfl

/-- A handshake that ends, in time or not. -/
theorem exec_quiesceDone {s : State} (timedOut : Bool) (h : s.rst.quiesce ≠ []) :
    exec (.quiesceDone timedOut) s =
      .next (if timedOut then s.count F.RST_QTMO_TIMEOUTS 1 else s).endQuiesce := congrArg Host.Outcome.next (if_neg h)

/-! ### RST_SOFT (R413, R414, R433) -/

/-- Only the low byte of the HOLD bits meets the bits that act. -/
theorem and_holdBits (x : Nat) : x % 256 &&& 0xE8 = x &&& 0xE8 := by
  rw [show (256 : Nat) = 2 ^ 8 from rfl, ← Nat.and_two_pow_sub_one_eq_mod, Nat.and_assoc]
  rfl

theorem or_ite_zero (x y : Nat) (c : Prop) [Decidable c] : (if c then x ||| y else x) = x ||| (if c then y else 0) := by
  split
  · rfl
  · rw [Nat.or_zero]

/-- RST_SOFT with HOLD `want` and the pulses `pulse`: bits that fall end, bits that rise ask. -/
def State.softWritten (s : State) (want pulse : Nat) : State :=
  let old := s.fget F.RST_SOFT_HOLD
  let fall := old &&& (255 - want)
  let set := s.fset F.RST_SOFT_HOLD want
  let off : State := { set with rst := { set.rst with hold := set.rst.hold &&& (255 - fall) } }
  ((if bit fall 6 then off.abortGroup else off).askReset 16 (want &&& (255 - old))).askReset 6 pulse

theorem State.writeSoft_eq {s : State} (value : W32) (h : s.held .aon = false) :
    let want := bits value.toNat 15 8 &&& 0xE8
    s.writeSoft value = s.softWritten (if s.held .clk then want ||| 0x40 else want) (bits value.toNat 7 0 &&& 0xFE) :=
  if_neg (State.not_held h)

theorem State.writeSoft_aon {s : State} (value : W32) (h : s.held .aon = false) :
    s.writeSoft value = s.softWritten ((value.toNat / 2 ^ 8 &&& 0xE8) ||| (if s.held .clk then 0x40 else 0))
      (value.toNat % 256 &&& 0xFE) := by
  refine (State.writeSoft_eq value h).trans ?_
  rw [or_ite_zero, show bits value.toNat 15 8 = value.toNat / 2 ^ 8 % 256 from rfl, and_holdBits,
    show bits value.toNat 7 0 = value.toNat % 256 from congrArg (· % 256) (Nat.div_one _)]

/-- A level source asserts where it was not there before (R413). -/
theorem State.levelSource_on {s : State} {source : Nat} (reach : Nat) :
    (bit s.rst.level source = false → s.levelSource source reach true =
      ({ s with rst := { s.rst with level := s.rst.level ||| 2 ^ source } } : State).assertNow source reach) ∧
    (bit s.rst.level source = true → s.levelSource source reach true = s) :=
  ⟨fun h => if_neg (Bool.eq_false_iff.1 h), fun h => if_pos h⟩

/-- A warning that becomes a reset ends without a recovery (R421). -/
def State.warnEnded (s : State) : State :=
  ({ s with rst := { s.rst with warn := none, mute := none } } : State).fset F.RST_SUP_STAT_MUTED 0

theorem exec_supplyReset_low (s : State) : exec (.supplyReset true) s = .next (s.warnEnded.levelSource 1 0xFE true) :=
  congrArg (fun u : State => Host.Outcome.next (u.levelSource 1 0xFE true)) (if_pos rfl)

theorem State.warnEnded_level (s : State) : s.warnEnded.rst.level = s.rst.level := by
  unfold State.warnEnded
  rw [State.fset_rst]

/-- Settles O49: each source by its level, each handshake by its source, each clock by its state. -/
theorem resetSourcesReachTheirDomains : Obligations.ResetSourcesReachTheirDomains := by
  unfold Obligations.ResetSourcesReachTheirDomains
  intro s raised lowered calm
  refine ⟨fun h => ?_, fun h => ?_, rfl, fun h => ?_, fun h => ?_, rfl, fun h => ?_, fun h => ?_, rfl, fun h => ?_, rfl, rfl,
    fun src reach rest hq => ?_, fun hq timedOut => ?_, fun value => ⟨fun h => ?_, fun h => ?_⟩, fun clock h1 h3 hok => ?_,
    fun clock h3 hok => ?_, fun clock h => ?_, fun h => ?_, fun h => ?_, fun h => ?_⟩
  · exact (exec_supplyReset_low s).trans (congrArg Host.Outcome.next ((State.levelSource_on 0xFE).1 (by rw [s.warnEnded_level, h])))
  · exact (exec_supplyReset_low s).trans (congrArg Host.Outcome.next ((State.levelSource_on 0xFE).2 (by rw [s.warnEnded_level, h])))
  · exact congrArg Host.Outcome.next ((State.levelSource_on 0xFE).1 h)
  · exact congrArg Host.Outcome.next ((State.levelSource_on 0xFE).2 h)
  · exact congrArg Host.Outcome.next ((State.levelSource_on 0xFE).1 h)
  · exact congrArg Host.Outcome.next ((State.levelSource_on 0xFE).2 h)
  · exact congrArg Host.Outcome.next ((State.levelSource_on 0x10).1 h)
  · intro ended timed
    have hne : s.rst.quiesce ≠ [] := by rw [hq]; exact List.cons_ne_nil _ _
    have hin : exec (.quiesceDone false) s = .next s.endQuiesce :=
      (exec_quiesceDone false hne).trans (by rw [if_neg Bool.false_ne_true])
    have hqt : (s.count F.RST_QTMO_TIMEOUTS 1).rst.quiesce = (src, reach) :: rest := by rw [State.count_rst, hq]
    have hlate : exec (.quiesceDone true) s = .next (s.count F.RST_QTMO_TIMEOUTS 1).endQuiesce :=
      (exec_quiesceDone true hne).trans (by rw [if_pos rfl])
    refine ⟨fun h => ?_, fun h => ?_, fun h hz => ?_, fun h hz => ?_⟩
    · exact hin.trans (congrArg Host.Outcome.next ((State.endQuiesce_cons hq).trans (if_neg h)))
    · exact hlate.trans (congrArg Host.Outcome.next ((State.endQuiesce_cons hqt).trans (if_neg h)))
    · exact hin.trans (congrArg Host.Outcome.next ((State.endQuiesce_cons hq).trans ((if_pos h).trans (if_pos hz))))
    · exact hin.trans (congrArg Host.Outcome.next ((State.endQuiesce_cons hq).trans ((if_pos h).trans (if_neg hz))))
  · exact congrArg Host.Outcome.next (if_pos hq)
  · exact ⟨congrArg Host.Outcome.next (if_pos h), congrArg Host.Outcome.next (if_pos h)⟩
  · intro want old fall set off done'
    exact ⟨congrArg Host.Outcome.next (State.writeSoft_aon value h), congrArg Host.Outcome.next (State.writeSoft_aon value h)⟩
  · intro gone lost
    refine congrArg Host.Outcome.next (if_neg ?_)
    rintro (h | h | h)
    exacts [by omega, by omega, h hok]
  · exact congrArg Host.Outcome.next (if_pos (.inr (.inr (Bool.eq_false_iff.1 hok))))
  · refine congrArg Host.Outcome.next (if_neg ?_)
    rcases h with rfl | rfl | ⟨rfl, hxo, hclk⟩
    · omega
    · omega
    · rintro (h | h | ⟨_, h | h⟩)
      exacts [absurd h (by decide), absurd h (by decide), h hxo, State.not_held hclk h]
  · exact congrArg Host.Outcome.next (if_pos (.inr (.inr ⟨rfl, h.imp_left Bool.eq_false_iff.1⟩)))
  · exact congrArg Host.Outcome.next (if_neg (State.not_held h))
  · exact congrArg Host.Outcome.next (if_pos h)

end Sys2Proof.Machine
end

section
/-! PROOF. What a power-on reset leaves beside the registers (R413, R415). -/

namespace Sys2Proof.Machine

open Sys2Proof.Arith

/-- A change of registers alone. -/
def State.sameButRegs (s t : State) : Prop := t = { s with regs := t.regs }

theorem State.sameButRegs_setReg (s : State) (off : Nat) (w : W32) : s.sameButRegs (s.setReg off w) := rfl

theorem State.sameButRegs_fset (s : State) (f : Field) (v : Nat) : s.sameButRegs (s.fset f v) := rfl

theorem State.sameButRegs.trans {s t u : State} (h : s.sameButRegs t) (g : t.sameButRegs u) : s.sameButRegs u := by
  unfold State.sameButRegs at *
  rw [g, h]

theorem State.sameButRegs_strapRegs (s : State) : s.sameButRegs s.strapRegs := by
  have hrole : s.sameButRegs (if s.fon F.RED_CFG_LOCK then s else s.fset F.RED_CFG_ROLE (s.fget F.RST_STRAP_ROLE)) := by
    split
    · rfl
    · exact s.sameButRegs_fset _ _
  exact (hrole.trans (State.sameButRegs_fset _ _ _)).trans (State.sameButRegs_fset _ _ _)

/-- What POR leaves before any register is written: what lies outside the block, and the held clock domain's HOLD (R413). -/
def State.porEmpty (s : State) (i2c : Nat) : State :=
  { pending := s.pending, freeCtr := s.freeCtr, host := s.host, flash := s.flash, gpioIn := s.gpioIn,
    hif := { neighbour := true }, rst := { clocks := 1, level := s.rst.level, mask := 0xFF, i2cPins := i2c } }

/-- POR writes registers alone after that. -/
theorem exec_por (s : State) (straps : Straps) :
    ∃ t, (s.porEmpty straps.i2c.toNat).sameButRegs t ∧ exec (.por straps) s = .next t := by
  refine ⟨_, ?_, rfl⟩
  refine State.sameButRegs.trans ?_ (State.sameButRegs_fset _ F.RST_DOMAIN_CLK_GOOD _)
  refine State.sameButRegs.trans ?_ (State.sameButRegs_fset _ F.RST_DOMAIN_HELD 0xFF)
  refine State.sameButRegs.trans ?_ (State.sameButRegs_strapRegs _)
  exact (((State.sameButRegs_setReg _ _ _).trans (State.sameButRegs_fset _ _ _)).trans (State.sameButRegs_fset _ _ _)).trans
    (State.sameButRegs_fset _ _ _)

/-- The HOLD bits that POR leaves in force: ENG's stands while CLK is held. -/
theorem hold_of_por {s t : State} {straps : Straps} (h : exec (.por straps) s = .next t) : t.rst.hold = 0x40 := by
  obtain ⟨u, hu, hexec⟩ := exec_por s straps
  obtain rfl : u = t := Host.Outcome.next.inj (hexec.symm.trans h)
  rw [hu]
  rfl

/-- Refutes O50: its clause for POR asks that no HOLD bit stands, and a power-on reset, of the reset state with strap code 0, leaves
HOLD 40h in force. -/
theorem not_powerOnReleaseAndSuppliesAreActedOn : ¬ Obligations.PowerOnReleaseAndSuppliesAreActedOn := by
  unfold Obligations.PowerOnReleaseAndSuppliesAreActedOn
  intro hall
  obtain ⟨hpor, _⟩ := hall State.reset
  obtain ⟨t, hexec, _, _, _, _, _, _, _, _, _, _, _, hhold, _⟩ := hpor 0 0
  exact absurd ((hold_of_por hexec).symm.trans hhold) (by decide)

end Sys2Proof.Machine
end

section
/-! PROOF. Records, counters, the flash and the Tack room (R428, R429, R435 to R437, R440, R442, R444, R445, R456). -/

namespace Sys2Proof.Machine

open Sys2Proof.Arith

theorem bits_low (n hi : Nat) : bits n hi 0 = n % 2 ^ (hi + 1) := by
  rw [bits, Nat.pow_zero, Nat.div_one]; rfl

theorem bit_zero_eq_true {n : Nat} : bit n 0 = true ↔ n % 2 = 1 := by
  rw [bit, Nat.pow_zero, Nat.div_one, decide_eq_true_eq]

/-! ### The operating time (R445) -/

/-- The operating time's two registers take the time `t`. -/
def State.setOptime (s : State) (t : Nat) : State :=
  (s.setReg A.TST_OPTIME_LO (BitVec.ofNat 32 t)).fset F.TST_OPTIME_HI_VALUE (t / 2 ^ 32)

section
variable {s : State} (h : s.canonical = true)
include h

theorem State.canonical_setOptime (t : Nat) : (s.setOptime t).canonical = true :=
  State.canonical_fset (State.canonical_setReg h _ _) _ _

theorem State.reg_setOptime_other (t : Nat) {off : Nat} (hlo : off ≠ A.TST_OPTIME_LO) (hhi : off ≠ A.TST_OPTIME_HI) :
    (s.setOptime t).reg off = s.reg off :=
  (State.reg_fset_other (State.canonical_setReg h _ _) _ _ hhi).trans (State.reg_setReg_other h _ hlo)

theorem State.optime_setOptime {t : Nat} (ht : t < 2 ^ 40) : (s.setOptime t).optime = t := by
  have hset := State.canonical_setReg h A.TST_OPTIME_LO (BitVec.ofNat 32 t)
  have hlo : (s.setOptime t).reg A.TST_OPTIME_LO = BitVec.ofNat 32 t :=
    (State.reg_fset_other hset F.TST_OPTIME_HI_VALUE _ (by decide)).trans (State.reg_setReg_same h _ _)
  have hhi : (s.setOptime t).fget F.TST_OPTIME_HI_VALUE = t / 2 ^ 32 % 2 ^ 8 :=
    State.fget_fset_same hset F.TST_OPTIME_HI_VALUE _ (by decide) (by decide)
  rw [State.optime, hlo, hhi, BitVec.toNat_ofNat]
  omega

theorem State.optime_fset_other (f : Field) (v : Nat) (hlo : A.TST_OPTIME_LO ≠ f.off) (hhi : A.TST_OPTIME_HI ≠ f.off) :
    (s.fset f v).optime = s.optime := by
  rw [State.optime, State.optime, State.reg_fset_other h f v hlo, State.fget_fset_other h f F.TST_OPTIME_HI_VALUE v hhi]

end

/-- The token bucket and the time since POR after 1/1,024 s of XO, of which `frac` now make up a part of 1/16 s. -/
def Loft.refilled (l : Loft) (frac : Nat) : Loft :=
  { l with tokens := min 256 (l.tokens + 1), sincePor := l.sincePor + 1, frac := frac }

/-- What 1/1,024 s of XO does, by whether it ends a 1/16 s. -/
def State.refilled (s : State) (whole : Bool) (frac : Nat) : State :=
  if whole then
    ({ s with loft := s.loft.refilled frac } : State).setOptime
      ((({ s with loft := s.loft.refilled frac } : State).optime + 1) % 2 ^ 40)
  else { s with loft := s.loft.refilled frac }

theorem exec_tokenRefill (s : State) : exec .tokenRefill s =
    .next (s.refilled (decide (64 ≤ s.loft.frac + 1)) (if decide (64 ≤ s.loft.frac + 1) then 0 else s.loft.frac + 1)) := rfl

/-- A 1/1,024 s of XO that ends no 1/16 s. -/
theorem exec_tokenRefill_part {s : State} (hfrac : s.loft.frac < 63) :
    exec .tokenRefill s = .next { s with loft := s.loft.refilled (s.loft.frac + 1) } := by
  have hwhole : decide (64 ≤ s.loft.frac + 1) = false := decide_eq_false (by omega)
  rw [exec_tokenRefill, hwhole]
  exact congrArg Host.Outcome.next (if_neg Bool.false_ne_true)

/-- The last 1/1,024 s of a 1/16 s of XO. -/
theorem exec_tokenRefill_whole {s : State} (hfrac : s.loft.frac = 63) : exec .tokenRefill s =
    .next (({ s with loft := s.loft.refilled 0 } : State).setOptime
      ((({ s with loft := s.loft.refilled 0 } : State).optime + 1) % 2 ^ 40)) := by
  have hwhole : decide (64 ≤ s.loft.frac + 1) = true := decide_eq_true (by omega)
  rw [exec_tokenRefill, hwhole]
  exact congrArg Host.Outcome.next (if_pos rfl)

theorem State.optime_loft (s : State) (l : Loft) : ({ s with loft := l } : State).optime = s.optime := rfl

theorem State.fget_loft (s : State) (l : Loft) (f : Field) : ({ s with loft := l } : State).fget f = s.fget f := rfl

theorem State.fon_loft (s : State) (l : Loft) (f : Field) : ({ s with loft := l } : State).fon f = s.fon f := rfl

theorem State.mem_loft (s : State) (l : Loft) : ({ s with loft := l } : State).mem = s.mem := rfl

theorem State.canonical_loft {s : State} (h : s.canonical = true) (l : Loft) : ({ s with loft := l } : State).canonical = true :=
  ((Keeps.refl s).set_loft l).canon h

theorem State.loft_setOptime (s : State) (t : Nat) : (s.setOptime t).loft = s.loft := by
  rw [State.setOptime, State.fset_loft, State.setReg_loft]

theorem State.mem_setOptime (s : State) (t : Nat) : (s.setOptime t).mem = s.mem := by
  rw [State.setOptime, State.fset_mem, State.setReg_mem]

theorem State.reg_loft (s : State) (l : Loft) (off : Nat) : ({ s with loft := l } : State).reg off = s.reg off := rfl

/-- What the end of a 1/16 s leaves. -/
theorem State.refill_reads {s : State} (h : s.canonical = true) {l : Loft} :
    (({ s with loft := l } : State).setOptime ((({ s with loft := l } : State).optime + 1) % 2 ^ 40)).optime =
        (s.optime + 1) % 2 ^ 40 ∧
      (({ s with loft := l } : State).setOptime ((({ s with loft := l } : State).optime + 1) % 2 ^ 40)).loft = l ∧
      (({ s with loft := l } : State).setOptime ((({ s with loft := l } : State).optime + 1) % 2 ^ 40)).mem = s.mem ∧
      ∀ off, off ≠ A.TST_OPTIME_LO → off ≠ A.TST_OPTIME_HI →
        (({ s with loft := l } : State).setOptime ((({ s with loft := l } : State).optime + 1) % 2 ^ 40)).reg off = s.reg off := by
  have hl := State.canonical_loft h l
  refine ⟨?_, State.loft_setOptime _ _, (State.mem_setOptime _ _).trans (State.mem_loft s l), fun off hlo hhi =>
    (State.reg_setOptime_other hl _ hlo hhi).trans (State.reg_loft s l off)⟩
  rw [State.optime_setOptime hl (Nat.mod_lt _ (Nat.two_pow_pos 40)), State.optime_loft]

/-! ### The counters' load (R445) -/

/-- The operating time after a load: what was loaded and what has run since. -/
def State.loadedTime (s : State) : Nat :=
  ((s.loft.lo.getD 0).toNat + (s.loft.hi.getD 0).toNat % 256 * 2 ^ 32 + s.optime) % 2 ^ 40

/-- The power cycles after a load. -/
def State.loadedCycles (s : State) : Nat := min ((s.loft.pcyc.getD 0xFFFFFF).toNat % 2 ^ 24 + 1) 0xFFFFFE

/-- The registers after a load. -/
def State.loadCounters (s : State) : State :=
  ((s.setOptime s.loadedTime).fset F.TST_PCYC_VALUE s.loadedCycles).fset F.TST_PERSIST_LOADED 1

/-- The mark that follows the loaded time, and nothing left to load. -/
def Loft.loadTaken (l : Loft) (t : Nat) : Loft := { l with nextMark := nextMarkAfter t, lo := none, hi := none, pcyc := none }

def State.loadTaken (u : State) (t : Nat) : State := { u with loft := u.loft.loadTaken t }

theorem State.mem_loadCounters (s : State) : s.loadCounters.mem = s.mem := by
  rw [State.loadCounters, State.fset_mem, State.fset_mem, State.setOptime, State.fset_mem, State.setReg_mem]

theorem exec_counterLoad (value : W32) (s : State) : exec (.counterLoad value) s =
    .next (if ¬ bit value.toNat 0 ∨ s.fon F.TST_PERSIST_LOADED then s else s.loadCounters.loadTaken s.loadedTime) := rfl

section
variable {s : State} (h : s.canonical = true)
include h

theorem State.optime_loadCounters : s.loadCounters.optime = s.loadedTime := by
  have htime := State.canonical_setOptime h s.loadedTime
  rw [State.loadCounters, State.optime_fset_other (State.canonical_fset htime _ _) _ _ (by decide) (by decide),
    State.optime_fset_other htime _ _ (by decide) (by decide),
    State.optime_setOptime h (t := s.loadedTime) (Nat.mod_lt _ (Nat.two_pow_pos 40))]

theorem State.pcyc_loadCounters : s.loadCounters.fget F.TST_PCYC_VALUE = s.loadedCycles := by
  have htime := State.canonical_setOptime h s.loadedTime
  rw [State.loadCounters, State.fget_fset_other (State.canonical_fset htime _ _) _ _ _ (by decide),
    State.fget_fset_same htime _ _ (by decide) (by decide)]
  exact Nat.mod_eq_of_lt (Nat.lt_of_le_of_lt (Nat.min_le_right _ _) (by decide))

theorem State.loaded_loadCounters : s.loadCounters.fon F.TST_PERSIST_LOADED = true := by
  have hcyc := State.canonical_fset (State.canonical_setOptime h s.loadedTime) F.TST_PCYC_VALUE s.loadedCycles
  rw [State.fon, State.loadCounters, State.fget_fset_same hcyc _ _ (by decide) (by decide)]
  rfl

end

theorem State.optime_loadTaken (u : State) (t : Nat) : (u.loadTaken t).optime = u.optime := State.optime_loft u _

theorem State.fget_loadTaken (u : State) (t : Nat) (f : Field) : (u.loadTaken t).fget f = u.fget f := State.fget_loft u _ f

theorem State.fon_loadTaken (u : State) (t : Nat) (f : Field) : (u.loadTaken t).fon f = u.fon f := State.fon_loft u _ f

theorem State.nextMark_loadTaken (u : State) (t : Nat) : (u.loadTaken t).loft.nextMark = nextMarkAfter t := rfl

/-- What a load leaves. -/
theorem State.load_reads {s : State} (h : s.canonical = true) :
    (s.loadCounters.loadTaken s.loadedTime).optime = s.loadedTime ∧
      (s.loadCounters.loadTaken s.loadedTime).fget F.TST_PCYC_VALUE = s.loadedCycles ∧
      (s.loadCounters.loadTaken s.loadedTime).fon F.TST_PERSIST_LOADED = true ∧
      (s.loadCounters.loadTaken s.loadedTime).loft.nextMark =
        nextMarkAfter (s.loadCounters.loadTaken s.loadedTime).optime ∧
      (s.loadCounters.loadTaken s.loadedTime).mem = s.mem := by
  rw [State.optime_loadTaken, State.fget_loadTaken, State.fon_loadTaken, State.nextMark_loadTaken, State.optime_loadCounters h]
  exact ⟨rfl, State.pcyc_loadCounters h, State.loaded_loadCounters h, rfl,
    (State.mem_loft _ _).trans (State.mem_loadCounters s)⟩

/-! ### The flash ring (R440, R442, R444) -/

/-- The program operation in progress ends. -/
def State.progEnded (s : State) : State := { s with tst := { s.tst with prog := none } }

/-- A page's bytes are in the flash and the write pointer is past them. -/
def State.pageWritten (s : State) (bs : List Nat) : State :=
  (forEach bs.zipIdx s.progEnded (fun v b => v.programByte (s.fget F.TST_EVF_CFG_BASE * 65536 + s.flashPos + b.2) b.1)).setReg
    A.TST_EVF_WPTR (BitVec.ofNat 32 ((s.flashPos + bs.length) % s.flashRing))

/-- Records up to `last` count as flushed, where that is ahead. -/
def State.flushedTo (s : State) (last : Nat) : State :=
  if 0 < sdiff last (s.reg A.TST_LOFT_FLUSHED).toNat then s.setReg A.TST_LOFT_FLUSHED (BitVec.ofNat 32 last) else s

/-- A flush with nothing left ends. -/
def State.flushEnded (s : State) : State := if s.unflushed = 0 then s.fset F.TST_EVF_STAT_FLUSHING 0 else s

theorem exec_flashProgramDone {s : State} {last : Nat} {bs : List Nat} (hprog : s.tst.prog = some (last, bs))
    (hup : s.held .mem = false) (ok : Bool) : exec (.flashProgramDone ok) s =
      .next (if ¬ ok then s.progEnded.fset F.TST_EVF_STAT_FLASH_ERR 1 else ((s.pageWritten bs).flushedTo last).flushEnded) := by
  change execFlashProgramDone ok s = _
  simp only [execFlashProgramDone, hprog, hup, Bool.false_eq_true, if_false]
  rfl

theorem exec_loftFlush (s : State) : exec .loftFlush s =
    .next (if ¬ s.flushAble ∨ ¬ s.fon F.TST_EVF_STAT_FLUSHING ∨ s.tst.prog.isSome then s
      else if s.unflushed = 0 then s.fset F.TST_EVF_STAT_FLUSHING 0
      else if s.flushCount = 0 then s.fset F.TST_EVF_STAT_FLASH_STALL 1
      else { s with tst := { s.tst with prog := some (((s.reg A.TST_LOFT_FLUSHED + 1).toNat + s.flushCount - 1) % 2 ^ 32,
        (List.range s.flushCount).flatMap
          (fun i => bytesAt s.mem (loftAddr (((s.reg A.TST_LOFT_FLUSHED + 1).toNat + i) % 2 ^ 32)) 32)) } }) := rfl

/-! ### The backup registers (R429) -/

theorem bkp_ne_tackStat {n : Nat} : A.RST_BKP n ≠ A.RST_TACK_STAT := by
  unfold A.RST_BKP A.RST_TACK_STAT
  omega

section
variable {s : State} (h : s.canonical = true) (n : Nat) (value : W32)
include h

theorem State.reg_writeBackup (hup : s.held .aon = false) (hn : n < 8) :
    (s.writeBackup n value).reg (A.RST_BKP n) = value ∧
      (s.writeBackup n value).fget F.RST_TACK_STAT_BKP_VALID = s.fget F.RST_TACK_STAT_BKP_VALID ||| 2 ^ n ∧
      (∀ off, off ≠ A.RST_BKP n → off ≠ A.RST_TACK_STAT → (s.writeBackup n value).reg off = s.reg off) ∧
      (s.writeBackup n value).mem = s.mem := by
  have hset := State.canonical_setReg h (A.RST_BKP n) value
  rw [State.writeBackup, if_neg (up_or hup hn)]
  refine ⟨?_, ?_, fun off hb ht => ?_, rfl⟩
  · rw [State.reg_fset_other hset _ _ bkp_ne_tackStat, State.reg_setReg_same h]
  · have hbits : s.fget F.RST_TACK_STAT_BKP_VALID ||| 2 ^ n < 2 ^ 8 :=
      Nat.or_lt_two_pow (Nat.mod_lt _ (Nat.two_pow_pos 8)) (Nat.pow_lt_pow_right (by decide) hn)
    rw [State.fget_fset_same hset _ _ (by decide) (by decide)]
    exact Nat.mod_eq_of_lt hbits
  · rw [State.reg_fset_other hset _ _ ht, State.reg_setReg_other h _ hb]

end

theorem exec_tackSeal (value : W32) (s : State) :
    exec (.tackSeal value) s = .next (if s.held .aon ∨ ¬ bit value.toNat 0 then s else s.sealTack) := rfl

theorem exec_tackDataAccess (write : Bool) (value : W32) (s : State) :
    exec (.tackDataAccess write value) s = .next (if s.held .aon then s else s.tackAccess write value) := rfl

/-- Settles O51: by the guards of each command, with the registers of the operating time, the counters' load and the backup
registers read back from a canonical register file. -/
theorem recordsCountersAndFlushesFollowTheirRules : Obligations.RecordsCountersAndFlushesFollowTheirRules := by
  intro s
  refine ⟨fun code inst params hcode hinst => ?_, fun value hup => ?_, ?_, fun h => ?_, fun h => ?_, fun value => ?_,
    fun h => ?_, fun hable hon hprog => ?_, fun hprog ok => ?_, fun last bs hprog hup => ?_, fun hup value => ?_,
    fun hheld value => ?_⟩
  · exact congrArg Host.Outcome.next (if_neg (not_or.mpr ⟨Nat.not_le.mpr hcode, Nat.not_le.mpr hinst⟩))
  · have hexec : exec (.eventPostWrite value) s = .next (if s.held .mem ∨ value.toNat % 65536 < 0x8000 ∨
        value.toNat % 65536 = 0xFFFF then s else s.record (value.toNat % 65536) (value.toNat / 65536 % 4096)
          [(s.reg (A.TST_EVT_POST_W 0)).toNat, (s.reg (A.TST_EVT_POST_W 1)).toNat, (s.reg (A.TST_EVT_POST_W 2)).toNat,
           (s.reg (A.TST_EVT_POST_W 3)).toNat]) := by
      change execEventPostWrite value s = _
      rw [execEventPostWrite, bits_low]
      rfl
    intro code
    refine ⟨fun hlow hhigh => hexec.trans (congrArg Host.Outcome.next (if_neg ?_)),
      fun hbad => hexec.trans (congrArg Host.Outcome.next (if_pos (.inr hbad)))⟩
    rintro (h | h | h)
    exacts [State.not_held hup h, Nat.not_lt.mpr hlow h, Nat.ne_of_lt hhigh h]
  · exact ⟨exec_tokenRefill_part, fun hfrac hcan => ⟨_, exec_tokenRefill_whole hfrac, State.refill_reads hcan⟩⟩
  · exact congrArg Host.Outcome.next (if_pos h)
  · exact congrArg Host.Outcome.next (if_neg (Nat.not_lt.mpr h))
  · refine ⟨fun hno => ?_, fun hload hnew hcan => ?_⟩
    · refine (exec_counterLoad value s).trans (congrArg Host.Outcome.next (if_pos (hno.imp_left fun hz hb => ?_)))
      exact absurd (hz.symm.trans (bit_zero_eq_true.mp hb)) (by decide)
    · refine ⟨_, (exec_counterLoad value s).trans (congrArg Host.Outcome.next (if_neg ?_)), State.load_reads hcan⟩
      rintro (hb | hx)
      exacts [hb (bit_zero_eq_true.mpr hload), Bool.false_ne_true (hnew.symm.trans hx)]
  · refine (exec_loftFlush s).trans (congrArg Host.Outcome.next (if_pos ?_))
    exact h.imp Bool.eq_false_iff.1 (Or.imp_left Bool.eq_false_iff.1)
  · have hrun : ¬ (¬ s.flushAble = true ∨ ¬ s.fon F.TST_EVF_STAT_FLUSHING = true ∨ s.tst.prog.isSome = true) := by
      rw [hable, hon, hprog]
      decide
    have hexec := (exec_loftFlush s).trans (congrArg Host.Outcome.next (if_neg hrun))
    refine ⟨fun h0 => ?_, fun h0 hc => ?_, fun h0 hc => ?_⟩
    · exact hexec.trans (congrArg Host.Outcome.next (if_pos h0))
    · exact hexec.trans (congrArg Host.Outcome.next ((if_neg h0).trans (if_pos hc)))
    · exact hexec.trans (congrArg Host.Outcome.next ((if_neg h0).trans (if_neg hc)))
  · change execFlashProgramDone ok s = _
    simp only [execFlashProgramDone, hprog]
  · refine ⟨exec_flashProgramDone hprog hup false, fun hahead => ?_⟩
    have hexec : exec (.flashProgramDone true) s =
        .next ((s.pageWritten bs).setReg A.TST_LOFT_FLUSHED (BitVec.ofNat 32 last)).flushEnded := by
      refine (exec_flashProgramDone hprog hup true).trans (congrArg Host.Outcome.next ((if_neg (by decide)).trans ?_))
      exact congrArg State.flushEnded (if_pos hahead)
    exact ⟨fun h0 => hexec.trans (congrArg Host.Outcome.next (if_pos h0)),
      fun h0 => hexec.trans (congrArg Host.Outcome.next (if_neg h0))⟩
  · refine ⟨fun h => ?_, fun h => ?_, ?_, fun n hn hcan => ⟨_, rfl, State.reg_writeBackup hcan n value hup hn⟩⟩
    · refine (exec_tackSeal value s).trans (congrArg Host.Outcome.next (if_neg ?_))
      exact not_or.mpr ⟨State.not_held hup, not_not.mpr (bit_zero_eq_true.mpr h)⟩
    · refine (exec_tackSeal value s).trans (congrArg Host.Outcome.next (if_pos (.inr fun hb => ?_)))
      exact absurd (h.symm.trans (bit_zero_eq_true.mp hb)) (by decide)
    · exact ⟨(exec_tackDataAccess false value s).trans (congrArg Host.Outcome.next (if_neg (State.not_held hup))),
        (exec_tackDataAccess true value s).trans (congrArg Host.Outcome.next (if_neg (State.not_held hup)))⟩
  · exact ⟨(exec_tackSeal value s).trans (congrArg Host.Outcome.next (if_pos (.inl hheld))),
      fun w => (exec_tackDataAccess w value s).trans (congrArg Host.Outcome.next (if_pos hheld)),
      fun n => congrArg Host.Outcome.next (if_pos (.inl hheld))⟩

end Sys2Proof.Machine
end

section
/-! PROOF. What an event record changes (R383 to R386, R396, R397, R435 to R440): registers, the Stalls' memory, the host's memory
and interface, and the Loft's state. -/

namespace Sys2Proof.Machine

open Sys2Proof.Arith

/-- `t` is `s` but for what records and their reports write. -/
def State.recordsOnly (s t : State) : Prop :=
  ∃ regs mem host hif loft, t = { s with regs := regs, mem := mem, host := host, hif := hif, loft := loft }

theorem State.recordsOnly_refl (s : State) : s.recordsOnly s := ⟨_, _, _, _, _, rfl⟩

/-- A choice between two states that records and their reports lead to. -/
theorem State.recordsOnly.ite {p : Prop} [Decidable p] {s t u : State} (ht : s.recordsOnly t) (hu : s.recordsOnly u) :
    s.recordsOnly (if p then t else u) := by
  split
  · exact ht
  · exact hu

section
variable {s t : State} (h : s.recordsOnly t)
include h

theorem State.recordsOnly.setReg (off : Nat) (w : W32) : s.recordsOnly (t.setReg off w) := by
  obtain ⟨_, _, _, _, _, rfl⟩ := h
  exact ⟨_, _, _, _, _, rfl⟩

theorem State.recordsOnly.fset (f : Field) (v : Nat) : s.recordsOnly (t.fset f v) := h.setReg _ _

theorem State.recordsOnly.bump (off : Nat) : s.recordsOnly (t.bump off) := h.fset _ _

theorem State.recordsOnly.set_mem (x : List Host.Cell) : s.recordsOnly { t with mem := x } := by
  obtain ⟨_, _, _, _, _, rfl⟩ := h
  exact ⟨_, _, _, _, _, rfl⟩

theorem State.recordsOnly.set_host (x : List Host.Cell) : s.recordsOnly { t with host := x } := by
  obtain ⟨_, _, _, _, _, rfl⟩ := h
  exact ⟨_, _, _, _, _, rfl⟩

theorem State.recordsOnly.set_hif (x : Hif) : s.recordsOnly { t with hif := x } := by
  obtain ⟨_, _, _, _, _, rfl⟩ := h
  exact ⟨_, _, _, _, _, rfl⟩

theorem State.recordsOnly.set_host_hif (x : List Host.Cell) (y : Hif) : s.recordsOnly { t with host := x, hif := y } := by
  obtain ⟨_, _, _, _, _, rfl⟩ := h
  exact ⟨_, _, _, _, _, rfl⟩

theorem State.recordsOnly.set_loft (x : Loft) : s.recordsOnly { t with loft := x } := by
  obtain ⟨_, _, _, _, _, rfl⟩ := h
  exact ⟨_, _, _, _, _, rfl⟩

theorem State.recordsOnly.writeStatusBlock : s.recordsOnly t.writeStatusBlock := by
  unfold State.writeStatusBlock
  split
  · exact h
  · exact h.set_host_hif _ _

theorem State.recordsOnly.msix (v : Nat) : s.recordsOnly (t.msix v) :=
  State.recordsOnly.ite h (State.recordsOnly.ite (h.writeStatusBlock.set_hif _) (h.writeStatusBlock.set_hif _))

theorem State.recordsOnly.published (k : Nat) : s.recordsOnly (t.published k) := by
  have hidx : s.recordsOnly ((t.setReg (A.HIF_RING_ENG k) (t.reg (A.HIF_RING_ENG k) + 1)).sbChanged) :=
    (h.setReg _ _).set_hif _
  exact State.recordsOnly.ite ((hidx.set_hif _).msix k) (hidx.set_hif _)

theorem State.recordsOnly.publish (k : Nat) (bs : List Nat) : s.recordsOnly (t.publish k bs) := (h.set_host _).published k

theorem State.recordsOnly.drainEvent : s.recordsOnly t.drainEvent := by
  unfold State.drainEvent
  split
  · exact h
  · exact State.recordsOnly.ite (((h.set_hif _).publish 2 _).set_hif _) h

theorem State.recordsOnly.postEvent (e : Event) : s.recordsOnly (t.postEvent e) := by
  refine State.recordsOnly.ite h (State.recordsOnly.ite ((h.set_hif _).bump _) ?_)
  exact List.foldlRecOn (motive := s.recordsOnly) _ _ (h.set_hif _) fun _ hv _ _ => hv.drainEvent

theorem State.recordsOnly.loftAccept (code inst : Nat) (params : List Nat) : s.recordsOnly (t.loftAccept code inst params) :=
  (((State.recordsOnly.ite ((h.setReg _ _).bump _) h).set_mem _).setReg _ _).postEvent _

theorem State.recordsOnly.record (code inst : Nat) (params : List Nat) : s.recordsOnly (t.record code inst params) := by
  have hold : s.recordsOnly (if t.loft.suppressed = 0 then { t with loft := { t.loft with tokens := t.loft.tokens - 1 } }
      else ({ t with loft := { t.loft with tokens := t.loft.tokens - 1, suppressed := 0 } } : State).loftAccept 0xA01 0
        [t.loft.suppressed]) :=
    State.recordsOnly.ite (h.set_loft _) ((h.set_loft _).loftAccept _ _ _)
  have hnew := hold.loftAccept code inst params
  exact State.recordsOnly.ite h (State.recordsOnly.ite ((h.set_loft _).bump _)
    (State.recordsOnly.ite (State.recordsOnly.ite (hnew.fset _ _) hnew) hnew))

theorem State.recordsOnly.tst : t.tst = s.tst := by
  obtain ⟨_, _, _, _, _, rfl⟩ := h
  rfl

theorem State.recordsOnly.weevil : t.weevil = s.weevil := by
  obtain ⟨_, _, _, _, _, rfl⟩ := h
  rfl

end

/-! ### What a record leaves alone -/

section
variable (s : State) (code inst : Nat) (params : List Nat)

theorem State.record_only : s.recordsOnly (s.record code inst params) := (State.recordsOnly_refl s).record code inst params

theorem State.record_tst : (s.record code inst params).tst = s.tst := (s.record_only code inst params).tst

theorem State.record_weevil : (s.record code inst params).weevil = s.weevil :=
  (s.record_only code inst params).weevil

end

end Sys2Proof.Machine
end

section
/-! PROOF. Soft repair, the march and self-test (R361, R362, R447 to R451, R453, R454). -/

namespace Sys2Proof.Machine

open Sys2Proof.Arith

/-! ### Soft repair (R453, R454) -/

theorem exec_repairAdd_none {s : State} (hup : s.held .mem = false) {word : W32} (hword : parseRpr word.toNat = none) :
    exec (.repairAdd word) s = .next (s.count F.TST_RPR_STAT_BAD 1) := by
  change execRepairAdd word s = _
  simp only [execRepairAdd, hup, Bool.false_eq_true, if_false, hword]

theorem exec_repairAdd_some {s : State} (hup : s.held .mem = false) {word : W32} {e : RprEntry}
    (hword : parseRpr word.toNat = some e) : exec (.repairAdd word) s =
      .next (if 95 < e.stall ∨ ¬ s.spareFree e.stall e.spare ∨ (¬ e.dead ∧ s.rowMapped e.stall e.row) ∨
          126 ≤ s.rprCount + s.tst.copies.length then s.count F.TST_RPR_STAT_BAD 1
        else if e.dead then s.writeMap (s.mapWords ++ [e.word])
        else s.queueCopy { stall := e.stall, row := e.row, spare := e.spare, cause := 2 }) := by
  change execRepairAdd word s = _
  simp only [execRepairAdd, hup, Bool.false_eq_true, if_false, hword]

theorem State.writeMap_weevil (s : State) (ws : List Nat) : (s.writeMap ws).weevil = s.weevil := by
  rw [State.writeMap, State.fset_weevil, State.sealTack, State.fset_weevil]

/-- The entry that a finished copy puts in the map. -/
def RowCopy.entry (c : RowCopy) : RprEntry := { dead := false, row := c.row, spare := c.spare, stall := c.stall }

/-- A copy of `s` is finished: `rest` remain. -/
def State.copyMapped (s : State) (c : RowCopy) (rest : List RowCopy) : State :=
  let u : State := { s with tst := { s.tst with copies := rest } }
  (u.writeMap (u.mapWords ++ [c.entry.word])).record 0x304 c.stall [c.row, c.spare, c.cause]

theorem State.copyMapped_weevil (s : State) (c : RowCopy) (rest : List RowCopy) : (s.copyMapped c rest).weevil = s.weevil := by
  rw [State.copyMapped, State.record_weevil, State.writeMap_weevil]

/-- A region that Weevil holds in the row of copy `c` is free again. -/
def State.freeRegion (s : State) (c : RowCopy) : State :=
  if Tbl.get s.weevil.held false (c.stall / 8) ∧ s.wvPos (c.stall / 8) / 520 = c.stall % 8 ∧
      (if s.wvPos (c.stall / 8) % 520 < 512 then decide (s.wvPos (c.stall / 8) % 520 / 2 = c.row)
        else !s.spareUsed c.stall ((s.wvPos (c.stall / 8) % 520 - 512) / 2)) then
    ({ s with weevil := { s.weevil with held := Tbl.set s.weevil.held false (c.stall / 8) false,
                                        pos := Tbl.set s.weevil.pos 0 (c.stall / 8) (s.wvPos (c.stall / 8) + 1) } }).showWeevil
  else s

theorem State.freeRegion_of_free {s : State} {c : RowCopy} (h : Tbl.get s.weevil.held false (c.stall / 8) = false) :
    s.freeRegion c = s :=
  if_neg fun hx => Bool.false_ne_true (h.symm.trans hx.1)

theorem exec_repairCopyDone {s : State} (hup : s.held .mem = false) {c : RowCopy} {rest : List RowCopy}
    (hcopies : s.tst.copies = c :: rest) (hcount : s.rprCount < 126)
    (hfree : Tbl.get s.weevil.held false (c.stall / 8) = false) : exec .repairCopyDone s =
      .next (if rest = [] then (s.copyMapped c rest).fset F.TST_RPR_STAT_BUSY 0 else s.copyMapped c rest) := by
  have hweevil : Tbl.get (if rest = [] then (s.copyMapped c rest).fset F.TST_RPR_STAT_BUSY 0
      else s.copyMapped c rest).weevil.held false (c.stall / 8) = false := by
    rw [apply_ite State.weevil, State.fset_weevil, ite_self, State.copyMapped_weevil, hfree]
  rw [← State.freeRegion_of_free hweevil]
  have hcount' : ({ s with tst := { s.tst with copies := rest } } : State).rprCount < 126 := hcount
  change execRepairCopyDone s = _
  simp only [execRepairCopyDone, hcopies, hup, Bool.false_eq_true, if_false, hcount', if_true]
  rfl

/-! ### The march (R361, R362) -/

/-- The march moves on from place `pos`. -/
def State.marchOn (s : State) (p pos : Nat) : State :=
  ({ s with weevil := { s.weevil with pos := Tbl.set s.weevil.pos 0 p (pos + 1) } } : State).showWeevil

/-- The march stops at a row that it cannot give back. -/
def State.marchStuck (s : State) (p : Nat) : State :=
  ({ s with weevil := { s.weevil with held := Tbl.set s.weevil.held false p true } } : State).showWeevil

/-- A failing bit is recorded. -/
def State.bitFailed (s : State) (stall r w b : Nat) : State :=
  (s.record 0x303 stall [regionAddr stall r (w % 64), b % 72]).fset F.MEM_WV_STAT_FAIL 1

/-- What the march does at region `r` of a Stall where a bit failed. -/
def State.marchFailed (t : State) (p pos stall r : Nat) : State :=
  if r < 512 ∨ t.spareUsed stall ((r - 512) / 2) then
    if ¬ (t.marchStuck p).fon F.TST_CTRL_AUTO_REPAIR then t.marchStuck p
    else if r < 512 then (t.marchStuck p).autoRepair stall (r / 2) 0
    else (t.marchStuck p).deadSpare stall ((r - 512) / 2) 0
  else (if t.fon F.TST_CTRL_AUTO_REPAIR then t.deadSpare stall ((r - 512) / 2) 0 else t).marchOn p pos

/-- What the end of a region does, by the failing bit. -/
def State.regionDone (s : State) (p : Nat) : Option (Nat × Nat) → State
  | none => s.marchOn p (s.wvPos p)
  | some (w, b) => (s.bitFailed (8 * p + s.wvPos p / 520) (s.wvPos p % 520) w b).marchFailed p (s.wvPos p)
      (8 * p + s.wvPos p / 520) (s.wvPos p % 520)

theorem exec_weevilRegionDone (s : State) (p : Nat) (o : Option (Nat × Nat)) : exec (.weevilRegionDone p o) s =
    .next (if ¬ s.wvOn ∨ 12 ≤ p ∨ 4160 ≤ s.wvPos p ∨ Tbl.get s.weevil.held false p ∨ s.underBist p then s
      else s.regionDone p o) := by
  cases o with
  | none => rfl
  | some f => rfl

/-! ### Self-test (R447 to R451) -/

/-- The march's status bits are of the MEM block alone. -/
theorem State.reg_showWeevil {s : State} (h : s.canonical = true) {off : Nat} (hoff : 0xF0000 ≤ off) :
    s.showWeevil.canonical = true ∧ s.showWeevil.reg off = s.reg off := by
  have hstat : off ≠ A.MEM_WV_STAT := fun hx => by
    rw [hx, A.MEM_WV_STAT] at hoff
    omega
  have hrun := State.canonical_fset h F.MEM_WV_STAT_RUN (b2n s.wvOn)
  refine List.foldlRecOn (motive := fun v : State => v.canonical = true ∧ v.reg off = s.reg off) _ _
    ⟨State.canonical_fset hrun _ _, ?_⟩ fun v hv k hk => ⟨State.canonical_fset hv.1 _ _, ?_⟩
  · rw [State.reg_fset_other hrun F.MEM_WV_STAT_HELD _ hstat, State.reg_fset_other h F.MEM_WV_STAT_RUN _ hstat]
  · have hk : off ≠ (F.MEM_STALL_TEST k).off := fun hx => by
      have hk := List.mem_range.mp hk
      have hlow : 0xF0000 ≤ 0x60100 + k * 4 := hoff.trans (Nat.le_of_eq hx)
      omega
    rw [State.reg_fset_other hv.1 _ _ hk, hv.2]

theorem State.showWeevil_tst (s : State) : s.showWeevil.tst = s.tst := by
  rw [State.showWeevil, forEach, foldl_leaves State.tst fun v k => State.fset_tst _ _ _, State.fset_tst, State.fset_tst]

/-- Canonical, with the results of the self-test cleared. -/
def State.bistClear (s : State) : Prop := s.canonical = true ∧ s.reg A.TST_FAIL_CNT = 0 ∧ s.reg A.TST_ANA = 0

theorem State.bistClear.setReg {s : State} (h : s.bistClear) {off : Nat} (w : W32) (hcnt : A.TST_FAIL_CNT ≠ off)
    (hana : A.TST_ANA ≠ off) : (s.setReg off w).bistClear := by
  obtain ⟨hcan, h1, h2⟩ := h
  exact ⟨State.canonical_setReg hcan _ _, (State.reg_setReg_other hcan w hcnt).trans h1,
    (State.reg_setReg_other hcan w hana).trans h2⟩

/-- The results of the self-test, cleared (R448). -/
def State.bistCleared (t : State) : State :=
  forEach (List.range 16) (forEach (List.range 4) (((t.setReg A.TST_STAT 0).setReg A.TST_FAIL_CNT 0).setReg A.TST_ANA 0)
    (fun t g => (t.setReg (A.TST_SIG_LO g) 0).setReg (A.TST_SIG_HI g) 0))
    (fun t i => (t.setReg (A.TST_FAIL_ADDR i) 0).setReg (A.TST_FAIL_BIT i) 0)

theorem State.bistClear_bistCleared {t : State} (h : t.canonical = true) : t.bistCleared.bistClear := by
  have hstat := State.canonical_setReg h A.TST_STAT 0
  have hcnt := State.canonical_setReg hstat A.TST_FAIL_CNT 0
  have hfirst : (((t.setReg A.TST_STAT 0).setReg A.TST_FAIL_CNT 0).setReg A.TST_ANA 0).bistClear :=
    ⟨State.canonical_setReg hcnt _ _, (State.reg_setReg_other hcnt _ (by decide)).trans (State.reg_setReg_same hstat _ _),
      State.reg_setReg_same hcnt _ _⟩
  refine List.foldlRecOn (motive := State.bistClear) _ _
    (List.foldlRecOn (motive := State.bistClear) _ _ hfirst fun v hv g _ => ?_) fun v hv i _ => ?_
  · refine (hv.setReg 0 ?_ ?_).setReg 0 ?_ ?_ <;> simp only [A.TST_FAIL_CNT, A.TST_ANA, A.TST_SIG_LO, A.TST_SIG_HI] <;> omega
  · refine (hv.setReg 0 ?_ ?_).setReg 0 ?_ ?_ <;> simp only [A.TST_FAIL_CNT, A.TST_ANA, A.TST_FAIL_ADDR, A.TST_FAIL_BIT] <;> omega

theorem exec_selftestStart {s : State} (hup : s.held .mem = false) (value : W32) : exec (.selftestStart value) s =
    .next (if ¬ bit value.toNat 4 ∨ s.tst.cur.isSome ∨ [1, 2, 3, 4].filter
        (fun g => bit ((s.writePlain A.TST_CTRL value).fget F.TST_CTRL_GROUPS) (g - 1)) = [] then s.writePlain A.TST_CTRL value
      else (s.writePlain A.TST_CTRL value).bistCleared.nextGroup ([1, 2, 3, 4].filter
        (fun g => bit ((s.writePlain A.TST_CTRL value).fget F.TST_CTRL_GROUPS) (g - 1)))) :=
  congrArg Host.Outcome.next (if_neg (State.not_held hup))

/-- The group of the converters runs, and none after it. -/
def State.anaRuns (v : State) : State := ({ v with tst := { v.tst with groups := [], cur := some 4 } }).fset F.TST_STAT_RUN 1

theorem State.nextGroup_ana (v : State) : v.nextGroup [4] = v.anaRuns.showWeevil := if_neg (fun h => absurd h.1 (by decide))

theorem State.anaRuns_reads {v : State} (h : v.bistClear) : v.anaRuns.showWeevil.tst.cur = some 4 ∧
    v.anaRuns.showWeevil.tst.groups = [] ∧ v.anaRuns.showWeevil.fget F.TST_STAT_RUN = 1 ∧
    v.anaRuns.showWeevil.reg A.TST_FAIL_CNT = 0 ∧ v.anaRuns.showWeevil.reg A.TST_ANA = 0 := by
  obtain ⟨hcan, hcnt, hana⟩ := h
  have htst : ({ v with tst := { v.tst with groups := [], cur := some 4 } } : State).canonical = true :=
    ((Keeps.refl v).set_tst _ rfl).canon hcan
  have hruns : v.anaRuns.canonical = true := State.canonical_fset htst _ _
  rw [State.showWeevil_tst, State.fget, (State.reg_showWeevil hruns (by decide)).2, (State.reg_showWeevil hruns (by decide)).2,
    (State.reg_showWeevil hruns (by decide)).2]
  exact ⟨rfl, rfl, State.fget_fset_same htst _ _ (by decide) (by decide),
    (State.reg_fset_other htst _ _ (by decide)).trans hcnt, (State.reg_fset_other htst _ _ (by decide)).trans hana⟩

/-- What group 4 found, as its five checks give it. -/
def checkStates (o : GroupObs) : List Nat := (List.range 5).map (fun i => o.checks.getD i 0 % 4)

/-- Group 4 ends with the states `cs` of its checks. -/
def State.anaDone (s : State) (cs : List Nat) : State :=
  ((s.setReg A.TST_ANA (BitVec.ofNat 32 ((cs.zipIdx).foldl (fun v c => v + c.1 * 4 ^ c.2) 0))).groupResult 4
    (if cs.filter (fun c => decide (c = 2)) = [] then 1 else 2) (cs.filter (fun c => decide (c = 2))).length
    ((cs.findIdx? (fun c => decide (c = 2))).getD 0)).nextGroup s.tst.groups

theorem exec_selftestGroupDone_ana {s : State} (hup : s.held .mem = false) (hcur : s.tst.cur = some 4) (o : GroupObs) :
    exec (.selftestGroupDone o) s = .next (s.anaDone (checkStates o)) := by
  change execSelftestGroupDone o s = _
  simp only [execSelftestGroupDone, hcur, hup, Bool.false_eq_true, if_false, if_true]
  rfl

theorem checkStates_eq {o : GroupObs} {a b c d e : Nat} (ho : o.checks = [a, b, c, d, e]) (ha : a < 4) (hb : b < 4)
    (hc : c < 4) (hd : d < 4) (he : e < 4) : checkStates o = [a, b, c, d, e] := by
  rw [checkStates, ho]
  simp [List.range_succ, Nat.mod_eq_of_lt, ha, hb, hc, hd, he]

theorem anaWord (a b c d e : Nat) : ([a, b, c, d, e].zipIdx).foldl (fun v c => v + c.1 * 4 ^ c.2) 0 =
    a + b * 4 + c * 16 + d * 64 + e * 256 := by
  simp [List.zipIdx]

theorem State.reportFails_tst (s : State) (fs : List (Nat × Nat)) : (s.reportFails fs).tst = s.tst := by
  rw [State.reportFails, State.count_tst, forEach]
  refine foldl_leaves State.tst (fun v f => ?_) _ _
  split
  · rw [State.setReg_tst, State.setReg_tst]
  · rfl

theorem State.reportGroup_tst (s : State) (g : Nat) (o : GroupObs) : (s.reportGroup g o).1.tst = s.tst := by
  unfold State.reportGroup
  split
  · exact s.reportFails_tst _
  · dsimp only
    split
    · exact s.reportFails_tst _
    · rw [State.setReg_tst, State.setReg_tst, State.reportFails_tst]

theorem State.spoilStall_groups (s : State) (k : Nat) : (s.spoilStall k).tst.groups = s.tst.groups := rfl

theorem State.groupResult_tst (s : State) (g result count first : Nat) : (s.groupResult g result count first).tst = s.tst := by
  rw [State.groupResult, State.record_tst, State.fset_tst]

/-- A memory or Scarab group that found nothing ends, where rows are not repaired. -/
theorem exec_selftestGroupDone_clean {s : State} {g : Nat} {o : GroupObs} {u : State} (hup : s.held .mem = false)
    (hcur : s.tst.cur = some g) (hg : g < 4) (hnone : (s.reportGroup g o).2.1 = 0)
    (hu : u = (forEach (s.groupStalls g) (s.reportGroup g o).1 (fun v k => v.spoilStall k)).groupResult g 1 0
      (s.reportGroup g o).2.2) (hauto : u.fon F.TST_CTRL_AUTO_REPAIR = false) :
    exec (.selftestGroupDone o) s = .next (u.nextGroup s.tst.groups) := by
  have hgroups : u.tst.groups = s.tst.groups := by
    rw [hu, State.groupResult_tst, forEach, foldl_leaves (fun v : State => v.tst.groups) (State.spoilStall_groups),
      State.reportGroup_tst]
  change execSelftestGroupDone o s = _
  simp only [execSelftestGroupDone, hcur, hup, Bool.false_eq_true, if_false, Nat.ne_of_lt hg, hnone, if_true, ← hu, hauto,
    and_false, hgroups]
  rfl

/-- Settles O52: by the guards of each command, with what a record, the march's status and the cleared results leave alone. -/
theorem repairsMarchesAndSelfTestsFollowTheirRules : Obligations.RepairsMarchesAndSelfTestsFollowTheirRules := by
  intro s hup
  refine ⟨fun word hword => exec_repairAdd_none hup hword, fun word e hword => ?_, fun h => ?_,
    fun c d rest hcopies hcount hfree => ?_, fun c hcopies hcount hfree => ?_, fun p hp hpos hon hheld hbist => ?_,
    fun p o h => ?_, fun value => ?_, fun h o => ?_, fun o a b c d e hcur ho ha hb hc hd he => ?_,
    fun o g hcur hg hnone => ?_⟩
  · have hexec := exec_repairAdd_some hup hword
    refine ⟨fun hbad => hexec.trans (congrArg Host.Outcome.next (if_pos ?_)), fun hstall hfree hroom => ?_⟩
    · exact hbad.imp_right (Or.imp Bool.eq_false_iff.1 (Or.imp_left (And.imp_left Bool.eq_false_iff.1)))
    · have hgood (hrow : ¬ (¬ e.dead = true ∧ s.rowMapped e.stall e.row = true)) : ¬ (95 < e.stall ∨
          ¬ s.spareFree e.stall e.spare = true ∨ (¬ e.dead = true ∧ s.rowMapped e.stall e.row = true) ∨
          126 ≤ s.rprCount + s.tst.copies.length) := by
        rintro (h | h | h | h)
        exacts [Nat.not_lt.mpr hstall h, h hfree, hrow h, Nat.not_le.mpr hroom h]
      refine ⟨fun hdead => ?_, fun hlive hrow => ?_⟩
      · exact hexec.trans (congrArg Host.Outcome.next ((if_neg (hgood fun h => h.1 hdead)).trans (if_pos hdead)))
      · exact hexec.trans (congrArg Host.Outcome.next ((if_neg (hgood fun h => Bool.eq_false_iff.1 hrow h.2)).trans
          (if_neg (Bool.eq_false_iff.1 hlive))))
  · change execRepairCopyDone s = _
    simp only [execRepairCopyDone, h]
  · exact (exec_repairCopyDone hup hcopies hcount hfree).trans (congrArg Host.Outcome.next (if_neg (List.cons_ne_nil d rest)))
  · exact (exec_repairCopyDone hup hcopies hcount hfree).trans (congrArg Host.Outcome.next (if_pos rfl))
  · have hrun : ¬ (¬ s.wvOn = true ∨ 12 ≤ p ∨ 4160 ≤ s.wvPos p ∨ Tbl.get s.weevil.held false p = true ∨
        s.underBist p = true) := by
      rintro (h | h | h | h | h)
      exacts [h hon, Nat.not_le.mpr hp h, Nat.not_le.mpr hpos h, Bool.false_ne_true (hheld.symm.trans h),
        Bool.false_ne_true (hbist.symm.trans h)]
    have hexec (o : Option (Nat × Nat)) := (exec_weevilRegionDone s p o).trans (congrArg Host.Outcome.next (if_neg hrun))
    refine ⟨hexec none, fun w b => ⟨fun hr hauto => ?_, fun hr hauto => ?_, fun hr hspare hauto => ?_⟩⟩
    · exact (hexec _).trans (congrArg Host.Outcome.next ((if_pos (.inl hr)).trans (if_pos (Bool.eq_false_iff.1 hauto))))
    · exact (hexec _).trans (congrArg Host.Outcome.next ((if_pos (.inl hr)).trans ((if_neg (not_not.mpr hauto)).trans
        (if_pos hr))))
    · refine (hexec _).trans (congrArg Host.Outcome.next ((if_neg ?_).trans (congrArg (State.marchOn · p (s.wvPos p))
        (if_neg (Bool.eq_false_iff.1 hauto)))))
      exact fun h => h.elim (Nat.not_lt.mpr hr) (Bool.eq_false_iff.1 hspare)
  · refine (exec_weevilRegionDone s p o).trans (congrArg Host.Outcome.next (if_pos ?_))
    rcases h with h | h | h
    exacts [.inl (Bool.eq_false_iff.1 h), .inr (.inr (.inr (.inl h))), .inr (.inr (.inr (.inr h)))]
  · have hexec := exec_selftestStart hup value
    refine ⟨fun h => hexec.trans (congrArg Host.Outcome.next (if_pos ?_)), fun hstart hidle hgroups hcan => ?_⟩
    · exact h.elim (fun h => .inl (Bool.eq_false_iff.1 h)) (fun h => .inr (.inl h))
    · have hfour : [1, 2, 3, 4].filter (fun g => bit ((s.writePlain A.TST_CTRL value).fget F.TST_CTRL_GROUPS) (g - 1)) = [4] := by
        rw [hgroups]
        rfl
      rw [hfour] at hexec
      have hclear := State.bistClear_bistCleared ((State.writePlain_keeps (Keeps.refl s) A.TST_CTRL value).canon hcan)
      refine ⟨_, hexec.trans (congrArg Host.Outcome.next ((if_neg ?_).trans (State.nextGroup_ana _))),
        State.anaRuns_reads hclear⟩
      rintro (h | h | h)
      · exact h hstart
      · rw [hidle] at h
        exact Bool.false_ne_true h
      · exact List.cons_ne_nil _ _ h
  · change execSelftestGroupDone o s = _
    simp only [execSelftestGroupDone, h]
  · have hexec := exec_selftestGroupDone_ana hup hcur o
    rw [checkStates_eq ho ha hb hc hd he, State.anaDone, anaWord] at hexec
    refine ⟨fun hnone => hexec.trans ?_, fun ha hb hc hd he => hexec.trans ?_⟩
    · have hno : ∀ x ∈ [a, b, c, d, e], ¬ decide (x = 2) = true := fun x hx => by
        simpa using hnone x (ho ▸ hx)
      rw [List.filter_eq_nil_iff.mpr hno, List.findIdx?_eq_none_iff.mpr fun x hx => Bool.eq_false_iff.2 (hno x hx)]
      rfl
    · subst ha
      simp [hb, hc, hd, he, List.findIdx?_cons]
  · intro r t u hauto
    exact exec_selftestGroupDone_clean hup hcur hg hnone rfl hauto

end Sys2Proof.Machine
end

section
/-! PROOF. The tick and its overruns (R19 to R21, R147, R299, R305, R316). -/

namespace Sys2Proof.Machine

open Sys2Proof.Arith

/-! ### The tick's counters (R21, R305, R316) -/

theorem toNat_add_one (w : W32) : (w + 1).toNat = (w.toNat + 1) % 2 ^ 32 := by
  rw [BitVec.toNat_add]
  rfl

/-- The sample counter and the phase of the next tick. -/
def State.countSamples (s : State) : State :=
  (s.setReg A.TIM_SCNT (s.reg A.TIM_SCNT + 1)).fset F.TIM_TPHASE_VALUE (if 5 ≤ s.tphase then 0 else s.tphase + 1)

/-- The ECLK count `e`. -/
def State.setEcnt (s : State) (e : Nat) : State :=
  (s.setReg A.TIM_ECNT_LO (BitVec.ofNat 32 e)).setReg A.TIM_ECNT_HI (BitVec.ofNat 32 (e / 2 ^ 32))

/-- The engine's tick goes on by one. -/
def State.nextEngTick (s : State) : State := { s with eng := { s.eng with tick := s.eng.tick + 1 } }

theorem State.countTick_eq (s : State) : s.countTick = (s.countSamples.setEcnt (s.ecnt + 25600)).nextEngTick := rfl

theorem State.reg_nextEngTick (s : State) (off : Nat) : s.nextEngTick.reg off = s.reg off := rfl

theorem State.ecnt_nextEngTick (s : State) : s.nextEngTick.ecnt = s.ecnt := rfl

theorem State.mem_nextEngTick (s : State) : s.nextEngTick.mem = s.mem := rfl

theorem State.engTick_nextEngTick (s : State) : s.nextEngTick.eng.tick = s.eng.tick + 1 := rfl

theorem State.fget_nextEngTick (s : State) (f : Field) : s.nextEngTick.fget f = s.fget f := rfl

theorem State.mem_countTick (s : State) : s.countTick.mem = s.mem := by
  rw [State.countTick_eq, State.mem_nextEngTick, State.setEcnt, State.countSamples, State.setReg_mem, State.setReg_mem,
    State.fset_mem, State.setReg_mem]

theorem State.engTick_countTick (s : State) : s.countTick.eng.tick = s.eng.tick + 1 := by
  rw [State.countTick_eq, State.engTick_nextEngTick, State.setEcnt, State.countSamples, State.setReg_eng, State.setReg_eng,
    State.fset_eng, State.setReg_eng]

section
variable {s : State} (h : s.canonical = true)
include h

theorem State.canonical_countSamples : s.countSamples.canonical = true :=
  State.canonical_fset (State.canonical_setReg h _ _) _ _

theorem State.reg_setEcnt_other (e : Nat) {off : Nat} (hlo : off ≠ A.TIM_ECNT_LO) (hhi : off ≠ A.TIM_ECNT_HI) :
    (s.setEcnt e).reg off = s.reg off :=
  (State.reg_setReg_other (State.canonical_setReg h _ _) _ hhi).trans (State.reg_setReg_other h _ hlo)

theorem State.ecnt_setEcnt (e : Nat) : (s.setEcnt e).ecnt = e % 2 ^ 64 := by
  have hset := State.canonical_setReg h A.TIM_ECNT_LO (BitVec.ofNat 32 e)
  rw [State.ecnt, State.setEcnt, State.reg_setReg_same hset, State.reg_setReg_other hset _ (by decide),
    State.reg_setReg_same h, BitVec.toNat_ofNat, BitVec.toNat_ofNat]
  omega

theorem State.reg_countTick_other {off : Nat} (hoff : off ∉ [A.TIM_SCNT, A.TIM_TPHASE, A.TIM_ECNT_LO, A.TIM_ECNT_HI]) :
    s.countTick.reg off = s.reg off := by
  simp only [List.mem_cons, List.not_mem_nil, or_false, not_or] at hoff
  obtain ⟨hscnt, hphase, hlo, hhi⟩ := hoff
  rw [State.countTick_eq, State.reg_nextEngTick, State.reg_setEcnt_other (State.canonical_countSamples h) _ hlo hhi,
    State.countSamples, State.reg_fset_other (State.canonical_setReg h _ _) _ _ hphase, State.reg_setReg_other h _ hscnt]

theorem State.scnt_countTick : s.countTick.scnt = (s.scnt + 1) % 2 ^ 32 := by
  rw [State.scnt, State.countTick_eq, State.reg_nextEngTick, State.reg_setEcnt_other (State.canonical_countSamples h) _
    (by decide) (by decide), State.countSamples, State.reg_fset_other (State.canonical_setReg h _ _) _ _ (by decide),
    State.reg_setReg_same h, toNat_add_one, State.scnt]

theorem State.tphase_countTick : s.countTick.tphase = if 5 ≤ s.tphase then 0 else s.tphase + 1 := by
  have hread := State.fget_fset_same (State.canonical_setReg h A.TIM_SCNT (s.reg A.TIM_SCNT + 1)) F.TIM_TPHASE_VALUE
    (if 5 ≤ s.tphase then 0 else s.tphase + 1) (by decide) (by decide)
  rw [State.tphase, State.countTick_eq, State.fget_nextEngTick, State.fget,
    State.reg_setEcnt_other (State.canonical_countSamples h) _ (by decide) (by decide)]
  refine hread.trans (Nat.mod_eq_of_lt ?_)
  change _ < 8
  split_ifs <;> omega

theorem State.ecnt_countTick : s.countTick.ecnt = (s.ecnt + 25600) % 2 ^ 64 := by
  rw [State.countTick_eq, State.ecnt_nextEngTick, State.ecnt_setEcnt (State.canonical_countSamples h)]

end

/-! ### A core that has not finished (R147) -/

/-- The locks of the task that core `n` runs are released. -/
def State.overrunLocks (g : State) (n : Nat) : State :=
  match (g.core n).current with
  | none => g
  | some t => (g.lockWithdraw (coreOwner n)).breakTaskLocks n t

/-- A core whose running task ends with its outputs zero. -/
def Core.taskStopped (c : Core) : Option Task → Core
  | none => c
  | some t => (c.zeroOut t).setTask { t with run := .stopped }

/-- The tasks that wait are skipped. -/
def skipWaiting (l : List Task) : List Task := l.map (fun (t : Task) => if t.run = TaskRun.waiting then { t with run := .skipped } else t)

def Core.withTasks (c : Core) (l : List Task) : Core := { c with tasks := l }

/-- The overrun of core `n`, which is now `c`, is counted and recorded. -/
def State.overrunNoted (h : State) (n idx : Nat) (c : Core) : State :=
  ((h.setCore n (c.withTasks (skipWaiting c.tasks)).halt).bump (A.SCB_OVERRUN_CNT n)).fatalFault.record 0x402 n
    [idx, c.pc, (h.setCore n (c.withTasks (skipWaiting c.tasks)).halt).scnt]

/-- What follows the landing of core `n`'s results. -/
def State.overrunEnds (g : State) (n idx : Nat) : State :=
  (g.overrunLocks n).overrunNoted n idx (((g.overrunLocks n).core n).taskStopped (g.core n).current)

/-- The model's words from the landing on. -/
def State.overrunRest (s : State) (n idx : Nat) : State :=
  let cur := (s.core n).current
  let s := match cur with
    | none => s
    | some t => (s.lockWithdraw (coreOwner n)).breakTaskLocks n t
  let c := s.core n
  let c := match cur with
    | none => c
    | some t => (c.zeroOut t).setTask { t with run := .stopped }
  let c := { c with tasks := c.tasks.map (fun (t : Task) => if t.run = TaskRun.waiting then { t with run := .skipped } else t) }
  let s := s.setCore n c.halt
  (s.bump (A.SCB_OVERRUN_CNT n)).fatalFault.record 0x402 n [idx, c.pc, s.scnt]

theorem State.overrunRest_eq (g : State) (n idx : Nat) : g.overrunRest n idx = g.overrunEnds n idx := by
  unfold State.overrunRest State.overrunEnds State.overrunLocks
  cases (g.core n).current with
  | none => rfl
  | some t => rfl

theorem State.taskOverrun_none {s : State} {n : Nat} (hrun : (s.core n).running = none) :
    s.taskOverrun n = ((s.noteFault n 0xFFFF 6 (s.core n).pc).settleAll n).overrunEnds n 0xFFFF := by
  rw [← State.overrunRest_eq]
  unfold State.taskOverrun
  simp only [hrun]
  rfl

theorem State.taskOverrun_some {s : State} {n : Nat} {r : Nat × Nat} (hrun : (s.core n).running = some r) :
    s.taskOverrun n = ((s.noteFault n r.2 6 (s.core n).pc).settleAll n).overrunEnds n r.2 := by
  rw [← State.overrunRest_eq]
  unfold State.taskOverrun
  simp only [hrun]
  rfl

/-- A core with nothing in flight. -/
def Core.landed (c : Core) : Core := { c with inflight := [] }

theorem Core.landed_of_empty {c : Core} (h : c.inflight = []) : c.landed = c := by
  cases c
  cases h
  rfl

theorem State.settleAll_eq (s : State) (n : Nat) :
    s.settleAll n = forEach (s.core n).inflight (s.setCore n (s.core n).landed) (fun s r => s.landResult n r) := rfl

/-- Nothing in flight lands. -/
theorem State.settleAll_idle {s : State} (h : s.canonical = true) {n : Nat} (hempty : (s.core n).inflight = []) :
    s.settleAll n = s := by
  rw [State.settleAll_eq, Core.landed_of_empty hempty, hempty, State.setCore_core h]
  rfl

/-- A core whose fault registers hold a fault that has not been read. -/
def Core.faultKept (c : Core) : Core := { c with faultRead := false }

/-- The registers of core `n` hold a fault. -/
def State.setFault (s : State) (n idx code pc : Nat) : State :=
  (((s.fset (F.SCB_FAULT_TASK n) idx).fset (F.SCB_FAULT_CODE n) code).fset (F.SCB_FAULT_PC_PC n) pc).fset
    (F.SCB_FAULT_TICK_TICK n) s.scnt

theorem State.noteFault_eq (s : State) (n idx code pc : Nat) : s.noteFault n idx code pc =
    if (s.core n).faultRead then (s.setCore n (s.core n).faultKept).setFault n idx code pc else s := rfl

theorem State.core_fset (s : State) (f : Field) (v k : Nat) : (s.fset f v).core k = s.core k := rfl

/-- A fault that is noted changes of a core whether its registers were read. -/
theorem State.core_noteFault {s : State} (h : s.canonical = true) (n idx code pc : Nat) :
    (s.noteFault n idx code pc).core n = if (s.core n).faultRead then (s.core n).faultKept else s.core n := by
  rw [State.noteFault_eq]
  split
  · rw [State.setFault, State.core_fset, State.core_fset, State.core_fset, State.core_fset, State.core_setCore_same h]
  · rfl

/-- What a fault that is noted leaves of a core. -/
theorem State.core_noteFault_reads {s : State} (h : s.canonical = true) (n idx code pc : Nat) :
    ((s.noteFault n idx code pc).core n).running = (s.core n).running ∧
      ((s.noteFault n idx code pc).core n).inflight = (s.core n).inflight ∧
      ((s.noteFault n idx code pc).core n).pc = (s.core n).pc ∧
      ((s.noteFault n idx code pc).core n).tasks = (s.core n).tasks := by
  rw [State.core_noteFault h]
  split
  · exact ⟨rfl, rfl, rfl, rfl⟩
  · exact ⟨rfl, rfl, rfl, rfl⟩

/-- The overrun of a core that runs nothing, has nothing in flight, and has tasks waiting. -/
theorem State.taskOverrun_idle {s : State} (h : s.canonical = true) {n : Nat} (hrun : (s.core n).running = none)
    (hempty : (s.core n).inflight = []) {v w : State} (hv : v = s.noteFault n 0xFFFF 6 (s.core n).pc)
    (hw : w = v.setCore n ((v.core n).withTasks (skipWaiting (s.core n).tasks)).halt) :
    s.taskOverrun n = (w.bump (A.SCB_OVERRUN_CNT n)).fatalFault.record 0x402 n [0xFFFF, (s.core n).pc, w.scnt] := by
  obtain ⟨hrun', hempty', hpc, htasks⟩ := State.core_noteFault_reads h n 0xFFFF 6 (s.core n).pc
  have hcan : v.canonical = true := hv ▸ (State.noteFault_keeps (Keeps.refl s) n 0xFFFF 6 (s.core n).pc).canon h
  rw [← hv] at hrun' hempty' hpc htasks
  have hcur : (v.core n).current = none := by rw [Core.current, hrun', hrun]
  rw [State.taskOverrun_none hrun, ← hv, State.settleAll_idle hcan (hempty'.trans hempty), State.overrunEnds,
    State.overrunLocks, hcur, Core.taskStopped, State.overrunNoted, hpc, htasks, ← hw]

theorem exec_taskOverrun (s : State) (n : Nat) :
    exec (.taskOverrun n) s = .next (if s.up .eng ∧ (s.core n).unfinished then s.taskOverrun n else s) := rfl

/-! ### A stage that has not finished (R20) -/

/-- The outputs of the nodes `unwritten` of stage `stage` hold zero. -/
def State.zeroStage (s : State) (stage : Nat) (unwritten : List Nat) : State :=
  forEach unwritten s (fun v a =>
    if (v.nodeAt (a / 65536, a % 65536)).stage ≠ stage ∨ (v.nodeAt (a / 65536, a % 65536)).isTask = true ∨
        (v.nodeAt (a / 65536, a % 65536)).samples v.tphase = 0 then v
    else v.pushOut (v.xfView s.eng.tick) (a / 65536) (a % 65536)
      { tick := s.eng.tick
        ports := List.replicate (v.nodeAt (a / 65536, a % 65536)).outputs
          (List.replicate ((v.nodeAt (a / 65536, a % 65536)).samples v.tphase) (0 : Int))
        exact := if (v.nodeAt (a / 65536, a % 65536)).type = T.mix then
          List.replicate ((v.nodeAt (a / 65536, a % 65536)).samples v.tphase) (0 : Int) else [] })

/-- The overrun of a tick counts once. -/
def State.countOverrun (z : State) (t : Nat) : State :=
  if z.eng.overAt = some t then z else { z with eng := { z.eng with overAt := some t } }.bump A.ENG_OVERRUN_CNT

/-- The overrun of stage `stage` is recorded. -/
def State.recordOverrun (u : State) (stage : Nat) : State :=
  (u.fset F.ENG_OVERRUN_SRC_STAGE stage).fatalFault.record 0x401 stage [u.scnt]

theorem exec_stageOverrun (s : State) (stage : Nat) (unwritten : List Nat) : exec (.stageOverrun stage unwritten) s =
    .next (if s.held .eng ∨ stage < 1 ∨ 4 < stage then s
      else ((s.zeroStage stage unwritten).countOverrun s.eng.tick).recordOverrun stage) := rfl

theorem exec_tick (inp : TickIn) (s : State) :
    exec (.tick inp) s = .next (if s.held .clk ∨ ¬ s.clockOk 2 then s else s.tick inp) := rfl

/-- Settles O54: by the guards of the tick and of the overruns, with the counters of a tick read back from a canonical register
file, and the landing of an idle core's results, which changes nothing. -/
theorem ticksCountAndOverrunsStop : Obligations.TicksCountAndOverrunsStop := by
  intro s
  refine ⟨fun inp h => ?_, fun inp hup hclk => ?_, fun h => ?_, fun n hup hrun hempty hcan hwait => ?_,
    fun n r hup hrun => ?_, fun n h => ?_, fun stage unwritten hup hlow hhigh => ?_, fun stage unwritten h => ?_⟩
  · exact (exec_tick inp s).trans (congrArg Host.Outcome.next (if_pos (h.imp_right Bool.eq_false_iff.1)))
  · refine (exec_tick inp s).trans (congrArg Host.Outcome.next (if_neg ?_))
    exact not_or.mpr ⟨State.not_held hup, not_not.mpr hclk⟩
  · refine ⟨State.scnt_countTick h, fun hlast => ?_, fun hlast => ?_, State.ecnt_countTick h, s.engTick_countTick,
      fun off hoff => State.reg_countTick_other h hoff, s.mem_countTick⟩
    · exact (State.tphase_countTick h).trans (if_neg (Nat.not_le.mpr hlast))
    · exact (State.tphase_countTick h).trans (if_pos hlast)
  · refine (exec_taskOverrun s n).trans (congrArg Host.Outcome.next ((if_pos ⟨hup, ?_⟩).trans
      (State.taskOverrun_idle hcan hrun hempty rfl rfl)))
    obtain ⟨t, ht, hw⟩ := hwait
    exact Bool.or_eq_true_iff.mpr (.inr (List.any_eq_true.mpr ⟨t, ht, decide_eq_true hw⟩))
  · refine (exec_taskOverrun s n).trans (congrArg Host.Outcome.next ((if_pos ⟨hup, ?_⟩).trans
      (State.taskOverrun_some hrun)))
    rw [Core.unfinished, hrun]
    rfl
  · refine (exec_taskOverrun s n).trans (congrArg Host.Outcome.next (if_neg fun hx => ?_))
    rcases h with h | ⟨hrun, hwait⟩
    · exact Bool.false_ne_true (h.symm.trans hx.1)
    · have hwaits := hx.2
      rw [Core.unfinished, hrun] at hwaits
      obtain ⟨t, ht, hw⟩ := List.any_eq_true.mp hwaits
      exact hwait t ht (of_decide_eq_true hw)
  · refine (exec_stageOverrun s stage unwritten).trans (congrArg Host.Outcome.next (if_neg ?_))
    rintro (h | h | h)
    exacts [State.not_held hup h, Nat.not_lt.mpr hlow h, Nat.not_lt.mpr hhigh h]
  · refine (exec_stageOverrun s stage unwritten).trans (congrArg Host.Outcome.next (if_pos ?_))
    exact h.imp_right (Or.imp_left Nat.lt_one_iff.mpr)

end Sys2Proof.Machine
end

section
/-! PROOF. Register access types, the scratch register, and the values after a power-on reset (R9, R11, R13, R14, R412, R417). -/

namespace Sys2Proof.Machine

open Sys2Proof.Arith

/-! ### The bits of a register's fields -/

/-- Whether bit `i` lies in a field. -/
def FieldDef.covers (f : FieldDef) (i : Nat) : Bool := decide (f.lo ≤ i ∧ i ≤ f.hi)

theorem FieldDef.covers_iff {f : FieldDef} {i : Nat} : f.covers i = true ↔ f.lo ≤ i ∧ i ≤ f.hi := decide_eq_true_iff

theorem FieldDef.mask_testBit {f : FieldDef} (h : f.lo ≤ f.hi) (i : Nat) : f.mask.testBit i = f.covers i := by
  have hmask : f.mask = 2 ^ f.lo * (2 ^ (f.hi + 1 - f.lo) - 1) := by
    rw [Nat.mul_sub, ← Nat.pow_add, Nat.add_sub_cancel' (Nat.le_succ_of_le h), Nat.mul_one, FieldDef.mask]
  rw [hmask, Nat.testBit_two_pow_mul, Nat.testBit_two_pow_sub_one, FieldDef.covers, ← Bool.decide_and]
  exact decide_eq_decide.mpr ⟨fun h => ⟨h.1, by omega⟩, fun h => ⟨h.1, by omega⟩⟩

/-- A bit of the mask of the fields whose access type satisfies `p`. -/
theorem maskOf_testBit (p : Acc → Bool) (i : Nat) {l : List FieldDef} (h : ∀ f ∈ l, f.lo ≤ f.hi) (m : Nat) :
    (l.foldl (fun m f => if p f.acc then m ||| f.mask else m) m).testBit i = (m.testBit i || l.any (fun f => p f.acc && f.covers i)) := by
  induction l generalizing m with
  | nil => exact (Bool.or_false _).symm
  | cons f rest ih =>
    rw [List.foldl_cons, ih fun g hg => h g (List.mem_cons_of_mem _ hg), List.any_cons, ← Bool.or_assoc]
    congr 1
    split
    case isTrue hp => rw [Nat.testBit_or, FieldDef.mask_testBit (h f List.mem_cons_self), hp, Bool.true_and]
    case isFalse hp => rw [Bool.eq_false_iff.2 hp, Bool.false_and, Bool.or_false]

/-- A bit lies in one field at most. -/
theorem any_covers_of_mem (p : Acc → Bool) {i top : Nat} {l : List FieldDef} (h : fieldsBelow top l = true) {f : FieldDef}
    (hf : f ∈ l) (hi : f.covers i = true) : l.any (fun g => p g.acc && g.covers i) = p f.acc := by
  obtain ⟨hlo, hhi⟩ := FieldDef.covers_iff.mp hi
  induction l generalizing top with
  | nil => exact absurd hf List.not_mem_nil
  | cons g rest ih =>
    simp only [fieldsBelow, Bool.and_eq_true, decide_eq_true_eq] at h
    obtain ⟨-, hrest⟩ := h
    rw [List.any_cons]
    rcases List.mem_cons.mp hf with rfl | hf
    · have hnone : rest.any (fun g => p g.acc && g.covers i) = false := List.any_eq_false.mpr fun g hg hx => by
        have htop := (fieldsBelow_mem hrest g hg).2.1
        have hcov := FieldDef.covers_iff.mp (Bool.and_eq_true_iff.mp hx).2
        omega
      rw [hnone, hi, Bool.and_true, Bool.or_false]
    · have hnone : g.covers i = false := Bool.eq_false_iff.2 fun hx => by
        have htop := (fieldsBelow_mem hrest f hf).2.1
        have hcov := FieldDef.covers_iff.mp hx
        omega
      rw [ih hrest hf, hnone, Bool.and_false, Bool.false_or]

section
variable {d : RegDef} (hd : fieldsBelow 32 d.fields = true) (p : Acc → Bool) {i : Nat}
include hd

theorem RegDef.mask_testBit : (d.mask p).testBit i = d.fields.any (fun f => p f.acc && f.covers i) := by
  rw [RegDef.mask, maskOf_testBit p i (fun f hf => (fieldsBelow_mem hd f hf).1), Nat.zero_testBit, Bool.false_or]

theorem RegDef.mask_testBit_of_mem {f : FieldDef} (hf : f ∈ d.fields) (hlo : f.lo ≤ i) (hhi : i ≤ f.hi) :
    (d.mask p).testBit i = p f.acc := by
  rw [RegDef.mask_testBit hd, any_covers_of_mem p hd hf (FieldDef.covers_iff.mpr ⟨hlo, hhi⟩)]

theorem RegDef.mask_testBit_outside (hout : ∀ f ∈ d.fields, i < f.lo ∨ f.hi < i) : (d.mask p).testBit i = false := by
  rw [RegDef.mask_testBit hd]
  refine List.any_eq_false.mpr fun f hf hx => ?_
  obtain ⟨hlo, hhi⟩ := FieldDef.covers_iff.mp (Bool.and_eq_true_iff.mp hx).2
  exact (hout f hf).elim (Nat.not_lt.mpr hlo) (Nat.not_lt.mpr hhi)

end

/-! ### What a write leaves (R9, R11, R13) -/

/-- A bit that a write leaves, by the masks that it lies in: `w` set, `c` cleared by 1. -/
def writtenBit (w c old v : Bool) : Bool := ((old && !w) || (v && w)) && !(c && v)

/-- The mask of the bits that a write sets. -/
def RegDef.setMask (d : RegDef) (locked : Bool) : Nat :=
  d.mask (fun a => a = .rw) ||| if locked then 0 else d.mask (fun a => a = .rwl)

theorem writtenWord_getLsbD (old : W32) (d : RegDef) (locked : Bool) (v : W32) {i : Nat} (hi : i < 32) :
    (writtenWord old d locked v).getLsbD i = writtenBit ((d.setMask locked).testBit i) ((d.mask (fun a => a = .w1c)).testBit i)
      (old.getLsbD i) (v.getLsbD i) := by
  simp only [writtenWord, writtenBit, BitVec.getLsbD_and, BitVec.getLsbD_or, BitVec.getLsbD_not, BitVec.getLsbD_ofNat, hi,
    decide_true, Bool.true_and, RegDef.setMask]

section
variable {d : RegDef} (hd : fieldsBelow 32 d.fields = true) (old v : W32) (locked : Bool) {i : Nat}
include hd

/-- A bit of a field, by the field's access type. -/
theorem writtenWord_getLsbD_of_mem {f : FieldDef} (hf : f ∈ d.fields) (hlo : f.lo ≤ i) (hhi : i ≤ f.hi) :
    (writtenWord old d locked v).getLsbD i = writtenBit (decide (f.acc = .rw) || (!locked && decide (f.acc = .rwl)))
      (decide (f.acc = .w1c)) (old.getLsbD i) (v.getLsbD i) := by
  have hi : i < 32 := Nat.lt_of_le_of_lt hhi (fieldsBelow_mem hd f hf).2.1
  have hset : (d.setMask locked).testBit i = (decide (f.acc = .rw) || (!locked && decide (f.acc = .rwl))) := by
    rw [RegDef.setMask, Nat.testBit_or, RegDef.mask_testBit_of_mem hd _ hf hlo hhi]
    cases locked with
    | true => exact congrArg _ (Nat.zero_testBit i)
    | false =>
      rw [if_neg Bool.false_ne_true, RegDef.mask_testBit_of_mem hd _ hf hlo hhi]
      rfl
  rw [writtenWord_getLsbD old d locked v hi, hset, RegDef.mask_testBit_of_mem hd _ hf hlo hhi]

/-- A reserved bit. -/
theorem writtenWord_getLsbD_outside (hout : ∀ f ∈ d.fields, i < f.lo ∨ f.hi < i) :
    (writtenWord old d locked v).getLsbD i = old.getLsbD i := by
  rcases Nat.lt_or_ge i 32 with hi | hi
  · have hset : (d.setMask locked).testBit i = false := by
      rw [RegDef.setMask, Nat.testBit_or, RegDef.mask_testBit_outside hd _ hout, Bool.false_or]
      cases locked with
      | true => exact Nat.zero_testBit i
      | false => rw [if_neg Bool.false_ne_true, RegDef.mask_testBit_outside hd _ hout]
    rw [writtenWord_getLsbD old d locked v hi, hset, RegDef.mask_testBit_outside hd _ hout]
    simp only [writtenBit, Bool.not_false, Bool.and_true, Bool.and_false, Bool.or_false, Bool.false_and]
  · rw [BitVec.getLsbD_of_ge _ _ hi, BitVec.getLsbD_of_ge _ _ hi]

end

theorem State.writePlain_held {s : State} {off : Nat} {d : RegDef} (hd : regDef off = some d) (hheld : s.held d.dom = true)
    (v : W32) : s.writePlain off v = s := by
  simp only [State.writePlain, hd, hheld, if_true]

theorem State.writePlain_up {s : State} {off : Nat} {d : RegDef} (hd : regDef off = some d) (hup : s.held d.dom = false)
    (v : W32) : s.writePlain off v = s.setReg off (writtenWord (s.reg off) d (s.lockedReg d) v) := by
  simp only [State.writePlain, hd, hup, Bool.false_eq_true, if_false]

/-! ### The scratch register (R14) -/

/-- The scratch register's entry: one RW field. -/
def scratchDef : RegDef := ⟨0x00010, 1, 0x0, 1, 0x0, .aon, none, [⟨31, 0, .rw, 0⟩]⟩

theorem regDef_scratch : regDef A.GLB_SCRATCH = some scratchDef := by decide

theorem writtenWord_scratch (old v : W32) (locked : Bool) : writtenWord old scratchDef locked v = v := by
  refine BitVec.eq_of_getLsbD_eq fun i hi => ?_
  rw [writtenWord_getLsbD_of_mem (f := ⟨31, 0, .rw, 0⟩) (by decide) old v locked List.mem_cons_self (Nat.zero_le i)
    (Nat.le_of_lt_succ hi)]
  simp [writtenBit]

theorem shown_scratch (s : State) (rid : Nat) : s.shown rid A.GLB_SCRATCH = s.reg A.GLB_SCRATCH := by
  have hwo : woMask A.GLB_SCRATCH = 0 := by decide
  unfold State.shown
  rw [hwo]
  exact BitVec.and_allOnes

theorem readValue_scratch (s : State) (master rid : Nat) : s.readValue master rid A.GLB_SCRATCH = s.reg A.GLB_SCRATCH := by
  have hhead : ¬ (snapHead A.GLB_SCRATCH).isSome = true := by decide
  unfold State.readValue
  split
  · exact (if_neg hhead).trans (shown_scratch s rid)
  · exact shown_scratch s rid

/-- A read of the scratch register clears nothing and takes no snapshot. -/
theorem readReg_scratch (s : State) (master rid : Nat) : s.readReg master rid A.GLB_SCRATCH = (s.reg A.GLB_SCRATCH, s) := by
  have hsnap : s.snapshot master rid A.GLB_SCRATCH = s := by
    have hgroup : snapGroup A.GLB_SCRATCH = [] := by decide
    rw [State.snapshot, hgroup]
    rfl
  have hrc : rcMask A.GLB_SCRATCH = 0 := by decide
  unfold State.readReg
  rw [readValue_scratch, hsnap, hrc]
  exact (if_neg (by decide)).trans (if_neg (by decide))

section
variable {s : State} {a : BusAccess} (hsize : a.size = 4) (hoff : a.off = A.GLB_SCRATCH)
include hsize hoff

theorem accessKind_scratch : accessKind a = 0 := by
  unfold accessKind
  rw [hsize, hoff]
  exact (if_neg (by decide)).trans ((if_pos (by decide)).trans (if_pos (by decide)))

/-- A write of the scratch register. -/
theorem exec_registerWrite_scratch (hup : s.held .aon = false) (hq : s.quiescing .aon = false) (v : W32) :
    exec (.registerWrite a v) s = .next { s.setReg A.GLB_SCRATCH v with reply := {} } := by
  have href : s.busRefused a = false := by
    simp only [State.busRefused, hoff, regDef_scratch]
    exact hq
  have hwrite : s.writeReg (masterRid a.master) A.GLB_SCRATCH v = s.setReg A.GLB_SCRATCH v := by
    have hplain := (State.writePlain_up regDef_scratch hup v).trans (congrArg _ (writtenWord_scratch _ v _))
    simp only [State.writeReg, regDef_scratch]
    exact (if_neg (State.not_held hup)).trans hplain
  refine congrArg Host.Outcome.next ?_
  unfold State.busWrite
  rw [accessKind_scratch hsize hoff, href, hoff, hwrite]
  rfl

/-- A read of the scratch register. -/
theorem exec_readClear_scratch (hq : s.quiescing .aon = false) :
    exec (.readClear a) s = .next { s with reply := { abort := false, data := s.reg A.GLB_SCRATCH } } := by
  have href : s.busRefused a = false := by
    simp only [State.busRefused, hoff, regDef_scratch]
    exact hq
  refine congrArg Host.Outcome.next ?_
  unfold State.busRead
  rw [accessKind_scratch hsize hoff, href, hoff, readReg_scratch]
  rfl

end

end Sys2Proof.Machine
end

section
/-! PROOF. The register map's access types and reset values (R9, R11, R13, R14, R412, R417). -/

namespace Sys2Proof.Machine

open Sys2Proof.Arith

/-- What a write leaves of a bit, by the access type `acc` of its field. -/
theorem writtenBit_access (acc : Acc) (locked old v : Bool) :
    (acc = .rw ∨ (acc = .rwl ∧ locked = false) →
      writtenBit (decide (acc = .rw) || (!locked && decide (acc = .rwl))) (decide (acc = .w1c)) old v = v) ∧
    (acc = .rwl → locked = true →
      writtenBit (decide (acc = .rw) || (!locked && decide (acc = .rwl))) (decide (acc = .w1c)) old v = old) ∧
    (acc = .w1c →
      writtenBit (decide (acc = .rw) || (!locked && decide (acc = .rwl))) (decide (acc = .w1c)) old v = (old && !v)) ∧
    (acc = .ro ∨ acc = .wo ∨ acc = .rc →
      writtenBit (decide (acc = .rw) || (!locked && decide (acc = .rwl))) (decide (acc = .w1c)) old v = old) := by
  revert locked old v
  cases acc with
  | rw => decide
  | ro => decide
  | wo => decide
  | w1c => decide
  | rc => decide
  | rwl => decide

/-- Settles O56: each bit of a written word by the one field that it lies in, and the scratch register's write and read. -/
theorem registerBitsFollowTheirAccessTypes : Obligations.RegisterBitsFollowTheirAccessTypes := by
  intro s off d v hcan hd
  have hfields := regDef_fields hd
  refine ⟨fun hheld => State.writePlain_held hd hheld v, fun hup => ?_, fun a hsize hoff hup hq => ?_⟩
  · intro t
    have hwrite : t = s.setReg off (writtenWord (s.reg off) d (s.lockedReg d) v) := State.writePlain_up hd hup v
    have hword : t.reg off = writtenWord (s.reg off) d (s.lockedReg d) v := by rw [hwrite, State.reg_setReg_same hcan]
    rw [hword]
    refine ⟨fun f hf i hlo hhi => ?_, fun i hout => writtenWord_getLsbD_outside hfields _ _ _ hout, fun o ho => ?_, ?_, ?_⟩
    · rw [writtenWord_getLsbD_of_mem hfields _ _ _ hf hlo hhi]
      exact writtenBit_access f.acc (s.lockedReg d) _ _
    · rw [hwrite, State.reg_setReg_other hcan _ ho]
    · rw [hwrite, State.setReg_mem]
    · rw [hwrite, State.setReg_pending]
  · have hreg : (s.setReg A.GLB_SCRATCH v).reg A.GLB_SCRATCH = v := State.reg_setReg_same hcan _ _
    refine ⟨_, exec_registerWrite_scratch hsize hoff hup hq v, hreg, fun o ho => State.reg_setReg_other hcan _ ho,
      _, exec_readClear_scratch hsize hoff hq, congrArg _ hreg, hreg⟩

/-! ### Reset values (R13, R14, R412, R417) -/

/-- The fields of a register at their reset values. -/
def resetFields (l : List FieldDef) : Nat := (l.map (fun f => f.reset * 2 ^ f.lo)).sum

theorem foldl_resetFields (l : List FieldDef) (m : Nat) : l.foldl (fun m f => m + f.reset * 2 ^ f.lo) m = m + resetFields l := by
  induction l generalizing m with
  | nil => rfl
  | cons f rest ih =>
    rw [List.foldl_cons, ih, Nat.add_assoc]
    rfl

theorem resetFields_cons (f : FieldDef) (l : List FieldDef) : resetFields (f :: l) = 2 ^ f.lo * f.reset + resetFields l := by
  rw [Nat.mul_comm]
  rfl

theorem resetFields_lt {top : Nat} {l : List FieldDef} (h : fieldsBelow top l = true) : resetFields l < 2 ^ top := by
  induction l generalizing top with
  | nil => exact Nat.two_pow_pos top
  | cons f rest ih =>
    simp only [fieldsBelow, Bool.and_eq_true, decide_eq_true_eq] at h
    obtain ⟨⟨⟨hlo, hhi⟩, hreset⟩, hrest⟩ := h
    rw [resetFields_cons]
    calc 2 ^ f.lo * f.reset + resetFields rest < 2 ^ f.lo * f.reset + 2 ^ f.lo := Nat.add_lt_add_left (ih hrest) _
      _ = 2 ^ f.lo * (f.reset + 1) := by rw [Nat.mul_succ]
      _ ≤ 2 ^ f.lo * 2 ^ (f.hi + 1 - f.lo) := Nat.mul_le_mul_left _ hreset
      _ = 2 ^ (f.hi + 1) := by rw [← Nat.pow_add, Nat.add_sub_cancel' (Nat.le_succ_of_le hlo)]
      _ ≤ 2 ^ top := Nat.pow_le_pow_right (by decide) hhi

/-- A field of the register reads its reset value. -/
theorem bits_resetFields {top : Nat} {l : List FieldDef} (h : fieldsBelow top l = true) {f : FieldDef} (hf : f ∈ l) :
    bits (resetFields l) f.hi f.lo = f.reset := by
  induction l generalizing top with
  | nil => exact absurd hf List.not_mem_nil
  | cons g rest ih =>
    simp only [fieldsBelow, Bool.and_eq_true, decide_eq_true_eq] at h
    obtain ⟨⟨-, hreset⟩, hrest⟩ := h
    have hbelow := resetFields_lt hrest
    rw [resetFields_cons]
    rcases List.mem_cons.mp hf with rfl | hf
    · rw [bits, Nat.mul_add_div (Nat.two_pow_pos _), Nat.div_eq_of_lt hbelow, Nat.add_zero, Nat.mod_eq_of_lt hreset]
    · have htop := (fieldsBelow_mem hrest f hf).2.1
      rw [← ih hrest hf]
      refine Nat.eq_of_testBit_eq fun i => ?_
      rw [testBit_bits, testBit_bits, Nat.testBit_two_pow_mul_add _ hbelow]
      by_cases hi : i < f.hi + 1 - f.lo
      · rw [if_pos (by omega)]
      · rw [decide_eq_false hi, Bool.false_and, Bool.false_and]

theorem State.reg_reset (off : Nat) : State.reset.reg off = resetWord off := rfl

theorem resetWord_of_table {off : Nat} {d : RegDef} (hd : regDef off = some d) (hindex : indexedReset off = none)
    (hlo : off ≠ A.GLB_UID_LO) (hhi : off ≠ A.GLB_UID_HI) : resetWord off = BitVec.ofNat 32 (resetFields d.fields) := by
  refine (if_neg hlo).trans ((if_neg hhi).trans ?_)
  simp only [hd, hindex, foldl_resetFields, Nat.zero_add]

/-- Settles O57: a register's table value, field by field, and what the reset state holds. -/
theorem resetLeavesTheTablesValues : Obligations.ResetLeavesTheTablesValues := by
  refine ⟨fun off d hd hindex hlo hhi f hf => ?_, by decide, by decide, by decide, by decide, by decide, by decide, fun d hd => ?_,
    rfl, by decide, fun a => rfl⟩
  · have hfields := regDef_fields hd
    rw [State.fget, State.reg_reset, resetWord_of_table hd hindex hlo hhi, BitVec.toNat_ofNat,
      Nat.mod_eq_of_lt (resetFields_lt hfields)]
    exact bits_resetFields hfields hf
  · cases d with
    | aon => exact absurd rfl hd
    | clk => decide
    | mem => decide
    | ctl => decide
    | hif => decide
    | lnk => decide
    | eng => decide
    | apt => decide

end Sys2Proof.Machine
end
